-- ==== Sys2Proof/Word.lean ====
section
/-! DEFINITION. Words and bytes, the plainest arithmetic on them, and association lists with plain keys. -/

namespace Sys2Proof

/-- A 64-bit register or address (R130). -/
abbrev Word := BitVec 64
/-- One byte of memory. -/
abbrev Byte := BitVec 8
/-- One instruction parcel (R23). -/
abbrev Parcel := BitVec 16

/-- A word from a natural number, modulo 2^64. -/
abbrev Word.ofN (n : Nat) : Word := BitVec.ofNat 64 n

/-- x[n-1:0] sign-extended to 64 bits (R9). -/
def sextN (x : Word) (n : Nat) : Word := (x.setWidth n).signExtend 64
/-- x[n-1:0] zero-extended to 64 bits (R9). -/
def zextN (x : Word) (n : Nat) : Word := (x.setWidth n).setWidth 64

/-- The n low bytes of a value, little-endian (R3). -/
def leBytes : Nat → Nat → List Byte
  | 0, _ => []
  | n + 1, x => BitVec.ofNat 8 x :: leBytes n (x / 256)

/-- A list of key and value pairs; a key that is not listed has the default that its reader names. -/
abbrev AMap (β : Type) := List (Nat × β)

namespace AMap

/-- The value listed under a key. -/
def get? {β : Type} : AMap β → Nat → Option β
  | [], _ => none
  | (j, v) :: rest, k => if j = k then some v else get? rest k

/-- The value under a key, or the given default. -/
def get {β : Type} (m : AMap β) (k : Nat) (d : β) : β := (get? m k).getD d

/-- Sets the value under a key, in place where the key is listed, else at the end. -/
def set {β : Type} : AMap β → Nat → β → AMap β
  | [], k, v => [(k, v)]
  | (j, w) :: rest, k, v => if j = k then (k, v) :: rest else (j, w) :: set rest k v

/-- Removes a key. -/
def del {β : Type} : AMap β → Nat → AMap β
  | [], _ => []
  | (j, w) :: rest, k => if j = k then del rest k else (j, w) :: del rest k

end AMap

end Sys2Proof
end

