-- ==== Sys2Proof/Syntax.lean ====
section
/-! DEFINITION. The instructions of Pelia level 1 and the steps of the device: one constructor of Instr for each row of
spec/opcode_table.json, in the table's order. -/

namespace Sys2Proof

/-- A guard: predicate index GP and its negation GN (R29). -/
structure Guard where
  neg : Bool
  p   : Fin 8
  deriving DecidableEq, Repr

/-- The destination namespace (R32). -/
inductive Dst where
  | v (n : Fin 60)   -- lane register
  | m (k : Fin 4)    -- stream out
  deriving DecidableEq, Repr

/-- The source namespace (R33). -/
inductive Src where
  | v (n : Fin 60)     -- lane register
  | m (k : Fin 4)      -- stream in
  | b (k : Fin 4)      -- bypass latch
  | z | ln | tg | gg   -- zero, lane, thread in group, gang in group
  | xi                 -- the value of the IMX prefix
  | imm (k : Fin 23)   -- the small integer k - 11, from -11 to +11
  | s (n : Fin 32)     -- near uniform
  deriving DecidableEq, Repr

/-- The S field of a 16-bit instruction (R47). -/
inductive CSrc where
  | v (n : Fin 24)
  | b (k : Fin 4)
  | s (n : Fin 4)
  deriving DecidableEq, Repr

/-- The source that the S field of a 16-bit instruction names (R47). -/
def CSrc.toSrc : CSrc → Src
  | .v n => .v ⟨n.1, by omega⟩
  | .b k => .b k
  | .s n => .s ⟨n.1, by omega⟩

/-- The source that a destination register names where an instruction reads D. -/
def Dst.toSrc : Dst → Src
  | .v n => .v n
  | .m k => .m k

/-- Integer compare conditions, C = 0 to 6 (R40). -/
inductive ICond where
  | eq | ne | lt | le | gt | ge | tst
  deriving DecidableEq, Repr

/-- Floating compare conditions, C = 0 to 7 (R40). -/
inductive FCond where
  | eq | ne | lt | le | gt | ge | unord | ord
  deriving DecidableEq, Repr

/-- Scopes of ordering operations (R236). -/
inductive Scope where
  | grp | core | die | dev | sys
  deriving DecidableEq, Repr

/-- A three-operand instruction of the common layout (R26). -/
structure Op3 where
  g : Guard
  w : Bool
  d : Dst
  a : Src
  b : Src
  deriving DecidableEq, Repr

/-- A result-producing XOP function (R46, R50). -/
structure Op2 where
  g : Guard
  w : Bool
  d : Dst
  a : Src
  deriving DecidableEq, Repr

/-- An XOP function with a register in D and a source in A, whose bit [5] is ignored (R27). -/
structure OpX where
  g : Guard
  d : Dst
  a : Src
  deriving DecidableEq, Repr

/-- An XOP function that uses only A. -/
structure OpA where
  g : Guard
  a : Src
  deriving DecidableEq, Repr

/-- An XOP function that uses only D. -/
structure OpD where
  g : Guard
  d : Dst
  deriving DecidableEq, Repr

/-- An XOP function that uses neither D nor A. -/
structure OpG where
  g : Guard
  deriving DecidableEq, Repr

/-- An XOP function with an immediate below k in D and no A. -/
structure OpS (k : Nat) where
  g : Guard
  n : Fin k
  deriving DecidableEq, Repr

/-- An XOP function with an immediate below k in D and a source in A. -/
structure OpI (k : Nat) where
  g : Guard
  n : Fin k
  a : Src
  deriving DecidableEq, Repr

/-- MOVS of a special register id (R139). -/
structure MovsOp where
  g  : Guard
  w  : Bool
  d  : Dst
  id : Fin 14
  deriving DecidableEq, Repr

/-- An integer compare (R40). -/
structure ICmp where
  g : Guard
  c : ICond
  p : Fin 8
  a : Src
  b : Src
  deriving DecidableEq, Repr

/-- A floating compare (R40). -/
structure FCmp where
  g : Guard
  c : FCond
  p : Fin 8
  a : Src
  b : Src
  deriving DecidableEq, Repr

/-- A load or store; na is the hint in bit [5] (R41). -/
structure MemOp where
  g  : Guard
  na : Bool
  d  : Dst
  a  : Src
  b  : Src
  deriving DecidableEq, Repr

/-- LDACQ; pr is the promote bit, wide a width of 64 bits (R42). -/
structure AcqOp where
  g    : Guard
  na   : Bool
  d    : Dst
  a    : Src
  pr   : Bool
  sc   : Scope
  wide : Bool
  deriving DecidableEq, Repr

/-- STREL (R42). -/
structure RelOp where
  g    : Guard
  na   : Bool
  d    : Dst
  a    : Src
  sc   : Scope
  wide : Bool
  deriving DecidableEq, Repr

/-- Scopes of an ATOM (R43). -/
inductive AScope where
  | core | die | dev | sys
  deriving DecidableEq, Repr

/-- An ATOM but HACC; ar is acquire-release (R43). -/
structure AtomOp where
  g    : Guard
  ar   : Bool
  d    : Dst
  a    : Src
  sc   : AScope
  wide : Bool
  deriving DecidableEq, Repr

/-- ATOM HACC (R43). -/
structure HaccOp where
  g  : Guard
  ar : Bool
  d  : Dst
  a  : Src
  deriving DecidableEq, Repr

/-- BR or CALL: u uniformity assertion, h and x hints, off the signed parcel count (R44). -/
structure BrOp where
  g   : Guard
  u   : Bool
  h   : Bool
  x   : Bool
  off : BitVec 18
  deriving DecidableEq, Repr

/-- LOOP; len is the body length minus 1 (R45). -/
structure LoopOp where
  g   : Guard
  a   : Src
  len : Fin 256
  deriving DecidableEq, Repr

/-- A 16-bit instruction between a destination and a source (R47). -/
structure C16 where
  d : Dst
  s : CSrc
  deriving DecidableEq, Repr

/-- A 16-bit instruction with a 5-bit immediate (R47). -/
structure C16I where
  d   : Dst
  imm : BitVec 5
  deriving DecidableEq, Repr

/-- The request an error response belongs to (R77): an outstanding load of a thread, a plain write of a core, or an
access of a peer module or of the host at an address; or every read from now on of a byte with an
uncorrectable soft error, of vaults or GDDR, of a scratchpad, of the own windows of a gang, or of an operand buffer; every access to
a byte of a scratchpad whose bank or path fails (R101), or to a host or peer address that no target holds. -/
inductive ErrReq where
  | load (tk idx : Nat)
  | store (ck idx : Nat)
  | peer (module dpa : Nat)
  | host (dpa : Nat)
  | soft (dpa : Nat)
  | softScratch (uid off : Nat)
  | softOwn (gk off : Nat)
  | softBuffer (uid off : Nat)
  | bank (uid off : Nat)
  | noTarget (dpa : Nat)
  | posted (seq dpa : Nat)
  deriving DecidableEq, Repr

/-- One constructor for each row of the opcode table: the encoded instructions, then the steps of the device.
A core is named by ck = 64 x physical die + core, a thread by tk = 1024 x unit number + tg, a unit by its unit number. -/
inductive Instr where
  /-- IADD (R136). -/
  | iadd (o : Op3)
  /-- ISUB (R136). -/
  | isub (o : Op3)
  /-- IMUL (R136). -/
  | imul (o : Op3)
  /-- IMAC (R136). -/
  | imac (o : Op3)
  /-- IADD_32 (R136). -/
  | iadd32 (o : Op3)
  /-- ISUB_32 (R136). -/
  | isub32 (o : Op3)
  /-- IMUL_32 (R136). -/
  | imul32 (o : Op3)
  /-- IMAC_32 (R136). -/
  | imac32 (o : Op3)
  /-- IMULH_S (R136). -/
  | imulhS (o : Op3)
  /-- IMULH_N (R136). -/
  | imulhN (o : Op3)
  /-- AND (R136). -/
  | andOp (o : Op3)
  /-- OR (R136). -/
  | orOp (o : Op3)
  /-- XOR (R136). -/
  | xorOp (o : Op3)
  /-- ANDN (R136). -/
  | andn (o : Op3)
  /-- SHL (R136). -/
  | shl (o : Op3)
  /-- SHR (R136). -/
  | shr (o : Op3)
  /-- ASR (R136). -/
  | asr (o : Op3)
  /-- LOOP (R281). -/
  | loop (o : LoopOp)
  /-- IMIN_S (R136). -/
  | iminS (o : Op3)
  /-- IMAX_S (R136). -/
  | imaxS (o : Op3)
  /-- IMIN_N (R136). -/
  | iminN (o : Op3)
  /-- IMAX_N (R136). -/
  | imaxN (o : Op3)
  /-- FADD (R167). -/
  | fadd (o : Op3)
  /-- FSUB (R167). -/
  | fsub (o : Op3)
  /-- FMUL (R167). -/
  | fmul (o : Op3)
  /-- FFMA (R167). -/
  | ffma (o : Op3)
  /-- FMIN (R167). -/
  | fmin (o : Op3)
  /-- FMAX (R167). -/
  | fmax (o : Op3)
  /-- DADD (R167). -/
  | dadd (o : Op3)
  /-- DSUB (R167). -/
  | dsub (o : Op3)
  /-- DMUL (R167). -/
  | dmul (o : Op3)
  /-- DFMA (R167). -/
  | dfma (o : Op3)
  /-- DMIN (R167). -/
  | dmin (o : Op3)
  /-- DMAX (R167). -/
  | dmax (o : Op3)
  /-- HADD (R170). -/
  | hadd (o : Op3)
  /-- HMUL (R170). -/
  | hmul (o : Op3)
  /-- HFMA (R170). -/
  | hfma (o : Op3)
  /-- BADD (R170). -/
  | badd (o : Op3)
  /-- BMUL (R170). -/
  | bmul (o : Op3)
  /-- BFMA (R170). -/
  | bfma (o : Op3)
  /-- ICMP_S (R142). -/
  | icmpS (o : ICmp)
  /-- ICMP_N (R142). -/
  | icmpN (o : ICmp)
  /-- FCMP (R171). -/
  | fcmp (o : FCmp)
  /-- DCMP (R171). -/
  | dcmp (o : FCmp)
  /-- SEL (R143). -/
  | sel (o : Op3)
  /-- LD8 (R118). -/
  | ld8 (o : MemOp)
  /-- LD16 (R118). -/
  | ld16 (o : MemOp)
  /-- LD32 (R118). -/
  | ld32 (o : MemOp)
  /-- LD64 (R118). -/
  | ld64 (o : MemOp)
  /-- LD8_S (R118). -/
  | ld8S (o : MemOp)
  /-- LD16_S (R118). -/
  | ld16S (o : MemOp)
  /-- LD32_S (R118). -/
  | ld32S (o : MemOp)
  /-- ST8 (R239). -/
  | st8 (o : MemOp)
  /-- ST16 (R239). -/
  | st16 (o : MemOp)
  /-- ST32 (R239). -/
  | st32 (o : MemOp)
  /-- ST64 (R239). -/
  | st64 (o : MemOp)
  /-- LDACQ (R241). -/
  | ldacq (o : AcqOp)
  /-- STREL (R242). -/
  | strel (o : RelOp)
  /-- ATOM_ADD (R245). -/
  | atomAdd (o : AtomOp)
  /-- ATOM_AND (R245). -/
  | atomAnd (o : AtomOp)
  /-- ATOM_OR (R245). -/
  | atomOr (o : AtomOp)
  /-- ATOM_XOR (R245). -/
  | atomXor (o : AtomOp)
  /-- ATOM_MIN_S (R245). -/
  | atomMinS (o : AtomOp)
  /-- ATOM_MAX_S (R245). -/
  | atomMaxS (o : AtomOp)
  /-- ATOM_MIN_N (R245). -/
  | atomMinN (o : AtomOp)
  /-- ATOM_MAX_N (R245). -/
  | atomMaxN (o : AtomOp)
  /-- ATOM_XCHG (R245). -/
  | atomXchg (o : AtomOp)
  /-- ATOM_CAS (R246). -/
  | atomCas (o : AtomOp)
  /-- ATOM_FADD (R245). -/
  | atomFadd (o : AtomOp)
  /-- ATOM_INCW (R245). -/
  | atomIncw (o : AtomOp)
  /-- ATOM_CAS_PROMOTE (R246). -/
  | atomCasPromote (o : AtomOp)
  /-- ATOM_HACC (R248). -/
  | atomHacc (o : HaccOp)
  /-- BR (R271). -/
  | br (o : BrOp)
  /-- CALL (R272). -/
  | call (o : BrOp)
  /-- IMX (R38). -/
  | imx (o : BitVec 25)
  /-- ILL (R51). -/
  | ill
  /-- ILL_PARCEL (R48). -/
  | illParcel
  /-- MOV (R138). -/
  | mov (o : Op2)
  /-- NOT (R138). -/
  | notOp (o : Op2)
  /-- NEG (R138). -/
  | negOp (o : Op2)
  /-- ABS (R138). -/
  | absOp (o : Op2)
  /-- POPC (R138). -/
  | popc (o : Op2)
  /-- CLZ (R138). -/
  | clz (o : Op2)
  /-- CTZ (R138). -/
  | ctz (o : Op2)
  /-- BREV (R138). -/
  | brev (o : Op2)
  /-- BSWAP (R138). -/
  | bswap (o : Op2)
  /-- SX8 (R138). -/
  | sx8 (o : Op2)
  /-- SX16 (R138). -/
  | sx16 (o : Op2)
  /-- SX32 (R138). -/
  | sx32 (o : Op2)
  /-- ZX8 (R138). -/
  | zx8 (o : Op2)
  /-- ZX16 (R138). -/
  | zx16 (o : Op2)
  /-- ZX32 (R138). -/
  | zx32 (o : Op2)
  /-- MOVS (R139). -/
  | movs (o : MovsOp)
  /-- URD (R140). -/
  | urd (o : Op2)
  /-- UWR (R140). -/
  | uwr (o : OpX)
  /-- FNEG (R172). -/
  | fneg (o : Op2)
  /-- FABS (R172). -/
  | fabs (o : Op2)
  /-- DNEG (R172). -/
  | dneg (o : Op2)
  /-- DABS (R172). -/
  | dabs (o : Op2)
  /-- FRCP (R173). -/
  | frcp (o : Op2)
  /-- FRSQ (R173). -/
  | frsq (o : Op2)
  /-- FSQRT (R173). -/
  | fsqrt (o : Op2)
  /-- FEX2 (R173). -/
  | fex2 (o : Op2)
  /-- FLG2 (R173). -/
  | flg2 (o : Op2)
  /-- DRCP (R173). -/
  | drcp (o : Op2)
  /-- DSQRT (R173). -/
  | dsqrt (o : Op2)
  /-- DRSQ (R173). -/
  | drsq (o : Op2)
  /-- FSCALE (R175). -/
  | fscale (o : Op2)
  /-- DSCALE (R175). -/
  | dscale (o : Op2)
  /-- FXPN (R176). -/
  | fxpn (o : Op2)
  /-- DXPN (R176). -/
  | dxpn (o : Op2)
  /-- EX2S (R177). -/
  | ex2s (o : Op2)
  /-- FRINT_RN (R178). -/
  | frintRn (o : Op2)
  /-- FRINT_RZ (R178). -/
  | frintRz (o : Op2)
  /-- FRINT_RM (R178). -/
  | frintRm (o : Op2)
  /-- FRINT_RP (R178). -/
  | frintRp (o : Op2)
  /-- DRINT_RN (R178). -/
  | drintRn (o : Op2)
  /-- DRINT_RZ (R178). -/
  | drintRz (o : Op2)
  /-- DRINT_RM (R178). -/
  | drintRm (o : Op2)
  /-- DRINT_RP (R178). -/
  | drintRp (o : Op2)
  /-- CVT_F64_F32 (R179). -/
  | cvtF64F32 (o : Op2)
  /-- CVT_F32_F64 (R179). -/
  | cvtF32F64 (o : Op2)
  /-- CVT_F16_F32 (R179). -/
  | cvtF16F32 (o : Op2)
  /-- CVT_BF16_F32 (R179). -/
  | cvtBf16F32 (o : Op2)
  /-- CVT_F32_F16 (R179). -/
  | cvtF32F16 (o : Op2)
  /-- CVT_F32_BF16 (R179). -/
  | cvtF32Bf16 (o : Op2)
  /-- CVT_F32_S64 (R179). -/
  | cvtF32S64 (o : Op2)
  /-- CVT_F32_N64 (R179). -/
  | cvtF32N64 (o : Op2)
  /-- CVT_F64_S64 (R179). -/
  | cvtF64S64 (o : Op2)
  /-- CVT_F64_N64 (R179). -/
  | cvtF64N64 (o : Op2)
  /-- CVT_S32_F32 (R180). -/
  | cvtS32F32 (o : Op2)
  /-- CVT_N32_F32 (R180). -/
  | cvtN32F32 (o : Op2)
  /-- CVT_S64_F32 (R180). -/
  | cvtS64F32 (o : Op2)
  /-- CVT_N64_F32 (R180). -/
  | cvtN64F32 (o : Op2)
  /-- CVT_S32_F64 (R180). -/
  | cvtS32F64 (o : Op2)
  /-- CVT_N32_F64 (R180). -/
  | cvtN32F64 (o : Op2)
  /-- CVT_S64_F64 (R180). -/
  | cvtS64F64 (o : Op2)
  /-- CVT_N64_F64 (R180). -/
  | cvtN64F64 (o : Op2)
  /-- ELECT (R188). -/
  | elect (o : OpD)
  /-- VANY (R188). -/
  | vany (o : OpX)
  /-- VALL (R188). -/
  | vall (o : OpX)
  /-- VBAL (R188). -/
  | vbal (o : OpX)
  /-- SHFI (R188). -/
  | shfi (o : OpX)
  /-- SHFA (R188). -/
  | shfa (o : OpX)
  /-- SHFB (R188). -/
  | shfb (o : OpX)
  /-- SHFX (R188). -/
  | shfx (o : OpX)
  /-- RADD (R188). -/
  | radd (o : OpX)
  /-- RMIN_S (R188). -/
  | rminS (o : OpX)
  /-- RMAX_S (R188). -/
  | rmaxS (o : OpX)
  /-- RFADD (R188). -/
  | rfadd (o : OpX)
  /-- RDADD (R188). -/
  | rdadd (o : OpX)
  /-- SCAN (R188). -/
  | scan (o : OpX)
  /-- MATCH (R188). -/
  | matchOp (o : OpX)
  /-- GPART (R190). -/
  | gpart (o : OpA)
  /-- NOP (R291). -/
  | nop (o : OpG)
  /-- EXIT (R288). -/
  | exit (o : OpA)
  /-- BRK (R290). -/
  | brk (o : OpG)
  /-- TRAP (R290). -/
  | trap (o : OpA)
  /-- YIELD (R291). -/
  | yield (o : OpG)
  /-- RGN (R285). -/
  | rgn (o : OpG)
  /-- BND (R251). -/
  | bnd (o : OpG)
  /-- FENCE_GRP (R250). -/
  | fenceGrp (o : OpG)
  /-- FENCE_CORE (R250). -/
  | fenceCore (o : OpG)
  /-- FENCE_DIE (R250). -/
  | fenceDie (o : OpG)
  /-- FENCE_DEV (R250). -/
  | fenceDev (o : OpG)
  /-- FENCE_SYS (R250). -/
  | fenceSys (o : OpG)
  /-- OFENCE (R213). -/
  | ofence (o : OpG)
  /-- BAR_ARR (R192). -/
  | barArr (o : OpS 16)
  /-- BAR_WAIT (R192). -/
  | barWait (o : OpS 16)
  /-- BAR_SYNC (R192). -/
  | barSync (o : OpS 16)
  /-- BAR_INIT (R192). -/
  | barInit (o : OpI 16)
  /-- WAIT (R104). -/
  | wait (o : OpX)
  /-- CPY (R96). -/
  | cpy (o : OpI 8)
  /-- GATH (R96). -/
  | gath (o : OpI 8)
  /-- MXL (R214). -/
  | mxl (o : OpX)
  /-- ORES (R200). -/
  | ores (o : OpX)
  /-- ORLS (R201). -/
  | orls (o : OpA)
  /-- STRM (R125). -/
  | strm (o : OpI 4)
  /-- JMPI (R273). -/
  | jmpi (o : OpA)
  /-- CALLI (R273). -/
  | calli (o : OpA)
  /-- RET (R273). -/
  | ret (o : OpG)
  /-- ICINV (R292). -/
  | icinv (o : OpX)
  /-- LAUNCH (R329). -/
  | launch (o : OpX)
  /-- CANCEL (R330). -/
  | cancel (o : OpI 5)
  /-- SPEC_COMMIT (R333). -/
  | specCommit (o : OpA)
  /-- SPEC_DISCARD (R333). -/
  | specDiscard (o : OpA)
  /-- DBG_HALT (R349). -/
  | dbgHalt (o : OpA)
  /-- DBG_RESUME (R349). -/
  | dbgResume (o : OpA)
  /-- DBG_STEP (R349). -/
  | dbgStep (o : OpA)
  /-- DBG_SETMASK (R349). -/
  | dbgSetmask (o : OpA)
  /-- DBG_WSET (R349). -/
  | dbgWset (o : OpA)
  /-- DBG_WCLR (R349). -/
  | dbgWclr (o : OpA)
  /-- DBG_STATUS (R352). -/
  | dbgStatus (o : OpA)
  /-- DBG_READREG (R352). -/
  | dbgReadreg (o : OpA)
  /-- DBG_BPSET (R349). -/
  | dbgBpset (o : OpA)
  /-- DBG_BPCLR (R349). -/
  | dbgBpclr (o : OpA)
  /-- MOV_COMPACT (R47). -/
  | movCompact (o : C16)
  /-- IADD_COMPACT (R47). -/
  | iaddCompact (o : C16)
  /-- ISUB_COMPACT (R47). -/
  | isubCompact (o : C16)
  /-- IADD_32_COMPACT (R47). -/
  | iadd32Compact (o : C16)
  /-- IADDI (R47). -/
  | iaddi (o : C16I)
  /-- AND_COMPACT (R47). -/
  | andCompact (o : C16)
  /-- OR_COMPACT (R47). -/
  | orCompact (o : C16)
  /-- XOR_COMPACT (R47). -/
  | xorCompact (o : C16)
  /-- SHLI (R47). -/
  | shli (o : C16I)
  /-- SHRI (R47). -/
  | shri (o : C16I)
  /-- FADD_COMPACT (R181). -/
  | faddCompact (o : C16)
  /-- FSUB_COMPACT (R181). -/
  | fsubCompact (o : C16)
  /-- FMUL_COMPACT (R181). -/
  | fmulCompact (o : C16)
  /-- FMAX_COMPACT (R181). -/
  | fmaxCompact (o : C16)
  /-- DADD_COMPACT (R181). -/
  | daddCompact (o : C16)
  /-- DMUL_COMPACT (R181). -/
  | dmulCompact (o : C16)
  /-- CENSUS_ROUND (R300). -/
  | censusRound (ck : Nat) (a : Nat)
  /-- GANG_SEAT (R295). -/
  | gangSeat (ck : Nat) (a : Nat)
  /-- GANG_UNSEAT (R295). -/
  | gangUnseat (ck : Nat) (a : Nat) (seat : Nat)
  /-- QUANTUM_DUE (R295). -/
  | quantumDue (ck : Nat) (a : Nat) (seat : Nat)
  /-- YIELD_HOLD_END (R291). -/
  | yieldHoldEnd (tk : Nat)
  /-- DEPRIORITISATION_END (R277). -/
  | deprioritisationEnd (tk : Nat)
  /-- PREFETCH_FILL (R308). -/
  | prefetchFill (tk : Nat)
  /-- PARK_CONDITION_HOLDS (R9). -/
  | parkConditionHolds (tk : Nat)
  /-- LOAD_REPLY (R118). -/
  | loadReply (tk : Nat) (idx : Nat)
  /-- STORE_PERFORM (R255). -/
  | storePerform (ck : Nat) (idx : Nat)
  /-- COLLECTOR_SEND (R115). -/
  | collectorSend (ck : Nat) (idx : Nat)
  /-- ERROR_RESPONSE (R77). -/
  | errorResponse (rq : ErrReq) (cause : Nat)
  /-- WAIT_RECHECK (R104). -/
  | waitRecheck (tk : Nat)
  /-- STREAM_PREFETCH (R128). -/
  | streamPrefetch (tk : Nat) (port : Nat)
  /-- STREAM_OUT_DRAIN (R128). -/
  | streamOutDrain (tk : Nat) (port : Nat)
  /-- ENGINE_QUEUE_ACCEPT (R81). -/
  | engineQueueAccept (ck : Nat) (ch : Nat)
  /-- COPY_ROW_TRANSFER (R84). -/
  | copyRowTransfer (ck : Nat) (op : Nat) (row : Nat)
  /-- GATHER_ELEMENT (R89). -/
  | gatherElement (ck : Nat) (op : Nat) (el : Nat)
  /-- PROBE_PASS (R102). -/
  | probePass (ck : Nat) (op : Nat)
  /-- ENGINE_OP_END (R95). -/
  | engineOpEnd (ck : Nat) (op : Nat)
  /-- WATCHDOG_TIMEOUT (R103). -/
  | watchdogTimeout (ck : Nat) (op : Nat)
  /-- MATRIX_QUEUE_ACCEPT (R214). -/
  | matrixQueueAccept (ck : Nat)
  /-- JOB_ENTER_CONTEXT (R211). -/
  | jobEnterContext (ck : Nat)
  /-- BLOCK_STEP (R209). -/
  | blockStep (ck : Nat)
  /-- JOB_END (R217). -/
  | jobEnd (ck : Nat) (job : Nat)
  /-- HANDLE_RETURN (R201). -/
  | handleReturn (uid : Nat) (h : Nat)
  /-- ALLOCATION_RELEASE (R201). -/
  | allocationRelease (uid : Nat)
  /-- FQ_REPLY_RESOLVE (R75). -/
  | fqReplyResolve (token : Nat)
  /-- FQ_REPLY_REFUSE (R75). -/
  | fqReplyRefuse (token : Nat)
  /-- FQ_LIMIT_EXPIRY (R75). -/
  | fqLimitExpiry (token : Nat)
  /-- FQ_TAIL_WRITE (R72). -/
  | fqTailWrite (v : Word)
  /-- FQ_BASE_WRITE (R72). -/
  | fqBaseWrite (v : Word)
  /-- FQ_SIZE_WRITE (R72). -/
  | fqSizeWrite (v : Word)
  /-- XINV_START (R73). -/
  | xinvStart (v : Word)
  /-- XINV_DONE (R73). -/
  | xinvDone
  /-- SLICE_SIZE_CHANGE (R65). -/
  | sliceSizeChange (bdie : Nat) (size : Nat)
  /-- CH_TAIL_WRITE (R316). -/
  | chTailWrite (n : Nat) (v : Word)
  /-- CH_CTL_RESTART (R316). -/
  | chCtlRestart (n : Nat) (v : Word)
  /-- JOB_ENTRY (R318). -/
  | jobEntry (n : Nat)
  /-- GRAPH_ENTRY (R318). -/
  | graphEntry (n : Nat)
  /-- LAUNCH_ENTRY (R318). -/
  | launchEntry (n : Nat)
  /-- PHASE_ENTRY (R318). -/
  | phaseEntry (n : Nat)
  /-- WAITC_ENTRY (R318). -/
  | waitcEntry (n : Nat)
  /-- END_ENTRY (R318). -/
  | endEntry (n : Nat)
  /-- SPEC_ENTRY_COMMIT (R318). -/
  | specEntryCommit (n : Nat)
  /-- SPEC_ENTRY_DISCARD (R318). -/
  | specEntryDiscard (n : Nat)
  /-- CHAIN_ENTRY_RETIRE (R318). -/
  | chainEntryRetire (n : Nat)
  /-- UNIT_START (R324). -/
  | unitStart (lid : Nat) (idx : Nat)
  /-- LEVEL_COMPLETE (R313). -/
  | levelComplete (level : Nat) (id : Nat)
  /-- PREEMPTION (R344). -/
  | preemption (uid : Nat)
  /-- RESUMPTION (R346). -/
  | resumption (uid : Nat)
  /-- HOST_APERTURE_WRITE (R262). -/
  | hostApertureWrite (off : Nat) (bytes : (List Byte))
  /-- HOST_APERTURE_READ (R262). -/
  | hostApertureRead (off : Nat) (len : Nat)
  /-- FLIT_RECEIVE (R370). -/
  | flitReceive (port : Nat) (flit : (List Byte))
  /-- LINK_ACK_TIMEOUT (R370). -/
  | linkAckTimeout (port : Nat)
  /-- LINK_TRAINING_DONE (R370). -/
  | linkTrainingDone (port : Nat) (lanes : Nat) (peer : Nat)
  /-- LINK_TAKE_DOWN (R359). -/
  | linkTakeDown (port : Nat)
  /-- LINK_ALLOW_TRAIN (R359). -/
  | linkAllowTrain (port : Nat)
  /-- ROUTE_WRITE (R359). -/
  | routeWrite (m : Nat) (v : Word)
  /-- EP_EVENT_CLEAR (R359). -/
  | epEventClear (v : Word)
  /-- ISLAND_RESET (R365). -/
  | islandReset (v : Word)
  /-- MGMT_RESET_COMPUTE_DIE (R363). -/
  | mgmtResetComputeDie (v : Word)
  /-- MGMT_RESET_BASE_DIE (R363). -/
  | mgmtResetBaseDie (v : Word)
  /-- MGMT_RESET_HUB (R363). -/
  | mgmtResetHub (v : Word)
  /-- RESET_SEQUENCE_COMPLETE (R363). -/
  | resetSequenceComplete
  /-- DMAP_WRITE (R367). -/
  | dmapWrite (v : Word)
  /-- DIE_HEARTBEAT_MISS (R368). -/
  | dieHeartbeatMiss (p : Nat)
  /-- DIE_INTERNAL_ERROR (R368). -/
  | dieInternalError (p : Nat)
  /-- SPARE_SELF_TEST_DONE (R368). -/
  | spareSelfTestDone (ok : Bool)
  /-- LOST_UNIT_RERUN (R366). -/
  | lostUnitRerun (uid : Nat)
  /-- APER_BASE_WRITE (R372). -/
  | aperBaseWrite (v : Word)
  /-- PWR_CL_WRITE (R376). -/
  | pwrClWrite (n : Nat) (v : Word)
  /-- RATIO_CHANGE_COMPLETE (R376). -/
  | ratioChangeComplete (n : Nat)
  /-- POWER_LIMIT_STEP (R376). -/
  | powerLimitStep (n : Nat) (step : Nat)
  /-- DROOP_DETECT (R377). -/
  | droopDetect (n : Nat)
  /-- DROOP_RECOVER (R377). -/
  | droopRecover (n : Nat)
  /-- HOLD_START (R378). -/
  | holdStart (n : Nat)
  /-- HOLD_END (R378). -/
  | holdEnd (n : Nat)
  /-- TMR_ALIGN (R379). -/
  | tmrAlign (forward : Nat)
  /-- POWER_ON_RESET (R379). -/
  | powerOnReset
  /-- MONITOR_SAMPLE (R380). -/
  | monitorSample (i : Nat) (sample : Nat)
  /-- MONITOR_CLR (R380). -/
  | monitorClr (i : Nat)
  /-- ERROR_LOG_CLEAR (R374). -/
  | errorLogClear (ck : Nat)
  /-- MANAGEMENT_LOG_CLEAR (R385). -/
  | managementLogClear
  /-- ATTEST (R383). -/
  | attest (len : Nat) (tag : Nat)
  /-- LOAD_IMAGE (R384). -/
  | loadImage (len : Nat) (tag : Nat)
  /-- READ_MEAS (R384). -/
  | readMeas (len : Nat) (tag : Nat)
  /-- MAILBOX_COMPLETION (R384). -/
  | mailboxCompletion
  /-- BAR0_BAD_ACCESS (R373). -/
  | bar0BadAccess (off : Nat)
  /-- REGISTER_WRITE (R373). -/
  | registerWrite (off : Nat) (len : Nat) (v : Word)
  /-- CANCELLATION_TAKES_EFFECT (R330). -/
  | cancellationTakesEffect (idx : Nat)
  /-- SEQUENCER_COUNTER_REREAD (R318). -/
  | sequencerCounterReread (idx : Nat)
  /-- ZERO_LENGTH_READ_COMPLETION (R259). -/
  | zeroLengthReadCompletion
  /-- BAR2_RESIZE (R372). -/
  | bar2Resize (size : Nat)
  /-- UNKNOWN_COMMAND_CODE (R384). -/
  | unknownCommandCode (code : Nat) (tag : Nat)
  deriving DecidableEq, Repr

end Sys2Proof
end

