-- ==== Sys2Proof/WellFormed.lean ====
section
/-! DEFINITION. Which instructions the encodings of the spec allow without a decode failure that the word alone decides (R51). -/

namespace Sys2Proof

/-- No small-immediate code in the A position (R33, R51). -/
def Src.okA : Src → Bool
  | .imm _ => false
  | _ => true

/-- No stream port in D (R36). -/
def Dst.noPort : Dst → Bool
  | .m _ => false
  | .v _ => true

/-- An even register pair D, D+1 below v60 (R35, R37). -/
def Dst.evenPair : Dst → Bool
  | .v n => n.1 % 2 = 0
  | .m _ => false

/-- A pair D, D+1 below v60 (R35). -/
def Dst.pair : Dst → Bool
  | .v n => n.1 < 59
  | .m _ => false

/-- Whether the instruction's word passes every decode check that depends on the word alone: the small-immediate code in
A, the ports of R36, the pairs of R37; and that the 16-bit parcel is not 0x0000 (R48). The checks that depend on the
role's register count and on IMX prefixes are made when the instruction issues. The words of MAJ 0x00 and parcel 0x0000
are never well formed, and a step of the device has no word. -/
def WellFormed : Instr → Bool
  | .iadd o => o.a.okA
  | .isub o => o.a.okA
  | .imul o => o.a.okA
  | .imac o => o.a.okA && o.d.noPort
  | .iadd32 o => o.a.okA
  | .isub32 o => o.a.okA
  | .imul32 o => o.a.okA
  | .imac32 o => o.a.okA && o.d.noPort
  | .imulhS o => o.a.okA
  | .imulhN o => o.a.okA
  | .andOp o => o.a.okA
  | .orOp o => o.a.okA
  | .xorOp o => o.a.okA
  | .andn o => o.a.okA
  | .shl o => o.a.okA
  | .shr o => o.a.okA
  | .asr o => o.a.okA
  | .loop o => o.a.okA
  | .iminS o => o.a.okA
  | .imaxS o => o.a.okA
  | .iminN o => o.a.okA
  | .imaxN o => o.a.okA
  | .fadd o => o.a.okA
  | .fsub o => o.a.okA
  | .fmul o => o.a.okA
  | .ffma o => o.a.okA && o.d.noPort
  | .fmin o => o.a.okA
  | .fmax o => o.a.okA
  | .dadd o => o.a.okA
  | .dsub o => o.a.okA
  | .dmul o => o.a.okA
  | .dfma o => o.a.okA && o.d.noPort
  | .dmin o => o.a.okA
  | .dmax o => o.a.okA
  | .hadd o => o.a.okA
  | .hmul o => o.a.okA
  | .hfma o => o.a.okA && o.d.noPort
  | .badd o => o.a.okA
  | .bmul o => o.a.okA
  | .bfma o => o.a.okA && o.d.noPort
  | .icmpS o => o.a.okA
  | .icmpN o => o.a.okA
  | .fcmp o => o.a.okA
  | .dcmp o => o.a.okA
  | .sel o => o.a.okA
  | .ld8 o => o.a.okA && o.d.noPort
  | .ld16 o => o.a.okA && o.d.noPort
  | .ld32 o => o.a.okA && o.d.noPort
  | .ld64 o => o.a.okA && o.d.noPort
  | .ld8S o => o.a.okA && o.d.noPort
  | .ld16S o => o.a.okA && o.d.noPort
  | .ld32S o => o.a.okA && o.d.noPort
  | .st8 o => o.a.okA && o.d.noPort
  | .st16 o => o.a.okA && o.d.noPort
  | .st32 o => o.a.okA && o.d.noPort
  | .st64 o => o.a.okA && o.d.noPort
  | .ldacq o => o.a.okA && o.d.noPort
  | .strel o => o.a.okA && o.d.noPort
  | .atomAdd o => o.a.okA && o.d.noPort
  | .atomAnd o => o.a.okA && o.d.noPort
  | .atomOr o => o.a.okA && o.d.noPort
  | .atomXor o => o.a.okA && o.d.noPort
  | .atomMinS o => o.a.okA && o.d.noPort
  | .atomMaxS o => o.a.okA && o.d.noPort
  | .atomMinN o => o.a.okA && o.d.noPort
  | .atomMaxN o => o.a.okA && o.d.noPort
  | .atomXchg o => o.a.okA && o.d.noPort
  | .atomCas o => o.a.okA && o.d.evenPair
  | .atomFadd o => o.a.okA && o.d.noPort
  | .atomIncw o => o.a.okA && o.d.noPort
  | .atomCasPromote o => o.a.okA && o.d.evenPair
  | .atomHacc o => o.a.okA && o.d.evenPair
  | .br _ => true
  | .call _ => true
  | .imx _ => true
  | .ill => false
  | .illParcel => false
  | .mov o => o.a.okA
  | .notOp o => o.a.okA
  | .negOp o => o.a.okA
  | .absOp o => o.a.okA
  | .popc o => o.a.okA
  | .clz o => o.a.okA
  | .ctz o => o.a.okA
  | .brev o => o.a.okA
  | .bswap o => o.a.okA
  | .sx8 o => o.a.okA
  | .sx16 o => o.a.okA
  | .sx32 o => o.a.okA
  | .zx8 o => o.a.okA
  | .zx16 o => o.a.okA
  | .zx32 o => o.a.okA
  | .movs _ => true
  | .urd o => o.a.okA
  | .uwr o => o.a.okA && o.d.noPort
  | .fneg o => o.a.okA
  | .fabs o => o.a.okA
  | .dneg o => o.a.okA
  | .dabs o => o.a.okA
  | .frcp o => o.a.okA
  | .frsq o => o.a.okA
  | .fsqrt o => o.a.okA
  | .fex2 o => o.a.okA
  | .flg2 o => o.a.okA
  | .drcp o => o.a.okA
  | .dsqrt o => o.a.okA
  | .drsq o => o.a.okA
  | .fscale o => o.a.okA && o.d.noPort
  | .dscale o => o.a.okA && o.d.noPort
  | .fxpn o => o.a.okA
  | .dxpn o => o.a.okA
  | .ex2s o => o.a.okA && (o.w || o.d.pair)
  | .frintRn o => o.a.okA
  | .frintRz o => o.a.okA
  | .frintRm o => o.a.okA
  | .frintRp o => o.a.okA
  | .drintRn o => o.a.okA
  | .drintRz o => o.a.okA
  | .drintRm o => o.a.okA
  | .drintRp o => o.a.okA
  | .cvtF64F32 o => o.a.okA
  | .cvtF32F64 o => o.a.okA
  | .cvtF16F32 o => o.a.okA
  | .cvtBf16F32 o => o.a.okA
  | .cvtF32F16 o => o.a.okA
  | .cvtF32Bf16 o => o.a.okA
  | .cvtF32S64 o => o.a.okA
  | .cvtF32N64 o => o.a.okA
  | .cvtF64S64 o => o.a.okA
  | .cvtF64N64 o => o.a.okA
  | .cvtS32F32 o => o.a.okA
  | .cvtN32F32 o => o.a.okA
  | .cvtS64F32 o => o.a.okA
  | .cvtN64F32 o => o.a.okA
  | .cvtS32F64 o => o.a.okA
  | .cvtN32F64 o => o.a.okA
  | .cvtS64F64 o => o.a.okA
  | .cvtN64F64 o => o.a.okA
  | .elect _ => true
  | .vany o => o.a.okA
  | .vall o => o.a.okA
  | .vbal o => o.a.okA
  | .shfi o => o.a.okA && o.d.noPort
  | .shfa o => o.a.okA && o.d.noPort
  | .shfb o => o.a.okA && o.d.noPort
  | .shfx o => o.a.okA && o.d.noPort
  | .radd o => o.a.okA
  | .rminS o => o.a.okA
  | .rmaxS o => o.a.okA
  | .rfadd o => o.a.okA
  | .rdadd o => o.a.okA
  | .scan o => o.a.okA
  | .matchOp o => o.a.okA
  | .gpart o => o.a.okA
  | .nop _ => true
  | .exit o => o.a.okA
  | .brk _ => true
  | .trap o => o.a.okA
  | .yield _ => true
  | .rgn _ => true
  | .bnd _ => true
  | .fenceGrp _ => true
  | .fenceCore _ => true
  | .fenceDie _ => true
  | .fenceDev _ => true
  | .fenceSys _ => true
  | .ofence _ => true
  | .barArr _ => true
  | .barWait _ => true
  | .barSync _ => true
  | .barInit o => o.a.okA
  | .wait o => o.a.okA && o.d.noPort
  | .cpy o => o.a.okA
  | .gath o => o.a.okA
  | .mxl o => o.a.okA
  | .ores o => o.a.okA
  | .orls o => o.a.okA
  | .strm o => o.a.okA
  | .jmpi o => o.a.okA
  | .calli o => o.a.okA
  | .ret _ => true
  | .icinv o => o.a.okA && o.d.noPort
  | .launch o => o.a.okA
  | .cancel o => o.a.okA
  | .specCommit o => o.a.okA
  | .specDiscard o => o.a.okA
  | .dbgHalt o => o.a.okA
  | .dbgResume o => o.a.okA
  | .dbgStep o => o.a.okA
  | .dbgSetmask o => o.a.okA
  | .dbgWset o => o.a.okA
  | .dbgWclr o => o.a.okA
  | .dbgStatus o => o.a.okA
  | .dbgReadreg o => o.a.okA
  | .dbgBpset o => o.a.okA
  | .dbgBpclr o => o.a.okA
  | .movCompact o => o.d != .v 0 || o.s != .v 0
  | .iaddCompact o => o.d.noPort
  | .isubCompact o => o.d.noPort
  | .iadd32Compact o => o.d.noPort
  | .iaddi o => o.d.noPort
  | .andCompact o => o.d.noPort
  | .orCompact o => o.d.noPort
  | .xorCompact o => o.d.noPort
  | .shli o => o.d.noPort
  | .shri o => o.d.noPort
  | .faddCompact o => o.d.noPort
  | .fsubCompact o => o.d.noPort
  | .fmulCompact o => o.d.noPort
  | .fmaxCompact o => o.d.noPort
  | .daddCompact o => o.d.noPort
  | .dmulCompact o => o.d.noPort
  | .censusRound _ _ => false
  | .gangSeat _ _ => false
  | .gangUnseat _ _ _ => false
  | .quantumDue _ _ _ => false
  | .yieldHoldEnd _ => false
  | .deprioritisationEnd _ => false
  | .prefetchFill _ => false
  | .parkConditionHolds _ => false
  | .loadReply _ _ => false
  | .storePerform _ _ => false
  | .collectorSend _ _ => false
  | .errorResponse _ _ => false
  | .waitRecheck _ => false
  | .streamPrefetch _ _ => false
  | .streamOutDrain _ _ => false
  | .engineQueueAccept _ _ => false
  | .copyRowTransfer _ _ _ => false
  | .gatherElement _ _ _ => false
  | .probePass _ _ => false
  | .engineOpEnd _ _ => false
  | .watchdogTimeout _ _ => false
  | .matrixQueueAccept _ => false
  | .jobEnterContext _ => false
  | .blockStep _ => false
  | .jobEnd _ _ => false
  | .handleReturn _ _ => false
  | .allocationRelease _ => false
  | .fqReplyResolve _ => false
  | .fqReplyRefuse _ => false
  | .fqLimitExpiry _ => false
  | .fqTailWrite _ => false
  | .fqBaseWrite _ => false
  | .fqSizeWrite _ => false
  | .xinvStart _ => false
  | .xinvDone => false
  | .sliceSizeChange _ _ => false
  | .chTailWrite _ _ => false
  | .chCtlRestart _ _ => false
  | .jobEntry _ => false
  | .graphEntry _ => false
  | .launchEntry _ => false
  | .phaseEntry _ => false
  | .waitcEntry _ => false
  | .endEntry _ => false
  | .specEntryCommit _ => false
  | .specEntryDiscard _ => false
  | .chainEntryRetire _ => false
  | .unitStart _ _ => false
  | .levelComplete _ _ => false
  | .preemption _ => false
  | .resumption _ => false
  | .hostApertureWrite _ _ => false
  | .hostApertureRead _ _ => false
  | .flitReceive _ _ => false
  | .linkAckTimeout _ => false
  | .linkTrainingDone _ _ _ => false
  | .linkTakeDown _ => false
  | .linkAllowTrain _ => false
  | .routeWrite _ _ => false
  | .epEventClear _ => false
  | .islandReset _ => false
  | .mgmtResetComputeDie _ => false
  | .mgmtResetBaseDie _ => false
  | .mgmtResetHub _ => false
  | .resetSequenceComplete => false
  | .dmapWrite _ => false
  | .dieHeartbeatMiss _ => false
  | .dieInternalError _ => false
  | .spareSelfTestDone _ => false
  | .lostUnitRerun _ => false
  | .aperBaseWrite _ => false
  | .pwrClWrite _ _ => false
  | .ratioChangeComplete _ => false
  | .powerLimitStep _ _ => false
  | .droopDetect _ => false
  | .droopRecover _ => false
  | .holdStart _ => false
  | .holdEnd _ => false
  | .tmrAlign _ => false
  | .powerOnReset => false
  | .monitorSample _ _ => false
  | .monitorClr _ => false
  | .errorLogClear _ => false
  | .managementLogClear => false
  | .attest _ _ => false
  | .loadImage _ _ => false
  | .readMeas _ _ => false
  | .mailboxCompletion => false
  | .bar0BadAccess _ => false
  | .registerWrite _ _ _ => false
  | .cancellationTakesEffect _ => false
  | .sequencerCounterReread _ => false
  | .zeroLengthReadCompletion => false
  | .bar2Resize _ => false
  | .unknownCommandCode _ _ => false

end Sys2Proof
end

