-- ==== Sys2Proof/Decode.lean ====
section
/-! DEFINITION. The decoder, total on any bytes, and the encoder, both from the encoding tables of the spec
(02_instruction_words.md). -/

namespace Sys2Proof

/-- Why a word is no instruction; every one of them raises ILL (R51). short is no encoding at all: the bytes end before
the instruction does. -/
inductive DecodeError where
  | short           -- fewer parcels than the instruction's length
  | xopFunction     -- XOP FN 0x0F or 0x4B to 0x4F
  | compareCode     -- ICMP.s or ICMP.n with C = 7
  | loopReserved    -- LOOP with [5] or [29:25] nonzero
  | acquireCode     -- LDACQ or STREL code that R42 does not define
  | atomCode        -- ATOM code that R43 does not define
  | xopImmediate    -- XOP immediate D beyond its range
  | xopUnused       -- XOP D or A nonzero where the function uses none
  deriving DecidableEq, Repr

/-- The destination a 6-bit field names (R32). -/
def Dst.ofBits (x : BitVec 6) : Dst :=
  if h : x.toNat < 60 then .v ⟨x.toNat, h⟩ else .m ⟨x.toNat - 60, by have := x.isLt; omega⟩

/-- The 6-bit field of a destination. -/
def Dst.toBits : Dst → BitVec 6
  | .v n => BitVec.ofNat 6 n.1
  | .m k => BitVec.ofNat 6 (60 + k.1)

/-- The source a 7-bit field names (R33). -/
def Src.ofBits (x : BitVec 7) : Src :=
  let n := x.toNat
  if h : n < 60 then .v ⟨n, h⟩
  else if h : n < 64 then .m ⟨n - 60, by omega⟩
  else if h : n < 68 then .b ⟨n - 64, by omega⟩
  else if n = 68 then .z
  else if n = 69 then .ln
  else if n = 70 then .tg
  else if n = 71 then .gg
  else if n = 72 then .xi
  else if h : n < 96 then .imm ⟨n - 73, by omega⟩
  else .s ⟨n - 96, by have := x.isLt; omega⟩

/-- The 7-bit field of a source. -/
def Src.toBits : Src → BitVec 7
  | .v n => BitVec.ofNat 7 n.1
  | .m k => BitVec.ofNat 7 (60 + k.1)
  | .b k => BitVec.ofNat 7 (64 + k.1)
  | .z => 68
  | .ln => 69
  | .tg => 70
  | .gg => 71
  | .xi => 72
  | .imm k => BitVec.ofNat 7 (73 + k.1)
  | .s n => BitVec.ofNat 7 (96 + n.1)

/-- The source that the S field of a 16-bit instruction names (R47). -/
def CSrc.ofBits (x : BitVec 5) : CSrc :=
  let n := x.toNat
  if h : n < 24 then .v ⟨n, h⟩
  else if h : n < 28 then .b ⟨n - 24, by omega⟩
  else .s ⟨n - 28, by have := x.isLt; omega⟩

/-- The S field of a 16-bit instruction. -/
def CSrc.toBits : CSrc → BitVec 5
  | .v n => BitVec.ofNat 5 n.1
  | .b k => BitVec.ofNat 5 (24 + k.1)
  | .s n => BitVec.ofNat 5 (28 + n.1)

/-- Condition codes of integer compares (R40); code 7 is none. -/
def ICond.ofCode : Nat → Option ICond
  | 0 => some .eq | 1 => some .ne | 2 => some .lt | 3 => some .le | 4 => some .gt | 5 => some .ge | 6 => some .tst
  | _ => none
def ICond.code : ICond → Nat
  | .eq => 0 | .ne => 1 | .lt => 2 | .le => 3 | .gt => 4 | .ge => 5 | .tst => 6

/-- Condition codes of floating compares (R40). -/
def FCond.ofCode : Nat → FCond
  | 0 => .eq | 1 => .ne | 2 => .lt | 3 => .le | 4 => .gt | 5 => .ge | 6 => .unord
  | _ => .ord
def FCond.code : FCond → Nat
  | .eq => 0 | .ne => 1 | .lt => 2 | .le => 3 | .gt => 4 | .ge => 5 | .unord => 6 | .ord => 7

/-- Scope codes of LDACQ and STREL (R42); 5 to 7 are none. -/
def Scope.ofCode : Nat → Option Scope
  | 0 => some .grp | 1 => some .core | 2 => some .die | 3 => some .dev | 4 => some .sys
  | _ => none
def Scope.code : Scope → Nat
  | .grp => 0 | .core => 1 | .die => 2 | .dev => 3 | .sys => 4

/-- Scope codes of ATOM (R43). -/
def AScope.ofCode : Nat → AScope
  | 0 => .core | 1 => .die | 2 => .dev
  | _ => .sys
def AScope.code : AScope → Nat
  | .core => 0 | .die => 1 | .dev => 2 | .sys => 3

/-- The fields of a 32-bit word, by their common-layout names (R26). -/
structure Fields where
  b   : BitVec 7
  a   : BitVec 7
  d   : BitVec 6
  maj : BitVec 6
  w   : Bool
  gn  : Bool
  gp  : Fin 8
  deriving DecidableEq, Repr

/-- The guard in a word's fields. -/
def Fields.guard (f : Fields) : Guard := ⟨f.gn, f.gp⟩

/-- Cuts a 32-bit word into its fields (R26). -/
def Fields.ofWord (x : BitVec 32) : Fields :=
  let n := x.toNat
  { b := BitVec.ofNat 7 (n / 2 ^ 25), a := BitVec.ofNat 7 (n / 2 ^ 18), d := BitVec.ofNat 6 (n / 2 ^ 12),
    maj := BitVec.ofNat 6 (n / 2 ^ 6), w := n / 2 ^ 5 % 2 = 1, gn := n / 2 ^ 4 % 2 = 1,
    gp := ⟨n / 2 % 8, Nat.mod_lt _ (by omega)⟩ }

/-- Puts the fields of a 32-bit word together; bit 0 is 1 (R26). -/
def Fields.toWord (f : Fields) : BitVec 32 :=
  BitVec.ofNat 32 (f.b.toNat * 2 ^ 25 + f.a.toNat * 2 ^ 18 + f.d.toNat * 2 ^ 12 + f.maj.toNat * 2 ^ 6
    + f.w.toNat * 2 ^ 5 + f.gn.toNat * 2 ^ 4 + f.gp.1 * 2 + 1)

/-- Three-operand fields (R26). -/
def Fields.op3 (f : Fields) : Op3 := ⟨f.guard, f.w, Dst.ofBits f.d, Src.ofBits f.a, Src.ofBits f.b⟩
def Fields.op2 (f : Fields) : Op2 := ⟨f.guard, f.w, Dst.ofBits f.d, Src.ofBits f.a⟩
def Fields.opX (f : Fields) : OpX := ⟨f.guard, Dst.ofBits f.d, Src.ofBits f.a⟩
def Fields.mem (f : Fields) : MemOp := ⟨f.guard, f.w, Dst.ofBits f.d, Src.ofBits f.a, Src.ofBits f.b⟩
def Fields.hacc (f : Fields) : HaccOp := ⟨f.guard, f.w, Dst.ofBits f.d, Src.ofBits f.a⟩

/-- A function that uses A alone: D must be zero (R46). -/
def Fields.opA (f : Fields) (k : OpA → Instr) : Except DecodeError Instr :=
  if f.d = 0 then .ok (k ⟨f.guard, Src.ofBits f.a⟩) else .error .xopUnused
/-- A function that uses D alone: A must be zero (R46). -/
def Fields.opD (f : Fields) (k : OpD → Instr) : Except DecodeError Instr :=
  if f.a = 0 then .ok (k ⟨f.guard, Dst.ofBits f.d⟩) else .error .xopUnused
/-- A function that uses neither: both must be zero (R46). -/
def Fields.opG (f : Fields) (k : OpG → Instr) : Except DecodeError Instr :=
  if f.d = 0 ∧ f.a = 0 then .ok (k ⟨f.guard⟩) else .error .xopUnused
/-- An immediate D below n and A unused (R46). -/
def Fields.opS (f : Fields) (n : Nat) (k : OpS n → Instr) : Except DecodeError Instr :=
  if h : f.d.toNat < n then (if f.a = 0 then .ok (k ⟨f.guard, ⟨f.d.toNat, h⟩⟩) else .error .xopUnused)
  else .error .xopImmediate
/-- An immediate D below n and a source in A (R46). -/
def Fields.opI (f : Fields) (n : Nat) (k : OpI n → Instr) : Except DecodeError Instr :=
  if h : f.d.toNat < n then .ok (k ⟨f.guard, ⟨f.d.toNat, h⟩, Src.ofBits f.a⟩) else .error .xopImmediate
/-- MOVS of special register FN - 0x10: A must be zero (R139). -/
def Fields.movs (f : Fields) (i : Fin 14) : Except DecodeError Instr :=
  if f.a = 0 then .ok (.movs ⟨f.guard, f.w, Dst.ofBits f.d, i⟩) else .error .xopUnused

/-- The compare layout: C in [17:15], P in [14:12] (R40). -/
def Fields.icmp (f : Fields) (k : ICmp → Instr) : Except DecodeError Instr :=
  match ICond.ofCode (f.d.toNat / 8) with
  | some c => .ok (k ⟨f.guard, c, ⟨f.d.toNat % 8, Nat.mod_lt _ (by omega)⟩, Src.ofBits f.a, Src.ofBits f.b⟩)
  | none => .error .compareCode
def Fields.fcmp (f : Fields) : FCmp :=
  ⟨f.guard, FCond.ofCode (f.d.toNat / 8), ⟨f.d.toNat % 8, Nat.mod_lt _ (by omega)⟩, Src.ofBits f.a, Src.ofBits f.b⟩

/-- The LDACQ code in B: [6] zero, [5] PR, [4:2] SC, [1:0] WD (R42). -/
def Fields.acq (f : Fields) : Except DecodeError Instr :=
  let n := f.b.toNat
  match Scope.ofCode (n / 4 % 8) with
  | some sc =>
    if n / 64 = 0 ∧ n % 4 < 2 then
      .ok (.ldacq ⟨f.guard, f.w, Dst.ofBits f.d, Src.ofBits f.a, n / 32 % 2 = 1, sc, n % 4 = 1⟩)
    else .error .acquireCode
  | none => .error .acquireCode
/-- The STREL code in B: as LDACQ, and [5] must be zero (R42). -/
def Fields.rel (f : Fields) : Except DecodeError Instr :=
  let n := f.b.toNat
  match Scope.ofCode (n / 4 % 8) with
  | some sc =>
    if n / 32 = 0 ∧ n % 4 < 2 then
      .ok (.strel ⟨f.guard, f.w, Dst.ofBits f.d, Src.ofBits f.a, sc, n % 4 = 1⟩)
    else .error .acquireCode
  | none => .error .acquireCode

/-- The ATOM code in B: [6:5] SC, [4] WD, [3:0] OP (R43). -/
def Fields.atom (f : Fields) : Except DecodeError Instr :=
  let n := f.b.toNat
  let o : AtomOp := ⟨f.guard, f.w, Dst.ofBits f.d, Src.ofBits f.a, AScope.ofCode (n / 32), n / 16 % 2 = 1⟩
  match n % 16 with
  | 0 => .ok (.atomAdd o)
  | 1 => .ok (.atomAnd o)
  | 2 => .ok (.atomOr o)
  | 3 => .ok (.atomXor o)
  | 4 => .ok (.atomMinS o)
  | 5 => .ok (.atomMaxS o)
  | 6 => .ok (.atomMinN o)
  | 7 => .ok (.atomMaxN o)
  | 8 => .ok (.atomXchg o)
  | 9 => .ok (.atomCas o)
  | 10 => .ok (.atomFadd o)
  | 11 => .ok (.atomIncw o)
  | 12 => .ok (.atomCasPromote o)
  | 13 => if n / 16 = 1 then .ok (.atomHacc f.hacc) else .error .atomCode
  | _ => .error .atomCode

/-- The branch layout: offset [31:14], X [13], H [12], U [5] (R44). -/
def brOp (x : BitVec 32) : BrOp :=
  let n := x.toNat
  ⟨(Fields.ofWord x).guard, n / 2 ^ 5 % 2 = 1, n / 2 ^ 12 % 2 = 1, n / 2 ^ 13 % 2 = 1, BitVec.ofNat 18 (n / 2 ^ 14)⟩

/-- The LOOP layout: L - 1 in [31:30] and [17:12]; [29:25] and [5] zero (R45). -/
def Fields.loop (f : Fields) : Except DecodeError Instr :=
  if f.w = false ∧ f.b.toNat % 32 = 0 then
    .ok (.loop ⟨f.guard, Src.ofBits f.a, ⟨(f.b.toNat / 32 % 4) * 64 + f.d.toNat,
      by have := f.d.isLt; have := Nat.mod_lt (f.b.toNat / 32) (show 4 > 0 by omega); omega⟩⟩)
  else .error .loopReserved

/-- The IMX payload: P[24:5] in [31:12], P[4:0] in [5:1] (R38). -/
def imxPayload (x : BitVec 32) : BitVec 25 :=
  BitVec.ofNat 25 (x.toNat / 2 ^ 12 * 32 + x.toNat / 2 % 32)

/-- The XOP function map (R50). -/
def Fields.xop (f : Fields) : Except DecodeError Instr :=
  match f.b.toNat with
  | 0x00 => .ok (.mov f.op2)
  | 0x01 => .ok (.notOp f.op2)
  | 0x02 => .ok (.negOp f.op2)
  | 0x03 => .ok (.absOp f.op2)
  | 0x04 => .ok (.popc f.op2)
  | 0x05 => .ok (.clz f.op2)
  | 0x06 => .ok (.ctz f.op2)
  | 0x07 => .ok (.brev f.op2)
  | 0x08 => .ok (.bswap f.op2)
  | 0x09 => .ok (.sx8 f.op2)
  | 0x0A => .ok (.sx16 f.op2)
  | 0x0B => .ok (.sx32 f.op2)
  | 0x0C => .ok (.zx8 f.op2)
  | 0x0D => .ok (.zx16 f.op2)
  | 0x0E => .ok (.zx32 f.op2)
  | 0x10 => f.movs 0
  | 0x11 => f.movs 1
  | 0x12 => f.movs 2
  | 0x13 => f.movs 3
  | 0x14 => f.movs 4
  | 0x15 => f.movs 5
  | 0x16 => f.movs 6
  | 0x17 => f.movs 7
  | 0x18 => f.movs 8
  | 0x19 => f.movs 9
  | 0x1A => f.movs 10
  | 0x1B => f.movs 11
  | 0x1C => f.movs 12
  | 0x1D => f.movs 13
  | 0x1E => .ok (.urd f.op2)
  | 0x1F => .ok (.uwr f.opX)
  | 0x20 => .ok (.fneg f.op2)
  | 0x21 => .ok (.fabs f.op2)
  | 0x22 => .ok (.dneg f.op2)
  | 0x23 => .ok (.dabs f.op2)
  | 0x24 => .ok (.frcp f.op2)
  | 0x25 => .ok (.frsq f.op2)
  | 0x26 => .ok (.fsqrt f.op2)
  | 0x27 => .ok (.fex2 f.op2)
  | 0x28 => .ok (.flg2 f.op2)
  | 0x29 => .ok (.drcp f.op2)
  | 0x2A => .ok (.dsqrt f.op2)
  | 0x2B => .ok (.drsq f.op2)
  | 0x2C => .ok (.fscale f.op2)
  | 0x2D => .ok (.dscale f.op2)
  | 0x2E => .ok (.fxpn f.op2)
  | 0x2F => .ok (.dxpn f.op2)
  | 0x30 => .ok (.ex2s f.op2)
  | 0x31 => .ok (.frintRn f.op2)
  | 0x32 => .ok (.frintRz f.op2)
  | 0x33 => .ok (.frintRm f.op2)
  | 0x34 => .ok (.frintRp f.op2)
  | 0x35 => .ok (.drintRn f.op2)
  | 0x36 => .ok (.drintRz f.op2)
  | 0x37 => .ok (.drintRm f.op2)
  | 0x38 => .ok (.drintRp f.op2)
  | 0x39 => .ok (.cvtF64F32 f.op2)
  | 0x3A => .ok (.cvtF32F64 f.op2)
  | 0x3B => .ok (.cvtF16F32 f.op2)
  | 0x3C => .ok (.cvtBf16F32 f.op2)
  | 0x3D => .ok (.cvtF32F16 f.op2)
  | 0x3E => .ok (.cvtF32Bf16 f.op2)
  | 0x3F => .ok (.cvtF32S64 f.op2)
  | 0x40 => .ok (.cvtF32N64 f.op2)
  | 0x41 => .ok (.cvtF64S64 f.op2)
  | 0x42 => .ok (.cvtF64N64 f.op2)
  | 0x43 => .ok (.cvtS32F32 f.op2)
  | 0x44 => .ok (.cvtN32F32 f.op2)
  | 0x45 => .ok (.cvtS64F32 f.op2)
  | 0x46 => .ok (.cvtN64F32 f.op2)
  | 0x47 => .ok (.cvtS32F64 f.op2)
  | 0x48 => .ok (.cvtN32F64 f.op2)
  | 0x49 => .ok (.cvtS64F64 f.op2)
  | 0x4A => .ok (.cvtN64F64 f.op2)
  | 0x50 => f.opD .elect
  | 0x51 => .ok (.vany f.opX)
  | 0x52 => .ok (.vall f.opX)
  | 0x53 => .ok (.vbal f.opX)
  | 0x54 => .ok (.shfi f.opX)
  | 0x55 => .ok (.shfa f.opX)
  | 0x56 => .ok (.shfb f.opX)
  | 0x57 => .ok (.shfx f.opX)
  | 0x58 => .ok (.radd f.opX)
  | 0x59 => .ok (.rminS f.opX)
  | 0x5A => .ok (.rmaxS f.opX)
  | 0x5B => .ok (.rfadd f.opX)
  | 0x5C => .ok (.rdadd f.opX)
  | 0x5D => .ok (.scan f.opX)
  | 0x5E => .ok (.matchOp f.opX)
  | 0x5F => f.opA .gpart
  | 0x60 => f.opG .nop
  | 0x61 => f.opA .exit
  | 0x62 => f.opG .brk
  | 0x63 => f.opA .trap
  | 0x64 => f.opG .yield
  | 0x65 => f.opG .rgn
  | 0x66 => f.opG .bnd
  | 0x67 => f.opG .fenceGrp
  | 0x68 => f.opG .fenceCore
  | 0x69 => f.opG .fenceDie
  | 0x6A => f.opG .fenceDev
  | 0x6B => f.opG .fenceSys
  | 0x6C => f.opG .ofence
  | 0x6D => f.opS 16 .barArr
  | 0x6E => f.opS 16 .barWait
  | 0x6F => f.opS 16 .barSync
  | 0x70 => f.opI 16 .barInit
  | 0x71 => .ok (.wait f.opX)
  | 0x72 => f.opI 8 .cpy
  | 0x73 => f.opI 8 .gath
  | 0x74 => .ok (.mxl f.opX)
  | 0x75 => .ok (.ores f.opX)
  | 0x76 => f.opA .orls
  | 0x77 => f.opI 4 .strm
  | 0x78 => f.opA .jmpi
  | 0x79 => f.opA .calli
  | 0x7A => f.opG .ret
  | 0x7B => .ok (.icinv f.opX)
  | 0x7C => .ok (.launch f.opX)
  | 0x7D => f.opI 5 .cancel
  | 0x7E =>
    match f.d.toNat with
    | 0 => .ok (.specCommit ⟨f.guard, Src.ofBits f.a⟩)
    | 1 => .ok (.specDiscard ⟨f.guard, Src.ofBits f.a⟩)
    | _ => .error .xopImmediate
  | 0x7F =>
    match f.d.toNat with
    | 0 => .ok (.dbgHalt ⟨f.guard, Src.ofBits f.a⟩)
    | 1 => .ok (.dbgResume ⟨f.guard, Src.ofBits f.a⟩)
    | 2 => .ok (.dbgStep ⟨f.guard, Src.ofBits f.a⟩)
    | 3 => .ok (.dbgSetmask ⟨f.guard, Src.ofBits f.a⟩)
    | 4 => .ok (.dbgWset ⟨f.guard, Src.ofBits f.a⟩)
    | 5 => .ok (.dbgWclr ⟨f.guard, Src.ofBits f.a⟩)
    | 6 => .ok (.dbgStatus ⟨f.guard, Src.ofBits f.a⟩)
    | 7 => .ok (.dbgReadreg ⟨f.guard, Src.ofBits f.a⟩)
    | 8 => .ok (.dbgBpset ⟨f.guard, Src.ofBits f.a⟩)
    | 9 => .ok (.dbgBpclr ⟨f.guard, Src.ofBits f.a⟩)
    | _ => .error .xopImmediate
  | _ => .error .xopFunction

/-- The major opcode map (R49). -/
def decode32 (x : BitVec 32) : Except DecodeError Instr :=
  let f := Fields.ofWord x
  match f.maj.toNat with
  | 0x00 => .ok .ill
  | 0x01 => .ok (.iadd f.op3)
  | 0x02 => .ok (.isub f.op3)
  | 0x03 => .ok (.imul f.op3)
  | 0x04 => .ok (.imac f.op3)
  | 0x05 => .ok (.iadd32 f.op3)
  | 0x06 => .ok (.isub32 f.op3)
  | 0x07 => .ok (.imul32 f.op3)
  | 0x08 => .ok (.imac32 f.op3)
  | 0x09 => .ok (.imulhS f.op3)
  | 0x0A => .ok (.imulhN f.op3)
  | 0x0B => .ok (.andOp f.op3)
  | 0x0C => .ok (.orOp f.op3)
  | 0x0D => .ok (.xorOp f.op3)
  | 0x0E => .ok (.andn f.op3)
  | 0x0F => .ok (.shl f.op3)
  | 0x10 => .ok (.shr f.op3)
  | 0x11 => .ok (.asr f.op3)
  | 0x12 => f.loop
  | 0x13 => .ok (.iminS f.op3)
  | 0x14 => .ok (.imaxS f.op3)
  | 0x15 => .ok (.iminN f.op3)
  | 0x16 => .ok (.imaxN f.op3)
  | 0x17 => .ok (.fadd f.op3)
  | 0x18 => .ok (.fsub f.op3)
  | 0x19 => .ok (.fmul f.op3)
  | 0x1A => .ok (.ffma f.op3)
  | 0x1B => .ok (.fmin f.op3)
  | 0x1C => .ok (.fmax f.op3)
  | 0x1D => .ok (.dadd f.op3)
  | 0x1E => .ok (.dsub f.op3)
  | 0x1F => .ok (.dmul f.op3)
  | 0x20 => .ok (.dfma f.op3)
  | 0x21 => .ok (.dmin f.op3)
  | 0x22 => .ok (.dmax f.op3)
  | 0x23 => .ok (.hadd f.op3)
  | 0x24 => .ok (.hmul f.op3)
  | 0x25 => .ok (.hfma f.op3)
  | 0x26 => .ok (.badd f.op3)
  | 0x27 => .ok (.bmul f.op3)
  | 0x28 => .ok (.bfma f.op3)
  | 0x29 => f.icmp .icmpS
  | 0x2A => f.icmp .icmpN
  | 0x2B => .ok (.fcmp f.fcmp)
  | 0x2C => .ok (.dcmp f.fcmp)
  | 0x2D => .ok (.sel f.op3)
  | 0x2E => .ok (.ld8 f.mem)
  | 0x2F => .ok (.ld16 f.mem)
  | 0x30 => .ok (.ld32 f.mem)
  | 0x31 => .ok (.ld64 f.mem)
  | 0x32 => .ok (.ld8S f.mem)
  | 0x33 => .ok (.ld16S f.mem)
  | 0x34 => .ok (.ld32S f.mem)
  | 0x35 => .ok (.st8 f.mem)
  | 0x36 => .ok (.st16 f.mem)
  | 0x37 => .ok (.st32 f.mem)
  | 0x38 => .ok (.st64 f.mem)
  | 0x39 => f.acq
  | 0x3A => f.rel
  | 0x3B => f.atom
  | 0x3C => .ok (.br (brOp x))
  | 0x3D => .ok (.call (brOp x))
  | 0x3E => f.xop
  | _ => .ok (.imx (imxPayload x))

/-- The compact operations (R47, R48). -/
def decode16 (x : BitVec 16) : Instr :=
  let n := x.toNat
  let o : C16 := ⟨Dst.ofBits (BitVec.ofNat 6 (n / 32)), CSrc.ofBits (BitVec.ofNat 5 (n / 2048))⟩
  let oi : C16I := ⟨Dst.ofBits (BitVec.ofNat 6 (n / 32)), BitVec.ofNat 5 (n / 2048)⟩
  if n = 0 then .illParcel else
  match n / 2 % 16 with
  | 0 => .movCompact o
  | 1 => .iaddCompact o
  | 2 => .isubCompact o
  | 3 => .iadd32Compact o
  | 4 => .iaddi oi
  | 5 => .andCompact o
  | 6 => .orCompact o
  | 7 => .xorCompact o
  | 8 => .shli oi
  | 9 => .shri oi
  | 10 => .faddCompact o
  | 11 => .fsubCompact o
  | 12 => .fmulCompact o
  | 13 => .fmaxCompact o
  | 14 => .daddCompact o
  | _ => .dmulCompact o

/-- One instruction word from the parcels at its address: bit 0 of the first gives the length (R23). -/
def decodeParcels : List Parcel → Except DecodeError Instr
  | [] => .error .short
  | p :: rest =>
    if p.toNat % 2 = 0 then .ok (decode16 p)
    else match rest with
      | [] => .error .short
      | q :: _ => decode32 (BitVec.ofNat 32 (q.toNat * 65536 + p.toNat))

/-- The parcels of a byte string, little-endian (R3, R23). -/
def parcelsOf : List Byte → List Parcel
  | lo :: hi :: rest => BitVec.ofNat 16 (hi.toNat * 256 + lo.toNat) :: parcelsOf rest
  | _ => []

/-- The instruction word that a byte string begins with. -/
def decode (bs : List Byte) : Except DecodeError Instr := decodeParcels (parcelsOf bs)

/-- The bytes of n bytes' worth of a number, lowest first (R3). -/
def bytesOf : Nat → Nat → List Byte
  | 0, _ => []
  | k + 1, w => BitVec.ofNat 8 w :: bytesOf k (w / 256)

/-- The bytes of a table word followed by zeros up to two IMX words and a 32-bit instruction. -/
def tableBytes (nbits w : Nat) : List Byte := bytesOf 12 (w % 2 ^ nbits)

/-- What the decoder reads from a table word laid out in memory (tableBytes). -/
def decodeTableWord (nbits w : Nat) : Option Instr :=
  match decode (tableBytes nbits w) with
  | .ok i => some i
  | .error _ => none

/-! ### The encoder -/

/-- A word of the common layout (R26). -/
def word3 (maj : BitVec 6) (g : Guard) (w : Bool) (d : BitVec 6) (a b : BitVec 7) : BitVec 32 :=
  Fields.toWord ⟨b, a, d, maj, w, g.neg, g.p⟩

def encOp3 (maj : BitVec 6) (o : Op3) : BitVec 32 := word3 maj o.g o.w o.d.toBits o.a.toBits o.b.toBits
def encMem (maj : BitVec 6) (o : MemOp) : BitVec 32 := word3 maj o.g o.na o.d.toBits o.a.toBits o.b.toBits
def encICmp (maj : BitVec 6) (o : ICmp) : BitVec 32 :=
  word3 maj o.g false (BitVec.ofNat 6 (o.c.code * 8 + o.p.1)) o.a.toBits o.b.toBits
def encFCmp (maj : BitVec 6) (o : FCmp) : BitVec 32 :=
  word3 maj o.g false (BitVec.ofNat 6 (o.c.code * 8 + o.p.1)) o.a.toBits o.b.toBits
def encOp2 (fn : BitVec 7) (o : Op2) : BitVec 32 := word3 0x3E o.g o.w o.d.toBits o.a.toBits fn
def encOpX (fn : BitVec 7) (o : OpX) : BitVec 32 := word3 0x3E o.g false o.d.toBits o.a.toBits fn
def encOpA (fn : BitVec 7) (d : BitVec 6) (o : OpA) : BitVec 32 := word3 0x3E o.g false d o.a.toBits fn
def encOpD (fn : BitVec 7) (o : OpD) : BitVec 32 := word3 0x3E o.g false o.d.toBits 0 fn
def encOpG (fn : BitVec 7) (o : OpG) : BitVec 32 := word3 0x3E o.g false 0 0 fn
def encOpS (fn : BitVec 7) {k : Nat} (o : OpS k) : BitVec 32 := word3 0x3E o.g false (BitVec.ofNat 6 o.n.1) 0 fn
def encOpI (fn : BitVec 7) {k : Nat} (o : OpI k) : BitVec 32 :=
  word3 0x3E o.g false (BitVec.ofNat 6 o.n.1) o.a.toBits fn
def encMovs (o : MovsOp) : BitVec 32 := word3 0x3E o.g o.w o.d.toBits 0 (BitVec.ofNat 7 (0x10 + o.id.1))
def encAcq (o : AcqOp) : BitVec 32 :=
  word3 0x39 o.g o.na o.d.toBits o.a.toBits (BitVec.ofNat 7 (o.pr.toNat * 32 + o.sc.code * 4 + o.wide.toNat))
def encRel (o : RelOp) : BitVec 32 :=
  word3 0x3A o.g o.na o.d.toBits o.a.toBits (BitVec.ofNat 7 (o.sc.code * 4 + o.wide.toNat))
def encAtom (op : Nat) (o : AtomOp) : BitVec 32 :=
  word3 0x3B o.g o.ar o.d.toBits o.a.toBits (BitVec.ofNat 7 (o.sc.code * 32 + o.wide.toNat * 16 + op))
def encHacc (o : HaccOp) : BitVec 32 := word3 0x3B o.g o.ar o.d.toBits o.a.toBits 29
def encBr (maj : Nat) (o : BrOp) : BitVec 32 :=
  BitVec.ofNat 32 (o.off.toNat * 2 ^ 14 + o.x.toNat * 2 ^ 13 + o.h.toNat * 2 ^ 12 + maj * 2 ^ 6 + o.u.toNat * 2 ^ 5
    + o.g.neg.toNat * 2 ^ 4 + o.g.p.1 * 2 + 1)
def encLoop (o : LoopOp) : BitVec 32 :=
  word3 0x12 o.g false (BitVec.ofNat 6 o.len.1) o.a.toBits (BitVec.ofNat 7 (o.len.1 / 64 * 32))
def encImx (p : BitVec 25) : BitVec 32 :=
  BitVec.ofNat 32 (p.toNat / 32 * 2 ^ 12 + 0x3F * 2 ^ 6 + p.toNat % 32 * 2 + 1)
def encC16 (op : Nat) (o : C16) : BitVec 16 :=
  BitVec.ofNat 16 (o.s.toBits.toNat * 2048 + o.d.toBits.toNat * 32 + op * 2)
def encC16I (op : Nat) (o : C16I) : BitVec 16 :=
  BitVec.ofNat 16 (o.imm.toNat * 2048 + o.d.toBits.toNat * 32 + op * 2)

/-- The two parcels of a 32-bit word, the low half first (R23). -/
def parcels32 (x : BitVec 32) : List Parcel :=
  [BitVec.ofNat 16 (x.toNat % 65536), BitVec.ofNat 16 (x.toNat / 65536)]

/-- The parcels of an instruction; a step of the device has none. -/
def encode : Instr → List Parcel
  | .iadd o => parcels32 (encOp3 0x01 o)
  | .isub o => parcels32 (encOp3 0x02 o)
  | .imul o => parcels32 (encOp3 0x03 o)
  | .imac o => parcels32 (encOp3 0x04 o)
  | .iadd32 o => parcels32 (encOp3 0x05 o)
  | .isub32 o => parcels32 (encOp3 0x06 o)
  | .imul32 o => parcels32 (encOp3 0x07 o)
  | .imac32 o => parcels32 (encOp3 0x08 o)
  | .imulhS o => parcels32 (encOp3 0x09 o)
  | .imulhN o => parcels32 (encOp3 0x0A o)
  | .andOp o => parcels32 (encOp3 0x0B o)
  | .orOp o => parcels32 (encOp3 0x0C o)
  | .xorOp o => parcels32 (encOp3 0x0D o)
  | .andn o => parcels32 (encOp3 0x0E o)
  | .shl o => parcels32 (encOp3 0x0F o)
  | .shr o => parcels32 (encOp3 0x10 o)
  | .asr o => parcels32 (encOp3 0x11 o)
  | .loop o => parcels32 (encLoop o)
  | .iminS o => parcels32 (encOp3 0x13 o)
  | .imaxS o => parcels32 (encOp3 0x14 o)
  | .iminN o => parcels32 (encOp3 0x15 o)
  | .imaxN o => parcels32 (encOp3 0x16 o)
  | .fadd o => parcels32 (encOp3 0x17 o)
  | .fsub o => parcels32 (encOp3 0x18 o)
  | .fmul o => parcels32 (encOp3 0x19 o)
  | .ffma o => parcels32 (encOp3 0x1A o)
  | .fmin o => parcels32 (encOp3 0x1B o)
  | .fmax o => parcels32 (encOp3 0x1C o)
  | .dadd o => parcels32 (encOp3 0x1D o)
  | .dsub o => parcels32 (encOp3 0x1E o)
  | .dmul o => parcels32 (encOp3 0x1F o)
  | .dfma o => parcels32 (encOp3 0x20 o)
  | .dmin o => parcels32 (encOp3 0x21 o)
  | .dmax o => parcels32 (encOp3 0x22 o)
  | .hadd o => parcels32 (encOp3 0x23 o)
  | .hmul o => parcels32 (encOp3 0x24 o)
  | .hfma o => parcels32 (encOp3 0x25 o)
  | .badd o => parcels32 (encOp3 0x26 o)
  | .bmul o => parcels32 (encOp3 0x27 o)
  | .bfma o => parcels32 (encOp3 0x28 o)
  | .icmpS o => parcels32 (encICmp 0x29 o)
  | .icmpN o => parcels32 (encICmp 0x2A o)
  | .fcmp o => parcels32 (encFCmp 0x2B o)
  | .dcmp o => parcels32 (encFCmp 0x2C o)
  | .sel o => parcels32 (encOp3 0x2D o)
  | .ld8 o => parcels32 (encMem 0x2E o)
  | .ld16 o => parcels32 (encMem 0x2F o)
  | .ld32 o => parcels32 (encMem 0x30 o)
  | .ld64 o => parcels32 (encMem 0x31 o)
  | .ld8S o => parcels32 (encMem 0x32 o)
  | .ld16S o => parcels32 (encMem 0x33 o)
  | .ld32S o => parcels32 (encMem 0x34 o)
  | .st8 o => parcels32 (encMem 0x35 o)
  | .st16 o => parcels32 (encMem 0x36 o)
  | .st32 o => parcels32 (encMem 0x37 o)
  | .st64 o => parcels32 (encMem 0x38 o)
  | .ldacq o => parcels32 (encAcq o)
  | .strel o => parcels32 (encRel o)
  | .atomAdd o => parcels32 (encAtom 0 o)
  | .atomAnd o => parcels32 (encAtom 1 o)
  | .atomOr o => parcels32 (encAtom 2 o)
  | .atomXor o => parcels32 (encAtom 3 o)
  | .atomMinS o => parcels32 (encAtom 4 o)
  | .atomMaxS o => parcels32 (encAtom 5 o)
  | .atomMinN o => parcels32 (encAtom 6 o)
  | .atomMaxN o => parcels32 (encAtom 7 o)
  | .atomXchg o => parcels32 (encAtom 8 o)
  | .atomCas o => parcels32 (encAtom 9 o)
  | .atomFadd o => parcels32 (encAtom 10 o)
  | .atomIncw o => parcels32 (encAtom 11 o)
  | .atomCasPromote o => parcels32 (encAtom 12 o)
  | .atomHacc o => parcels32 (encHacc o)
  | .br o => parcels32 (encBr 0x3C o)
  | .call o => parcels32 (encBr 0x3D o)
  | .imx o => parcels32 (encImx o)
  | .ill => parcels32 1
  | .illParcel => [0]
  | .mov o => parcels32 (encOp2 0x00 o)
  | .notOp o => parcels32 (encOp2 0x01 o)
  | .negOp o => parcels32 (encOp2 0x02 o)
  | .absOp o => parcels32 (encOp2 0x03 o)
  | .popc o => parcels32 (encOp2 0x04 o)
  | .clz o => parcels32 (encOp2 0x05 o)
  | .ctz o => parcels32 (encOp2 0x06 o)
  | .brev o => parcels32 (encOp2 0x07 o)
  | .bswap o => parcels32 (encOp2 0x08 o)
  | .sx8 o => parcels32 (encOp2 0x09 o)
  | .sx16 o => parcels32 (encOp2 0x0A o)
  | .sx32 o => parcels32 (encOp2 0x0B o)
  | .zx8 o => parcels32 (encOp2 0x0C o)
  | .zx16 o => parcels32 (encOp2 0x0D o)
  | .zx32 o => parcels32 (encOp2 0x0E o)
  | .movs o => parcels32 (encMovs o)
  | .urd o => parcels32 (encOp2 0x1E o)
  | .uwr o => parcels32 (encOpX 0x1F o)
  | .fneg o => parcels32 (encOp2 0x20 o)
  | .fabs o => parcels32 (encOp2 0x21 o)
  | .dneg o => parcels32 (encOp2 0x22 o)
  | .dabs o => parcels32 (encOp2 0x23 o)
  | .frcp o => parcels32 (encOp2 0x24 o)
  | .frsq o => parcels32 (encOp2 0x25 o)
  | .fsqrt o => parcels32 (encOp2 0x26 o)
  | .fex2 o => parcels32 (encOp2 0x27 o)
  | .flg2 o => parcels32 (encOp2 0x28 o)
  | .drcp o => parcels32 (encOp2 0x29 o)
  | .dsqrt o => parcels32 (encOp2 0x2A o)
  | .drsq o => parcels32 (encOp2 0x2B o)
  | .fscale o => parcels32 (encOp2 0x2C o)
  | .dscale o => parcels32 (encOp2 0x2D o)
  | .fxpn o => parcels32 (encOp2 0x2E o)
  | .dxpn o => parcels32 (encOp2 0x2F o)
  | .ex2s o => parcels32 (encOp2 0x30 o)
  | .frintRn o => parcels32 (encOp2 0x31 o)
  | .frintRz o => parcels32 (encOp2 0x32 o)
  | .frintRm o => parcels32 (encOp2 0x33 o)
  | .frintRp o => parcels32 (encOp2 0x34 o)
  | .drintRn o => parcels32 (encOp2 0x35 o)
  | .drintRz o => parcels32 (encOp2 0x36 o)
  | .drintRm o => parcels32 (encOp2 0x37 o)
  | .drintRp o => parcels32 (encOp2 0x38 o)
  | .cvtF64F32 o => parcels32 (encOp2 0x39 o)
  | .cvtF32F64 o => parcels32 (encOp2 0x3A o)
  | .cvtF16F32 o => parcels32 (encOp2 0x3B o)
  | .cvtBf16F32 o => parcels32 (encOp2 0x3C o)
  | .cvtF32F16 o => parcels32 (encOp2 0x3D o)
  | .cvtF32Bf16 o => parcels32 (encOp2 0x3E o)
  | .cvtF32S64 o => parcels32 (encOp2 0x3F o)
  | .cvtF32N64 o => parcels32 (encOp2 0x40 o)
  | .cvtF64S64 o => parcels32 (encOp2 0x41 o)
  | .cvtF64N64 o => parcels32 (encOp2 0x42 o)
  | .cvtS32F32 o => parcels32 (encOp2 0x43 o)
  | .cvtN32F32 o => parcels32 (encOp2 0x44 o)
  | .cvtS64F32 o => parcels32 (encOp2 0x45 o)
  | .cvtN64F32 o => parcels32 (encOp2 0x46 o)
  | .cvtS32F64 o => parcels32 (encOp2 0x47 o)
  | .cvtN32F64 o => parcels32 (encOp2 0x48 o)
  | .cvtS64F64 o => parcels32 (encOp2 0x49 o)
  | .cvtN64F64 o => parcels32 (encOp2 0x4A o)
  | .elect o => parcels32 (encOpD 0x50 o)
  | .vany o => parcels32 (encOpX 0x51 o)
  | .vall o => parcels32 (encOpX 0x52 o)
  | .vbal o => parcels32 (encOpX 0x53 o)
  | .shfi o => parcels32 (encOpX 0x54 o)
  | .shfa o => parcels32 (encOpX 0x55 o)
  | .shfb o => parcels32 (encOpX 0x56 o)
  | .shfx o => parcels32 (encOpX 0x57 o)
  | .radd o => parcels32 (encOpX 0x58 o)
  | .rminS o => parcels32 (encOpX 0x59 o)
  | .rmaxS o => parcels32 (encOpX 0x5A o)
  | .rfadd o => parcels32 (encOpX 0x5B o)
  | .rdadd o => parcels32 (encOpX 0x5C o)
  | .scan o => parcels32 (encOpX 0x5D o)
  | .matchOp o => parcels32 (encOpX 0x5E o)
  | .gpart o => parcels32 (encOpA 0x5F 0 o)
  | .nop o => parcels32 (encOpG 0x60 o)
  | .exit o => parcels32 (encOpA 0x61 0 o)
  | .brk o => parcels32 (encOpG 0x62 o)
  | .trap o => parcels32 (encOpA 0x63 0 o)
  | .yield o => parcels32 (encOpG 0x64 o)
  | .rgn o => parcels32 (encOpG 0x65 o)
  | .bnd o => parcels32 (encOpG 0x66 o)
  | .fenceGrp o => parcels32 (encOpG 0x67 o)
  | .fenceCore o => parcels32 (encOpG 0x68 o)
  | .fenceDie o => parcels32 (encOpG 0x69 o)
  | .fenceDev o => parcels32 (encOpG 0x6A o)
  | .fenceSys o => parcels32 (encOpG 0x6B o)
  | .ofence o => parcels32 (encOpG 0x6C o)
  | .barArr o => parcels32 (encOpS 0x6D o)
  | .barWait o => parcels32 (encOpS 0x6E o)
  | .barSync o => parcels32 (encOpS 0x6F o)
  | .barInit o => parcels32 (encOpI 0x70 o)
  | .wait o => parcels32 (encOpX 0x71 o)
  | .cpy o => parcels32 (encOpI 0x72 o)
  | .gath o => parcels32 (encOpI 0x73 o)
  | .mxl o => parcels32 (encOpX 0x74 o)
  | .ores o => parcels32 (encOpX 0x75 o)
  | .orls o => parcels32 (encOpA 0x76 0 o)
  | .strm o => parcels32 (encOpI 0x77 o)
  | .jmpi o => parcels32 (encOpA 0x78 0 o)
  | .calli o => parcels32 (encOpA 0x79 0 o)
  | .ret o => parcels32 (encOpG 0x7A o)
  | .icinv o => parcels32 (encOpX 0x7B o)
  | .launch o => parcels32 (encOpX 0x7C o)
  | .cancel o => parcels32 (encOpI 0x7D o)
  | .specCommit o => parcels32 (encOpA 0x7E 0 o)
  | .specDiscard o => parcels32 (encOpA 0x7E 1 o)
  | .dbgHalt o => parcels32 (encOpA 0x7F 0 o)
  | .dbgResume o => parcels32 (encOpA 0x7F 1 o)
  | .dbgStep o => parcels32 (encOpA 0x7F 2 o)
  | .dbgSetmask o => parcels32 (encOpA 0x7F 3 o)
  | .dbgWset o => parcels32 (encOpA 0x7F 4 o)
  | .dbgWclr o => parcels32 (encOpA 0x7F 5 o)
  | .dbgStatus o => parcels32 (encOpA 0x7F 6 o)
  | .dbgReadreg o => parcels32 (encOpA 0x7F 7 o)
  | .dbgBpset o => parcels32 (encOpA 0x7F 8 o)
  | .dbgBpclr o => parcels32 (encOpA 0x7F 9 o)
  | .movCompact o => [encC16 0 o]
  | .iaddCompact o => [encC16 1 o]
  | .isubCompact o => [encC16 2 o]
  | .iadd32Compact o => [encC16 3 o]
  | .iaddi o => [encC16I 4 o]
  | .andCompact o => [encC16 5 o]
  | .orCompact o => [encC16 6 o]
  | .xorCompact o => [encC16 7 o]
  | .shli o => [encC16I 8 o]
  | .shri o => [encC16I 9 o]
  | .faddCompact o => [encC16 10 o]
  | .fsubCompact o => [encC16 11 o]
  | .fmulCompact o => [encC16 12 o]
  | .fmaxCompact o => [encC16 13 o]
  | .daddCompact o => [encC16 14 o]
  | .dmulCompact o => [encC16 15 o]
  | .censusRound _ _ => []
  | .gangSeat _ _ => []
  | .gangUnseat _ _ _ => []
  | .quantumDue _ _ _ => []
  | .yieldHoldEnd _ => []
  | .deprioritisationEnd _ => []
  | .prefetchFill _ => []
  | .parkConditionHolds _ => []
  | .loadReply _ _ => []
  | .storePerform _ _ => []
  | .collectorSend _ _ => []
  | .errorResponse _ _ => []
  | .waitRecheck _ => []
  | .streamPrefetch _ _ => []
  | .streamOutDrain _ _ => []
  | .engineQueueAccept _ _ => []
  | .copyRowTransfer _ _ _ => []
  | .gatherElement _ _ _ => []
  | .probePass _ _ => []
  | .engineOpEnd _ _ => []
  | .watchdogTimeout _ _ => []
  | .matrixQueueAccept _ => []
  | .jobEnterContext _ => []
  | .blockStep _ => []
  | .jobEnd _ _ => []
  | .handleReturn _ _ => []
  | .allocationRelease _ => []
  | .fqReplyResolve _ => []
  | .fqReplyRefuse _ => []
  | .fqLimitExpiry _ => []
  | .fqTailWrite _ => []
  | .fqBaseWrite _ => []
  | .fqSizeWrite _ => []
  | .xinvStart _ => []
  | .xinvDone => []
  | .sliceSizeChange _ _ => []
  | .chTailWrite _ _ => []
  | .chCtlRestart _ _ => []
  | .jobEntry _ => []
  | .graphEntry _ => []
  | .launchEntry _ => []
  | .phaseEntry _ => []
  | .waitcEntry _ => []
  | .endEntry _ => []
  | .specEntryCommit _ => []
  | .specEntryDiscard _ => []
  | .chainEntryRetire _ => []
  | .unitStart _ _ => []
  | .levelComplete _ _ => []
  | .preemption _ => []
  | .resumption _ => []
  | .hostApertureWrite _ _ => []
  | .hostApertureRead _ _ => []
  | .flitReceive _ _ => []
  | .linkAckTimeout _ => []
  | .linkTrainingDone _ _ _ => []
  | .linkTakeDown _ => []
  | .linkAllowTrain _ => []
  | .routeWrite _ _ => []
  | .epEventClear _ => []
  | .islandReset _ => []
  | .mgmtResetComputeDie _ => []
  | .mgmtResetBaseDie _ => []
  | .mgmtResetHub _ => []
  | .resetSequenceComplete => []
  | .dmapWrite _ => []
  | .dieHeartbeatMiss _ => []
  | .dieInternalError _ => []
  | .spareSelfTestDone _ => []
  | .lostUnitRerun _ => []
  | .aperBaseWrite _ => []
  | .pwrClWrite _ _ => []
  | .ratioChangeComplete _ => []
  | .powerLimitStep _ _ => []
  | .droopDetect _ => []
  | .droopRecover _ => []
  | .holdStart _ => []
  | .holdEnd _ => []
  | .tmrAlign _ => []
  | .powerOnReset => []
  | .monitorSample _ _ => []
  | .monitorClr _ => []
  | .errorLogClear _ => []
  | .managementLogClear => []
  | .attest _ _ => []
  | .loadImage _ _ => []
  | .readMeas _ _ => []
  | .mailboxCompletion => []
  | .bar0BadAccess _ => []
  | .registerWrite _ _ _ => []
  | .cancellationTakesEffect _ => []
  | .sequencerCounterReread _ => []
  | .zeroLengthReadCompletion => []
  | .bar2Resize _ => []
  | .unknownCommandCode _ _ => []

end Sys2Proof
end

