-- ==== Sys2Proof/Config.lean ====
section
/-! DEFINITION. What an implementation fixes and the manual leaves open. A constant with no body is a free value: no proof can see what it is. -/

namespace Sys2Proof

/-- The byte that an undefined value shows at an address of the named object (R7; log 5). -/
opaque Config.undefByte : Nat → Nat → Byte
/-- SHA3-256 of a byte string (R382, R383); the manual names the function and does not define it (log 8). -/
opaque Config.sha3 : List Byte → BitVec 256
/-- Whether an image's ML-DSA-44 signature verifies (R382, R384; log 8). -/
opaque Config.imageVerifies : Nat → List Byte → Bool
/-- Whether the stored image of a stage is still as it was stored when a boot reads it, by the number of the reading (R382; log 8). -/
opaque Config.imageIntact : Nat → Nat → Bool
/-- Whether a failed die passes its self-test after its reset, by the number of the test (R368; log 54). -/
opaque Config.selfTest : Nat → Bool
/-- The digest of a stored image that signed boot extends into a measurement register (R382; log 8). -/
opaque Config.imageDigest : Nat → List Byte → BitVec 256
/-- The digest of the image that the module left the factory with, by stage (R382; log 8). -/
opaque Config.factoryDigest : Nat → BitVec 256
/-- The number of payload bytes of a write that a peer's flits carry (R370 gives the flit no length field; log 8). -/
opaque Config.flitLength : List Byte → Nat
/-- The device secret that is fused into the root of trust (R381; log 8). -/
opaque Config.deviceSecret : BitVec 256
/-- The private key of the ML-DSA-44 identity key pair that is derived from a secret (R381; log 8). -/
opaque Config.identityPrivate : BitVec 256 → List Byte
/-- Byte i of the public key of that pair (R381, R384; log 8). -/
opaque Config.identityKeyByte : BitVec 256 → Nat → Byte
/-- Byte i of the ML-DSA-44 signature with a private key over a digest (R383; log 8). -/
opaque Config.signatureByte : List Byte → BitVec 256 → Nat → Byte
/-- Byte i of the certificate of the identity key, and the certificate's length (R384; log 8). -/
opaque Config.certificateByte : Nat → Byte
opaque Config.certificateLength : Nat
/-- The significand that a special function returns where the model's bounded evaluation of the exact value does not
settle the rounding (R173; log 10). -/
opaque Config.specialBits : Nat → Nat → Nat
/-- The CRC-64 of a byte string (R370); the manual names no polynomial (log 8). -/
opaque Config.crc64 : List Byte → Word

/-- The port that the island's hash picks among the allowed ports that are up, for a module and a line (R360); the
manual gives no hash function (log 8). -/
opaque Config.linkHash : Nat → Nat → Nat

/-- The bytes that the host and the peer modules change in their own memory before a step, by home address less 2^51 (R262; log 2). -/
opaque Config.outside : Nat → List Host.Cell
/-- Whether the far cache writes a changed line of GDDR back before a step: placement and replacement are not visible (R63; log 65). -/
opaque Config.writeBack : Nat → Nat → Bool
/-- Whether a base die that is to be reset answers, so that its far cache is written back (R363; log 65). -/
opaque Config.answers : Nat → Bool
/-- Which of the values that it may see an engine op reads of a scratchpad byte that another thread wrote with no OFENCE between, by
the number of the read and the place (R264; log 66). -/
opaque Config.stale : Nat → Nat → Nat

/-- The part of a unit's saved state, as a region and an item of it, that a byte of its save block holds (R345; log 72). -/
opaque Config.savePlace : Nat → Nat → Nat × Nat

/-- Which of the steps that the device can take comes next, by the number of the choice, and the nanoseconds that pass before it (log 2). -/
opaque Config.pick : Nat → Nat
opaque Config.elapse : Nat → Nat

/-- The silicon revision (R392: from 0x01). DESIGN CHOICE (log 4). -/
def Config.revision : Nat := 1
/-- Lines an L1 holds: 128 KiB of 128-byte lines (R116). -/
def Config.l1Lines : Nat := 1024
/-- Lines an instruction cache holds (R17). -/
def Config.icLines : Nat := 1024

end Sys2Proof
end

