-- ==== Sys2Proof/Machine/State.lean ====
section
/-! DEFINITION. The state of the machine as plain data: every register, memory and object that the manual gives the device,
its reset value, and the reasons a step can stop. -/

namespace Sys2Proof.Machine

/-- Why the machine stops with a fault. -/
inductive Fault where
  /-- An encoded instruction was given to exec while no thread is the current one (State.cur names no thread of the
  machine). Raised by every encoded instruction's meaning; step never gives it, since step sets the current thread first.
  Safe: no run of the machine reaches it. -/
  | noThread
  deriving DecidableEq, Repr

/-- Why a step has no meaning. -/
inductive Refusal where
  /-- The instruction has no meaning in this model yet. Raised by the arm of exec for it; safe. -/
  | notModelled (mnemonic : String)
  deriving DecidableEq, Repr

/-! ## Bytes -/

/-- The addresses from lo up to hi hold undefined values (R7), read through Config.undefByte under this seed. -/
structure URange where
  lo   : Nat
  hi   : Nat
  seed : Nat
  deriving DecidableEq, Repr

/-- A byte store: written bytes, strictly rising by address and never zero, and the ranges of undefined bytes.
A byte in neither reads zero. -/
structure Store where
  cells : List Host.Cell := []
  undef : List URange := []
  deriving DecidableEq, Repr

/-- Where a byte lies: at its home by DPA (local below 2^51, host bus addresses from 2^51, peer module m from
2^52 + m x 2^51), in a unit's scratchpad (physical offset), in the backing store of the own windows of a gang (numbered
threadKey / 32; R56), or in a unit's operand buffer. -/
inductive Loc where
  | home (dpa : Nat)
  | scratch (uid off : Nat)
  | priv (gk off : Nat)
  | obuf (uid off : Nat)
  deriving DecidableEq, Repr

/-! ## Threads -/

/-- A bypass latch (R130, R132) and the cycle at which its value is complete (R133). -/
structure Latch where
  val   : Word := 0
  valid : Bool := false
  done  : Nat := 0
  deriving DecidableEq, Repr

/-- A bound stream port (R123, R124). -/
structure PortBind where
  base   : Word
  stride : Word
  count  : Nat
  pos    : Nat
  code   : Byte
  desc   : Word
  deriving DecidableEq, Repr

/-- A prefetched element of an in-port: its value, or the cause its fetch failed with, and where it was read (R126, R128);
wait says that its collector entry has still to bring it (R114, R115), seq the number of its access. -/
structure InElem where
  val : Word
  err : Option Nat := none
  loc : Option Loc := none
  wait : Bool := false
  seq : Nat := 0
  deriving DecidableEq, Repr

/-- An element that an out-port still holds (R127, R128), with the place of an element in a window, which the writing instruction
decided. -/
structure OutElem where
  addr  : Word
  loc   : Option Loc := none
  bytes : List Byte
  tloc  : Word
  seq   : Nat
  deriving DecidableEq, Repr

/-- A stream port with its FIFO. -/
structure Port where
  bind : Option PortBind := none
  fin  : List InElem := []
  fout : List OutElem := []
  tokIn  : Option Nat := none
  tokOut : Option Nat := none
  deriving DecidableEq, Repr

/-- An active hardware loop level (R280). -/
structure LoopLevel where
  lc    : BitVec 32
  s     : Word
  e     : Word
  depth : Nat
  deriving DecidableEq, Repr

/-- The region shadow (R285). -/
structure Shadow where
  ports   : List (Option PortBind) := [none, none, none, none]
  loops   : List LoopLevel := []
  cd      : Nat := 0
  uord    : Nat := 0
  arrDone : Bool := false
  ih      : Bool := false
  hv      : Word := 0
  hd      : Nat := 0
  deriving DecidableEq, Repr

/-- What a parked thread waits for (R9). -/
inductive Park where
  | presence (uid line : Nat)          -- R112
  | fault (token : Nat)                -- R74: an entry of a fault buffer
  | faultFull                          -- R74: no entry is free
  | counter (loc : Loc) (target until_ : Nat) -- R104: the counter reaches the target; re-read when this tmr is reached
  | chan (ch : Nat)                    -- R81: place in a copy channel's queue
  | matrix                             -- R214: place in the matrix engine's queue
  | performed (sys : Bool) (core : Bool) (clean : Bool) -- R242, R244, R250, R251: own accesses, and with core all of the core's
                                       -- writes; with clean, or until an error of one is to be delivered
  | groupWrites                        -- R213: scratchpad writes of the group
  | completed                          -- R288: earlier loads completed and writes performed
  | instance_                          -- R185: a collective's record holds the thread
  | instFreed                          -- R185, R190: a failed record is still open
  | round (slot rnd : Nat)             -- R192: round rnd of the slot must complete
  | utable                             -- R275
  | specFull                           -- R331
  | admitted                           -- R329: 4,096 launches wait
  | specEnd (lid : Nat)                -- R333: units and engine ops of the launch end
  | haltDone (uid : Nat)               -- R349: every live thread of the target is halted
  deriving DecidableEq, Repr

/-- An outstanding load, LDACQ or ATOM of a thread (R118, R119, R241, R244). -/
structure LoadRec where
  idx   : Nat
  d     : Nat
  pair  : Bool := false
  size  : Nat
  sgn   : Bool := false
  loc   : Loc
  va    : Word
  tloc  : Word
  seq   : Nat
  res   : Option Word := none
  res2  : Option Word := none
  err   : Option Nat := none
  block : Bool := false
  acq   : Bool := false
  deriving DecidableEq, Repr

/-- What a thread, or an engine op that it has accepted, comes after, by the number that the machine's next access had then: scratchpad
writes of its group before its last OFENCE, and writes before the last acquire before that (R213); and everything before its last
acquire (R238; log 26). -/
structure Order where
  fence  : Nat := 0
  facq   : Nat := 0
  acq    : Nat := 0
  deriving DecidableEq, Repr

/-- A data-path error that waits for its delivery point (R78): the registers of a failed load, or none for a store. -/
structure PendErr where
  regs  : List Nat
  cause : Nat
  tloc  : Word
  deriving DecidableEq, Repr

/-! ## Cards -/

/-- A copy card (R83) with its optional STATUS address. -/
structure CopyCard where
  src  : Word
  dst  : Word
  xb   : Nat
  yc   : Nat
  zc   : Nat
  mc   : Bool
  res  : Bool
  sys_ : Int
  szs  : Int
  dys  : Int
  dzs  : Int
  ctr  : Word
  inc  : Nat
  mask : Nat
  csc  : Nat
  stat : Option Word
  deriving DecidableEq, Repr

/-- A gather card (R88). -/
structure GathCard where
  idx : Word
  src : Word
  dst : Word
  rb  : Nat
  cnt : Nat
  bnd : Nat
  srs : Nat
  drs : Nat
  res : Bool
  csc : Nat
  ctr : Word
  cma : Word
  deriving DecidableEq, Repr

/-- The card of a copy-channel op. -/
inductive Card where
  | copy (c : CopyCard)
  | gath (c : GathCard)
  deriving DecidableEq, Repr

/-- A loop level of a matrix job (R207). -/
structure JobLevel where
  trip : Nat
  ast  : Int
  bst  : Int
  cst  : Int
  xst  : Int
  dim  : Nat
  deriving DecidableEq, Repr

/-- A matrix job card (R205) with the fields of its ASCALE option (R203). -/
structure JobCard where
  flags  : Nat
  af     : Nat
  bf     : Nat
  cf     : Nat
  mt     : Nat
  nt     : Nat
  kt     : Nat
  lease  : Nat
  abase  : Word
  apitch : Nat
  idxv   : Word
  bh     : Nat
  boff   : Nat
  cbase  : Word
  cpitch : Nat
  bpitch : Nat
  ctr    : Word
  inc    : Nat
  csc    : Nat
  stat   : Word
  lvls   : List JobLevel
  asb    : Word
  asp    : Nat
  abb    : Word
  deriving DecidableEq, Repr

/-- A card that a parked instruction has read and checked, and offers to a queue that is full (R81, R96, R214); a job's with whether its
unit's job is locked, and the status record that it resumes from. -/
inductive Offer where
  | card (c : Card)
  | job (c : JobCard) (lock : Bool) (st : Option (List Byte))
  deriving DecidableEq, Repr

/-! ## The thread -/

/-- What an instruction that has issued and parked keeps: the values that it read, and the ports as they were before it read them
(R129, R307). -/
structure Held where
  vals  : List Word
  ports : List Port
  deriving DecidableEq, Repr

/-- A thread (R12, R130). -/
structure Thread where
  uid     : Nat
  tg      : Nat
  nregs   : Nat
  v       : List Word
  p       : List Bool := [false, false, false, false, false, false, false]
  b       : List Latch := [{}, {}, {}, {}]
  ports   : List Port := [{}, {}, {}, {}]
  loops   : List LoopLevel := []
  cd      : Nat := 0
  rpc     : Word
  shadow  : Shadow := {}
  pc      : Word
  pre     : List (BitVec 25) := []
  tcause  : Word := 0
  tloc    : Word := 0
  ih      : Bool := false
  hv      : Word := 0
  hd      : Nat := 0
  cord    : Nat := 0
  uord    : Nat := 0
  arr     : List Int := [-1, -1, -1, -1, -1, -1, -1, -1, -1, -1, -1, -1, -1, -1, -1, -1]
  arrDone : Bool := false
  live    : Bool := true
  ending  : Bool := false
  status  : Nat := 0
  park    : Option Park := none
  resume_ : Bool := false
  mark    : Option Nat := none
  loads   : List LoadRec := []
  nextIdx : Nat := 0
  errs    : List PendErr := []
  busy    : List (Nat × Nat) := []
  w       : Nat := 0
  yieldTo : Nat := 0
  depriTo : Nat := 0
  freeAt  : Nat := 0
  pbuf    : List (Word × Parcel) := []
  seatPt  : Bool := true
  halted  : Bool := false
  atBreak : Bool := false
  stepping : Bool := false
  /-- the comparators that its next instruction does not match: n for a PC comparator, 8 + n for a watch comparator (R350) -/
  skip    : List Nat := []
  ftok    : Option Nat := none
  /-- the places that the accesses of the parked instruction have been checked to name (R57, R112) -/
  places  : List (Word × Loc) := []
  /-- what the parked instruction offers to an engine's queue (R96, R214) -/
  offer   : Option Offer := none
  /-- what the parked instruction read when it issued: it does not read its sources again (R307) -/
  held    : Option Held := none
  /-- what its accesses and the ops that it accepts come after (R213, R238) -/
  after   : Order := {}
  deriving DecidableEq, Repr

/-! ## Units -/

/-- Whether a unit runs, is being saved, is saved away, has ended, or is lost with its die (R344, R346, R289, R366). -/
inductive UState where
  | resident | saving | preempted | ended | lost
  deriving DecidableEq, Repr

/-- A reservation of the operand buffer with its record (R199, R200, R201). -/
structure Resv where
  off   : Nat
  size  : Nat
  fmt   : Nat
  blk   : Nat
  spm   : Bool
  bso   : Nat
  gso   : Nat
  mdo   : Nat
  auxp  : Nat
  releasing : Bool := false
  deriving DecidableEq, Repr

/-- A barrier slot (R191). -/
structure Bar where
  c : Nat
  n : Nat := 0
  r : Nat := 0
  deriving DecidableEq, Repr

/-- A thread's arrival in a collective's record, with its operands, where its result goes, and the in-port that gave its
source (R185, R189). -/
structure Arrival where
  ln : Nat
  a  : Word
  d  : Word
  dst : Option Dst
  port : Option Nat := none
  deriving DecidableEq, Repr

/-- The collectives (R188). -/
inductive CollFn where
  | elect | vany | vall | vbal | shfi | shfa | shfb | shfx
  | radd | rmin | rmax | rfadd | rdadd | scan | cmatch | gpart
  deriving DecidableEq, Repr

/-- The record of a tile's collective (R185). -/
structure InstRec where
  ord    : Nat
  fn     : CollFn
  size   : Nat := 0
  failed : Bool := false
  arrived : List Arrival := []
  trapped : List Nat := []
  deriving DecidableEq, Repr

/-- A record of a tile's U-branch rendezvous table (R275). -/
structure URec where
  ord  : Nat
  addr : Word
  out  : Bool
  set  : List Nat
  deriving DecidableEq, Repr

/-- A gang of a unit: tile size, seat, and the tables of its tiles by tile number (R183, R185, R275, R294, R295). -/
structure Gang where
  gpart : Nat := 32
  seat  : Option Nat := none
  home  : Nat := 0
  since : Nat := 0
  insts : AMap InstRec := []
  utab  : AMap (List URec) := []
  ubase : AMap Nat := []
  stepMask : BitVec 32 := BitVec.allOnes 32
  gfail : Option (List Nat) := none
  /-- the own windows of its threads (R56, R121) -/
  priv  : Store := {}
  deriving DecidableEq, Repr

/-- A UWR in flight (R140, R141). -/
structure UwrRec where
  n    : Nat
  val  : Word
  tk   : Nat
  arr  : Nat
  seat : Nat
  done : Nat
  deriving DecidableEq, Repr

/-- A scratchpad byte that a thread wrote, with the byte it replaced: an engine op that no OFENCE orders after the write reads
either (R213, R264). -/
structure Unfenced where
  off : Nat
  old : Byte
  tk  : Nat
  seq : Nat
  deriving DecidableEq, Repr

/-- A watch comparator (R349). -/
structure Watch where
  lo  : Nat
  hi  : Nat
  rd  : Bool
  wr  : Bool
  deriving DecidableEq, Repr

/-- The debug state of a unit that is not kept in its threads (R349, R351). -/
structure UnitDbg where
  under : Bool := false
  halt  : Bool := false
  bps   : List (Option Word) := [none, none, none, none, none, none, none, none]
  wps   : List (Option Watch) := [none, none, none, none]
  deriving DecidableEq, Repr

/-! ## Engines -/

/-- What an op or a job has found its counter to be: none, a place, or one that cannot be resolved (R95). -/
inductive CtrAt where
  | none
  | at_ (l : Loc)
  | bad (cause : Nat)
  deriving DecidableEq, Repr

/-- A piece of a landed row: where its bytes came from and where they went (R84, R98). -/
structure Piece where
  row : Nat
  src : Loc
  dst : List Loc
  n   : Nat
  deriving DecidableEq, Repr

/-- A run of bytes at a place. -/
structure Run where
  loc : Loc
  n   : Nat
  deriving DecidableEq, Repr

/-- A scratchpad line that a row or element of an op waits on (R103, R113). -/
structure LineWait where
  row  : Nat
  uid  : Nat
  line : Nat
  deriving DecidableEq, Repr

/-- An op of a copy channel (R80 to R103). -/
structure CopyOp where
  id      : Nat
  tk      : Nat
  uid     : Nat
  ch      : Nat
  seq     : Nat
  card    : Card
  decls   : AMap (List Word) := []
  /-- what its reads come after (R213, R264) -/
  after   : Order := {}
  start   : Nat := 0
  /-- its turn to begin has come (R82) -/
  opened  : Bool := false
  begun   : Bool := false
  skip    : List Nat := []
  landed  : List Nat := []
  failed  : List (Nat × Nat) := []
  cleared : List (Nat × Nat) := []
  mfail   : Nat := 0
  cause   : Nat := 0
  code    : Nat := 0
  stopped : Bool := false
  toks    : AMap Nat := []
  waitOn  : List LineWait := []
  waitFrom : Nat := 0
  waited  : Nat := 0
  dst     : List Run := []
  src     : List Run := []
  index   : List (Nat × Run) := []
  pieces  : List Piece := []
  taint   : List Run := []
  pins    : List (Nat × Nat) := []
  probed  : Bool := false
  /-- the watchdog has ended its wait for the line of its counter (R103) -/
  late    : Bool := false
  /-- which elements it transfers depends on mask bits that it read from a line which it cleared itself (R113) -/
  unsure  : Bool := false
  /-- its counter, once it has been resolved (R95) -/
  ctr     : Option CtrAt := none
  /-- its status word is written (R95) -/
  statDone : Bool := false
  /-- once it has ended: the counter update that covers its writes, and the value it wrote; then the number of the first access that has
  passed on it (R266, R268) -/
  upd     : Option (Loc × Nat) := none
  closed  : Option Nat := none
  deriving DecidableEq, Repr

/-- A matrix job (R209 to R220); acc holds the running accumulators of the tile, none for an absent one; cells names the
written C elements and their places; bad rows, columns and elements are those that R220 leaves undefined. -/
structure Job where
  id     : Nat
  tk     : Nat
  uid    : Nat
  seq    : Nat
  card   : JobCard
  recomb : Bool
  why    : Nat
  ord2   : Bool
  ticket : Word
  /-- the tile declarations at acceptance, and what its reads come after (R109, R213, R264) -/
  decls  : AMap (List Word) := []
  after  : Order := {}
  tile   : Nat
  seg    : Nat := 0
  acc    : List (Option Word) := []
  steps  : Nat
  ctx    : Bool := false
  ended  : Bool := false
  code   : Nat := 0
  cause  : Nat := 0
  waitOn : Option (Nat × Nat) := none
  waitFrom : Nat := 0
  waited : Nat := 0
  toks   : AMap Nat := []
  cells  : List (Nat × Nat × Loc) := []
  badRows : List Nat := []
  badCols : List Nat := []
  badCells : List (Nat × Nat) := []
  allBad : Bool := false
  /-- as for an op of a copy channel (R217, R266) -/
  late   : Bool := false
  ctr    : Option CtrAt := none
  statDone : Bool := false
  upd    : Option (Loc × Nat) := none
  closed : Option Nat := none
  deriving DecidableEq, Repr

/-! ## Cores -/

/-- A line entry of the request collector (R115). -/
structure LineEnt where
  line : Loc
  at_  : Nat
  deriving DecidableEq, Repr

/-- A plain write that has issued and not performed (R255); spec names the speculative launch, 0 for none; ent numbers the collector
entry that it has left in, 0 for none (R115); seen says that a read of its thread has returned it, so that every read of the core does
(R254). -/
structure Pend where
  tk    : Nat
  seq   : Nat
  loc   : Loc
  bytes : List Byte
  va    : Word
  tloc  : Word
  spec  : Nat := 0
  inColl : Bool := false
  ent   : Nat := 0
  seen  : Bool := false
  deriving DecidableEq, Repr

/-- An instruction cache line, tagged by address space and virtual address (R308, R292). -/
structure ICLine where
  asn   : Nat
  line  : Nat
  bytes : List Byte
  deriving DecidableEq, Repr

/-- An instruction of a loop body in the loop buffer of a lane array, tagged as in the instruction cache: its parcels with their
addresses (R308). -/
structure LoopEnt where
  tag : Nat
  ps  : List (Word × Parcel)
  deriving DecidableEq, Repr

/-- A fault-buffer entry (R74, R415); ck is the core, or none for the sequencer; die is the logical die of the core; one that has
ended keeps its record until that is written (R72). -/
structure FaultEnt where
  token : Nat
  ck    : Option Nat
  die   : Nat := 0xFF
  asn   : Nat
  va    : Word
  kind  : Nat
  reason : Nat
  born  : Nat
  written : Bool := false
  live  : Bool := true
  deriving DecidableEq, Repr

/-- An error-log or management-log entry (R79, R385). -/
structure LogEnt where
  addr  : Word
  cause : Nat
  kind  : Nat
  who   : Nat
  unit  : Nat
  time  : Nat
  dpa   : Bool
  deriving DecidableEq, Repr

/-- A seat of a lane array (R294, R295). -/
structure Seat where
  uid : Nat
  gg  : Nat
  at_ : Nat
  due : Bool := false
  deriving DecidableEq, Repr

/-- A lane array: rotation index, the cycle of its next round, seats, and loop buffer (R294, R300, R308). -/
structure LaneArray where
  rot   : Nat := 0
  cyc   : Nat := 0
  seats : List (Option Seat) := [none, none, none, none]
  loopBuf : List LoopEnt := []
  deriving DecidableEq, Repr

/-- A core. -/
structure Core where
  coll  : List LineEnt := []
  pend  : List Pend := []
  l1    : List (Loc × List Byte) := []
  ic    : List ICLine := []
  chans : List (List CopyOp) := [[], [], [], [], [], [], [], []]
  waitq : List (List Nat) := [[], [], [], [], [], [], [], [], []]
  jobs  : List Job := []
  /-- ops and jobs that have ended, for threads that have not passed on their counter update (R268) -/
  doneOps : List CopyOp := []
  doneJobs : List Job := []
  run   : Option Nat := none
  leased : Nat := 0
  mxCount : Nat := 0
  log   : List LogEnt := []
  lost  : Nat := 0
  arrays : List LaneArray := [{}, {}, {}, {}]
  deriving DecidableEq, Repr

/-- A power cluster (R139, R376, R377, R378). -/
structure Cluster where
  clk   : Nat := 0
  step  : Nat := 0
  rat   : Nat := 0
  cstep : Nat := 0
  crat  : Nat := 0
  /-- a change of ratio is under way, and the ratio that it goes to -/
  changing : Bool := false
  goal  : Nat := 0
  droop : Bool := false
  droopAt : Nat := 0
  hold  : Bool := false
  holdEnd : Nat := 0
  holdFree : Nat := 0
  deriving DecidableEq, Repr

/-- A unit: one thread group (R313, R324). -/
structure TUnit where
  lid   : Nat
  idx   : Nat
  stat  : UState := .resident
  ck    : Nat
  slot  : Nat
  esize : Nat := 1
  g     : Nat
  uni   : List Word
  uwr   : List UwrRec := []
  scr   : Store := {}
  scrSize : Nat := 0
  scrHeld : Bool := true
  absent : List Nat := []
  unfenced : List Unfenced := []
  obuf  : Store := {}
  obSize : Nat := 0
  obHeld : Bool := true
  resv  : AMap Resv := []
  bars  : List Bar
  gangs : AMap Gang
  f     : Nat := 1
  order : Nat := 0
  exited : Nat := 0
  smax  : Nat := 0
  sor   : Nat := 0
  cycles : Nat := 0
  startClk : Nat := 0
  dbg   : UnitDbg := {}
  savedOps : List CopyOp := []
  savedJobs : List Job := []
  /-- the homes of the save block as far as they are known, and the offsets in it that software has written (R345) -/
  save  : List Run := []
  saveHit : List Nat := []
  saveTok : Option Nat := none
  counted : Bool := false
  /-- of a unit that was cancelled on its core: the number of the first access after that, which the publication at its end comes before
  (R255, R330) -/
  endMark : Nat := 0
  /-- of a unit that a failed die has lost: the sparing sequence, as COUNT numbers it (R368, R369) -/
  lostBy : Nat := 0
  deriving DecidableEq, Repr

/-! ## Hub -/

/-- A role of a launch (R322). -/
structure Role where
  gangs : Nat
  regs  : Nat
  entry : Word
  deriving DecidableEq, Repr

/-- A launch descriptor (R322). -/
structure Desc where
  units : Nat
  cls   : Nat
  prio  : Nat
  e     : Nat
  spread : Bool
  specv : Bool
  dbgp  : Bool
  spb   : Nat
  obb   : Nat
  pvb   : Nat
  roles : List Role
  lctr  : Word
  urec  : Word
  traph : Word
  save  : Word
  spbuf : Word
  deriving DecidableEq, Repr

/-- The speculation buffer of a launch: its capacity in lines, where its header and its bytes lie, the header's bytes as they were read,
and the lines in order of entry with their written bytes (R331); written counts those that a commit has written home (R333). -/
structure SpecBuf where
  cap   : Nat
  head  : Nat
  hdr   : List Byte := []
  area  : List Run := []
  lines : List (Nat × List (Nat × Byte)) := []
  written : Nat := 0
  deriving DecidableEq, Repr

/-- An accepted launch (R313, R322, R329). -/
structure Launch where
  gkey  : Nat
  jid   : Nat
  desc  : Desc
  args  : List Word
  wctr  : Word := 0
  wval  : Word := 0
  wlogged : Bool := false
  wok   : Bool := false
  started : List Nat := []
  done  : List Nat := []
  spec  : Option SpecBuf := none
  resolved : Bool := false
  cancelled : Bool := false
  complete : Bool := false
  preDbg : AMap UnitDbg := []
  deriving DecidableEq, Repr

/-- A graph (R313); key tells apart graphs that carry one id after another. -/
structure Graph where
  key   : Nat
  gid   : Nat
  jid   : Nat
  phase : Nat
  gctr  : Word
  closed : Bool := false
  cancelled : Bool := false
  complete : Bool := false
  deriving DecidableEq, Repr

/-- An open job (R313, R317, R319). -/
structure HJob where
  chain : Nat
  lock  : Bool
  dbg   : Bool
  root  : Word
  asn   : Nat
  slice : List Nat
  resv  : List Word
  jctr  : Word
  pctr  : Word
  phase : Nat := 0
  curGraph : Option Nat := none
  cancelled : Bool := false
  cancelledPhases : List Nat := []
  /-- the number of the last access that the boundary being made waits for (R315) -/
  boundary : Option Nat := none
  /-- the current phase was cancelled, and has completed before the chain has come to its end (R330) -/
  early  : Bool := false
  /-- the last phase of a cancelled job is complete -/
  closing : Bool := false
  deriving DecidableEq, Repr

/-- Where a chain stands with the entry at its head (R318). -/
inductive ChainPhase where
  | fetch        -- the entry has not been taken up
  | waiting      -- taken up; its retirement condition is awaited
  | retiring     -- retires with the next CHAIN_ENTRY_RETIRE
  deriving DecidableEq, Repr

/-- A chain register block and its progress (R316 to R321): the entry taken up with the launch it has accepted, and whether
the chain of a cancelled job skips to the entry after END (R330). -/
structure Chain where
  base  : Word := 0
  size  : Word := 0
  tail  : Word := 0
  head  : Nat := 0
  prog  : Word := 0
  stat  : Nat := 0
  reason : Nat := 0
  ereason : Nat := 0
  lastSeq : Option Nat := none
  phase : ChainPhase := .fetch
  entry : List Byte := []
  lid   : Nat := 0
  skip  : Bool := false
  job   : Option Nat := none
  deriving DecidableEq, Repr

/-- A packet whose data flits are still to come: where its payload goes, the bytes that are left, its requester and tag, whether a part
of it met an error, and the flits of one for another module, which leaves once it is whole (R370). -/
structure FlitCont where
  addr : Nat
  left : Nat
  src  : Nat
  tag  : Nat := 0
  write : Bool := true
  bad  : Bool := false
  fwd  : List (List Byte) := []
  deriving DecidableEq, Repr

/-- A packet that a port has accepted (R360, R370): the module it goes to and the line there, its flits, and the tag where it is a write of
this module; once it is sent, the link sequence number of its first flit, and which flits have been acknowledged. -/
structure Packet where
  dst   : Nat
  line  : Nat
  flits : List (List Byte)
  tag   : Option Nat := none
  first : Nat := 0
  acked : List Nat := []
  deriving DecidableEq, Repr

/-- A Speiz link (R359, R370). -/
structure Link where
  st    : Nat := 0
  lanes : Nat := 0
  replay : Nat := 0
  peer  : Nat := 0
  down  : Bool := false
  lseq  : Nat := 0
  fails : Nat := 0
  /-- the flits that it has sent since it trained -/
  sent  : Nat := 0
  /-- the packets that wait for room in its replay buffer, and those in it -/
  queue : List Packet := []
  unacked : List Packet := []
  /-- when an acknowledgement was last received, or its replay buffer last empty -/
  heard : Nat := 0
  /-- the sequence number that it last acknowledged to its peer -/
  lastAck : Option Nat := none
  cont  : Option FlitCont := none
  deriving DecidableEq, Repr

/-- A write to an off-package home that its port has accepted and that has not been delivered (R259): tag is that of its packet to a peer,
eng names the core and channel of an engine's write, and op its op. -/
structure OffWrite where
  seq   : Nat
  tk    : Nat
  tloc  : Word
  dpa   : Nat
  tag   : Nat := 0
  eng   : Option (Nat × Nat) := none
  op    : Nat := 0
  deriving DecidableEq, Repr

/-- A monitor (R380). -/
structure Monitor where
  cfg  : Word := 0
  src  : BitVec 32 := 0
  sel  : BitVec 32 := 0
  min  : Word := BitVec.allOnes 64
  max  : Word := 0
  cnt  : Word := 0
  bin  : List (BitVec 32) := List.replicate 32 0
  deriving DecidableEq, Repr

/-- The MGMT_RESET register and the sequence it runs (R362, R363); spare marks step 6 of a sparing sequence, and spareQ names the dies for
which one waits (R368); while drain holds, its endpoints are DRAINING, and take what was
accepted before the access number mark (R358, R363). -/
structure ResetCtl where
  busy   : Bool := false
  drain  : Bool := false
  mark   : Nat := 0
  dom    : Nat := 0
  die    : Nat := 0
  spare  : Bool := false
  queued : Option (Nat × Nat) := none
  spareQ : List Nat := []
  ldie   : Nat := 0
  ldom   : Nat := 0xFF
  deriving DecidableEq, Repr

/-- The sparing sequence and its event record (R368, R369); unspared holds the failed dies, with the cause, whose sequence has found no
spare. -/
structure Sparing where
  count  : Nat := 0
  failed : Nat := 0
  spareId : Nat := 0
  ldie   : Nat := 0
  cause  : Nat := 0
  step   : Nat := 0
  tdet   : Nat := 0
  rerun  : Nat := 0
  left   : Nat := 0
  testing : Option Nat := none
  waiting : List (Nat × Nat) := []
  unspared : List (Nat × Nat) := []
  deriving DecidableEq, Repr

/-- The mailbox (R384). -/
structure Mailbox where
  busy  : Bool := false
  code  : Nat := 0
  len   : Nat := 0
  tag   : Nat := 0
  result : Nat := 0
  rlen  : Nat := 0
  rtag  : Nat := 0
  req   : List Host.Cell := []
  reply : List Byte := []
  stage : Nat := 0
  part  : List (Nat × List Byte) := []
  deriving DecidableEq, Repr

/-- A cancellation that the sequencer has accepted and that has not taken effect (R330). -/
structure Cancellation where
  level : Nat
  id    : Nat
  jid   : Nat
  deriving DecidableEq, Repr

/-- A unit handle is its launch id above its index; this names the unit in State.units and its threads. -/
abbrev unitKey (lid idx : Nat) : Nat := lid * 4294967296 + idx
/-- The key of thread tg of a unit in State.threads. -/
abbrev threadKey (uid tg : Nat) : Nat := uid * 1024 + tg

/-- A step of the device that comes next, the nanoseconds that pass before it, the bytes that the host and the peer modules have
changed in their own memory meanwhile (by home address less 2^51), and the GDDR lines that the far cache has written back. -/
structure Turn where
  dt : Nat
  ev : Instr
  out : List Host.Cell := []
  back : List Nat := []
  deriving DecidableEq, Repr

/-- The bytes of a digest. -/
def digestBytes (d : BitVec 256) : List Byte := leBytes 32 d.toNat
/-- A measurement register that held m, extended by a digest (R382). -/
def extendMeas (m d : BitVec 256) : BitVec 256 := Config.sha3 (digestBytes m ++ digestBytes d)

/-- The hub, the host interface and the router island. -/
structure Hub where
  tmr    : Nat := 0
  /-- the module has taken its forward step of tmr, or may no longer take it (R379) -/
  joined : Bool := false
  xinvAsn : Word := 0
  xinvVa : Word := 0
  xinvLen : Word := 0
  /-- the address space, start and length of the invalidation that runs (R73) -/
  xinvRun : Word × Word × Word := (0, 0, 0)
  xinvDone : Bool := true
  /-- the home pages that the translations dropped by the invalidation that runs gave (R73) -/
  xinvBases : List Nat := []
  fqBase : Word := 0
  fqSize : Word := 0
  fqHead : Nat := 0
  fqTail : Nat := 0
  fqLimit : Word := 0
  token  : Nat := 0
  faults : List FaultEnt := []
  refused : List (Nat × Nat) := []
  chains : List Chain := List.replicate 16 {}
  nextChain : Nat := 0
  nextLid : Nat := 1
  jobs   : AMap HJob := []
  graphs : List Graph := []
  launches : AMap Launch := []
  cancels : List Cancellation := []
  /-- the fault entries on which the sequencer's accesses wait, by access (R415) -/
  seqToks : AMap Nat := []
  /-- completion records of cancelled units that are still to be written, by unit (R330) -/
  recs   : AMap (List Byte) := []
  pkgid  : Nat := 0
  aperBase : Word := 0
  bar2   : Nat := 1073741824
  bootDone : Bool := true
  bootStage : Nat := 0
  meas   : List (BitVec 256) := [extendMeas 0 (Config.factoryDigest 1), extendMeas 0 (Config.factoryDigest 2), extendMeas 0 (Config.factoryDigest 3), 0]
  images : AMap (List Byte) := []
  /-- the fused secret of the root of trust (R381) -/
  secret : BitVec 256 := Config.deviceSecret
  irq    : List Nat := [0, 0, 0, 0, 0, 0]
  msix   : List Host.Cell := []
  unsupported : Nat := 0
  mb     : Mailbox := {}
  mlog   : List LogEnt := []
  mlost  : Nat := 0
  islUp  : Bool := true
  ep     : List Nat := [2, 2, 2, 2, 2, 2, 2, 2, 2, 2]
  epEvent : List Bool := List.replicate 10 false
  links  : List Link := List.replicate 18 {}
  /-- the tag of the next write to a peer (R370) -/
  ptag   : Nat := 0
  route  : AMap Nat := []
  dmap   : Word := 0xBA98#64
  rst    : ResetCtl := {}
  spar   : Sparing := {}
  monitors : AMap Monitor := []
  hostReads : List (List Byte) := []
  deriving DecidableEq, Repr

/-- A cached translation of a 64 KiB page: its address at home and the leaf's permission bits X, W, RD (R68, R70). -/
structure TlbEnt where
  asn  : Nat
  page : Nat
  base : Nat
  perm : Nat
  deriving DecidableEq, Repr

/-- A byte that answers with an error: reads do, and with wr writes as well (R77, R101). -/
structure BadByte where
  loc   : Loc
  cause : Nat
  wr    : Bool
  deriving DecidableEq, Repr

/-- The whole machine. -/
structure State where
  /-- The thread whose instruction exec executes, by its key. -/
  cur    : Option Nat := none
  issueQ : List Nat := []
  sched  : List Turn := []
  turn   : Nat := 0
  fresh  : Nat := 0
  seq    : Nat := 1
  threads : AMap Thread := []
  units  : AMap TUnit := []
  cores  : AMap Core := []
  clusters : AMap Cluster := []
  mem    : Store := {}
  bad    : List BadByte := []
  /-- the GDDR lines that the far cache holds changed, with the bytes that GDDR still holds (R62) -/
  far    : AMap (List Byte) := []
  /-- the core that the tag of a line names, by the line, with the number of the release that set it (R257) -/
  tags   : AMap (Nat × Nat) := []
  tlb    : List TlbEnt := []
  slice  : List Nat := [0, 0, 0, 0]
  offw   : List OffWrite := []
  hub    : Hub := {}
  deriving DecidableEq, Repr

/-- The machine after power-on: registers at the manual's reset values, and at the values of log 4 where it gives none;
no unit, no memory written. -/
def State.reset : State := {}

end Sys2Proof.Machine
end

