-- ==== Sys2Proof/Machine/Memory.lean ====
section
/-! DEFINITION. Byte stores: reading and writing one byte and runs of bytes, in the canonical form of a Store. -/

namespace Sys2Proof.Machine

/-- Cells strictly rising by address, all above a bound, none zero. -/
def cellsWf : Option Nat → List Host.Cell → Bool
  | _, [] => true
  | lo, (a, b) :: rest => (match lo with | none => true | some l => l < a) && b != 0 && cellsWf (some a) rest

/-- The canonical form: addresses strictly rising and no entry that equals what an unlisted address reads as. -/
def Store.wf (m : Store) : Bool := cellsWf none m.cells

/-- The byte listed at an address, zero where none is. -/
def cellAt : List Host.Cell → Nat → Byte
  | [], _ => 0
  | (a, b) :: rest, k => if a = k then b else if k < a then 0 else cellAt rest k

/-- Lists byte v at address k, or drops the entry where v is what an unlisted address reads as. -/
def setCell : List Host.Cell → Nat → Byte → List Host.Cell
  | [], k, v => if v = 0 then [] else [(k, v)]
  | (a, b) :: rest, k, v =>
    if k < a then (if v = 0 then (a, b) :: rest else (k, v) :: (a, b) :: rest)
    else if a = k then (if v = 0 then rest else (k, v) :: rest)
    else (a, b) :: setCell rest k v

/-- The seed of the undefined range that holds an address. -/
def undefSeed : List URange → Nat → Option Nat
  | [], _ => none
  | r :: rest, k => if r.lo ≤ k && k < r.hi then some r.seed else undefSeed rest k

/-- Takes addresses lo up to hi out of every undefined range. -/
def cutUndef : List URange → Nat → Nat → List URange
  | [], _, _ => []
  | r :: rest, lo, hi =>
    if hi ≤ r.lo || r.hi ≤ lo then r :: cutUndef rest lo hi
    else
      (if r.lo < lo then [{ r with hi := lo }] else []) ++ (if hi < r.hi then [{ r with lo := hi }] else [])
        ++ cutUndef rest lo hi

/-- The cells outside lo up to hi. -/
def cutCells : List Host.Cell → Nat → Nat → List Host.Cell
  | [], _, _ => []
  | (a, b) :: rest, lo, hi => if lo ≤ a && a < hi then cutCells rest lo hi else (a, b) :: cutCells rest lo hi

/-- Reads one byte: a free value where the byte is undefined (R7). -/
def Store.byte (m : Store) (k : Nat) : Byte :=
  match undefSeed m.undef k with
  | some seed => Config.undefByte seed k
  | none => cellAt m.cells k

/-- Writes one byte. -/
def Store.setByte (m : Store) (k : Nat) (v : Byte) : Store :=
  { cells := setCell m.cells k v, undef := cutUndef m.undef k (k + 1) }

/-- Reads n bytes from an address upward. -/
def Store.bytes (m : Store) (k : Nat) : Nat → List Byte
  | 0 => []
  | n + 1 => m.byte k :: m.bytes (k + 1) n

/-- Writes bytes from an address upward. -/
def Store.setBytes (m : Store) (k : Nat) : List Byte → Store
  | [] => m
  | b :: bs => (m.setByte k b).setBytes (k + 1) bs

/-- Makes the bytes lo up to hi undefined under a seed. -/
def Store.forget (m : Store) (lo hi seed : Nat) : Store :=
  if lo < hi then
    { cells := cutCells m.cells lo hi, undef := { lo := lo, hi := hi, seed := seed } :: cutUndef m.undef lo hi }
  else m

/-- Makes the bytes lo up to hi zero. -/
def Store.zero (m : Store) (lo hi : Nat) : Store :=
  { cells := cutCells m.cells lo hi, undef := cutUndef m.undef lo hi }

/-- A little-endian value (R3). -/
def leVal : List Byte → Nat
  | [] => 0
  | b :: bs => b.toNat + 256 * leVal bs

/-- Bits hi down to lo of a natural number (R2). -/
def bits (x hi lo : Nat) : Nat := x / 2 ^ lo % 2 ^ (hi + 1 - lo)

/-- A field read as a signed 32-bit number. -/
def s32 (x : Nat) : Int := (BitVec.ofNat 32 x).toInt

/-- Rounds up to a multiple of k. -/
def roundUp (x k : Nat) : Nat := (x + k - 1) / k * k

/-- A little-endian field of n bytes at an offset of a byte list; bytes past its end read zero. -/
def field (bs : List Byte) (off n : Nat) : Nat := leVal ((bs.drop off).take n)

/-- Whether every byte of a field is zero. -/
def zeroField (bs : List Byte) (off n : Nat) : Bool := ((bs.drop off).take n).all (· == 0)

/-- Sets element i of a list, changing nothing where it has none. -/
def setAt {α : Type} : List α → Nat → α → List α
  | [], _, _ => []
  | _ :: xs, 0, y => y :: xs
  | x :: xs, i + 1, y => x :: setAt xs i y

/-- Removes element i of a list. -/
def dropAt {α : Type} : List α → Nat → List α
  | [], _ => []
  | _ :: xs, 0 => xs
  | x :: xs, i + 1 => x :: dropAt xs i

/-- The numbers from k upward, n of them. -/
def upFrom (k : Nat) : Nat → List Nat
  | 0 => []
  | n + 1 => k :: upFrom (k + 1) n

/-- The position of the first element that a test accepts. -/
def findPos {α : Type} (f : α → Bool) : List α → Option Nat
  | [] => none
  | x :: xs => if f x then some 0 else (findPos f xs).map (· + 1)

end Sys2Proof.Machine
end

