-- ==== Sys2Proof/Machine/Float.lean ====
section
/-! DEFINITION. Number formats: reading values, exact arithmetic on them, rounding, the summation order, and the special
functions of the lanes. -/

namespace Sys2Proof.Machine

/-- A value: not a number, an infinity, a signed zero, or the nonzero real (-1)^neg x m x 2^e. -/
inductive FVal where
  | nan
  | inf (neg : Bool)
  | zero (neg : Bool)
  | fin (neg : Bool) (m : Nat) (e : Int)
  deriving DecidableEq, Repr

/-- A format: widths of exponent and fraction, bias, and whether all-ones exponents are infinities and NaNs (R144). -/
structure Fmt where
  eb   : Nat
  p    : Nat
  bias : Int
  ieee : Bool := true
  sign : Bool := true
  e4m3 : Bool := false
  deriving DecidableEq, Repr

def f64 : Fmt := { eb := 11, p := 52, bias := 1023 }
def f32 : Fmt := { eb := 8, p := 23, bias := 127 }
def f16 : Fmt := { eb := 5, p := 10, bias := 15 }
def bf16 : Fmt := { eb := 8, p := 7, bias := 127 }
def e5m2 : Fmt := { eb := 5, p := 2, bias := 15 }
def e4m3 : Fmt := { eb := 4, p := 3, bias := 7, ieee := false, e4m3 := true }
def e2m1 : Fmt := { eb := 2, p := 1, bias := 1, ieee := false }
def ue3m5 : Fmt := { eb := 3, p := 5, bias := 3, ieee := false, sign := false }

/-- The width of a format. -/
def Fmt.width (f : Fmt) : Nat := f.eb + f.p + (if f.sign then 1 else 0)
/-- The exponent of the subnormal quantum (R145). -/
def Fmt.quantum (f : Fmt) : Int := 1 - f.bias - f.p
/-- The largest exponent of a finite value of a format with infinities. -/
def Fmt.emax (f : Fmt) : Int := 2 ^ f.eb - 2 - f.bias
/-- The canonical NaN (R153). -/
def Fmt.canon (f : Fmt) : Nat := (2 ^ (f.eb + 1) - 1) * 2 ^ (f.p - 1)

/-- The value of an encoding (R145). -/
def Fmt.val (f : Fmt) (x : Nat) : FVal :=
  let neg := f.sign && bits x (f.eb + f.p) (f.eb + f.p) == 1
  let E := bits x (f.eb + f.p - 1) f.p
  let F := x % 2 ^ f.p
  if E = 0 then (if F = 0 then .zero neg else .fin neg F f.quantum)
  else if f.ieee && E == 2 ^ f.eb - 1 then (if F = 0 then .inf neg else .nan)
  else if f.e4m3 && E == 15 && F == 7 then .nan
  else .fin neg (2 ^ f.p + F) (f.quantum + (E - 1 : Int))

/-- Rounding modes (R156). -/
inductive RMode where
  | rn | rz | rm | rp
  deriving DecidableEq, Repr

/-- m / 2^k rounded to an integer in a mode, for a magnitude of the given sign. -/
def roundShift (mode : RMode) (neg : Bool) (m k : Nat) : Nat :=
  let q := m / 2 ^ k
  let r := m % 2 ^ k
  let up := match mode with
    | .rn => 2 * r > 2 ^ k || (2 * r == 2 ^ k && q % 2 == 1)
    | .rz => false
    | .rm => neg && r != 0
    | .rp => !neg && r != 0
  if up then q + 1 else q

/-- 2^n for an integer n at least 0, 1 below. -/
def pow2 (n : Int) : Nat := 2 ^ n.toNat

/-- The infinity or largest finite value that an overflow gives (R156, R157). -/
def Fmt.overflow (f : Fmt) (mode : RMode) (sat neg : Bool) : FVal :=
  let toMax := sat || (match mode with | .rn => false | .rz => true | .rm => !neg | .rp => neg)
  if toMax then .fin neg (2 ^ (f.p + 1) - 1) (f.emax - f.p) else .inf neg

/-- Rounds an exact value to a format with infinities (R156, R157). -/
def Fmt.round (f : Fmt) (mode : RMode) (sat : Bool) : FVal → FVal
  | .fin neg m e =>
    let top := (Nat.log2 m : Int) + e
    let q := max (top - f.p) f.quantum
    let k := if e ≥ q then m * pow2 (e - q) else roundShift mode neg m (q - e).toNat
    if k = 0 then .zero neg
    else if (Nat.log2 k : Int) + q > f.emax then f.overflow mode sat neg
    else .fin neg k q
  | v => v

/-- The encoding of a value that lies in a format (R144, R153). -/
def Fmt.enc (f : Fmt) : FVal → Nat
  | .nan => f.canon
  | .inf neg => (if neg then 2 ^ (f.eb + f.p) else 0) + (2 ^ f.eb - 1) * 2 ^ f.p
  | .zero neg => if neg then 2 ^ (f.eb + f.p) else 0
  | .fin neg m e =>
    let q := max ((Nat.log2 m : Int) + e - f.p) f.quantum
    let k := if e ≥ q then m * pow2 (e - q) else m / pow2 (q - e)
    (if neg then 2 ^ (f.eb + f.p) else 0) +
      (if k < 2 ^ f.p then k else (q - f.quantum + 1).toNat * 2 ^ f.p + (k - 2 ^ f.p))

/-- Rounds to nearest even and encodes (R9). -/
def Fmt.rne (f : Fmt) (v : FVal) : Nat := f.enc (f.round .rn false v)

/-! ## Exact arithmetic -/

/-- The sign bit of a value; a NaN has none (R153). -/
def FVal.neg? : FVal → Bool
  | .nan => false
  | .inf n => n
  | .zero n => n
  | .fin n _ _ => n
/-- The value with its sign inverted. -/
def FVal.negate : FVal → FVal
  | .nan => .nan
  | .inf n => .inf !n
  | .zero n => .zero !n
  | .fin n m e => .fin (!n) m e

/-- A nonzero integer times a power of two, or the zero of a sign. -/
def ofIntExp (x : Int) (e : Int) (zneg : Bool) : FVal :=
  if x = 0 then .zero zneg else .fin (x < 0) x.natAbs e

/-- The signed integer m x 2^(e - lo) of a finite value. -/
def scaledInt (neg : Bool) (m : Nat) (e lo : Int) : Int :=
  let x : Int := m * pow2 (e - lo)
  if neg then -x else x

/-- An exact sum (R155, R168): zeros of opposite signs and cancellation give +0. -/
def FVal.add : FVal → FVal → FVal
  | .nan, _ => .nan
  | _, .nan => .nan
  | .inf a, .inf b => if a = b then .inf a else .nan
  | .inf a, _ => .inf a
  | _, .inf b => .inf b
  | .zero a, .zero b => .zero (a && b)
  | .zero _, x => x
  | x, .zero _ => x
  | .fin na ma ea, .fin nb mb eb =>
    let lo := min ea eb
    ofIntExp (scaledInt na ma ea lo + scaledInt nb mb eb lo) lo false

/-- An exact product (R155, R168). -/
def FVal.mul : FVal → FVal → FVal
  | .nan, _ => .nan
  | _, .nan => .nan
  | .inf _, .zero _ => .nan
  | .zero _, .inf _ => .nan
  | .inf a, x => .inf (a != x.neg?)
  | x, .inf b => .inf (x.neg? != b)
  | .zero a, x => .zero (a != x.neg?)
  | x, .zero b => .zero (x.neg? != b)
  | .fin na ma ea, .fin nb mb eb => .fin (na != nb) (ma * mb) (ea + eb)

/-- Whether a value is an infinity or a NaN. -/
def FVal.special : FVal → Bool
  | .nan => true
  | .inf _ => true
  | _ => false

/-- The order of two values, none where either is a NaN; zeros are equal (R171). -/
def FVal.cmp (a b : FVal) : Option Ordering :=
  match a, b with
  | .nan, _ => none
  | _, .nan => none
  | .inf x, .inf y => some (if x = y then .eq else if x then .lt else .gt)
  | .inf x, _ => some (if x then .lt else .gt)
  | _, .inf y => some (if y then .gt else .lt)
  | x, y => match x.add y.negate with
    | .fin n _ _ => some (if n then .lt else .gt)
    | _ => some .eq

/-- Whether an encoding of a format with infinities is a NaN (R145). -/
def Fmt.isNan (f : Fmt) (x : Nat) : Bool := f.val x == .nan

/-- A key that orders the encodings of a format as R158 does. -/
def Fmt.orderKey (f : Fmt) (x : Nat) : Int :=
  let mag : Int := (x % 2 ^ (f.eb + f.p) : Nat)
  if x / 2 ^ (f.eb + f.p) % 2 = 1 then -mag - 1 else mag

/-- minimumNumber and maximumNumber on encodings (R158). -/
def Fmt.minmax (f : Fmt) (greater : Bool) (a b : Nat) : Nat :=
  if f.isNan a then (if f.isNan b then f.canon else b)
  else if f.isNan b then a
  else if greater then (if f.orderKey a ≥ f.orderKey b then a else b)
  else (if f.orderKey a ≤ f.orderKey b then a else b)

/-! ## The summation order (R162) -/

/-- Combines two nodes, of which either may be absent. -/
def combine (rnd : FVal → FVal) : Option FVal → Option FVal → Option FVal
  | none, b => b
  | a, none => a
  | some a, some b => some (rnd (a.add b))

/-- One level of the tree. -/
def treeLevel (rnd : FVal → FVal) : List (Option FVal) → List (Option FVal)
  | a :: b :: rest => combine rnd a b :: treeLevel rnd rest
  | l => l

/-- The root of a block of 32 leaves. -/
def treeRoot (rnd : FVal → FVal) (xs : List (Option FVal)) : Option FVal :=
  let xs := xs ++ List.replicate (32 - xs.length) none
  ((treeLevel rnd (treeLevel rnd (treeLevel rnd (treeLevel rnd (treeLevel rnd xs)))))[0]?).join

/-- Adds the blocks of 32 leaves in order to the accumulator; fuel bounds the number of blocks. -/
def sumBlocks (rnd : FVal → FVal) : Nat → List (Option FVal) → Option FVal → Option FVal
  | 0, _, acc => acc
  | _ + 1, [], acc => acc
  | n + 1, xs, acc =>
    let acc := match treeRoot rnd (xs.take 32), acc with
      | none, a => a
      | some r, none => some (rnd r)
      | some r, some a => some (rnd (a.add r))
    sumBlocks rnd n (xs.drop 32) acc

/-- The sum of R162 before the step that writes an absent result as +0. -/
def sum162 (f : Fmt) (sat : Bool) (xs : List (Option FVal)) (acc : Option FVal) : Option FVal :=
  sumBlocks (f.round .rn sat) (xs.length / 32 + 1) xs acc

/-! ## Special functions (R173, R174) -/

/-- A value with one more bit below it that says whether anything lies below. -/
def sticky (neg : Bool) (m : Nat) (e : Int) (more : Bool) : FVal :=
  .fin neg (2 * m + (if more then 1 else 0)) (e - 1)

/-- The integer square root, a bit at a time from bit k down. -/
def isqrtBits (n : Nat) : Nat → Nat → Nat
  | 0, acc => if (acc + 1) * (acc + 1) ≤ n then acc + 1 else acc
  | k + 1, acc => isqrtBits n k (if (acc + 2 ^ (k + 1)) * (acc + 2 ^ (k + 1)) ≤ n then acc + 2 ^ (k + 1) else acc)
/-- The integer square root. -/
def isqrt (n : Nat) : Nat := isqrtBits n (Nat.log2 n / 2 + 1) 0

/-- 1 / x, exact up to a sticky bit. -/
def recipVal : FVal → FVal
  | .nan => .nan
  | .inf n => .zero n
  | .zero n => .inf n
  | .fin n m e =>
    let k := Nat.log2 m + 64
    sticky n (2 ^ k / m) (-e - k) (2 ^ k % m != 0)

/-- The square root, exact up to a sticky bit. -/
def sqrtVal : FVal → FVal
  | .nan => .nan
  | .inf n => if n then .nan else .inf false
  | .zero n => .zero n
  | .fin n m e =>
    if n then .nan
    else
      let m1 := if e % 2 = 0 then m else 2 * m
      let e1 := if e % 2 = 0 then e else e - 1
      let m2 := m1 * 2 ^ 128
      let s := isqrt m2
      sticky false s ((e1 - 128) / 2) (s * s != m2)

/-- 1 / sqrt x, exact up to a sticky bit. -/
def rsqrtVal : FVal → FVal
  | .nan => .nan
  | .inf n => if n then .nan else .zero false
  | .zero n => .inf n
  | .fin n m e =>
    if n then .nan
    else
      let m1 := if e % 2 = 0 then m else 2 * m
      let e1 := if e % 2 = 0 then e else e - 1
      let k := Nat.log2 m1 / 2 + 72
      let s := isqrt (2 ^ (2 * k) / m1)
      sticky false s (-(e1 / 2) - k) (s * s * m1 != 2 ^ (2 * k))

/-- Bounds of the product of 2^(2^-i) over the set bits of a fraction, most significant first, in units of 2^-pr:
(lo, hi) is the running product and (rl, rh) bounds the current root of two. -/
def exp2Bits (pr : Nat) : List Bool → Nat → Nat → Nat → Nat → Nat × Nat
  | [], lo, hi, _, _ => (lo, hi)
  | b :: bs, lo, hi, rl, rh =>
    let rl := isqrt (rl * 2 ^ pr)
    let rh := isqrt (rh * 2 ^ pr) + 1
    if b then exp2Bits pr bs (lo * rl / 2 ^ pr) (hi * rh / 2 ^ pr + 1) rl rh
    else exp2Bits pr bs lo hi rl rh

/-- The k bits of a fraction x / 2^k, most significant first. -/
def fracBits (x : Nat) : Nat → List Bool
  | 0 => []
  | k + 1 => (x / 2 ^ k % 2 == 1) :: fracBits x k

/-- round_rz of 2^(n + x / 2^k) for a fraction 0 < x / 2^k < 1, evaluated to pr bits; none where that does not settle it. -/
def exp2At (f : Fmt) (n : Int) (x k pr : Nat) : Option FVal :=
  let (lo, hi) := exp2Bits pr (fracBits x k) (2 ^ pr) (2 ^ pr) (2 * 2 ^ pr) (2 * 2 ^ pr)
  let a := f.round .rz false (sticky false lo (n - pr) true)
  let b := f.round .rz false (sticky false (hi - 1) (n - pr) true)
  if a = b then some a else none

/-- floor of a finite value, and its fraction x / 2^k (R177). -/
def floorParts (neg : Bool) (m : Nat) (e : Int) : Int × Nat × Nat :=
  if e ≥ 0 then ((if neg then -(m * pow2 e : Int) else m * pow2 e), 0, 0)
  else
    let k := (-e).toNat
    if neg then
      let q := (m + 2 ^ k - 1) / 2 ^ k
      (-(q : Int), q * 2 ^ k - m, k)
    else (m / 2 ^ k, m % 2 ^ k, k)

/-- round_rz of 2^(n + x / 2^k). Where a bounded evaluation does not settle the rounding the significand is a free value
(log 10). -/
def exp2Round (f : Fmt) (n : Int) (x k : Nat) : FVal :=
  if x = 0 then f.round .rz false (.fin false 1 n)
  else
    match exp2At f n x k 256 with
    | some v => v
    | none =>
      match exp2At f n x k 768 with
      | some v => v
      | none => f.round .rz false (.fin false (2 ^ f.p + Config.specialBits x k % 2 ^ f.p) (n - f.p))

/-- round_rz of 2^x (R173, R174). -/
def ex2Val (f : Fmt) : FVal → FVal
  | .nan => .nan
  | .inf n => if n then .zero false else .inf false
  | .zero _ => .fin false 1 0
  | .fin neg m e =>
    if (Nat.log2 m : Int) + e > 12 then
      f.round .rz false (.fin false 1 (if neg then -8192 else 8192))
    else
      let (n, x, k) := floorParts neg m e
      exp2Round f n x k

/-- The binary digits of log2 of a significand in [1, 2): lo and hi bound it in units of 2^-pr; none where a digit is
not settled. -/
def log2Digits (pr : Nat) : Nat → Nat → Nat → Nat → Option Nat
  | 0, _, _, acc => some acc
  | k + 1, lo, hi, acc =>
    let l := lo * lo / 2 ^ pr
    let h := hi * hi / 2 ^ pr + 1
    if l ≥ 2 ^ (pr + 1) then log2Digits pr k (l / 2) (h / 2 + 1) (2 * acc + 1)
    else if h < 2 ^ (pr + 1) then log2Digits pr k l h (2 * acc)
    else none

/-- log2 of a positive finite value, exact up to a sticky bit; where the digits are not settled, a free value (log 10). -/
def lg2Val : FVal → FVal
  | .nan => .nan
  | .inf n => if n then .nan else .inf false
  | .zero _ => .inf true
  | .fin neg m e =>
    if neg then .nan
    else
      let t := Nat.log2 m
      let E : Int := e + t
      if m = 2 ^ t then ofIntExp E 0 false
      else
        let s := m * 2 ^ (384 - t)
        let d := (log2Digits 384 100 s s 0).getD (Config.specialBits m t % 2 ^ 100)
        let L : Int := E * 2 ^ 100 + d
        if L ≥ 0 then sticky false L.natAbs (-100) true
        else sticky true (L + 1).natAbs (-100) true

/-- A special function on the bits of a format with its rounding mode (R173). -/
def Fmt.apply1 (f : Fmt) (mode : RMode) (g : FVal → FVal) (x : Nat) : Nat := f.enc (f.round mode false (g (f.val x)))

/-- Rounds to an integral value (R178). -/
def integralVal (mode : RMode) : FVal → FVal
  | .fin neg m e =>
    if e ≥ 0 then .fin neg m e
    else
      let k := roundShift mode neg m (-e).toNat
      if k = 0 then .zero neg else .fin neg k 0
  | v => v

/-- Truncates toward zero into a range, saturating; a NaN gives 0 (R180). -/
def toIntSat (lo hi : Int) : FVal → Int
  | .nan => 0
  | .inf n => if n then lo else hi
  | .zero _ => 0
  | .fin neg m e =>
    if (Nat.log2 m : Int) + e > 70 then (if neg then lo else hi)
    else
      let q : Nat := if e ≥ 0 then m * pow2 e else m / pow2 (-e)
      let x : Int := if neg then -(q : Int) else q
      if x > hi then hi else if x < lo then lo else x

/-- The exact value of an integer. -/
def ofInt (x : Int) : FVal := ofIntExp x 0 false

/-- x times 2^n, for an integer n of any size: beyond 2^16 in magnitude every result overflows or vanishes alike. -/
def scaleVal (n : Int) : FVal → FVal
  | .fin neg m e => .fin neg m (e + max (-65536) (min 65536 n))
  | v => v

/-- floor(log2 |x|), or the values of R176 for zeros and specials. -/
def exponentOf : FVal → Int
  | .nan => 2 ^ 63 - 1
  | .inf _ => 2 ^ 63 - 1
  | .zero _ => -(2 ^ 63)
  | .fin _ m e => Nat.log2 m + e

/-- The significand and the integer of EX2S (R177). -/
def ex2Split (x : FVal) : Nat × Int :=
  match x with
  | .nan => (f32.canon, 0)
  | .inf n => if n then (0, 0) else (f32.enc (.inf false), 0)
  | .zero _ => (f32.enc (.fin false 1 0), 0)
  | .fin neg m e =>
    if (Nat.log2 m : Int) + e ≥ 62 then
      (if neg && !(m == 2 ^ Nat.log2 m && (Nat.log2 m : Int) + e == 62) then (f32.enc (.fin false 1 0), -(2 ^ 62))
       else if neg then (f32.enc (.fin false 1 0), -(2 ^ 62))
       else (f32.enc (.fin false 1 0), 2 ^ 62))
    else
      let (n, y, k) := floorParts neg m e
      (f32.enc (exp2Round f32 0 y k), n)

end Sys2Proof.Machine
end

