-- ==== Sys2Proof/Machine/Access.lean ====
section
/-! DEFINITION. Naming the parts of the state: threads, units, cores, clusters, launches, and the logs and interrupt vectors of the
hub. -/

namespace Sys2Proof.Machine

/-- The thread of a key. -/
def State.thread? (s : State) (tk : Nat) : Option Thread := AMap.get? s.threads tk
/-- Puts a thread back. -/
def State.setThread (s : State) (tk : Nat) (t : Thread) : State := { s with threads := AMap.set s.threads tk t }
/-- Changes a thread. -/
def State.modThread (s : State) (tk : Nat) (f : Thread → Thread) : State :=
  match s.thread? tk with
  | some t => s.setThread tk (f t)
  | none => s
/-- The unit of a key. -/
def State.unit? (s : State) (uid : Nat) : Option TUnit := AMap.get? s.units uid
/-- Puts a unit back. -/
def State.setUnit (s : State) (uid : Nat) (u : TUnit) : State := { s with units := AMap.set s.units uid u }
/-- Changes a unit. -/
def State.modUnit (s : State) (uid : Nat) (f : TUnit → TUnit) : State :=
  match s.unit? uid with
  | some u => s.setUnit uid (f u)
  | none => s
/-- A core, by 64 x physical die + core. -/
def State.core (s : State) (ck : Nat) : Core := AMap.get s.cores ck {}
/-- Puts a core back. -/
def State.setCore (s : State) (ck : Nat) (c : Core) : State := { s with cores := AMap.set s.cores ck c }
/-- Changes a core. -/
def State.modCore (s : State) (ck : Nat) (f : Core → Core) : State := s.setCore ck (f (s.core ck))
/-- A power cluster, by 8 x physical die + cluster; core ck lies in cluster ck / 8. -/
def State.cluster (s : State) (n : Nat) : Cluster := AMap.get s.clusters n {}
/-- Whether a cluster is in a hold, which lasts at most 2 µs (R378). -/
def State.held (s : State) (n : Nat) : Bool := (s.cluster n).hold && s.hub.tmr ≤ (s.cluster n).holdEnd
/-- Changes a cluster. -/
def State.modCluster (s : State) (n : Nat) (f : Cluster → Cluster) : State :=
  { s with clusters := AMap.set s.clusters n (f (s.cluster n)) }
/-- Changes the hub. -/
def State.modHub (s : State) (f : Hub → Hub) : State := { s with hub := f s.hub }
/-- The launch of an id. -/
def State.launch? (s : State) (lid : Nat) : Option Launch := AMap.get? s.hub.launches lid
/-- Changes a launch. -/
def State.modLaunch (s : State) (lid : Nat) (f : Launch → Launch) : State :=
  match s.launch? lid with
  | some l => s.modHub fun h => { h with launches := AMap.set h.launches lid (f l) }
  | none => s
/-- The job of an id. -/
def State.job? (s : State) (jid : Nat) : Option HJob := AMap.get? s.hub.jobs jid
/-- Changes a job. -/
def State.modJob (s : State) (jid : Nat) (f : HJob → HJob) : State :=
  match s.job? jid with
  | some j => s.modHub fun h => { h with jobs := AMap.set h.jobs jid (f j) }
  | none => s
/-- A gang of a unit. -/
def TUnit.gang (u : TUnit) (gg : Nat) : Gang := AMap.get u.gangs gg {}
/-- Changes a gang of a unit. -/
def TUnit.modGang (u : TUnit) (gg : Nat) (f : Gang → Gang) : TUnit :=
  { u with gangs := AMap.set u.gangs gg (f (u.gang gg)) }

/-- A thread's gang and lane (R182). -/
def Thread.gg (t : Thread) : Nat := t.tg / 32
/-- A thread's lane index (R182). -/
def Thread.ln (t : Thread) : Nat := t.tg % 32
/-- The tile size of a gang, from 2 to 32 (R183). -/
def Gang.tile (g : Gang) (ln : Nat) : Nat := ln / g.gpart

/-- The next value of the counter that free values are applied to (R7; log 5). -/
def State.takeFresh (s : State) : Nat × State := (s.fresh, { s with fresh := s.fresh + 1 })
/-- The next sequence number of an access (log 6). -/
def State.takeSeq (s : State) : Nat × State := (s.seq, { s with seq := s.seq + 1 })
/-- An undefined 64-bit value (R7). -/
def undefWord (seed : Nat) : Word :=
  BitVec.ofNat 64 (leVal ((upFrom 0 8).map (Config.undefByte seed)))

/-- The physical die of a logical die, where it is mapped (R21, R367). -/
def State.physOf (s : State) (d : Nat) : Option Nat :=
  let f := bits s.hub.dmap.toNat (4 * d + 3) (4 * d)
  if f / 8 = 1 then some (f % 4) else none
/-- The logical number of a physical die (R21, R367). -/
def State.logOf (s : State) (p : Nat) : Option Nat := (upFrom 0 4).find? fun d => s.physOf d == some p

/-- The launch whose speculation buffer takes the global writes of a unit, 0 for none (R331). -/
def State.specOf (s : State) (uid : Nat) : Nat :=
  match s.unit? uid with
  | none => 0
  | some u =>
    match s.launch? u.lid with
    | none => 0
    | some l => if l.desc.specv && !l.resolved then u.lid else 0

/-- Whether the launch of a unit is speculative (R331). -/
def State.speculative (s : State) (uid : Nat) : Bool :=
  match s.unit? uid with
  | none => false
  | some u =>
    match s.launch? u.lid with
    | none => false
    | some l => l.desc.specv

/-- The speculation buffer that a write of a unit at a place goes to, 0 for none: only global writes are buffered (R331). -/
def State.specAt (s : State) (uid : Nat) (l : Loc) : Nat :=
  match l with
  | .home _ => s.specOf uid
  | _ => 0

/-- The launch of a unit. -/
def State.launchOf (s : State) (uid : Nat) : Option Launch := (s.unit? uid).bind fun u => s.launch? u.lid
/-- The job of a unit. -/
def State.jobOf (s : State) (uid : Nat) : Option HJob := (s.launchOf uid).bind fun l => s.job? l.jid
/-- The job id of a unit's launch. -/
def State.jidOf (s : State) (uid : Nat) : Nat := ((s.launchOf uid).map (·.jid)).getD 0
/-- The core of a unit. -/
def State.ckOf (s : State) (uid : Nat) : Nat := ((s.unit? uid).map (·.ck)).getD 0

/-- Raises an MSI-X vector (R375). -/
def State.vector (s : State) (n : Nat) : State :=
  s.modHub fun h => { h with irq := setAt h.irq n (h.irq.getD n 0 + 1) }

/-- Writes a core's error log, or counts the entry as lost (R79). -/
def State.logCore (s : State) (ck : Nat) (e : LogEnt) : State :=
  let c := s.core ck
  if c.log.length < 32 then (s.setCore ck { c with log := c.log ++ [e] }).vector 2
  else s.setCore ck { c with lost := Nat.min (c.lost + 1) 0xFFFFFFFF }

/-- Writes the management log, or counts the entry as lost (R385). -/
def State.logMgmt (s : State) (dpa : Nat) (cause kind who : Nat) : State :=
  let e : LogEnt := { addr := Word.ofN dpa, cause := cause, kind := kind, who := who, unit := 0, time := s.hub.tmr, dpa := true }
  if s.hub.mlog.length < 64 then (s.modHub fun h => { h with mlog := h.mlog ++ [e] }).vector 2
  else s.modHub fun h => { h with mlost := Nat.min (h.mlost + 1) 0xFFFFFFFF }

/-- The array and the seat of a thread's gang, and the cycle count of that array. -/
def State.arrayOf (s : State) (t : Thread) : Nat :=
  match s.unit? t.uid with
  | some u => (u.gang t.gg).home
  | none => 0
/-- clk of a thread's cluster: the number of the cycle that runs (R139, R300). -/
def State.cycOf (s : State) (t : Thread) : Nat :=
  match s.unit? t.uid with
  | some u => (s.cluster (u.ck / 8)).clk
  | none => 0

/-- The threads of a unit that are in the state, in order of tg, with their keys. -/
def State.threadsOf (s : State) (uid : Nat) : List (Nat × Thread) := s.threads.filter fun p => p.2.uid == uid
/-- The live threads of a unit. -/
def State.liveOf (s : State) (uid : Nat) : List (Nat × Thread) := (s.threadsOf uid).filter fun p => p.2.live
/-- The lanes of a gang that hold live threads. -/
def State.liveLanes (s : State) (uid gg : Nat) : List Nat :=
  ((s.liveOf uid).filter fun p => p.2.gg == gg).map fun p => p.2.ln

/-- Changes every thread of a unit. -/
def State.modThreadsOf (s : State) (uid : Nat) (f : Thread → Thread) : State :=
  { s with threads := s.threads.map fun p => if p.2.uid = uid then (p.1, f p.2) else p }

end Sys2Proof.Machine
end

