-- ==== Sys2Proof/Machine/MemSys.lean ====
section
/-! DEFINITION. The memory system: places and their homes, targets, translation and its faults, the speculation buffer, and
the scratchpad mapping. -/

namespace Sys2Proof.Machine

/-- Trap causes (R341). -/
abbrev cILL : Nat := 0x01
abbrev cOPERAND : Nat := 0x02
abbrev cLATCH : Nat := 0x03
abbrev cSTREAM : Nat := 0x04
abbrev cALIGN : Nat := 0x05
abbrev cADDR : Nat := 0x06
abbrev cXLATE : Nat := 0x07
abbrev cMEMERR : Nat := 0x08
abbrev cCOLL : Nat := 0x09
abbrev cUNIFORM : Nat := 0x0A
abbrev cLOOP : Nat := 0x0B
abbrev cBRK : Nat := 0x0C
abbrev cTRAP : Nat := 0x0D
abbrev cWATCH : Nat := 0x0E
abbrev cENGINE : Nat := 0x0F
abbrev cSPEC : Nat := 0x10
abbrev cPRIV : Nat := 0x11

/-! ## Places -/

/-- Where host bus addresses begin among the homes. -/
def hostBase : Nat := 2 ^ 51
/-- Where the memory of peer modules begins among the homes. -/
def peerBase : Nat := 2 ^ 52

/-- The place k bytes further. -/
def Loc.add : Loc → Nat → Loc
  | .home d, k => .home (d + k)
  | .scratch u o, k => .scratch u (o + k)
  | .priv g o, k => .priv g (o + k)
  | .obuf u o, k => .obuf u (o + k)
/-- The place of byte x of a thread's own window: its gang's store is interleaved 8 bytes at a time (R56). -/
def ownLoc (tk x : Nat) : Loc := .priv (tk / 32) (x / 8 * 256 + tk % 32 * 8 + x % 8)
/-- The 128-byte line of a place. -/
def Loc.line : Loc → Loc
  | .home d => .home (d / 128 * 128)
  | .scratch u o => .scratch u (o / 128 * 128)
  | .priv g o => .priv g (o / 128 * 128)
  | .obuf u o => .obuf u (o / 128 * 128)
/-- The offset of a place in its line. -/
def Loc.inLine : Loc → Nat
  | .home d => d % 128
  | .scratch _ o => o % 128
  | .priv _ o => o % 128
  | .obuf _ o => o % 128
/-- Whether an access to a place takes the collector path (R114). -/
def Loc.collected : Loc → Bool
  | .home _ => true
  | .priv _ _ => true
  | _ => false
/-- Whether n bytes at one place and m bytes at another share a byte. -/
def Loc.overlap : Loc → Nat → Loc → Nat → Bool
  | .home a, n, .home b, m => a < b + m && b < a + n
  | .scratch u a, n, .scratch v b, m => u == v && (a < b + m && b < a + n)
  | .priv u a, n, .priv v b, m => u == v && (a < b + m && b < a + n)
  | .obuf u a, n, .obuf v b, m => u == v && (a < b + m && b < a + n)
  | _, _, _, _ => false

/-- The offset of a place in its store. -/
def Loc.off : Loc → Nat
  | .home d => d
  | .scratch _ o => o
  | .priv _ o => o
  | .obuf _ o => o
/-- The part of n bytes at one place that lies in m bytes at another: its offset from the first, and its length. -/
def Loc.meet (a : Loc) (n : Nat) (b : Loc) (m : Nat) : Option (Nat × Nat) :=
  if a.overlap n b m then
    let lo := max a.off b.off
    some (lo - a.off, min (a.off + n) (b.off + m) - lo)
  else none

/-- What a home address names (R58, R68). -/
inductive HomeKind where
  | gddr (bdie : Nat)
  | vault (bdie voff : Nat)
  | host
  | peer (m addr : Nat)
  | none
  deriving DecidableEq, Repr

/-- What a home address names (R58). -/
def homeKind (d : Nat) : HomeKind :=
  if d < 2 ^ 50 then (if d < 2 ^ 38 then .gddr (d / 2 ^ 36) else .none)
  else if d < hostBase then
    (if d - 2 ^ 50 < 2 ^ 33 then .vault ((d - 2 ^ 50) / 2 ^ 31) (d % 2 ^ 25) else .none)
  else if d < peerBase then .host
  else .peer ((d - peerBase) / 2 ^ 51) ((d - peerBase) % 2 ^ 51)

/-- The base die that holds a local home address. -/
def homeDie (d : Nat) : Option Nat :=
  match homeKind d with
  | .gddr b => some b
  | .vault b _ => some b
  | _ => none

/-- The vault whose slice is the home of the line of a GDDR offset (R63). -/
def homeSlice (goff : Nat) : Nat :=
  bits goff 13 8 ^^^ bits goff 19 14 ^^^ bits goff 25 20 ^^^ bits goff 31 26 ^^^ bits goff 35 32
/-- The controller of the 256-byte block of a GDDR offset (R60). -/
def gddrController (goff : Nat) : Nat := bits goff 9 8 ^^^ bits goff 15 14
/-- The device, of a controller's four, that holds a byte of a block: each holds a quarter of it (R60); which one holds which quarter is
the model's choice (DESIGN CHOICE; log 65). -/
def gddrDevice (goff : Nat) : Nat := 4 * gddrController goff + bits goff 7 6

/-- Whether a home address lies off the package (R259). -/
def offPackage (d : Nat) : Bool := hostBase ≤ d

/-- The bytes of the far-cache slice of each vault of a base die (R62). -/
def State.sliceBytes (s : State) (b : Nat) : Nat := s.slice.getD b 0 * 8 * 2 ^ 20

/-- Whether a port carries traffic (R359). -/
def Link.isUp (l : Link) : Bool := l.st == 2 || l.st == 3
/-- The ports that are allowed toward a module and whose link passes a test. -/
def State.portsThat (s : State) (m : Nat) (f : Link → Bool) : List Nat :=
  if s.hub.islUp then
    (upFrom 0 18).filter fun p => bits (AMap.get s.hub.route m 0) p p == 1 && f (s.hub.links.getD p {})
  else []
/-- The ports by which packets to a module leave: those that are allowed and up, or where none is, those that train, at which packets wait
(R359, R360, R386; log 50). -/
def State.portsTo (s : State) (m : Nat) : List Nat :=
  let up := s.portsThat m Link.isUp
  if up.isEmpty then s.portsThat m (·.st == 1) else up
/-- The port by which the packets to a line of a module leave (R360). -/
def State.portTo (s : State) (m line : Nat) : Option Nat :=
  let ps := s.portsTo m
  ps[Config.linkHash m line % ps.length]?

/-- Whether an address exists in its target: the error ADDR of R66 and R77. -/
def State.exists_ (s : State) (d : Nat) : Bool :=
  match homeKind d with
  | .none => false
  | .vault b voff => voff < 2 ^ 25 - s.sliceBytes b
  | _ => true

/-- The cause with which a byte of n at a place answers an access (R77, R101). -/
def State.badAt (s : State) (l : Loc) (n : Nat) (rd : Bool) : Option Nat :=
  (s.bad.find? fun b => (rd || b.wr) && l.overlap n b.loc 1).map (·.cause)

/-- Whether an endpoint takes a packet: it is UP, or DRAINING with the packet accepted before, of an access of that number (R358). -/
def State.epTakes (s : State) (n : Nat) (seq : Option Nat) : Bool :=
  s.hub.ep.getD n 0 == 2 || (s.hub.ep.getD n 0 == 3 && seq.any fun q => q < s.hub.rst.mark)

/-- Whether a boot has failed: the hub is in recovery (R382). -/
def State.recovery (s : State) : Bool := s.hub.bootStage != 0
/-- Whether the hub is being reset (R363). -/
def State.hubDown (s : State) : Bool := s.hub.rst.busy && s.hub.rst.dom == 2
/-- Whether the host's endpoint takes accesses: it does not while the hub is being reset, and in recovery it takes only LOAD_IMAGE (R363,
R382; logs 53, 86). -/
def State.hostTakes (s : State) : Bool := !s.recovery && !s.hubDown

/-- The cause of the error response to an access of n bytes at a home address, if it receives one (R66, R77, R358); seq numbers an
access that has been sent before. -/
def State.targetErr (s : State) (d n : Nat) (rd : Bool) (seq : Option Nat := none) : Option Nat :=
  if !(s.exists_ d && s.exists_ (d + n - 1)) then some cADDR
  else
    let up := match homeKind d with
      | .gddr b => s.epTakes (4 + b) seq
      | .vault b _ => s.epTakes (4 + b) seq
      | .host => s.hub.islUp && s.epTakes 8 seq
      | .peer m a => (s.portTo m (a / 128)).isSome
      | .none => false
    if !up then some cMEMERR else s.badAt (.home d) n rd

/-- The cause of the error response to an access of n bytes at a DPA that a register or an entry holds, if it receives one: a value of more
than 51 bits names no target (R58, R77). -/
def State.dpaErr (s : State) (d n : Nat) (rd : Bool) : Option Nat := if hostBase < d + n then some cADDR else s.targetErr d n rd

/-- The cause of the error response to an access of n bytes at a place, if it receives one: at a home, in an own window, whose
store lies on the base die beneath the unit's compute die (R56), or in a bank (R77, R101). -/
def State.locErr (s : State) (l : Loc) (n : Nat) (rd : Bool) (seq : Option Nat := none) : Option Nat :=
  match l with
  | .home d => s.targetErr d n rd seq
  | .priv gk _ => if s.epTakes (4 + s.ckOf (gk / 32) / 64) seq then s.badAt l n rd else some cMEMERR
  | _ => s.badAt l n rd

/-! ## Reading and writing at home -/

/-- The byte a speculation buffer holds for a home address (R331). -/
def State.specByte (s : State) (spec d : Nat) : Option Byte :=
  if spec = 0 then none
  else
    match (s.launch? spec).bind (·.spec) with
    | none => none
    | some b => (AMap.get? b.lines (d / 128)).bind fun l => AMap.get? l (d % 128)

/-- The byte at a place, as an agent of a speculative launch (0 for none) reads it there. -/
def State.byteAt (s : State) (spec : Nat) : Loc → Byte
  | .home d => (s.specByte spec d).getD (s.mem.byte d)
  | .scratch u o => match s.unit? u with | some x => x.scr.byte o | none => 0
  | .priv g o => match s.unit? (g / 32) with | some x => (x.gang (g % 32)).priv.byte o | none => 0
  | .obuf u o => match s.unit? u with | some x => x.obuf.byte o | none => 0
/-- n bytes at a place. -/
def State.bytesAt (s : State) (spec : Nat) (l : Loc) (n : Nat) : List Byte :=
  (upFrom 0 n).map fun k => s.byteAt spec (l.add k)

/-- The far cache holds a line of GDDR that is about to change: where it did not hold it changed, GDDR keeps the bytes (R62). -/
def State.farKeep (s : State) (d : Nat) : AMap (List Byte) :=
  match homeKind d with
  | .gddr b =>
    if s.slice.getD b 0 = 0 || (AMap.get? s.far (d / 128)).isSome then s.far
    else AMap.set s.far (d / 128) (s.mem.bytes (d / 128 * 128) 128)
  | _ => s.far

/-- Writes one byte at a home, through the line's home slice; a byte that is written has no soft error (R62, R64; log 12). -/
def State.putHome (s : State) (d : Nat) (v : Byte) : State :=
  { s with mem := s.mem.setByte d v, bad := s.bad.filter fun b => b.wr || b.loc != .home d, far := s.farKeep d }
/-- Writes bytes at homes from an address upward. -/
def State.putHomes (s : State) (d : Nat) : List Byte → State
  | [] => s
  | b :: bs => (s.putHome d b).putHomes (d + 1) bs

/-- Writes a byte into a speculation buffer, and USED where a line enters it (R331). -/
def State.specWrite (s : State) (spec d : Nat) (v : Byte) : State :=
  match (s.launch? spec).bind (·.spec) with
  | none => s
  | some b =>
    let l := AMap.set (AMap.get b.lines (d / 128) []) (d % 128) v
    s.modLaunch spec fun x => { x with spec := some { b with lines := AMap.set b.lines (d / 128) l } }

/-- Writes one byte at a place; a byte that is written has no soft error (log 12). -/
def State.writeByte (s : State) (spec : Nat) (l : Loc) (v : Byte) : State :=
  match l with
  | .home d =>
    if spec = 0 then s.putHome d v else s.specWrite spec d v
  | .scratch u o =>
    { s.modUnit u fun x => { x with scr := x.scr.setByte o v } with bad := s.bad.filter fun b => b.wr || b.loc != l }
  | .priv g o =>
    { s.modUnit (g / 32) fun x => x.modGang (g % 32) fun y => { y with priv := y.priv.setByte o v } with
      bad := s.bad.filter fun b => b.wr || b.loc != l }
  | .obuf u o =>
    { s.modUnit u fun x => { x with obuf := x.obuf.setByte o v } with bad := s.bad.filter fun b => b.wr || b.loc != l }
/-- Writes bytes at a place. -/
def State.writeAt (s : State) (spec : Nat) (l : Loc) : List Byte → State
  | [] => s
  | b :: bs => State.writeAt (s.writeByte spec l b) spec (l.add 1) bs

/-- Makes n bytes at a place undefined (R7). -/
def State.forgetAt (s : State) (l : Loc) (n : Nat) : State :=
  let (seed, s) := s.takeFresh
  match l with
  | .home d =>
    { s with mem := s.mem.forget d (d + n) seed, far := (upFrom (d / 128) ((d + n + 127) / 128 - d / 128)).foldl (fun m x => { s with far := m }.farKeep (128 * x)) s.far }
  | .scratch u o => s.modUnit u fun x => { x with scr := x.scr.forget o (o + n) seed }
  | .priv g o => s.modUnit (g / 32) fun x => x.modGang (g % 32) fun y => { y with priv := y.priv.forget o (o + n) seed }
  | .obuf u o => s.modUnit u fun x => { x with obuf := x.obuf.forget o (o + n) seed }

/-- Makes n bytes at a place undefined as an agent of a speculative launch (0 for none) wrote them there (R7, R331). -/
def State.forgetAs (s : State) (spec : Nat) (l : Loc) (n : Nat) : State :=
  match l with
  | .home d =>
    if spec = 0 then s.forgetAt l n
    else
      let (seed, s) := s.takeFresh
      (upFrom d n).foldl (fun s x => s.specWrite spec x (Config.undefByte seed x)) s
  | _ => s.forgetAt l n

/-- Updates an L1's copy of a line, where it has one (R116). -/
def l1Write (l1 : List (Loc × List Byte)) (l : Loc) (v : Byte) : List (Loc × List Byte) :=
  l1.map fun p => if p.1 = l.line then (p.1, setAt p.2 l.inLine v) else p
/-- Updates a core's L1 copies of the lines that bytes fall in. -/
def State.l1Update (s : State) (ck : Nat) (l : Loc) : List Byte → State
  | [] => s
  | b :: bs => State.l1Update (s.modCore ck fun c => { c with l1 := l1Write c.l1 l b }) ck (l.add 1) bs

/-! ## Packets to other modules (R259 to R261, R360, R370) -/

/-- Changes a link. -/
def State.modLink (s : State) (p : Nat) (f : Link → Link) : State :=
  s.modHub fun h => { h with links := setAt h.links p (f (h.links.getD p {})) }

/-- A flit, from its fields, with a link sequence number (R370). -/
def flitOf (dst src ty tag addr : Nat) (data : List Byte) (lseq : Nat) : List Byte :=
  let b := leBytes 2 dst ++ leBytes 2 src ++ leBytes 1 ty ++ leBytes 1 lseq ++ leBytes 2 tag ++ leBytes 8 addr
    ++ (data ++ List.replicate 104 0).take 104
  b ++ leBytes 8 (Config.crc64 b).toNat
/-- A flit with another link sequence number (R370). -/
def reSeq (lseq : Nat) (flit : List Byte) : List Byte :=
  let b := setAt (flit.take 120) 5 (BitVec.ofNat 8 lseq)
  b ++ leBytes 8 (Config.crc64 b).toNat
/-- The data flits of a payload: 120 bytes each (R370). -/
def dataFlits : Nat → List Byte → List (List Byte)
  | 0, _ => []
  | fuel + 1, bs =>
    if bs.isEmpty then []
    else
      let b := (bs ++ List.replicate 120 0).take 120
      (b ++ leBytes 8 (Config.crc64 b).toNat) :: dataFlits fuel (bs.drop 120)
/-- The flits of a packet with its payload (R370). -/
def packetFlits (dst src ty tag addr : Nat) (data : List Byte) : List (List Byte) :=
  flitOf dst src ty tag addr data 0 :: dataFlits data.length (data.drop 104)

/-- A packet that is sent: its first flit, which has a header, carries its link sequence number (R370). -/
def Packet.send (p : Packet) (first : Nat) : Packet :=
  { p with first := first, acked := [], flits := match p.flits with | f :: fs => reSeq (first % 256) f :: fs | [] => [] }
/-- The flits in a port's replay buffer. -/
def Link.buffered (l : Link) : Nat := (l.unacked.map fun p => p.flits.length).sum
/-- Sends waiting packets of a port in order, while it is up and its replay buffer of 256 flits has room (R370); a packet of more flits
than that has the buffer to itself. -/
def fillLink (now : Nat) : List Packet → Link → Link
  | [], l => { l with queue := [] }
  | p :: ps, l =>
    if !l.isUp || (!l.unacked.isEmpty && l.buffered + p.flits.length > 256) then { l with queue := p :: ps }
    else fillLink now ps { l with
      unacked := l.unacked ++ [p.send l.sent], sent := l.sent + p.flits.length, heard := if l.unacked.isEmpty then now else l.heard }
/-- A port sends what it can. -/
def State.fillPort (s : State) (p : Nat) : State := s.modLink p fun l => fillLink s.hub.tmr l.queue l

/-- A port accepts a packet: that to which the hash sends it (R360). -/
def State.sendPacket (s : State) (x : Packet) : State :=
  match s.portTo x.dst x.line with
  | none => s
  | some q => (s.modLink q fun l => { l with queue := l.queue ++ [x] }).fillPort q

/-- The pieces of bytes from an address that lie in one line each. -/
def linePieces : Nat → Nat → List Byte → List (Nat × List Byte)
  | 0, _, _ => []
  | fuel + 1, d, bs =>
    if bs.isEmpty then []
    else
      let k := 128 - d % 128
      (d, bs.take k) :: linePieces fuel (d + k) (bs.drop k)

/-- A write that is on its way to an off-package home (R259). -/
def State.keepOff (s : State) (w : OffWrite) : State := { s with offw := s.offw ++ [w] }
/-- The bytes of one line of a write to a peer leave as a packet (R261, R370). -/
def State.offPiece (s : State) (w : OffWrite) (d : Nat) (bs : List Byte) : State :=
  match homeKind d with
  | .peer m a =>
    let tag := s.hub.ptag
    let p : Packet := { dst := m, line := a / 128, flits := packetFlits m s.hub.pkgid 2 tag a bs, tag := some tag }
    ((s.modHub fun h => { h with ptag := tag + 1 }).sendPacket p).keepOff { w with dpa := d, tag := tag }
  | _ => s

/-- Writes at a home that lies off the package are kept until they are delivered (R259), those to a peer as a packet for each line (R261);
eng names the core and channel of an engine's write, and op its op. -/
def State.offWrite (s : State) (seq tk : Nat) (tloc : Word) (d : Nat) (bs : List Byte) (eng : Option (Nat × Nat) := none) (op : Nat := 0) : State :=
  let w : OffWrite := { seq := seq, tk := tk, tloc := tloc, dpa := d, eng := eng, op := op }
  match homeKind d with
  | .host => s.keepOff w
  | .peer _ _ => (linePieces bs.length d bs).foldl (fun s x => s.offPiece w x.1 x.2) s
  | _ => s

/-! ## Translation -/

/-- The permission a leaf must give for an access kind: bit 0 RD, bit 1 W, bit 2 X (R69, R415). -/
def permNeed : Nat → Nat
  | 0 => 1 | 1 => 2 | 2 => 3 | 3 => 4 | 4 => 1 | 5 => 2 | 6 => 1 | _ => 2

/-- Whether a leaf's permissions give what an access kind needs. -/
def permOk (perm kind : Nat) : Bool := perm &&& permNeed kind == permNeed kind

/-- Whether an entry is a leaf at a level: 0 root, 1 upper, 2 middle, 3 lower (R68). -/
def pteLeaf (e level : Nat) : Bool := level == 3 || bits e 1 1 == 1
/-- log2 of the size of the page that a leaf at a level maps (R67). -/
def pageBits : Nat → Nat
  | 1 => 30 | 2 => 21 | _ => 16
/-- log2 of the size of the table that a table entry at a level names (R67). -/
def tableBits : Nat → Nat
  | 0 => 12 | 1 => 12 | _ => 8

/-- A malformed page-table entry (R68). -/
def pteMalformed (e level : Nat) : Bool :=
  bits e 7 7 != 0 || bits e 6 5 == 3 ||
  (if level == 0 && bits e 1 1 == 1 then true
   else if pteLeaf e level then
     bits e 15 8 != 0 || (bits e 6 5 != 1 && bits e 63 51 != 0) || (bits e 50 16 * 65536) % 2 ^ pageBits level != 0 ||
     (bits e 6 5 == 0 && (if bits e 50 50 = 0 then bits e 49 38 != 0 else bits e 49 33 != 0))
   else bits e 6 5 != 0 || bits e 63 51 != 0 || (bits e 50 8 * 256) % 2 ^ tableBits level != 0)

/-- The index of a virtual address in the table of a level (R67). -/
def vaIndex (va : Nat) : Nat → Nat
  | 0 => bits va 56 39 | 1 => bits va 38 30 | 2 => bits va 29 21 | _ => bits va 20 16

/-- The home address of the first byte of a leaf's page: local, host or peer (R68). -/
def leafBase (e : Nat) : Nat :=
  let a := bits e 50 16 * 65536
  match bits e 6 5 with
  | 0 => a
  | 2 => hostBase + a
  | _ => peerBase + bits e 63 51 * 2 ^ 51 + a

/-- The end of a walk: a home address, a resolvable fault with its reason, a malformed entry, or an error response to the
read of an entry with its cause and address. -/
inductive Walk where
  | ok (d perm : Nat)
  | fault (reason : Nat)
  | malformed
  | err (cause addr : Nat)
  deriving DecidableEq, Repr

/-- The walk from a table at a level, for the levels that remain (R69). A ROOT that is not 2 MiB aligned is taken as it stands, and one that
is no 51-bit DPA names no target: the manual gives no outcome (DESIGN CHOICE; log 68). -/
def State.walkFrom (s : State) (va table : Nat) : Nat → Nat → Walk
  | 0, _ => .malformed
  | n + 1, level =>
    let ea := table + 8 * vaIndex va level
    match s.dpaErr ea 8 true with
    | some c => .err c ea
    | none =>
      let e := leVal (s.mem.bytes ea 8)
      if bits e 0 0 = 0 then .fault 1
      else if pteMalformed e level then .malformed
      else if pteLeaf e level then
        .ok (leafBase e + va % 2 ^ pageBits level) (bits e 4 2)
      else s.walkFrom va (bits e 50 8 * 256) n (level + 1)

/-- Translates a global address for an access kind (R69, R70): a cached translation that gives the permission, else a
walk, whose leaf the device then caches. -/
def State.translate (s : State) (asn : Nat) (root : Word) (va : Word) (kind : Nat) : Walk × State :=
  let page := va.toNat / 65536
  match s.tlb.find? (fun e => e.asn == asn && e.page == page && permOk e.perm kind) with
  | some e => (.ok (e.base + va.toNat % 65536) e.perm, s)
  | none =>
    match s.walkFrom va.toNat root.toNat 4 0 with
    | .ok d perm =>
      if permOk perm kind then
        let ent : TlbEnt := { asn := asn, page := page, base := d - va.toNat % 65536, perm := perm }
        (.ok d perm, { s with tlb := ent :: s.tlb.filter fun e => !(e.asn == asn && e.page == page) })
      else (.fault 2, s)
    | w => (w, s)

/-- The root table and address space of a unit's job (R67). -/
def State.spaceOf (s : State) (uid : Nat) : Nat × Word := ((s.jobOf uid).map fun j => (j.asn, j.root)).getD (0, 0)

/-- Where a global address lies now, if it is mapped: no fault is raised and no translation is kept. -/
def State.quietXlate (s : State) (uid : Nat) (va : Word) : Option Nat :=
  let (asn, root) := s.spaceOf uid
  match s.tlb.find? (fun e => e.asn == asn && e.page == va.toNat / 65536) with
  | some e => some (e.base + va.toNat % 65536)
  | none => match s.walkFrom va.toNat root.toNat 4 0 with
    | .ok d _ => some d
    | _ => none

/-- A fault record of 32 bytes (R74). -/
def faultRecord (f : FaultEnt) : List Byte :=
  let core := match f.ck with | some ck => ck % 64 | none => 0xFF
  leBytes 8 f.va.toNat ++ leBytes 2 f.asn ++ leBytes 1 f.kind ++ leBytes 1 f.reason ++ leBytes 1 f.die ++ leBytes 1 core
    ++ leBytes 2 0 ++ leBytes 4 f.token ++ leBytes 4 0 ++ leBytes 8 f.born

/-- Ends a fault-buffer entry; refused tells its waiters that it ended as a refusal (R75). A record that is still held is
kept (R72). -/
def State.endFault (s : State) (token : Nat) (refused : Bool) : State :=
  match s.hub.faults.find? (fun f => f.token == token && f.live) with
  | none => s
  | some f =>
    s.modHub fun h =>
      { h with faults := if f.written then h.faults.filter fun x => x.token != token
                 else h.faults.map fun x => if x.token = token then { x with live := false } else x,
               refused := if refused then h.refused ++ [(token, f.va.toNat / 65536)] else h.refused }

/-- Appends the oldest record that the queue does not hold yet, where the queue is valid and not full (R72, R74, R414). The log entry
of a failed write has 0 for its tg or channel and for its unitid, which the manual does not give (DESIGN CHOICE; log 67). -/
def State.appendFault (s : State) : State :=
  let n := s.hub.fqSize.toNat
  if n = 0 || (s.hub.fqHead + 1) % n = s.hub.fqTail then s
  else
    match s.hub.faults.find? (fun f => !f.written) with
    | none => s
    | some f =>
      let at_ := s.hub.fqBase.toNat + 32 * s.hub.fqHead
      match s.dpaErr at_ 32 false with
      | some c =>
        let s := match f.ck with
          | some ck => s.logCore ck { addr := Word.ofN at_, cause := c, kind := 3, who := 0, unit := 0, time := s.hub.tmr, dpa := true }
          | none => s.logMgmt at_ c 7 0
        let s := s.endFault f.token true
        s.modHub fun h => { h with faults := h.faults.filter fun x => x.token != f.token }
      | none =>
        let s := s.putHomes at_ (faultRecord f)
        (s.modHub fun h =>
          { h with fqHead := (h.fqHead + 1) % n,
                   faults := if f.live then h.faults.map fun x => if x.token = f.token then { x with written := true } else x
                     else h.faults.filter fun x => x.token != f.token }).vector 0

/-- Appends held records in creation order until none is held or the queue is full. -/
def State.appendFaults (s : State) : Nat → State
  | 0 => s
  | n + 1 => State.appendFaults s.appendFault n
/-- Appends every held record that finds a place. -/
def State.flushFaults (s : State) : State := s.appendFaults s.hub.faults.length

/-- A resolvable fault of a requester (R74): joins the entry of its page or creates one; none where all 64 are in use. -/
def State.raiseFault (s : State) (ck : Option Nat) (asn : Nat) (va : Word) (kind reason : Nat) : Option Nat × State :=
  let page := va.toNat / 65536
  match s.hub.faults.find? (fun f => f.live && f.ck == ck && f.asn == asn && f.va.toNat / 65536 == page) with
  | some f => (some f.token, s)
  | none =>
    if (s.hub.faults.filter fun f => f.live && f.ck == ck).length < 64 then
      let tok := s.hub.token
      let s := s.modHub fun h =>
        { h with token := (h.token + 1) % 2 ^ 32,
                 faults := h.faults ++ [{ token := tok, ck := ck, die := (ck.map fun c => (s.logOf (c / 64)).getD 0).getD 0xFF, asn := asn, va := va, kind := kind, reason := reason, born := h.tmr }] }
      (some tok, s.flushFaults)
    else (none, s)

/-! ## The scratchpad of a group -/

/-- The unit that is member m of a unit's ensemble (R122, R324). -/
def State.member (s : State) (uid m : Nat) : Option Nat :=
  match s.unit? uid with
  | none => none
  | some u => if m < u.esize then some (unitKey u.lid (u.idx / u.esize * u.esize + m)) else none

/-- The skewed mapping of an offset through tile declarations (R108, R109). -/
def skewMap (decls : List Word) (o : Nat) : Option Nat :=
  match decls.find? (fun d => let x := d.toNat
      bits x 63 63 == 1 && (bits x 18 8 * 256 ≤ o && o < bits x 18 8 * 256 + (bits x 23 19 + 1) * 256)) with
  | none => none
  | some d =>
    let base := bits d.toNat 18 8 * 256
    let w := (o - base) / 8
    some (base + 8 * (32 * (w / 32) + (w % 32 + w / 32) % 32) + o % 8)

/-- The tile declarations of a unit (R108). -/
def TUnit.decls (u : TUnit) : List Word := (u.uni.drop 152).take 4

/-- The place that an own or peer scratchpad address of n bytes names, for a unit (R55, R109, R122); kept names the tile
declarations that an engine op read at its acceptance. -/
def State.scratchLoc (s : State) (uid : Nat) (va : Word) (n : Nat) (kept : AMap (List Word) := []) : Option Loc :=
  let x := va.toNat
  let peer := bits x 63 56 == 0xF1
  if bits x 39 19 != 0 || (if peer then bits x 52 41 != 0 else bits x 55 41 != 0) then none
  else
    match s.member uid (if peer then bits x 55 53 else ((s.unit? uid).map fun u => u.idx % u.esize).getD 0) with
    | none => none
    | some m =>
      match s.unit? m with
      | none => none
      | some u =>
        let o := bits x 18 0
        let o' := if bits x 40 40 = 1 then skewMap (AMap.get kept m u.decls) o else some o
        match o' with
        | none => none
        | some p => if p + n ≤ u.scrSize then some (.scratch m p) else none

/-- Whether the presence bit of the line at a place is clear (R111). -/
def State.isAbsent (s : State) : Loc → Bool
  | .scratch u o => match s.unit? u with | some x => x.absent.contains (o / 128) | none => false
  | _ => false

end Sys2Proof.Machine
end

