-- ==== Sys2Proof/Machine/Walk.lean ====
section
/-! DEFINITION. The geometry of copies and of matrix jobs: rows, tiles, segments, loop levels, and the addresses they name. -/

namespace Sys2Proof.Machine

/-! ## Copies and gathers -/

/-- The number of rows of a copy, or of elements of a gather (R84, R89). -/
def Card.count : Card → Nat
  | .copy c => if c.xb = 0 then 0 else c.yc * c.zc
  | .gath c => c.cnt
/-- The bytes of a row (R84, R89). -/
def Card.rowBytes : Card → Nat
  | .copy c => c.xb
  | .gath c => c.rb
/-- The source address of row q of a copy (R84). -/
def CopyCard.srcRow (c : CopyCard) (q : Nat) : Word :=
  c.src + BitVec.ofInt 64 ((q / c.yc : Nat) * c.szs + (q % c.yc : Nat) * c.sys_)
/-- The destination address of row q of a copy (R84). -/
def CopyCard.dstRow (c : CopyCard) (q : Nat) : Word :=
  c.dst + BitVec.ofInt 64 ((q / c.yc : Nat) * c.dzs + (q % c.yc : Nat) * c.dys)
/-- The destination address of row or element q (R84, R89). -/
def Card.dstRow : Card → Nat → Word
  | .copy c, q => c.dstRow q
  | .gath c, i => c.dst + Word.ofN (i * c.drs)
/-- The counter, the counter scope and the increment of a card. -/
def Card.ctr : Card → Word
  | .copy c => c.ctr
  | .gath c => c.ctr
def Card.csc : Card → Nat
  | .copy c => c.csc
  | .gath c => c.csc
def Card.inc : Card → Nat
  | .copy c => c.inc
  | .gath _ => 1
/-- The address of the status word, if one is written (R91). -/
def Card.stat : Card → Option Word
  | .copy c => c.stat
  | .gath c => some c.cma

/-- The bytes of a run from an address that one resolution covers: to the end of a 64 KiB page, of a skewed word, of a word of an own
window (R56), or all. -/
def chunk (va : Word) (left : Nat) : Nat :=
  let t := bits va.toNat 63 56
  if t ≤ 1 then min left (65536 - va.toNat % 65536)
  else if (t == 0xF0 || t == 0xF1) && bits va.toNat 40 40 == 1 then min left (8 - va.toNat % 8)
  else if t == 0xF2 then min left (8 - va.toNat % 8)
  else left

/-- Whether n bytes from an address lie under one tag (R84). -/
def oneTag (va : Word) (n : Nat) : Bool := n = 0 || va.toNat % 2 ^ 56 + n ≤ 2 ^ 56

/-! ## Matrix jobs -/

/-- The bits of an element of a format code (R195). -/
def fmtBits : Nat → Nat
  | 1 => 64 | 2 => 32 | 10 => 32 | 3 => 16 | 4 => 16 | 5 => 8 | 6 => 8 | 9 => 8 | _ => 4
/-- Bytes of k elements of a format code (R159). -/
def fmtBytes (f k : Nat) : Nat := (k * fmtBits f + 7) / 8
/-- The alignment of an operand's bases, pitches and steps (R202). -/
def fmtAlign (f : Nat) : Nat := max 1 (fmtBits f / 8)
/-- The block length of the scales of a format code, 0 for none (R195). -/
def fmtBlock : Nat → Nat
  | 5 => 32 | 6 => 32 | 7 => 32 | 8 => 8 | _ => 0

/-- Rows and columns of an output tile and the K segment in classical order (R196). -/
def tileGeom : Nat → Nat × Nat × Nat
  | 1 => (8, 8, 32) | 2 => (16, 8, 32) | 7 => (16, 16, 64) | 8 => (16, 16, 64) | _ => (16, 16, 32)
/-- Rows and columns of an output tile and the K segment (R196, R222). -/
def geom (af : Nat) (recomb : Bool) : Nat × Nat × Nat :=
  let (r, c, k) := tileGeom af
  if recomb then (2 * r, 2 * c, 2 * k) else (r, c, k)

/-- x / k rounded up. -/
def ceilDiv (x k : Nat) : Nat := (x + k - 1) / k

/-- Whether bit n of a job card's flags is set (R206). -/
def JobCard.flag (c : JobCard) (n : Nat) : Bool := bits c.flags n n == 1

/-- Tiles along M and N and segments along K (R207). -/
def JobCard.tileCounts (c : JobCard) (recomb : Bool) : Nat × Nat × Nat :=
  let (r, n, k) := geom c.af recomb
  (ceilDiv c.mt r, ceilDiv c.nt n, ceilDiv c.kt k)

/-- The levels of the walk: the used levels, or the default walk (R207, R208). -/
def JobCard.levels (c : JobCard) (recomb : Bool) : List JobLevel :=
  let used := c.lvls.filter fun l => l.trip != 0
  if used.isEmpty then
    let (r, n, k) := geom c.af recomb
    let (tm, tn, tk) := c.tileCounts recomb
    [{ trip := tk, ast := fmtBytes c.af k, bst := fmtBytes c.bf k, cst := 0, xst := 0, dim := 2 },
     { trip := tn, ast := 0, bst := n * c.bpitch, cst := n * fmtBytes c.cf 1, xst := 0, dim := 1 },
     { trip := tm, ast := if c.flag 4 then 0 else r * c.apitch, bst := 0, cst := r * c.cpitch, xst := r * 4, dim := 0 }]
  else used

/-- Whether the loop nest meets R207. -/
def JobCard.nestOk (c : JobCard) (recomb : Bool) : Bool :=
  let used := c.lvls.filter fun l => l.trip != 0
  let (tm, tn, tk) := c.tileCounts recomb
  let prod (d : Nat) := (used.filter fun l => l.dim == d).foldl (fun p l => p * l.trip) 1
  if c.mt = 0 || c.nt = 0 || c.kt = 0 || used.isEmpty then true
  else prod 0 == tm && prod 1 == tn && prod 2 == tk && (used.dropWhile fun l => l.dim == 2).all fun l => l.dim != 2

/-- The iteration indices of levels, innermost first, at an iteration number. -/
def levelIdx : List JobLevel → Nat → List (JobLevel × Nat)
  | [], _ => []
  | l :: ls, x => (l, x % l.trip) :: levelIdx ls (x / l.trip)

/-- The mixed-radix number of the indices of a dimension (R208). -/
def levelPos (d : Nat) : List (JobLevel × Nat) → Nat
  | [] => 0
  | (l, i) :: rest => if l.dim = d then i + l.trip * levelPos d rest else levelPos d rest

/-- The sum of index times step (R208). -/
def levelSum (f : JobLevel → Int) (ls : List (JobLevel × Nat)) : Int := ls.foldl (fun a x => a + x.2 * f x.1) 0

/-- The number of output tiles and of segments of a job: none where a total is 0 (R208). -/
def Job.tiles (j : Job) : Nat :=
  if j.card.kt = 0 then 0 else let (tm, tn, _) := j.card.tileCounts j.recomb; tm * tn
def Job.segs (j : Job) : Nat := (j.card.tileCounts j.recomb).2.2

/-- The indices of the M and N levels of a tile and of the K levels of a segment. -/
def Job.tileIdx (j : Job) (t : Nat) : List (JobLevel × Nat) := levelIdx ((j.card.levels j.recomb).filter fun l => l.dim != 2) t
def Job.segIdx (j : Job) (k : Nat) : List (JobLevel × Nat) := levelIdx ((j.card.levels j.recomb).filter fun l => l.dim == 2) k

/-- The first global row and column of a tile, and the first K index of a segment (R208). -/
def Job.row0 (j : Job) (t : Nat) : Nat := levelPos 0 (j.tileIdx t) * (geom j.card.af j.recomb).1
def Job.col0 (j : Job) (t : Nat) : Nat := levelPos 1 (j.tileIdx t) * (geom j.card.af j.recomb).2.1
def Job.k0 (j : Job) (k : Nat) : Nat := levelPos 2 (j.segIdx k) * (geom j.card.af j.recomb).2.2
/-- The local rows and columns of a tile that are present (R210), and the present K elements of a segment. -/
def Job.rows (j : Job) (t : Nat) : Nat := min (geom j.card.af j.recomb).1 (j.card.mt - j.row0 t)
def Job.cols (j : Job) (t : Nat) : Nat := min (geom j.card.af j.recomb).2.1 (j.card.nt - j.col0 t)
def Job.ks (j : Job) (k : Nat) : Nat := min (geom j.card.af j.recomb).2.2 (j.card.kt - j.k0 k)

/-- The address of the index entry of local row il (R209). -/
def Job.idxAddr (j : Job) (t il : Nat) : Word := j.card.idxv + BitVec.ofInt 64 (levelSum (·.xst) (j.tileIdx t)) + Word.ofN (4 * il)
/-- The address of the A bytes of a local row or of a gathered row (R202, R208). -/
def Job.aAddr (j : Job) (t k r : Nat) : Word :=
  j.card.abase + BitVec.ofInt 64 (levelSum (·.ast) (j.tileIdx t) + levelSum (·.ast) (j.segIdx k)) + Word.ofN (r * j.card.apitch)
/-- The offset of the B bytes of a local column in the reservation; the K steps are left out under SPARSE (R204, R208). -/
def Job.bOff (j : Job) (t k jl : Nat) : Word :=
  Word.ofN j.card.boff + BitVec.ofInt 64 (levelSum (·.bst) (j.tileIdx t) + (if j.card.flag 5 then 0 else levelSum (·.bst) (j.segIdx k)))
    + Word.ofN (jl * j.card.bpitch)
/-- The address of a C element of a tile (R202, R208). -/
def Job.cAddr (j : Job) (t il jl : Nat) : Word :=
  j.card.cbase + BitVec.ofInt 64 (levelSum (·.cst) (j.tileIdx t)) + Word.ofN (il * j.card.cpitch + jl * fmtBytes j.card.cf 1)

/-- Elements stored per group of 24 under SPARSE (R206). -/
def JobCard.sparseN (c : JobCard) : Nat := match bits c.flags 7 6 with | 0 => 12 | 1 => 8 | _ => 6

/-- A read of a job: n bytes at a scratchpad address. -/
structure ARead where
  va : Word
  n  : Nat
  deriving DecidableEq, Repr

/-- The scratchpad reads of a job for global row g, which it reads as row rho (R202, R203): the segment's bytes at an
address, their scales and the band scale. -/
def Job.aReads (j : Job) (k rho : Nat) (at_ : Word) : List ARead :=
  let c := j.card
  let n := j.ks k
  let L := fmtBlock c.af
  [{ va := at_, n := fmtBytes c.af n }] ++
  (if L = 0 then []
   else
     let first := j.k0 k / L
     [{ va := c.asb + Word.ofN (rho * c.asp) + Word.ofN first, n := (j.k0 k + n - 1) / L + 1 - first }]) ++
  (if c.af = 8 then [{ va := c.abb + Word.ofN (2 * (rho / 64)), n := 2 }] else [])

/-- The metadata groups of a segment (R204). -/
def Job.groups (j : Job) (k : Nat) : List Nat :=
  let first := j.k0 k / 24
  upFrom first ((j.k0 k + j.ks k - 1) / 24 + 1 - first)

/-- The reads of a job in its reservation for global column g, without the element data: scales, band scale, and under
SPARSE the metadata (R203, R204). -/
def Job.bAuxReads (j : Job) (r : Resv) (k g : Nat) : List (Nat × Nat) :=
  let c := j.card
  let n := j.ks k
  let L := fmtBlock c.bf
  (if L = 0 then []
   else
     let first := j.k0 k / L
     [(r.bso + g * r.auxp + first, (j.k0 k + n - 1) / L + 1 - first)]) ++
  (if c.bf = 8 then [(r.gso + 2 * (g / 64), 2)] else []) ++
  (if c.flag 5 then (j.groups k).map fun x => (r.mdo + g * r.auxp + 8 * x, 8) else [])

end Sys2Proof.Machine
end

