-- ==== Sys2Proof/Machine/Flight.lean ====
section
/-! DEFINITION. What accesses that meet an engine op in flight leave undefined (R84, R98, R220), and the presence bits. -/

namespace Sys2Proof.Machine

/-! ## Where the operands of an op in flight lie -/

/-- The place of n bytes at an address that an op of a unit and thread names, if they have one now; no fault is raised. -/
def State.quietLoc (s : State) (uid tk : Nat) (kept : AMap (List Word)) (va : Word) (n : Nat) : Option Loc :=
  let t := bits va.toNat 63 56
  if t ≤ 1 then (s.quietXlate uid va).map .home
  else if t == 0xF0 || t == 0xF1 then s.scratchLoc uid va n kept
  else if t == 0xF2 then (if bits va.toNat 55 32 = 0 then some (ownLoc tk (bits va.toNat 31 0)) else none)
  else if t == 0xF4 then
    ((s.unit? uid).bind fun u => AMap.get? u.resv (bits va.toNat 47 40)).map fun r => .obuf uid (r.off + bits va.toNat 39 0)
  else none

/-- The places of n bytes from an address, as far as they have one; fuel bounds the number of runs. -/
def State.quietRuns (s : State) (uid tk : Nat) (kept : AMap (List Word)) : Nat → Word → Nat → List Run
  | 0, _, _ => []
  | fuel + 1, va, n =>
    if n = 0 then []
    else
      let k := chunk va n
      (match s.quietLoc uid tk kept va k with
        | some l => [{ loc := l, n := k }]
        | none => []) ++ s.quietRuns uid tk kept fuel (va + Word.ofN k) (n - k)

/-- A member of a unit's ensemble as the address of an own window names it: the place at an offset (R100). -/
def memberVa (m : Nat) (va : Word) : Word :=
  Word.ofN (0xF1 * 2 ^ 56 + m * 2 ^ 53 + va.toNat % 2 ^ 53)

/-- The members that a multicast copy delivers to (R100, R101). -/
def CopyCard.members (c : CopyCard) (esize mfail : Nat) : List Nat :=
  (upFrom 0 8).filter fun k => bits c.mask k k == 1 && bits mfail k k == 0 && k < esize

/-- The destination addresses of a row (R84, R89, R100). -/
def Card.dstRows (c : Card) (esize mfail q : Nat) : List Word :=
  match c with
  | .copy x => if x.mc then (x.members esize mfail).map fun m => memberVa m (x.dstRow q) else [x.dstRow q]
  | .gath _ => [c.dstRow q]

/-- The ensemble size of a unit. -/
def State.esize (s : State) (uid : Nat) : Nat := ((s.unit? uid).map (·.esize)).getD 1

/-- The destination places of an op, as far as they are known (R98). -/
def State.opDst (s : State) (o : CopyOp) : List Run :=
  let n := o.card.rowBytes
  (upFrom 0 o.card.count).flatMap fun q =>
    (o.card.dstRows (s.esize o.uid) o.mfail q).flatMap fun va => s.quietRuns o.uid o.tk o.decls (n + 1) va n

/-- The bytes that an op writes to its destination. -/
def State.dstSize (s : State) (o : CopyOp) : Nat :=
  o.card.count * o.card.rowBytes * (o.card.dstRows (s.esize o.uid) o.mfail 0).length
/-- The destination places of an op as they are known now: those at its acceptance, and where some were not known, those that its
addresses have by now (R98). -/
def State.dstNow (s : State) (o : CopyOp) : List Run :=
  if (o.dst.map (·.n)).sum < s.dstSize o then o.dst ++ s.opDst o else o.dst

/-- The entries of the index list of a gather, as far as they are known. -/
def State.opIndex (s : State) (o : CopyOp) : List (Nat × Run) :=
  match o.card with
  | .copy _ => []
  | .gath c => (upFrom 0 c.cnt).filterMap fun i =>
      (s.quietLoc o.uid o.tk o.decls (c.idx + Word.ofN (4 * i)) 4).map fun l => (i, { loc := l, n := 4 })

/-- The source places of an op, as far as they are known (R98). -/
def State.opSrc (s : State) (o : CopyOp) : List Run :=
  match o.card with
  | .copy c => (upFrom 0 o.card.count).flatMap fun q => s.quietRuns o.uid o.tk o.decls (c.xb + 1) (c.srcRow q) c.xb
  | .gath c => (s.opIndex o).flatMap fun p =>
      let x := leVal (s.bytesAt 0 p.2.loc 4)
      if x < c.bnd then s.quietRuns o.uid o.tk o.decls (c.rb + 1) (c.src + Word.ofN (x * c.srs)) c.rb else []

/-- The entries of a gather's index list as they are known now. -/
def State.indexNow (s : State) (o : CopyOp) : List (Nat × Run) :=
  match o.card with
  | .copy _ => o.index
  | .gath c => if o.index.length < c.cnt then o.index ++ s.opIndex o else o.index
/-- The source places of an op as they are known now (R98). -/
def State.srcNow (s : State) (o : CopyOp) : List Run :=
  match o.card with
  | .copy c => if (o.src.map (·.n)).sum < o.card.count * c.xb then o.src ++ s.opSrc o else o.src
  | .gath _ => o.src ++ s.opSrc o

/-- Whether a place is in a scratchpad. -/
def Loc.isScratch : Loc → Bool
  | .scratch _ _ => true
  | _ => false

/-- The places of a read of a job at a scratchpad address. -/
def State.jobMeets (s : State) (j : Job) (va : Word) (m : Nat) (l : Loc) (n : Nat) : Bool :=
  match s.scratchLoc j.uid va m j.decls with
  | some x => x.overlap m l n
  | none => false

/-- The row of A that a job reads for a local row: the row itself or the gathered one, as its index entry stands (R209). -/
def State.jobRho (s : State) (j : Job) (t il : Nat) : Nat :=
  if j.card.flag 4 then
    match s.scratchLoc j.uid (j.idxAddr t il) 4 j.decls with
    | some l => leVal (s.bytesAt 0 l 4)
    | none => 0
  else j.row0 t + il

/-- The global rows of a job whose computation reads any of n bytes at a scratchpad place (R220). -/
def State.jobRows (s : State) (j : Job) (l : Loc) (n : Nat) : List Nat :=
  if !l.isScratch then []
  else
    ((upFrom 0 j.tiles).flatMap fun t =>
      (upFrom 0 (j.rows t)).filterMap fun il =>
        let rho := s.jobRho j t il
        let idx := j.card.flag 4 && s.jobMeets j (j.idxAddr t il) 4 l n
        let hit := (upFrom 0 j.segs).any fun k =>
          (j.aReads k rho (j.aAddr t k (if j.card.flag 4 then rho else il))).any fun r => s.jobMeets j r.va r.n l n
        if idx || hit then some (j.row0 t + il) else none).eraseDups

/-- The global columns of a job whose computation reads any of n bytes of its reservation (R220). -/
def State.jobCols (s : State) (j : Job) (l : Loc) (n : Nat) : List Nat :=
  match l with
  | .obuf u _ =>
    if u ≠ j.uid then []
    else
      match (s.unit? u).bind fun x => AMap.get? x.resv j.card.bh with
      | none => []
      | some r =>
        ((upFrom 0 j.tiles).flatMap fun t =>
          (upFrom 0 (j.cols t)).filterMap fun jl =>
            let g := j.col0 t + jl
            let hit := (upFrom 0 j.segs).any fun k =>
              let size := if j.card.flag 5 then fmtBytes j.card.bf (ceilDiv j.card.kt 24 * j.card.sparseN) else fmtBytes j.card.bf (j.ks k)
              (((j.bOff t k jl).toNat, size) :: j.bAuxReads r k g).any fun x => (Loc.obuf u (r.off + x.1)).overlap x.2 l n
            if hit then some g else none).eraseDups
  | _ => []

/-- The C elements whose computation has read any of n bytes at a scratchpad place: those of the block steps that have run (R220). -/
def State.jobPast (s : State) (j : Job) (l : Loc) (n : Nat) : List (Nat × Nat) :=
  if !l.isScratch then []
  else
    (upFrom 0 (j.tile + 1)).flatMap fun t =>
      let segs := if t < j.tile then j.segs else j.seg
      (upFrom 0 (j.rows t)).flatMap fun il =>
        let rho := s.jobRho j t il
        let idx := j.card.flag 4 && segs != 0 && s.jobMeets j (j.idxAddr t il) 4 l n
        let hit := (upFrom 0 segs).any fun k =>
          (j.aReads k rho (j.aAddr t k (if j.card.flag 4 then rho else il))).any fun r => s.jobMeets j r.va r.n l n
        if idx || hit then (upFrom 0 (j.cols t)).map fun jl => (j.row0 t + il, j.col0 t + jl) else []

/-- The C elements of a job of which any of n bytes at a place is a part (R220). -/
def State.jobCells (s : State) (j : Job) (l : Loc) (n : Nat) : List (Nat × Nat) :=
  match l with
  | .priv _ _ => []
  | .obuf _ _ => []
  | _ =>
    let c := fmtBytes j.card.cf 1
    (upFrom 0 j.tiles).flatMap fun t =>
      (upFrom 0 (j.rows t)).flatMap fun il =>
        (upFrom 0 (j.cols t)).filterMap fun jl =>
          match s.quietLoc j.uid j.tk j.decls (j.cAddr t il jl) c with
          | some x => if x.overlap c l n then some (j.row0 t + il, j.col0 t + jl) else none
          | none => none

/-- Bytes k up to k + m of what several runs hold become undefined. -/
def State.forgetRuns (s : State) (spec k m : Nat) : List Run → State
  | [] => s
  | r :: rs =>
    let lo := min k r.n
    let n := min (k + m) r.n - lo
    (if n = 0 then s else s.forgetAs spec (r.loc.add lo) n).forgetRuns spec (k - lo) (m - n) rs

/-! ## Reads and writes in flight -/

/-- Whether an access of a number, after what x says, is past a window that an access has closed (R266, R268; log 26). -/
def Order.past (x : Order) (seq : Nat) (closed : Option Nat) : Bool := closed.any fun c => decide (c < seq) && decide (c < x.acq)
/-- What a thread's accesses come after. -/
def State.afterOf (s : State) (tk : Nat) : Order := ((s.thread? tk).map (·.after)).getD {}

/-- The ops whose window may be open: in flight, ended, or saved away with their unit (R98, R105, R268). -/
def State.windowOps (s : State) : List CopyOp :=
  s.cores.flatMap (fun c => c.2.chans.flatten ++ c.2.doneOps) ++ s.units.flatMap fun p => p.2.savedOps
/-- The jobs whose window may be open (R220, R221, R268). -/
def State.windowJobs (s : State) : List Job :=
  s.cores.flatMap (fun c => c.2.jobs ++ c.2.doneJobs) ++ s.units.flatMap fun p => p.2.savedJobs
/-- Changes the op of a number wherever it is kept. -/
def State.mapOp (s : State) (id : Nat) (f : CopyOp → CopyOp) : State :=
  let g (o : CopyOp) : CopyOp := if o.id = id then f o else o
  { s with
    cores := s.cores.map fun c => (c.1, { c.2 with chans := c.2.chans.map fun ops => ops.map g, doneOps := c.2.doneOps.map g })
    units := s.units.map fun p => (p.1, { p.2 with savedOps := p.2.savedOps.map g }) }
/-- Changes the job of a number wherever it is kept. -/
def State.mapJob (s : State) (id : Nat) (f : Job → Job) : State :=
  let g (j : Job) : Job := if j.id = id then f j else j
  { s with
    cores := s.cores.map fun c => (c.1, { c.2 with jobs := c.2.jobs.map g, doneJobs := c.2.doneJobs.map g })
    units := s.units.map fun p => (p.1, { p.2 with savedJobs := p.2.savedJobs.map g }) }

/-- Whether a byte is an output of an op: of its destination, but for a scratchpad byte that has landed (R98, R265). -/
def State.opOut (s : State) (o : CopyOp) (l : Loc) : Bool :=
  ((s.dstNow o).any fun r => r.loc.overlap r.n l 1) && !(l.isScratch && o.pieces.any fun p => p.dst.any fun d => d.overlap p.n l 1)
/-- Whether a byte is of an element of a job's C (R220). -/
def State.jobOut (s : State) (j : Job) (l : Loc) : Bool :=
  !(s.jobCells j l 1).isEmpty || j.cells.any fun x => x.2.2.overlap (fmtBytes j.card.cf 1) l 1

/-- Whether a byte is an output of an op or a job, other than that of a number, whose window is open for an access of a number after
what x says (R98, R220, R268). -/
def State.openDst (s : State) (self seq : Nat) (x : Order) (l : Loc) : Bool :=
  (s.windowOps.any fun o => o.id != self && !x.past seq o.closed && s.opOut o l) ||
  (s.windowJobs.any fun j => j.id != self && !x.past seq j.closed && s.jobOut j l)
/-- Whether a byte that a thread reads is such an output. -/
def State.inFlight (s : State) (tk seq : Nat) (l : Loc) : Bool := s.openDst 0 seq (s.afterOf tk) l

/-- An access of a number, a WAIT or an acquire, has read a value of a counter: the window of the ops and jobs of the cores in its reach
whose updates wrote that value or an earlier one closes (R104, R266, R268; log 26). -/
def State.closeWindow (s : State) (q : Nat) (l : Loc) (v : Nat) (reach : Nat → Bool) : State :=
  let shut (u : Option (Loc × Nat)) (closed : Option Nat) : Option Nat :=
    if u.any fun x => x.1 == l && x.2 ≤ v then closed.or (some q) else closed
  if s.cores.all (fun c => c.2.doneOps.isEmpty && c.2.doneJobs.isEmpty) then s
  else
    { s with cores := s.cores.map fun c =>
        if reach c.1 then
          (c.1, { c.2 with doneOps := c.2.doneOps.map fun o => { o with closed := shut o.upd o.closed }
                           doneJobs := c.2.doneJobs.map fun j => { j with closed := shut j.upd j.closed } })
        else c }
/-- Every window is over, as at a device-wide phase boundary (R269). -/
def State.closeWindows (s : State) : State := { s with cores := s.cores.map fun c => (c.1, { c.2 with doneOps := [], doneJobs := [] }) }

/-- The bytes that an op has landed from n bytes at a place become undefined (R98). -/
def State.spoilPieces (s : State) (spec : Nat) (o : CopyOp) (l : Loc) (n : Nat) : State :=
  let rows := ((s.indexNow o).filter fun x => x.2.loc.overlap x.2.n l n).map (·.1)
  o.pieces.foldl (fun s p =>
    let hit := if rows.contains p.row then some (0, p.n) else p.src.meet p.n l n
    match hit with
    | none => s
    | some (k, m) => p.dst.foldl (fun s d => s.forgetAs spec (d.add k) m) s) s

/-- An access of another agent meets an op: bytes of its destination become undefined, and with src, for a thread, the outputs that come
from a source that it writes (R84, R98). -/
def State.spoilOp (s : State) (o : CopyOp) (l : Loc) (n : Nat) (src : Bool) : State :=
  let spec := s.specOf o.uid
  let onDst := (s.dstNow o).filterMap fun r => l.meet n r.loc r.n
  let onSrc := src && ((s.srcNow o).any (fun r => r.loc.overlap r.n l n) || (s.indexNow o).any fun x => x.2.loc.overlap x.2.n l n)
  let s := onDst.foldl (fun s x => s.forgetAs spec (l.add x.1) x.2) s
  let s := if onSrc then s.spoilPieces spec o l n else s
  if onDst.isEmpty && !onSrc then s
  else s.mapOp o.id fun x => { x with taint := x.taint ++ [{ loc := l, n := n }] }

/-- Rows, columns and elements of a job become undefined: those that are written, and those still to be written (R220). -/
def State.spoilJob (s : State) (j : Job) (rows cols : List Nat) (cells : List (Nat × Nat)) : State :=
  if rows.isEmpty && cols.isEmpty && cells.isEmpty then s
  else
    let spec := s.specOf j.uid
    let s := j.cells.foldl (fun s c =>
      if rows.contains c.1 || cols.contains c.2.1 || cells.contains (c.1, c.2.1) then s.forgetAs spec c.2.2 (fmtBytes j.card.cf 1) else s) s
    s.mapJob j.id fun x =>
      { x with badRows := x.badRows ++ rows, badCols := x.badCols ++ cols, badCells := x.badCells ++ cells }

/-- Who writes: a thread, an agent that comes after whatever has been waited for (the sequencer, a thread's unit, the host, a peer), or an
op or a job, by its number and its acceptance. -/
inductive Writer where
  | thread (tk : Nat)
  | agent
  | op (id seq : Nat) (after : Order)
  | job (id seq : Nat) (after : Order)
  deriving DecidableEq, Repr

/-- Whether a write of a number is past a window (R268). -/
def State.writesPast (s : State) (w : Writer) (seq : Nat) (closed : Option Nat) : Bool :=
  match w with
  | .thread tk => (s.afterOf tk).past seq closed
  | .agent => closed.isSome
  | .op _ q x => x.past q closed
  | .job _ q x => x.past q closed

/-- A write into the bytes of a speculation buffer leaves the buffered lines undefined (R331). -/
def State.spoilSpec (s : State) (l : Loc) (n : Nat) : State :=
  s.hub.launches.foldl (fun s p => match p.2.spec with
    | some b =>
      if b.area.any fun r => r.loc.overlap r.n l n then
        let (k, s) := s.takeFresh
        s.modLaunch p.1 fun x => { x with spec := some { b with hdr := if (Loc.home b.head).overlap 64 l n then [] else b.hdr, lines := b.lines.map fun e =>
          (e.1, e.2.map fun y => (y.1, Config.undefByte k (128 * e.1 + y.1))) } }
      else s
    | none => s) s

/-- The offsets, in an area of several runs, of the bytes that a write of n bytes at a place touches; at_ is the offset of the first
run. -/
def areaHits (l : Loc) (n : Nat) : Nat → List Run → List Nat
  | _, [] => []
  | at_, r :: rs => (match r.loc.meet r.n l n with | some (k, m) => upFrom (at_ + k) m | none => []) ++ areaHits l n (at_ + r.n) rs

/-- The offsets in a unit's save block of the bytes that n bytes at a place take in, while the block may come to be read (R345). -/
def TUnit.saveHits (u : TUnit) (l : Loc) (n : Nat) : List Nat :=
  if u.stat = .ended || u.stat = .lost then [] else areaHits l n 0 u.save
/-- What the save blocks of units hold at n bytes of a place is not what the device wrote there (R345, R357). -/
def State.hitSaves (s : State) (l : Loc) (n : Nat) : State :=
  { s with units := s.units.map fun p => (p.1, { p.2 with saveHit := p.2.saveHit ++ p.2.saveHits l n }) }
/-- A write into the save block of a unit that is resident or saved away: the bytes are undefined, and so is the state that they hold
(R345). -/
def State.spoilSaves (s : State) (l : Loc) (n : Nat) : State :=
  if s.units.any fun p => !(p.2.saveHits l n).isEmpty then (s.forgetAt l n).hitSaves l n else s

/-- The device has lost what it kept in memory at n bytes of a place: save blocks and speculation buffers (R331, R345, R357). -/
def State.loseKept (s : State) (l : Loc) (n : Nat) : State := (s.spoilSpec l n).hitSaves l n

/-- A write meets ops whose window is open for it (R98, R268). -/
def State.noteOps (s : State) (w : Writer) (seq : Nat) (l : Loc) (n : Nat) (ops : List CopyOp) : State :=
  ops.foldl (fun s o =>
    if s.writesPast w seq o.closed then s
    else
      match w with
      | .op id _ _ => if o.id = id then s else s.spoilOp o l n false
      | .job _ _ _ => s.spoilOp o l n false
      | _ => if seq < o.seq then s else s.spoilOp o l n true) s

/-- A write meets jobs whose window is open for it (R220, R268). A scratchpad line that an op fills is no race for a job that reads it once
its bit is set (R265). -/
def State.noteJobs (s : State) (w : Writer) (seq : Nat) (l : Loc) (n : Nat) (jobs : List Job) : State :=
  jobs.foldl (fun s j =>
    let self := match w with | .job id _ _ => j.id == id | _ => false
    let early := (match w with | .op _ _ _ => false | .job _ _ _ => false | _ => true) && decide (seq < j.seq)
    let fills := (match w with | .op _ _ _ => true | _ => false) && s.isAbsent l
    let outs := if self then [] else s.jobCells j l n
    if early || s.writesPast w seq j.closed then s
    else s.spoilJob j (if fills then [] else s.jobRows j l n) (s.jobCols j l n) (outs ++ (if fills then s.jobPast j l n else []))) s

/-- A write of n bytes at a place by an agent whose access has a sequence number meets the ops and jobs whose window is open for it: in
flight, or with a counter update that it has not passed on (R98, R220, R268). -/
def State.noteWrite (s : State) (w : Writer) (seq : Nat) (l : Loc) (n : Nat) : State :=
  let s := (s.spoilSpec l n).spoilSaves l n
  (s.noteOps w seq l n s.windowOps).noteJobs w seq l n s.windowJobs

/-! ## Presence bits -/

/-- Sets presence bits of a unit's scratchpad lines; the ops and jobs that wait on them wait no longer (R99, R103). -/
def State.setPresent (s : State) (uid : Nat) (lines : List Nat) : State :=
  let s := s.modUnit uid fun u => { u with absent := u.absent.filter fun x => !lines.contains x }
  let now := s.hub.tmr
  { s with cores := s.cores.map fun c =>
      (c.1, { c.2 with
        chans := c.2.chans.map fun ops => ops.map fun o =>
          let left := o.waitOn.filter fun x => !(x.uid == uid && lines.contains x.line)
          if !o.waitOn.isEmpty && left.isEmpty then { o with waitOn := [], waited := o.waited + (now - o.waitFrom) }
          else { o with waitOn := left }
        jobs := c.2.jobs.map fun j => match j.waitOn with
          | some x => if x.1 = uid && lines.contains x.2 then { j with waitOn := none, waited := j.waited + (now - j.waitFrom) } else j
          | none => j }) }

/-- Sets every presence bit that an op cleared and has not yet set (R95, R99). -/
def State.setAllPresent (s : State) (ck : Nat) (id : Nat) : State :=
  let lines := (s.core ck).chans.flatten.flatMap fun o => if o.id = id then o.cleared else []
  let s := lines.foldl (fun s x => s.setPresent x.1 [x.2]) s
  s.modCore ck fun c => { c with chans := c.chans.map fun ops => ops.map fun o => if o.id = id then { o with cleared := [] } else o }

end Sys2Proof.Machine
end

