-- ==== Sys2Proof/Machine/Pending.lean ====
section
/-! DEFINITION. Plain writes that have not performed, what a thread reads, the request collector, and when accesses have
performed. -/

namespace Sys2Proof.Machine

/-! ## Plain writes -/

/-- Records a store error of a thread for its delivery point, and logs it (R78, R79). -/
def State.storeError (s : State) (tk : Nat) (ck : Nat) (va tloc : Word) (cause : Nat) : State :=
  match s.thread? tk with
  | none => s
  | some t =>
    let s := s.logCore ck { addr := va, cause := cause, kind := 0, who := t.tg, unit := t.uid % 2 ^ 32, time := s.hub.tmr, dpa := false }
    s.setThread tk { t with errs := t.errs ++ [{ regs := [], cause := cause, tloc := tloc }] }

/-- A write of a thread to a scratchpad byte: an engine op that no OFENCE orders after it may still read the byte it replaces
(R213, R264). -/
def TUnit.unfence (u : TUnit) (off tk seq n : Nat) : TUnit :=
  { u with unfenced := u.unfenced ++ (upFrom off n).map fun k => { off := k, old := u.scr.byte k, tk := tk, seq := seq } }
/-- Notes that a thread writes n bytes at a place of a scratchpad (R264). -/
def State.unfence (s : State) (tk seq : Nat) (l : Loc) (n : Nat) : State :=
  match l with
  | .scratch u o => s.modUnit u fun x => x.unfence o tk seq n
  | _ => s

/-- A plain write performs at its home (R255); its core's L1 copy follows (R116). -/
def State.perform (s : State) (ck : Nat) (p : Pend) : State :=
  match s.locErr p.loc p.bytes.length false (some p.seq) with
  | some c => s.storeError p.tk ck p.va p.tloc c
  | none =>
    let s := ((s.unfence p.tk p.seq p.loc p.bytes.length).writeAt p.spec p.loc p.bytes).noteWrite (.thread p.tk) p.seq p.loc p.bytes.length
    match p.loc with
    | .home d => if p.spec = 0 then (s.offWrite p.seq p.tk p.tloc d p.bytes).l1Update ck p.loc p.bytes else s
    | _ => s.l1Update ck p.loc p.bytes

/-- The pending writes of a core that a test picks, with every earlier one that shares a byte with one of them, and those that are
left (R107, R253). -/
def pickWrites (f : Pend → Bool) : List Pend → List Pend × List Pend
  | [] => ([], [])
  | p :: ps =>
    let r := pickWrites f ps
    if f p || r.1.any (fun q => p.loc.overlap p.bytes.length q.loc q.bytes.length) then (p :: r.1, r.2) else (r.1, p :: r.2)
/-- Performs, in order of arrival, the pending writes of a core that a test picks, after the earlier writes to their bytes: what has been
read stays in its order (R252 to R254). -/
def State.performWhere (s : State) (ck : Nat) (f : Pend → Bool) : State :=
  let c := s.core ck
  let r := pickWrites f c.pend
  r.1.foldl (fun s p => s.perform ck p) (s.setCore ck { c with pend := r.2 })

/-- Performs every pending write of a core (R255). -/
def State.performAll (s : State) (ck : Nat) : State := s.performWhere ck fun _ => true

/-- A thread acquires: what it does from now on comes after everything before (R238; log 26). -/
def State.acquire (s : State) (tk : Nat) : State := s.modThread tk fun t => { t with after := { t.after with acq := s.seq } }

/-- Drops a core's L1 lines (R256). -/
def State.refresh (s : State) (ck : Nat) : State := s.modCore ck fun c => { c with l1 := [] }

/-- The byte of a pending write at a place. -/
def Pend.byteAt (p : Pend) (l : Loc) : Option Byte :=
  if p.loc.overlap p.bytes.length l 1 then p.bytes[l.off - p.loc.off]? else none

/-- Whether a read of a thread of a core returns a pending write: its own earlier ones, and those that a read of the core has
returned (R252, R254). -/
def Pend.visible (p : Pend) (tk seq spec : Nat) : Bool :=
  ((p.tk == tk && p.seq < seq) || p.seen) && (p.spec == 0 || p.spec == spec)

/-- The byte a thread reads at a place (R118, R252, R254): its own earlier writes in program order, and the writes that its core has
read, then what a speculation buffer holds, then the given byte of the line's copy or of the home; an output of an engine op in
flight is undefined (R98, R220). -/
def State.seenByte (s : State) (ck tk seq spec : Nat) (l : Loc) (base : Byte) : Byte :=
  if s.inFlight tk seq l then Config.undefByte (2 ^ 64 + seq) l.off
  else
    match (s.core ck).pend.foldl (fun acc p => if p.visible tk seq spec then (p.byteAt l).or acc else acc) none with
    | some b => b
    | none => match l with
      | .home d => (s.specByte spec d).getD base
      | _ => base

/-- The bytes a thread reads at a place, over a copy of its line or over the home. -/
def State.seen (s : State) (ck tk seq spec : Nat) (l : Loc) (n : Nat) (line : Option (List Byte)) : List Byte :=
  (upFrom 0 n).map fun k =>
    let x := l.add k
    s.seenByte ck tk seq spec x (match line with
      | some bs => bs.getD x.inLine 0
      | none => s.byteAt 0 x)

/-- A thread's read has returned its own pending writes of n bytes at a place: from now on every read of the core does (R254). -/
def State.markSeen (s : State) (ck tk seq : Nat) (l : Loc) (n : Nat) : State :=
  if (s.core ck).pend.any (fun p => p.tk == tk && p.seq < seq && !p.seen && p.loc.overlap p.bytes.length l n) then
    s.modCore ck fun c => { c with pend := c.pend.map fun p =>
      if p.tk = tk && p.seq < seq && p.loc.overlap p.bytes.length l n then { p with seen := true } else p }
  else s

/-- The value of a load record from the bytes read (R118). -/
def extend (bs : List Byte) (sgn : Bool) : Word :=
  let x := Word.ofN (leVal bs)
  if sgn then sextN x (8 * bs.length) else x

/-- What an access that joined a collector entry reads of its line: its value, or the cause of the line's error response. -/
def State.entryRead (s : State) (ck tk seq spec : Nat) (l : Loc) (n : Nat) (sgn : Bool) (err : Option Nat) (bs : List Byte) :
    Nat ⊕ Word :=
  match if err = some cADDR then err else s.locErr l n true (some seq) with
  | some cause => .inl cause
  | none => .inr (extend (s.seen ck tk seq spec l n (some bs)) sgn)

/-- Whether an in-port's element waits for a collector entry of a line. -/
def InElem.waits (e : InElem) (line : Loc) : Bool := e.wait && e.loc.any fun l => l.line == line
/-- The width in bytes of a port's elements (R123). -/
def PortBind.width (b : PortBind) : Nat := 2 ^ bits b.code.toNat 1 0
/-- Whether a port's elements are extended with their sign (R123). -/
def PortBind.signed (b : PortBind) : Bool := bits b.code.toNat 2 2 == 1 && b.width < 8

/-- The places and sizes of a thread's reads that wait for a collector entry of a line, with their numbers. -/
def Thread.readsOf (t : Thread) (line : Loc) : List (Nat × Loc × Nat) :=
  (t.loads.filterMap fun r => if r.res.isNone && r.err.isNone && r.loc.line == line then some (r.seq, r.loc, r.size) else none) ++
  t.ports.flatMap fun p => match p.bind with
    | none => []
    | some b => p.fin.filterMap fun e => if e.waits line then e.loc.map fun l => (e.seq, l, b.width) else none

/-- A port whose elements that wait for a collector entry of a line have read it. -/
def Port.readEntry (p : Port) (line : Loc) (read : PortBind → Loc → Nat → Nat ⊕ Word) : Port :=
  match p.bind with
  | none => p
  | some b =>
    let fill (e : InElem) : InElem :=
      match e.waits line, e.loc with
      | true, some l =>
        (match read b l e.seq with
        | .inl cause => { e with err := some cause, wait := false }
        | .inr v => { e with val := v, wait := false })
      | _, _ => e
    { p with fin := p.fin.map fill }

/-- A thread whose accesses that joined a collector entry have read its line. -/
def State.readEntry (s : State) (ck tk : Nat) (t : Thread) (line : Loc) (err : Option Nat) (bs : List Byte) : Thread :=
  let spec := s.specOf t.uid
  { t with
    loads := t.loads.map fun r =>
      if r.res.isNone && r.err.isNone && r.loc.line == line then
        match s.entryRead ck tk r.seq spec r.loc r.size r.sgn err bs with
        | .inl cause => { r with err := some cause }
        | .inr v => { r with res := some v }
      else r
    ports := t.ports.map fun p => p.readEntry line fun b l seq => s.entryRead ck tk seq spec l b.width b.signed err bs }

/-- Sends a collector entry (R115): its stores may perform from now on, and each load and in-port element that joined it reads the
line at home, which fills the L1 (R116). -/
def State.sendEntry (s : State) (ck : Nat) (line : Loc) : State :=
  let (q, s) := s.takeSeq
  let c := s.core ck
  let readers := s.threads.filter fun p => s.ckOf p.2.uid == ck && !(p.2.readsOf line).isEmpty
  let err := s.locErr line 128 true
  let bs := s.bytesAt 0 line 128
  let c := { c with coll := c.coll.filter fun e => e.line != line,
                    pend := c.pend.map fun p => if p.inColl && p.loc.line = line then { p with inColl := false, ent := q } else p,
                    l1 := if !readers.isEmpty && err.isNone then
                        (c.l1.filter fun x => x.1 != line).drop (c.l1.length + 1 - Config.l1Lines) ++ [(line, bs)]
                      else c.l1 }
  let s := s.setCore ck c
  let ts := s.threads.map fun p => if s.ckOf p.2.uid = ck then (p.1, s.readEntry ck p.1 p.2 line err bs) else p
  let s := { s with threads := ts }
  readers.foldl (fun s p => (p.2.readsOf line).foldl (fun s r => s.markSeen ck p.1 r.1 r.2.1 r.2.2) s) s

/-- Sends the entries that a thread's accesses wait in. -/
def State.sendFor (s : State) (ck tk : Nat) : State :=
  let c := s.core ck
  let t := s.thread? tk
  (c.coll.filter fun e => (c.pend.any fun p => p.tk == tk && p.loc.line == e.line) ||
      (match t with
        | some t => !(t.readsOf e.line).isEmpty
        | none => false)).foldl (fun s e => s.sendEntry ck e.line) s

/-- A thread's earlier accesses are performed: its loads have read and its writes are at their homes. -/
def State.settle (s : State) (ck tk : Nat) : State :=
  (s.sendFor ck tk).performWhere ck fun p => p.tk == tk

/-- Before an access served at home (R116): the thread's own earlier accesses to the bytes come first, and the writes that its core
has read (R238, R252, R254). -/
def State.orderAtHome (s : State) (ck tk : Nat) (l : Loc) (n : Nat) : State :=
  let s := if (s.core ck).coll.any (fun e => e.line == l.line) then s.sendEntry ck l.line else s
  if (s.core ck).pend.any (fun p => (p.tk == tk || p.seen) && p.loc.overlap p.bytes.length l n) then
    s.performWhere ck fun p => p.loc.line == l.line
  else s

/-- Whether a UWR of a thread is in flight (R141). -/
def State.uwrOpen (s : State) (tk : Nat) : Bool :=
  match s.unit? (tk / 1024) with
  | some u => u.uwr.any fun r => r.tk == tk
  | none => false

/-- Whether every access of a thread has performed (R242, R250): no write pending, no load that has not read, and no load with an
error response, which waits for its delivery (R78). -/
def State.ownPerformed (s : State) (ck tk : Nat) : Bool :=
  !((s.core ck).pend.any fun p => p.tk == tk) &&
  (match s.thread? tk with
    | some t => t.loads.all (fun r => r.res.isSome) && t.ports.all (fun p => p.fout.isEmpty)
    | none => true)
/-- Whether every write that the threads of a core issued before a sequence number has performed, with the elements of
their out-ports (R128, R255). -/
def State.corePerformed (s : State) (ck mark : Nat) : Bool :=
  !((s.core ck).pend.any fun p => p.seq < mark) &&
  !(s.threads.any fun p => p.2.ports.any (fun q => q.fout.any fun e => e.seq < mark) && s.ckOf p.2.uid == ck)
/-- Whether an order at sys scope waits for the delivery of an off-package write: one that its core or an engine of it made before an access
number, or one that its thread's last acquire came after (R238, R260). -/
def State.waitsFor (s : State) (ck mark acq : Nat) (w : OffWrite) : Bool :=
  decide (w.seq < acq) ||
  (decide (w.seq < mark) && (match w.eng with
    | some e => e.1 == ck
    | none => s.ckOf (w.tk / 1024) == ck))
/-- Whether every off-package write that an order at sys scope waits for has been delivered (R260). -/
def State.coreDelivered (s : State) (ck mark acq : Nat) : Bool := !s.offw.any fun w => s.waitsFor ck mark acq w

/-- A release at grp or core scope records the core in the line's tag (R257). -/
def State.tagLine (s : State) (ck : Nat) : Loc → State
  | .home d => { s with tags := AMap.set s.tags (d / 128) (ck, s.seq) }
  | _ => s

end Sys2Proof.Machine
end

