-- ==== Sys2Proof/Machine/Streams.lean ====
section
/-! DEFINITION. The accesses of a thread: the checks of an address, plain writes, and the stream ports. -/

namespace Sys2Proof.Machine

/-- What the checks of a thread's access give: its place, a trap, a resolvable fault with its entry (R57, R74), or a wait for a UWR
of the thread to a tile declaration (R109, R141). -/
inductive Acc where
  | ok (l : Loc)
  | hold
  | trap (cause : Nat)
  | fault (token : Option Nat)
  deriving DecidableEq, Repr

/-- An error-log entry of a thread's access (R79). -/
def State.logThread (s : State) (t : Thread) (va : Word) (cause kind : Nat) : State :=
  s.logCore (s.ckOf t.uid)
    { addr := va, cause := cause, kind := kind, who := t.tg, unit := t.uid % 2 ^ 32, time := s.hub.tmr, dpa := false }

/-- The bytes of own store per thread of a unit's launch (R121). -/
def State.pvb (s : State) (uid : Nat) : Nat := ((s.launchOf uid).map (·.desc.pvb)).getD 0

/-- Whether a tag is one of R54. -/
def tagKnown (va : Word) : Bool :=
  let x := bits va.toNat 63 56
  x == 0 || x == 1 || x == 0xF0 || x == 0xF1 || x == 0xF2 || x == 0xF4
/-- Whether a tag is a global one (R54). -/
def tagGlobal (va : Word) : Bool := bits va.toNat 63 56 ≤ 1
/-- Whether a tag is own or peer scratchpad (R54). -/
def tagScratch (va : Word) : Bool := bits va.toNat 63 56 == 0xF0 || bits va.toNat 63 56 == 0xF1

/-- The place that a window address of n bytes names for a thread, within its layout and bounds (R55, R56). -/
def State.windowLoc (s : State) (tk : Nat) (uid : Nat) (va : Word) (n : Nat) : Option Loc :=
  if tagScratch va then s.scratchLoc uid va n
  else if bits va.toNat 63 56 == 0xF2 && bits va.toNat 55 32 == 0 && bits va.toNat 31 0 + n ≤ s.pvb uid then
    some (ownLoc tk (bits va.toNat 31 0))
  else none

/-- Translates a global address of a thread (R57, R69, R74 to R77); kind is the access kind of the fault record. -/
def State.threadXlate (s : State) (t : Thread) (tok : Option Nat) (va : Word) (kind : Nat) : Acc × State :=
  let logKind := if kind = 3 then 4 else 0
  if (match tok with
      | some k => s.hub.refused.contains (k, va.toNat / 65536)
      | none => false) then (.trap cXLATE, s.logThread t va cXLATE logKind)
  else
    let (asn, root) := s.spaceOf t.uid
    match s.translate asn root va kind with
    | (.ok d _, s) => if s.exists_ d then (.ok (.home d), s) else (.trap cADDR, s.logThread t va cADDR logKind)
    | (.fault r, s) =>
      let (k, s) := s.raiseFault (some (s.ckOf t.uid)) asn va kind r
      (.fault k, s)
    | (.malformed, s) => (.trap cXLATE, s.logThread t va cXLATE logKind)
    | (.err c a, s) =>
      (.trap c, s.logCore (s.ckOf t.uid)
        { addr := Word.ofN a, cause := c, kind := 3, who := t.tg, unit := t.uid % 2 ^ 32, time := s.hub.tmr, dpa := true })

/-- Whether a UWR of a thread to a tile declaration of its unit is in flight (R109, R141). -/
def State.declsInFlight (s : State) (tk uid : Nat) : Bool :=
  match s.unit? uid with
  | some u => u.uwr.any fun r => r.tk == tk && 152 ≤ r.n && r.n < 156
  | none => false
/-- Whether an address of a thread is mapped by tile declarations that a UWR of its own in flight changes (R109, R141). -/
def State.skewWaits (s : State) (tk uid : Nat) (va : Word) : Bool :=
  tagScratch va && bits va.toNat 40 40 == 1 && s.declsInFlight tk uid

/-- The checks of a thread's access of n bytes aligned on al bytes, in the order of R57. An access with tag 0xF4 that is misaligned
as well raises ADDR: R54 refuses the tag whatever the access, and R57 does not place that check (DESIGN CHOICE; log 69). -/
def State.access (s : State) (tk : Nat) (t : Thread) (tok : Option Nat) (va : Word) (n al kind : Nat) : Acc × State :=
  if !tagKnown va || bits va.toNat 63 56 == 0xF4 then (.trap cADDR, s)
  else if va.toNat % al ≠ 0 then (.trap cALIGN, s)
  else if tagGlobal va then s.threadXlate t tok va kind
  else if s.skewWaits tk t.uid va then (.hold, s)
  else match s.windowLoc tk t.uid va n with
    | some l => (.ok l, s)
    | none => (.trap cADDR, s)

/-- The index of the watch comparator that an access matches, for a thread that does not skip it (R350). -/
def State.watchHit (s : State) (t : Thread) (l : Loc) (n : Nat) (rd wr : Bool) : Option Nat :=
  match l with
  | .scratch u o =>
    if u ≠ t.uid then none
    else
      match s.unit? u with
      | none => none
      | some x => (upFrom 0 4).find? fun k => !t.skip.contains (8 + k) && (match x.dbg.wps.getD k none with
          | some w => w.lo < o + n && o < w.hi && ((rd && w.rd) || (wr && w.wr))
          | none => false)
  | _ => none

/-! ## Plain writes of a thread -/

/-- Opens or joins the collector entry of a place (R115); none where all 64 are in use. -/
def State.joinEntry (s : State) (ck : Nat) (l : Loc) : Option State :=
  if !l.collected then some s
  else
    let c := s.core ck
    if c.coll.any (fun e => e.line == l.line) then some s
    else if c.coll.length < 64 then
      some (s.setCore ck { c with coll := c.coll ++ [{ line := l.line, at_ := (s.cluster (ck / 8)).clk }] })
    else none

/-- Whether the lines of n bytes from a home address find room in a speculation buffer, counting the writes that still wait (R331). -/
def State.specHolds (s : State) (spec d n : Nat) : Bool :=
  match (s.launch? spec).bind (·.spec) with
  | none => true
  | some b =>
    let waiting := (((s.cores.flatMap fun c => c.2.pend).filterMap fun p => match p.loc with
      | .home x => if p.spec = spec then some (x / 128) else none
      | _ => none).filter fun x => (AMap.get? b.lines x).isNone).eraseDups
    let new := (upFrom (d / 128) ((d + n + 127) / 128 - d / 128)).filter fun x => (AMap.get? b.lines x).isNone && !waiting.contains x
    new.isEmpty || b.lines.length + waiting.length + new.length ≤ b.cap
/-- Whether a plain write to a place finds room in the speculation buffer (R331). -/
def State.specFits (s : State) (spec : Nat) (l : Loc) : Bool :=
  match l with
  | .home d => spec == 0 || s.specHolds spec d 1
  | _ => true

/-- Elements prefetched from a place that the thread itself now writes are fetched again, with those behind them (R128). -/
def dropTouched (l : Loc) (n w : Nat) : List InElem → List InElem
  | [] => []
  | e :: es =>
    if (match e.loc with
      | some x => x.overlap w l n
      | none => true) then []
    else e :: dropTouched l n w es

/-- Whether a port is an out-port (R123). -/
def PortBind.isOut (b : PortBind) : Bool := bits b.code.toNat 3 3 == 1
/-- The address of a port's next element (R123). -/
def PortBind.addr (b : PortBind) : Word := b.base + Word.ofN b.pos * b.stride

/-- A thread whose in-ports no longer hold elements that a write touches. -/
def Thread.touched (t : Thread) (l : Loc) (n : Nat) : Thread :=
  { t with ports := t.ports.map fun p =>
      { p with fin := dropTouched l n (match p.bind with | some b => b.width | none => 0) p.fin } }

/-- A thread whose prefetched elements are all dropped (R128, R129). -/
def Thread.dropPrefetched (t : Thread) : Thread := { t with ports := t.ports.map fun p => { p with fin := [], tokIn := none } }

/-- A plain write of a thread issues (R239, R255): it joins its core's writes that have not performed. -/
def State.issueWrite (s : State) (tk : Nat) (t : Thread) (l : Loc) (bs : List Byte) (va tloc : Word) : Option State :=
  let ck := s.ckOf t.uid
  match s.joinEntry ck l with
  | none => none
  | some s =>
    let (q, s) := s.takeSeq
    let p : Pend := { tk := tk, seq := q, loc := l, bytes := bs, va := va, tloc := tloc, inColl := l.collected,
                      spec := s.specAt t.uid l }
    let s := s.modCore ck fun c => { c with pend := c.pend ++ [p] }
    some (s.modThread tk fun t => t.touched l bs.length)

/-! ## Out-ports -/

/-- The port of a thread that holds its oldest waiting element (R128). -/
def Thread.oldestOut (t : Thread) : Option Nat :=
  let heads := (upFrom 0 4).filterMap fun k => ((t.ports.getD k {}).fout.head?).map fun e => (e.seq, k)
  (heads.foldl (fun acc x => match acc with
    | none => some x
    | some y => if x.1 < y.1 then some x else acc) none).map (·.2)

/-- Hands the oldest waiting element of a thread's out-ports to the memory system as a plain store, or drops it with its
error; false where it has to wait (R127, R128). -/
def State.drainOne (s : State) (tk : Nat) : Bool × State :=
  match s.thread? tk with
  | none => (false, s)
  | some t =>
    match t.oldestOut with
    | none => (false, s)
    | some k =>
      let p := t.ports.getD k {}
      match p.fout with
      | [] => (false, s)
      | e :: rest =>
        let t' := { t with ports := setAt t.ports k { p with fout := rest, tokOut := none } }
        match (match e.loc with
          | some l => (Acc.ok l, s)
          | none => s.access tk t p.tokOut e.addr e.bytes.length 1 1) with
        | (.ok l, s) =>
          if s.isAbsent l then (false, s)
          else if !s.specFits (s.specOf t.uid) l then (false, s)
          else
            match (s.setThread tk t').issueWrite tk t' l e.bytes e.addr e.tloc with
            | some s => (true, s)
            | none => (false, s)
        | (.trap c, s) =>
          (true, s.setThread tk { t' with errs := t'.errs ++ [{ regs := [], cause := c, tloc := e.tloc }] })
        | (.fault k', s) => (false, s.setThread tk { t with ports := setAt t.ports k { p with tokOut := k' } })
        | (.hold, s) => (false, s)

/-- Drains up to n waiting elements of a thread. -/
def State.drainN (s : State) (tk : Nat) : Nat → State
  | 0 => s
  | n + 1 => match s.drainOne tk with
    | (true, s) => s.drainN tk n
    | (false, s) => s
/-- Drains a thread's out-ports as far as they go. -/
def State.drainOut (s : State) (tk : Nat) : State := s.drainN tk 32

/-- Whether a thread's out-ports hold no element. -/
def Thread.outEmpty (t : Thread) : Bool := t.ports.all fun p => p.fout.isEmpty

/-- The checks of a write to an out-port (R127): a cause and second code, none where they pass. -/
def State.outCheck (s : State) (tk : Nat) (t : Thread) (k : Nat) : Option (Nat × Nat) :=
  match (t.ports.getD k {}).bind with
  | none => some (cSTREAM, 0)
  | some b =>
    if !b.isOut then some (cSTREAM, 0)
    else if b.pos = b.count then some (cSTREAM, 0)
    else if !tagKnown b.addr || bits b.addr.toNat 63 56 == 0xF4 then some (cADDR, 0)
    else if tagGlobal b.addr then none
    else match s.windowLoc tk t.uid b.addr b.width with
      | none => some (cADDR, 0)
      | some l => (s.watchHit t l b.width false true).map fun i => (cWATCH, i)

/-- Whether the next element of an out-port has to wait for a UWR of the thread to a tile declaration (R109, R141). -/
def State.outHeld (s : State) (tk : Nat) (t : Thread) (k : Nat) : Bool :=
  match (t.ports.getD k {}).bind with
  | some b => s.skewWaits tk t.uid b.addr
  | none => false

/-- Writes the next element of an out-port: the place of a window element is decided here (R127). -/
def State.outWrite (s : State) (tk : Nat) (k : Nat) (v : Word) (tloc : Word) : State :=
  match s.thread? tk with
  | none => s
  | some t =>
    let p := t.ports.getD k {}
    match p.bind with
    | none => s
    | some b =>
      let (q, s) := s.takeSeq
      let e : OutElem := { addr := b.addr, loc := if tagGlobal b.addr then none else s.windowLoc tk t.uid b.addr b.width, bytes := leBytes b.width v.toNat, tloc := tloc, seq := q }
      let t := { t with ports := setAt t.ports k { p with bind := some { b with pos := b.pos + 1 }, fout := p.fout ++ [e] } }
      s.setThread tk t.dropPrefetched

/-- Drains the out-ports of every thread of a core as far as they go. -/
def State.drainCore (s : State) (ck : Nat) : State :=
  s.threads.foldl (fun s p => if p.2.outEmpty || s.ckOf p.2.uid != ck then s else s.drainOut p.1) s

/-- Sends the collector entries in which writes of a core wait: the loads that joined them read first (R115, R118). -/
def State.sendWrites (s : State) (ck : Nat) : State :=
  let c := s.core ck
  (c.coll.filter fun e => c.pend.any fun p => p.loc.line == e.line).foldl (fun s e => s.sendEntry ck e.line) s

/-- Whether no thread of a core has an out-port element that waits: a publication of the core can complete (R255). -/
def State.outDrained (s : State) (ck : Nat) : Bool :=
  s.threads.all fun p => p.2.outEmpty || s.ckOf p.2.uid != ck

/-- The tags that name a core clear, but for those of releases that an element of an out-port which still waits came before (R257). -/
def State.clearTags (s : State) (ck : Nat) : State :=
  let waiting := s.threads.flatMap fun p =>
    if s.ckOf p.2.uid = ck then p.2.ports.flatMap fun q => q.fout.map (·.seq) else []
  { s with tags := s.tags.filter fun p => p.2.1 != ck || waiting.any fun q => q < p.2.2 }

/-- A publication of a core (R255, R257): every write its threads have issued performs, but for elements of out-ports that have to wait, and
the tags that it covers clear. -/
def State.publish (s : State) (ck : Nat) : State := (((s.drainCore ck).sendWrites ck).performAll ck).clearTags ck

/-- The core, other than one, that the tag of a place's line names (R257). -/
def State.taggedCore (s : State) (ck : Nat) : Loc → Option Nat
  | .home d => ((AMap.get? s.tags (d / 128)).map (·.1)).filter (· != ck)
  | _ => none

/-- Promotion of a line at home (R257): the core in its tag publishes, drops the line from its L1, and the tag clears. -/
def State.promote (s : State) (ck : Nat) (l : Loc) : State :=
  match s.taggedCore ck l with
  | none => s
  | some x =>
    let s := (s.publish x).modCore x fun c => { c with l1 := c.l1.filter fun e => e.1 != l.line }
    if s.outDrained x then { s with tags := AMap.del s.tags (l.off / 128) } else s

/-! ## In-ports -/

/-- Fetches the element of an in-port at a position as a plain load (R126, R128): the element, or none where it waits. One that misses
the L1 joins the request collector (R114, R115). -/
def State.fetchElem (s : State) (tk : Nat) (k pos : Nat) : Option InElem × State :=
  let s := s.drainOut tk
  match s.thread? tk with
  | none => (none, s)
  | some t =>
    let p := t.ports.getD k {}
    match p.bind with
    | none => (none, s)
    | some b =>
      if !t.outEmpty then (none, s)
      else
        let va := b.base + Word.ofN pos * b.stride
        let ck := s.ckOf t.uid
        match s.access tk t p.tokIn va b.width b.width 0 with
        | (.ok l, s) =>
          if s.isAbsent l then (none, s)
          else
            let (q, s) := s.takeSeq
            let read (line : Option (List Byte)) : Option InElem × State :=
              (some { val := extend (s.seen ck tk q (s.specOf t.uid) l b.width line) b.signed, loc := some l, seq := q },
                s.markSeen ck tk q l b.width)
            if !l.collected then
              match s.locErr l b.width true with
              | some c => (some { val := 0, err := some c, loc := some l, seq := q }, s.logThread t va c 0)
              | none => read none
            else
              match (s.core ck).l1.find? fun e => e.1 == l.line with
              | some e => read (some e.2)
              | none => match s.joinEntry ck l with
                | some s => (some { val := 0, loc := some l, wait := true, seq := q }, s)
                | none => (none, s)
        | (.trap c, s) => (some { val := 0, err := some c }, s)
        | (.fault k', s) => (none, s.modThread tk fun t => { t with ports := setAt t.ports k { p with tokIn := k' } })
        | (.hold, s) => (none, s)

/-- An in-port fetches the element after those it holds, where its FIFO has a free place (R126, R128). -/
def State.fetchNext (s : State) (tk k : Nat) : State :=
  match s.thread? tk with
  | none => s
  | some t =>
    let p := t.ports.getD k {}
    match p.bind with
    | none => s
    | some b =>
      let failed := match p.fin.getLast? with | some e => e.err.isSome | none => false
      if b.isOut || p.fin.length ≥ 8 || failed || b.pos + p.fin.length ≥ b.count then s
      else match s.fetchElem tk k (b.pos + p.fin.length) with
        | (some e, s) => s.modThread tk fun t =>
            let p := t.ports.getD k {}
            { t with ports := setAt t.ports k { p with tokIn := none, fin := p.fin ++ [e] } }
        | (none, s) => s

/-- Whether a FIFO holds the n elements that an instruction reads, or those up to one whose fetch failed (R126). -/
def finReady : Nat → List InElem → Bool
  | 0, _ => true
  | _, [] => false
  | n + 1, e :: es => !e.wait && (e.err.isSome || finReady n es)

/-- What a read of an in-port gives: a value, a trap, or a wait. -/
inductive PortRead where
  | ok (v : Word) (s : State)
  | trap (cause code : Nat)
  | wait (s : State)

/-- Reads and consumes the next element of an in-port of which the instruction has n to read (R126); a watched element raises WATCH
at its consumer (R350). -/
def State.portRead (s : State) (tk k n : Nat) : PortRead :=
  match s.thread? tk with
  | none => .trap cSTREAM 0
  | some t =>
    match (t.ports.getD k {}).bind with
    | none => .trap cSTREAM 0
    | some b =>
      if b.isOut || b.pos + n > b.count then .trap cSTREAM 0
      else
        let s := if finReady n (t.ports.getD k {}).fin then s else (upFrom 0 n).foldl (fun s _ => s.fetchNext tk k) s
        let fin := (((s.thread? tk).getD t).ports.getD k {}).fin
        match finReady n fin, fin with
        | true, e :: rest =>
          (match e.loc.bind fun l => s.watchHit t l b.width true false with
          | some i => .trap cWATCH i
          | none =>
            match e.err with
            | some c => .trap c 0
            | none =>
              .ok e.val (s.modThread tk fun t =>
                { t with ports := setAt t.ports k { (t.ports.getD k {}) with bind := some { b with pos := b.pos + 1 }, fin := rest } }))
        | _, _ => .wait s

end Sys2Proof.Machine
end

