-- ==== Sys2Proof/Machine/Operands.lean ====
section
/-! DEFINITION. Operands: the positions and values of every source form, the registers an instruction names, reads and
writes, and when it is ready. -/

namespace Sys2Proof.Machine

/-- The type of an operand position (R34, R38); off n is the offset of a memory access of n bytes (R41). -/
inductive Pos where
  | int | f32 | f64 | h4 | b4 | h1 | b1
  | off (n : Nat)
  deriving DecidableEq, Repr

/-- How an instruction behaves under a false guard (R30, R31). -/
inductive GMode where
  | normal | sel | compare | branch | loop
  deriving DecidableEq, Repr

/-- Which pending errors an instruction is a delivery point of by its kind (R78): none, those of loads, or all. -/
inductive Point where
  | none | load | all
  deriving DecidableEq, Repr

/-- What an instruction reads, writes and needs. -/
structure Info where
  /-- census class (R298) -/
  cls   : Nat := 11
  /-- length in bytes (R23) -/
  len   : Nat := 4
  /-- the guard, none for a 16-bit form -/
  guard : Option Guard := Option.none
  mode  : GMode := .normal
  /-- sources in the order they are read, A before B -/
  srcs  : List (Pos × Src) := []
  /-- D where it is read as a source, after A and B -/
  rd    : Option (Pos × Dst) := Option.none
  /-- lane registers read besides -/
  more  : List Nat := []
  /-- lane registers written -/
  wr    : List Nat := []
  /-- the destination, none under W = 1 -/
  dst   : Option Dst := Option.none
  /-- predicates written -/
  wp    : List Nat := []
  point : Point := .none
  /-- counts towards the outstanding loads (R119) -/
  load  : Bool := false
  deriving DecidableEq, Repr

/-- The lane register a destination names. -/
def dstRegs : Dst → List Nat
  | .v n => [n.1]
  | .m _ => []
/-- The lane register a source names. -/
def srcRegs : Src → List Nat
  | .v n => [n.1]
  | _ => []
/-- A destination unless W suppresses it (R28). -/
def keptDst (w : Bool) (d : Dst) : Option Dst := if w then none else some d

/-- A three-operand instruction; acc is the position of D where it accumulates. -/
def Info.alu3 (cls : Nat) (p : Pos) (o : Op3) (acc : Option Pos) : Info :=
  { cls := cls, guard := some o.g, srcs := [(p, o.a), (p, o.b)], rd := acc.map fun q => (q, o.d),
    wr := if o.w then [] else dstRegs o.d, dst := keptDst o.w o.d }
/-- A result-producing XOP function. -/
def Info.alu2 (cls : Nat) (p : Pos) (o : Op2) (acc : Option Pos) : Info :=
  { cls := cls, guard := some o.g, srcs := [(p, o.a)], rd := acc.map fun q => (q, o.d),
    wr := if o.w then [] else dstRegs o.d, dst := keptDst o.w o.d }
/-- EX2S writes D and D+1 (R177). -/
def Info.ex2s (o : Op2) : Info :=
  { cls := 5, guard := some o.g, srcs := [(.f32, o.a)],
    wr := if o.w then [] else (dstRegs o.d).flatMap fun n => [n, n + 1], dst := keptDst o.w o.d }
/-- A compare writes pP and p(P xor 1) (R40). -/
def Info.cmp (cls : Nat) (p : Pos) (g : Guard) (q : Fin 8) (a b : Src) : Info :=
  { cls := cls, guard := some g, mode := .compare, srcs := [(p, a), (p, b)], wp := [q.1, q.1 ^^^ 1] }
/-- A load of n bytes (R41, R118). -/
def Info.load_ (n : Nat) (o : MemOp) : Info :=
  { cls := 6, guard := some o.g, srcs := [(.int, o.a), (.off n, o.b)], wr := dstRegs o.d, dst := some o.d, load := true }
/-- A store of n bytes (R41, R239). -/
def Info.store (n : Nat) (o : MemOp) : Info :=
  { cls := 7, guard := some o.g, srcs := [(.int, o.a), (.off n, o.b)], rd := some (.int, o.d), point := .load }
/-- An ATOM; pair names D+1 as well (R35, R244). -/
def Info.atom (g : Guard) (ar : Bool) (d : Dst) (a : Src) (pair : Bool) : Info :=
  let second := if pair then (dstRegs d).map (· + 1) else []
  { cls := 8, guard := some g, srcs := [(.int, a)], rd := some (.int, d), more := second, wr := dstRegs d ++ second,
    dst := some d, point := if ar then .all else .load, load := true }
/-- A 16-bit form: D is the first source and the destination (R47). -/
def Info.compact (cls : Nat) (p : Pos) (d : Dst) (more : List (Pos × Src)) : Info :=
  { cls := cls, len := 2, srcs := (p, d.toSrc) :: more, wr := dstRegs d, dst := some d }
/-- The 16-bit MOV reads only S (R47). -/
def Info.movC (o : C16) : Info :=
  { cls := 0, len := 2, srcs := [(.int, o.s.toSrc)], wr := dstRegs o.d, dst := some o.d }

/-- What an instruction reads, writes and needs, by its row of the opcode maps (R49, R50, R298). -/
def instrInfo : Instr → Info
  | .iadd o => .alu3 0 .int o none
  | .isub o => .alu3 0 .int o none
  | .imul o => .alu3 1 .int o none
  | .imac o => .alu3 1 .int o (some .int)
  | .iadd32 o => .alu3 0 .int o none
  | .isub32 o => .alu3 0 .int o none
  | .imul32 o => .alu3 1 .int o none
  | .imac32 o => .alu3 1 .int o (some .int)
  | .imulhS o => .alu3 1 .int o none
  | .imulhN o => .alu3 1 .int o none
  | .andOp o => .alu3 0 .int o none
  | .orOp o => .alu3 0 .int o none
  | .xorOp o => .alu3 0 .int o none
  | .andn o => .alu3 0 .int o none
  | .shl o => .alu3 0 .int o none
  | .shr o => .alu3 0 .int o none
  | .asr o => .alu3 0 .int o none
  | .loop o => { cls := 9, guard := some o.g, mode := .loop, srcs := [(.int, o.a)] }
  | .iminS o => .alu3 0 .int o none
  | .imaxS o => .alu3 0 .int o none
  | .iminN o => .alu3 0 .int o none
  | .imaxN o => .alu3 0 .int o none
  | .fadd o => .alu3 2 .f32 o none
  | .fsub o => .alu3 2 .f32 o none
  | .fmul o => .alu3 2 .f32 o none
  | .ffma o => .alu3 2 .f32 o (some .f32)
  | .fmin o => .alu3 2 .f32 o none
  | .fmax o => .alu3 2 .f32 o none
  | .dadd o => .alu3 3 .f64 o none
  | .dsub o => .alu3 3 .f64 o none
  | .dmul o => .alu3 3 .f64 o none
  | .dfma o => .alu3 3 .f64 o (some .f64)
  | .dmin o => .alu3 3 .f64 o none
  | .dmax o => .alu3 3 .f64 o none
  | .hadd o => .alu3 4 .h4 o none
  | .hmul o => .alu3 4 .h4 o none
  | .hfma o => .alu3 4 .h4 o (some .h4)
  | .badd o => .alu3 4 .b4 o none
  | .bmul o => .alu3 4 .b4 o none
  | .bfma o => .alu3 4 .b4 o (some .b4)
  | .icmpS o => .cmp 0 .int o.g o.p o.a o.b
  | .icmpN o => .cmp 0 .int o.g o.p o.a o.b
  | .fcmp o => .cmp 2 .f32 o.g o.p o.a o.b
  | .dcmp o => .cmp 3 .f64 o.g o.p o.a o.b
  | .sel o => { Info.alu3 0 .int o none with mode := .sel }
  | .ld8 o => .load_ 1 o
  | .ld16 o => .load_ 2 o
  | .ld32 o => .load_ 4 o
  | .ld64 o => .load_ 8 o
  | .ld8S o => .load_ 1 o
  | .ld16S o => .load_ 2 o
  | .ld32S o => .load_ 4 o
  | .st8 o => .store 1 o
  | .st16 o => .store 2 o
  | .st32 o => .store 4 o
  | .st64 o => .store 8 o
  | .ldacq o => { cls := 6, guard := some o.g, srcs := [(.int, o.a)], wr := dstRegs o.d, dst := some o.d, load := true }
  | .strel o => { cls := 7, guard := some o.g, srcs := [(.int, o.a)], rd := some (.int, o.d), point := .all }
  | .atomAdd o => .atom o.g o.ar o.d o.a false
  | .atomAnd o => .atom o.g o.ar o.d o.a false
  | .atomOr o => .atom o.g o.ar o.d o.a false
  | .atomXor o => .atom o.g o.ar o.d o.a false
  | .atomMinS o => .atom o.g o.ar o.d o.a false
  | .atomMaxS o => .atom o.g o.ar o.d o.a false
  | .atomMinN o => .atom o.g o.ar o.d o.a false
  | .atomMaxN o => .atom o.g o.ar o.d o.a false
  | .atomXchg o => .atom o.g o.ar o.d o.a false
  | .atomCas o => .atom o.g o.ar o.d o.a true
  | .atomFadd o => .atom o.g o.ar o.d o.a false
  | .atomIncw o => .atom o.g o.ar o.d o.a false
  | .atomCasPromote o => .atom o.g o.ar o.d o.a true
  | .atomHacc o => .atom o.g o.ar o.d o.a true
  | .br o => { cls := 9, guard := some o.g, mode := .branch, point := .load }
  | .call o => { cls := 9, guard := some o.g, mode := .branch, point := .load, wr := [59] }
  | .imx _ => { }
  | .ill => { }
  | .illParcel => { }
  | .mov o => .alu2 0 .int o none
  | .notOp o => .alu2 0 .int o none
  | .negOp o => .alu2 0 .int o none
  | .absOp o => .alu2 0 .int o none
  | .popc o => .alu2 0 .int o none
  | .clz o => .alu2 0 .int o none
  | .ctz o => .alu2 0 .int o none
  | .brev o => .alu2 0 .int o none
  | .bswap o => .alu2 0 .int o none
  | .sx8 o => .alu2 0 .int o none
  | .sx16 o => .alu2 0 .int o none
  | .sx32 o => .alu2 0 .int o none
  | .zx8 o => .alu2 0 .int o none
  | .zx16 o => .alu2 0 .int o none
  | .zx32 o => .alu2 0 .int o none
  | .movs o => .alu2 0 .int ⟨o.g, o.w, o.d, .z⟩ none
  | .urd o => .alu2 0 .int o none
  | .uwr o => { cls := 0, guard := some o.g, srcs := [(.int, o.a)], rd := some (.int, o.d) }
  | .fneg o => .alu2 2 .f32 o none
  | .fabs o => .alu2 2 .f32 o none
  | .dneg o => .alu2 3 .f64 o none
  | .dabs o => .alu2 3 .f64 o none
  | .frcp o => .alu2 5 .f32 o none
  | .frsq o => .alu2 5 .f32 o none
  | .fsqrt o => .alu2 5 .f32 o none
  | .fex2 o => .alu2 5 .f32 o none
  | .flg2 o => .alu2 5 .f32 o none
  | .drcp o => .alu2 5 .f64 o none
  | .dsqrt o => .alu2 5 .f64 o none
  | .drsq o => .alu2 5 .f64 o none
  | .fscale o => .alu2 5 .int o (some .f32)
  | .dscale o => .alu2 5 .int o (some .f64)
  | .fxpn o => .alu2 5 .f32 o none
  | .dxpn o => .alu2 5 .f64 o none
  | .ex2s o => .ex2s o
  | .frintRn o => .alu2 5 .f32 o none
  | .frintRz o => .alu2 5 .f32 o none
  | .frintRm o => .alu2 5 .f32 o none
  | .frintRp o => .alu2 5 .f32 o none
  | .drintRn o => .alu2 5 .f64 o none
  | .drintRz o => .alu2 5 .f64 o none
  | .drintRm o => .alu2 5 .f64 o none
  | .drintRp o => .alu2 5 .f64 o none
  | .cvtF64F32 o => .alu2 5 .f32 o none
  | .cvtF32F64 o => .alu2 5 .f64 o none
  | .cvtF16F32 o => .alu2 5 .f32 o none
  | .cvtBf16F32 o => .alu2 5 .f32 o none
  | .cvtF32F16 o => .alu2 5 .h1 o none
  | .cvtF32Bf16 o => .alu2 5 .b1 o none
  | .cvtF32S64 o => .alu2 5 .int o none
  | .cvtF32N64 o => .alu2 5 .int o none
  | .cvtF64S64 o => .alu2 5 .int o none
  | .cvtF64N64 o => .alu2 5 .int o none
  | .cvtS32F32 o => .alu2 5 .f32 o none
  | .cvtN32F32 o => .alu2 5 .f32 o none
  | .cvtS64F32 o => .alu2 5 .f32 o none
  | .cvtN64F32 o => .alu2 5 .f32 o none
  | .cvtS32F64 o => .alu2 5 .f64 o none
  | .cvtN32F64 o => .alu2 5 .f64 o none
  | .cvtS64F64 o => .alu2 5 .f64 o none
  | .cvtN64F64 o => .alu2 5 .f64 o none
  | .elect o => { cls := 10, guard := some o.g, wr := dstRegs o.d, dst := some o.d }
  | .vany o => { cls := 10, guard := some o.g, srcs := [(.int, o.a)], wr := dstRegs o.d, dst := some o.d }
  | .vall o => { cls := 10, guard := some o.g, srcs := [(.int, o.a)], wr := dstRegs o.d, dst := some o.d }
  | .vbal o => { cls := 10, guard := some o.g, srcs := [(.int, o.a)], wr := dstRegs o.d, dst := some o.d }
  | .shfi o => { cls := 10, guard := some o.g, srcs := [(.int, o.a)], rd := some (.int, o.d), wr := dstRegs o.d, dst := some o.d }
  | .shfa o => { cls := 10, guard := some o.g, srcs := [(.int, o.a)], rd := some (.int, o.d), wr := dstRegs o.d, dst := some o.d }
  | .shfb o => { cls := 10, guard := some o.g, srcs := [(.int, o.a)], rd := some (.int, o.d), wr := dstRegs o.d, dst := some o.d }
  | .shfx o => { cls := 10, guard := some o.g, srcs := [(.int, o.a)], rd := some (.int, o.d), wr := dstRegs o.d, dst := some o.d }
  | .radd o => { cls := 10, guard := some o.g, srcs := [(.int, o.a)], wr := dstRegs o.d, dst := some o.d }
  | .rminS o => { cls := 10, guard := some o.g, srcs := [(.int, o.a)], wr := dstRegs o.d, dst := some o.d }
  | .rmaxS o => { cls := 10, guard := some o.g, srcs := [(.int, o.a)], wr := dstRegs o.d, dst := some o.d }
  | .rfadd o => { cls := 10, guard := some o.g, srcs := [(.f32, o.a)], wr := dstRegs o.d, dst := some o.d }
  | .rdadd o => { cls := 10, guard := some o.g, srcs := [(.f64, o.a)], wr := dstRegs o.d, dst := some o.d }
  | .scan o => { cls := 10, guard := some o.g, srcs := [(.int, o.a)], wr := dstRegs o.d, dst := some o.d }
  | .matchOp o => { cls := 10, guard := some o.g, srcs := [(.int, o.a)], wr := dstRegs o.d, dst := some o.d }
  | .gpart o => { cls := 10, guard := some o.g, srcs := [(.int, o.a)] }
  | .nop o => { cls := 11, guard := some o.g }
  | .exit o => { cls := 11, guard := some o.g, srcs := [(.int, o.a)], point := .all }
  | .brk o => { cls := 11, guard := some o.g }
  | .trap o => { cls := 11, guard := some o.g, srcs := [(.int, o.a)] }
  | .yield o => { cls := 11, guard := some o.g }
  | .rgn o => { cls := 11, guard := some o.g }
  | .bnd o => { cls := 11, guard := some o.g, point := .all }
  | .fenceGrp o => { cls := 11, guard := some o.g, point := .all }
  | .fenceCore o => { cls := 11, guard := some o.g, point := .all }
  | .fenceDie o => { cls := 11, guard := some o.g, point := .all }
  | .fenceDev o => { cls := 11, guard := some o.g, point := .all }
  | .fenceSys o => { cls := 11, guard := some o.g, point := .all }
  | .ofence o => { cls := 11, guard := some o.g }
  | .barArr o => { cls := 10, guard := some o.g }
  | .barWait o => { cls := 10, guard := some o.g }
  | .barSync o => { cls := 10, guard := some o.g }
  | .barInit o => { cls := 10, guard := some o.g, srcs := [(.int, o.a)] }
  | .wait o => { cls := 11, guard := some o.g, srcs := [(.int, o.a)], rd := some (.int, o.d) }
  | .cpy o => { cls := 11, guard := some o.g, srcs := [(.int, o.a)] }
  | .gath o => { cls := 11, guard := some o.g, srcs := [(.int, o.a)] }
  | .mxl o => { cls := 11, guard := some o.g, srcs := [(.int, o.a)], wr := dstRegs o.d, dst := some o.d }
  | .ores o => { cls := 11, guard := some o.g, srcs := [(.int, o.a)], wr := dstRegs o.d, dst := some o.d }
  | .orls o => { cls := 11, guard := some o.g, srcs := [(.int, o.a)] }
  | .strm o => { cls := 11, guard := some o.g, srcs := [(.int, o.a)] }
  | .jmpi o => { cls := 9, guard := some o.g, srcs := [(.int, o.a)], point := .load }
  | .calli o => { cls := 9, guard := some o.g, srcs := [(.int, o.a)], point := .load, wr := [59] }
  | .ret o => { cls := 9, guard := some o.g, point := .load, more := [59] }
  | .icinv o => { cls := 11, guard := some o.g, srcs := [(.int, o.a)], rd := some (.int, o.d) }
  | .launch o => { cls := 11, guard := some o.g, srcs := [(.int, o.a)], wr := dstRegs o.d, dst := some o.d }
  | .cancel o => { cls := 11, guard := some o.g, srcs := [(.int, o.a)] }
  | .specCommit o => { cls := 11, guard := some o.g, srcs := [(.int, o.a)] }
  | .specDiscard o => { cls := 11, guard := some o.g, srcs := [(.int, o.a)] }
  | .dbgHalt o => { cls := 11, guard := some o.g, srcs := [(.int, o.a)] }
  | .dbgResume o => { cls := 11, guard := some o.g, srcs := [(.int, o.a)] }
  | .dbgStep o => { cls := 11, guard := some o.g, srcs := [(.int, o.a)] }
  | .dbgSetmask o => { cls := 11, guard := some o.g, srcs := [(.int, o.a)] }
  | .dbgWset o => { cls := 11, guard := some o.g, srcs := [(.int, o.a)] }
  | .dbgWclr o => { cls := 11, guard := some o.g, srcs := [(.int, o.a)] }
  | .dbgStatus o => { cls := 11, guard := some o.g, srcs := [(.int, o.a)] }
  | .dbgReadreg o => { cls := 11, guard := some o.g, srcs := [(.int, o.a)] }
  | .dbgBpset o => { cls := 11, guard := some o.g, srcs := [(.int, o.a)] }
  | .dbgBpclr o => { cls := 11, guard := some o.g, srcs := [(.int, o.a)] }
  | .movCompact o => .movC o
  | .iaddCompact o => .compact 0 .int o.d [(.int, o.s.toSrc)]
  | .isubCompact o => .compact 0 .int o.d [(.int, o.s.toSrc)]
  | .iadd32Compact o => .compact 0 .int o.d [(.int, o.s.toSrc)]
  | .iaddi o => .compact 0 .int o.d []
  | .andCompact o => .compact 0 .int o.d [(.int, o.s.toSrc)]
  | .orCompact o => .compact 0 .int o.d [(.int, o.s.toSrc)]
  | .xorCompact o => .compact 0 .int o.d [(.int, o.s.toSrc)]
  | .shli o => .compact 0 .int o.d []
  | .shri o => .compact 0 .int o.d []
  | .faddCompact o => .compact 2 .f32 o.d [(.f32, o.s.toSrc)]
  | .fsubCompact o => .compact 2 .f32 o.d [(.f32, o.s.toSrc)]
  | .fmulCompact o => .compact 2 .f32 o.d [(.f32, o.s.toSrc)]
  | .fmaxCompact o => .compact 2 .f32 o.d [(.f32, o.s.toSrc)]
  | .daddCompact o => .compact 3 .f64 o.d [(.f64, o.s.toSrc)]
  | .dmulCompact o => .compact 3 .f64 o.d [(.f64, o.s.toSrc)]
  | .censusRound _ _ => { }
  | .gangSeat _ _ => { }
  | .gangUnseat _ _ _ => { }
  | .quantumDue _ _ _ => { }
  | .yieldHoldEnd _ => { }
  | .deprioritisationEnd _ => { }
  | .prefetchFill _ => { }
  | .parkConditionHolds _ => { }
  | .loadReply _ _ => { }
  | .storePerform _ _ => { }
  | .collectorSend _ _ => { }
  | .errorResponse _ _ => { }
  | .waitRecheck _ => { }
  | .streamPrefetch _ _ => { }
  | .streamOutDrain _ _ => { }
  | .engineQueueAccept _ _ => { }
  | .copyRowTransfer _ _ _ => { }
  | .gatherElement _ _ _ => { }
  | .probePass _ _ => { }
  | .engineOpEnd _ _ => { }
  | .watchdogTimeout _ _ => { }
  | .matrixQueueAccept _ => { }
  | .jobEnterContext _ => { }
  | .blockStep _ => { }
  | .jobEnd _ _ => { }
  | .handleReturn _ _ => { }
  | .allocationRelease _ => { }
  | .fqReplyResolve _ => { }
  | .fqReplyRefuse _ => { }
  | .fqLimitExpiry _ => { }
  | .fqTailWrite _ => { }
  | .fqBaseWrite _ => { }
  | .fqSizeWrite _ => { }
  | .xinvStart _ => { }
  | .xinvDone => { }
  | .sliceSizeChange _ _ => { }
  | .chTailWrite _ _ => { }
  | .chCtlRestart _ _ => { }
  | .jobEntry _ => { }
  | .graphEntry _ => { }
  | .launchEntry _ => { }
  | .phaseEntry _ => { }
  | .waitcEntry _ => { }
  | .endEntry _ => { }
  | .specEntryCommit _ => { }
  | .specEntryDiscard _ => { }
  | .chainEntryRetire _ => { }
  | .unitStart _ _ => { }
  | .levelComplete _ _ => { }
  | .preemption _ => { }
  | .resumption _ => { }
  | .hostApertureWrite _ _ => { }
  | .hostApertureRead _ _ => { }
  | .flitReceive _ _ => { }
  | .linkAckTimeout _ => { }
  | .linkTrainingDone _ _ _ => { }
  | .linkTakeDown _ => { }
  | .linkAllowTrain _ => { }
  | .routeWrite _ _ => { }
  | .epEventClear _ => { }
  | .islandReset _ => { }
  | .mgmtResetComputeDie _ => { }
  | .mgmtResetBaseDie _ => { }
  | .mgmtResetHub _ => { }
  | .resetSequenceComplete => { }
  | .dmapWrite _ => { }
  | .dieHeartbeatMiss _ => { }
  | .dieInternalError _ => { }
  | .spareSelfTestDone _ => { }
  | .lostUnitRerun _ => { }
  | .aperBaseWrite _ => { }
  | .pwrClWrite _ _ => { }
  | .ratioChangeComplete _ => { }
  | .powerLimitStep _ _ => { }
  | .droopDetect _ => { }
  | .droopRecover _ => { }
  | .holdStart _ => { }
  | .holdEnd _ => { }
  | .tmrAlign _ => { }
  | .powerOnReset => { }
  | .monitorSample _ _ => { }
  | .monitorClr _ => { }
  | .errorLogClear _ => { }
  | .managementLogClear => { }
  | .attest _ _ => { }
  | .loadImage _ _ => { }
  | .readMeas _ _ => { }
  | .mailboxCompletion => { }
  | .bar0BadAccess _ => { }
  | .registerWrite _ _ _ => { }
  | .cancellationTakesEffect _ => { }
  | .sequencerCounterReread _ => { }
  | .zeroLengthReadCompletion => { }
  | .bar2Resize _ => { }
  | .unknownCommandCode _ _ => { }

/-! ## Immediates (R34, R38) -/

/-- Four copies of a 16-bit value. -/
def replicate4 (h : Nat) : Nat := h + 2 ^ 16 * h + 2 ^ 32 * h + 2 ^ 48 * h

/-- The image of a small integer in a position (R34, R41). -/
def immWord (p : Pos) (k : Int) : Word :=
  match p with
  | .int => BitVec.ofInt 64 k
  | .off n => BitVec.ofInt 64 (k * n)
  | .f32 => Word.ofN (f32.rne (ofInt k))
  | .f64 => Word.ofN (f64.rne (ofInt k))
  | .h4 => Word.ofN (replicate4 (f16.rne (ofInt k)))
  | .b4 => Word.ofN (replicate4 (bf16.rne (ofInt k)))
  | .h1 => Word.ofN (f16.rne (ofInt k))
  | .b1 => Word.ofN (bf16.rne (ofInt k))

/-- The value of xi in a position from the payloads before the instruction; none where R38 or R39 raises OPERAND. -/
def xiWord (p : Pos) : List (BitVec 25) → Option Word
  | [a] =>
    let raw := a.toNat
    match p with
    | .int => some (sextN (Word.ofN raw) 25)
    | .off _ => some (sextN (Word.ofN raw) 25)
    | .f64 => some (Word.ofN (raw * 2 ^ 39))
    | .f32 => some (Word.ofN (raw * 2 ^ 7))
    | .h4 => if bits raw 8 0 = 0 then some (Word.ofN (replicate4 (bits raw 24 9))) else none
    | .b4 => if bits raw 8 0 = 0 then some (Word.ofN (replicate4 (bits raw 24 9))) else none
    | .h1 => if bits raw 8 0 = 0 then some (Word.ofN (bits raw 24 9)) else none
    | .b1 => if bits raw 8 0 = 0 then some (Word.ofN (bits raw 24 9)) else none
  | [a, b] =>
    let raw := a.toNat * 2 ^ 25 + b.toNat
    match p with
    | .int => some (sextN (Word.ofN raw) 50)
    | .off _ => some (sextN (Word.ofN raw) 50)
    | .f64 => some (Word.ofN (raw * 2 ^ 14))
    | .f32 => if bits raw 17 0 = 0 then some (Word.ofN (bits raw 49 18)) else none
    | _ => none
  | _ => none

/-! ## Decode checks that need the role and the prefixes (R35, R38, R39) -/

/-- Every lane register an instruction names, in a field or implicitly (R35). -/
def Info.named (i : Info) : List Nat :=
  i.srcs.flatMap (fun p => srcRegs p.2) ++ (match i.rd with | some (_, d) => dstRegs d | none => []) ++ i.more ++ i.wr

/-- Whether the xi of every source has a value (R38, R39). -/
def Info.xiOk (i : Info) (pre : List (BitVec 25)) : Bool :=
  i.srcs.all fun p => match p.2 with
    | .xi => (xiWord p.1 pre).isSome
    | _ => true

/-- The OPERAND checks of decode (R51): those of the word, those of the role's register count, those of xi. -/
def operandOk (i : Instr) (nregs : Nat) (pre : List (BitVec 25)) : Bool :=
  let f := instrInfo i
  WellFormed i && f.named.all (· < nregs) && f.xiOk pre

/-! ## Guards and readiness -/

/-- A predicate's value; p7 reads true (R29). -/
def Thread.pred (t : Thread) (p : Nat) : Bool := if p = 7 then true else t.p.getD p false
/-- A guard's value (R29). -/
def Thread.guard (t : Thread) (g : Option Guard) : Bool :=
  match g with
  | none => true
  | some g => t.pred g.p.1 != g.neg

/-- Whether a lane register waits for a load (R119). -/
def Thread.loadPending (t : Thread) (r : Nat) : Bool := t.loads.any fun x => x.d == r || (x.pair && x.d + 1 == r)

/-- Whether the registers, ports and counts of an instruction with a true guard let it issue, as far as results of
loads go (R119, R127, R241, R244, R297). -/
def Info.loadsReady (i : Info) (t : Thread) : Bool :=
  i.named.all (fun r => !t.loadPending r) && (!i.load || t.loads.length < 16) &&
  (match i.dst with
    | some (.m k) => ((t.ports.getD k.1 {}).fout.length < 8 : Bool)
    | _ => true)

/-- Whether an instruction's out-port has to wait for a UWR of the thread (R109, R141). -/
def State.dstHeld (s : State) (tk : Nat) (t : Thread) (i : Info) : Bool :=
  match i.dst with
  | some (.m k) => s.outHeld tk t k.1
  | _ => false

/-- Whether a UWR of the thread to a uniform is still in flight (R141). -/
def TUnit.uwrFlight (u : TUnit) (tk n : Nat) : Bool := u.uwr.any fun x => x.tk == tk && x.n == n

/-- The pending error that an instruction delivers, by its kind and fields alone (R78). -/
def Info.dueError (i : Info) (t : Thread) : Option PendErr :=
  let reads := i.srcs.flatMap (fun p => srcRegs p.2) ++ (match i.rd with | some (_, d) => dstRegs d | none => []) ++ i.more
  t.errs.find? fun e =>
    if e.regs.isEmpty then i.point == .all
    else i.point != .none || e.regs.any fun r => reads.contains r

/-! ## Reading the sources -/

/-- What reading the sources gives: their values and the state with stream elements consumed, a trap, or a wait. -/
inductive Reads where
  | ok (vals : List Word) (s : State)
  | trap (cause code : Nat)
  | wait (s : State)

/-- Whether a source is a stream port (R33). -/
def isPort (k : Fin 4) (x : Pos × Src) : Bool := match x.2 with | .m j => j == k | _ => false
/-- How often the sources read the port of a source. -/
def portReads (x : Src) (rest : List (Pos × Src)) : Nat :=
  match x with
  | .m k => rest.countP (isPort k)
  | _ => 0

/-- Reads one source (R33, R34, R126, R133), whose port the sources after it read again so often. -/
def State.readSrc (s : State) (tk : Nat) (t : Thread) (p : Pos) (again : Nat) : Src → Reads
  | .v n => .ok [t.v.getD n.1 0] s
  | .m k => match s.portRead tk k.1 (again + 1) with
    | .ok v s => .ok [v] s
    | .trap c d => .trap c d
    | .wait s => .wait s
  | .b k => let l := t.b.getD k.1 {}
    if l.valid then .ok [l.val] s else .trap cLATCH 0
  | .z => .ok [0] s
  | .ln => .ok [Word.ofN t.ln] s
  | .tg => .ok [Word.ofN t.tg] s
  | .gg => .ok [Word.ofN t.gg] s
  | .xi => .ok [(xiWord p t.pre).getD 0] s
  | .imm k => .ok [immWord p (k.1 - 11 : Int)] s
  | .s n =>
    match s.unit? t.uid with
    | none => .ok [0] s
    | some u => if u.uwrFlight tk n.1 then .wait s else .ok [u.uni.getD n.1 0] s

/-- Reads sources in order, A before B (R8, R33). -/
def State.readSrcs (s : State) (tk : Nat) (t : Thread) : List (Pos × Src) → Reads
  | [] => .ok [] s
  | (p, x) :: rest =>
    match s.readSrc tk t p (portReads x rest) x with
    | .ok v s => match s.readSrcs tk t rest with
      | .ok vs s => .ok (v ++ vs) s
      | r => r
    | r => r

/-- The sources of an instruction with D last where it is read (R136). -/
def Info.allSrcs (i : Info) : List (Pos × Src) :=
  i.srcs ++ (match i.rd with | some (p, d) => [(p, d.toSrc)] | none => [])

end Sys2Proof.Machine
end

