-- ==== Sys2Proof/Machine/Ops.lean ====
section
/-! DEFINITION. The shared operations of instructions: regions, sequential continuation, results and latches, collectives and
barrier rounds, the end of a thread and of a unit, taking a trap and returning from its handler, and the run of one
instruction. -/

namespace Sys2Proof.Machine

/-! ## Regions and continuation -/

/-- A region start: rpc and the region shadow (R285). -/
def Thread.startRegion (t : Thread) (at_ : Word) : Thread :=
  { t with rpc := at_,
           shadow := { ports := t.ports.map (·.bind), loops := t.loops, cd := t.cd, uord := t.uord, arrDone := t.arrDone,
                       ih := t.ih, hv := t.hv, hd := t.hd } }

/-- The end check (R282); levels are held innermost first. -/
def endCheck (cd : Nat) (next : Word) : List LoopLevel → List LoopLevel × Word
  | [] => ([], next)
  | l :: ls =>
    if l.depth = cd ∧ next = l.e then
      if l.lc - 1 ≠ 0 then ({ l with lc := l.lc - 1 } :: ls, l.s) else endCheck cd next ls
    else (l :: ls, next)

/-- loop_exit_check (R283). -/
def exitCheck (cd : Nat) (target : Word) : List LoopLevel → List LoopLevel
  | [] => []
  | l :: ls =>
    if l.depth = cd ∧ ¬(l.s.toNat ≤ target.toNat ∧ target.toNat < l.e.toNat) then exitCheck cd target ls else l :: ls

/-- The levels recorded deeper than a depth end (R273). -/
def dropDeep (cd : Nat) : List LoopLevel → List LoopLevel
  | [] => []
  | l :: ls => if l.depth > cd then dropDeep cd ls else l :: ls

/-- The address of the instruction word itself, past its prefixes (R24, R44). -/
def Thread.pw (t : Thread) : Word := t.pc + Word.ofN (4 * t.pre.length)

/-- Whether the instruction that a thread is at has issued and parked before. -/
def Thread.hasIssued (t : Thread) : Bool := t.held.isSome || t.park == some .instance_
/-- An instruction of a thread issues, if it has not issued before: a stepped thread halts again (R350). -/
def Thread.stepped (t : Thread) : Thread :=
  { t with halted := t.halted || (t.stepping && !t.hasIssued), stepping := t.stepping && t.hasIssued }

/-- What every completed instruction leaves: no IMX before it, no park, and nothing of it in the prefetch buffer (R308). -/
def Thread.retire (t : Thread) (seat : Bool) : Thread :=
  { t.stepped with pre := [], park := none, resume_ := false, mark := none, ftok := none, skip := [], seatPt := seat, places := [], offer := none,
                   held := none, pbuf := [] }

/-- Sequential continuation at an address, through the end check (R282). -/
def Thread.continueAt (t : Thread) (next : Word) (seat : Bool) : Thread :=
  let r := endCheck t.cd next t.loops
  { (t.retire seat) with loops := r.1, pc := r.2 }

/-- A thread whose instruction has taken its effect and still waits: its next region starts after the instruction (R286). -/
def Thread.startAfter (t : Thread) (next : Word) : Thread :=
  let n := t.continueAt next false
  let n := n.startRegion n.pc
  { t with rpc := n.rpc, shadow := n.shadow }

/-- A taken transfer to an address (R270). -/
def Thread.jumpTo (t : Thread) (target : Word) : Thread := { (t.retire true) with pc := target }

/-! ## Results -/

/-- Shifts the bypass latches with a result (R132). -/
def Thread.shift (t : Thread) (r : Word) (done : Nat) : Thread :=
  { t with b := { val := r, valid := true, done := done } :: t.b.take 3 }

/-- Writes a lane register. -/
def Thread.setReg (t : Thread) (n : Nat) (r : Word) : Thread := { t with v := setAt t.v n r }
/-- A lane register's value. -/
def Thread.reg (t : Thread) (n : Nat) : Word := t.v.getD n 0

/-- Marks registers (0 to 59) and predicates (64 to 70) busy up to a cycle (R297). -/
def Thread.mark_ (t : Thread) (keys : List Nat) (now done : Nat) : Thread :=
  { t with busy := t.busy.filter (fun x => now < x.2 && !keys.contains x.1) ++ keys.map fun k => (k, done) }

/-- The latency of a class whose results have a fixed latency (R298). -/
def latency : Nat → Nat
  | 0 => 2 | 1 => 4 | 2 => 4 | 3 => 6 | 4 => 4 | 5 => 12 | _ => 0

/-- Writes a result to a destination: a lane register, or the next element of an out-port (R32, R127). -/
def State.putDst (s : State) (tk : Nat) (d : Dst) (r : Word) : State :=
  match d with
  | .v n => s.modThread tk fun t => t.setReg n.1 r
  | .m k => s.outWrite tk k.1 r ((s.thread? tk).map (·.pc) |>.getD 0)

/-- A predicate write; p7 is not written (R40). -/
def Thread.setPred (t : Thread) (p : Nat) (x : Bool) : Thread := { t with p := setAt t.p p x }

/-! ## Seats, throttles, barrier rounds, rendezvous tables -/

/-- Frees the seat of a gang (R295). -/
def State.freeSeat (s : State) (uid gg : Nat) : State :=
  match s.unit? uid with
  | none => s
  | some u =>
    let s := s.modCore u.ck fun c =>
      { c with arrays := c.arrays.map fun a => { a with seats := a.seats.map fun x => match x with
          | some y => if y.uid = uid ∧ y.gg = gg then none else some y
          | none => none } }
    s.modUnit uid fun u => u.modGang gg fun g => { g with seat := none }

/-- The priority of a unit's launch (R328). -/
def State.prioOf (s : State) (uid : Nat) : Nat := ((s.launchOf uid).map (·.desc.prio)).getD 0
/-- The resident units of a core. -/
def State.residents (s : State) (ck : Nat) : List Nat :=
  (s.units.filter fun p => p.2.stat == .resident && p.2.ck == ck).map (·.1)

/-- Recomputes the throttle factors of a core's groups (R328). -/
def State.throttle (s : State) (ck : Nat) : State :=
  let us := s.residents ck
  let pmax := us.foldl (fun m u => Nat.max m (s.prioOf u)) 0
  us.foldl (fun s u => s.modUnit u fun x => { x with f := 2 ^ (pmax - s.prioOf u) }) s

/-- check_round of a barrier slot (R192). -/
def State.checkRound (s : State) (uid slot : Nat) : State :=
  match s.unit? uid with
  | none => s
  | some u =>
    match u.bars[slot]? with
    | none => s
    | some b =>
      let e := ((s.threadsOf uid).filter fun p => !p.2.live && p.2.arr.getD slot (-1) != (b.r : Int)).length
      if b.n + e ≥ b.c then s.setUnit uid { u with bars := setAt u.bars slot { b with r := b.r + 1, n := 0 } } else s

/-- The live lanes of a tile (R183). -/
def State.liveTile (s : State) (uid gg tile : Nat) : List Nat :=
  match s.unit? uid with
  | none => []
  | some u => (s.liveLanes uid gg).filter fun ln => (u.gang gg).tile ln == tile

/-- Frees, from the lowest ordinal upward, the records of a tile that every live thread has checked (R275). -/
def freeRecs (live : List Nat) : Nat → Nat → List URec → Nat × List URec
  | 0, base, rs => (base, rs)
  | n + 1, base, rs =>
    match rs.find? (·.ord == base) with
    | none => (base, rs)
    | some r => if live.all (r.set.contains ·) then freeRecs live n (base + 1) (rs.filter fun x => x.ord != base) else (base, rs)
/-- The records of a tile after a check or an exit (R275). -/
def State.freeURecs (s : State) (uid gg tile : Nat) : State :=
  let live := s.liveTile uid gg tile
  s.modUnit uid fun u => u.modGang gg fun g =>
    let (b, rs) := freeRecs live 9 (AMap.get g.ubase tile 0) (AMap.get g.utab tile [])
    { g with ubase := AMap.set g.ubase tile b, utab := AMap.set g.utab tile rs }

/-! ## Collectives (R185 to R190) -/

/-- The value a participant receives (R188); ps are the participants of the tile in increasing lane, t the tile size. -/
def collResult (fn : CollFn) (ps : List Arrival) (t : Nat) (u : Arrival) : Word :=
  let tl (x : Arrival) := x.ln % t
  let from_ (k : Nat) := ((ps.find? fun w => tl w == k).map (·.a)).getD u.a
  let mask (f : Arrival → Bool) := Word.ofN ((ps.filter f).foldl (fun m w => m + 2 ^ tl w) 0)
  let leaves (f : Fmt) := (upFrom 0 t).map fun k => (ps.find? fun w => tl w == k).map fun w => f.val (w.a.toNat % 2 ^ f.width)
  let sum (f : Fmt) := Word.ofN (match sum162 f false (leaves f) none with | some r => f.enc r | none => 0)
  match fn with
  | .elect => if ps.all (fun w => u.ln ≤ w.ln) then 1 else 0
  | .vany => if ps.any (fun w => w.a != 0) then 1 else 0
  | .vall => if ps.all (fun w => w.a != 0) then 1 else 0
  | .vbal => mask fun w => w.a != 0
  | .shfi => from_ (u.d.toNat % t)
  | .shfa => from_ ((tl u + u.d.toNat) % t)
  | .shfb => from_ ((tl u + t - u.d.toNat % t) % t)
  | .shfx => from_ (tl u ^^^ (u.d.toNat % t))
  | .radd => ps.foldl (fun m w => m + w.a) 0
  | .rmin => ps.foldl (fun m w => if w.a.toInt < m.toInt then w.a else m) u.a
  | .rmax => ps.foldl (fun m w => if w.a.toInt > m.toInt then w.a else m) u.a
  | .rfadd => sum f32
  | .rdadd => sum f64
  | .scan => (ps.filter fun w => tl w < tl u).foldl (fun m w => m + w.a) 0
  | .cmatch => mask fun w => w.a == u.a
  | .gpart => 0

/-- A thread leaves a completed collective: its result is written, its ordinal advances and a region starts (R186, R187). -/
def State.leaveInstance (s : State) (tk : Nat) (a : Arrival) (r : Word) (ord : Nat → Nat) : State :=
  let s := match a.dst with
    | some d => s.putDst tk d r
    | none => s
  s.modThread tk fun t =>
    let t := { (t.continueAt (t.pw + 4) true) with cord := ord t.cord, freeAt := s.cycOf t }
    t.startRegion t.pc

/-- Completes the record of a tile, where every live thread of the tile is in it (R186). -/
def State.tryInstance (s : State) (uid gg tile : Nat) : State :=
  match s.unit? uid with
  | none => s
  | some u =>
    let g := u.gang gg
    match AMap.get? g.insts tile with
    | none => s
    | some r =>
      let live := s.liveTile uid gg tile
      if r.failed then
        if live.all (r.trapped.contains ·) && !(r.fn == .gpart && g.gfail.isSome) then
          s.setUnit uid (u.modGang gg fun g => { g with insts := AMap.del g.insts tile })
        else s
      else if r.fn = .gpart then s
      else if r.arrived.isEmpty || !live.all (fun ln => r.arrived.any fun a => a.ln == ln) then s
      else
        let s := s.setUnit uid (u.modGang gg fun g => { g with insts := AMap.del g.insts tile })
        r.arrived.foldl (fun s a =>
          s.leaveInstance (threadKey uid (32 * gg + a.ln)) a (collResult r.fn r.arrived g.gpart a) (· + 1)) s

/-- Completes a GPART whose records hold every live thread of the gang (R190); a gang-wide failure ends when every live
thread has trapped. -/
def State.tryGpart (s : State) (uid gg : Nat) : State :=
  match s.unit? uid with
  | none => s
  | some u =>
    let g := u.gang gg
    let live := s.liveLanes uid gg
    match g.gfail with
    | some trapped =>
      if live.all (trapped.contains ·) then
        s.setUnit uid (u.modGang gg fun g => { g with gfail := none, insts := g.insts.filter fun p => !(p.2.fn == .gpart && p.2.failed) })
      else s
    | none =>
      let recs := g.insts.filter fun p => p.2.fn == .gpart && !p.2.failed
      let arrived := recs.flatMap fun p => p.2.arrived
      if arrived.isEmpty || !live.all (fun ln => arrived.any fun a => a.ln == ln) then s
      else
        let size := ((recs.map (·.2.size)).head?).getD 32
        let s := s.setUnit uid (u.modGang gg fun g => { g with gpart := size, insts := [], utab := [], ubase := [] })
        arrived.foldl (fun s a =>
          let tk := threadKey uid (32 * gg + a.ln)
          s.leaveInstance tk { a with dst := none } 0 (fun _ => 0) |>.modThread tk fun t =>
            let t := { t with uord := 0 }
            t.startRegion t.pc) s

/-! ## The end of a unit and of a thread -/

/-- The unit is counted complete by the sequencer (R313). -/
def State.countUnit (s : State) (uid : Nat) : State :=
  match s.unit? uid with
  | none => s
  | some u =>
    (s.setUnit uid { u with counted := true }).modLaunch u.lid fun l =>
      if l.done.contains u.idx then l else { l with done := l.done ++ [u.idx] }

/-- The unit completion record (R289). -/
def TUnit.record (u : TUnit) (threads : Nat) : List Byte :=
  leBytes 1 u.smax ++ leBytes 1 u.sor ++ leBytes 2 0 ++ leBytes 4 threads ++ leBytes 8 u.cycles

/-- Writes a unit's completion record at its home, or waits for its translation with the last thread (R289). -/
def State.writeRecord (s : State) (uid tk threads : Nat) : State :=
  match s.unit? uid, s.launchOf uid, s.thread? tk with
  | some u, some l, some t =>
    if l.desc.urec = 0 then s.countUnit uid
    else
      let va := l.desc.urec + Word.ofN (16 * u.idx)
      match s.threadXlate t t.ftok va 1 with
      | (.ok (.home d), s) =>
        let s := match s.targetErr d 16 false with
          | some c => s.logThread t va c 0
          | none =>
            let (q, s) := s.takeSeq
            ((s.writeAt 0 (.home d) (u.record threads)).noteWrite .agent q (.home d) 16).offWrite q tk t.pc d (u.record threads)
        (s.modThread tk fun t => { t with park := none, ftok := none }).countUnit uid
      | (.fault k, s) => s.modThread tk fun t => { t with park := some (match k with | some k => .fault k | none => .faultFull), ftok := k }
      | (_, s) => (s.modThread tk fun t => { t with park := none, ftok := none }).countUnit uid
  | _, _, _ => s.countUnit uid

/-- clk cycles of a unit's residency up to now (R289). -/
def State.unitCycles (s : State) (u : TUnit) : Nat := u.cycles + ((s.cluster (u.ck / 8)).clk - u.startClk)

/-- Unit end (R289): a publication point, which the last thread waits for (R255); every handle becomes releasing; then the completion
record. -/
def State.unitEnd (s : State) (uid tk : Nat) : State :=
  match s.unit? uid with
  | none => s
  | some u =>
    let s := s.publish u.ck
    let mark := ((s.thread? tk).bind (·.mark)).getD s.seq
    if !s.corePerformed u.ck mark then
      s.modThread tk fun t => { t with park := some (.performed false true false), mark := some mark }
    else
      let s := s.modUnit uid fun x =>
        { x with stat := .ended, cycles := s.unitCycles u, dbg := {}, resv := x.resv.map fun p => (p.1, { p.2 with releasing := true }) }
      (s.writeRecord uid tk u.g).throttle u.ck

/-- The end of a thread with a status (R288). -/
def State.endThread (s : State) (tk status : Nat) : State :=
  match s.thread? tk with
  | none => s
  | some t =>
    let s := s.setThread tk
      { (t.retire true) with live := false, ending := false, status := status, ports := [{}, {}, {}, {}], loops := [], errs := [] }
    match s.unit? t.uid with
    | none => s
    | some u =>
      let s := s.setUnit t.uid { u with exited := u.exited + 1, smax := Nat.max u.smax status, sor := u.sor ||| status }
      let tile := (u.gang t.gg).tile t.ln
      let s := (s.tryInstance t.uid t.gg tile).tryGpart t.uid t.gg
      let s := s.freeURecs t.uid t.gg tile
      let s := (upFrom 0 16).foldl (fun s k => s.checkRound t.uid k) s
      let s := if (s.liveLanes t.uid t.gg).isEmpty then s.freeSeat t.uid t.gg else s
      if (s.liveOf t.uid).isEmpty then s.unitEnd t.uid tk else s

/-- Whether the accesses that an EXIT waits for are done: every load completed, every write performed (R288). -/
def State.exitReady (s : State) (tk : Nat) : Bool :=
  match s.thread? tk with
  | none => true
  | some t => t.loads.isEmpty && s.ownPerformed (s.ckOf t.uid) tk

/-- A thread that ends as EXIT ends once its accesses are done (R342, R288). -/
def State.tryEnding (s : State) (tk : Nat) : State :=
  match s.thread? tk with
  | none => s
  | some t => if t.ending && s.exitReady tk then s.endThread tk t.status else s

/-! ## Traps -/

/-- The handler address of a unit's launch, 0 for none (R322). -/
def State.traph (s : State) (uid : Nat) : Word := ((s.launchOf uid).map (·.desc.traph)).getD 0

/-- Halts every live thread of a unit (R350). -/
def State.haltUnit (s : State) (uid : Nat) : State :=
  (s.modThreadsOf uid fun t => if t.live then { t with halted := true, stepping := false } else t).modUnit uid fun u =>
    { u with dbg := { u.dbg with halt := true, under := true } }

/-- A trap is delivered to a thread (R342, R350): tcause and tloc are set; under debug a BRK or WATCH stops the thread and
halts its unit; without a handler, in a handler, or at a full call depth within a loop the thread ends as EXIT; else the
handler takes over, with the link and the depth saved and a region started at its entry. cmp is the PC comparator that
raised BRK. -/
def State.deliver (s : State) (tk cause code : Nat) (tloc : Word) (cmp : Option Nat := none) : State :=
  match s.thread? tk with
  | none => s
  | some t =>
    let skip := t.skip ++ if cause = cWATCH then [8 + code] else cmp.toList
    let t := { (t.retire true).dropPrefetched with tcause := Word.ofN (cause + 256 * code), tloc := tloc }
    let debug := match s.unit? t.uid with | some u => u.dbg.under | none => false
    if debug && (cause == cBRK || cause == cWATCH) then
      (s.setThread tk { t with atBreak := true, skip := skip }).haltUnit t.uid
    else if s.traph t.uid = 0 || t.ih || (t.cd == 65535 && !t.loops.isEmpty) then
      (s.setThread tk { t with ending := true, status := 0xE0 ||| (cause &&& 0x1F), park := some .completed, errs := [] }).tryEnding tk
    else
      let t := { t with hv := if t.nregs = 60 then t.reg 59 else 0, hd := t.cd, ih := true,
                        cd := min 65535 (t.cd + 1), pc := s.traph t.uid }
      s.setThread tk (t.startRegion t.pc)

/-- RET, and the handler return where it is one (R273, R343): the new thread with pc at the target. -/
def Thread.return_ (t : Thread) : Thread :=
  let target := t.reg 59
  let cd := t.cd - 1
  let handler := t.ih && cd == t.hd
  let t := if handler then { t.setReg 59 t.hv with ih := false } else t
  let t := { t with cd := cd, loops := exitCheck cd target (dropDeep cd t.loops) }
  let t := t.jumpTo target
  if handler then t.startRegion target else t

/-- A thread whose in-port gives back the element that its collective read (R129, R185). -/
def Thread.giveBack (t : Thread) (port : Option Nat) : Thread :=
  match port with
  | none => t
  | some k =>
    let p := t.ports.getD k {}
    { t with ports := setAt t.ports k { p with bind := p.bind.map fun b => { b with pos := b.pos - 1 }, fin := [] } }

/-- COLL traps in a thread that was at a collective of a failed record, with its ordinal advanced; a region starts after the collective
(R185, R286). -/
def State.collTrap (s : State) (uid gg : Nat) (a : Arrival) : State :=
  let tk := threadKey uid (32 * gg + a.ln)
  match s.thread? tk with
  | none => s
  | some t =>
    let t' := { t.giveBack a.port with cord := t.cord + 1 }
    (s.setThread tk (t'.startRegion (t.pw + 4))).deliver tk cCOLL 0 t.pc

/-- Fails the record of a tile for the threads in it and for the one that arrives (R185). -/
def State.failInstance (s : State) (uid gg tile : Nat) (a : Arrival) : State :=
  match s.unit? uid with
  | none => s
  | some u =>
    match AMap.get? (u.gang gg).insts tile with
    | none => s
    | some r =>
      let out := r.arrived ++ [a]
      let s := s.setUnit uid (u.modGang gg fun g =>
        { g with insts := AMap.set g.insts tile { r with failed := true, arrived := [], trapped := r.trapped ++ out.map (·.ln) },
                 gfail := if r.fn = .gpart then g.gfail.map fun l => l ++ out.map (·.ln) else g.gfail })
      let s := out.foldl (fun s x => s.collTrap uid gg x) s
      (s.tryInstance uid gg tile).tryGpart uid gg

/-- Fails a GPART for every thread in a GPART record of the gang (R190). -/
def State.failGpart (s : State) (uid gg : Nat) : State :=
  match s.unit? uid with
  | none => s
  | some u =>
    let g := u.gang gg
    let recs := g.insts.filter fun p => p.2.fn == .gpart
    let out := recs.flatMap fun p => p.2.arrived
    let s := s.setUnit uid (u.modGang gg fun g =>
      { g with insts := g.insts.map (fun p =>
                 if p.2.fn = .gpart then (p.1, { p.2 with failed := true, arrived := [], trapped := p.2.trapped ++ p.2.arrived.map (·.ln) })
                 else p),
               gfail := some (g.gfail.getD [] ++ (recs.flatMap fun p => p.2.trapped) ++ out.map (·.ln)) })
    (out.foldl (fun s x => s.collTrap uid gg x) s).tryGpart uid gg

/-! ## The run of one instruction -/

/-- How the effect of an instruction ends. -/
inductive Res where
  /-- control continues in sequence -/
  | seq (s : State)
  /-- control continues in sequence and a region starts there (R286) -/
  | seqR (s : State)
  /-- control passes to a target -/
  | jump (s : State) (target : Word)
  /-- the instruction traps, with the effects its entry states for the trapping case -/
  | trap (s : State) (cause code : Nat)
  /-- the thread parks at the instruction (R9) -/
  | park (s : State) (p : Park)
  /-- the state says all: a wait for a stream element, an arrival, the end of the thread -/
  | hold (s : State)

/-- A thread whose stream positions are those before the instruction (R9, R129); a port that moved fetches its elements
again. -/
def State.restorePorts (s : State) (tk : Nat) (old : List Port) : State :=
  s.modThread tk fun t => { t with ports := (upFrom 0 4).map fun k =>
    let p := t.ports.getD k {}
    if p.bind = (old.getD k {}).bind then p else { p with bind := (old.getD k {}).bind, fin := [] } }

/-- The ports of a thread as they were before its instruction read them (R129). -/
def Thread.before (t : Thread) : List Port := (t.held.map (·.ports)).getD t.ports

/-- The end of an instruction, which read what h says (R270, R282, R286). One that parks keeps that: when it goes on it reads nothing
again (R307). -/
def finish (tk : Nat) (i : Info) (h : Held) : Res → State
  | .seq s => s.modThread tk fun t => t.continueAt (t.pw + Word.ofN i.len) (i.cls ≥ 6)
  | .seqR s => s.modThread tk fun t =>
      let t := t.continueAt (t.pw + Word.ofN i.len) (i.cls ≥ 6)
      t.startRegion t.pc
  | .jump s target => s.modThread tk fun t => t.jumpTo target
  | .trap s c k => (s.restorePorts tk h.ports).deliver tk c k ((s.thread? tk).map (·.pc) |>.getD 0)
  | .park s p => s.modThread tk fun t =>
      { t.stepped with park := some p, resume_ := false, seatPt := true, mark := t.mark.or (some s.seq), held := some h }
  | .hold s => s

/-- The effect of an instruction under a true guard: its thread, the thread before its sources are read, and the values of
its sources. -/
abbrev Body := Nat → Thread → List Word → State → Res

/-- What an instruction or a step of the device gives. -/
abbrev Out := Host.Outcome State Fault Refusal

/-- Runs an instruction of the current thread: the OPERAND checks of decode (R51), the delivery of a pending error (R78),
readiness (R297), the guard (R29 to R31), the sources, then its effect. One that has parked goes on with what it read. onFalse is what a
false guard does. For an instruction that fails an OPERAND check at the delivery point of a pending error, the manual gives no order
of the two traps: OPERAND is taken, and the error stays pending (DESIGN CHOICE; log 81). -/
def run (i : Instr) (s : State) (body : Body) (onFalse : Nat → Thread → State → Res := fun _ _ s => .seq s) : Out :=
  match s.cur with
  | none => .fault .noThread
  | some tk =>
    match s.thread? tk with
    | none => .fault .noThread
    | some t =>
      let f := instrInfo i
      if !operandOk i t.nregs t.pre then .next (s.deliver tk cOPERAND 0 t.pc)
      else
        match f.dueError t with
        | some e => .next (((s.setThread tk { t with errs := t.errs.erase e }).restorePorts tk t.before).deliver tk e.cause 0 e.tloc)
        | none =>
          if t.loads.any (·.block) then .next s
          else if !t.guard f.guard && f.mode != .sel then .next (finish tk f ⟨[], t.ports⟩ (onFalse tk t s))
          else
            match t.held with
            | some h => .next (finish tk f h (body tk t h.vals s))
            | none =>
              if !f.loadsReady t || s.dstHeld tk t f then .next s
              else
                match s.readSrcs tk t f.allSrcs with
                | .trap c k => .next (finish tk f ⟨[], t.ports⟩ (.trap s c k))
                | .wait s' => .next (s'.restorePorts tk t.ports)
                | .ok vals s' => .next (finish tk f ⟨vals, t.ports⟩ (body tk t vals s'))

/-- The effect of a result-producing instruction with one result (R132, R136): the destination unless W = 1, and the
latches. -/
def resultBody (i : Info) (f : List Word → Word) : Body := fun tk t vals s =>
  let r := f vals
  let now := s.cycOf t
  let done := now + latency i.cls
  match i.dst with
  | none => .seq (s.modThread tk fun t => t.shift r done)
  | some (.v n) => .seq (s.modThread tk fun t => ((t.setReg n.1 r).shift r done).mark_ [n.1] now done)
  | some (.m k) =>
    match s.thread? tk with
    | none => .seq s
    | some t' =>
      match s.outCheck tk t' k.1 with
      | some (c, code) => .trap s c code
      | none => .seq ((s.outWrite tk k.1 r t.pc).modThread tk fun t => t.shift r done)

/-- A result-producing instruction with one result. -/
def runResult (i : Instr) (s : State) (f : List Word → Word) : Out :=
  run i s (resultBody (instrInfo i) f)

/-- An instruction of two sources. -/
def run2 (i : Instr) (s : State) (f : Word → Word → Word) : Out :=
  runResult i s fun v => f (v.getD 0 0) (v.getD 1 0)
/-- An instruction of one source. -/
def run1 (i : Instr) (s : State) (f : Word → Word) : Out :=
  runResult i s fun v => f (v.getD 0 0)
/-- An instruction of two sources and an accumulator, read last. -/
def run3 (i : Instr) (s : State) (f : Word → Word → Word → Word) : Out :=
  runResult i s fun v => f (v.getD 0 0) (v.getD 1 0) (v.getD 2 0)

/-- Writes pP and p(P xor 1) (R40); p7 is not written. -/
def Thread.setPreds (t : Thread) (p : Nat) (x y : Bool) : Thread := (t.setPred p x).setPred (p ^^^ 1) y

/-- A compare's predicates, complete after the latency of its class (R40, R297, R298). -/
def predBody (p lat : Nat) (x : Bool) (tk : Nat) (s : State) : State :=
  s.modThread tk fun t =>
    let now := s.cycOf t
    (t.setPreds p x (!x)).mark_ ([64 + p, 64 + (p ^^^ 1)].filter (· < 71)) now (now + lat)

/-- A compare: the condition and its negation under a true guard, false twice under a false one (R31, R40). -/
def runCompare (i : Instr) (p : Fin 8) (s : State) (c : Word → Word → Bool) : Out :=
  run i s (fun tk _ vals s => .seq (predBody p.1 (latency (instrInfo i).cls) (c (vals.getD 0 0) (vals.getD 1 0)) tk s))
    (fun tk _ s => .seq (s.modThread tk fun t => t.setPreds p.1 false false))

/-- An unparked thread runs its instruction again in the next step. -/
def State.reissue (s : State) (tk : Nat) : State :=
  { s.modThread tk fun t => { t with park := none, resume_ := true, freeAt := s.cycOf t } with issueQ := tk :: s.issueQ }

end Sys2Proof.Machine
end

