-- ==== Sys2Proof/Machine/Fetch.lean ====
section
/-! DEFINITION. Instruction fetch: the prefetch buffer of a thread, the instruction cache of its core, the failures of R25, and
what a thread that is issued runs. -/

namespace Sys2Proof.Machine

/-- Whether a first parcel begins an IMX (R38). -/
def isImx (p : Parcel) : Bool := p.toNat % 2 == 1 && bits p.toNat 11 6 == 0x3F

/-- The parcel that a prefetch buffer holds for an address. -/
def pbufGet (buf : List (Word × Parcel)) (va : Word) : Option Parcel := (buf.find? fun e => e.1 == va).map (·.2)

/-- The address after the instruction at an address, where a prefetch buffer holds all of it with its IMX prefixes (R24,
R308); n further prefixes may stand before it. -/
def spanOf (buf : List (Word × Parcel)) : Nat → Word → Option Word
  | n, va =>
    match pbufGet buf va with
    | none => none
    | some p =>
      if p.toNat % 2 = 0 then some (va + 2)
      else if (pbufGet buf (va + 2)).isNone then none
      else match n with
        | 0 => some (va + 4)
        | n + 1 => if isImx p then spanOf buf n (va + 4) else some (va + 4)

/-- Whether a thread's next instruction, with its prefixes, is in its prefetch buffer (R308). -/
def Thread.fetched (t : Thread) : Bool := (spanOf t.pbuf (2 - t.pre.length) t.pw).isSome

/-- What the fetch of one parcel gives. -/
inductive Fetch where
  | ok (p : Parcel) (s : State)
  | trap (cause : Nat) (s : State)
  | fault (token : Option Nat) (s : State)

/-- The tag of a fetch: the address space, and the speculative launch whose buffered bytes it reads (R292, R331). -/
def State.fetchTag (s : State) (t : Thread) : Nat := (s.spaceOf t.uid).1 + 65536 * s.specOf t.uid

/-- Fetches one parcel through the instruction cache (R22, R25, R308). -/
def State.fetchCode (s : State) (t : Thread) (va : Word) : Fetch :=
  let ck := s.ckOf t.uid
  let tag := s.fetchTag t
  let parcel (bs : List Byte) : Parcel := BitVec.ofNat 16 (field bs (va.toNat % 128) 2)
  if !tagGlobal va then .trap cADDR s
  else
    match (s.core ck).ic.find? (fun l => l.asn == tag && l.line == va.toNat / 128) with
    | some l => .ok (parcel l.bytes) s
    | none =>
      match s.threadXlate t t.ftok va 3 with
      | (.ok (.home d), s) =>
        match s.targetErr d 2 true with
        | some c => .trap c (s.logThread t va c 4)
        | none =>
          let base := d / 128 * 128
          let bs := s.bytesAt (s.specOf t.uid) (.home base) 128
          if (s.targetErr base 128 true).isSome then .ok (parcel bs) s
          else
            let l : ICLine := { asn := tag, line := va.toNat / 128, bytes := bs }
            .ok (parcel bs) (s.modCore ck fun c => { c with ic := c.ic.drop (c.ic.length + 1 - Config.icLines) ++ [l] })
      | (.trap c, s) => .trap c s
      | (.fault k, s) => .fault k s
      | (_, s) => .trap cADDR s

/-- The parcel that a loop buffer holds for an address under a tag (R308). -/
def loopGet (buf : List LoopEnt) (tag : Nat) (va : Word) : Option Parcel :=
  buf.findSome? fun e => if e.tag = tag then pbufGet e.ps va else none
/-- The lane array of a thread's gang. -/
def State.arrayAt (s : State) (t : Thread) : LaneArray := (s.core (s.ckOf t.uid)).arrays.getD (s.arrayOf t) {}

/-- Fetches one parcel: from the prefetch buffer, from the loop buffer of the array, else through the instruction cache (R308). -/
def State.fetchParcel (s : State) (t : Thread) (va : Word) : Fetch :=
  match pbufGet t.pbuf va with
  | some p => .ok p s
  | none =>
    match loopGet (s.arrayAt t).loopBuf (s.fetchTag t) va with
    | some p => .ok p s
    | none => s.fetchCode t va

/-- What the fetch of an instruction word gives: its parcels. -/
inductive FetchWord where
  | ok (ps : List Parcel) (s : State)
  | trap (cause : Nat) (s : State)
  | fault (token : Option Nat) (s : State)

/-- Fetches the instruction word at an address (R23). -/
def State.fetchWord (s : State) (t : Thread) (va : Word) : FetchWord :=
  match s.fetchParcel t va with
  | .trap c s => .trap c s
  | .fault k s => .fault k s
  | .ok p s =>
    if p.toNat % 2 = 0 then .ok [p] s
    else match s.fetchParcel t (va + 2) with
      | .trap c s => .trap c s
      | .fault k s => .fault k s
      | .ok q s => .ok [p, q] s

/-- The parcels of an instruction word with their addresses. -/
def placeParcels : Word → List Parcel → List (Word × Parcel)
  | _, [] => []
  | va, p :: ps => (va, p) :: placeParcels (va + 2) ps

/-- Fetches an instruction with the prefixes that stand before it; n further prefixes may stand before it. -/
def State.fetchInstr (s : State) (t : Thread) : Nat → Word → FetchWord × List (Word × Parcel)
  | n, va =>
    match s.fetchWord t va with
    | .ok ps s =>
      let here := placeParcels va ps
      match n with
      | 0 => (.ok ps s, here)
      | n + 1 =>
        if (ps.head?.map isImx).getD false then
          let (r, more) := s.fetchInstr t n (va + 4)
          (r, here ++ more)
        else (.ok ps s, here)
    | r => (r, [])

/-- A thread waits for a fault of its fetch to be resolved (R25, R74). -/
def State.parkFetch (s : State) (tk : Nat) (token : Option Nat) : State :=
  s.modThread tk fun t =>
    { t with park := some (match token with | some k => .fault k | none => .faultFull), ftok := token, resume_ := false,
             mark := t.mark.or (some s.seq) }

/-- Entries of a loop buffer (R17, R308). -/
def loopEntries : Nat := 256

/-- The loop buffer of a thread's array captures an instruction of the body of a level that the thread has active (R308). -/
def State.captureLoop (s : State) (t : Thread) (ps : List (Word × Parcel)) : State :=
  let tag := s.fetchTag t
  if !(t.loops.any fun l => l.s.toNat ≤ t.pw.toNat && t.pw.toNat < l.e.toNat) || (loopGet (s.arrayAt t).loopBuf tag t.pw).isSome then s
  else
    let a := s.arrayOf t
    s.modCore (s.ckOf t.uid) fun c =>
      let arr := c.arrays.getD a {}
      let buf := arr.loopBuf.drop (arr.loopBuf.length + 1 - loopEntries) ++ [{ tag := tag, ps := ps }]
      { c with arrays := setAt c.arrays a { arr with loopBuf := buf } }

/-- Fills a thread's prefetch buffer with its next instruction, or raises its fetch failure (R25, R308). -/
def State.fillOne (s : State) (tk : Nat) : State :=
  match s.thread? tk with
  | none => s
  | some t =>
    if !t.live || t.park.isSome || t.halted || t.fetched then s
    else
      match s.fetchInstr t (2 - t.pre.length) t.pw with
      | (.ok _ s, ps) => (s.captureLoop t ps).modThread tk fun t => { t with pbuf := ps }
      | (.trap c s, _) => s.deliver tk c 0 t.pc
      | (.fault k s, _) => s.parkFetch tk k

/-- Fills the prefetch buffers of a thread's gang, whose threads fetch side by side (R308; log 70). -/
def State.prefetch (s : State) (tk : Nat) : State :=
  match s.thread? tk with
  | none => s
  | some t => (s.liveOf t.uid).foldl (fun s p => if p.2.gg = t.gg then s.fillOne p.1 else s) s

/-- The armed PC comparator that matches a thread's next instruction, of those it does not skip (R350). -/
def State.bpHit (s : State) (t : Thread) : Option Nat :=
  if !t.pre.isEmpty || t.resume_ then none
  else
    match s.unit? t.uid with
    | none => none
    | some u =>
      (upFrom 0 8).find? fun k => u.dbg.bps.getD k none == some t.pc && !t.skip.contains k

/-- What an issued thread runs: an instruction of the current thread, or nothing that has a meaning of its own. -/
inductive Issue where
  | run (i : Instr) (s : State)
  | done (s : State)

/-- Issues a thread (R24, R25, R52, R350): its next instruction word is fetched and decoded; a fetch failure, a word that
fails decode and a matching PC comparator trap; a parked thread, and one that is no longer live, does nothing. -/
def State.issue (s : State) (tk : Nat) : Issue :=
  match s.thread? tk with
  | none => .done s
  | some t =>
    if !t.live || (t.park.isSome && !t.resume_) then .done s
    else
      match s.bpHit t with
      | some k => .done (s.deliver tk cBRK 0 t.pc (some k))
      | none =>
        match s.fetchWord t t.pw with
        | .trap c s => .done (s.deliver tk c 0 t.pc)
        | .fault k s => .done (s.parkFetch tk k)
        | .ok ps s =>
          let s := { s with cur := some tk }
          match decodeParcels ps with
          | .error _ => .done (s.deliver tk cILL 0 t.pc)
          | .ok i => .run i s

/-- The bytes up to which LOOP reads its body: the address after n instructions from an address (R281), each with its IMX
prefixes; run counts the prefixes that stand before the present word. -/
def State.bodyEnd (s : State) (t : Thread) : Nat → Nat → Word → Fetch × Word
  | 0, _, va => (.ok 0 s, va)
  | fuel + 1, n, va =>
    if n = 0 then (.ok 0 s, va)
    else
      match s.fetchParcel t va with
      | .ok p s =>
        if p.toNat % 2 = 0 then s.bodyEnd t fuel (n - 1) (va + 2)
        else if isImx p then s.bodyEnd t fuel n (va + 4)
        else s.bodyEnd t fuel (n - 1) (va + 4)
      | r => (r, va)

end Sys2Proof.Machine
end

