-- ==== Sys2Proof/Machine/Seats.lean ====
section
/-! DEFINITION. The gangs of a lane array: homed, seated and waiting. -/

namespace Sys2Proof.Machine

/-- The gangs of resident units homed on a lane array of a core, as unit and gang number (R294). -/
def State.homedOn (s : State) (ck a : Nat) : List (Nat × Nat) :=
  (s.residents ck).flatMap fun uid =>
    match s.unit? uid with
    | none => []
    | some u => (u.gangs.filter fun g => g.2.home == a).map fun g => (uid, g.1)

/-- The live threads of a gang, with their keys. -/
def State.liveGang (s : State) (uid gg : Nat) : List (Nat × Thread) := (s.liveOf uid).filter fun p => p.2.gg == gg

/-- Whether a gang holds a seat. -/
def State.isSeated (s : State) (uid gg : Nat) : Bool :=
  match s.unit? uid with
  | none => false
  | some u => (u.gang gg).seat.isSome

/-- The unseated gangs of an array that have a live thread that is not parked (R295); a halted
thread waits for no seat (R350). -/
def State.waitingGangs (s : State) (ck a : Nat) : List (Nat × Nat) :=
  (s.homedOn ck a).filter fun g =>
    !s.isSeated g.1 g.2 && (s.liveGang g.1 g.2).any fun p => p.2.park.isNone && !p.2.halted

/-- Marks a seat due for the seating policy (R295). -/
def State.markDue (s : State) (ck a seat : Nat) : State :=
  s.modCore ck fun c =>
    let arr := c.arrays.getD a {}
    { c with arrays := setAt c.arrays a { arr with seats := setAt arr.seats seat ((arr.seats.getD seat none).map fun x => { x with due := true }) } }

/-- A gang is offered for reseating: it becomes due where another gang of its array waits (R291, R295). -/
def State.offerSeat (s : State) (t : Thread) : State :=
  match s.unit? t.uid with
  | none => s
  | some u =>
    let g := u.gang t.gg
    match g.seat with
    | none => s
    | some seat => if (s.waitingGangs u.ck g.home).isEmpty then s else s.markDue u.ck g.home seat

end Sys2Proof.Machine
end

