-- ==== Sys2Proof/Machine/Control.lean ====
section
/-! DEFINITION. Control flow: branches, calls, loops, returns, IMX, the encodings that fail decode, and the instructions
that end, trap, yield, start a region or do nothing. -/

namespace Sys2Proof.Machine

/-- A park on a resolvable fault of the thread's own access, whose entry the thread remembers (R74). -/
def parkFault (s : State) (tk : Nat) (token : Option Nat) : Res :=
  .park (s.modThread tk fun t => { t with ftok := token }) (match token with | some k => .fault k | none => .faultFull)

/-! ## Branches and calls -/

/-- What the uniformity check gives. -/
inductive Uniform where
  | ok (s : State)
  | mismatch (s : State)
  | park

/-- uniform_check of a thread's branch at pw with outcome g (R275). -/
def State.uniformCheck (s : State) (tk : Nat) (t : Thread) (pw : Word) (g : Bool) : Uniform :=
  match s.unit? t.uid with
  | none => .ok s
  | some u =>
    let gang := u.gang t.gg
    let tile := gang.tile t.ln
    let recs := AMap.get gang.utab tile []
    if t.uord ≥ AMap.get gang.ubase tile 0 + 8 then .park
    else
      let put (rs : List URec) (s : State) : State :=
        (s.modUnit t.uid fun u => u.modGang t.gg fun x => { x with utab := AMap.set x.utab tile rs }).modThread tk fun t =>
          { t with uord := t.uord + 1 }
      match recs.find? (·.ord == t.uord) with
      | none => .ok ((put (recs ++ [{ ord := t.uord, addr := pw, out := g, set := [t.ln] }]) s).freeURecs t.uid t.gg tile)
      | some r =>
        let s := put (recs.map fun x => if x.ord = r.ord then { x with set := x.set ++ [t.ln] } else x) s
        if r.addr ≠ pw || r.out != g then .mismatch s else .ok (s.freeURecs t.uid t.gg tile)

/-- The check of a branch with U = 1, then what follows it. -/
def checked (u : Bool) (g : Bool) (tk : Nat) (t : Thread) (s : State) (k : State → Res) : Res :=
  if u then
    match s.uniformCheck tk t t.pw g with
    | .park => .park s .utable
    | .mismatch s => .trap s cUNIFORM 0
    | .ok s => k s
  else k s

/-- The target of a branch word (R44). -/
def branchTarget (o : BrOp) (pw : Word) : Word := pw + (o.off.signExtend 64) * 2

/-- A taken branch with the loop exit check (R271, R283). -/
def takeBranch (tk : Nat) (target : Word) (s : State) : Res :=
  .jump (s.modThread tk fun t => { t with loops := exitCheck t.cd target t.loops }) target

/-- A taken call to a target: the link, the call depth, and LOOP where the depth is full within a loop (R272, R283). -/
def takeCall (tk : Nat) (target : Word) (s : State) : Res :=
  match s.thread? tk with
  | none => .hold s
  | some t =>
    if t.cd = 65535 && !t.loops.isEmpty then .trap s cLOOP 0
    else .jump (s.setThread tk { (t.setReg 59 (t.pw + 4)) with cd := if t.cd < 65535 then t.cd + 1 else t.cd }) target

/-- BR (R271). -/
def execBr (o : BrOp) (s : State) : Out :=
  run (.br o) s (fun tk t _ s => checked o.u true tk t s (takeBranch tk (branchTarget o t.pw)))
    (fun tk t s => checked o.u false tk t s .seq)
/-- CALL (R272). -/
def execCall (o : BrOp) (s : State) : Out :=
  run (.call o) s (fun tk t _ s => checked o.u true tk t s (takeCall tk (branchTarget o t.pw)))
    (fun tk t s => checked o.u false tk t s .seq)
/-- JMPI (R273). -/
def execJmpi (o : OpA) (s : State) : Out :=
  run (.jmpi o) s fun tk _ vals s =>
    let a := vals.getD 0 0
    if a.toNat % 2 = 1 then .trap s cALIGN 0 else takeBranch tk a s
/-- CALLI: A is read before the link is written (R273). -/
def execCalli (o : OpA) (s : State) : Out :=
  run (.calli o) s fun tk _ vals s =>
    let a := vals.getD 0 0
    if a.toNat % 2 = 1 then .trap s cALIGN 0 else takeCall tk a s
/-- RET, and the handler return (R273, R343). -/
def execRet (o : OpG) (s : State) : Out :=
  run (.ret o) s fun tk t _ s =>
    if (t.reg 59).toNat % 2 = 1 then .trap s cALIGN 0 else .hold (s.setThread tk t.return_)

/-! ## LOOP -/

/-- The body of LOOP is read to find its end, then what follows it with that end (R281). -/
def withBody (tk : Nat) (t : Thread) (len : Nat) (s : State) (k : State → Word → Res) : Res :=
  match s.bodyEnd t (2 ^ 57) len (t.pw + 4) with
  | (.ok _ s, e) => k s e
  | (.trap c s, _) => .trap s c 0
  | (.fault token s, _) => parkFault s tk token

/-- The body is skipped: control continues in sequence at its end (R281, R282). -/
def skipBody (tk : Nat) (s : State) (e : Word) : Res := .hold (s.modThread tk fun t => t.continueAt e true)

/-- LOOP (R281). -/
def execLoop (o : LoopOp) (s : State) : Out :=
  run (.loop o) s
    (fun tk t vals s =>
      let n := (vals.getD 0 0).toNat
      if n > 0xFFFFFFFF then .trap s cLOOP 0
      else withBody tk t (o.len.1 + 1) s fun s e =>
        if n = 0 then skipBody tk s e
        else if t.loops.length ≥ 3 then .trap s cLOOP 0
        else if (match t.loops with
            | l :: _ => l.depth == t.cd && l.e.toNat < e.toNat
            | [] => false) then .trap s cLOOP 0
        else .seq (s.modThread tk fun x => { x with loops := { lc := BitVec.ofNat 32 n, s := t.pw + 4, e := e, depth := t.cd } :: t.loops }))
    (fun tk t s => withBody tk t (o.len.1 + 1) s (skipBody tk))

/-! ## IMX and the encodings that fail decode -/

/-- Runs f on the current thread. -/
def onCurrent (s : State) (f : Nat → Thread → State) : Out :=
  match s.cur with
  | none => .fault .noThread
  | some tk =>
    match s.thread? tk with
    | none => .fault .noThread
    | some t => .next (f tk t)

/-- IMX: its payload waits for the instruction that follows, which the thread runs next; a third in a row raises ILL at the
first (R24, R38, R39). -/
def execImx (o : BitVec 25) (s : State) : Out :=
  onCurrent s fun tk t =>
    if t.pre.length ≥ 2 then s.deliver tk cILL 0 t.pc
    else { s.setThread tk { t with pre := t.pre ++ [o] } with issueQ := tk :: s.issueQ }

/-- ILL (R51, R52). -/
def execIll (s : State) : Out := onCurrent s fun tk t => s.deliver tk cILL 0 t.pc
/-- The parcel 0x0000 (R48). -/
def execIllParcel (s : State) : Out := onCurrent s fun tk t => s.deliver tk cILL 0 t.pc

/-! ## Ending, trapping, yielding -/

/-- NOP (R291). -/
def execNop (o : OpG) (s : State) : Out := run (.nop o) s fun _ _ _ s => .seq s
/-- YIELD: the thread is not ready for 32 cycles, and its gang is offered for reseating (R291). -/
def execYield (o : OpG) (s : State) : Out :=
  run (.yield o) s fun tk t _ s => .seq ((s.modThread tk fun x => { x with yieldTo := s.cycOf t + 32 }).offerSeat t)
/-- RGN (R285). -/
def execRgn (o : OpG) (s : State) : Out := run (.rgn o) s fun _ _ _ s => .seqR s
/-- BRK (R290). -/
def execBrk (o : OpG) (s : State) : Out := run (.brk o) s fun _ _ _ s => .trap s cBRK 0
/-- TRAP with the software code in A (R290). -/
def execTrap (o : OpA) (s : State) : Out :=
  run (.trap o) s fun _ _ vals s => .trap s cTRAP ((vals.getD 0 0).toNat % 256)
/-- EXIT: once the thread's earlier accesses are done, it ends with a status (R288). -/
def execExit (o : OpA) (s : State) : Out :=
  run (.exit o) s fun tk _ vals s =>
    if s.exitReady tk then .hold (s.endThread tk ((vals.getD 0 0).toNat % 256)) else .park s .completed

end Sys2Proof.Machine
end

