-- ==== Sys2Proof/Machine/LoadStore.lean ====
section
/-! DEFINITION. Loads, stores, acquire loads, release stores, atomics, the hash accumulate, fences and the phase boundary. -/

namespace Sys2Proof.Machine

/-! ## Shared steps -/

/-- The thread's own waiting out-port elements come first (R128); where one has to wait, so does the instruction. -/
def afterOut (tk : Nat) (t : Thread) (s : State) (k : State → Res) : Res :=
  let s := s.drainOut tk
  if ((s.thread? tk).map Thread.outEmpty).getD true then k s else .hold (s.restorePorts tk t.ports)

/-- An instruction that parks remembers a place that an access of it has been checked to name: the check is not made again when the
thread tries the instruction again (R57, R112). -/
def keepPlace (tk : Nat) (va : Word) (l : Loc) : Res → Res
  | .park s p => .park (s.modThread tk fun t => { t with places := t.places ++ [(va, l)] }) p
  | r => r

/-- An access to a place that has been checked: a scratchpad line whose presence bit is clear parks the thread (R112). -/
def presentAccess (l : Loc) (s : State) (k : Loc → State → Res) : Res :=
  match l with
  | .scratch u o => if s.isAbsent l then .park s (.presence u (o / 128)) else k l s
  | _ => k l s

/-- The checks of R57 for an access, which a woken instruction does not repeat (R112). -/
def placeAccess (tk : Nat) (t : Thread) (va : Word) (n kind : Nat) (s : State) (k : Loc → State → Res) : Res :=
  match t.places.find? fun p => p.1 == va with
  | some p => k p.2 s
  | none =>
    match s.access tk t t.ftok va n n kind with
    | (.trap c, s) => .trap s c 0
    | (.fault token, s) => parkFault s tk token
    | (.hold, s) => .hold (s.restorePorts tk t.ports)
    | (.ok l, s) => keepPlace tk va l (k l s)

/-- An access to a place that has been checked: the watch comparators (R350), then the presence bit (R112). -/
def watchedAccess (t : Thread) (l : Loc) (n : Nat) (rd wr : Bool) (s : State) (k : Loc → State → Res) : Res :=
  match s.watchHit t l n rd wr with
  | some i => .trap s cWATCH i
  | none => presentAccess l s k

/-- The checks of an access: R57, the watch comparators, the presence bit. -/
def checkedAccess (tk : Nat) (t : Thread) (va : Word) (n kind : Nat) (rd wr : Bool) (s : State) (k : Loc → State → Res) : Res :=
  placeAccess tk t va n kind s fun l s => watchedAccess t l n rd wr s k

/-- Records an outstanding load of the current instruction (R119). -/
def State.addLoad (s : State) (tk : Nat) (r : LoadRec) : State :=
  s.modThread tk fun t => { t with loads := t.loads ++ [{ r with idx := t.nextIdx, tloc := t.pc }], nextIdx := t.nextIdx + 1 }

/-! ## Loads (R118) -/

/-- A load of n bytes at a place that has been checked: its value at once outside the collector path and where the core holds the line,
else with its collector entry (R115, R116, R118). -/
def loadAt (n : Nat) (sgn : Bool) (d : Dst) (tk : Nat) (t : Thread) (va : Word) (l : Loc) (s : State) : Res :=
  let ck := s.ckOf t.uid
  let (q, s) := s.takeSeq
  let r : LoadRec := { idx := 0, d := (dstRegs d).headD 0, size := n, sgn := sgn, loc := l, va := va, tloc := 0, seq := q }
  let spec := s.specOf t.uid
  let read (line : Option (List Byte)) : Res :=
    .seq ((s.markSeen ck tk q l n).addLoad tk { r with res := some (extend (s.seen ck tk q spec l n line) sgn) })
  if !l.collected then
    match s.locErr l n true with
    | some c => .seq (s.addLoad tk { r with err := some c })
    | none => read none
  else
    match (s.core ck).l1.find? fun e => e.1 == l.line with
    | some e => read (some e.2)
    | none =>
      match s.joinEntry ck l with
      | some s => .seq (s.addLoad tk r)
      | none => .hold (s.restorePorts tk t.ports)

/-- The effect of a load of n bytes. -/
def loadBody (n : Nat) (sgn : Bool) (d : Dst) : Body := fun tk t vals s =>
  let va := vals.getD 0 0 + vals.getD 1 0
  afterOut tk t s fun s => checkedAccess tk t va n 0 true false s (loadAt n sgn d tk t va)

/-- LD8. -/
def execLd8 (o : MemOp) (s : State) : Out := run (.ld8 o) s (loadBody 1 false o.d)
/-- LD16. -/
def execLd16 (o : MemOp) (s : State) : Out := run (.ld16 o) s (loadBody 2 false o.d)
/-- LD32. -/
def execLd32 (o : MemOp) (s : State) : Out := run (.ld32 o) s (loadBody 4 false o.d)
/-- LD64. -/
def execLd64 (o : MemOp) (s : State) : Out := run (.ld64 o) s (loadBody 8 false o.d)
/-- LD8.s. -/
def execLd8S (o : MemOp) (s : State) : Out := run (.ld8S o) s (loadBody 1 true o.d)
/-- LD16.s. -/
def execLd16S (o : MemOp) (s : State) : Out := run (.ld16S o) s (loadBody 2 true o.d)
/-- LD32.s. -/
def execLd32S (o : MemOp) (s : State) : Out := run (.ld32S o) s (loadBody 4 true o.d)

/-! ## Stores (R239) -/

/-- The effect of a store of n bytes. -/
def storeBody (n : Nat) : Body := fun tk t vals s =>
  let va := vals.getD 0 0 + vals.getD 1 0
  afterOut tk t s fun s =>
    checkedAccess tk t va n 1 false true s fun l s =>
      if !s.specFits (s.specOf t.uid) l then .park s .specFull
      else
        match s.issueWrite tk t l (leBytes n (vals.getD 2 0).toNat) va t.pc with
        | some s => .seq s
        | none => .hold (s.restorePorts tk t.ports)

/-- ST8. -/
def execSt8 (o : MemOp) (s : State) : Out := run (.st8 o) s (storeBody 1)
/-- ST16. -/
def execSt16 (o : MemOp) (s : State) : Out := run (.st16 o) s (storeBody 2)
/-- ST32. -/
def execSt32 (o : MemOp) (s : State) : Out := run (.st32 o) s (storeBody 4)
/-- ST64. -/
def execSt64 (o : MemOp) (s : State) : Out := run (.st64 o) s (storeBody 8)

/-! ## Releases and acquires -/

/-- Whether a scope is die or wider (R236). -/
def isWide : Scope → Bool
  | .grp => false
  | .core => false
  | _ => true
/-- The scope of an ATOM (R236). -/
def scopeOf : AScope → Scope
  | .core => .core
  | .die => .die
  | .dev => .dev
  | .sys => .sys

/-- Waits until every earlier access of the thread is performed at a scope (R242, R250): its own, with its UWRs (R141), and for a scope
of die or wider those of its core; for sys, delivered off the package (R260). With clean, an error that turns up meanwhile is
delivered first (R78). -/
def whenPerformed (tk : Nat) (t : Thread) (sc : Scope) (clean : Bool) (s : State) (k : State → Res) : Res :=
  let ck := s.ckOf t.uid
  let mark := t.mark.getD s.seq
  let s := s.drainOut tk
  let s := if isWide sc then s.drainCore ck else s
  let due := clean && !((s.thread? tk).map (·.errs.isEmpty)).getD true
  if !due && !s.uwrOpen tk && s.ownPerformed ck tk && (!(isWide sc) || s.corePerformed ck mark) && (sc != .sys || s.coreDelivered ck mark t.after.acq)
  then k s
  else .park s (.performed (sc == .sys) (isWide sc) clean)

/-- The release of an operation on a place (R242): a publication at die or wider, else the core in the line's tag. -/
def State.release (s : State) (ck : Nat) (sc : Scope) (l : Loc) : State :=
  if isWide sc then s.publish ck else s.tagLine ck l

/-- UWRs of a unit that a test picks complete (R140). -/
def State.landUwr (s : State) (uid : Nat) (f : UwrRec → Bool) : State :=
  s.modUnit uid fun u =>
    { u with uni := (u.uwr.filter f).foldl (fun m r => setAt m r.n r.val) u.uni, uwr := u.uwr.filter fun r => !f r }

/-- Whether an acquire at a scope by a thread of a core reaches the engines of another (R236, R266). -/
def scopeReaches (sc : Scope) (ck e : Nat) : Bool :=
  match sc with
  | .grp => false
  | .core => ck == e
  | .die => ck / 64 == e / 64
  | .dev => true
  | .sys => true

/-- An acquire at a scope, an access of number q, has read a value of w bytes at a place: it may be that of a counter, whose update it then
passes on (R238, R266). -/
def State.acquireAt (s : State) (tk : Nat) (t : Thread) (sc : Scope) (q : Nat) (l : Loc) (w v : Nat) : State :=
  (if w = 8 then s.closeWindow q l v (scopeReaches sc (s.ckOf t.uid)) else s).acquire tk

/-- A write at its home, at once (R242, R244). -/
def State.homeWrite (s : State) (tk : Nat) (t : Thread) (l : Loc) (bs : List Byte) (va : Word) : State :=
  let ck := s.ckOf t.uid
  let (q, s) := s.takeSeq
  let p : Pend := { tk := tk, seq := q, loc := l, bytes := bs, va := va, tloc := t.pc,
                    spec := s.specAt t.uid l }
  (s.perform ck p).modThread tk fun t => t.touched l bs.length

/-- STREL (R242). Its store performs at its home in the step in which it issues: later instructions may issue before it performs, and
the manual gives no time (DESIGN CHOICE; log 71). -/
def execStrel (o : RelOp) (s : State) : Out :=
  run (.strel o) s fun tk t vals s =>
    let va := vals.getD 0 0
    let w := if o.wide then 8 else 4
    if s.speculative t.uid && isWide o.sc then .trap s cSPEC 0
    else checkedAccess tk t va w 1 false true s fun l s =>
      whenPerformed tk t o.sc true s fun s =>
        if !s.specFits (s.specOf t.uid) l then .park s .specFull
        else
          let ck := s.ckOf t.uid
          let s := s.release ck o.sc l
          .seqR (s.homeWrite tk t l (leBytes w (vals.getD 1 0).toNat) va)

/-- An access that promotes a line (R257): the core that its tag names publishes first, and the access waits until that is complete
(R255). -/
def promoted (pr : Bool) (tk : Nat) (t : Thread) (l : Loc) (s : State) (k : State → Res) : Res :=
  if !pr then k s
  else match s.taggedCore (s.ckOf t.uid) l with
    | none => k s
    | some x =>
      let s := s.promote (s.ckOf t.uid) l
      if s.outDrained x then k s else .hold (s.restorePorts tk t.ports)

/-- LDACQ (R241): the value is read at the home; the thread waits for it, and a scope of die or wider refreshes the core when
it arrives. -/
def execLdacq (o : AcqOp) (s : State) : Out :=
  run (.ldacq o) s fun tk t vals s =>
    let va := vals.getD 0 0
    let w := if o.wide then 8 else 4
    afterOut tk t s fun s =>
      checkedAccess tk t va w 0 true false s fun l s =>
        let ck := s.ckOf t.uid
        promoted (o.pr && isWide o.sc) tk t l s fun s =>
        let s := s.orderAtHome ck tk l w
        let (q, s) := s.takeSeq
        let r : LoadRec := { idx := 0, d := (dstRegs o.d).headD 0, size := w, loc := l, va := va, tloc := 0, seq := q, block := true, acq := isWide o.sc }
        match s.locErr l w true with
        | some c => .seq (s.addLoad tk { r with err := some c })
        | none =>
          let bs := s.seen ck tk q (s.specOf t.uid) l w none
          let s := s.acquireAt tk t o.sc q l w (leVal bs)
          .seq ((s.l1Update ck l (s.bytesAt 0 l w)).addLoad tk { r with res := some (extend bs false) })

/-! ## Atomics -/

/-- The new value of an operation from the width in bytes, the old value and the operand (R245). -/
abbrev AtomFn := Nat → Nat → Nat → Nat

/-- Signed value of w bytes. -/
def sgnOf (w x : Nat) : Int := (BitVec.ofNat (8 * w) x).toInt

/-- The indivisible operation at the home (R244): the old value, or the cause of its error. It performs in the step in which the ATOM
issues: for W = 0 the manual gives no time (DESIGN CHOICE; log 71). -/
def State.atomAt (s : State) (ck tk : Nat) (l : Loc) (w : Nat) (f : Nat → Nat) : (Nat ⊕ Nat) × State :=
  let s := s.orderAtHome ck tk l w
  match s.locErr l w true with
  | some c => (.inr c, s)
  | none =>
    let (q, s) := s.takeSeq
    let old := leVal ((upFrom 0 w).map fun k =>
      if s.inFlight tk q (l.add k) then Config.undefByte (2 ^ 64 + q) (l.add k).off else s.byteAt 0 (l.add k))
    let bs := leBytes w (f old)
    let s := ((s.unfence tk q l w).writeAt 0 l bs).noteWrite (.thread tk) q l w
    let s := match l with | .home d => s.offWrite q tk 0 d bs | _ => s
    (.inl old, s.l1Update ck l bs)

/-- The order that an ATOM with W = 1 keeps before it performs (R244). -/
def atomRelease (ar : Bool) (sc : Scope) (tk : Nat) (t : Thread) (l : Loc) (s : State) (k : State → Res) : Res :=
  if ar then whenPerformed tk t sc true s fun s => k (s.release (s.ckOf t.uid) sc l)
  else k s

/-- The effect of an ATOM but HACC (R244, R246); second is the operand in D + 1. A region starts after it where it performs (R286). -/
def atomBody (o : AtomOp) (promote pair : Bool) (f : AtomFn) : Body := fun tk t vals s =>
  let va := vals.getD 0 0
  let w := if o.wide then 8 else 4
  let sc := scopeOf o.sc
  if s.speculative t.uid then .trap s cSPEC 0
  else afterOut tk t s fun s =>
    checkedAccess tk t va w 2 true true s fun l s =>
      atomRelease o.ar sc tk t l s fun s =>
        let ck := s.ckOf t.uid
        promoted (promote && isWide sc) tk t l s fun s =>
        let x := (vals.getD 1 0).toNat % 2 ^ (8 * w)
        let (old, s) := s.atomAt ck tk l w fun old => f w old x
        let r : LoadRec := { idx := 0, d := (dstRegs o.d).headD 0, pair := pair, size := w, loc := l, va := va, tloc := 0, seq := s.seq,
                             block := o.ar, acq := o.ar && isWide sc }
        let s := s.modThread tk fun t => t.touched l w
        match old with
        | .inl v =>
          let s := if o.ar then s.acquireAt tk t sc (s.seq - 1) l w v else s
          .seqR (s.addLoad tk { r with res := some (Word.ofN v) })
        | .inr c => .seq (s.addLoad tk { r with err := some c })

/-- A compare and swap (R246): the new value is that of D + 1 where the old one is that of D. -/
def casBody (o : AtomOp) (promote : Bool) : Body := fun tk t vals s =>
  let second := (t.reg ((dstRegs o.d).headD 0 + 1)).toNat
  atomBody o promote true (fun w old x => if old = x then second % 2 ^ (8 * w) else old) tk t vals s

/-- ATOM add. -/
def execAtomAdd (o : AtomOp) (s : State) : Out := run (.atomAdd o) s (atomBody o false false fun w old x => (old + x) % 2 ^ (8 * w))
/-- ATOM and. -/
def execAtomAnd (o : AtomOp) (s : State) : Out := run (.atomAnd o) s (atomBody o false false fun _ old x => old &&& x)
/-- ATOM or. -/
def execAtomOr (o : AtomOp) (s : State) : Out := run (.atomOr o) s (atomBody o false false fun _ old x => old ||| x)
/-- ATOM xor. -/
def execAtomXor (o : AtomOp) (s : State) : Out := run (.atomXor o) s (atomBody o false false fun _ old x => old ^^^ x)
/-- ATOM min.s. -/
def execAtomMinS (o : AtomOp) (s : State) : Out :=
  run (.atomMinS o) s (atomBody o false false fun w old x => if sgnOf w old ≤ sgnOf w x then old else x)
/-- ATOM max.s. -/
def execAtomMaxS (o : AtomOp) (s : State) : Out :=
  run (.atomMaxS o) s (atomBody o false false fun w old x => if sgnOf w old ≥ sgnOf w x then old else x)
/-- ATOM min.n. -/
def execAtomMinN (o : AtomOp) (s : State) : Out := run (.atomMinN o) s (atomBody o false false fun _ old x => min old x)
/-- ATOM max.n. -/
def execAtomMaxN (o : AtomOp) (s : State) : Out := run (.atomMaxN o) s (atomBody o false false fun _ old x => max old x)
/-- ATOM xchg. -/
def execAtomXchg (o : AtomOp) (s : State) : Out := run (.atomXchg o) s (atomBody o false false fun _ _ x => x)
/-- ATOM cas. -/
def execAtomCas (o : AtomOp) (s : State) : Out := run (.atomCas o) s (casBody o false)
/-- ATOM fadd, in f32 or f64 by the width. -/
def execAtomFadd (o : AtomOp) (s : State) : Out :=
  run (.atomFadd o) s (atomBody o false false fun w old x =>
    let f := if w = 4 then f32 else f64
    f.rne ((f.val old).add (f.val x)))
/-- ATOM incw. -/
def execAtomIncw (o : AtomOp) (s : State) : Out :=
  run (.atomIncw o) s (atomBody o false false fun _ old x => if old ≥ x then 0 else old + 1)
/-- ATOM cas.promote. -/
def execAtomCasPromote (o : AtomOp) (s : State) : Out := run (.atomCasPromote o) s (casBody o true)

/-! ## HACC (R247, R248) -/

/-- What the probes of a table find: a watched access, a line whose presence bit is clear, the status with the entry's place, or no
place. -/
inductive Probe where
  | watch (i : Nat)
  | absent (line : Nat)
  | found (off : Nat)
  | empty (off : Nat)
  | none
  deriving DecidableEq, Repr

/-- The 8 bytes at an offset of a scratchpad, as a HACC of a thread reads them: an output of an engine op in flight is undefined (R98,
R220). -/
def State.tableWord (s : State) (t : Thread) (tk uid off : Nat) : List Byte :=
  s.seen (s.ckOf t.uid) tk s.seq 0 (.scratch uid off) 8 none

/-- Probes entries h, h + 1, ... of a table, n of them (R248); every probed entry is a watched read that waits for its line (R112,
R350), and the entry that is updated or filled a watched write. -/
def State.probe (s : State) (t : Thread) (tk uid base cap k : Nat) : Nat → Nat → Probe
  | 0, _ => .none
  | n + 1, h =>
    let off := base + 16 * (h % cap)
    match s.watchHit t (.scratch uid off) 16 true false with
    | some i => .watch i
    | none =>
      if s.isAbsent (.scratch uid off) then .absent (off / 128)
      else
      let key := leVal (s.tableWord t tk uid off)
      if key = k || key = 0 then
        match s.watchHit t (.scratch uid off) 16 false true with
        | some i => .watch i
        | none => if key = k then .found off else .empty off
      else s.probe t tk uid base cap k n (h + 1)

/-- The offsets of the entries of a table that another thread's plain store, of any core, is still in flight to: one that has not
performed, or an element that waits in an out-port (R128, R248). -/
def State.racingEntries (s : State) (tk uid base cap : Nat) : List Nat :=
  let pend := s.cores.flatMap fun c => c.2.pend.filterMap fun p => if p.tk = tk then none else some (p.loc, p.bytes.length)
  let out := s.threads.flatMap fun p => if p.1 = tk then [] else p.2.ports.flatMap fun q => q.fout.filterMap fun e =>
    e.loc.map fun l => (l, e.bytes.length)
  (upFrom 0 cap).filterMap fun k =>
    let off := base + 16 * k
    if (pend ++ out).any fun x => x.1.overlap x.2 (.scratch uid off) 16 then some off else none
/-- Entries of a table become undefined. -/
def State.forgetEntries (s : State) (uid : Nat) (offs : List Nat) : State :=
  offs.foldl (fun s off => s.forgetAt (.scratch uid off) 16) s
/-- Before a HACC: the thread's own stores to the group's scratchpad and all stores to the table have performed, and the entries that one
of another thread races with hold undefined values (R248). -/
def State.tableRaces (s : State) (ck tk uid base cap : Nat) : State :=
  let raced := s.racingEntries tk uid base cap
  let own (p : Pend) := p.tk == tk && (match p.loc with | .scratch _ _ => true | _ => false)
  let s := s.performWhere ck own
  let hit (p : Pend) := p.loc.overlap p.bytes.length (.scratch uid base) (16 * cap)
  (s.cores.foldl (fun s c => s.performWhere c.1 hit) s).forgetEntries uid raced

/-- The end of a HACC: its status in D, and in D + 1 the entry's value where it has one; with W = 1 it is an acquire (R237, R248). -/
def haccDone (o : HaccOp) (tk : Nat) (l : Loc) (va : Word) (status : Nat) (v : Option Word) (s : State) : Res :=
  let s := if o.ar then s.acquire tk else s
  .seqR (s.addLoad tk { idx := 0, d := (dstRegs o.d).headD 0, pair := true, size := 16, loc := l, va := va, tloc := 0, seq := s.seq,
                        res := some (Word.ofN status), res2 := v, block := o.ar })

/-- The entry of a table at an offset takes a key and a value, or a new value alone (R248). -/
def State.tableWrite (s : State) (tk uid off : Nat) (key : Option Nat) (v : Word) : State :=
  let s := s.unfence tk s.seq (.scratch uid off) 16
  let s := match key with
    | some k => (s.writeAt 0 (.scratch uid off) (leBytes 8 k ++ leBytes 8 v.toNat)).noteWrite (.thread tk) s.seq (.scratch uid off) 16
    | none => (s.writeAt 0 (.scratch uid (off + 8)) (leBytes 8 v.toNat)).noteWrite (.thread tk) s.seq (.scratch uid (off + 8)) 8
  s.modThread tk fun t => t.touched (.scratch uid off) 16

/-- The value that an entry holds after x is accumulated: an integer sum, or one in f64 (R248). -/
def haccSum (vt old : Nat) (x : Word) : Word :=
  if vt = 0 then Word.ofN old + x else Word.ofN (f64.rne ((f64.val old).add (f64.val x.toNat)))

/-- The first entry that a key probes: the top bits of its product with the golden ratio (R248). -/
def haccHash (k lcap : Nat) : Nat := (k * 0x9E3779B97F4A7C15) % 2 ^ 64 / 2 ^ (64 - lcap)

/-- HACC on a table whose descriptor's two words lie at two places of the group's scratchpad (R109, R247, R248). An entry that a plain
store races with is undefined after the HACC as before it. -/
def haccTable (o : HaccOp) (tk : Nat) (t : Thread) (k : Nat) (l m : Loc) (va : Word) (uid : Nat) (s : State) : Res :=
  let ck := s.ckOf t.uid
  let s := (s.orderAtHome ck tk l 8).orderAtHome ck tk m 8
  let desc := s.seen ck tk s.seq 0 l 8 none ++ s.seen ck tk s.seq 0 m 8 none
  let base := field desc 0 4
  let lcap := field desc 4 1
  let vt := field desc 5 1
  let cap := 2 ^ lcap
  let size := ((s.unit? uid).map (·.scrSize)).getD 0
  if base % 16 ≠ 0 || lcap > 12 || vt > 1 || !zeroField desc 6 10 || base + 16 * cap > size then .trap s cADDR 0
  else if k = 0 then haccDone o tk l va 3 none s
  else
    let x := t.reg ((dstRegs o.d).headD 0 + 1)
    let before := s
    let raced := s.racingEntries tk uid base cap
    let s := s.tableRaces ck tk uid base cap
    match s.probe t tk uid base cap k (min 8 cap) (haccHash k lcap) with
    | .watch i => .trap before cWATCH i
    | .absent line => .park before (.presence uid line)
    | .none => haccDone o tk l va 2 none s
    | .found off =>
      let v := haccSum vt (leVal (s.tableWord t tk uid (off + 8))) x
      haccDone o tk l va 0 (some v) ((s.tableWrite tk uid off none v).forgetEntries uid raced)
    | .empty off => haccDone o tk l va 1 (some x) ((s.tableWrite tk uid off (some k) x).forgetEntries uid raced)

/-- The comparators and presence bits of the two words of a HACC's descriptor, which is one access of 16 bytes (R112, R247, R350). -/
def haccWatched (t : Thread) (l m : Loc) (s : State) (k : State → Res) : Res :=
  match (s.watchHit t l 8 true false).toList ++ (s.watchHit t m 8 true false).toList with
  | i :: is => .trap s cWATCH (is.foldl min i)
  | [] => presentAccess l s fun _ s => presentAccess m s fun _ s => k s

/-- A HACC whose descriptor's words have their places: the tag, then the table (R247). -/
def haccPlaced (o : HaccOp) (tk : Nat) (t : Thread) (vals : List Word) (l m : Loc) (s : State) : Res :=
  let va := vals.getD 0 0
  if bits va.toNat 63 56 ≠ 0xF0 then .trap s cADDR 0
  else haccWatched t l m s fun s => atomRelease o.ar .core tk t l s (haccTable o tk t (vals.getD 1 0).toNat l m va t.uid)

/-- ATOM HACC: the alignment on 16 bytes, the checks of R57, then the tag (R247). -/
def execAtomHacc (o : HaccOp) (s : State) : Out :=
  run (.atomHacc o) s fun tk t vals s =>
    let va := vals.getD 0 0
    if s.speculative t.uid then .trap s cSPEC 0
    else afterOut tk t s fun s =>
      if tagKnown va && va.toNat % 16 ≠ 0 then .trap s cALIGN 0
      else placeAccess tk t va 8 2 s fun l s => placeAccess tk t (va + 8) 8 2 s fun m s => haccPlaced o tk t vals l m s

/-! ## Fences and the phase boundary -/

/-- The effect of FENCE at a scope (R250). -/
def fenceBody (sc : Scope) : Body := fun tk t _ s =>
  whenPerformed tk t sc true s fun s =>
    let ck := s.ckOf t.uid
    let s := if isWide sc then (s.publish ck).refresh ck else s
    .seq ((s.acquire tk).modThread tk Thread.dropPrefetched)

/-- FENCE.grp. -/
def execFenceGrp (o : OpG) (s : State) : Out := run (.fenceGrp o) s (fenceBody .grp)
/-- FENCE.core. -/
def execFenceCore (o : OpG) (s : State) : Out := run (.fenceCore o) s (fenceBody .core)
/-- FENCE.die. -/
def execFenceDie (o : OpG) (s : State) : Out := run (.fenceDie o) s (fenceBody .die)
/-- FENCE.dev. -/
def execFenceDev (o : OpG) (s : State) : Out := run (.fenceDev o) s (fenceBody .dev)
/-- FENCE.sys. -/
def execFenceSys (o : OpG) (s : State) : Out := run (.fenceSys o) s (fenceBody .sys)
/-- BND: a publication of the core at dev scope and a refresh of its L1, a release and an acquire; a region starts after it (R237, R251). -/
def execBnd (o : OpG) (s : State) : Out :=
  run (.bnd o) s fun tk t _ s =>
    whenPerformed tk t .dev true s fun s =>
      let ck := s.ckOf t.uid
      let s := ((s.publish ck).refresh ck).acquire tk
      .seqR (s.modThread tk Thread.dropPrefetched)

end Sys2Proof.Machine
end

