-- ==== Sys2Proof/Machine/Census.lean ====
section
/-! DEFINITION. Seating and the census: readiness, classes, the pick and what it issues. -/

namespace Sys2Proof.Machine

/-! ## The next instruction of a thread -/

/-- What a thread issues next. -/
inductive Next where
  | notFetched
  | bad
  | instr (i : Instr) (pre : List (BitVec 25))
  deriving DecidableEq, Repr

/-- The instruction in a thread's prefetch buffer at an address, behind its prefixes (R24, R308). -/
def nextAt (buf : List (Word × Parcel)) : Nat → Word → List (BitVec 25) → Next
  | n, va, pre =>
    match pbufGet buf va with
    | none => .notFetched
    | some p =>
      let word : Option (List Parcel) := if p.toNat % 2 = 0 then some [p] else (pbufGet buf (va + 2)).map fun q => [p, q]
      match word with
      | none => .notFetched
      | some ps =>
        match decodeParcels ps with
        | .error _ => .bad
        | .ok (.imx o) =>
          (match n with
          | 0 => .bad
          | n + 1 => nextAt buf n (va + 4) (pre ++ [o]))
        | .ok i => .instr i pre
/-- What a thread issues next. -/
def Thread.next (t : Thread) : Next := nextAt t.pbuf (2 - t.pre.length) t.pw t.pre

/-! ## Readiness (R296, R297, R301) -/

/-- Whether a register (0 to 59) or predicate (64 to 70) waits for a result of fixed latency or of a load (R297). -/
def Thread.pending (t : Thread) (now key : Nat) : Bool :=
  t.loadPending key || t.busy.any fun x => x.1 == key && now < x.2

/-- Whether an in-port gives the elements that an instruction reads from it, or traps (R126, R297). -/
def Thread.portReady (t : Thread) (k n : Nat) : Bool :=
  let p := t.ports.getD k {}
  match p.bind with
  | none => true
  | some b => b.isOut || b.pos + n > b.count || finReady n p.fin

/-- operands_ready of R297. -/
def State.operandsReady (s : State) (tk : Nat) (t : Thread) (f : Info) (now : Nat) : Bool :=
  let srcs := f.allSrcs.map (·.2)
  let latch (x : Src) := match x with | .b k => (t.b.getD k.1 {}).done ≤ now | _ => true
  let port (k : Nat) := srcs.countP fun x => match x with | .m j => j.1 == k | _ => false
  let uniform (x : Src) := match x, s.unit? t.uid with
    | .s n, some u => !u.uwrFlight tk n.1
    | _, _ => true
  f.named.all (fun r => !t.pending now r) && srcs.all latch && srcs.all uniform &&
  (upFrom 0 4).all (fun k => port k = 0 || t.portReady k (port k)) &&
  (match f.mode, f.guard with
    | .sel, some g => !t.pending now (64 + g.p.1)
    | _, _ => true) &&
  f.loadsReady t

/-- Whether an instruction of class SY accesses memory at the address in A. -/
def readsAt : Instr → Bool
  | .wait _ => true
  | .cpy _ => true
  | .gath _ => true
  | .mxl _ => true
  | .ores _ => true
  | .strm _ => true
  | .launch _ => true
  | .dbgHalt _ => true
  | .dbgResume _ => true
  | .dbgStep _ => true
  | .dbgSetmask _ => true
  | .dbgWset _ => true
  | .dbgWclr _ => true
  | .dbgStatus _ => true
  | .dbgReadreg _ => true
  | .dbgBpset _ => true
  | .dbgBpclr _ => true
  | _ => false

/-- Whether an instruction gives an engine an op or a job, whose acceptance reads the tile declarations (R80, R109). -/
def keepsDecls : Instr → Bool
  | .cpy _ => true
  | .gath _ => true
  | .mxl _ => true
  | _ => false

/-- Whether no UWR of a thread is in flight to the uniform that URD names, to the tile declarations that map the address of an
access or of the element of an out-port, or to those that an acceptance reads (R109, R141, R297). -/
def State.uniformsReady (s : State) (tk : Nat) (t : Thread) (i : Instr) (f : Info) : Bool :=
  !s.dstHeld tk t f && !(keepsDecls i && s.declsInFlight tk t.uid) &&
  (match s.readSrcs tk t f.srcs, i with
    | .ok vals _, .urd _ => (match s.unit? t.uid with
        | some u => !u.uwrFlight tk (vals.getD 0 0).toNat
        | none => true)
    | .ok vals _, _ => !((6 ≤ f.cls && f.cls ≤ 8 || readsAt i) && s.skewWaits tk t.uid (vals.foldl (· + ·) 0))
    | _, _ => true)

/-- Whether an access whose guard is true is on the collector path: it has an operand from a stream port, or its address is global or in
the private window; an access whose operands trap has no address (R115). -/
def State.onCollector (s : State) (tk : Nat) (t : Thread) (f : Info) : Bool :=
  if f.srcs.any (fun x => match x.2 with | .m _ => true | _ => false) then true
  else match s.readSrcs tk t f.srcs with
    | .ok vals _ =>
      let va := vals.foldl (· + ·) 0
      tagGlobal va || bits va.toNat 63 56 == 0xF2
    | _ => false

/-- Eligibility of a class for a thread (R301, R303); guard says whether its guard is true. -/
def State.eligible (s : State) (ck : Nat) (tk : Nat) (t : Thread) (f : Info) (guard : Bool) (clk : Nat) : Bool :=
  let full := (s.core ck).coll.length ≥ 64 && 6 ≤ f.cls && f.cls ≤ 8 && guard && s.onCollector tk t f
  let held := s.held (ck / 8) && 3 ≤ f.cls && f.cls ≤ 5
  let throttled := match s.unit? t.uid with
    | some u => clk % u.f != u.slot % u.f
    | none => false
  !full && !held && !throttled

/-- A candidate of a census round (R296, R300). -/
structure Cand where
  tk    : Nat
  seat  : Nat
  ln    : Nat
  cls   : Nat
  w     : Nat
  late  : Bool
  /-- what a CL issue groups by: a tile and 0 for a collective, 1 + slot for a barrier instruction (R305) -/
  group : Nat × Nat := (0, 0)
  deriving DecidableEq, Repr

/-- The group of a collective or barrier instruction (R305). -/
def clGroup (tile : Nat) : Instr → Nat × Nat
  | .barArr o => (0, 1 + o.n.1)
  | .barWait o => (0, 1 + o.n.1)
  | .barSync o => (0, 1 + o.n.1)
  | .barInit o => (0, 1 + o.n.1)
  | _ => (tile, 0)

/-- Whether and how a seated thread is a candidate (R296). -/
def State.candidate (s : State) (ck : Nat) (now : Nat) (seat : Nat) (tk : Nat) (t : Thread) : Option Cand :=
  if !t.live || t.park.isSome || t.halted || now < t.yieldTo then none
  else
    let c : Cand := { tk := tk, seat := seat, ln := t.ln, cls := 11, w := t.w, late := decide (now < t.depriTo) }
    let bad : Option Cand := if s.eligible ck tk t {} false now then some c else none
    match t.next with
    | .notFetched => none
    | .bad => bad
    | .instr i pre =>
      let f := instrInfo i
      let t' := { t with pre := pre }
      if !operandOk i t.nregs pre then bad
      else
        let tile := match s.unit? t.uid with | some u => (u.gang t.gg).tile t.ln | none => 0
        let c := { c with cls := f.cls, group := clGroup tile i }
        let known := match f.guard with | some g => !t.pending now (64 + g.p.1) | none => true
        let g := t.guard f.guard
        let ready := known && !t.loads.any (·.block) &&
          ((!g && f.mode != .sel) || t.held.isSome || (s.operandsReady tk t' f now && s.uniformsReady tk t' i f))
        if ready && s.eligible ck tk t' f g now then some c else none

/-- The candidates of an array in a round. -/
def State.candidates (s : State) (ck a now : Nat) : List Cand :=
  let arr := (s.core ck).arrays.getD a {}
  (upFrom 0 4).flatMap fun k =>
    match arr.seats.getD k none with
    | none => []
    | some seat =>
      if now < seat.at_ + 4 then []
      else (s.liveGang seat.uid seat.gg).filterMap fun p => s.candidate ck now k p.1 p.2

/-! ## The pick (R300) -/

/-- Whether one candidate ranks before another (R300). -/
def Cand.before (x y : Cand) : Bool :=
  let sx := decide (x.w ≥ 32)
  let sy := decide (y.w ≥ 32)
  if sx != sy then sx
  else if x.late != y.late then !x.late
  else if x.w ≠ y.w then x.w > y.w
  else if x.seat ≠ y.seat then x.seat < y.seat
  else x.ln < y.ln
/-- Inserts by rank. -/
def rankInsert (x : Cand) : List Cand → List Cand
  | [] => [x]
  | y :: ys => if y.before x then y :: rankInsert x ys else x :: y :: ys
/-- The candidates in rank order. -/
def rankSort (xs : List Cand) : List Cand := xs.foldr rankInsert []

/-- The width of a class (R298). -/
def classWidth : Nat → Nat
  | 1 => 16 | 3 => 16 | 5 => 8 | 11 => 4 | _ => 32

/-- The first class, from an index onward modulo 12, with the greatest score among those that have one. -/
def bestClass (rot : Nat) (score : Nat → Option Nat) : Option Nat :=
  ((upFrom 0 12).foldl (fun best k =>
    let c := (rot + k) % 12
    match score c, best with
    | none, b => b
    | some x, none => some (c, x)
    | some x, some (b, y) => if x > y then some (c, x) else some (b, y)) none).map (·.1)

/-- The class that a round picks among its candidates (R300). -/
def pickClass (rot : Nat) (k : List Cand) : Option Nat :=
  let starving := k.filter fun c => c.w ≥ 32
  if !starving.isEmpty then
    bestClass rot fun c =>
      if starving.any (·.cls == c) then some (((rankSort (k.filter (·.cls == c))).head?.map (·.w)).getD 0) else none
  else
    bestClass rot fun c =>
      let n := k.countP (·.cls == c)
      if n = 0 then none else some n

/-- The candidates that issue (R305). -/
def issued (cls : Nat) (gang : Nat → Nat) (k : List Cand) : List Cand :=
  let xs := rankSort (k.filter (·.cls == cls))
  if cls = 10 then
    match xs with
    | [] => []
    | u :: _ => xs.filter fun x => x.seat == u.seat && gang x.tk == gang u.tk && x.group == u.group
  else xs.take (classWidth cls)

/-- The branch that a thread issues next, with its address, its outcome and H (R277); one that traps, for its operands or a pending error,
is none (R51, R78). -/
def Thread.branch (t : Thread) : Option (Word × Bool × Bool) :=
  let real (i : Instr) (pre : List (BitVec 25)) : Bool :=
    operandOk i t.nregs pre && ((instrInfo i).dueError { t with pre := pre }).isNone
  match t.next with
  | .instr (.br o) pre => if real (.br o) pre then some (t.pc + Word.ofN (4 * pre.length), t.guard (some o.g), o.h) else none
  | .instr (.call o) pre => if real (.call o) pre then some (t.pc + Word.ofN (4 * pre.length), t.guard (some o.g), o.h) else none
  | _ => none

/-- The first-path hint of branches that diverge in one issue (R277): H = 0 selects the taken side. -/
def State.divergence (s : State) (now : Nat) (tks : List Nat) : State :=
  let bs := tks.filterMap fun tk => (s.thread? tk).bind fun t => t.branch.map fun b => (tk, t.uid, t.gg, b)
  bs.foldl (fun s x =>
    let (tk, uid, gg, pc, taken, h) := x
    let diverges := bs.any fun y => y.2.1 == uid && y.2.2.1 == gg && y.2.2.2.1 == pc && y.2.2.2.2.1 != taken
    if diverges && taken == h then s.modThread tk fun t => { t with depriTo := now + 64 } else s) s

/-- Whether an array of a cluster with a gang in a seat has still to take its round of the cycle that runs. -/
def State.cycleOpen (s : State) (n : Nat) : Bool :=
  let clk := (s.cluster n).clk
  (upFrom (8 * n) 8).any fun ck => (s.core ck).arrays.any fun r => r.cyc ≤ clk && r.seats.any (·.isSome)

/-- Whether an array of a core that comes before another has still to take its round of the cycle that runs: what threads of one cycle
do applies in the order of the arrays (R306). -/
def State.earlierOpen (s : State) (ck a : Nat) : Bool :=
  let clk := (s.cluster (ck / 8)).clk
  ((s.core ck).arrays.take a).any fun r => r.cyc ≤ clk && r.seats.any (·.isSome)

/-- The next cycle of a cluster begins: UWRs that are complete land (R141). -/
def State.tick (s : State) (n : Nat) : State :=
  let clk := (s.cluster n).clk + 1
  let s := s.modCluster n fun c => { c with clk := clk }
  (upFrom (8 * n) 8).foldl (fun s ck => (s.residents ck).foldl (fun s u => s.landUwr u fun r => r.done ≤ clk) s) s

/-! ## Seating (R294, R295) -/

/-- How long the longest-waiting thread of an unseated gang has waited: the moment from which it waits (R295). -/
def State.waitsSince (s : State) (uid gg : Nat) : Nat :=
  let since := ((s.unit? uid).map fun u => (u.gang gg).since).getD 0
  ((s.liveGang uid gg).filter fun p => p.2.park.isNone).foldl (fun m p => match m with
    | none => some (max since p.2.freeAt)
    | some x => some (min x (max since p.2.freeAt))) none |>.getD since

/-- The gang that a free seat takes (R295). -/
def State.nextGang (s : State) (ck a : Nat) : Option (Nat × Nat) :=
  let key (g : Nat × Nat) : Nat × Nat × Nat := (s.waitsSince g.1 g.2, ((s.unit? g.1).map (·.slot)).getD 0, g.2)
  (s.waitingGangs ck a).foldl (fun best g => match best with
    | none => some g
    | some b =>
      let x := key g
      let y := key b
      if x.1 < y.1 || (x.1 == y.1 && (x.2.1 < y.2.1 || (x.2.1 == y.2.1 && x.2.2 < y.2.2))) then some g else some b) none

/-- Whether a live thread of a gang is halted: the seating policy does not act on the gang (R309, R350). -/
def State.gangHalted (s : State) (uid gg : Nat) : Bool := (s.liveGang uid gg).any fun p => p.2.halted

/-- Whether a gang may be reseated now (R134). -/
def State.reseatable (s : State) (uid gg : Nat) : Bool :=
  (s.liveGang uid gg).all fun p => p.2.seatPt || p.2.park.isSome

/-- Whether the gang of a seat leaves it: it has no live thread, all of them are parked while another gang waits, or it is due and may be
reseated (R134, R295). -/
def State.seatLeaves (s : State) (ck a : Nat) (x : Seat) : Bool :=
  let live := s.liveGang x.uid x.gg
  live.isEmpty || (!s.gangHalted x.uid x.gg &&
    ((!(s.waitingGangs ck a).isEmpty && live.all fun p => p.2.park.isSome) || (x.due && s.reseatable x.uid x.gg)))

/-- Whether the gang of a seat becomes due: it has been seated for 1,024 cycles and another waits (R295). -/
def State.quantumOver (s : State) (ck a : Nat) (x : Seat) : Bool :=
  !x.due && !s.gangHalted x.uid x.gg && (s.cluster (ck / 8)).clk ≥ x.at_ + 1024 && !(s.waitingGangs ck a).isEmpty

/-- Whether the seating policy of an array has something to do: it acts before the array's next round (R295). -/
def State.policyDue (s : State) (ck a : Nat) : Bool :=
  let arr := (s.core ck).arrays.getD a {}
  (arr.seats.any fun x => match x with
    | none => (s.nextGang ck a).isSome
    | some x => s.seatLeaves ck a x || s.quantumOver ck a x)

/-- GANG_SEAT: a free seat takes the gang that has waited longest (R295); its latches are void (R134). -/
def execGangSeat (ck a : Nat) (s : State) : Out :=
  let arr := (s.core ck).arrays.getD a {}
  match findPos (fun x => x == none) arr.seats, s.nextGang ck a with
  | some seat, some (uid, gg) =>
    let s := s.modCore ck fun c =>
      { c with arrays := setAt c.arrays a { arr with seats := setAt arr.seats seat (some { uid := uid, gg := gg, at_ := (s.cluster (ck / 8)).clk }) } }
    let s := s.modUnit uid fun u => u.modGang gg fun g => { g with seat := some seat }
    .next ((s.liveGang uid gg).foldl (fun s p => s.modThread p.1 fun t => { t with b := [{}, {}, {}, {}], w := 0, seatPt := true }) s)
  | _, _ => .next s

/-- Unseats the gang of a seat. -/
def State.unseat (s : State) (ck : Nat) (seat : Seat) : State :=
  let now := (s.cluster (ck / 8)).clk
  (s.freeSeat seat.uid seat.gg).modUnit seat.uid fun u => u.modGang seat.gg fun g => { g with since := now }

/-- GANG_UNSEAT: a gang without a live thread, one whose threads are all parked while another waits, or one that is due and may
be reseated leaves its seat (R134, R295). -/
def execGangUnseat (ck a seat : Nat) (s : State) : Out :=
  match ((s.core ck).arrays.getD a {}).seats.getD seat none with
  | none => .next s
  | some x => .next (if s.seatLeaves ck a x then s.unseat ck x else s)

/-- QUANTUM_DUE: a gang seated for 1,024 cycles is due where another waits (R295). -/
def execQuantumDue (ck a seat : Nat) (s : State) : Out :=
  match ((s.core ck).arrays.getD a {}).seats.getD seat none with
  | none => .next s
  | some x => .next (if s.quantumOver ck a x then s.markDue ck a seat else s)

/-! ## The round (R300) -/

/-- CENSUS_ROUND: one cycle of a lane array (R141, R300). The threads it issues run their instructions in the steps that
follow, in the order of R306, the arrays of a core one after the other, and what the seating policy has to do comes first. The next cycle
of the cluster begins once every array with a gang in a seat has taken its round. A cluster whose ratio changes, or that is gated, issues nothing and its clk stands (R376). -/
def execCensusRound (ck a : Nat) (s : State) : Out :=
  let n := ck / 8
  let done := decide (((s.core ck).arrays.getD a {}).cyc > (s.cluster n).clk)
  if (s.cluster n).changing || (s.cluster n).crat = 3 || (done && s.cycleOpen n) then .next s
  else
  let s := if done then s.tick n else s
  if s.policyDue ck a || s.earlierOpen ck a then .next s
  else
  let now := (s.cluster n).clk
  let setArr (f : LaneArray → LaneArray) (s : State) : State :=
    s.modCore ck fun c => { c with arrays := setAt c.arrays a (f (c.arrays.getD a {})) }
  let k := s.candidates ck a now
  let rot := ((s.core ck).arrays.getD a {}).rot
  let s := match pickClass rot k with
    | none => s
    | some c =>
      let out := issued c (fun tk => tk / 32) k
      let tks := (k.filter fun x => out.any fun y => y.tk == x.tk).map (·.tk)
      let s := s.divergence now tks
      let s := k.foldl (fun s x => s.modThread x.tk fun t => { t with w := if tks.contains x.tk then 0 else t.w + 1 }) s
      { setArr (fun r => { r with rot := (c + 1) % 12 }) s with issueQ := s.issueQ ++ tks }
  .next (setArr (fun r => { r with cyc := now + 1 }) s)

/-! ## Ends of holds -/

/-- YIELD_HOLD_END: 32 cycles after YIELD the thread may be a candidate again (R291). -/
def execYieldHoldEnd (tk : Nat) (s : State) : Out :=
  .next (s.modThread tk fun t => if t.yieldTo ≤ s.cycOf t then { t with yieldTo := 0 } else t)
/-- DEPRIORITISATION_END: the first-path ranking ends after 64 cycles (R277). -/
def execDeprioritisationEnd (tk : Nat) (s : State) : Out :=
  .next (s.modThread tk fun t => if t.depriTo ≤ s.cycOf t then { t with depriTo := 0 } else t)
/-- PREFETCH_FILL (R308). -/
def execPrefetchFill (tk : Nat) (s : State) : Out := .next (s.prefetch tk)

end Sys2Proof.Machine
end

