-- ==== Sys2Proof/Machine/Collective.lean ====
section
/-! DEFINITION. Collectives and barriers. -/

namespace Sys2Proof.Machine

/-! ## Collectives -/

/-- The in-port that a source names. -/
def portOf : Src → Option Nat
  | .m k => some k.1
  | _ => none

/-- A thread parks at its collective until it ends (R185). -/
def State.joinRecord (s : State) (uid gg tile tk : Nat) (a : Arrival) (r : InstRec) : State :=
  (s.modUnit uid fun u => u.modGang gg fun g => { g with insts := AMap.set g.insts tile { r with arrived := r.arrived ++ [a] } }).modThread tk
    fun t => { t.stepped with park := some .instance_, resume_ := false, seatPt := true }

/-- Whether two GPART records of a gang hold different sizes (R190). -/
def Gang.sizesDiffer (g : Gang) : Bool :=
  let open_ := g.insts.filter fun p => p.2.fn == .gpart && !p.2.failed
  open_.any fun p => open_.any fun q => p.2.size != q.2.size

/-- Whether GPART takes a tile size (R190). -/
def sizeOk (n : Nat) : Bool := n == 2 || n == 4 || n == 8 || n == 16 || n == 32

/-- A thread whose checks at issue passed arrives at a collective (R185, R190). -/
def arrive (fn : CollFn) (size : Nat) (a : Arrival) (tk : Nat) (t : Thread) (s : State) : Res :=
  match s.unit? t.uid with
  | none => .hold s
  | some u =>
    let g := u.gang t.gg
    let tile := g.tile t.ln
    let rec? := AMap.get? g.insts tile
    let trappedHere := match g.gfail with | some l => l.contains t.ln | none => false
    if trappedHere || (match rec? with | some r => r.failed && r.ord < t.cord | none => false) then .park s .instFreed
    else
      let fresh : InstRec := { ord := t.cord, fn := fn, size := size }
      let r := rec?.getD fresh
      if r.failed || r.fn ≠ fn || (fn == .gpart && r.size != size && sizeOk size) then
        .hold (s.failInstance t.uid t.gg tile a)
      else
        let s := s.joinRecord t.uid t.gg tile tk a r
        if fn = .gpart then
          let bad := !sizeOk size || g.gfail.isSome ||
            (match s.unit? t.uid with | some u => (u.gang t.gg).sizesDiffer | none => false)
          .hold (if bad then s.failGpart t.uid t.gg else s.tryGpart t.uid t.gg)
        else .hold (s.tryInstance t.uid t.gg tile)

/-- A collective with a source and a destination; the destination of an out-port is checked at arrival (R189). -/
def collBody (fn : CollFn) (src : Option Src) (dst : Dst) : Body := fun tk t vals s =>
  let a : Arrival := { ln := t.ln, a := vals.getD 0 0, d := vals.getD 1 0, dst := some dst, port := src.bind portOf }
  match dst with
  | .m k =>
    match s.thread? tk with
    | none => .hold s
    | some t' =>
      match s.outCheck tk t' k.1 with
      | some (c, code) => .trap s c code
      | none => arrive fn 0 a tk t s
  | .v _ => arrive fn 0 a tk t s

/-- ELECT (R188). -/
def execElect (o : OpD) (s : State) : Out := run (.elect o) s (collBody .elect none o.d)
/-- VANY (R188). -/
def execVany (o : OpX) (s : State) : Out := run (.vany o) s (collBody .vany (some o.a) o.d)
/-- VALL (R188). -/
def execVall (o : OpX) (s : State) : Out := run (.vall o) s (collBody .vall (some o.a) o.d)
/-- VBAL (R188). -/
def execVbal (o : OpX) (s : State) : Out := run (.vbal o) s (collBody .vbal (some o.a) o.d)
/-- SHFI (R188). -/
def execShfi (o : OpX) (s : State) : Out := run (.shfi o) s (collBody .shfi (some o.a) o.d)
/-- SHFA (R188). -/
def execShfa (o : OpX) (s : State) : Out := run (.shfa o) s (collBody .shfa (some o.a) o.d)
/-- SHFB (R188). -/
def execShfb (o : OpX) (s : State) : Out := run (.shfb o) s (collBody .shfb (some o.a) o.d)
/-- SHFX (R188). -/
def execShfx (o : OpX) (s : State) : Out := run (.shfx o) s (collBody .shfx (some o.a) o.d)
/-- RADD (R188). -/
def execRadd (o : OpX) (s : State) : Out := run (.radd o) s (collBody .radd (some o.a) o.d)
/-- RMIN.s (R188). -/
def execRminS (o : OpX) (s : State) : Out := run (.rminS o) s (collBody .rmin (some o.a) o.d)
/-- RMAX.s (R188). -/
def execRmaxS (o : OpX) (s : State) : Out := run (.rmaxS o) s (collBody .rmax (some o.a) o.d)
/-- RFADD (R162, R188). -/
def execRfadd (o : OpX) (s : State) : Out := run (.rfadd o) s (collBody .rfadd (some o.a) o.d)
/-- RDADD (R162, R188). -/
def execRdadd (o : OpX) (s : State) : Out := run (.rdadd o) s (collBody .rdadd (some o.a) o.d)
/-- SCAN (R188). -/
def execScan (o : OpX) (s : State) : Out := run (.scan o) s (collBody .scan (some o.a) o.d)
/-- MATCH (R188). -/
def execMatchOp (o : OpX) (s : State) : Out := run (.matchOp o) s (collBody .cmatch (some o.a) o.d)
/-- GPART (R190). -/
def execGpart (o : OpA) (s : State) : Out :=
  run (.gpart o) s fun tk t vals s =>
    let a : Arrival := { ln := t.ln, a := vals.getD 0 0, d := 0, dst := none, port := portOf o.a }
    arrive .gpart (vals.getD 0 0).toNat a tk t s

/-! ## Barriers (R191 to R194) -/

/-- The round of a slot. -/
def State.roundOf (s : State) (uid slot : Nat) : Nat :=
  match s.unit? uid with
  | none => 0
  | some u => (u.bars.getD slot { c := 1 }).r

/-- Whether a thread has an open arrival at a slot (R191). -/
def State.openArrival (s : State) (t : Thread) (slot : Nat) : Bool := t.arr.getD slot (-1) == (s.roundOf t.uid slot : Int)

/-- A grp release of a thread whose UWRs are complete: its accesses are done (R193). -/
def State.grpRelease (s : State) (tk : Nat) (t : Thread) : State := s.settle (s.ckOf t.uid) tk

/-- arrive(s) (R192): waits while an arrival is open, and until the thread's UWRs are complete (R141), else releases and arrives. -/
def barArrive (slot tk : Nat) (t : Thread) (s : State) (k : State → Res) : Res :=
  if s.openArrival t slot then .park s (.round slot (s.roundOf t.uid slot))
  else if s.uwrOpen tk then .park s (.performed false false false)
  else afterOut tk t s fun s =>
    let n := s.roundOf t.uid slot
    let s := (s.grpRelease tk t).modThread tk fun t => { t with arr := setAt t.arr slot n }
    let s := s.modUnit t.uid fun u =>
      { u with bars := match u.bars[slot]? with | some b => setAt u.bars slot { b with n := b.n + 1 } | none => u.bars }
    k (s.checkRound t.uid slot)

/-- wait(s) (R192): waits while an arrival is open, then acquires. -/
def barWait (slot tk : Nat) (s : State) (k : State → Res) : Res :=
  match s.thread? tk with
  | none => .hold s
  | some t =>
    if s.openArrival t slot then .park s (.round slot (s.roundOf t.uid slot))
    else k ((s.acquire tk).modThread tk Thread.dropPrefetched)

/-- BAR.INIT. -/
def execBarInit (o : OpI 16) (s : State) : Out :=
  run (.barInit o) s fun _ t vals s =>
    let c := (vals.getD 0 0).toNat
    match s.unit? t.uid with
    | none => .hold s
    | some u =>
      if c = 0 || c > u.g then .trap s cCOLL 0
      else
        let s := s.setUnit t.uid { u with bars := match u.bars[o.n.1]? with
          | some b => setAt u.bars o.n.1 { b with c := c }
          | none => u.bars }
        .seq (s.checkRound t.uid o.n.1)
/-- BAR.ARR: a region starts after it. -/
def execBarArr (o : OpS 16) (s : State) : Out := run (.barArr o) s fun tk t _ s => barArrive o.n.1 tk t s .seqR
/-- BAR.WAIT. -/
def execBarWait (o : OpS 16) (s : State) : Out := run (.barWait o) s fun tk _ _ s => barWait o.n.1 tk s .seq
/-- BAR.SYNC: the arrival, after which a region starts at the instruction itself with the arrival marked as done; then the
wait, after which a region starts at the next instruction (R194). -/
def execBarSync (o : OpS 16) (s : State) : Out :=
  run (.barSync o) s fun tk t _ s =>
    let second (s : State) : Res := barWait o.n.1 tk s fun s => .seqR (s.modThread tk fun t => { t with arrDone := false })
    if t.arrDone then second s
    else barArrive o.n.1 tk t s fun s =>
      second (s.modThread tk fun t => let t := { t with arrDone := true }; t.startRegion t.pc)

end Sys2Proof.Machine
end

