-- ==== Sys2Proof/Machine/Cards.lean ====
section
/-! DEFINITION. Reading cards and descriptors, binding stream ports, reservations, waiting on a counter, and making code writes
visible. -/

namespace Sys2Proof.Machine

/-! ## Reading a card -/

/-- Puts a line into a core's L1 (R116). -/
def State.fillLine (s : State) (ck : Nat) (line : Loc) (bs : List Byte) : State :=
  s.modCore ck fun c => { c with l1 := (c.l1.filter fun x => x.1 != line).drop (c.l1.length + 1 - Config.l1Lines) ++ [(line, bs)] }

/-- A plain load of n bytes at a checked place whose value the instruction itself waits for (R96, R114 to R116): through the collector
entry of its line, which leaves at once and fills the L1; its bytes, or the cause of its error response. -/
def State.readNow (s : State) (tk : Nat) (t : Thread) (l : Loc) (n : Nat) : (Nat ⊕ List Byte) × State :=
  let ck := s.ckOf t.uid
  let (q, s) := s.takeSeq
  let read (line : Option (List Byte)) (s : State) : (Nat ⊕ List Byte) × State :=
    (.inr (s.seen ck tk q (s.specOf t.uid) l n line), s.markSeen ck tk q l n)
  if !l.collected then
    match s.locErr l n true with
    | some c => (.inl c, s)
    | none => read none s
  else
    match (s.core ck).l1.find? fun e => e.1 == l.line with
    | some e => read (some e.2) s
    | none =>
      let s := if (s.core ck).coll.any (fun e => e.line == l.line) then s.sendEntry ck l.line else s
      let bs := s.bytesAt 0 l.line 128
      match s.locErr l.line 128 true with
      | none => read (some bs) (s.fillLine ck l.line bs)
      | some c =>
        match if c = cADDR then some c else s.locErr l n true with
        | some c => (.inl c, s)
        | none => read (some bs) s

/-- Reads words of 8 bytes at checked places: bs holds the bytes before them. -/
def readLocs (tk : Nat) (t : Thread) : List (Word × Loc) → List Byte → State → (List Byte → State → Res) → Res
  | [], bs, s, k => k bs s
  | (va, l) :: ls, bs, s, k =>
    match s.readNow tk t l 8 with
    | (.inl c, s) => .trap (s.logThread t va c 0) c 0
    | (.inr w, s) => readLocs tk t ls (bs ++ w) s k

/-- Checks n words of 8 bytes at an address (R57). -/
def checkWords (tk : Nat) (t : Thread) : Nat → Word → List (Word × Loc) → State → (List (Word × Loc) → State → Res) → Res
  | 0, _, ls, s, k => k ls s
  | n + 1, va, ls, s, k => placeAccess tk t va 8 0 s fun l s => checkWords tk t n (va + 8) (ls ++ [(va, l)]) s k

/-- The comparators and presence bits of words whose places are checked (R112, R350). -/
def watchWords (t : Thread) : List (Word × Loc) → State → (State → Res) → Res
  | [], s, k => k s
  | (_, l) :: ls, s, k => watchedAccess t l 8 true false s fun _ s => watchWords t ls s k

/-- Reads n words of 8 bytes at an address as plain loads of the thread, once all of them are checked (R57, R96, R125): bs holds the
bytes before them. -/
def readWords (tk : Nat) (t : Thread) (n : Nat) (va : Word) (bs : List Byte) (s : State) (k : List Byte → State → Res) : Res :=
  checkWords tk t n va [] s fun ls s => watchWords t ls s fun s => readLocs tk t ls bs s k

/-- A card's fixed part of n words, after the thread's own earlier out-port elements. -/
def readCard (tk : Nat) (t : Thread) (n : Nat) (va : Word) (s : State) (k : List Byte → State → Res) : Res :=
  afterOut tk t s fun s => readWords tk t n va [] s k

/-- A plain store of an instruction's effect (R239). -/
def plainStore (tk : Nat) (t : Thread) (va : Word) (bs : List Byte) (s : State) (k : State → Res) : Res :=
  checkedAccess tk t va bs.length 1 false true s fun l s =>
    if !s.specFits (s.specOf t.uid) l then .park s .specFull
    else
      match s.issueWrite tk t l bs va t.pc with
      | some s => k s
      | none => .hold (s.restorePorts tk t.ports)

/-! ## STRM (R125) -/

/-- Writes the position of a bound port back to its descriptor. -/
def writeBack (tk : Nat) (t : Thread) (b : Option PortBind) (s : State) (k : State → Res) : Res :=
  match b with
  | none => k s
  | some b => plainStore tk t (b.desc + 20) (leBytes 4 b.pos) s k

/-- Replaces a port. -/
def State.bindPort (s : State) (tk k : Nat) (b : Option PortBind) : State :=
  s.modThread tk fun t => { t with ports := setAt t.ports k { bind := b } }

/-- STRM. -/
def execStrm (o : OpI 4) (s : State) : Out :=
  run (.strm o) s fun tk t vals s =>
    let old := ((t.ports.getD o.n.1 {}).bind)
    if o.a = .z then afterOut tk t s fun s => writeBack tk t old s fun s => .seq (s.bindPort tk o.n.1 none)
    else
      let va := vals.getD 0 0
      let cur := (((s.thread? tk).getD t).ports.getD o.n.1 {}).bind
      readCard tk t 4 va s fun bs s =>
        let b : PortBind := { base := Word.ofN (field bs 0 8), stride := Word.ofN (field bs 8 8), count := field bs 16 4,
                              pos := field bs 20 4, code := Word.ofN (field bs 24 1) |>.setWidth 8, desc := va }
        let w := 2 ^ (field bs 24 1 % 4)
        if field bs 24 1 / 16 ≠ 0 || !zeroField bs 25 7 then .trap s cSTREAM 0
        else if !tagKnown b.base || bits b.base.toNat 63 56 == 0xF4 then .trap s cADDR 0
        else if b.base.toNat % w ≠ 0 || b.stride.toNat % w ≠ 0 then .trap s cALIGN 0
        else if b.pos > b.count then .trap s cSTREAM 0
        else writeBack tk t cur s fun s => .seq (s.bindPort tk o.n.1 (some b))

/-! ## Reservations (R199 to R201) -/

/-- The lowest free offset of a size in an operand buffer allocation (R200). -/
def TUnit.freeRange (u : TUnit) (size : Nat) : Option Nat :=
  let fits (o : Nat) := o + size ≤ u.obSize && u.resv.all fun r => o + size ≤ r.2.off || r.2.off + r.2.size ≤ o
  ((0 :: u.resv.map fun r => r.2.off + r.2.size).filter fits).foldl (fun best o => match best with
    | none => some o
    | some b => some (min b o)) none
/-- The lowest free handle (R200). -/
def TUnit.freeHandle (u : TUnit) : Option Nat := (upFrom 1 255).find? fun h => (AMap.get? u.resv h).isNone

/-- A reservation record that passes R199. -/
def resvOf (bs : List Byte) : Option Resv :=
  let bytes := field bs 0 4
  let fmt := field bs 4 1
  let blk := field bs 5 1
  let flags := field bs 6 2
  let bso := field bs 8 4
  let gso := field bs 12 4
  let mdo := field bs 16 4
  if bytes = 0 || bytes > 262144 || fmt = 0 || fmt > 9 || blk ≠ fmtBlock fmt || flags > 1 then none
  else if (5 ≤ fmt && fmt ≤ 8 && bso ≥ bytes) || (fmt = 8 && gso ≥ bytes) || (flags = 1 && (mdo ≥ bytes || mdo % 8 ≠ 0)) then none
  else if !zeroField bs 24 8 then none
  else some { off := 0, size := roundUp bytes 128, fmt := fmt, blk := blk, spm := flags == 1, bso := bso, gso := gso, mdo := mdo,
              auxp := field bs 20 4 }

/-- The check of an out-port destination before anything else (R127). -/
def checkDst (tk : Nat) (d : Dst) (s : State) (k : State → Res) : Res :=
  match d with
  | .v _ => k s
  | .m p =>
    match s.thread? tk with
    | none => .hold s
    | some t =>
      match s.outCheck tk t p.1 with
      | some (c, code) => .trap s c code
      | none => k s

/-- ORES. -/
def execOres (o : OpX) (s : State) : Out :=
  run (.ores o) s fun tk t vals s =>
    checkDst tk o.d s fun s =>
      readCard tk t 4 (vals.getD 0 0) s fun bs s =>
        match resvOf bs, s.unit? t.uid with
        | some r, some u =>
          match u.freeHandle, u.freeRange r.size with
          | some h, some off =>
            let s := (s.setUnit t.uid { u with resv := AMap.set u.resv h { r with off := off } }).forgetAt (.obuf t.uid off) r.size
            .seqR (s.putDst tk o.d (Word.ofN h))
          | _, _ => .seqR (s.putDst tk o.d 0)
        | _, _ => .trap s cENGINE 0x16

/-- Whether a copy op names a handle (R201). -/
def CopyOp.names (o : CopyOp) (h : Nat) : Bool :=
  let d := match o.card with | .copy c => c.dst | .gath c => c.dst
  bits d.toNat 63 56 == 0xF4 && bits d.toNat 47 40 == h
/-- Whether an accepted op of a unit names a handle; one that is saved with its unit has not ended (R201, R346). -/
def State.handleNamed (s : State) (uid h : Nat) : Bool :=
  (s.cores.any fun c => c.2.chans.any (fun ops => ops.any fun o => o.uid == uid && o.names h) ||
    c.2.jobs.any fun j => j.uid == uid && j.card.bh == h) ||
  (match s.unit? uid with
    | some u => u.savedOps.any (·.names h) || u.savedJobs.any fun j => j.card.bh == h
    | none => false)
/-- A handle returns to the free pool with its bytes, once no accepted op names it (R201). -/
def State.returnHandle (s : State) (uid h : Nat) : State :=
  match (s.unit? uid).bind fun u => AMap.get? u.resv h with
  | none => s
  | some r =>
    if r.releasing && !s.handleNamed uid h then s.modUnit uid fun u => { u with resv := AMap.del u.resv h } else s

/-- The outputs of jobs and copies that name a handle which its group releases become undefined (R105, R221). -/
def State.spoilHandle (s : State) (uid h : Nat) (r : Resv) : State :=
  s.cores.foldl (fun s c =>
    let s := c.2.chans.flatten.foldl (fun s o =>
      if o.uid = uid && o.names h then
        (s.forgetAt (.obuf uid r.off) r.size).mapOp o.id fun y => { y with taint := y.taint ++ [{ loc := .obuf uid r.off, n := r.size }] }
      else s) s
    c.2.jobs.foldl (fun s j =>
      if j.uid = uid && j.card.bh = h then
        (j.cells.foldl (fun s x => s.forgetAs (s.specOf uid) x.2.2 (fmtBytes j.card.cf 1)) s).mapJob j.id fun y => { y with allBad := true }
      else s) s) s

/-- ORLS. -/
def execOrls (o : OpA) (s : State) : Out :=
  run (.orls o) s fun _ t vals s =>
    let h := (vals.getD 0 0).toNat
    match if h = 0 || h > 255 then none else (s.unit? t.uid).bind fun u => AMap.get? u.resv h with
    | none => .trap s cENGINE 0x05
    | some r =>
      if r.releasing then .trap s cENGINE 0x05
      else
        let s := s.modUnit t.uid fun u => { u with resv := AMap.set u.resv h { r with releasing := true } }
        .seqR ((s.spoilHandle t.uid h r).returnHandle t.uid h)

/-! ## OFENCE (R213) -/

/-- Whether a write of a thread's group to a scratchpad, issued before a sequence number, has not reached its bank. -/
def State.groupWaits (s : State) (uid mark : Nat) : Bool :=
  let ck := s.ckOf uid
  ((s.core ck).pend.any fun p => p.seq < mark && p.tk / 1024 == uid && p.loc.isScratch) ||
  (s.threadsOf uid).any fun p => p.2.ports.any fun q => q.fout.any fun e => e.seq < mark && tagScratch e.addr

/-- OFENCE. -/
def execOfence (o : OpG) (s : State) : Out :=
  run (.ofence o) s fun tk t _ s =>
    let mark := t.mark.getD s.seq
    let s := (s.threadsOf t.uid).foldl (fun s p => s.drainOut p.1) s
    let s := s.performWhere (s.ckOf t.uid) fun p => p.tk / 1024 == t.uid && p.loc.isScratch
    if s.groupWaits t.uid mark then .park s .groupWrites else .seq (s.modThread tk fun t => { t with after := { t.after with fence := mark, facq := t.after.acq } })

/-! ## WAIT (R104) -/

/-- The value of a counter at its home, as a unit's threads read it. -/
def State.counterAt (s : State) (uid : Nat) (l : Loc) : Nat := leVal (s.bytesAt (s.specOf uid) l 8)

/-- WAIT: an acquire at dev scope once the counter has reached the target; it closes the window of the ops whose updates it passes on
(R268). -/
def execWait (o : OpX) (s : State) : Out :=
  run (.wait o) s fun tk t vals s =>
    let va := vals.getD 0 0
    let target := (vals.getD 1 0).toNat
    afterOut tk t s fun s =>
      checkedAccess tk t va 8 0 false false s fun l s =>
        let ck := s.ckOf t.uid
        let s := s.orderAtHome ck tk l 8
        match s.locErr l 8 true with
        | some c => .trap (s.logThread t va c 0) c 0
        | none =>
          if s.counterAt t.uid l < target then .park s (.counter l target (s.hub.tmr + 1000))
          else
            let (q, s) := s.takeSeq
            .seq (((s.acquireAt tk t .dev q l 8 (s.counterAt t.uid l)).refresh ck).modThread tk Thread.dropPrefetched)

/-! ## ICINV (R292) -/

/-- Whether n bytes from an address share a byte with a range. -/
def inRange (va n start len : Nat) : Bool := va < start + len && start < va + n

/-- A thread without the prefetched code of a range. -/
def Thread.dropCode (t : Thread) (start len : Nat) : Thread :=
  { t with pbuf := t.pbuf.filter fun e => !inRange e.1.toNat 2 start len }

/-- A core without the cached code and the loop buffer entries of an address space in a range. -/
def Core.dropCode (c : Core) (asn start len : Nat) : Core :=
  { c with
    ic := c.ic.filter fun l => !(l.asn % 65536 == asn && inRange (l.line * 128) 128 start len)
    arrays := c.arrays.map fun a => { a with loopBuf := a.loopBuf.filter fun e =>
      !(e.tag % 65536 == asn && e.ps.any fun p => inRange p.1.toNat 2 start len) } }

/-- Drops the cached and prefetched code of an address space in a range, on every core (R292). An instruction that has issued is not
affected: one that a thread is parked at, or that runs in the steps that follow. -/
def State.dropCode (s : State) (asn start len : Nat) : State :=
  { s with
    cores := s.cores.map fun c => (c.1, c.2.dropCode asn start len)
    threads := s.threads.map fun p =>
      if (s.spaceOf p.2.uid).1 = asn && p.2.park.isNone && !s.issueQ.contains p.1 then (p.1, p.2.dropCode start len) else p }

/-- ICINV. -/
def execIcinv (o : OpX) (s : State) : Out :=
  run (.icinv o) s fun tk t vals s =>
    let start := vals.getD 0 0
    if !tagGlobal start then .trap s cADDR 0
    else
      let s := s.drainOut tk
      if s.ownPerformed (s.ckOf t.uid) tk then
        .seqR (s.dropCode (s.spaceOf t.uid).1 start.toNat (vals.getD 1 0).toNat)
      else .park s (.performed false false false)

end Sys2Proof.Machine
end

