-- ==== Sys2Proof/Machine/Engine.lean ====
section
/-! DEFINITION. What the engines of a core do at memory: their accesses and errors, counter updates, and optional fields of
cards. -/

namespace Sys2Proof.Machine

/-- An engine at work for an op: its core, the op's unit and thread, the requester kind and number that the error log names
(R79), the tile declarations that the op keeps, the channel (8 for the matrix engine), the op's number, its number of acceptance and what its
reads come after (R213, R264), and whether a walk that fails is the op's own error (R79, R219). -/
structure Agent where
  ck   : Nat
  uid  : Nat
  tk   : Nat
  kind : Nat
  who  : Nat
  ch   : Nat
  kept : AMap (List Word) := []
  pins : List (Nat × Nat) := []
  id   : Nat := 0
  seq  : Nat := 0
  after : Order := {}
  own  : Bool := false

/-- Logs an error of an engine's access (R79). -/
def State.logEng (s : State) (a : Agent) (va : Word) (cause : Nat) : State :=
  s.logCore a.ck { addr := va, cause := cause, kind := a.kind, who := a.who, unit := a.uid % 2 ^ 32, time := s.hub.tmr, dpa := false }

/-- What an engine's access gives: a place, an error with its cause, or a wait for a fault's entry. -/
inductive EngAcc where
  | ok (l : Loc)
  | err (cause : Nat)
  | wait (token : Option Nat)
  deriving DecidableEq, Repr

/-- Translates a global address of an engine (R69, R74, R85); tok is the fault entry the access waited on. -/
def State.engXlate (s : State) (a : Agent) (tok : Option Nat) (va : Word) (write : Bool) : EngAcc × State :=
  match AMap.get? a.pins (va.toNat / 65536) with
  | some base => (.ok (.home (base + va.toNat % 65536)), s)
  | none =>
    if (match tok with
        | some k => s.hub.refused.contains (k, va.toNat / 65536)
        | none => false) then (.err cXLATE, s.logEng a va cXLATE)
    else
      let (asn, root) := s.spaceOf a.uid
      let kind := if write then 5 else 4
      match s.translate asn root va kind with
      | (.ok d _, s) => (.ok (.home d), s)
      | (.fault r, s) =>
        let (k, s) := s.raiseFault (some a.ck) asn va kind r
        (.wait k, s)
      | (.malformed, s) => (.err cXLATE, s.logEng a va cXLATE)
      | (.err c d, s) =>
        (.err c, s.logCore a.ck { addr := Word.ofN d, cause := c, kind := if a.own then a.kind else 3, who := a.who, unit := a.uid % 2 ^ 32, time := s.hub.tmr, dpa := true })

/-- Translates and checks a global address of an engine (R77). -/
def State.engGlobal (s : State) (a : Agent) (tok : Option Nat) (va : Word) (n : Nat) (write : Bool) : EngAcc × State :=
  match s.engXlate a tok va write with
  | (.ok (.home d), s) =>
    match s.targetErr d n (!write) with
    | some c => (.err c, s.logEng a va c)
    | none => (.ok (.home d), s)
  | r => r

/-- The place of n bytes at a window address of an engine's access (R85, R110). -/
def State.engWindow (s : State) (a : Agent) (va : Word) (n : Nat) : Option Loc :=
  let t := bits va.toNat 63 56
  if t == 0xF0 || t == 0xF1 then s.scratchLoc a.uid va n a.kept
  else if t == 0xF2 then
    (if bits va.toNat 55 32 = 0 && bits va.toNat 31 0 + n ≤ s.pvb a.uid then some (ownLoc a.tk (bits va.toNat 31 0)) else none)
  else if t == 0xF4 && bits va.toNat 55 48 == 0 then
    match (s.unit? a.uid).bind fun u => AMap.get? u.resv (bits va.toNat 47 40) with
    | some r => if bits va.toNat 39 0 + n ≤ r.size then some (.obuf a.uid (r.off + bits va.toNat 39 0)) else none
    | none => none
  else none

/-- An engine's access to n bytes that one resolution covers (R77, R85, R101). -/
def State.engAccess (s : State) (a : Agent) (tok : Option Nat) (va : Word) (n : Nat) (write : Bool) : EngAcc × State :=
  if bits va.toNat 63 56 ≤ 1 then s.engGlobal a tok va n write
  else
    match s.engWindow a va n with
    | none => (.err cADDR, s.logEng a va cADDR)
    | some l =>
      match s.locErr l n (!write) with
      | some c => (.err c, s.logEng a va c)
      | none => (.ok l, s)

/-- What the resolution of a run of bytes gives. -/
inductive EngRuns where
  | ok (rs : List Run)
  | err (cause : Nat)
  | wait (token : Option Nat)
  deriving DecidableEq, Repr

/-- Resolves n bytes from an address, run by run; fuel bounds the number of runs. -/
def State.engRuns (s : State) (a : Agent) (tok : Option Nat) (write : Bool) : Nat → Word → Nat → EngRuns × State
  | 0, _, _ => (.ok [], s)
  | fuel + 1, va, n =>
    if n = 0 then (.ok [], s)
    else
      let k := chunk va n
      match s.engAccess a tok va k write with
      | (.err c, s) => (.err c, s)
      | (.wait t, s) => (.wait t, s)
      | (.ok l, s) =>
        match s.engRuns a tok write fuel (va + Word.ofN k) (n - k) with
        | (.ok rs, s) => (.ok ({ loc := l, n := k } :: rs), s)
        | r => r

/-- Whether a scratchpad write comes before an engine op's reads: one of the op's thread, one of its group before the thread's last OFENCE,
or one that an acquire of the thread orders before that OFENCE (R213, R264). -/
def Agent.ordered (a : Agent) (e : Unfenced) : Bool :=
  (e.tk == a.tk && e.seq < a.seq) || (e.tk / 1024 == a.uid && e.seq < a.after.fence) || e.seq < a.after.facq
/-- The byte of a scratchpad that an engine op reads: a write of another thread that nothing orders before it may be seen or
not (R213, R264; log 66). -/
def TUnit.engByte (u : TUnit) (a : Agent) (k off : Nat) : Byte :=
  let open_ := (((u.unfenced.filter fun e => e.off == off).reverse).takeWhile fun e => !a.ordered e).reverse
  match open_[Config.stale k off % (open_.length + 1)]? with
  | some e => e.old
  | none => u.scr.byte off
/-- The byte that an engine op reads at a place, at its home (R98); an output of another op or job whose window is open is undefined
(R268). -/
def State.engByte (s : State) (a : Agent) (l : Loc) : Byte :=
  if s.openDst a.id a.seq a.after l then Config.undefByte (2 ^ 65 + s.seq) l.off
  else match l with
    | .scratch u o => (match s.unit? u with
      | some x => x.engByte a s.seq o
      | none => 0)
    | _ => s.byteAt (s.specOf a.uid) l
/-- The bytes of resolved runs, as an engine op reads them (R98, R264). -/
def State.readRuns (s : State) (a : Agent) (rs : List Run) : List Byte :=
  rs.flatMap fun r => (upFrom 0 r.n).map fun k => s.engByte a (r.loc.add k)

/-- What an engine has written to a scratchpad no engine reads older than that (R265, R267). -/
def State.refence (s : State) (l : Loc) (n : Nat) : State :=
  match l with
  | .scratch u o => s.modUnit u fun x => { x with unfenced := x.unfenced.filter fun e => !(o ≤ e.off && e.off < o + n) }
  | _ => s

/-- An engine writes bytes at a place (R98, R331); false where a speculation buffer has no room. -/
def State.engWrite (s : State) (a : Agent) (w : Writer) (l : Loc) (bs : List Byte) : Bool × State :=
  let spec := s.specOf a.uid
  match l with
  | .home d =>
    if spec ≠ 0 then
      if s.specHolds spec d bs.length then (true, (s.writeAt spec l bs).noteWrite w s.seq l bs.length)
      else (false, s)
    else
      let (q, s) := s.takeSeq
      let s := (s.writeAt 0 l bs).noteWrite w q l bs.length
      (true, s.offWrite q a.tk 0 d bs (some (a.ck, a.ch)) a.id)
  | _ => (true, ((s.writeAt 0 l bs).refence l bs.length).noteWrite w s.seq l bs.length)

/-- An engine writes bytes over resolved runs. -/
def State.engWriteRuns (s : State) (a : Agent) (w : Writer) : List Run → List Byte → Bool × State
  | [], _ => (true, s)
  | r :: rs, bs =>
    match s.engWrite a w r.loc (bs.take r.n) with
    | (false, s) => (false, s)
    | (true, s) => s.engWriteRuns a w rs (bs.drop r.n)

/-- The scratchpad line of a run whose presence bit is clear, but for lines that the op itself cleared (R113). -/
def State.absentLine (s : State) (own : List (Nat × Nat)) (r : Run) : Option (Nat × Nat) :=
  match r.loc with
  | .scratch u o =>
    match s.unit? u with
    | none => none
    | some x =>
      ((upFrom (o / 128) ((o + r.n + 127) / 128 - o / 128)).find? fun l => x.absent.contains l && !own.contains (u, l)).map fun l => (u, l)
  | _ => none
/-- The first such line of several runs. -/
def State.absentOf (s : State) (own : List (Nat × Nat)) (rs : List Run) : Option (Nat × Nat) :=
  rs.foldl (fun acc r => acc.or (s.absentLine own r)) none

/-- Whether every off-package write of an engine's channel has been delivered (R260, R266). -/
def State.engDelivered (s : State) (ck ch : Nat) : Bool := !(s.offw.any fun w => w.eng == some (ck, ch))

/-- Adds an increment to a counter at its home, as a release of an engine (R95): an error is logged, and nothing more. -/
def State.counterAdd (s : State) (a : Agent) (va : Word) (l : Loc) (inc csc : Nat) : State :=
  match s.locErr l 8 true with
  | some c => s.logEng a va c
  | none =>
    let v := leVal (s.bytesAt (s.specOf a.uid) l 8) + inc
    match s.engWrite a (.op 0 s.seq a.after) l (leBytes 8 v) with
    | (true, s) => if csc ≤ 1 then s.tagLine a.ck l else s
    | (false, s) => s.logEng a va cSPEC

/-- The address checks of a counter: none, or a global or scratchpad address of 8-byte alignment (R94). -/
def ctrOk (va : Word) : Bool := va = 0 || ((tagGlobal va || tagScratch va) && va.toNat % 8 == 0)

/-! ## Optional fields (R86) -/

/-- What the headers of optional fields give: the fields of known ids, or a refusal. -/
inductive Fields where
  | ok (fs : List (Nat × List Byte))
  | bad
  deriving DecidableEq, Repr

/-- Reads n optional fields of a card of the given size at an offset, up to +2047, one header and body after another: known
names the ids of the device, used those whose body the card uses, seen the ids before. A body that is not used is skipped (R86, R203). -/
def readFields (tk : Nat) (t : Thread) (va : Word) (known used : Nat → Bool) :
    Nat → Nat → List (Nat × List Byte) → List Nat → State → (Fields → State → Res) → Res
  | 0, _, fs, _, s, k => k (.ok fs) s
  | n + 1, off, fs, seen, s, k =>
    if off + 8 > 2048 then k .bad s
    else
      readWords tk t 1 (va + Word.ofN off) [] s fun hd s =>
        let h := field hd 0 8
        let id := bits h 15 0
        let len := bits h 23 17
        if off + 8 + 8 * len > 2048 then k .bad s
        else if seen.contains id || (bits h 16 16 = 1 && !known id) then k .bad s
        else
          readWords tk t (if used id then len else 0) (va + Word.ofN (off + 8)) [] s fun body s =>
            readFields tk t va known used n (off + 8 + 8 * len) (if used id then fs ++ [(id, body)] else fs) (seen ++ [id]) s k

end Sys2Proof.Machine
end

