-- ==== Sys2Proof/Machine/Copy.lean ====
section
/-! DEFINITION. The copy channels: acceptance of CPY and GATH, rows and elements, the probe pass, the watchdog and the end of an
op. -/

namespace Sys2Proof.Machine

/-! ## Ops of a channel -/

/-- The op of an id on a core. -/
def State.op? (s : State) (ck id : Nat) : Option CopyOp := (s.core ck).chans.flatten.find? fun o => o.id == id
/-- Changes an op. -/
def State.modOp (s : State) (ck id : Nat) (f : CopyOp → CopyOp) : State :=
  s.modCore ck fun c => { c with chans := c.chans.map fun ops => ops.map fun o => if o.id = id then f o else o }
/-- The channel at work for an op. -/
def CopyOp.agent (o : CopyOp) (ck : Nat) : Agent :=
  { ck := ck, uid := o.uid, tk := o.tk, kind := 1, who := o.ch, ch := o.ch, kept := o.decls, pins := o.pins, id := o.id, seq := o.seq,
    after := o.after }
/-- The same as one that writes. -/
def CopyOp.writer (o : CopyOp) : Writer := .op o.id o.seq o.after

/-- Whether every earlier op of its channel has begun (R82). -/
def State.mayBegin (s : State) (ck : Nat) (o : CopyOp) : Bool :=
  (((s.core ck).chans.getD o.ch []).takeWhile fun x => x.id != o.id).all fun x => x.opened || x.stopped
/-- An op whose turn it is begins (R82). -/
def State.openOp (s : State) (ck : Nat) (o : CopyOp) : State :=
  if o.opened then s else s.modOp ck o.id fun o => { o with opened := true }

/-- The rows or elements of an op that are still to be transferred. -/
def CopyOp.left (o : CopyOp) : List Nat :=
  (upFrom o.start (o.card.count - o.start)).filter fun q =>
    !(o.landed.contains q || o.skip.contains q || o.failed.any fun x => x.1 == q)

/-- The data phase of an op is over where nothing is left to be transferred, and the probe pass of one on channel 7 is made: its presence
bits are set (R82, R99, R102). -/
def State.opSettle (s : State) (ck id : Nat) : State :=
  match s.op? ck id with
  | none => s
  | some o =>
    if o.stopped || !o.left.isEmpty || (o.ch == 7 && !o.probed) then s
    else (s.modOp ck id fun o => { o with stopped := true }).setAllPresent ck id

/-- An op stops: destination bytes of a copy's rows that did not land are undefined, and its presence bits are set (R92,
R95); a timeout is its cause whatever came before (R91, R103). A row that waits on a fault or for a line at the copy's first error is not in
flight: the manual does not say, and the model takes it for one that has not started, whose bytes are undefined (DESIGN CHOICE;
log 84). -/
def State.opStop (s : State) (ck id code cause : Nat) : State :=
  match s.op? ck id with
  | none => s
  | some o =>
    if o.stopped then s
    else
      let runs := match o.card with
        | .copy c => o.left.flatMap fun q => (o.card.dstRows (s.esize o.uid) o.mfail q).flatMap fun va =>
            s.quietRuns o.uid o.tk o.decls (c.xb + 1) va c.xb
        | .gath _ => []
      let s := runs.foldl (fun s r => s.forgetAs (s.specOf o.uid) r.loc r.n) s
      let s := s.modOp ck id fun o => { o with stopped := true, code := code, cause := if code = 2 || o.cause = 0 then cause else o.cause, waitOn := [] }
      s.setAllPresent ck id

/-- A write of an op finds the speculation buffer full: the op ends with CODE 1 and CAUSE 0x10, whatever failed before (R331). -/
def State.opFull (s : State) (ck : Nat) (o : CopyOp) (va : Word) : State :=
  ((s.logEng (o.agent ck) va cSPEC).modOp ck o.id fun o => { o with failed := [], cause := 0 }).opStop ck o.id 1 cSPEC

/-- A row, element or other access of an op waits for a fault's entry. -/
def State.opToken (s : State) (ck id key : Nat) (tok : Option Nat) : State :=
  s.modOp ck id fun o => { o with toks := match tok with | some k => AMap.set o.toks key k | none => AMap.del o.toks key }
/-- A row, element or other access of an op waits for a scratchpad line (R103, R113). -/
def State.opWait (s : State) (ck id key : Nat) (line : Nat × Nat) : State :=
  let now := s.hub.tmr
  s.modOp ck id fun o =>
    { o with waitOn := (o.waitOn.filter fun x => x.row != key) ++ [{ row := key, uid := line.1, line := line.2 }],
             waitFrom := if o.waitOn.isEmpty then now else o.waitFrom }

/-- The key of the waits of an op that belong to no row: its mask, its counter, its status word, its probe pass. -/
def keyInit : Nat := 2 ^ 64
def keyCtr : Nat := 2 ^ 64 + 1
def keyStat : Nat := 2 ^ 64 + 2
def keyProbe : Nat := 2 ^ 65

/-! ## Acceptance -/

/-- A copy card from its 64 bytes and its STATUS address (R83). -/
def copyCardOf (bs : List Byte) (stat : Option Word) : CopyCard :=
  { src := Word.ofN (field bs 0 8), dst := Word.ofN (field bs 8 8), xb := field bs 16 4, yc := field bs 20 4, zc := field bs 24 4,
    mc := field bs 28 4 % 2 == 1, res := field bs 28 4 / 2 % 2 == 1, sys_ := s32 (field bs 32 4), szs := s32 (field bs 36 4),
    dys := s32 (field bs 40 4), dzs := s32 (field bs 44 4), ctr := Word.ofN (field bs 48 8), inc := field bs 56 4,
    mask := field bs 60 1, csc := field bs 61 1, stat := stat }
/-- A gather card from its 64 bytes (R88). -/
def gathCardOf (bs : List Byte) : GathCard :=
  { idx := Word.ofN (field bs 0 8), src := Word.ofN (field bs 8 8), dst := Word.ofN (field bs 16 8), rb := field bs 24 4,
    cnt := field bs 28 4, bnd := field bs 32 4, srs := field bs 36 4, drs := field bs 40 4, res := field bs 44 4 % 2 == 1,
    csc := field bs 44 4 / 2 % 8, ctr := Word.ofN (field bs 48 8), cma := Word.ofN (field bs 56 8) }

/-- The STATUS address that a copy card's optional field gives (R87). -/
def Fields.stat : Fields → Option Word
  | .ok ((_, b) :: _) => some (Word.ofN (field b 0 8))
  | _ => none

/-- Whether the offsets lo up to hi of a window lie within it (R55, R85, R110); the window is that of an address. -/
def State.extentOk (s : State) (uid : Nat) (va : Word) (lo hi : Int) : Bool :=
  let x := va.toNat
  let t := bits x 63 56
  if lo < 0 then false
  else if t == 0xF0 || t == 0xF1 then
    let m := if t = 0xF1 then bits x 55 53 else ((s.unit? uid).map fun u => u.idx % u.esize).getD 0
    if bits x 39 19 ≠ 0 || (if t = 0xF1 then bits x 52 41 ≠ 0 else bits x 55 41 ≠ 0) then false
    else
      match (s.member uid m).bind s.unit? with
      | none => false
      | some u =>
        if bits x 40 40 = 0 then hi ≤ u.scrSize
        else
          u.decls.any (fun d => let b := bits d.toNat 18 8 * 256
            bits d.toNat 63 63 == 1 && b ≤ lo && hi ≤ b + (bits d.toNat 23 19 + 1) * 256) &&
          (upFrom (lo.toNat / 8) ((hi.toNat + 7) / 8 - lo.toNat / 8)).all fun w =>
            match skewMap u.decls (8 * w) with
            | some p => p + 8 ≤ u.scrSize
            | none => false
  else if t = 0xF2 then bits x 55 32 = 0 && hi ≤ s.pvb uid
  else if t = 0xF4 then
    bits x 55 48 = 0 && (match (s.unit? uid).bind fun u => AMap.get? u.resv (bits x 47 40) with
      | some r => hi ≤ r.size
      | none => true)
  else true
/-- The offset of a window address in its window. -/
def windowOff (va : Word) : Nat :=
  let x := va.toNat
  let t := bits x 63 56
  if t = 0xF2 then bits x 31 0 else if t = 0xF4 then bits x 39 0 else bits x 18 0

/-- Whether a strided extent lies within its window: n bytes at index times stride for indices up to a last one, in two
dimensions (R85). -/
def State.strided (s : State) (uid : Nat) (va : Word) (n last1 last2 : Nat) (st1 st2 : Int) : Bool :=
  let o : Int := windowOff va
  let a : Int := last1 * st1
  let b : Int := last2 * st2
  s.extentOk uid va (o + min 0 a + min 0 b) (o + max 0 a + max 0 b + n)

/-- Whether the handle of a destination is not held by the group, or releasing (R85, R201). -/
def State.handleBad (s : State) (uid : Nat) (va : Word) : Bool :=
  bits va.toNat 63 56 == 0xF4 &&
    (match (s.unit? uid).bind fun u => AMap.get? u.resv (bits va.toNat 47 40) with
      | some r => r.releasing
      | none => true)

/-- A status or mask address: a tag of R54 but 0xF2 and 0xF4, aligned to 8 bytes (R87, R88). -/
def statOk (va : Word) : Bool := (tagGlobal va || tagScratch va) && va.toNat % 8 == 0

/-- The lowest reason among those that apply, 0 for none. -/
def lowest (rs : List (Nat × Bool)) : Nat := ((rs.filter (·.2)).map (·.1)).foldl (fun m r => if m = 0 || r < m then r else m) 0

/-- The reason that refuses a copy card, 0 for none (R97); bs is its fixed part. A counter scope above 7, which the manual does not list,
is refused as 5 to 7 are (DESIGN CHOICE; log 73); where no byte moves, a window has no extent that could leave its allocation (DESIGN
CHOICE; log 75). -/
def State.copyReason (s : State) (uid : Nat) (bs : List Byte) (fs : Fields) (c : CopyCard) : Nat :=
  let badFields := match fs with
    | .bad => true
    | .ok l => l.any fun f => f.2.length != 8
  let empty := c.xb = 0 || c.yc = 0 || c.zc = 0
  let own (va : Word) (y z : Int) := empty || s.strided uid va c.xb (c.yc - 1) (c.zc - 1) y z
  let window := !(own c.src c.sys_ c.szs) || !(own c.dst c.dys c.dzs) ||
    (c.mc && bits c.dst.toNat 63 56 == 0xF0 && ((upFrom 0 8).any fun k => bits c.mask k k == 1 && k < s.esize uid && !(own (memberVa k c.dst) c.dys c.dzs)))
  lowest
    [(1, field bs 63 1 != 1 || field bs 28 4 / 4 != 0), (2, badFields),
     (3, !ctrOk c.ctr || c.csc > 4 || (match c.stat with | some a => !statOk a | none => false)),
     (4, !tagKnown c.src || !tagKnown c.dst || bits c.src.toNat 63 56 == 0xF4 || window), (5, s.handleBad uid c.dst),
     (6, c.mc && (bits c.dst.toNat 63 56 != 0xF0 || c.mask == 0)), (7, c.res && c.stat.isNone)]

/-- The reason that refuses a gather card, 0 for none (R97); where no byte moves, a window has no extent that could leave its allocation
(DESIGN CHOICE; log 75). -/
def State.gathReason (s : State) (uid : Nat) (bs : List Byte) (c : GathCard) : Nat :=
  let own (va : Word) (n last st : Nat) := s.strided uid va n last 0 st 0
  let window := !(c.cnt = 0 || own c.idx (4 * c.cnt) 0 0) || !(c.cnt = 0 || c.rb = 0 || c.bnd = 0 || own c.src c.rb (c.bnd - 1) c.srs) ||
    !(c.cnt = 0 || c.rb = 0 || own c.dst c.rb (c.cnt - 1) c.drs)
  lowest
    [(1, field bs 44 4 / 16 != 0), (3, !ctrOk c.ctr || c.csc > 4),
     (4, !tagKnown c.src || !tagKnown c.dst || !tagKnown c.idx || bits c.src.toNat 63 56 == 0xF4 || bits c.idx.toNat 63 56 == 0xF4 || window),
     (5, s.handleBad uid c.dst), (8, c.cnt > 4096 || c.idx.toNat % 4 != 0 || !statOk c.cma)]

/-- The scratchpad lines that runs touch (R99). -/
def linesOf (rs : List Run) : List (Nat × Nat) :=
  (rs.flatMap fun r => match r.loc with
    | .scratch u o => if r.n = 0 then [] else (upFrom (o / 128) ((o + r.n + 127) / 128 - o / 128)).map fun l => (u, l)
    | _ => []).eraseDups

/-- The scratchpad lines of an op's destination are absent from now on (R99). -/
def State.clearLines (s : State) (lines : List (Nat × Nat)) : State :=
  lines.foldl (fun s l => s.modUnit l.1 fun u => if u.absent.contains l.2 then u else { u with absent := u.absent ++ [l.2] }) s

/-- The tile declarations of every member of a unit's ensemble (R109). -/
def State.keptDecls (s : State) (uid : Nat) : AMap (List Word) :=
  (upFrom 0 (s.esize uid)).filterMap fun k => (s.member uid k).bind fun m => (s.unit? m).map fun u => (m, u.decls)

/-- The members outside the ensemble that a multicast names are recorded and logged (R101). -/
def State.opOutside (s : State) (ck : Nat) (o : CopyOp) : State :=
  match o.card with
  | .gath _ => s
  | .copy c =>
    let out := if c.mc then (upFrom 0 8).filter fun k => bits c.mask k k == 1 && s.esize o.uid ≤ k else []
    out.foldl (fun s k => (s.logEng (o.agent ck) c.dst cADDR).modOp ck o.id fun o =>
      { o with mfail := o.mfail ||| 2 ^ k, cause := if o.cause = 0 then cADDR else o.cause }) s

/-- An op takes the last place of its channel (R80, R98, R99); where its destination meets that of an op in flight, the bytes
or whose window is open for it become undefined; err is the cause that stops the op at once. The caller gives the op its tile
declarations and what its reads come after. -/
def State.acceptOp (s : State) (ck : Nat) (o : CopyOp) (err : Option Nat := none) : State :=
  let (q, s) := s.takeSeq
  let o := { o with id := q, seq := q }
  let dst := s.opDst o
  let lines := linesOf dst
  let others := s.windowOps.filter fun x => !o.after.past q x.closed
  let taint := o.taint ++ dst.flatMap fun r => (others.flatMap s.dstNow).filterMap fun x => (r.loc.meet r.n x.loc x.n).map fun m =>
    ({ loc := r.loc.add m.1, n := m.2 } : Run)
  let o := { o with dst := dst, src := s.opSrc o, index := s.opIndex o, cleared := lines, taint := taint }
  let s := dst.foldl (fun s r => others.foldl (fun s x => s.spoilOp x r.loc r.n false) s) s
  let s := s.modCore ck fun c => { c with chans := setAt c.chans o.ch (c.chans.getD o.ch [] ++ [o]) }
  let s := (s.clearLines lines).opOutside ck o
  match err with
  | some e => s.opStop ck q 1 e
  | none => s.opSettle ck q

/-- The thread leaves the queue of those that wait for a channel or for the matrix engine; whether it was the first there. -/
def State.leaveQueue (s : State) (ck ch tk : Nat) : Bool × State :=
  let q := (s.core ck).waitq.getD ch []
  (q.head? == some tk, s.modCore ck fun c => { c with waitq := setAt c.waitq ch (q.filter (· != tk)) })

/-- The thread keeps its turn in a queue: it is the first that a place goes to (R81). -/
def State.holdPlace (s : State) (ck ch tk : Nat) : State :=
  s.modCore ck fun c => { c with waitq := setAt c.waitq ch (tk :: (c.waitq.getD ch []).filter (· != tk)) }
/-- The thread keeps what it offers to a queue while it is parked (R96, R214). -/
def State.setOffer (s : State) (tk : Nat) (x : Offer) : State := s.modThread tk fun t => { t with offer := some x }

/-- A place in a queue of 32, or a wait for one in the order of arrival with what the thread offers (R81, R96, R214). -/
def withPlace (ck ch tk used : Nat) (first : Bool) (p : Park) (x : Offer) (s : State) (k : State → Res) : Res :=
  let q := (s.core ck).waitq.getD ch []
  if used < 32 && (first || q.isEmpty) then k s
  else .park ((s.modCore ck fun c => { c with waitq := setAt c.waitq ch (if first then tk :: q else q ++ [tk]) }).setOffer tk x) p

/-- The progress that a resumed copy reads from its status word (R93): the first row, the cause of an error, or a wait for a fault's entry
or for a scratchpad line. -/
inductive Prog where
  | ok (start : Nat)
  | err (cause : Nat)
  | wait (token : Option Nat)
  | absent (uid line : Nat)

/-- PROG of a copy's status word; a scratchpad line whose presence bit is clear is waited for, before the acceptance (R93, R113; DESIGN
CHOICE, log 77). -/
def State.readProg (s : State) (a : Agent) (tok : Option Nat) (c : CopyCard) : Prog × State :=
  match c.res, c.stat with
  | true, some va =>
    match s.engAccess a tok va 8 false with
    | (.ok l, s) =>
      (match s.absentLine [] { loc := l, n := 8 } with
      | some x => (.absent x.1 x.2, s)
      | none => (.ok (field (s.readRuns a [{ loc := l, n := 8 }]) 4 4), s))
    | (.err e, s) => (.err e, s)
    | (.wait k, s) => (.wait k, s)
  | _, _ => (.ok 0, s)

/-- A thread's earlier writes perform, and those of its core that it has read: an op that it accepts comes after them (R98). -/
def State.settleFor (s : State) (ck tk : Nat) : State := (s.settle ck tk).performWhere ck (·.seen)

/-- A checked card is accepted into a channel (R96). An error that its PROG meets ends the op, which has been accepted, with that cause
(R93; DESIGN CHOICE, log 76); where the read of PROG has to wait, the thread keeps its turn. -/
def acceptCard (ck tk : Nat) (t : Thread) (ch : Nat) (card : Card) (first : Bool) (s : State) : Res :=
  withPlace ck ch tk ((s.core ck).chans.getD ch []).length first (.chan ch) (.card card) s fun s =>
    let s := s.settleFor ck tk
    let o : CopyOp := { id := 0, tk := tk, uid := t.uid, ch := ch, seq := s.seq, card := card, decls := s.keptDecls t.uid, after := t.after }
    match card with
    | .gath _ => .seqR (s.acceptOp ck o)
    | .copy c =>
      match s.readProg (o.agent ck) t.ftok c with
      | (.wait k, s) => parkFault ((s.holdPlace ck ch tk).setOffer tk (.card card)) tk k
      | (.absent u l, s) => .park ((s.holdPlace ck ch tk).setOffer tk (.card card)) (.presence u l)
      | (.err e, s) => .seqR (s.acceptOp ck o (some e))
      | (.ok n, s) => .seqR (s.acceptOp ck { o with start := n })

/-- Whether a thread's launch may use a channel (R102). -/
def State.channelOk (s : State) (uid ch : Nat) : Bool := ch != 7 || ((s.launchOf uid).map (·.desc.dbgp)).getD false

/-- An instruction that an engine accepts waits, not ready, while a UWR of its thread to a tile declaration is in flight: the acceptance
reads them (R109, R141). -/
def declsReady (tk : Nat) (t : Thread) (s : State) (k : Res) : Res :=
  if s.declsInFlight tk t.uid then .hold (s.restorePorts tk t.ports) else k

/-- CPY (R96). -/
def execCpy (o : OpI 8) (s : State) : Out :=
  run (.cpy o) s fun tk t vals s => declsReady tk t s <|
    let ck := s.ckOf t.uid
    let (first, s) := s.leaveQueue ck o.n.1 tk
    match t.offer with
    | some (.card c) => acceptCard ck tk t o.n.1 c first s
    | _ =>
    if !s.channelOk t.uid o.n.1 then .trap s cPRIV 0
    else
      let va := vals.getD 0 0
      readCard tk t 8 va s fun bs s =>
        readFields tk t va (· == 1) (· == 1) (field bs 62 1) 64 [] [] s fun fs s =>
          let c := copyCardOf bs fs.stat
          let r := s.copyReason t.uid bs fs c
          if r ≠ 0 then .trap s cENGINE r else acceptCard ck tk t o.n.1 (.copy c) first s

/-- GATH (R96). -/
def execGath (o : OpI 8) (s : State) : Out :=
  run (.gath o) s fun tk t vals s => declsReady tk t s <|
    let ck := s.ckOf t.uid
    let (first, s) := s.leaveQueue ck o.n.1 tk
    match t.offer with
    | some (.card c) => acceptCard ck tk t o.n.1 c first s
    | _ =>
    if !s.channelOk t.uid o.n.1 then .trap s cPRIV 0
    else
      readCard tk t 8 (vals.getD 0 0) s fun bs s =>
        let c := gathCardOf bs
        let r := s.gathReason t.uid bs c
        if r ≠ 0 then .trap s cENGINE r else acceptCard ck tk t o.n.1 (.gath c) first s

/-- Whether a thread waits for a place in a queue, and for nothing else. -/
def State.waitsPlace (s : State) (tk : Nat) : Bool :=
  match (s.thread? tk).bind (·.park) with
  | some (.chan _) => true
  | some .matrix => true
  | _ => false

/-- ENGINE_QUEUE_ACCEPT: a place is free, and the first thread that waits for the channel offers its card again (R81). -/
def execEngineQueueAccept (ck ch : Nat) (s : State) : Out :=
  let c := s.core ck
  match c.waitq.getD ch [] with
  | tk :: _ => if ch < 8 && (c.chans.getD ch []).length < 32 && s.waitsPlace tk then .next (s.reissue tk) else .next s
  | [] => .next s

/-! ## Rows and elements -/

/-- Runs side by side: pieces that lie in one run of each list; fuel bounds their number. -/
def zipRuns (row : Nat) : Nat → List Run → List Run → List Piece
  | 0, _, _ => []
  | fuel + 1, a :: as, b :: bs =>
    let n := min a.n b.n
    { row := row, src := a.loc, dst := [b.loc], n := n } ::
      zipRuns row fuel (if a.n = n then as else { loc := a.loc.add n, n := a.n - n } :: as)
        (if b.n = n then bs else { loc := b.loc.add n, n := b.n - n } :: bs)
  | _ + 1, _, _ => []

/-- The parts of new pieces whose bytes R84, R98 and R113 leave undefined: bytes that the op writes twice, bytes that depend
on one that it also writes, bytes of a line that it cleared itself, and bytes that another agent's access met. -/
def CopyOp.undefinedParts (o : CopyOp) (new : List Piece) : List Run :=
  let runOf (l : Loc) (m : Nat × Nat) : Run := { loc := l.add m.1, n := m.2 }
  let cleared := o.cleared.map fun c => ({ loc := .scratch c.1 (128 * c.2), n := 128 } : Run)
  let dep (p : Piece) (l : Loc) (n : Nat) : List Run := match p.src.meet p.n l n with
    | some m => p.dst.map fun d => runOf d m
    | none => []
  let twice := new.flatMap fun p => p.dst.flatMap fun d => o.pieces.flatMap fun q => q.dst.filterMap fun e => (d.meet p.n e q.n).map (runOf d)
  let readNew := new.flatMap fun p => (o.pieces ++ new).flatMap fun q => q.dst.flatMap fun e => dep p e q.n ++
    (match e.meet q.n p.src p.n with | some m => [runOf e m] | none => [])
  let readOld := o.pieces.flatMap fun p => new.flatMap fun q => q.dst.flatMap fun e => dep p e q.n ++
    (match e.meet q.n p.src p.n with | some m => [runOf e m] | none => [])
  let own := new.flatMap fun p => cleared.flatMap fun c => dep p c.loc c.n
  let met := o.taint.flatMap fun r => new.flatMap fun p => dep p r.loc r.n ++ p.dst.filterMap fun d => (d.meet p.n r.loc r.n).map (runOf d)
  let idx := new.flatMap fun p =>
    if o.index.any (fun x => x.1 == p.row && (o.taint ++ cleared).any fun r => r.loc.overlap r.n x.2.loc x.2.n) then
      p.dst.map fun d => ({ loc := d, n := p.n } : Run)
    else []
  twice ++ readNew ++ readOld ++ own ++ met ++ idx

/-- A row or element has landed: its pieces are kept, and each scratchpad line that no other row still fills is present
(R99). -/
def State.opLanded (s : State) (ck id row : Nat) (new : List Piece) : State :=
  match s.op? ck id with
  | none => s
  | some o =>
    let s := (o.undefinedParts new).foldl (fun s r => s.forgetAs (s.specOf o.uid) r.loc r.n) s
    let s := s.modOp ck id fun o => { o with landed := o.landed ++ [row], pieces := o.pieces ++ new }
    match s.op? ck id with
    | none => s
    | some o =>
      let mine := linesOf (new.flatMap fun p => p.dst.map fun d => { loc := d, n := p.n })
      let others := linesOf (o.left.flatMap fun q => (o.card.dstRows (s.esize o.uid) o.mfail q).flatMap fun va =>
        s.quietRuns o.uid o.tk o.decls (o.card.rowBytes + 1) va o.card.rowBytes)
      let done := mine.filter fun l => o.cleared.contains l && !others.contains l
      let s := s.modOp ck id fun o => { o with cleared := o.cleared.filter fun l => !done.contains l }
      (done.foldl (fun s l => s.setPresent l.1 [l.2]) s).opSettle ck id

/-- The deliveries of a row: for each destination the member it goes to and its runs, with the members that failed. -/
structure Deliver where
  runs : List (Nat × List Run) := []
  bad  : List (Nat × Nat) := []
  wait : Option (Option Nat) := none

/-- Resolves the destinations of a row. -/
def State.deliveries (s : State) (a : Agent) (tok : Option Nat) (n : Nat) : List (Nat × Word) → Deliver → Deliver × State
  | [], d => (d, s)
  | (m, va) :: rest, d =>
    if !oneTag va n then (s.logEng a va cADDR).deliveries a tok n rest { d with bad := d.bad ++ [(m, cADDR)] }
    else
      match s.engRuns a tok true (n + 1) va n with
      | (.ok rs, s) => s.deliveries a tok n rest { d with runs := d.runs ++ [(m, rs)] }
      | (.err c, s) => s.deliveries a tok n rest { d with bad := d.bad ++ [(m, c)] }
      | (.wait k, s) => ({ d with wait := some k }, s)

/-- Writes the bytes of a row to its destinations; false where a speculation buffer has no room. -/
def State.writeAll (s : State) (a : Agent) (w : Writer) (bs : List Byte) : List (Nat × List Run) → Bool × State
  | [] => (true, s)
  | (_, rs) :: rest =>
    match s.engWriteRuns a w rs bs with
    | (true, s) => s.writeAll a w bs rest
    | r => r

/-- A source is resolved: its runs with no absent line, or what else happens to the row. -/
inductive Source where
  | ok (rs : List Run)
  | err (cause : Nat)
  | wait
  deriving DecidableEq, Repr

/-- Resolves n source bytes of a row or other access of an op; a wait is recorded in the op. -/
def State.opSource (s : State) (ck : Nat) (o : CopyOp) (key : Nat) (va : Word) (n : Nat) : Source × State :=
  let a := o.agent ck
  if !oneTag va n then (.err cADDR, s.logEng a va cADDR)
  else
    match s.engRuns a (AMap.get? o.toks key) false (n + 1) va n with
    | (.err c, s) => (.err c, s)
    | (.wait k, s) => (.wait, s.opToken ck o.id key k)
    | (.ok rs, s) =>
      match s.absentOf o.cleared rs with
      | some l => (.wait, s.opWait ck o.id key l)
      | none => (.ok rs, s)

/-- COPY_ROW_TRANSFER (R84, R92, R101). -/
def execCopyRowTransfer (ck id row : Nat) (s : State) : Out :=
  match s.op? ck id with
  | none => .next s
  | some o =>
    match o.card with
    | .gath _ => .next s
    | .copy c =>
      if o.stopped || !o.left.contains row || (o.ch == 7 && !o.probed) || !s.mayBegin ck o then .next s
      else
        let s := s.openOp ck o
        let a := o.agent ck
        match s.opSource ck o row (c.srcRow row) c.xb with
        | (.wait, s) => .next s
        | (.err e, s) => .next (s.opStop ck id 1 e)
        | (.ok src, s) =>
          let dsts := if c.mc then (c.members (s.esize o.uid) o.mfail).map fun m => (m, memberVa m (c.dstRow row)) else [(8, c.dstRow row)]
          match s.deliveries a (AMap.get? o.toks row) c.xb dsts {} with
          | (d, s) =>
            match d.wait with
            | some k => .next (s.opToken ck id row k)
            | none =>
              if !c.mc && !d.bad.isEmpty then .next (s.opStop ck id 1 ((d.bad.map (·.2)).headD 0))
              else
                let s := s.modOp ck id fun o => { o with
                  mfail := d.bad.foldl (fun m x => m ||| 2 ^ x.1) o.mfail
                  cause := if o.cause = 0 then (d.bad.map (·.2)).headD 0 else o.cause }
                match s.writeAll a o.writer (s.readRuns a src) d.runs with
                | (false, s) => .next (s.opFull ck o (c.dstRow row))
                | (true, s) => .next (s.opLanded ck id row (d.runs.flatMap fun r => zipRuns row (2 * c.xb + 2) src r.2))

/-- The bytes of a completion mask, as runs to be written; none while they wait, after which the state records it (R90). -/
def State.maskRuns (s : State) (ck : Nat) (o : CopyOp) (c : GathCard) (off n : Nat) (write : Bool) : EngRuns × State :=
  match s.engRuns { (o.agent ck) with own := true } (AMap.get? o.toks keyInit) write (n + 1) (c.cma + Word.ofN (8 + off)) n with
  | (.wait k, s) => (.wait k, s.opToken ck o.id keyInit k)
  | r => r

/-- The bits of a byte list that are set, as positions. -/
def setBits (bs : List Byte) : List Nat :=
  (upFrom 0 (8 * bs.length)).filter fun i => bits ((bs.getD (i / 8) 0).toNat) (i % 8) (i % 8) == 1
/-- A byte list with bit i set or cleared. -/
def putBit (bs : List Byte) (i : Nat) (v : Bool) : List Byte :=
  let b := (bs.getD (i / 8) 0).toNat
  let m := 2 ^ (i % 8)
  let b := if v then b ||| m else if bits b (i % 8) (i % 8) = 1 then b - m else b
  setAt bs (i / 8) (BitVec.ofNat 8 b)

/-- Whether an op has itself cleared the presence bit of a line of some runs: what it writes there from what it read is undefined (R113). -/
def CopyOp.clearedOf (o : CopyOp) (rs : List Run) : Bool := (linesOf rs).any o.cleared.contains
/-- Writes bytes of a completion mask, of which some depend on bytes that were read: those are undefined where the op itself cleared the
line (R90, R113). -/
def State.maskWrite (s : State) (ck : Nat) (o : CopyOp) (rs : List Run) (bs : List Byte) (dep : List Run) : Bool × State :=
  match s.engWriteRuns (o.agent ck) o.writer rs bs with
  | (true, s) => (true, if o.clearedOf rs then dep.foldl (fun s r => s.forgetAs (s.specOf o.uid) r.loc r.n) s else s)
  | r => r
/-- The last byte of some runs. -/
def lastByte (rs : List Run) : List Run :=
  match rs.getLast? with
  | some r => [{ loc := r.loc.add (r.n - 1), n := 1 }]
  | none => []
/-- A resumed gather has read its mask. Where it cleared a line of the mask itself, the bytes of every element whose bit lies there, and how
many bits are set, are undefined (R113). -/
def State.maskRead (s : State) (ck : Nat) (o : CopyOp) (c : GathCard) (rs : List Run) (old : List Byte) : State :=
  let s := s.modOp ck o.id fun o => { o with begun := true, skip := (setBits old).filter (· < c.cnt) }
  if !o.clearedOf rs then s
  else
    let runs := (upFrom 0 c.cnt).flatMap fun i => s.quietRuns o.uid o.tk o.decls (c.rb + 1) (o.card.dstRow i) c.rb
    (runs.foldl (fun s r => s.forgetAs (s.specOf o.uid) r.loc r.n) s).modOp ck o.id fun o => { o with unsure := true, taint := o.taint ++ runs }

/-- Begins a gather (R90): clears its mask bits, or reads them where it is resumed; an error ends the op at once (R92). -/
def State.gatherBegin (s : State) (ck : Nat) (o : CopyOp) (c : GathCard) : State :=
  let n := ceilDiv c.cnt 8
  let a := o.agent ck
  if o.begun || o.stopped then s
  else
    match s.maskRuns ck o c 0 n (!c.res) with
    | (.wait _, s) => s
    | (.err e, s) => s.opStop ck o.id 1 e
    | (.ok rs, s) =>
      match s.absentOf o.cleared rs with
      | some l => s.opWait ck o.id keyInit l
      | none =>
        let old := s.readRuns a rs
        if c.res then s.maskRead ck o c rs old
        else
          match s.maskWrite ck o rs ((upFrom 0 c.cnt).foldl (fun bs i => putBit bs i false) old) (if c.cnt % 8 = 0 then [] else lastByte rs) with
          | (true, s) => s.modOp ck o.id fun o => { o with begun := true }
          | (false, s) => s.opFull ck o (c.cma + 8)

/-- An element of a gather fails (R92). -/
def State.elementFails (s : State) (ck id el cause : Nat) : State :=
  (s.modOp ck id fun o => { o with failed := o.failed ++ [(el, cause)] }).opSettle ck id

/-- An element of a gather whose index is x (R89, R90). -/
def State.gatherCopy (s : State) (ck : Nat) (o : CopyOp) (c : GathCard) (el x : Nat) : State :=
  let a := o.agent ck
  if x ≥ c.bnd then s.elementFails ck o.id el cADDR
  else
    match s.opSource ck o el (c.src + Word.ofN (x * c.srs)) c.rb with
    | (.wait, s) => s
    | (.err e, s) => s.elementFails ck o.id el e
    | (.ok src, s) =>
      match s.deliveries a (AMap.get? o.toks el) c.rb [(8, o.card.dstRow el)] {} with
      | (d, s) =>
        match d.wait, d.bad with
        | some k, _ => s.opToken ck o.id el k
        | none, (_, e) :: _ => s.elementFails ck o.id el e
        | none, [] =>
          match s.maskRuns ck o c (el / 8) 1 true with
          | (.wait _, s) => s
          | (.err e, s) => s.opStop ck o.id 1 e
          | (.ok mask, s) =>
            match s.absentOf o.cleared mask with
            | some l => s.opWait ck o.id el l
            | none =>
              match s.writeAll a o.writer (s.readRuns a src) d.runs with
              | (false, s) => s.opFull ck o (o.card.dstRow el)
              | (true, s) =>
                let s := s.opLanded ck o.id el (d.runs.flatMap fun r => zipRuns el (2 * c.rb + 2) src r.2)
                match s.maskWrite ck o mask (putBit (s.readRuns a mask) (el % 8) true) mask with
                | (true, s) => s
                | (false, s) => s.opFull ck o (c.cma + Word.ofN (8 + el / 8))

/-- GATHER_ELEMENT (R89, R90, R92). -/
def execGatherElement (ck id el : Nat) (s : State) : Out :=
  match s.op? ck id with
  | none => .next s
  | some o =>
    match o.card with
    | .copy _ => .next s
    | .gath c =>
      if (o.ch == 7 && !o.probed) || !s.mayBegin ck o then .next s
      else
        let s := (s.openOp ck o).gatherBegin ck o c
        match s.op? ck id with
        | none => .next s
        | some o =>
          if !o.begun || o.stopped then .next s
          else if !o.left.contains el then .next (s.opSettle ck id)
          else
            match s.opSource ck o el (c.idx + Word.ofN (4 * el)) 4 with
            | (.wait, s) => .next s
            | (.err e, s) => .next (s.opStop ck id 1 e)
            | (.ok rs, s) =>
              let x := leVal (s.readRuns (o.agent ck) rs)
              let s := s.modOp ck id fun o => { o with index := (o.index.filter fun y => y.1 != el) ++ [(el, (rs.headD { loc := .home 0, n := 0 }))] }
              match s.op? ck id with
              | none => .next s
              | some o => .next (s.gatherCopy ck o c el x)

/-! ## The probe pass (R102) -/

/-- The pages that n bytes from an address touch, each with its first address there. -/
def pagesOf : Nat → Word → Nat → List Word
  | 0, _, _ => []
  | fuel + 1, va, n => if n = 0 then [] else let k := chunk va n; va :: pagesOf fuel (va + Word.ofN k) (n - k)

/-- Translates and pins the global pages of accesses, each a write or a read (R102): whether all are pinned, or the cause. -/
def State.pinAll (s : State) (ck id : Nat) : List (Word × Bool) → EngRuns × State
  | [] => (.ok [], s)
  | (va, write) :: rest =>
    match s.op? ck id with
    | none => (.ok [], s)
    | some o =>
      if !tagGlobal va then s.pinAll ck id rest
      else
        let page := va.toNat / 65536
        let key := keyProbe + 2 * page + (if write then 1 else 0)
        match s.engXlate { (o.agent ck) with pins := [] } (AMap.get? o.toks key) va write with
        | (.ok l, s) => (s.modOp ck id fun o => { o with pins := AMap.set o.pins page (l.off - va.toNat % 65536) }).pinAll ck id rest
        | (.err e, s) => (.err e, s)
        | (.wait k, s) => (.wait k, s.opToken ck id key k)

/-- The pages of a probe pass once they are known (R102): the op moves data once all are pinned. -/
def State.pinPages (s : State) (ck id : Nat) (all : List (Word × Bool)) : State :=
  match s.pinAll ck id all with
  | (.ok _, s) => (s.modOp ck id fun o => { o with probed := true }).opSettle ck id
  | (.err e, s) => s.opStop ck id 1 e
  | (.wait _, s) => s

/-- The elements that a gather is to transfer, by its index list and its completion mask, which with RES it reads (R90, R102). -/
def GathCard.todo (c : GathCard) (xs mask : List Byte) : List (Nat × Nat) :=
  ((upFrom 0 c.cnt).map fun i => (i, field xs (4 * i) 4)).filter fun x => x.2 < c.bnd && !(c.res && (setBits mask).contains x.1)

/-- PROBE_PASS: every page that the op will touch is translated and pinned (R102). -/
def execProbePass (ck id : Nat) (s : State) : Out :=
  match s.op? ck id with
  | none => .next s
  | some o =>
    if o.ch ≠ 7 || o.probed || o.stopped || !s.mayBegin ck o then .next s
    else
      let s := s.openOp ck o
      let fixed := (if o.card.ctr = 0 then [] else [(o.card.ctr, true)]) ++ (match o.card.stat with | some a => [(a, true)] | none => [])
      let n := o.card.rowBytes
      let pages (va : Word) (m : Nat) (w : Bool) : List (Word × Bool) := (pagesOf (m + 1) va m).map fun v => (v, w)
      match o.card with
      | .copy c => .next (s.pinPages ck id (fixed ++ o.left.flatMap fun q => pages (c.srcRow q) n false ++ pages (c.dstRow q) n true))
      | .gath c =>
        match s.opSource ck o keyProbe c.idx (4 * c.cnt) with
        | (.wait, s) => .next s
        | (.err e, s) => .next (s.opStop ck id 1 e)
        | (.ok rs, s) =>
          match if c.res then s.opSource ck o keyProbe (c.cma + 8) (ceilDiv c.cnt 8) else (.ok [], s) with
          | (.wait, s) => .next s
          | (.err e, s) => .next (s.opStop ck id 1 e)
          | (.ok ms, s) =>
            let todo := c.todo (s.readRuns (o.agent ck) rs) (s.readRuns (o.agent ck) ms)
            .next (s.pinPages ck id (fixed ++ pages (c.cma + 8) (ceilDiv c.cnt 8) true ++ pages c.idx (4 * c.cnt) false ++
              todo.flatMap fun x => pages (c.src + Word.ofN (x.2 * c.srs)) n false ++ pages (o.card.dstRow x.1) n true))

/-! ## The end of an op (R91, R95) -/

/-- The rows of a copy that have landed without a gap from row 0, or the mask bits of a gather that are set (R91). A copy that moves no byte
has no row that could have landed (DESIGN CHOICE; log 74). A resumed copy that read more rows than it has copies none and writes that number
back (DESIGN CHOICE; log 82). A multicast row that failed at a member counts as landed once the members that have not failed hold it (DESIGN
CHOICE; log 83). -/
def CopyOp.prog (o : CopyOp) : Nat :=
  match o.card with
  | .gath _ => o.skip.length + o.landed.length
  | .copy _ => o.start + ((upFrom o.start (o.card.count - o.start)).takeWhile fun q => o.landed.contains q).length

/-- The CODE and CAUSE of an op (R91). -/
def CopyOp.codeOf (o : CopyOp) : Nat :=
  if o.code ≠ 0 then o.code else if o.mfail ≠ 0 || !o.failed.isEmpty then 1 else 0
def CopyOp.causeOf (o : CopyOp) : Nat :=
  match o.failed.foldl (fun m x => match m with | none => some x | some y => if x.1 < y.1 then some x else some y) none with
  | some x => if o.code = 2 then o.cause else x.2
  | none => o.cause
/-- PROG of an op that ends: a resumed gather that stopped before it had read its mask finds the bits that are set there (R91). -/
def State.progOf (s : State) (o : CopyOp) : Nat :=
  match o.card with
  | .copy _ => o.prog
  | .gath c =>
    if !c.res || o.begun then o.prog
    else
      let n := ceilDiv c.cnt 8
      let bs := (s.quietRuns o.uid o.tk o.decls (n + 1) (c.cma + 8) n).flatMap fun r => s.bytesAt (s.specOf o.uid) r.loc r.n
      ((setBits bs).filter (· < c.cnt)).length
/-- The status word of an op with its PROG (R91). -/
def CopyOp.status (o : CopyOp) (prog : Nat) : Nat := prog * 2 ^ 32 + o.mfail % 256 * 2 ^ 16 + o.causeOf * 2 ^ 8 + o.codeOf

/-- What the resolution of a counter gives: what it is, or a wait. -/
inductive Ctr where
  | is (c : CtrAt)
  | wait (token : Option Nat)

/-- Resolves a counter address (R95). -/
def State.counterLoc (s : State) (a : Agent) (tok : Option Nat) (va : Word) : Ctr × State :=
  if va = 0 then (.is .none, s)
  else if tagGlobal va then
    match s.engXlate { a with own := true } tok va true with
    | (.ok l, s) => if s.exists_ l.off then (.is (.at_ l), s) else (.is (.bad cADDR), s.logEng a va cADDR)
    | (.err c, s) => (.is (.bad c), s)
    | (.wait k, s) => (.wait k, s)
  else
    match s.engWindow a va 8 with
    | some l => (.is (.at_ l), s)
    | none => (.is (.bad cADDR), s.logEng a va cADDR)
/-- The place of a counter that has one. -/
def CtrAt.loc? : CtrAt → Option Loc
  | .at_ l => some l
  | _ => Option.none

/-- An op that has ended is kept for the threads that have not passed on the counter update that covers it, with the earlier ops of its channel
that had no counter (R266, R268; log 26). -/
def State.keepOp (s : State) (ck : Nat) (o : CopyOp) (ctr : Option Loc) : State :=
  let upd := ctr.map fun l => (l, leVal (s.bytesAt (s.specOf o.uid) l 8))
  let o := { o with upd := upd, dst := s.dstNow o, src := s.srcNow o, index := s.indexNow o }
  s.modCore ck fun c => { c with
    doneOps := (c.doneOps.map fun x => if x.ch = o.ch && x.upd.isNone then { x with upd := upd } else x) ++ [o] }

/-- The counter of an op whose turn it is, after its status word; the op leaves its channel (R95), and a handle that it named
may return (R201). -/
def State.opLeave (s : State) (ck : Nat) (o : CopyOp) (ctr : Option Loc) : State :=
  let s := match ctr with
    | some l => s.counterAdd (o.agent ck) o.card.ctr l o.card.inc o.card.csc
    | none => s
  let s := (s.modCore ck fun c => { c with chans := c.chans.map fun ops => ops.filter fun x => x.id != o.id }).keepOp ck o ctr
  s.returnHandle o.uid (bits (o.card.dstRow 0).toNat 47 40)

/-- The status word, then the counter, of an op whose turn it is (R91, R95); an off-package status word is delivered before a counter
update of scope sys, which covers it (R266). -/
def State.opFinish (s : State) (ck : Nat) (o : CopyOp) (ctr : Option Loc) : State :=
  let a := { (o.agent ck) with own := true }
  match if o.statDone then none else o.card.stat with
  | none => s.opLeave ck o ctr
  | some va =>
    match s.engRuns a (AMap.get? o.toks keyStat) true 9 va 8 with
    | (.wait k, s) => s.opToken ck o.id keyStat k
    | (.err _, s) => s.opLeave ck o ctr
    | (.ok rs, s) =>
      let (ok, s) := s.engWriteRuns a o.writer rs (leBytes 8 (o.status (s.progOf o)))
      let s := if ok then s else s.logEng a va cSPEC
      let s := if o.unsure then s.forgetRuns (s.specOf o.uid) 4 4 rs else s
      if o.card.csc = 4 && !s.engDelivered ck o.ch then s.modOp ck o.id fun o => { o with statDone := true } else s.opLeave ck o ctr

/-- Whether an ended op or job has to wait for the line of its counter (R113), with the line. -/
def State.counterWait (s : State) (late : Bool) (l : Loc) : Option (Nat × Nat) :=
  if late then none else s.absentLine [] { loc := l, n := 8 }

/-- An op whose counter has been resolved: one that cannot be ends with CODE 1 and that cause (R95). -/
def CopyOp.resolved (o : CopyOp) (c : CtrAt) : CopyOp :=
  match c with
  | .bad e => { o with ctr := some c, code := 1, cause := e, failed := [] }
  | _ => { o with ctr := some c }

/-- The end of an op whose counter has been resolved (R95, R113). -/
def State.opEnd (s : State) (ck : Nat) (o : CopyOp) (c : CtrAt) : State :=
  match c with
  | .at_ l =>
    (match s.counterWait o.late l with
    | some x => s.opWait ck o.id keyCtr x
    | none => s.opFinish ck o (some l))
  | _ => s.opFinish ck o none

/-- ENGINE_OP_END: an op ends once its data phase is over and every earlier op of its channel has ended (R82, R95). Its counter is resolved
once. -/
def execEngineOpEnd (ck id : Nat) (s : State) : Out :=
  match s.op? ck id with
  | none => .next s
  | some o =>
    let head := ((s.core ck).chans.getD o.ch []).head?.map (·.id)
    if !o.stopped || head ≠ some id || (o.card.csc = 4 && !s.engDelivered ck o.ch) then .next s
    else
      match o.ctr with
      | some c => .next (s.opEnd ck o c)
      | none =>
        match s.counterLoc (o.agent ck) (AMap.get? o.toks keyCtr) o.card.ctr with
        | (.wait k, s) => .next (s.opToken ck id keyCtr k)
        | (.is c, s) => .next ((s.modOp ck id fun o => o.resolved c).opEnd ck (o.resolved c) c)

end Sys2Proof.Machine
end

