-- ==== Sys2Proof/Machine/Matrix.lean ====
section
/-! DEFINITION. The matrix engine: acceptance of jobs, block steps in classical and recombined order, leases, the watchdog and the
end of a job. -/

namespace Sys2Proof.Machine

/-! ## Element values -/

/-- Element x of a run of element data (R159, R195). -/
def elemVal (f : Nat) (bs : List Byte) (x : Nat) : FVal :=
  match f with
  | 1 => f64.val (field bs (8 * x) 8)
  | 2 => f32.val (field bs (4 * x) 4)
  | 3 => f16.val (field bs (2 * x) 2)
  | 4 => bf16.val (field bs (2 * x) 2)
  | 5 => e4m3.val (field bs x 1)
  | 6 => e5m2.val (field bs x 1)
  | 9 => ofIntExp (BitVec.ofNat 8 (field bs x 1)).toInt 0 false
  | _ => e2m1.val (field bs (x / 2) 1 / 16 ^ (x % 2) % 16)

/-- The value of an MX element (R161). -/
def descaleMx (x : FVal) (e : Nat) : FVal :=
  if e = 255 then .nan
  else match x with
    | .fin n m k => .fin n m (k + e - 127)
    | v => v
/-- The value of a band-scaled element (R161). -/
def descaleBand (x : FVal) (u g : Nat) : FVal :=
  (x.mul (ue3m5.val u)).mul (bf16.val g)

/-- A descaled element from its data, its scale byte and its band scale. -/
def descale (f : Nat) (x : FVal) (scale band : Nat) : FVal :=
  match f with
  | 5 => descaleMx x scale
  | 6 => descaleMx x scale
  | 7 => descaleMx x scale
  | 8 => descaleBand x scale band
  | _ => x

/-- The accumulator format of a job (R196). -/
def accFmt (af : Nat) : Fmt := if af = 1 then f64 else f32
/-- The internal format of the pre-additions (R225). -/
def preFmt (af : Nat) : Fmt :=
  match af with
  | 1 => { eb := 12, p := 54, bias := 2047 }
  | 2 => { eb := 9, p := 25, bias := 255 }
  | _ => { eb := 10, p := 16, bias := 511 }

/-! ## One super-block (R222 to R233) -/

/-- pre(x, y) of R224. -/
def preAdd (f : Fmt) : Option FVal → Option FVal → Option FVal
  | none, y => y
  | x, none => x
  | some x, some y => some (f.round .rn false (x.add y))
/-- neg, absent where its operand is (R227). -/
def negOpt (x : Option FVal) : Option FVal := x.map FVal.negate

/-- The operands of a segment: an element of A by local row and K index, and of B by K index and local column; none where it
is absent. -/
structure SegData where
  a : Nat → Nat → Option FVal
  b : Nat → Nat → Option FVal

/-- Product m at local indices of a quadrant (R224, R226): tm, tn and h are the extents of a quadrant. -/
def SegData.product (d : SegData) (pf f : Fmt) (sat : Bool) (tm tn h m i j : Nat) : Option FVal :=
  let a11 k := d.a i k
  let a12 k := d.a i (h + k)
  let a21 k := d.a (tm + i) k
  let a22 k := d.a (tm + i) (h + k)
  let b11 k := d.b k j
  let b12 k := d.b k (tn + j)
  let b21 k := d.b (h + k) j
  let b22 k := d.b (h + k) (tn + j)
  let sa (k : Nat) := match m with
    | 1 => preAdd pf (a11 k) (a22 k)
    | 2 => preAdd pf (a21 k) (a22 k)
    | 3 => a11 k
    | 4 => a22 k
    | 5 => preAdd pf (a11 k) (a12 k)
    | 6 => preAdd pf (a21 k) (negOpt (a11 k))
    | _ => preAdd pf (a12 k) (negOpt (a22 k))
  let sb (k : Nat) := match m with
    | 1 => preAdd pf (b11 k) (b22 k)
    | 2 => b11 k
    | 3 => preAdd pf (b12 k) (negOpt (b22 k))
    | 4 => preAdd pf (b21 k) (negOpt (b11 k))
    | 5 => b22 k
    | 6 => preAdd pf (b11 k) (b12 k)
    | _ => preAdd pf (b21 k) (b22 k)
  let leaves := (upFrom 0 h).map fun k => match sa k, sb k with
    | some x, some y => some (x.mul y)
    | _, _ => none
  sum162 f sat leaves none

/-- The contribution of a super-block to the output at local row il and column jl (R227). -/
def SegData.contribution (d : SegData) (pf f : Fmt) (sat : Bool) (tm tn h il jl : Nat) : Option FVal :=
  let c := combine (f.round .rn sat)
  let i := il % tm
  let j := jl % tn
  let p (n : Nat) := d.product pf f sat tm tn h n i j
  match decide (il < tm), decide (jl < tn) with
  | true, true => c (c (c (p 1) (p 4)) (negOpt (p 5))) (p 7)
  | true, false => c (p 3) (p 5)
  | false, true => c (p 2) (p 4)
  | false, false => c (c (c (p 1) (negOpt (p 2))) (p 3)) (p 6)

/-- The leaves of an output in classical order over a segment of n elements (R163). -/
def SegData.leaves (d : SegData) (n il jl : Nat) : List (Option FVal) :=
  (upFrom 0 n).map fun k => match d.a il k, d.b k jl with
    | some x, some y => some (x.mul y)
    | _, _ => none

/-- The exact integer of a value of s8 data (R164). -/
def intOf : FVal → Int
  | .fin n m e => scaledInt n m e 0
  | _ => 0

/-- The accumulator of an output after a segment in classical order (R162, R164). -/
def SegData.classical (d : SegData) (af : Nat) (sat : Bool) (n il jl : Nat) (acc : Option Word) : Option Word :=
  let ls := d.leaves n il jl
  if ls.all (·.isNone) then acc
  else if af = 9 then
    some (Word.ofN (BitVec.ofInt 32 (ls.foldl (fun t x => t + (x.map intOf).getD 0) ((acc.map fun w => (w.toNat : Int)).getD 0))).toNat)
  else
    let f := accFmt af
    (sum162 f sat ls (acc.map fun w => f.val w.toNat)).map fun r => Word.ofN (f.enc r)

/-- The accumulator of an output after a super-block's contribution (R228). -/
def addContribution (f : Fmt) (sat : Bool) (acc : Option Word) : Option FVal → Option Word
  | none => acc
  | some c => match acc with
    | none => some (Word.ofN (f.enc c))
    | some w => some (Word.ofN (f.enc (f.round .rn sat ((f.val w.toNat).add c))))

/-- The accumulators of a tile of rows by cols outputs after a segment, and whether a super-block fell back (R209, R233). -/
def Job.segment (j : Job) (d : SegData) (rows cols ks : Nat) (acc : List (Option Word)) : List (Option Word) × Bool :=
  let c := j.card
  let sat := c.flag 2
  let f := accFmt c.af
  let (tr, tc, n) := geom c.af j.recomb
  let at_ := (upFrom 0 rows).flatMap fun il => (upFrom 0 cols).map fun jl => (il, jl)
  let old (x : Nat × Nat) := (acc[x.1 * cols + x.2]?).join
  let classical := at_.map fun x => d.classical c.af sat n x.1 x.2 (old x)
  if !j.recomb || c.af = 9 then (classical, false)
  else
    let part (x : Nat × Nat) := d.contribution (preFmt c.af) f sat (tr / 2) (tc / 2) (n / 2) x.1 x.2
    let bad (v : Option FVal) := match v with | some y => y.special | none => false
    let inputs := ((upFrom 0 rows).any fun il => (upFrom 0 ks).any fun k => bad (d.a il k)) ||
      ((upFrom 0 cols).any fun jl => (upFrom 0 ks).any fun k => bad (d.b k jl))
    if c.flag 1 && (inputs || at_.any fun x => bad (part x)) then (classical, true)
    else (at_.map fun x => addContribution f sat (old x) (part x), false)

/-- The bytes of an output from its accumulator (R209). -/
def Job.outBytes (j : Job) (acc : Option Word) : List Byte :=
  let c := j.card
  let w := (acc.getD 0).toNat
  let v := f32.val w
  match c.cf with
  | 1 => leBytes 8 w
  | 3 => leBytes 2 (match acc with | none => 0 | some _ => f16.enc (f16.round .rn (c.flag 2) v))
  | 4 => leBytes 2 (match acc with | none => 0 | some _ => bf16.enc (bf16.round .rn (c.flag 2) v))
  | _ => leBytes 4 w
/-- An existing C element as an accumulator (R209). -/
def accOf (cf : Nat) (bs : List Byte) : Word :=
  let x := leVal bs
  match cf with
  | 3 => Word.ofN (f32.rne (f16.val x))
  | 4 => Word.ofN (f32.rne (bf16.val x))
  | _ => Word.ofN x

/-! ## Jobs of a core -/

/-- The job of an id on a core. -/
def State.mjob? (s : State) (ck id : Nat) : Option Job := (s.core ck).jobs.find? fun j => j.id == id
/-- Changes a job of a core. -/
def State.modMjob (s : State) (ck id : Nat) (f : Job → Job) : State :=
  s.modCore ck fun c => { c with jobs := c.jobs.map fun j => if j.id = id then f j else j }
/-- The matrix engine at work for a job. -/
def Job.agent (j : Job) (ck : Nat) : Agent :=
  { ck := ck, uid := j.uid, tk := j.tk, kind := 2, who := j.tk % 1024, ch := 8, kept := j.decls, id := j.id, seq := j.seq, after := j.after,
    own := true }
/-- A job as the writer of its bytes. -/
def Job.writer (j : Job) : Writer := .job j.id j.seq j.after

/-- A job that ends early (R219). -/
def Job.stop (j : Job) (code cause : Nat) : Job := { j with ended := true, code := code, cause := cause, waitOn := none }
/-- A job ends early (R219). -/
def State.jobStop (s : State) (ck id code cause : Nat) : State := s.modMjob ck id fun j => j.stop code cause

/-- A job waits for a scratchpad line (R219). -/
def State.jobWait (s : State) (ck id : Nat) (line : Nat × Nat) : State :=
  let now := s.hub.tmr
  s.modMjob ck id fun j => { j with waitOn := some line, waitFrom := if j.waitOn.isNone then now else j.waitFrom }

/-- What a step of a job at memory gives: a value, the end of the job with its code and cause, or a wait. -/
inductive JobGot (α : Type) where
  | ok (x : α) (s : State)
  | stop (code cause : Nat) (s : State)
  | wait (s : State)

/-- Reads n bytes at an address for a job, past every L1 (R209, R219). -/
def State.jobRead (s : State) (ck : Nat) (j : Job) (va : Word) (n : Nat) : JobGot (List Byte) :=
  let page := va.toNat / 65536
  match s.engRuns (j.agent ck) (AMap.get? j.toks page) false (n + 1) va n with
  | (.err c, s) => .stop 1 c s
  | (.wait k, s) => .wait (s.modMjob ck j.id fun j => { j with toks := match k with | some k => AMap.set j.toks page k | none => j.toks })
  | (.ok rs, s) =>
    match s.absentOf [] rs with
    | some l => .wait (s.jobWait ck j.id l)
    | none => .ok (s.readRuns (j.agent ck) rs) s

/-- The same for a list of reads. -/
def State.jobReads (s : State) (ck : Nat) (j : Job) : List ARead → JobGot (List (List Byte))
  | [] => .ok [] s
  | r :: rs =>
    match s.jobRead ck j r.va r.n with
    | .stop code c s => .stop code c s
    | .wait s => .wait s
    | .ok bs s =>
      match s.jobReads ck j rs with
      | .ok bss s => .ok (bs :: bss) s
      | .stop code c s => .stop code c s
      | .wait s => .wait s

/-- Runs f over a list, in order, collecting the values. -/
def gotAll {α β : Type} (f : α → State → JobGot β) : List α → State → JobGot (List β)
  | [], s => .ok [] s
  | x :: xs, s =>
    match f x s with
    | .stop code c s => .stop code c s
    | .wait s => .wait s
    | .ok y s =>
      match gotAll f xs s with
      | .ok ys s => .ok (y :: ys) s
      | .stop code c s => .stop code c s
      | .wait s => .wait s

/-- Reads n bytes of a job's reservation (R202, R219). -/
def State.resvRead (s : State) (ck : Nat) (j : Job) (off n : Nat) : JobGot (List Byte) :=
  let va := Word.ofN (0xF4 * 2 ^ 56 + j.card.bh * 2 ^ 40 + off % 2 ^ 40)
  match (s.unit? j.uid).bind fun u => AMap.get? u.resv j.card.bh with
  | none => .stop 1 cADDR (s.logEng (j.agent ck) va cADDR)
  | some r =>
    if off + n ≤ r.size then
      let l : Loc := .obuf j.uid (r.off + off)
      match s.locErr l n true with
      | some c => .stop 1 c (s.logEng (j.agent ck) va c)
      | none => .ok (s.readRuns (j.agent ck) [{ loc := l, n := n }]) s
    else .stop 1 cADDR (s.logEng (j.agent ck) va cADDR)

/-- The present A elements of a local row over a segment (R202, R203, R209). -/
def State.aRow (s : State) (ck : Nat) (j : Job) (t k il : Nat) : JobGot (List FVal) :=
  let c := j.card
  let go (rho : Nat) (s : State) : JobGot (List FVal) :=
    match s.jobReads ck j (j.aReads k rho (j.aAddr t k (if c.flag 4 then rho else il))) with
    | .stop code e s => .stop code e s
    | .wait s => .wait s
    | .ok bss s =>
      let data := bss.getD 0 []
      let scales := bss.getD 1 []
      let band := field (bss.getD 2 []) 0 2
      let first := j.k0 k / fmtBlock c.af
      .ok ((upFrom 0 (j.ks k)).map fun x =>
        descale c.af (elemVal c.af data x) (field scales ((j.k0 k + x) / fmtBlock c.af - first) 1) band) s
  if c.flag 4 then
    match s.jobRead ck j (j.idxAddr t il) 4 with
    | .stop code e s => .stop code e s
    | .wait s => .wait s
    | .ok bs s => go (leVal bs) s
  else go (j.row0 t + il) s

/-- The positions of a metadata word, where it is well formed (R204). -/
def metaPositions (n w : Nat) : Option (List Nat) :=
  let ps := (upFrom 0 n).map fun p => w / 32 ^ p % 32
  if w / 32 ^ n = 0 && ps.all (· < 24) && (ps.zip (ps.drop 1)).all (fun x => x.1 < x.2) then some ps else none

/-- The elements of a column that a metadata group stores, by their K index (R204). -/
def State.sparseGroup (s : State) (ck : Nat) (j : Job) (r : Resv) (t k jl g : Nat) : JobGot (List (Nat × FVal)) :=
  let c := j.card
  let n := c.sparseN
  let col := j.col0 t + jl
  let off := r.mdo + col * r.auxp + 8 * g
  match s.resvRead ck j off 8 with
  | .stop code e s => .stop code e s
  | .wait s => .wait s
  | .ok bs s =>
    match metaPositions n (leVal bs) with
    | none => .stop 3 cENGINE (s.logEng (j.agent ck) (Word.ofN (0xF4 * 2 ^ 56 + c.bh * 2 ^ 40 + off)) cENGINE)
    | some ps =>
      let slots := (ps.zip (upFrom 0 n)).filter fun x =>
        let kk := 24 * g + x.1
        j.k0 k ≤ kk && kk < j.k0 k + j.ks k
      gotAll (fun x s =>
        let ci := g * n + x.2
        match s.resvRead ck j ((j.bOff t k jl).toNat + ci * fmtBits c.bf / 8) (max 1 (fmtBits c.bf / 8)) with
        | .stop code e s => .stop code e s
        | .wait s => .wait s
        | .ok bs s => .ok (24 * g + x.1, elemVal c.bf bs (if fmtBits c.bf = 4 then ci % 2 else 0)) s) slots s

/-- The present B elements of a local column over a segment, none for an element that no slot names (R202 to R204); a scale of a block that
holds only absent elements is not read (R210). -/
def State.bCol (s : State) (ck : Nat) (j : Job) (r : Resv) (t k jl : Nat) : JobGot (List (Option FVal)) :=
  let c := j.card
  let n := j.ks k
  let col := j.col0 t + jl
  let L := fmtBlock c.bf
  let data (s : State) : JobGot (List (Option FVal)) :=
    if c.flag 5 then
      match gotAll (fun g s => s.sparseGroup ck j r t k jl g) (j.groups k) s with
      | .stop code e s => .stop code e s
      | .wait s => .wait s
      | .ok xs s => .ok ((upFrom 0 n).map fun x => (xs.flatten.find? fun y => y.1 == j.k0 k + x).map (·.2)) s
    else
      match s.resvRead ck j (j.bOff t k jl).toNat (fmtBytes c.bf n) with
      | .stop code e s => .stop code e s
      | .wait s => .wait s
      | .ok bs s => .ok ((upFrom 0 n).map fun x => some (elemVal c.bf bs x)) s
  match data s with
  | .stop code e s => .stop code e s
  | .wait s => .wait s
  | .ok xs s =>
    let scaleAt (x : Nat) : Nat := (j.k0 k + x) / L
    let blocks := if L = 0 then [] else
      ((xs.zip (upFrom 0 n)).filterMap fun x => if x.1.isSome then some (scaleAt x.2) else none).eraseDups
    if blocks.isEmpty then .ok xs s
    else
      match gotAll (fun b s => s.resvRead ck j (r.bso + col * r.auxp + b) 1) blocks s with
      | .stop code e s => .stop code e s
      | .wait s => .wait s
      | .ok scales s =>
        match if c.bf = 8 then s.resvRead ck j (r.gso + 2 * (col / 64)) 2 else .ok [] s with
        | .stop code e s => .stop code e s
        | .wait s => .wait s
        | .ok band s =>
          let scale (b : Nat) : Nat := ((blocks.zip scales).find? fun y => y.1 == b).elim 0 fun y => field y.2 0 1
          .ok ((xs.zip (upFrom 0 n)).map fun x => x.1.map fun v => descale c.bf v (scale (scaleAt x.2)) (field band 0 2)) s

/-- The starting accumulators of a tile (R209). -/
def State.startAcc (s : State) (ck : Nat) (j : Job) (t : Nat) : JobGot (List (Option Word)) :=
  let at_ := (upFrom 0 (j.rows t)).flatMap fun il => (upFrom 0 (j.cols t)).map fun jl => (il, jl)
  if j.card.flag 3 then
    match s.jobReads ck j (at_.map fun x => { va := j.cAddr t x.1 x.2, n := fmtBytes j.card.cf 1 }) with
    | .ok bss s => .ok (bss.map fun bs => some (accOf j.card.cf bs)) s
    | .stop code e s => .stop code e s
    | .wait s => .wait s
  else .ok (at_.map fun _ => none) s

/-- The places of the present C elements of a tile, as far as they have one: a failed write leaves them undefined (R219). -/
def State.forgetTile (s : State) (j : Job) (t : Nat) : State :=
  ((upFrom 0 (j.rows t)).flatMap fun il => (upFrom 0 (j.cols t)).map fun jl => (il, jl)).foldl (fun s x =>
    match s.quietLoc j.uid j.tk j.decls (j.cAddr t x.1 x.2) (fmtBytes j.card.cf 1) with
    | some l => s.forgetAs (s.specOf j.uid) l (fmtBytes j.card.cf 1)
    | none => s) s

/-- Resolves the C elements of a tile for writing. -/
def State.tileLocs (s : State) (ck : Nat) (j : Job) (t : Nat) : JobGot (List (Nat × Nat × Loc)) :=
  let at_ := (upFrom 0 (j.rows t)).flatMap fun il => (upFrom 0 (j.cols t)).map fun jl => (il, jl)
  gotAll (fun x s =>
    let va := j.cAddr t x.1 x.2
    let page := va.toNat / 65536
    match s.engAccess (j.agent ck) (AMap.get? j.toks page) va (fmtBytes j.card.cf 1) true with
    | (.err c, s) => .stop 1 c s
    | (.wait k, s) => .wait (s.modMjob ck j.id fun j => { j with toks := match k with | some k => AMap.set j.toks page k | none => j.toks })
    | (.ok l, s) => .ok (x.1, x.2, l) s) at_ s

/-- Writes the C elements of a tile (R209); an element that R220 leaves undefined is made so. False where a speculation
buffer has no room. -/
def State.writeTile (s : State) (ck : Nat) (j : Job) (t : Nat) (acc : List (Option Word)) : List (Nat × Nat × Loc) → Bool × State
  | [] => (true, s)
  | (il, jl, l) :: rest =>
    let g := j.row0 t + il
    let col := j.col0 t + jl
    match s.engWrite (j.agent ck) j.writer l (j.outBytes ((acc[il * j.cols t + jl]?).join)) with
    | (false, s) => (false, s)
    | (true, s) =>
      let now := (s.mjob? ck j.id).getD j
      let bad := now.allBad || now.badRows.contains g || now.badCols.contains col || now.badCells.contains (g, col)
      let s := if bad then s.forgetAs (s.specOf j.uid) l (fmtBytes j.card.cf 1) else s
      (s.modMjob ck j.id fun j => { j with cells := j.cells ++ [(g, col, l)] }).writeTile ck j t acc rest

/-- The accumulators that one block step of a job leaves, from the elements it reads, and whether the recombined order fell back
to the classical one (R209). -/
def State.jobSegment (s : State) (ck : Nat) (j : Job) : JobGot (List (Option Word) × Bool) :=
  let t := j.tile
  let k := j.seg
  match (s.unit? j.uid).bind fun u => AMap.get? u.resv j.card.bh with
  | none => .stop 1 cADDR (s.logEng (j.agent ck) (Word.ofN (0xF4 * 2 ^ 56 + j.card.bh * 2 ^ 40)) cADDR)
  | some r =>
    match if k = 0 then s.startAcc ck j t else .ok j.acc s with
    | .stop code e s => .stop code e s
    | .wait s => .wait s
    | .ok acc s =>
      match gotAll (fun il s => s.aRow ck j t k il) (upFrom 0 (j.rows t)) s with
      | .stop code e s => .stop code e s
      | .wait s => .wait s
      | .ok as s =>
        match gotAll (fun jl s => s.bCol ck j r t k jl) (upFrom 0 (j.cols t)) s with
        | .stop code e s => .stop code e s
        | .wait s => .wait s
        | .ok bs s =>
          let d : SegData := { a := fun il x => (as.getD il [])[x]?, b := fun x jl => ((bs.getD jl [])[x]?).join }
          .ok (j.segment d (j.rows t) (j.cols t) (j.ks k) acc) s

/-- A super-block of a job has fallen back to the classical order (R217, R233). -/
def State.keepFell (s : State) (ck id : Nat) (fell : Bool) : State := s.modMjob ck id fun j => { j with ord2 := j.ord2 || fell }

/-- A C write of a job at a home was not delivered (R219, R263), whether the job runs or is saved away with its unit: the tiles that it
belongs to are undefined, and STEPS counts the tiles before them (DEDUCED; log 59). -/
def State.jobUndelivered (s : State) (id d : Nat) : State :=
  match s.windowJobs.find? fun j => j.id == id with
  | none => s
  | some j =>
    let lost := j.cells.filter fun x => x.2.2.overlap (fmtBytes j.card.cf 1) (.home d) 1
    let tiles := (upFrom 0 j.tiles).filter fun t => lost.any fun x =>
      j.row0 t ≤ x.1 && x.1 < j.row0 t + j.rows t && j.col0 t ≤ x.2.1 && x.2.1 < j.col0 t + j.cols t
    let s := tiles.foldl (fun s t => s.forgetTile j t) s
    s.mapJob id fun j => { j with steps := tiles.foldl (fun m t => min m (t * j.segs)) j.steps }.stop 1 cMEMERR

/-- One block step of a job (R209): whether it ran, or had to wait. -/
def State.jobStep (s : State) (ck : Nat) (j : Job) : Bool × State :=
  let t := j.tile
  let k := j.seg
  match s.jobSegment ck j with
  | .wait s => (false, s)
  | .stop code e s => (true, s.jobStop ck j.id code e)
  | .ok (acc, fell) s =>
    if k + 1 < j.segs then
      (true, s.modMjob ck j.id fun j => { j with seg := k + 1, acc := acc, ord2 := j.ord2 || fell, waitOn := none, waited := 0 })
    else
      match s.tileLocs ck j t with
      | .wait s => (false, s)
      | .stop code e s => (true, ((s.forgetTile j t).keepFell ck j.id fell).jobStop ck j.id code e)
      | .ok locs s =>
        match s.writeTile ck j t acc locs with
        | (false, s) => (true, (((s.forgetTile j t).keepFell ck j.id fell).logEng (j.agent ck) (j.cAddr t 0 0) cSPEC).jobStop ck j.id 1 cSPEC)
        | (true, s) =>
          (true, s.modMjob ck j.id fun x =>
            { x with tile := t + 1, seg := 0, acc := [], steps := x.steps + j.segs, ord2 := x.ord2 || fell, waitOn := none, waited := 0,
                     ended := t + 1 ≥ j.tiles })

/-- The jobs in contexts that may run a block step: not ended, with no earlier job of their group before them (R211). -/
def Core.runnable (c : Core) : List Job :=
  c.jobs.filter fun j => j.ctx && !j.ended &&
    ((c.jobs.takeWhile fun x => x.id != j.id).all fun x => x.uid != j.uid)

/-- The first of several jobs that can run a block step at once runs it; the others wait (R211). -/
def State.tryJobs (s : State) (ck : Nat) : List Job → State
  | [] => s
  | j :: js =>
    match s.jobStep ck j with
    | (false, s) => s.tryJobs ck js
    | (true, s) => s.modCore ck fun c =>
        if c.run = some j.id then { c with leased := c.leased + 1 } else { c with run := some j.id, leased := 1 }

/-- BLOCK_STEP (R209, R211): the running job keeps the engine unless its lease is used up and a job of another group can run. -/
def execBlockStep (ck : Nat) (s : State) : Out :=
  if s.held (ck / 8) || (s.cluster (ck / 8)).changing then .next s
  else
    let c := s.core ck
    let js := c.runnable
    let order := match js.find? fun j => c.run == some j.id with
      | none => js
      | some r =>
        let others := js.filter fun j => j.uid != r.uid
        let lease := if r.card.lease = 0 then 64 else r.card.lease
        if c.leased ≥ lease then others ++ [r] else r :: others
    .next (s.tryJobs ck order)

/-- JOB_ENTER_CONTEXT: the oldest job outside the 4 contexts enters one (R211). -/
def execJobEnterContext (ck : Nat) (s : State) : Out :=
  let c := s.core ck
  if (c.jobs.filter (·.ctx)).length ≥ 4 then .next s
  else
    match c.jobs.find? fun j => !j.ctx with
    | none => .next s
    | some j => .next (s.modMjob ck j.id fun j => { j with ctx := true })

/-! ## Acceptance (R205 to R215) -/

/-- A job card from its 256 bytes and its ASCALE body (R203, R205). -/
def jobCardOf (bs asc : List Byte) : JobCard :=
  { flags := field bs 2 2, af := field bs 4 1, bf := field bs 5 1, cf := field bs 6 1, mt := field bs 8 4, nt := field bs 12 4,
    kt := field bs 16 4, lease := field bs 20 2, abase := Word.ofN (field bs 24 8), apitch := field bs 32 4,
    idxv := Word.ofN (field bs 40 8), bh := field bs 48 1, boff := field bs 52 4, cbase := Word.ofN (field bs 56 8),
    cpitch := field bs 64 4, bpitch := field bs 68 4, ctr := Word.ofN (field bs 72 8), inc := field bs 80 4, csc := field bs 84 1,
    stat := Word.ofN (field bs 88 8),
    lvls := (upFrom 0 5).map fun i =>
      let b := bs.drop (96 + 32 * i)
      { trip := field b 0 4, ast := s32 (field b 4 4), bst := s32 (field b 8 4), cst := s32 (field b 12 4), xst := s32 (field b 16 4),
        dim := field b 20 1 },
    asb := Word.ofN (field asc 0 8), asp := field asc 8 4, abb := Word.ofN (field asc 16 8) }

/-- Whether a code names a block-scaled format. -/
def blockScaled (f : Nat) : Bool := fmtBlock f != 0
/-- Whether A, B and C codes are a row of R196. -/
def codesOk (a b c : Nat) : Bool :=
  let fp8 (x : Nat) := x == 5 || x == 6
  let fp4 (x : Nat) := x == 7 || x == 8
  (a == 1 && b == 1 && c == 1) || (a == 2 && b == 2 && c == 2) || (a == 3 && b == 3 && (c == 2 || c == 3)) ||
  (a == 4 && b == 4 && (c == 2 || c == 4)) || (((fp8 a && fp8 b) || (fp4 a && fp4 b)) && (c == 2 || c == 3 || c == 4)) ||
  (a == 9 && b == 9 && c == 10)
/-- A scratchpad address with SK = 0 (R202). -/
def scratchPlain (va : Word) : Bool := tagScratch va && bits va.toNat 40 40 == 0

/-- The reason that forces classical order by the job's own rules, 0 for none (R209, R217). -/
def ownWhy (c : JobCard) (lock : Bool) : Nat := if c.flag 0 then 1 else if lock then 2 else if c.flag 5 then 3 else 0

/-- The order of a job with what its status word reports: recombined, WHY, and whether ORD 2 was recorded (R209, R218); st
is its status record under RESUME. -/
def orderOf (c : JobCard) (lock : Bool) (st : Option (List Byte)) : Bool × Nat × Bool :=
  let own := ownWhy c lock
  match st.map fun b => field b 2 1 % 4 with
  | none => (own == 0, own, false)
  | some ord =>
    if ord = 3 then (own == 0, own, false)
    else if ord = 1 then (false, if own = 0 then 4 else own, false)
    else (true, 0, ord == 2)

/-- The body of a job card's ASCALE field, if it has one (R203). -/
def Fields.ascale : Fields → List Byte
  | .ok ((_, b) :: _) => b
  | _ => []

/-- The reason that refuses a job, 0 for none (R215); the steps of an unused loop level need no alignment (DESIGN CHOICE; log 78), and
a CSC above 7, of which it says nothing, is refused as 5 to 7 are (DESIGN CHOICE; log 73). -/
def State.jobReason (s : State) (uid : Nat) (bs : List Byte) (fs : Fields) (c : JobCard) (lock : Bool) (st : Option (List Byte)) : Nat :=
  let resv := (s.unit? uid).bind fun u => AMap.get? u.resv c.bh
  let held := match resv with | some r => !r.releasing | none => false
  let (recomb, _, _) := orderOf c lock st
  let used := c.lvls.filter fun l => l.trip != 0
  let scaled := blockScaled c.af
  let ascale := match fs with | .ok ((_, b) :: _) => some b | _ => none
  let zeros := zeroField bs 22 2 && zeroField bs 36 4 && zeroField bs 49 3 && zeroField bs 85 3 &&
    (upFrom 0 5).all fun i => zeroField bs (96 + 32 * i + 21) 11
  let badFields := match fs with
    | .bad => true
    | .ok l => scaled && l.any fun f => f.2.length != 24 || !zeroField f.2 12 4
  let codes := !codesOk c.af c.bf c.cf || (match resv with | some r => r.fmt != c.bf | none => false) || (scaled && ascale.isNone) ||
    (c.flag 5 && (c.af == 1 || c.af == 2 || bits c.flags 7 6 == 3 || (match resv with | some r => !r.spm | none => false)))
  let empty := c.mt = 0 || c.nt = 0 || c.kt = 0
  let mult (f : Nat) (xs : List Nat) (ys : List Int) := xs.all (· % fmtAlign f == 0) && ys.all (· % (fmtAlign f : Int) == 0)
  let places := scratchPlain c.abase && (!c.flag 4 || (scratchPlain c.idxv && c.idxv.toNat % 4 == 0)) &&
    (tagGlobal c.cbase || scratchPlain c.cbase) && (!scaled || (scratchPlain c.asb && (c.af != 8 || scratchPlain c.abb)))
  let aligned := mult c.af [c.abase.toNat, c.apitch] (used.map (·.ast)) && mult c.bf [c.boff, c.bpitch] (used.map (·.bst)) &&
    mult c.cf [c.cbase.toNat, c.cpitch] (used.map (·.cst))
  lowest
    [(0x03, !ctrOk c.ctr || c.csc > 4 || (c.stat != 0 && !statOk c.stat)), (0x05, !held),
     (0x10, field bs 0 2 != 1 || c.flags / 512 != 0 || !zeros), (0x11, badFields), (0x12, codes),
     (0x13, !empty && (used.any (fun l => l.dim > 2) || !c.nestOk recomb)), (0x14, !places || !aligned),
     (0x15, c.flag 8 && (c.stat == 0 || (recomb && ownWhy c lock != 0)))]

/-- A job is accepted (R214, R218): it runs from its first unwritten tile, and with no block steps it is at its end. -/
def State.acceptJob (s : State) (ck tk : Nat) (t : Thread) (c : JobCard) (lock : Bool) (st : Option (List Byte)) : Word × State :=
  let (recomb, why, ord2) := orderOf c lock st
  let (q, s) := s.takeSeq
  let n := ((s.core ck).mxCount + 1) % 2 ^ 32
  let ticket := Word.ofN (n * 65536 + (s.logOf (ck / 64)).getD 0 * 64 + ck % 64)
  let j : Job := { id := q, tk := tk, uid := t.uid, seq := q, card := c, recomb := recomb, why := why, ord2 := ord2, ticket := ticket,
                   decls := s.keptDecls t.uid, after := t.after, tile := 0, steps := 0 }
  let first := match st with
    | some b => if j.segs = 0 then 0 else field b 4 4 / j.segs
    | none => 0
  let j := { j with tile := first, steps := first * j.segs, ended := first ≥ j.tiles }
  (ticket, s.modCore ck fun x => { x with mxCount := n, jobs := x.jobs ++ [j] })

/-- MXL (R214). -/
def execMxl (o : OpX) (s : State) : Out :=
  run (.mxl o) s fun tk t vals s => declsReady tk t s <|
    let ck := s.ckOf t.uid
    let (first, s) := s.leaveQueue ck 8 tk
    checkDst tk o.d s fun s =>
      let accept (c : JobCard) (lock : Bool) (st : Option (List Byte)) (s : State) : Res :=
        withPlace ck 8 tk (s.core ck).jobs.length first .matrix (.job c lock st) s fun s =>
          let (ticket, s) := (s.settleFor ck tk).acceptJob ck tk t c lock st
          .seqR (s.putDst tk o.d ticket)
      match t.offer with
      | some (.job c lock st) => accept c lock st s
      | _ =>
        let va := vals.getD 0 0
        readCard tk t 32 va s fun bs s =>
          readFields tk t va (· == 0x10) (fun k => k == 0x10 && blockScaled (field bs 4 1)) (field bs 7 1) 256 [] [] s fun fs s =>
            let c := jobCardOf bs fs.ascale
            let lock := ((s.jobOf t.uid).map (·.lock)).getD false
            let go (st : Option (List Byte)) (s : State) : Res :=
              let r := s.jobReason t.uid bs fs c lock st
              if r ≠ 0 then .trap s cENGINE r else accept c lock st s
            if c.flag 8 && c.stat != 0 && statOk c.stat then readWords tk t 2 c.stat [] s fun st s => go (some st) s
            else go none s

/-- MATRIX_QUEUE_ACCEPT: a place is free, and the first thread that waits for it offers its card again (R214). -/
def execMatrixQueueAccept (ck : Nat) (s : State) : Out :=
  let c := s.core ck
  match c.waitq.getD 8 [] with
  | tk :: _ => if c.jobs.length < 32 && s.waitsPlace tk then .next (s.reissue tk) else .next s
  | [] => .next s

/-! ## The end of a job (R217) -/

/-- The status word of a job (R217). -/
def Job.status (j : Job) : Nat :=
  j.steps % 2 ^ 32 * 2 ^ 32 + j.why * 2 ^ 18 + (if j.recomb then (if j.ord2 then 2 else 0) else 1) * 2 ^ 16 + j.cause * 2 ^ 8 + j.code

/-- A job that has ended is kept as an op of a channel is, with the group's earlier ones that had no counter (R211, R266, R268; log 26). -/
def State.keepJob (s : State) (ck : Nat) (j : Job) (ctr : Option Loc) : State :=
  let upd := ctr.map fun l => (l, leVal (s.bytesAt (s.specOf j.uid) l 8))
  s.modCore ck fun c => { c with
    doneJobs := (c.doneJobs.map fun x => if x.uid = j.uid && x.upd.isNone then { x with upd := upd } else x) ++ [{ j with upd := upd }] }

/-- The counter of a job after its status record; the job leaves the engine. -/
def State.jobLeave (s : State) (ck : Nat) (j : Job) (ctr : Option Loc) : State :=
  let s := match ctr with
    | some l => s.counterAdd (j.agent ck) j.card.ctr l j.card.inc j.card.csc
    | none => s
  let s := s.modCore ck fun c => { c with jobs := c.jobs.filter fun x => x.id != j.id, run := if c.run = some j.id then none else c.run }
  (s.keepJob ck j ctr).returnHandle j.uid j.card.bh

/-- An access of a job waits for a fault's entry. -/
def State.jobToken (s : State) (ck id key : Nat) (tok : Option Nat) : State :=
  s.modMjob ck id fun j => { j with toks := match tok with | some k => AMap.set j.toks key k | none => j.toks }

/-- The status record, then the counter, of a job that has ended (R217); an off-package status record is delivered before a counter update
of scope sys, which covers it (R266). -/
def State.jobFinish (s : State) (ck : Nat) (j : Job) (ctr : Option Loc) : State :=
  if j.card.stat = 0 || j.statDone then s.jobLeave ck j ctr
  else
    match s.engRuns (j.agent ck) (AMap.get? j.toks keyStat) true 17 j.card.stat 16 with
    | (.wait k, s) => s.jobToken ck j.id keyStat k
    | (.err _, s) => s.jobLeave ck j ctr
    | (.ok rs, s) =>
      let (ok, s) := s.engWriteRuns (j.agent ck) j.writer rs (leBytes 8 j.status ++ leBytes 8 j.ticket.toNat)
      let s := if ok then s else s.logEng (j.agent ck) j.card.stat cSPEC
      if j.card.csc = 4 && !s.engDelivered ck 8 then s.modMjob ck j.id fun j => { j with statDone := true } else s.jobLeave ck j ctr

/-- A job whose counter has been resolved: one that cannot be ends with CODE 1 and that cause (R95, R217). -/
def Job.resolved (j : Job) (c : CtrAt) : Job :=
  match c with
  | .bad e => { j with ctr := some c, code := 1, cause := e }
  | _ => { j with ctr := some c }

/-- The end of a job whose counter has been resolved (R113, R217). -/
def State.jobEnd (s : State) (ck : Nat) (j : Job) (c : CtrAt) : State :=
  match c with
  | .at_ l =>
    (match s.counterWait j.late l with
    | some x => s.jobWait ck j.id x
    | none => s.jobFinish ck j (some l))
  | _ => s.jobFinish ck j none

/-- JOB_END (R211, R217): status and counter, in the acceptance order of the group's jobs. The counter is resolved once. -/
def execJobEnd (ck id : Nat) (s : State) : Out :=
  match s.mjob? ck id with
  | none => .next s
  | some j =>
    if !j.ended || !(((s.core ck).jobs.takeWhile fun x => x.id != id).all fun x => x.uid != j.uid) ||
        (j.card.csc = 4 && !s.engDelivered ck 8) then .next s
    else
      match j.ctr with
      | some c => .next (s.jobEnd ck j c)
      | none =>
        match s.counterLoc (j.agent ck) (AMap.get? j.toks keyCtr) j.card.ctr with
        | (.wait k, s) => .next (s.jobToken ck id keyCtr k)
        | (.is c, s) => .next ((s.modMjob ck id fun j => j.resolved c).jobEnd ck (j.resolved c) c)

/-! ## The watchdog and the buffer's release -/

/-- The window address of a scratchpad line, for a unit. -/
def State.lineAddr (s : State) (uid owner line : Nat) : Word :=
  if owner = uid then Word.ofN (0xF0 * 2 ^ 56 + 128 * line)
  else Word.ofN (0xF1 * 2 ^ 56 + (((s.unit? owner).map fun u => u.idx % u.esize).getD 0) * 2 ^ 53 + 128 * line)

/-- WATCHDOG_TIMEOUT (R103, R219): 4 ms of waiting on an absent scratchpad line end an op or a job; of one whose data phase is over, the
wait for the line of its counter. -/
def execWatchdogTimeout (ck id : Nat) (s : State) : Out :=
  match s.op? ck id, s.mjob? ck id with
  | some o, _ =>
    match o.waitOn with
    | [] => .next s
    | w :: _ =>
      if o.waited + (s.hub.tmr - o.waitFrom) < 4000000 then .next s
      else
        let s := s.logEng (o.agent ck) (s.lineAddr o.uid w.uid w.line) cENGINE
        if o.stopped then .next (s.modOp ck id fun o => { o with late := true, code := 2, cause := cENGINE, waitOn := [] })
        else .next (s.opStop ck id 2 cENGINE)
  | none, some j =>
    match j.waitOn with
    | none => .next s
    | some w =>
      if j.waited + (s.hub.tmr - j.waitFrom) < 4000000 then .next s
      else
        let s := s.logEng (j.agent ck) (s.lineAddr j.uid w.1 w.2) cENGINE
        if j.ended then .next (s.modMjob ck id fun j => { j with late := true, code := 2, cause := cENGINE, waitOn := none })
        else .next (s.jobStop ck id 2 cENGINE)
  | none, none => .next s

/-- HANDLE_RETURN (R201). -/
def execHandleReturn (uid h : Nat) (s : State) : Out := .next (s.returnHandle uid h)

/-- The unit whose scratchpad an address of an op or job of a unit names, if any. -/
def State.scratchOwner (s : State) (uid : Nat) (va : Word) : Option Nat :=
  let t := bits va.toNat 63 56
  if t = 0xF0 then some uid else if t = 0xF1 then s.member uid (bits va.toNat 55 53) else none
/-- The units whose scratchpads an op of a copy channel names: in its source or destination extents, its index list, counter, status word
or completion mask (R201). -/
def State.opOwners (s : State) (o : CopyOp) : List Nat :=
  let dsts := match o.card with
    | .copy c => if c.mc then (c.members (s.esize o.uid) o.mfail).map fun m => memberVa m c.dst else [c.dst]
    | .gath c => [c.dst, c.idx]
  let src := match o.card with
    | .copy c => c.src
    | .gath c => c.src
  (dsts ++ [src, o.card.ctr] ++ o.card.stat.toList).filterMap (s.scratchOwner o.uid)
/-- The same for a job. -/
def State.jobOwners (s : State) (j : Job) : List Nat :=
  let c := j.card
  ([c.abase, c.cbase, c.ctr, c.stat] ++ (if c.flag 4 then [c.idxv] else []) ++ (if fmtBlock c.af = 0 then [] else [c.asb]) ++
    (if c.af = 8 then [c.abb] else [])).filterMap (s.scratchOwner j.uid)
/-- Whether an accepted op or job holds a unit's scratchpad (R201). -/
def State.scratchNamed (s : State) (uid : Nat) : Bool :=
  s.cores.any fun c =>
    (c.2.chans.any fun ops => ops.any fun o => (s.opOwners o).contains uid) || c.2.jobs.any fun j => (s.jobOwners j).contains uid

/-- ALLOCATION_RELEASE (R106, R201): an ended unit's scratchpad is free once every member of its ensemble has ended and no op
names it, and its operand buffer once no op names its reservations. -/
def execAllocationRelease (uid : Nat) (s : State) : Out :=
  match s.unit? uid with
  | none => .next s
  | some u =>
    if u.stat ≠ .ended then .next s
    else
      let members := (upFrom 0 u.esize).filterMap fun k => (s.member uid k).bind s.unit?
      let gone (m : TUnit) : Bool := m.stat == .ended && (AMap.get? s.hub.recs (unitKey m.lid m.idx)).isNone
      let free := members.all gone && !s.scratchNamed uid
      let buffer := gone u && u.resv.all fun r => !s.handleNamed uid r.1
      .next (s.modUnit uid fun u => { u with scrHeld := u.scrHeld && !free, obHeld := u.obHeld && !buffer })

end Sys2Proof.Machine
end

