-- ==== Sys2Proof/Machine/Replies.lean ====
section
/-! DEFINITION. What the memory system does for threads between their instructions: the end of a park, load replies, plain writes
that perform, collector entries that leave, and the work of the stream ports. -/

namespace Sys2Proof.Machine

/-! ## The end of a park (R9) -/

/-- Whether a thread's collective is still held off by a record that failed before (R185, R190). -/
def State.failedOpen (s : State) (t : Thread) : Bool :=
  match s.unit? t.uid with
  | none => false
  | some u =>
    let g := u.gang t.gg
    (match g.gfail with | some l => l.contains t.ln | none => false) ||
    (match AMap.get? g.insts (g.tile t.ln) with | some r => r.failed && r.ord < t.cord | none => false)

/-- The accepted launches that are not yet admitted (R329). -/
def State.waitingLaunches (s : State) : Nat :=
  s.hub.launches.countP fun p => !p.2.complete && !p.2.cancelled && p.2.started.isEmpty && p.2.desc.units != 0

/-- Whether every unit of a launch has ended, with every engine op of its units (R333). -/
def State.launchQuiet (s : State) (lid : Nat) : Bool :=
  match s.launch? lid with
  | none => true
  | some l =>
    (l.cancelled || l.done.length == l.desc.units) &&
    (s.units.all fun p => p.2.lid != lid || p.2.stat == .ended || p.2.stat == .lost) &&
    (s.cores.all fun c => (c.2.chans.all fun ops => ops.all fun o => o.uid / 2 ^ 32 != lid) &&
      c.2.jobs.all fun j => j.uid / 2 ^ 32 != lid)

/-- Whether what a thread is parked for has come about (R9). -/
def State.parkHolds (s : State) (tk : Nat) (t : Thread) (p : Park) : Bool :=
  let ck := s.ckOf t.uid
  let mark := t.mark.getD 0
  match p with
  | .presence u line => !s.isAbsent (.scratch u (128 * line))
  | .fault k => !s.hub.faults.any fun f => f.live && f.token == k
  | .faultFull => decide ((s.hub.faults.filter fun f => f.live && f.ck == some ck).length < 64)
  | .counter l target _ => decide (s.counterAt t.uid l ≥ target) ||
      (s.locErr l 8 true).isSome
  | .chan _ => false
  | .matrix => false
  | .performed sys core clean =>
    (clean && !t.errs.isEmpty) || (!s.uwrOpen tk && s.ownPerformed ck tk && (!core || s.corePerformed ck mark) && (!sys || s.coreDelivered ck mark t.after.acq))
  | .groupWrites => !s.groupWaits t.uid mark
  | .completed => s.exitReady tk || (!t.ending && !t.errs.isEmpty)
  | .instance_ => false
  | .instFreed => !s.failedOpen t
  | .round slot rnd => s.roundOf t.uid slot != rnd
  | .utable => match s.unit? t.uid with
    | none => false
    | some u => let g := u.gang t.gg; decide (t.uord < AMap.get g.ubase (g.tile t.ln) 0 + 8)
  | .specFull => s.specOf t.uid == 0
  | .admitted => decide (s.waitingLaunches < 4096)
  | .specEnd lid => s.launchQuiet lid
  | .haltDone u => !s.issueQ.any fun k => k / 1024 == u

/-- Whether a thread's unit is saved away or lost: no thread of it does anything (R344, R366). -/
def State.away (s : State) (t : Thread) : Bool :=
  match s.unit? t.uid with
  | some u => u.stat == .saving || u.stat == .preempted || u.stat == .lost
  | none => true

/-- A thread that waited to fetch is ready to fetch (R25, R295). -/
def State.unparkFetch (s : State) (tk : Nat) : State := s.modThread tk fun t => { t with park := none, freeAt := s.cycOf t }

/-- The slot of the barrier instruction that a thread is parked at, if it is parked at one. -/
def Thread.barSlot (t : Thread) : Option Nat :=
  if t.park.isNone then none
  else match t.next with
    | .instr (.barArr o) _ => some o.n.1
    | .instr (.barSync o) _ => some o.n.1
    | .instr (.barWait o) _ => some o.n.1
    | _ => none
/-- The place of a thread in the order of lane array, seat and ln; a gang without a seat comes after those of its array. -/
def State.arrayOrder (s : State) (t : Thread) : Nat :=
  match s.unit? t.uid with
  | none => 0
  | some u => let g := u.gang t.gg; ((g.home * 8 + g.seat.getD 7) * 64 + t.gg) * 32 + t.ln
/-- Whether no other thread of its group that may go on at the same barrier slot comes before a parked thread (R192). -/
def State.firstAtBar (s : State) (tk : Nat) (t : Thread) : Bool :=
  match t.barSlot with
  | none => true
  | some k => (s.threadsOf t.uid).all fun p =>
      p.1 == tk || p.2.barSlot != some k || !(p.2.park.any fun x => s.parkHolds p.1 p.2 x) || decide (s.arrayOrder t ≤ s.arrayOrder p.2)

/-- PARK_CONDITION_HOLDS: a thread whose park condition holds tries its instruction again (R9), at a barrier in the order of R192; a
thread that waits to fetch
becomes ready to fetch (R25), a thread that ends as EXIT ends (R342), and a last thread writes its unit's record (R289). -/
def execParkConditionHolds (tk : Nat) (s : State) : Out :=
  match s.thread? tk with
  | none => .next s
  | some t =>
    match t.park with
    | none => .next s
    | some p =>
      if s.away t || !s.parkHolds tk t p || !s.firstAtBar tk t then .next s
      else if !t.live then
        (match s.unit? t.uid with
        | some u =>
          if u.counted then .next (s.modThread tk fun t => { t with park := none })
          else if u.stat = .ended then .next (s.writeRecord t.uid tk u.g)
          else .next (s.unitEnd t.uid tk)
        | none => .next s)
      else if t.ending then .next (s.tryEnding tk)
      else
        match p with
        | .fault _ => if t.fetched then .next (s.reissue tk) else .next (s.unparkFetch tk)
        | .faultFull => if t.fetched then .next (s.reissue tk) else .next (s.unparkFetch tk)
        | _ => .next (s.reissue tk)

/-- WAIT_RECHECK: a WAIT reads its counter again, at most 1 µs after it last did (R104). -/
def execWaitRecheck (tk : Nat) (s : State) : Out :=
  match s.thread? tk with
  | none => .next s
  | some t =>
    match t.park with
    | some (.counter l target u) =>
      if s.away t || !t.live then .next s
      else if s.parkHolds tk t (.counter l target u) then .next (s.reissue tk)
      else .next (s.modThread tk fun t => { t with park := some (.counter l target (s.hub.tmr + 1000)) })
    | _ => .next s

/-! ## Loads (R118, R119, R241, R244) -/

/-- The thread that a completed load leaves: its registers, or the error that waits for its delivery point (R78). -/
def Thread.loadDone (t : Thread) (r : LoadRec) : Thread :=
  let t := { t with loads := t.loads.filter fun x => x.idx != r.idx }
  match r.err with
  | some c => { t with errs := t.errs ++ [{ regs := r.d :: (if r.pair then [r.d + 1] else []), cause := c, tloc := r.tloc }] }
  | none =>
    let t := t.setReg r.d (r.res.getD 0)
    match r.pair, r.res2 with
    | true, some v => t.setReg (r.d + 1) v
    | _, _ => t

/-- LOAD_REPLY: the result of an outstanding load arrives (R118, R119). An acquire at die scope or wider refreshes the core's L1
then (R241, R256), and an access that the thread waits for makes it fetch its stream elements again (R128). -/
def execLoadReply (tk idx : Nat) (s : State) : Out :=
  match s.thread? tk with
  | none => .next s
  | some t =>
    match t.loads.find? fun r => r.idx == idx with
    | none => .next s
    | some r =>
      if s.away t || (r.res.isNone && r.err.isNone) then .next s
      else
        let s := match r.err with | some c => s.logThread t r.va c 0 | none => s
        let s := s.modThread tk fun t =>
          let t := t.loadDone r
          if r.block then t.dropPrefetched else t
        let s := if r.acq && r.err.isNone then s.refresh (s.ckOf t.uid) else s
        .next (s.tryEnding tk)

/-! ## Plain writes (R115, R255) -/

/-- Whether a pending write arrives together with another: it is that write, or left with it in one collector entry (R115, R396). -/
def Pend.with_ (p q : Pend) : Bool := q.seq == p.seq || (p.ent != 0 && q.ent == p.ent)

/-- STORE_PERFORM: pending write number idx of a core performs at its home, with those of its collector entry, once the entry has left and
no older pending write shares a byte with one of them (R115, R252, R255, R396). -/
def execStorePerform (ck idx : Nat) (s : State) : Out :=
  let ps := (s.core ck).pend
  match ps[idx]? with
  | none => .next s
  | some p =>
    let out := (pickWrites p.with_ ps).1
    if p.inColl || !out.all p.with_ then .next s
    else .next (out.foldl (fun s q => s.tryEnding q.tk) (s.performWhere ck p.with_))

/-- COLLECTOR_SEND: a collector entry leaves with the accesses that joined it (R115). -/
def execCollectorSend (ck idx : Nat) (s : State) : Out :=
  match (s.core ck).coll[idx]? with
  | none => .next s
  | some e => .next (s.sendEntry ck e.line)

/-! ## Stream ports (R126 to R128) -/

/-- STREAM_PREFETCH: an in-port fetches the element after those it holds (R126). -/
def execStreamPrefetch (tk port : Nat) (s : State) : Out :=
  match s.thread? tk with
  | none => .next s
  | some t =>
    if s.away t || !t.live then .next s else .next (s.fetchNext tk port)

/-- STREAM_OUT_DRAIN: the oldest element of a thread's out-ports, where a port holds it, goes to the memory system (R127, R128). -/
def execStreamOutDrain (tk port : Nat) (s : State) : Out :=
  match s.thread? tk with
  | none => .next s
  | some t =>
    if s.away t || t.oldestOut != some port then .next s
    else .next ((s.drainOne tk).2.tryEnding tk)

end Sys2Proof.Machine
end

