-- ==== Sys2Proof/Machine/Sequencer.lean ====
section
/-! DEFINITION. The job sequencer's shared operations: its accesses, mirror words, launch descriptors, and the placing and
starting of units. -/

namespace Sys2Proof.Machine

/-! ## Jobs, graphs, chains -/

/-- Changes a chain. -/
def State.modChain (s : State) (n : Nat) (f : Chain → Chain) : State :=
  s.modHub fun h => { h with chains := setAt h.chains n (f (h.chains.getD n {})) }
/-- The chain of a number. -/
def State.chain (s : State) (n : Nat) : Chain := s.hub.chains.getD n {}
/-- The graph of a key. -/
def State.graph? (s : State) (key : Nat) : Option Graph := s.hub.graphs.find? fun g => g.key == key
/-- The open graph of an id (R314). -/
def State.openGraph (s : State) (gid : Nat) : Option Graph := s.hub.graphs.find? fun g => g.gid == gid && !g.complete
/-- Changes a graph. -/
def State.modGraph (s : State) (key : Nat) (f : Graph → Graph) : State :=
  s.modHub fun h => { h with graphs := h.graphs.map fun g => if g.key = key then f g else g }
/-- The launches of a graph. -/
def State.launchesOf (s : State) (key : Nat) : AMap Launch := s.hub.launches.filter fun p => p.2.gkey == key
/-- The units of a launch. -/
def State.unitsOf (s : State) (lid : Nat) : AMap TUnit := s.units.filter fun p => p.2.lid == lid

/-- Whether an accepted cancellation covers a launch (R329, R330, R334). -/
def State.cancelCovers (s : State) (l : Launch) (lid : Nat) (c : Cancellation) : Bool :=
  match c.level with
  | 1 => c.id == lid
  | 2 => c.id == l.gkey
  | 3 => c.jid == l.jid && (match s.graph? l.gkey with | some g => g.phase == c.id | none => false)
  | 4 => c.jid == l.jid
  | _ => false
/-- Whether a launch is cancelled or a cancellation that covers it has been accepted. -/
def State.cancelling (s : State) (lid : Nat) : Bool :=
  match s.launch? lid with
  | none => false
  | some l => l.cancelled || s.hub.cancels.any fun c => s.cancelCovers l lid c

/-! ## The sequencer's accesses (R415) -/

/-- An error of the sequencer in the management log, with the DPA where there is one (R313, R385). -/
def State.logSeq (s : State) (dpa : Option Nat) (cause : Nat) : State :=
  match dpa with
  | some d => s.logMgmt d cause 7 0
  | none =>
    let (k, s) := s.takeFresh
    s.logMgmt (undefWord k).toNat cause 7 0

/-- What an access of the sequencer in a job's address space gives. -/
inductive SeqAcc where
  | ok (d : Nat)
  | err (cause : Nat) (dpa : Option Nat)
  | wait
  deriving DecidableEq, Repr

/-- The keys under which the waits of the sequencer's accesses are kept: a chain's entry is its number. -/
def keyLevel (level id : Nat) : Nat := (level + 1) * 2 ^ 128 + id
/-- The key of the wait of a launch's WCTR read. -/
def keyWctr (lid : Nat) : Nat := 6 * 2 ^ 128 + lid
/-- The key of the wait of what the sequencer reads for a thread's LAUNCH. -/
def keyThread (tk : Nat) : Nat := 7 * 2 ^ 128 + tk

/-- Forgets the wait of an access. -/
def State.seqDone (s : State) (key : Nat) : State := s.modHub fun h => { h with seqToks := AMap.del h.seqToks key }

/-- Translates an address of a job for n bytes of the sequencer's access (R54, R415). -/
def State.seqXlate (s : State) (key : Nat) (j : HJob) (va : Word) (n : Nat) (write : Bool) : SeqAcc × State :=
  if !tagGlobal va then (.err cADDR none, s)
  else if (match AMap.get? s.hub.seqToks key with
      | some k => s.hub.refused.contains (k, va.toNat / 65536)
      | none => false) then (.err cXLATE none, s.seqDone key)
  else
    let kind := if write then 7 else 6
    match s.translate j.asn j.root va kind with
    | (.ok d _, s) =>
      match s.targetErr d n (!write) with
      | some c => (.err c (some d), s.seqDone key)
      | none => (.ok d, s)
    | (.fault r, s) =>
      let (k, s) := s.raiseFault none j.asn va kind r
      (.wait, match k with | some k => s.modHub fun h => { h with seqToks := AMap.set h.seqToks key k } | none => s)
    | (.malformed, s) => (.err cXLATE none, s.seqDone key)
    | (.err c d, s) => (.err c (some d), s.seqDone key)

/-- What a read of the sequencer gives. -/
inductive SeqRead where
  | ok (bs : List Byte)
  | err (cause : Nat) (dpa : Option Nat)
  | wait
  deriving DecidableEq, Repr

/-- Reads n bytes at their homes, page by page (R316, R415). -/
def State.seqRead (s : State) (key : Nat) (j : HJob) : Nat → Word → Nat → SeqRead × State
  | 0, _, _ => (.ok [], s)
  | fuel + 1, va, n =>
    if n = 0 then (.ok [], s)
    else
      let k := Nat.min n (65536 - va.toNat % 65536)
      match s.seqXlate key j va k false with
      | (.wait, s) => (.wait, s)
      | (.err c d, s) => (.err c d, s)
      | (.ok d, s) =>
        match s.seqRead key j fuel (va + Word.ofN k) (n - k) with
        | (.ok bs, s) => (.ok (s.bytesAt 0 (.home d) k ++ bs), s)
        | r => r

/-- The sequencer writes at a home (R313, R333): for a launch's committed lines, in the name of its first thread. -/
def State.seqStore (s : State) (d : Nat) (bs : List Byte) (lid : Nat := 0) : State :=
  let (q, s) := s.takeSeq
  ((s.writeAt 0 (.home d) bs).noteWrite .agent q (.home d) bs.length).offWrite q (threadKey (unitKey lid 0) 0) 0 d bs
    (some (2 ^ 16, if lid = 0 then 0 else 1))

/-- Writes bytes within one page; an error is logged (R313, R318); none where the access waits. -/
def State.seqWrite (s : State) (key : Nat) (j : HJob) (va : Word) (bs : List Byte) : Bool × State :=
  match s.seqXlate key j va bs.length true with
  | (.wait, s) => (false, s)
  | (.err c d, s) => (true, s.logSeq d c)
  | (.ok d, s) => (true, (s.seqDone key).seqStore d bs)

/-- Adds 1 to a mirror word (R94, R313); false where the access waits. -/
def State.bump (s : State) (key : Nat) (j : HJob) (va : Word) : Bool × State :=
  if va = 0 then (true, s)
  else if va.toNat % 8 ≠ 0 then (true, s.logSeq none cADDR)
  else
    match s.seqXlate key j va 8 true with
    | (.wait, s) => (false, s)
    | (.err c d, s) => (true, s.logSeq d c)
    | (.ok d, s) => (true, (s.seqDone key).seqStore d (leBytes 8 (leVal (s.bytesAt 0 (.home d) 8) + 1)))

/-- What a counter of the sequencer shows (R318). -/
inductive SeqCtr where
  | val (v : Nat)
  | err (cause : Nat) (dpa : Option Nat)
  | wait
  deriving DecidableEq, Repr

/-- Reads a counter at its home (R318). -/
def State.seqCounter (s : State) (key : Nat) (j : HJob) (va : Word) : SeqCtr × State :=
  match s.seqXlate key j va 8 false with
  | (.wait, s) => (.wait, s)
  | (.err c d, s) => (.err c d, s)
  | (.ok d, s) => (.val (leVal (s.bytesAt 0 (.home d) 8)), s.seqDone key)

/-! ## The launch descriptor (R322, R323) -/

/-- The roles of a descriptor, those after an unused one left out; each entry is CODE + its offset. -/
def rolesOf (bs : List Byte) : List Role :=
  ((upFrom 0 4).map fun k =>
    let code := Word.ofN (field bs 0 8)
    ({ gangs := field bs (32 + 8 * k) 1, regs := field bs (33 + 8 * k) 1,
       entry := code + Word.ofN (if k = 0 then field bs 8 4 else field bs (36 + 8 * k) 4) } : Role)).takeWhile fun r => r.gangs != 0

/-- The descriptor that 128 bytes hold (R322). -/
def descOf (bs : List Byte) : Desc :=
  let mode := field bs 16 4
  { units := field bs 12 4
    cls := bits mode 7 0
    prio := bits mode 15 8
    e := bits mode 23 16
    spread := bits mode 24 24 == 1
    specv := bits mode 25 25 == 1
    dbgp := bits mode 26 26 == 1
    spb := field bs 20 4
    obb := field bs 24 4
    pvb := field bs 28 4
    roles := rolesOf bs
    lctr := Word.ofN (field bs 72 8)
    urec := Word.ofN (field bs 80 8)
    traph := Word.ofN (field bs 88 8)
    save := Word.ofN (field bs 96 8)
    spbuf := Word.ofN (field bs 104 8) }

/-- The ensemble size: 0 is read as 1 (R322). -/
def Desc.size (d : Desc) : Nat := if d.e = 0 then 1 else d.e
/-- The threads of a unit. -/
def Desc.threads (d : Desc) : Nat := (d.roles.map fun r => 32 * r.gangs).sum
/-- The register file bytes of a unit (R325). -/
def Desc.regBytes (d : Desc) : Nat := (d.roles.map fun r => r.gangs * 32 * r.regs * 8).sum

/-- Whether a role, its GANGS and its REGS follow R323. -/
def rolesBad (bs : List Byte) : Bool :=
  let gangs (k : Nat) := field bs (32 + 8 * k) 1
  let regs (k : Nat) := field bs (33 + 8 * k) 1
  gangs 0 == 0 ||
  (upFrom 0 3).any (fun k => gangs k == 0 && gangs (k + 1) != 0) ||
  (upFrom 0 4).any (fun k => gangs k != 0 && (regs k % 4 != 0 || regs k < 8 || regs k > 60)) ||
  ((upFrom 0 4).map gangs).sum > 32

/-- Whether the entry address of a used role is odd (R323). -/
def entryOdd (bs : List Byte) (k : Nat) : Bool :=
  field bs (32 + 8 * k) 1 != 0 && (field bs 0 8 + field bs (if k = 0 then 8 else 36 + 8 * k) 4) % 2 == 1

/-- The fields that reason 0x20 of R323 names; the speculation header's 64 bytes where the launch is speculative (R331). -/
def descBad (bs : List Byte) (spec : Option (List Byte)) : Bool :=
  let d := descOf bs
  bits (field bs 16 4) 31 27 != 0 || (upFrom 0 4).any (fun k => field bs (34 + 8 * k) 2 != 0) || !zeroField bs 112 16 ||
  d.cls > 2 || d.prio > 3 || d.e > 8 || d.units % d.size != 0 || d.spb > 524288 || d.obb > 262144 || d.pvb > 262144 ||
  d.pvb % 16 != 0 || (d.specv && d.spbuf == 0) || d.traph.toNat % 2 == 1 ||
  (upFrom 0 4).any (entryOdd bs) || field bs 64 8 % 8 != 0 || d.urec.toNat % 16 != 0 || d.lctr.toNat % 8 != 0 ||
  (d.specv && d.spbuf.toNat % 128 != 0) ||
  (match spec with
    | some h => !zeroField h 16 48 || field h 0 8 % 128 != 0 || field h 0 8 < 4096
    | none => false)

/-! ## Cores that a job may use (R319, R325, R327) -/

/-- A core with its place in the order of logical die and core. -/
structure Site where
  pos : Nat
  ck  : Nat
  deriving DecidableEq, Repr

/-- Whether a job's reservations name a core, by its logical place. -/
def HJob.reserves (j : HJob) (pos : Nat) : Bool := bits (j.resv.getD (pos / 64) 0).toNat (pos % 64) (pos % 64) == 1
/-- Whether a job reserves cores. -/
def HJob.reserved (j : HJob) : Bool := j.resv.any (· != 0)

/-- The cores of the logical dies that a job may use by reservations alone (R319). -/
def State.sites (s : State) (jid : Nat) : List Site :=
  match s.job? jid with
  | none => []
  | some j =>
    (upFrom 0 4).flatMap fun d =>
      match s.physOf d with
      | none => []
      | some p => (upFrom 0 64).filterMap fun c =>
        let pos := 64 * d + c
        let ok := if j.reserved then j.reserves pos else !s.hub.jobs.any fun x => x.1 != jid && x.2.reserves pos
        if ok then some { pos := pos, ck := 64 * p + c } else none

/-- Whether a power cluster is gated (R376). -/
def Cluster.gated (c : Cluster) : Bool := c.crat == 3 || (c.changing && c.goal == 3)
/-- The cores where the distributor may place units of a job now: on dies that are up and not being reset, in clusters that are
not gated (R363, R376). -/
def State.openSites (s : State) (jid : Nat) : List Site :=
  (s.sites jid).filter fun x => s.hub.ep.getD (x.ck / 64) 0 == 2 && !(s.cluster (x.ck / 8)).gated

/-- Whether a unit of a descriptor can never be placed (reason 0x22 of R323): of n cores of a cluster, n / E sets of E take the ensembles,
k on each core. Cores that another open job reserves at the moment count as cores that the launch can never use (DESIGN CHOICE; log 91). -/
def State.neverFits (s : State) (jid : Nat) (d : Desc) : Bool :=
  let per (lim n : Nat) : Nat := if n = 0 then 16 else lim / n
  let k := min 16 (min (min (per 786432 d.regBytes) (per 3072 d.threads)) (min (per 524288 (roundUp d.spb 128)) (per 262144 (roundUp d.obb 128))))
  let sites := s.sites jid
  let room := ((upFrom 0 32).map fun c =>
    let n := sites.countP fun x => x.pos / 8 == c
    n / d.size * k).sum
  room == 0 || (d.cls == 0 && d.units / d.size > room)

/-- The reason of R323 for which a descriptor is refused, 0 for none; args says whether its argument block was read. -/
def State.refusal (s : State) (jid : Nat) (bs : List Byte) (args : Bool) (spec : Option (List Byte)) : Nat :=
  lowest [(0x20, descBad bs spec), (0x21, rolesBad bs), (0x22, !rolesBad bs && s.neverFits jid (descOf bs)), (0x23, !args)]

/-! ## Accepting a launch (R314, R322, R329) -/

/-- A launch is accepted into a graph with its copies of descriptor and arguments. The id is the next one (R314; log 9). -/
def State.acceptLaunch (s : State) (jid gkey : Nat) (bs args : List Byte) (spec : Option (Nat × List Byte)) (wctr wval : Word) : Nat × State :=
  let lid := s.hub.nextLid
  let d := descOf bs
  let l : Launch :=
    { gkey := gkey
      jid := jid
      desc := d
      args := (upFrom 0 16).map fun k => Word.ofN (field args (8 * k) 8)
      wctr := wctr
      wval := wval
      wok := wctr == 0
      spec := spec.map fun x => { cap := (field x.2 0 8 - 64) / 144, head := x.1, hdr := x.2 } }
  (lid, s.modHub fun h => { h with nextLid := h.nextLid + 1, launches := AMap.set h.launches lid l })

/-! ## Placing a unit (R325, R327, R346) -/

/-- What the units on a core take of it. -/
structure Load where
  regs  : Nat := 0
  thr   : Nat := 0
  scr   : Nat := 0
  ob    : Nat := 0
  slots : List Nat := []
  bps   : Nat := 0
  wps   : Nat := 0

/-- Whether a unit holds registers and a slot of its core. -/
def TUnit.onCore (u : TUnit) : Bool := u.stat == .resident || u.stat == .saving

/-- What the units on a core take of it (R325, R351). -/
def State.load (s : State) (ck : Nat) : Load :=
  s.units.foldl (fun (a : Load) p =>
    let u := p.2
    if u.ck ≠ ck then a
    else
      let a := { a with scr := a.scr + (if u.scrHeld then u.scrSize else 0), ob := a.ob + (if u.obHeld then u.obSize else 0) }
      if !u.onCore then a
      else
        let d := (s.launch? u.lid).map (·.desc)
        { a with regs := a.regs + (d.map Desc.regBytes).getD 0
                 thr := a.thr + u.g
                 slots := u.slot :: a.slots
                 bps := a.bps + u.dbg.bps.countP (·.isSome)
                 wps := a.wps + u.dbg.wps.countP (·.isSome) }) {}

/-- The debug state with which a unit starts or resumes (R346, R349). -/
def State.dbgOf (s : State) (lid idx : Nat) : UnitDbg :=
  match (s.unit? (unitKey lid idx)).filter fun u => u.stat != .lost with
  | some u => if u.stat = .preempted then u.dbg else {}
  | none => ((s.launch? lid).bind fun l => AMap.get? l.preDbg idx).getD {}

/-- Whether a unit fits a core now (R325, R346). -/
def State.fits (s : State) (d : Desc) (dbg : UnitDbg) (ck : Nat) : Bool :=
  let a := s.load ck
  a.regs + d.regBytes ≤ 786432 && a.thr + d.threads ≤ 3072 && a.scr + roundUp d.spb 128 ≤ 524288 &&
  a.ob + roundUp d.obb 128 ≤ 262144 && a.slots.length < 16 &&
  a.bps + dbg.bps.countP (·.isSome) ≤ 8 && a.wps + dbg.wps.countP (·.isSome) ≤ 4

/-- The sites, one for each unit of an ensemble and lowest first, on which the units fit (R327, R346). -/
def State.assign (s : State) (d : Desc) : List UnitDbg → List Site → Option (List Site)
  | [], _ => some []
  | g :: gs, open_ => (open_.filter fun x => s.fits d g x.ck).findSome? fun x =>
      (s.assign d gs (open_.filter fun y => y.pos != x.pos)).map (x :: ·)
/-- The sites of a cluster, by its logical place, on which the units of an ensemble fit. -/
def State.clusterSites (s : State) (d : Desc) (dbgs : List UnitDbg) (open_ : List Site) (c : Nat) : Option (List Site) :=
  s.assign d dbgs (open_.filter fun x => x.pos / 8 == c)

/-- The least element by a key. -/
def minBy {α : Type} (key : α → Nat) : List α → Option α
  | [] => none
  | x :: xs => match minBy key xs with
    | none => some x
    | some y => if key x ≤ key y then some x else some y

/-- The cores on which an ensemble, or one unit, of a launch is placed (R327); none where it does not fit. -/
def State.chooseSites (s : State) (lid : Nat) (l : Launch) (idxs : List Nat) : Option (List Site) :=
  let d := l.desc
  let open_ := s.openSites l.jid
  let dbgs := idxs.map fun i => s.dbgOf lid i
  let n := idxs.length
  let at_ (c : Nat) : Option (List Site) := s.clusterSites d dbgs open_ c
  let clusters := (upFrom 0 32).filter fun c => (at_ c).isSome
  if !d.spread then
    let held := ((s.unitsOf lid).filter fun p => p.2.onCore).map fun p => p.2.ck
    let holds (c : Nat) : Bool := open_.any fun x => x.pos / 8 == c && held.any fun k => k / 8 == x.ck / 8
    ((clusters.find? holds).or clusters.head?).bind at_
  else if n = 1 then
    (minBy (fun x => 256 * (s.load x.ck).slots.length + x.pos) (open_.filter fun x => dbgs.all fun g => s.fits d g x.ck)).map fun x => [x]
  else
    let used (c : Nat) : Nat := ((open_.filter fun x => x.pos / 8 == c).map fun x => (s.load x.ck).slots.length).sum
    let free (c : Nat) : Nat := (open_.countP fun x => x.pos / 8 == c) * 16 - used c
    (minBy (fun c => (128 - free c) * 32 + c) clusters).bind at_

/-! ## Starting a unit (R324) -/

/-- A thread at unit start (R130, R131, R324). -/
def newThread (uid tg : Nat) (r : Role) (pvb : Nat) : Thread :=
  let v := List.replicate r.regs 0
  let t : Thread := { uid := uid, tg := tg, nregs := r.regs, v := if r.regs = 60 then setAt v 58 (0xF200000000000000 + Word.ofN pvb) else v,
                      rpc := r.entry, pc := r.entry }
  t.startRegion r.entry

/-- The threads of a unit, numbered across its roles (R182). -/
def threadsFrom (uid pvb : Nat) : Nat → List Role → List (Nat × Thread)
  | _, [] => []
  | tg, r :: rs =>
    (upFrom tg (32 * r.gangs)).map (fun k => (threadKey uid k, newThread uid k r pvb)) ++ threadsFrom uid pvb (tg + 32 * r.gangs) rs

/-- The lowest free thread-group slot of a core (R324). -/
def State.freeSlot (s : State) (ck : Nat) : Nat := ((upFrom 0 16).find? fun k => !(s.load ck).slots.contains k).getD 0

/-- Home arrays for n gangs on a core that keep the arrays' gang counts level (R294), given the counts so far. -/
def homes : List Nat → Nat → List Nat
  | _, 0 => []
  | counts, n + 1 =>
    let a := (minBy (fun k => 4 * counts.getD k 0 + k) (upFrom 0 4)).getD 0
    a :: homes (setAt counts a (counts.getD a 0 + 1)) n
/-- Home arrays for n new gangs on a core. -/
def State.newHomes (s : State) (ck n : Nat) : List Nat := homes ((upFrom 0 4).map fun a => (s.homedOn ck a).length) n


/-- The size of a save block (R345). -/
def Desc.saveSize (d : Desc) : Nat :=
  roundUp (4096 + (d.roles.map fun r => r.gangs * 32 * (8 * r.regs + 256)).sum + roundUp d.spb 128 + roundUp d.obb 128 + d.pvb * d.threads) 4096
/-- Where the save block of a unit lies (R345). -/
def Desc.saveAt (d : Desc) (idx : Nat) : Word := Word.ofN (d.save.toNat / 4096 * 4096 + idx * d.saveSize)

/-- The homes of n bytes from a global address in a job's address space, as far as they are mapped: no fault is raised. -/
def State.quietPages (s : State) (jid : Nat) (va : Word) (n : Nat) : List Run :=
  match s.job? jid with
  | none => []
  | some j => (upFrom 0 (n / 65536 + 2)).filterMap fun k =>
      let lo := max va.toNat ((va.toNat / 65536 + k) * 65536)
      let hi := min (va.toNat + n) ((va.toNat / 65536 + k + 1) * 65536)
      if lo < hi then
        match s.walkFrom lo j.root.toNat 4 0 with
        | .ok d _ => some { loc := .home d, n := hi - lo }
        | _ => none
      else none

/-- A unit starts on a core, after what came before that start (R256, R324). Its own windows and its save block hold undefined values (R7, R345). -/
def State.startUnit (s : State) (lid idx ck : Nat) (l : Launch) : State :=
  let d := l.desc
  let uid := unitKey lid idx
  let g := d.threads
  let (q, s) := s.takeSeq
  let gangs := ((s.newHomes ck (g / 32)).zip (upFrom 0 (g / 32))).map fun x =>
    (x.2, ({ home := x.1, since := (s.cluster (ck / 8)).clk, priv := ({} : Store).forget 0 (32 * roundUp d.pvb 8) (s.fresh + 1 + x.2) } : Gang))
  let u : TUnit :=
    { lid := lid
      idx := idx
      ck := ck
      slot := s.freeSlot ck
      esize := d.size
      g := g
      uni := l.args ++ [Word.ofN idx, Word.ofN d.units, Word.ofN lid] ++ List.replicate 141 0
      scrSize := roundUp d.spb 128
      obSize := roundUp d.obb 128
      obuf := ({} : Store).forget 0 (roundUp d.obb 128) s.fresh
      bars := List.replicate 16 { c := g }
      gangs := gangs
      order := q
      startClk := (s.cluster (ck / 8)).clk
      dbg := s.dbgOf lid idx
      save := if d.save = 0 then [] else s.quietPages l.jid (d.saveAt idx) d.saveSize }
  let halted := u.dbg.halt
  let ts := (threadsFrom uid d.pvb 0 d.roles).map fun p => (p.1, { p.2 with halted := halted, after := { acq := s.seq } })
  let old : AMap Thread := s.threads.filter fun p => p.2.uid != uid
  let s := u.save.foldl (fun s r => s.forgetAt r.loc r.n) { s with fresh := s.fresh + 1 + g / 32 }
  let s := { s with threads := old ++ ts, units := AMap.set s.units uid u }
  let s := s.modLaunch lid fun l => { l with started := if l.started.contains idx then l.started else l.started ++ [idx], preDbg := AMap.del l.preDbg idx }
  (s.refresh ck).throttle ck

end Sys2Proof.Machine
end

