-- ==== Sys2Proof/Machine/Units.lean ====
section
/-! DEFINITION. The life of a unit: stopping, cancelling, saving and restoring it, and the order in which the distributor admits,
resumes and pre-empts units. -/

namespace Sys2Proof.Machine

/-! ## Engine ops of a unit that stops (R105, R221) -/

/-- The copy ops of a unit, in order of acceptance. -/
def State.opsOf (s : State) (uid : Nat) : List (Nat × CopyOp) :=
  s.cores.flatMap fun c => (c.2.chans.flatten.filter fun o => o.uid == uid).map fun o => (c.1, o)
/-- The matrix jobs of a unit, in order of acceptance. -/
def State.mjobsOf (s : State) (uid : Nat) : List Job := s.cores.flatMap fun c => c.2.jobs.filter fun j => j.uid == uid

/-- The destination bytes of an op become undefined. -/
def State.forgetDst (s : State) (o : CopyOp) : State :=
  (s.dstNow o).foldl (fun s r => s.forgetAs (s.specOf o.uid) r.loc r.n) s

/-- The engine ops of a unit end with no status and no counter update, and their presence bits are set; undef says that the
destinations of its copies become undefined (R105, R221). -/
def State.dropOps (s : State) (uid : Nat) (undef : Bool) : State :=
  let s := (s.opsOf uid).foldl (fun s x => (if undef then s.forgetDst x.2 else s).setAllPresent x.1 x.2.id) s
  { s with cores := s.cores.map fun c =>
      let jobs := c.2.jobs.filter fun j => j.uid != uid
      (c.1, { c.2 with
        chans := c.2.chans.map fun ops => ops.filter fun o => o.uid != uid
        waitq := c.2.waitq.map fun q => q.filter fun tk => tk / 1024 != uid
        jobs := jobs
        run := match c.2.run with
          | some k => if jobs.any (fun j => j.id == k) then some k else none
          | none => none }) }

/-! ## Stopping a unit -/

/-- No thread of a unit issues again: its seats are free (R309, R344). -/
def State.unseatUnit (s : State) (uid : Nat) : State :=
  let gangs := ((s.unit? uid).map fun u => u.gangs.map (·.1)).getD []
  let s := gangs.foldl (fun s gg => s.freeSeat uid gg) s
  { s with issueQ := s.issueQ.filter fun tk => tk / 1024 != uid }

/-- Every handle of a unit is releasing, and returns once no op names it (R201). -/
def State.releaseHandles (s : State) (uid : Nat) : State :=
  let s := s.modUnit uid fun u => { u with resv := u.resv.map fun p => (p.1, { p.2 with releasing := true }) }
  (((s.unit? uid).map fun u => u.resv.map (·.1)).getD []).foldl (fun s h => s.returnHandle uid h) s

/-! ## Cancelling (R330) -/

/-- The completion record of a cancelled unit is written, or is none: the sequencer counts the unit (R313, R330). -/
def State.recDone (s : State) (uid : Nat) : State :=
  let s := s.modHub fun h => { h with recs := AMap.del h.recs uid }
  let s := s.modUnit uid fun u => { u with counted := true }
  s.modLaunch (uid / 2 ^ 32) fun l => { l with done := if l.done.contains (uid % 2 ^ 32) then l.done else l.done ++ [uid % 2 ^ 32] }

/-- Writes the completion record of a cancelled unit, or waits for its translation, for the writes that its threads have issued, and for the
publication of the core at its end (R255, R330, R415). -/
def State.tryRecord (s : State) (uid : Nat) : State :=
  if (s.threadsOf uid).any (fun p => !p.2.outEmpty) || ((s.unit? uid).any fun u => u.endMark != 0 && !s.corePerformed u.ck u.endMark) then s
  else match AMap.get? s.hub.recs uid, s.launch? (uid / 2 ^ 32) with
  | some bs, some l =>
    match s.job? l.jid with
    | none => s.recDone uid
    | some j =>
      if l.desc.urec = 0 then s.recDone uid
      else match s.seqWrite (keyLevel 0 uid) j (l.desc.urec + Word.ofN (16 * (uid % 2 ^ 32))) bs with
        | (true, s) => s.recDone uid
        | (false, s) => s
  | _, _ => s

/-- A record with THREADS = 0 (R330). -/
def recordBytes (smax sor cycles : Nat) : List Byte := leBytes 1 smax ++ leBytes 1 sor ++ leBytes 2 0 ++ leBytes 4 0 ++ leBytes 8 cycles

/-- A thread that issues nothing further; what its out-ports hold still performs (R330). -/
def Thread.dead (t : Thread) : Thread :=
  { t with live := false, ending := false, park := none, resume_ := false, loads := [], errs := [],
           ports := t.ports.map fun p => { fout := p.fout, tokOut := p.tokOut },
           loops := [], pbuf := [], halted := false, stepping := false }

/-- A unit is cancelled (R330): one that has not started never does; one that is resident or saved away stops, its ops are
cancelled, its issued writes still perform, with those of its core (R255), and its record is written. -/
def State.cancelUnit (s : State) (lid idx : Nat) : State :=
  let uid := unitKey lid idx
  match s.launch? lid with
  | none => s
  | some l =>
    if idx ≥ l.desc.units || l.done.contains idx || (AMap.get? s.hub.recs uid).isSome then s
    else
      match s.unit? uid with
      | none => (s.modHub fun h => { h with recs := AMap.set h.recs uid (recordBytes 0 0 0) }).tryRecord uid
      | some u =>
        if u.stat = .ended then s
        else
          let cycles := if u.stat = .resident then s.unitCycles u else u.cycles
          let s := if u.stat = .resident then s.publish u.ck else (s.liveOf uid).foldl (fun s p => s.drainOut p.1) s
          let s := u.savedOps.foldl (fun s o => s.forgetDst o) s
          let s := (s.dropOps uid true).unseatUnit uid
          let s := s.modThreadsOf uid fun t => if t.live then t.dead else t
          let s := s.modUnit uid fun x =>
            { x with stat := .ended, cycles := cycles, dbg := {}, savedOps := [], savedJobs := [],
                     endMark := if u.stat = .resident then s.seq else 0,
                     gangs := x.gangs.map fun g => (g.1, { g.2 with insts := [], utab := [], ubase := [], gfail := none }) }
          let s := (s.releaseHandles uid).throttle u.ck
          (s.modHub fun h => { h with recs := AMap.set h.recs uid (recordBytes u.smax u.sor cycles) }).tryRecord uid

/-- The speculation buffer of a launch is given up: its header holds CAP again, and USED (R331). -/
def State.dropBuffer (s : State) (lid : Nat) : State :=
  match (s.launch? lid).bind (·.spec) with
  | none => s
  | some b =>
    let s := s.modLaunch lid fun l => { l with spec := none }
    if b.hdr.isEmpty then s
    else
      let bs := b.hdr.take 8 ++ leBytes 8 b.lines.length ++ b.hdr.drop 16
      let (q, s) := (s.putHomes b.head bs).takeSeq
      s.offWrite q (threadKey (unitKey lid 0) 0) 0 b.head bs (some (2 ^ 16, 0))

/-- A launch is cancelled; a speculative one is discarded with its buffer (R330, R333). One that a commit has resolved is not: the first
accepted decides (R334). -/
def State.cancelLaunch (s : State) (lid : Nat) : State :=
  match s.launch? lid with
  | none => s
  | some l =>
    if l.complete || l.cancelled || l.resolved then s
    else
      let s := (s.dropBuffer lid).modLaunch lid fun l => { l with cancelled := true, resolved := true, preDbg := [] }
      (upFrom 0 l.desc.units).foldl (fun s i => s.cancelUnit lid i) s

/-- A graph is cancelled, which closes it (R313, R330). -/
def State.cancelGraph (s : State) (key : Nat) : State :=
  match s.graph? key with
  | none => s
  | some g =>
    if g.complete || g.cancelled then s
    else
      let s := s.modGraph key fun g => { g with cancelled := true, closed := true }
      let s := s.modJob g.jid fun j => { j with curGraph := if j.curGraph = some key then none else j.curGraph }
      (s.launchesOf key).foldl (fun s p => s.cancelLaunch p.1) s

/-- The graphs of a job that a test picks. -/
def State.graphsOf (s : State) (jid : Nat) : List Graph := s.hub.graphs.filter fun g => g.jid == jid

/-- A phase is cancelled: its graphs, and those still to be opened in it (R330). -/
def State.cancelPhase (s : State) (jid ph : Nat) : State :=
  match s.job? jid with
  | none => s
  | some j =>
    if ph ≠ j.phase || j.cancelledPhases.contains ph then s
    else
      let s := s.modJob jid fun j => { j with cancelledPhases := ph :: j.cancelledPhases }
      ((s.graphsOf jid).filter fun g => g.phase == ph).foldl (fun s g => s.cancelGraph g.key) s

/-- A job is cancelled: its graphs, and its chain skips to the entry after its END (R330). -/
def State.cancelJob (s : State) (jid : Nat) : State :=
  match s.job? jid with
  | none => s
  | some j =>
    if j.cancelled then s
    else
      let s := s.modJob jid fun j => { j with cancelled := true, curGraph := none }
      let s := s.modChain j.chain fun c =>
        { c with skip := true, phase := if c.phase = .waiting then .fetch else c.phase }
      let s := (s.graphsOf jid).foldl (fun s g => s.modGraph g.key fun g => { g with closed := true }) s
      (s.graphsOf jid).foldl (fun s g => s.cancelGraph g.key) s

/-- CANCELLATION_TAKES_EFFECT: an accepted cancellation stops the work that it names (R330). -/
def execCancellationTakesEffect (idx : Nat) (s : State) : Out :=
  match s.hub.cancels[idx]? with
  | none => .next s
  | some c =>
    let s := s.modHub fun h => { h with cancels := dropAt h.cancels idx }
    .next (match c.level with
      | 0 => s.cancelUnit (c.id / 2 ^ 32) (c.id % 2 ^ 32)
      | 1 => s.cancelLaunch c.id
      | 2 => s.cancelGraph c.id
      | 3 => s.cancelPhase c.jid c.id
      | _ => s.cancelJob c.jid)

/-! ## Restarting threads (R287) -/

/-- A thread of a unit that is pre-empted: at its restart point, with its region shadow; elements of out-ports that wait for a
store stay (R129, R287, R344). A thread that was to end after a trap executes again, and one with a step still to issue is halted
(R287, R346, R353). -/
def Thread.restart (t : Thread) : Thread :=
  { t with
    pc := t.rpc
    pre := []
    ports := (t.ports.zip t.shadow.ports).map fun p => { p.1 with bind := p.2, fin := [], tokIn := none }
    loops := t.shadow.loops
    cd := t.shadow.cd
    uord := t.shadow.uord
    arrDone := t.shadow.arrDone
    ih := t.shadow.ih
    hv := t.shadow.hv
    hd := t.shadow.hd
    b := [{}, {}, {}, {}]
    busy := []
    loads := []
    park := none
    resume_ := false
    ending := false
    status := 0
    halted := t.halted || t.stepping
    stepping := false
    mark := none
    ftok := none
    places := []
    offer := none
    held := none
    skip := []
    w := 0
    yieldTo := 0
    depriTo := 0
    freeAt := 0
    pbuf := []
    seatPt := true }

/-- A gang of a unit that is pre-empted: open records are discarded, and the base of each tile's rendezvous table is the least
ordinal of its live threads (R187, R276). -/
def State.dropRecords (s : State) (uid gg : Nat) (g : Gang) : Gang :=
  let live := s.liveGang uid gg
  let tiles := (live.map fun p => g.tile p.2.ln).eraseDups
  let base (t : Nat) : Nat := ((live.filter fun p => g.tile p.2.ln == t).map fun p => p.2.uord).foldl (fun m x => match m with
    | none => some x
    | some y => some (min x y)) none |>.getD 0
  { g with insts := [], utab := [], ubase := tiles.map fun t => (t, base t), gfail := none, seat := none }

/-! ## Pre-emption (R344, R345) -/

/-- The homes of a save block, or what holds its accesses up (R345). -/
inductive SaveRuns where
  | ok (rs : List Run)
  | err (cause : Nat) (va : Word) (dpa : Option Nat)
  | wait (token : Option Nat)

/-- Resolves a save block page by page; it needs W and RD permission (R345). -/
def State.saveRuns (s : State) (ck uid : Nat) (tok : Option Nat) (write : Bool) : Nat → Word → Nat → SaveRuns × State
  | 0, _, _ => (.ok [], s)
  | fuel + 1, va, n =>
    if n = 0 then (.ok [], s)
    else if !tagGlobal va then (.err cADDR va none, s)
    else
      let k := Nat.min n (65536 - va.toNat % 65536)
      let (asn, root) := s.spaceOf uid
      if (match tok with
          | some t => s.hub.refused.contains (t, va.toNat / 65536)
          | none => false) then (.err cXLATE va none, s)
      else
        match s.translate asn root va 2 with
        | (.ok d _, s) =>
          match s.targetErr d k (!write) with
          | some c => (.err c va (some d), s)
          | none =>
            match s.saveRuns ck uid tok write fuel (va + Word.ofN k) (n - k) with
            | (.ok rs, s) => (.ok ({ loc := .home d, n := k } :: rs), s)
            | r => r
        | (.fault r, s) =>
          let (t, s) := s.raiseFault (some ck) asn va (if write then 1 else 0) r
          (.wait t, s)
        | (.malformed, s) => (.err cXLATE va none, s)
        | (.err c d, s) => (.err c va (some d), s)

/-- A failure of a save or a restore cancels the unit, logged with requester kind 3, and in the management log as one of the sequencer's
(R345, R385). -/
def State.saveFails (s : State) (uid : Nat) (u : TUnit) (va : Word) (cause : Nat) (dpa : Option Nat) : State :=
  ((s.logSeq dpa cause).logCore u.ck { addr := va, cause := cause, kind := 3, who := 0, unit := uid % 2 ^ 32, time := s.hub.tmr, dpa := false }).cancelUnit u.lid u.idx

/-- The loads of a unit that stops complete and write their destinations (R344). -/
def State.finishLoads (s : State) (uid : Nat) : State :=
  (s.liveOf uid).foldl (fun s p =>
    let s := p.2.loads.foldl (fun s r => match r.err with | some c => s.logThread p.2 r.va c 0 | none => s) s
    s.modThread p.1 fun t => t.loads.foldl Thread.loadDone t) s

/-- Steps 1 and 2 of pre-emption (R344): nothing of the unit issues again, what was issued completes, and every op is cancelled
and kept. -/
def State.stopUnit (s : State) (uid : Nat) : State :=
  match s.unit? uid with
  | none => s
  | some u =>
    let s := s.unseatUnit uid
    let s := (s.liveOf uid).foldl (fun s p => (s.drainOut p.1).settle u.ck p.1) s
    let acq := (s.liveOf uid).any fun p => p.2.loads.any (·.acq)
    let s := (s.finishLoads uid).landUwr uid fun _ => true
    let s := if acq then s.refresh u.ck else s
    let s := s.modThreadsOf uid fun t => if t.live then t.restart else t
    let ops := (s.opsOf uid).map (·.2)
    let jobs := s.mjobsOf uid
    let cycles := s.unitCycles u
    let s := s.dropOps uid false
    s.modUnit uid fun u => { u with
      stat := .saving
      cycles := cycles
      savedOps := ops
      savedJobs := jobs
      gangs := u.gangs.map fun g => (g.1, s.dropRecords uid g.1 g.2) }

/-- The bytes of a save block are written: they have no layout that programs see (R345). -/
def State.writeBlock (s : State) (uid : Nat) (rs : List Run) : State :=
  let s := rs.foldl (fun s r =>
    let (q, s) := (s.forgetAt r.loc r.n).takeSeq
    s.offWrite q (threadKey uid 0) 0 r.loc.off (s.bytesAt 0 r.loc r.n)) s
  s.modUnit uid fun u => { u with save := rs, saveHit := [], saveTok := none }

/-- Step 4 of pre-emption (R344): every save write has performed at its home, and what the unit holds of its core is free. -/
def State.releaseSaved (s : State) (uid : Nat) : State :=
  match s.unit? uid with
  | none => s
  | some u =>
    (s.setUnit uid { u with stat := .preempted, scrHeld := false, obHeld := false }).throttle u.ck

/-- Steps 3 and 4 of pre-emption (R344): the state is written to the save block, and what the unit holds of its core becomes free. -/
def State.saveUnit (s : State) (uid : Nat) : State :=
  match s.unit? uid, s.launchOf uid with
  | some u, some l =>
    if u.stat ≠ .saving then s
    else if (s.threadsOf uid).any (fun p => !p.2.outEmpty) then s
    else
      match s.saveRuns u.ck uid u.saveTok true (l.desc.saveSize / 65536 + 2) (l.desc.saveAt u.idx) l.desc.saveSize with
      | (.err c va d, s) => s.saveFails uid u va c d
      | (.wait t, s) => s.modUnit uid fun u => { u with saveTok := t }
      | (.ok rs, s) => (s.writeBlock uid rs).releaseSaved uid
  | _, _ => s

/-- The units that are pre-empted and resumed with a unit: its ensemble, and the whole launch in the concurrent class (R326). -/
def State.fellows (s : State) (lid idx : Nat) (l : Launch) : List Nat :=
  (s.unitsOf lid).filterMap fun p =>
    if l.desc.cls = 0 || p.2.idx / l.desc.size = idx / l.desc.size then some p.1 else none

/-! ## Resumption (R346) -/

/-- Whether software has left a save block as the device wrote it (R345). -/
def TUnit.saveIntact (u : TUnit) : Bool := u.saveHit.isEmpty

/-- Byte b of a word replaced. -/
def putByte (x : Word) (b : Nat) (v : Byte) : Word := Word.ofN (leVal (setAt (leBytes 8 x.toNat) (b % 8) v))
/-- Byte k of a list of words replaced. -/
def putBytes (ws : List Word) (k : Nat) (v : Byte) : List Word := setAt ws (k / 8) (putByte (ws.getD (k / 8) 0) (k % 8) v)
/-- The even part of an address (R23). -/
def evenOf (x : Word) : Word := (x >>> 1) * 2

/-- A number of n bytes of which one byte is undefined: which one, and its value, come from an undefined word. -/
def spoilNat (n x : Nat) (w : Word) : Nat := leVal (setAt (leBytes n x) (w.toNat / 256 % n) (w.setWidth 8))
/-- A word of which one byte is undefined. -/
def spoilWord (x w : Word) : Word := Word.ofN (spoilNat 8 x.toNat w)
/-- A signed number of 4 bytes of which one is undefined. -/
def spoilInt (x : Int) (w : Word) : Int := s32 (spoilNat 4 (x % 2 ^ 32).toNat w)
/-- A bit that is undefined. -/
def spoilBit (w : Word) : Bool := w.toNat % 2 == 1

/-- A port binding of which one byte is undefined. -/
def PortBind.spoil (b : PortBind) (k : Nat) (w : Word) : PortBind :=
  match k with
  | 0 => { b with base := spoilWord b.base w }
  | 1 => { b with stride := spoilWord b.stride w }
  | 2 => { b with count := spoilNat 4 b.count w }
  | 3 => { b with pos := spoilNat 4 b.pos w }
  | 4 => { b with code := w.setWidth 8 }
  | _ => { b with desc := spoilWord b.desc w }
/-- A loop level of which one byte is undefined. -/
def LoopLevel.spoil (l : LoopLevel) (k : Nat) (w : Word) : LoopLevel :=
  match k with
  | 0 => { l with lc := BitVec.ofNat 32 (spoilNat 4 l.lc.toNat w) }
  | 1 => { l with s := evenOf (spoilWord l.s w) }
  | 2 => { l with e := evenOf (spoilWord l.e w) }
  | _ => { l with depth := spoilNat 2 l.depth w % 65536 }
/-- A region shadow of which one byte is undefined. -/
def Shadow.spoil (x : Shadow) (k : Nat) (w : Word) : Shadow :=
  if k < 24 then { x with ports := setAt x.ports (k / 6) ((x.ports.getD (k / 6) none).map fun b => b.spoil (k % 6) w) }
  else if k < 36 then
    { x with loops := match x.loops[(k - 24) / 4]? with | some l => setAt x.loops ((k - 24) / 4) (l.spoil (k % 4) w) | none => x.loops }
  else match k with
    | 36 => { x with cd := spoilNat 2 x.cd w % 65536 }
    | 37 => { x with uord := spoilNat 8 x.uord w }
    | 38 => { x with arrDone := spoilBit w }
    | 39 => { x with ih := spoilBit w }
    | 40 => { x with hv := spoilWord x.hv w }
    | _ => { x with hd := spoilNat 2 x.hd w % 65536 }
/-- A saved thread of which one byte or bit is undefined: of a register, a predicate, or a field (R345). -/
def Thread.spoil (t : Thread) (k : Nat) (w : Word) : Thread :=
  let n := 8 * t.nregs
  if k < n then { t with v := putBytes t.v k (w.setWidth 8) }
  else
    let j := k - n
    if j < 7 then { t with p := setAt t.p j (spoilBit w) }
    else if j < 23 then { t with arr := setAt t.arr (j - 7) ((spoilNat 8 (t.arr.getD (j - 7) (-1) + 1).toNat w : Int) - 1) }
    else match j with
      | 23 => { t with tcause := spoilWord t.tcause w }
      | 24 => { t with tloc := spoilWord t.tloc w }
      | 25 => { t with rpc := evenOf (spoilWord t.rpc w), pc := evenOf (spoilWord t.rpc w) }
      | 26 => { t with cord := spoilNat 8 t.cord w }
      | 27 => { t with atBreak := spoilBit w }
      | _ =>
        let sh := t.shadow.spoil (j - 28) w
        { t with shadow := sh, ports := (t.ports.zip sh.ports).map fun p => { p.1 with bind := p.2 }, loops := sh.loops, cd := sh.cd,
                 uord := sh.uord, arrDone := sh.arrDone, ih := sh.ih, hv := sh.hv, hd := sh.hd }
/-- The items of a saved thread. -/
def Thread.items (t : Thread) : Nat := 8 * t.nregs + 70

/-- A reservation of which one byte is undefined. -/
def Resv.spoil (r : Resv) (obSize k : Nat) (w : Word) : Resv :=
  match k with
  | 0 => { r with off := spoilNat 4 r.off w % (obSize - r.size + 1) }
  | 1 => { r with fmt := w.toNat % 16 }
  | 2 => { r with spm := spoilBit w }
  | 3 => { r with bso := spoilNat 4 r.bso w }
  | 4 => { r with gso := spoilNat 4 r.gso w }
  | 5 => { r with mdo := spoilNat 4 r.mdo w }
  | 6 => { r with auxp := spoilNat 4 r.auxp w }
  | _ => { r with releasing := spoilBit w }
/-- A copy card of which one byte is undefined. -/
def CopyCard.spoil (c : CopyCard) (k : Nat) (w : Word) : CopyCard :=
  match k with
  | 0 => { c with src := spoilWord c.src w }
  | 1 => { c with dst := spoilWord c.dst w }
  | 2 => { c with xb := spoilNat 4 c.xb w }
  | 3 => { c with yc := spoilNat 4 c.yc w }
  | 4 => { c with zc := spoilNat 4 c.zc w }
  | 5 => { c with mc := spoilBit w }
  | 6 => { c with res := spoilBit w }
  | 7 => { c with sys_ := spoilInt c.sys_ w }
  | 8 => { c with szs := spoilInt c.szs w }
  | 9 => { c with dys := spoilInt c.dys w }
  | 10 => { c with dzs := spoilInt c.dzs w }
  | 11 => { c with ctr := spoilWord c.ctr w }
  | 12 => { c with inc := spoilNat 4 c.inc w }
  | 13 => { c with mask := w.toNat % 256 }
  | 14 => { c with csc := w.toNat % 5 }
  | _ => { c with stat := c.stat.map fun a => spoilWord a w }
/-- A gather card of which one byte is undefined. -/
def GathCard.spoil (c : GathCard) (k : Nat) (w : Word) : GathCard :=
  match k with
  | 0 => { c with idx := spoilWord c.idx w }
  | 1 => { c with src := spoilWord c.src w }
  | 2 => { c with dst := spoilWord c.dst w }
  | 3 => { c with rb := spoilNat 4 c.rb w }
  | 4 => { c with cnt := spoilNat 4 c.cnt w }
  | 5 => { c with bnd := spoilNat 4 c.bnd w }
  | 6 => { c with srs := spoilNat 4 c.srs w }
  | 7 => { c with drs := spoilNat 4 c.drs w }
  | 8 => { c with res := spoilBit w }
  | 9 => { c with csc := w.toNat % 5 }
  | 10 => { c with ctr := spoilWord c.ctr w }
  | _ => { c with cma := spoilWord c.cma w }
/-- A saved op of which one byte of its card, or of the row that it starts from, is undefined. -/
def CopyOp.spoil (o : CopyOp) (k : Nat) (w : Word) : CopyOp :=
  match o.card with
  | .copy c => if k = 16 then { o with start := spoilNat 4 o.start w } else { o with card := .copy (c.spoil k w) }
  | .gath c => { o with card := .gath (c.spoil k w) }
/-- A loop level of a job of which one byte is undefined. -/
def JobLevel.spoil (l : JobLevel) (k : Nat) (w : Word) : JobLevel :=
  match k with
  | 0 => { l with trip := spoilNat 4 l.trip w }
  | 1 => { l with ast := spoilInt l.ast w }
  | 2 => { l with bst := spoilInt l.bst w }
  | 3 => { l with cst := spoilInt l.cst w }
  | 4 => { l with xst := spoilInt l.xst w }
  | _ => { l with dim := w.toNat % 3 }
/-- A job card of which one byte is undefined. -/
def JobCard.spoil (c : JobCard) (k : Nat) (w : Word) : JobCard :=
  match k with
  | 0 => { c with flags := spoilNat 2 c.flags w % 512 }
  | 1 => { c with af := w.toNat % 256 }
  | 2 => { c with bf := w.toNat % 256 }
  | 3 => { c with cf := w.toNat % 256 }
  | 4 => { c with mt := spoilNat 4 c.mt w }
  | 5 => { c with nt := spoilNat 4 c.nt w }
  | 6 => { c with kt := spoilNat 4 c.kt w }
  | 7 => { c with lease := spoilNat 2 c.lease w }
  | 8 => { c with abase := spoilWord c.abase w }
  | 9 => { c with apitch := spoilNat 4 c.apitch w }
  | 10 => { c with idxv := spoilWord c.idxv w }
  | 11 => { c with bh := w.toNat % 256 }
  | 12 => { c with boff := spoilNat 4 c.boff w }
  | 13 => { c with cbase := spoilWord c.cbase w }
  | 14 => { c with cpitch := spoilNat 4 c.cpitch w }
  | 15 => { c with bpitch := spoilNat 4 c.bpitch w }
  | 16 => { c with ctr := spoilWord c.ctr w }
  | 17 => { c with inc := spoilNat 4 c.inc w }
  | 18 => { c with csc := w.toNat % 5 }
  | 19 => { c with stat := spoilWord c.stat w }
  | 20 => { c with asb := spoilWord c.asb w }
  | 21 => { c with asp := spoilNat 4 c.asp w }
  | 22 => { c with abb := spoilWord c.abb w }
  | _ => { c with lvls := match c.lvls[(k - 23) / 6]? with
      | some l => setAt c.lvls ((k - 23) / 6) (l.spoil ((k - 23) % 6) w)
      | none => c.lvls }
/-- A saved job of which one byte of its card, its ticket or its saved status is undefined. -/
def Job.spoil (j : Job) (k : Nat) (w : Word) : Job :=
  match k with
  | 0 => { j with ticket := spoilWord j.ticket w }
  | 1 => { j with tile := spoilNat 4 j.tile w }
  | 2 => { j with recomb := spoilBit w }
  | 3 => { j with why := w.toNat % 8 }
  | 4 => { j with ord2 := spoilBit w }
  | _ => { j with card := j.card.spoil (k - 5) w }
/-- The debug state of a saved unit of which one item is undefined. -/
def UnitDbg.spoil (x : UnitDbg) (k : Nat) (w : Word) : UnitDbg :=
  if k < 8 then { x with bps := setAt x.bps k (if w.toNat % 4 = 0 then none else some (evenOf w)) }
  else if k < 12 then
    { x with wps := setAt x.wps (k - 8) (if w.toNat % 4 = 0 then none else
        some { lo := bits w.toNat 20 2, hi := bits w.toNat 40 22, rd := bits w.toNat 0 0 == 1, wr := bits w.toNat 1 1 == 1 }) }
  else if k = 12 then { x with halt := w.toNat % 2 == 1 }
  else { x with under := w.toNat % 2 == 1 }

/-- A saved unit of which one item of a region is undefined (R345): uniforms, scratchpad, operand buffer, own windows, barrier slots,
tile sizes and step masks, reservations, debug state, ops, jobs. -/
def TUnit.spoil (u : TUnit) (region item seed : Nat) (w : Word) : TUnit :=
  match region with
  | 0 => { u with uni := putBytes u.uni item (w.setWidth 8) }
  | 1 => { u with scr := u.scr.forget (item % u.scrSize) (item % u.scrSize + 1) seed }
  | 2 => { u with obuf := u.obuf.forget (item % u.obSize) (item % u.obSize + 1) seed }
  | 3 => u.modGang (item % (u.g / 32)) fun g => { g with priv := g.priv.forget (item / 32) (item / 32 + 1) seed }
  | 4 =>
    let b := u.bars.getD (item % 16) { c := u.g }
    { u with bars := setAt u.bars (item % 16) (match item / 16 % 3 with
      | 0 => { b with c := w.toNat % 1024 }
      | 1 => { b with n := w.toNat % 1024 }
      | _ => { b with r := w.toNat }) }
  | 5 => u.modGang (item % (u.g / 32)) fun g =>
      if item / 32 % 2 = 0 then { g with gpart := 2 ^ (1 + w.toNat % 5) } else { g with stepMask := w.setWidth 32 }
  | 6 => match u.resv[item / 8]? with
    | some r => { u with resv := AMap.set u.resv r.1 (r.2.spoil u.obSize (item % 8) w) }
    | none => u
  | 7 => { u with dbg := u.dbg.spoil (item % 14) w }
  | 8 => { u with savedOps := match u.savedOps[item / 32]? with
      | some o => setAt u.savedOps (item / 32) (o.spoil (item % 32) w)
      | none => u.savedOps }
  | _ => { u with savedJobs := match u.savedJobs[item / 64]? with
      | some j => setAt u.savedJobs (item / 64) (j.spoil (item % 64) w)
      | none => u.savedJobs }

/-- What a launch has buffered of which one byte is undefined: the speculation state of its units (R334, R344, R345). -/
def SpecBuf.spoil (b : SpecBuf) (item : Nat) (w : Word) : SpecBuf :=
  { b with lines := match b.lines[item / 128]? with
      | some l => setAt b.lines (item / 128) (l.1, AMap.set l.2 (item % 128) (w.setWidth 8))
      | none => b.lines }

/-- The state that a byte of a unit's save block held is undefined: which it is, no layout says (R7, R345). -/
def State.spoilByte (s : State) (uid off : Nat) : State :=
  let (k, s) := s.takeFresh
  let w := undefWord k
  let p := Config.savePlace uid off
  match s.unit? uid with
  | none => s
  | some u =>
    if p.1 % 13 < 10 then s.setUnit uid (u.spoil (p.1 % 13) p.2 k w)
    else if p.1 % 13 = 10 then s.modLaunch u.lid fun l => { l with spec := l.spec.map fun b => b.spoil p.2 w }
    else
      let ts := s.threadsOf uid
      match ts[p.2 % ts.length]? with
      | some t => s.setThread t.1 (t.2.spoil (p.2 / ts.length % t.2.items) w)
      | none => s
/-- The state that a unit is restored to where software has written its save block (R345). -/
def State.spoilUnit (s : State) (uid : Nat) : State :=
  match s.unit? uid with
  | none => s
  | some u => (u.saveHit.foldl (fun s off => s.spoilByte uid off) s).modUnit uid fun u => { u with saveHit := [] }

/-- Whether the save blocks of units can be read; one that cannot cancels its unit (R345). -/
def State.readBlocks (s : State) (uids : List Nat) : Bool × State :=
  uids.foldl (fun (r : Bool × State) uid =>
    let s := r.2
    match s.unit? uid, s.launchOf uid with
    | some u, some l =>
      match s.saveRuns u.ck uid u.saveTok false (l.desc.saveSize / 65536 + 2) (l.desc.saveAt u.idx) l.desc.saveSize with
      | (.ok _, s) => (r.1, s.modUnit uid fun u => { u with saveTok := none })
      | (.wait t, s) => (false, s.modUnit uid fun u => { u with saveTok := t })
      | (.err c va d, s) => (false, s.saveFails uid u va c d)
    | _, _ => (false, s)) (true, s)

/-- A saved op is accepted again on its channel, with the tile declarations of its first acceptance: it runs from the start (R105, R110,
R346). -/
def State.reacceptOp (s : State) (ck : Nat) (o : CopyOp) : State :=
  s.acceptOp ck { id := 0, tk := o.tk, uid := o.uid, ch := o.ch, seq := 0, card := o.card, start := o.start, decls := o.decls, after := o.after,
                  taint := o.taint }
/-- A saved job is accepted again with its ticket: it starts at its first unwritten tile (R221, R346); one that an error has ended keeps its
end (R219; DEDUCED, log 59). -/
def State.reacceptJob (s : State) (ck : Nat) (j : Job) : State :=
  let (q, s) := s.takeSeq
  let j' : Job := { id := q, tk := j.tk, uid := j.uid, seq := q, card := j.card, recomb := j.recomb, why := j.why, ord2 := j.ord2,
                    ticket := j.ticket, decls := j.decls, after := j.after, tile := j.tile, steps := if j.code = 0 then j.tile * j.segs else j.steps, code := j.code, cause := j.cause,
                    ended := j.code != 0 || j.tile ≥ j.tiles, cells := j.cells,
                    badRows := j.badRows, badCols := j.badCols, badCells := j.badCells, allBad := j.allBad }
  s.modCore ck fun c => { c with jobs := c.jobs ++ [j'] }

/-- The saved ops and jobs of a unit in their order of acceptance. -/
def State.reacceptAll (s : State) (ck : Nat) : Nat → List CopyOp → List Job → State
  | 0, _, _ => s
  | _ + 1, [], [] => s
  | n + 1, o :: os, [] => (s.reacceptOp ck o).reacceptAll ck n os []
  | n + 1, [], j :: js => (s.reacceptJob ck j).reacceptAll ck n [] js
  | n + 1, o :: os, j :: js =>
    if o.id < j.id then (s.reacceptOp ck o).reacceptAll ck n os (j :: js) else (s.reacceptJob ck j).reacceptAll ck n (o :: os) js

/-- Inserts an op by its number. -/
def insertOp (o : CopyOp) : List CopyOp → List CopyOp
  | [] => [o]
  | x :: xs => if o.id ≤ x.id then o :: x :: xs else x :: insertOp o xs

/-- A saved unit takes its place on a core: its state is restored, halted where the unit is, every presence bit is set (R111), and the
core is refreshed (R346). Its ops stay to be accepted again. -/
def State.restoreUnit (s : State) (uid ck : Nat) : State :=
  let s := s.spoilUnit uid
  match s.unit? uid with
  | none => s
  | some u =>
    let hs := s.newHomes ck u.gangs.length
    let gangs := (u.gangs.zip hs).map fun x => (x.1.1, { x.1.2 with home := x.2, since := (s.cluster (ck / 8)).clk })
    let slot := s.freeSlot ck
    let (q, s) := s.takeSeq
    let s := s.modUnit uid fun x =>
      { x with stat := .resident, ck := ck, slot := slot, scrHeld := true, obHeld := true, absent := [], unfenced := [], gangs := gangs,
               order := q, startClk := (s.cluster (ck / 8)).clk }
    let s := if u.dbg.halt then s.modThreadsOf uid fun t => if t.live then { t with halted := true } else t else s
    (s.refresh ck).throttle ck

/-- The ops of a restored unit are accepted again (R346). -/
def State.reacceptUnit (s : State) (uid : Nat) : State :=
  match s.unit? uid with
  | none => s
  | some u =>
    let ops := u.savedOps.foldr insertOp []
    let s := s.setUnit uid { u with savedOps := [], savedJobs := [] }
    s.reacceptAll u.ck (ops.length + u.savedJobs.length + 1) ops u.savedJobs

/-! ## Admission (R326 to R328, R366) -/

/-- The ensembles, or units, of a launch that wait for a place: those that were started before, by index, then those that have
not started, which wait while a unit of the launch is being saved; under the parallel class, so do those behind it (R326). Members that are cancelled before their start are left
out. -/
def State.groups (s : State) (lid : Nat) (l : Launch) : List (List Nat) :=
  if l.cancelled || l.complete || !l.wok || (match s.job? l.jid with | some j => j.cancelled | none => true) then []
  else
    let e := l.desc.size
    let ready (st : Option UState) (i : Nat) : Bool :=
      !l.done.contains i && (AMap.get? s.hub.recs (unitKey lid i)).isNone && ((s.unit? (unitKey lid i)).map (·.stat)) == st
    let all := (upFrom 0 (l.desc.units / e)).map fun q => upFrom (e * q) e
    let back := all.filterMap fun is =>
      let xs := is.filter fun i => ready (some .preempted) i || ready (some .lost) i
      if xs.isEmpty then none else some xs
    let fresh := all.filterMap fun is =>
      let xs := is.filter (ready none)
      if xs.isEmpty then none else some xs
    let saving := ((s.unitsOf lid).filter fun p => p.2.stat == .saving).map fun p => p.2.idx
    if saving.isEmpty then back ++ fresh
    else match l.desc.cls with
      | 0 => []
      | 1 => back.filter fun is => is.all fun i => saving.all fun j => i < j
      | _ => back

/-- Whether a unit has been started before. -/
def State.startedBefore (s : State) (lid idx : Nat) : Bool := (s.unit? (unitKey lid idx)).isSome

/-- Places a unit: it starts, is restored, or runs again from its start. -/
def State.placeUnit (s : State) (lid idx ck : Nat) (l : Launch) : State :=
  match s.unit? (unitKey lid idx) with
  | some u => if u.stat = .preempted then s.restoreUnit (unitKey lid idx) ck else s.startUnit lid idx ck l
  | none => s.startUnit lid idx ck l

/-- Places a group; once all of its units are in place, the ops of those that resume are accepted again (R346). -/
def State.placeGroup (s : State) (lid : Nat) (l : Launch) (idxs : List Nat) : Option State :=
  (s.chooseSites lid l idxs).map fun sites =>
    idxs.foldl (fun s i => s.reacceptUnit (unitKey lid i)) ((idxs.zip sites).foldl (fun s x => s.placeUnit lid x.1 x.2.ck l) s)

/-- Places every group of a list, or none. -/
def State.placeAll (s : State) (lid : Nat) (l : Launch) : List (List Nat) → Option State
  | [] => some s
  | g :: gs => match s.placeGroup lid l g with
    | none => none
    | some s => s.placeAll lid l gs

/-- The groups that the order of a launch's class allows next (R326, R328). -/
def State.nextGroups (s : State) (lid : Nat) (l : Launch) : List (List Nat) :=
  let gs := s.groups lid l
  match l.desc.cls with
  | 0 => if gs.isEmpty then [] else [gs.flatten]
  | 1 => gs.take 1
  | _ =>
    let back := gs.filter fun g => g.any (s.startedBefore lid)
    if back.isEmpty then gs else back

/-- Places what a launch's order allows: all of a concurrent launch's groups, or one group of another. -/
def State.place (s : State) (lid : Nat) (l : Launch) (g : List Nat) : Option State :=
  if l.desc.cls = 0 then s.placeAll lid l (s.groups lid l) else s.placeGroup lid l g

/-- Whether a launch that waits can place a unit now. -/
def State.canAdmit (s : State) (lid : Nat) (l : Launch) : Bool := (s.nextGroups lid l).any fun g => (s.place lid l g).isSome

/-- Whether a launch is served before another (R326). -/
def servedBefore (lid1 : Nat) (l1 : Launch) (lid2 : Nat) (l2 : Launch) : Bool :=
  l1.desc.prio > l2.desc.prio || (l1.desc.prio == l2.desc.prio && lid1 < lid2)

/-- The groups that pre-emption for a priority may take, each with its launch's priority and the start of its last started unit
(R326, R328). -/
def State.victims (s : State) (prio : Nat) : List (Nat × Nat × List Nat) :=
  s.hub.launches.flatMap fun p =>
    let l := p.2
    if l.desc.prio ≥ prio || l.desc.save == 0 || l.cancelled then []
    else
      let res := (s.unitsOf p.1).filter fun u => u.2.stat == .resident
      let last (us : AMap TUnit) : Nat := us.foldl (fun m u => max m u.2.order) 0
      let of (q : Nat) : AMap TUnit := res.filter fun u => u.2.idx / l.desc.size == q
      let qs := (res.map fun u => u.2.idx / l.desc.size).eraseDups
      match l.desc.cls with
      | 0 => if res.isEmpty then [] else [(l.desc.prio, last res, res.map (·.1))]
      | 1 => match qs.foldl (fun m q => match m with | none => some q | some x => some (max q x)) none with
        | none => []
        | some q => [(l.desc.prio, last (of q), (of q).map (·.1))]
      | _ => qs.map fun q => (l.desc.prio, last (of q), (of q).map (·.1))

/-- The group that is pre-empted first for a priority: the lowest priority, then the most recently started (R328). -/
def State.firstVictim (s : State) (prio : Nat) : Option (List Nat) :=
  ((s.victims prio).foldl (fun best v => match best with
    | none => some v
    | some b => if v.1 < b.1 || (v.1 == b.1 && v.2.1 > b.2.1) then some v else some b) none).map fun v => v.2.2

/-- The places as they are once units, and those that are being saved, are saved away. -/
def State.without (s : State) (us : List Nat) : State :=
  { s with units := s.units.map fun u =>
      if us.contains u.1 || u.2.stat == .saving then (u.1, { u.2 with stat := .preempted, scrHeld := false, obHeld := false }) else u }

/-- Whether a launch waits for admission and does not fit: units of lower priority give way to it (R328). -/
def State.claims (s : State) (lid : Nat) (l : Launch) : Bool := !(s.nextGroups lid l).isEmpty && !s.canAdmit lid l

/-- Admission of the group that holds a unit, where it is its launch's turn (R326): no launch that is served before it can be admitted,
and none of a higher priority is having room made for it (R328). -/
def State.takeIn (s : State) (lid idx : Nat) (back : Bool) : Option State :=
  match s.launch? lid with
  | none => none
  | some l =>
    match (s.nextGroups lid l).find? fun g => g.contains idx with
    | none => none
    | some g =>
      if s.startedBefore lid idx != back then none
      else if s.hub.launches.any (fun p => servedBefore p.1 p.2 lid l && s.canAdmit p.1 p.2) then none
      else if s.hub.launches.any (fun p => p.2.desc.prio > l.desc.prio && s.claims p.1 p.2) then none
      else s.place lid l g

/-- UNIT_START (R324, R326). -/
def execUnitStart (lid idx : Nat) (s : State) : Out :=
  match s.takeIn lid idx false with
  | some s => .next s
  | none => .next s

/-- RESUMPTION (R346): the units that resume together read their save blocks, then take their places. -/
def execResumption (uid : Nat) (s : State) : Out :=
  match s.unit? uid, s.launchOf uid with
  | some u, some l =>
    if u.stat ≠ .preempted || (s.takeIn u.lid u.idx true).isNone then .next s
    else
      let us := (s.fellows u.lid u.idx l).filter fun x => ((s.unit? x).map (·.stat)) == some .preempted
      match s.readBlocks us with
      | (false, s) => .next s
      | (true, s) =>
        match s.takeIn u.lid u.idx true with
        | some s => .next s
        | none => .next s
  | _, _ => .next s

/-- Whether the latest sparing sequence has lost a unit that is still to run again (R368, R369). -/
def State.lostNow (s : State) (u : TUnit) : Bool := u.stat == .lost && u.lostBy != 0 && u.lostBy == s.hub.spar.count
/-- Units that the latest sparing sequence has lost and that no die can take now (R369). -/
def State.leftWaiting (s : State) : Nat := s.units.countP fun u => s.lostNow u.2 && (s.openSites (s.jidOf u.1)).isEmpty

/-- LOST_UNIT_RERUN (R366): a unit that was lost with its die runs again from its start. -/
def execLostUnitRerun (uid : Nat) (s : State) : Out :=
  match s.unit? uid with
  | none => .next s
  | some u =>
    if u.stat ≠ .lost then .next s
    else
      match s.takeIn u.lid u.idx true with
      | none => .next s
      | some s' =>
        let lost (s : State) : Nat := s.units.countP fun p => s.lostNow p.2
        .next (s'.modHub fun h => { h with spar := { h.spar with rerun := h.spar.rerun + (lost s - lost s'), left := s'.leftWaiting } })

/-- PREEMPTION (R328, R344): a launch of higher priority waits and does not fit, and the unit is the first of those that give
way; with it goes its ensemble, or the whole of a concurrent launch. A unit whose save waits tries it again. -/
def execPreemption (uid : Nat) (s : State) : Out :=
  match s.unit? uid, s.launchOf uid with
  | some u, some l =>
    if u.stat = .saving then .next (s.saveUnit uid)
    else
      let waits := s.hub.launches.any fun p =>
        p.2.desc.prio > l.desc.prio && s.claims p.1 p.2 && !(s.without []).canAdmit p.1 p.2 &&
          (match s.firstVictim p.2.desc.prio with | some g => g.contains uid | none => false)
      if u.stat ≠ .resident || !waits then .next s
      else
        let us := (s.fellows u.lid u.idx l).filter fun x => ((s.unit? x).map (·.stat)) == some .resident
        let s := us.foldl (fun s x => s.stopUnit x) s
        .next (us.foldl (fun s x => s.saveUnit x) s)
  | _, _ => .next s

end Sys2Proof.Machine
end

