-- ==== Sys2Proof/Machine/Chains.lean ====
section
/-! DEFINITION. Host submission chains: their registers, their entries, and the completion of the levels of work. -/

namespace Sys2Proof.Machine

/-! ## Registers (R316) -/

/-- Whether a chain has an entry for the sequencer. -/
def Chain.hasEntry (c : Chain) : Bool := c.head != c.tail.toNat
/-- The state that CH_STAT shows of a chain that is not stopped. -/
def Chain.show (c : Chain) : Chain := if c.stat = 2 then c else { c with stat := if c.hasEntry then 1 else 0 }

/-- CH_TAIL_WRITE: entries before the new tail are valid; a value at or above CH_SIZE is ignored (R316). -/
def execChTailWrite (n : Nat) (v : Word) (s : State) : Out :=
  if n ≥ 16 || !s.hostTakes then .next s
  else .next (s.modChain n fun c => if v.toNat < c.size.toNat then { c with tail := v }.show else c)

/-- CH_CTL_RESTART: a stopped chain reads its entry again (R316). -/
def execChCtlRestart (n : Nat) (v : Word) (s : State) : Out :=
  if n ≥ 16 || !s.hostTakes then .next s
  else .next (s.modChain n fun c =>
    if c.stat = 2 && v.getLsbD 0 then { c with stat := 1, reason := 0, ereason := 0, phase := .fetch, entry := [] } else c)

/-- A chain stops with a reason, and vector 1 is raised (R321, R375). -/
def State.stopChain (s : State) (n reason : Nat) (ereason : Nat := 0) : State :=
  ((s.modChain n fun c => { c with stat := 2, reason := reason, ereason := ereason, phase := .fetch, entry := [] }).seqDone n).vector 1

/-! ## Entries (R317) -/

/-- The entry types (R317). -/
abbrev eJOB : Nat := 1
abbrev eGRAPH : Nat := 2
abbrev eLAUNCH : Nat := 3
abbrev ePHASE : Nat := 4
abbrev eWAITC : Nat := 5
abbrev eEND : Nat := 6
abbrev eSPEC : Nat := 7

/-- Where the named bytes of an entry's body lie. -/
def bodyBytes : Nat → List (Nat × Nat)
  | 1 => [(16, 11), (32, 56)]
  | 2 => [(16, 8)]
  | 3 => [(16, 32)]
  | 5 => [(16, 16)]
  | _ => []

/-- Whether a mirror, counter or LIDP address is accepted (R317): 0 where it may be, else aligned under a global tag. -/
def addrOk (bs : List Byte) (off : Nat) (zero : Bool) : Bool :=
  let v := Word.ofN (field bs off 8)
  if v = 0 then zero else v.toNat % 8 == 0 && tagGlobal v

/-- Whether an entry breaks R317. -/
def entryBad (bs : List Byte) : Bool :=
  let ty := field bs 0 1
  let fl := field bs 1 1
  ty == 0 || ty > 7 ||
  (match ty with | 1 => fl > 7 | 7 => fl > 1 | _ => fl != 0) ||
  field bs 2 2 != 0 || (!(ty == 1 || ty == 2 || ty == 7) && field bs 4 4 != 0) ||
  (upFrom 16 112).any (fun k => bs.getD k 0 != 0 && !(bodyBytes ty).any fun r => r.1 ≤ k && k < r.1 + r.2) ||
  (ty == 1 && field bs 24 2 ≥ 4096) ||
  (match ty with
    | 1 => !(addrOk bs 72 true && addrOk bs 80 true)
    | 2 => !addrOk bs 16 true
    | 3 => !(addrOk bs 24 true && addrOk bs 32 true)
    | 5 => !addrOk bs 16 false
    | _ => false)

/-- Whether CH_SIZE is one of R316. -/
def sizeValid (n : Nat) : Bool := (upFrom 4 13).any fun k => n == 2 ^ k

/-- The chain that the sequencer serves next, of those with an entry to be taken up (R320). -/
def Hub.servedChain (h : Hub) : Option Nat :=
  ((upFrom h.nextChain 16).map (· % 16)).find? fun n =>
    let c := h.chains.getD n {}
    c.stat != 2 && c.phase == .fetch && c.hasEntry

/-- The turn of the round robin over the chains passes on (R320). -/
def State.passTurn (s : State) (n : Nat) : State := s.modHub fun h => { h with nextChain := (n + 1) % 16 }

/-- The entry at the head of a chain as a step takes it up, where it is the chain's turn (R320): the entry, or the chain stopped. A type
that the step does not serve leaves the chain as it is. -/
def State.takeEntry (s : State) (n ty : Nat) (k : List Byte → State → State) : State :=
  let c := s.chain n
  if n ≥ 16 || c.stat = 2 || !c.hasEntry || c.phase = .retiring || !s.hub.bootDone then s
  else if c.phase = .waiting then (if field c.entry 0 1 = ty then k c.entry s else s)
  else if s.hub.servedChain ≠ some n then s
  else
    let at_ := c.base.toNat / 128 * 128 + 128 * c.head
    if !sizeValid c.size.toNat then (s.passTurn n).stopChain n 1
    else
      match s.dpaErr at_ 128 true with
      | some _ => (s.passTurn n).stopChain n 6
      | none =>
        let bs := s.bytesAt 0 (.home at_) 128
        let found := field bs 0 1
        if c.skip then
          (if found = ty || found = 0 || found > 7 then
            (s.passTurn n).modChain n fun c =>
              { c with head := (c.head + 1) % c.size.toNat, lastSeq := some (field bs 8 8), skip := found != eEND }.show
          else s)
        else if entryBad bs then (s.passTurn n).stopChain n 1
        else if found ≠ ty then s
        else if (match c.lastSeq with | some q => decide (field bs 8 8 ≤ q) | none => false) then (s.passTurn n).stopChain n 2
        else if found ≠ eJOB && c.job.isNone then (s.passTurn n).stopChain n 3
        else k bs ((s.passTurn n).modChain n fun c => { c with phase := .waiting, entry := bs, stat := 1, lid := 0 })

/-- An entry's retirement condition holds: it retires with the next CHAIN_ENTRY_RETIRE. -/
def State.retire (s : State) (n : Nat) : State := s.modChain n fun c => { c with phase := .retiring }

/-- Whether every off-package write of the sequencer has been delivered, as a release of it at sys scope asks (R313, R318). -/
def State.seqDelivered (s : State) : Bool := !s.offw.any fun w => w.eng.any fun e => e.1 == 2 ^ 16

/-- CHAIN_ENTRY_RETIRE: SEQ is written to the progress word as a release at sys scope, and the head moves on; an error stops the
chain (R318, R321). Where that write fails the head and the last SEQ have moved on as well: a chain that is restarted goes on at the next
entry (DESIGN CHOICE; log 89). -/
def execChainEntryRetire (n : Nat) (s : State) : Out :=
  let c := s.chain n
  if n ≥ 16 || c.stat = 2 || c.phase ≠ .retiring || !s.seqDelivered then .next s
  else
    let seq := field c.entry 8 8
    let s := s.modChain n fun c =>
      { c with head := (c.head + 1) % c.size.toNat, lastSeq := some seq, phase := .fetch, entry := [], lid := 0 }.show
    let d := c.prog.toNat / 8 * 8
    match s.dpaErr d 8 false with
    | some _ => .next (s.stopChain n 6)
    | none => .next (s.seqStore d (leBytes 8 seq))

/-! ## JOB, GRAPH, PHASE -/

/-- The chain's job closes its current graph (R313). -/
def State.seal (s : State) (jid : Nat) : State :=
  match (s.job? jid).bind (·.curGraph) with
  | none => s
  | some key => (s.modGraph key fun g => { g with closed := true }).modJob jid fun j => { j with curGraph := none }

/-- The slice code that a JOB entry asks for on a base die (R317). -/
def entrySlice (bs : List Byte) (b : Nat) : Nat := bits (field bs 26 1) (2 * b + 1) (2 * b)
/-- The reservation masks of a JOB entry. -/
def entryResv (bs : List Byte) : List Word := (upFrom 0 4).map fun d => Word.ofN (field bs (40 + 8 * d) 8)

/-- JOB_ENTRY: the job opens once its chain's job before is closed, the slice sizes are those it asks for, no open job reserves a
core that it reserves, and with TSTART once tmr has reached START (R314, R318, R319). -/
def execJobEntry (n : Nat) (s : State) : Out :=
  .next (s.takeEntry n eJOB fun bs s =>
    let id := field bs 4 4
    let c := s.chain n
    if id = 0 || (s.job? id).isSome then s.stopChain n 4
    else
      let slices := (upFrom 0 4).all fun b => s.slice.getD b 0 == entrySlice bs b
      let free := s.hub.jobs.all fun j => (upFrom 0 4).all fun d => (j.2.resv.getD d 0) &&& ((entryResv bs).getD d 0) == 0
      let due := bits (field bs 1 1) 1 1 == 0 || decide (s.hub.tmr ≥ field bs 32 8)
      if c.job.isSome || !slices || !free || !due then s
      else
        let j : HJob :=
          { chain := n
            lock := bits (field bs 1 1) 0 0 == 1
            dbg := bits (field bs 1 1) 2 2 == 1
            root := Word.ofN (field bs 16 8)
            asn := field bs 24 2
            slice := (upFrom 0 4).map (entrySlice bs)
            resv := entryResv bs
            jctr := Word.ofN (field bs 72 8)
            pctr := Word.ofN (field bs 80 8) }
        let s := s.modHub fun h => { h with jobs := AMap.set h.jobs id j, joined := true }
        (s.modChain n fun c => { c with job := some id }).retire n)

/-- GRAPH_ENTRY: the current graph closes and the new one is open in the current phase (R313, R314, R318). Its id is one that no open graph
has; graph ids and job ids are two sets of names (DESIGN CHOICE; log 88). -/
def execGraphEntry (n : Nat) (s : State) : Out :=
  .next (s.takeEntry n eGRAPH fun bs s =>
    let gid := field bs 4 4
    match (s.chain n).job with
    | none => s
    | some jid =>
      if gid = 0 || (s.openGraph gid).isSome then s.stopChain n 4
      else
        match s.job? jid with
        | none => s
        | some j =>
          let s := s.seal jid
          let (q, s) := s.takeSeq
          let dead := j.cancelledPhases.contains j.phase
          let g : Graph := { key := q, gid := gid, jid := jid, phase := j.phase, gctr := Word.ofN (field bs 16 8), cancelled := dead }
          let s := s.modHub fun h => { h with graphs := h.graphs ++ [g] }
          (s.modJob jid fun j => { j with curGraph := some q }).retire n)

/-- PHASE_ENTRY: the current graph closes; the entry retires when the phase is complete (R313, R318). -/
def execPhaseEntry (n : Nat) (s : State) : Out :=
  .next (s.takeEntry n ePHASE fun _ s =>
    match (s.chain n).job with
    | none => s
    | some jid => s.seal jid)

/-! ## LAUNCH -/

/-- What the sequencer's reads for a launch give: the argument block and the header of the speculation buffer with its home, a
wait, or a block that cannot be read, with the header where that could be. -/
inductive LaunchReads where
  | ok (args : List Byte) (spec : Option (Nat × List Byte))
  | bad (hdr : Option (List Byte))
  | wait

/-- Reads the argument block of a descriptor, and the header of its speculation buffer (R322, R331). -/
def State.launchReads (s : State) (key : Nat) (j : HJob) (bs : List Byte) : LaunchReads × State :=
  let d := descOf bs
  let args := Word.ofN (field bs 64 8)
  if descBad bs none then (.ok [] none, s)
  else
  let r : SeqRead × State :=
    if args = 0 || args.toNat % 8 ≠ 0 then (.ok (List.replicate 128 0), s) else s.seqRead key j 3 args 128
  match r with
  | (.wait, s) => (.wait, s)
  | (r, s) =>
    let a := match r with | .ok a => some a | _ => none
    if !d.specv || d.spbuf = 0 || d.spbuf.toNat % 128 ≠ 0 then (match a with | some a => .ok a none | none => .bad none, s)
    else match s.seqXlate key j d.spbuf 64 false with
      | (.wait, s) => (.wait, s)
      | (.err _ _, s) => (.bad none, s)
      | (.ok h, s) =>
        let hdr := s.bytesAt 0 (.home h) 64
        (match a with | some a => .ok a (some (h, hdr)) | none => .bad (some hdr), s)

/-- The reason for which a descriptor with what was read for it is refused (R323). -/
def State.refusalOf (s : State) (jid : Nat) (bs : List Byte) (r : LaunchReads) : Nat :=
  match r with
  | .ok _ spec => s.refusal jid bs true (spec.map (·.2))
  | .bad hdr => s.refusal jid bs false hdr
  | .wait => s.refusal jid bs false none

/-- LIDP is written, and the entry retires; an error is logged (R318). -/
def State.writeLidp (s : State) (n : Nat) (j : HJob) (bs : List Byte) (lid : Nat) : State :=
  let va := Word.ofN (field bs 24 8)
  if va = 0 then s.retire n
  else match s.seqWrite n j va (leBytes 8 lid) with
    | (true, s) => s.retire n
    | (false, s) => s

/-- The bytes of a speculation buffer hold what no program sees, from its acceptance on (R331). -/
def State.claimBuffer (s : State) (j : HJob) (lid : Nat) : Nat → Word → Nat → State
  | 0, _, _ => s
  | fuel + 1, va, n =>
    if n = 0 then s
    else
      let k := Nat.min n (65536 - va.toNat % 65536)
      let s := match s.translate j.asn j.root va 1 with
        | (.ok d _, s) =>
          let s := s.forgetAt (.home d) k
          s.modLaunch lid fun l => { l with spec := l.spec.map fun (b : SpecBuf) => { b with area := b.area ++ [Run.mk (.home d) k] } }
        | (_, s) => s
      s.claimBuffer j lid fuel (va + Word.ofN k) (n - k)

/-- The writes of the units of launches that a test picks perform, and whether they have been delivered off the package with the
sequencer's own earlier writes, as the release of a mirror word asks (R313, R260). -/
def State.levelWrites (s : State) (f : Nat → Bool) : Bool × State :=
  let s := (s.cores.map (·.1)).foldl (fun s ck => s.performWhere ck fun p => f (p.tk / 2 ^ 42)) s
  (s.seqDelivered && !(s.offw.any fun w => f (w.tk / 2 ^ 42)), s)

/-- A commit writes the next of a launch's buffered lines to its home; after the last the buffer is given up (R333). -/
def State.commitLine (s : State) (lid : Nat) (b : SpecBuf) : State :=
  match b.lines[b.written]? with
  | none => s.dropBuffer lid
  | some l =>
    (l.2.foldl (fun s x => s.seqStore (128 * l.1 + x.1) [x.2] lid) s).modLaunch lid fun x =>
      { x with spec := x.spec.map fun (b : SpecBuf) => { b with written := b.written + 1 } }

/-- A launch completes (R313); one that is committed first has its lines written, one at a time: a hub reset on the way leaves those that
are written (R333, R386). A speculative one of no units, which R334 completes at acceptance and R332 once it is resolved, waits for its
SPEC (DESIGN CHOICE; log 90). -/
def State.completeLaunch (s : State) (lid : Nat) : State :=
  match s.launch? lid with
  | none => s
  | some l =>
    if l.complete || l.done.length < l.desc.units || (l.desc.specv && !l.resolved) || !s.launchQuiet lid then s
    else match l.spec with
      | some b => s.commitLine lid b
      | none =>
        match s.job? l.jid, s.levelWrites (· == lid) with
        | some j, (true, s) =>
          (match s.bump (keyLevel 1 lid) j l.desc.lctr with
          | (true, s) => s.modLaunch lid fun l => { l with complete := true }
          | (false, s) => s)
        | _, (_, s) => s

/-- A launch joins its graph; in a graph that is being cancelled it is cancelled at once, and one of no
units completes at once (R329, R334). -/
def State.joinGraph (s : State) (jid gkey : Nat) (bs : List Byte) (args : List Byte) (spec : Option (Nat × List Byte)) (wctr wval : Word) :
    Nat × State :=
  let (lid, s) := s.acceptLaunch jid gkey bs args spec wctr wval
  let s := match spec, s.job? jid with
    | some x, some j => s.claimBuffer j lid (field x.2 0 8 / 65536 + 2) (descOf bs).spbuf (field x.2 0 8)
    | _, _ => s
  let dead := (match s.graph? gkey with | some g => g.cancelled | none => false) || s.cancelling lid
  let s := if dead then s.cancelLaunch lid else s
  (lid, if (descOf bs).units = 0 then s.completeLaunch lid else s)

/-- LAUNCH_ENTRY: the descriptor and the argument block are read, the launch is accepted, and its id is written (R318, R321 to
R323). -/
def execLaunchEntry (n : Nat) (s : State) : Out :=
  .next (s.takeEntry n eLAUNCH fun bs s =>
    let c := s.chain n
    match c.job.bind fun jid => (s.job? jid).map fun j => (jid, j) with
    | none => s
    | some (jid, j) =>
      if c.lid ≠ 0 then s.writeLidp n j bs c.lid
      else
        match j.curGraph with
        | none => s.stopChain n 3
        | some gkey =>
          let va := Word.ofN (field bs 16 8)
          if va.toNat % 8 ≠ 0 then s.stopChain n 5 0x20
          else
            match s.seqRead n j 3 va 128 with
            | (.wait, s) => s
            | (.err _ _, s) => s.stopChain n 5 0x23
            | (.ok desc, s) =>
              match s.launchReads n j desc with
              | (.wait, s) => s
              | (r, s) =>
                let why := if (descOf desc).dbgp && !j.dbg then 0x20 else s.refusalOf jid desc r
                match why, r with
                | 0, .ok args spec =>
                  let (lid, s) := (s.seqDone n).joinGraph jid gkey desc args spec (Word.ofN (field bs 32 8)) (Word.ofN (field bs 40 8))
                  (s.modChain n fun c => { c with lid := lid }).writeLidp n j bs lid
                | _, _ => s.stopChain n 5 why)

/-! ## WAITC, and the re-read of counters -/

/-- A WAITC entry reads its counter: it retires, waits, or stops its chain (R318). -/
def State.waitc (s : State) (n : Nat) (bs : List Byte) : State :=
  match (s.chain n).job.bind s.job? with
  | none => s
  | some j =>
    match s.seqCounter n j (Word.ofN (field bs 16 8)) with
    | (.wait, s) => s
    | (.err _ _, s) => s.stopChain n 6
    | (.val v, s) => if v ≥ field bs 24 8 then s.retire n else s

/-- WAITC_ENTRY (R318). -/
def execWaitcEntry (n : Nat) (s : State) : Out := .next (s.takeEntry n eWAITC fun bs s => s.waitc n bs)

/-- SEQUENCER_COUNTER_REREAD: the WAITC counter of chain idx, below 16, or the WCTR counter of launch idx - 16 is read again
(R318). The first failure of a launch's read is logged. -/
def execSequencerCounterReread (idx : Nat) (s : State) : Out :=
  if idx < 16 then
    let c := s.chain idx
    if c.stat = 2 || c.phase ≠ .waiting || field c.entry 0 1 ≠ eWAITC then .next s else .next (s.waitc idx c.entry)
  else
    let lid := idx - 16
    match s.launch? lid with
    | none => .next s
    | some l =>
      match s.job? l.jid with
      | none => .next s
      | some j =>
        if l.wok || l.cancelled then .next s
        else match s.seqCounter (keyWctr lid) j l.wctr with
          | (.wait, s) => .next s
          | (.err c d, s) =>
            .next (if l.wlogged then s else (s.logSeq d c).modLaunch lid fun l => { l with wlogged := true })
          | (.val v, s) => .next (if v ≥ l.wval.toNat then s.modLaunch lid fun l => { l with wok := true } else s)

/-! ## SPEC (R331 to R333) -/

/-- A speculative launch is committed, once its units and their ops have ended; false where it waits. Its lines are then written, and its
mirror advances (R333). -/
def State.commit (s : State) (lid : Nat) : Bool × State :=
  if !s.launchQuiet lid then (false, s)
  else
    let s := (s.unitsOf lid).foldl (fun s u => s.performWhere u.2.ck fun p => p.tk / 2 ^ 42 == lid) s
    (true, s.modLaunch lid fun l => { l with resolved := true })

/-- The speculative launch of a job that a SPEC entry names. -/
def State.specLaunch (s : State) (jid lid : Nat) : Option Launch :=
  match s.launch? lid with
  | some l => if l.jid = jid && l.desc.specv then some l else none
  | none => none

/-- A SPEC entry that has resolved a launch retires once the launch's mirror has advanced (R333). -/
def State.specRetire (s : State) (n lid : Nat) : State :=
  if (s.launch? lid).all (·.complete) then s.retire n else s

/-- A SPEC entry, as SPEC by a thread (R318, R333). -/
def specEntry (n : Nat) (discard : Bool) (s : State) : State :=
  s.takeEntry n eSPEC fun bs s =>
    if (bits (field bs 1 1) 0 0 == 1) != discard then s
    else
      let lid := field bs 4 4
      match (s.chain n).job.bind fun jid => s.specLaunch jid lid with
      | none => s.stopChain n 4
      | some l =>
        if l.resolved then (if (s.chain n).lid = lid then (s.completeLaunch lid).specRetire n lid else s.retire n)
        else if discard then (((s.cancelLaunch lid).completeLaunch lid).modChain n fun c => { c with lid := lid }).specRetire n lid
        else if s.cancelling lid then s.retire n
        else match s.commit lid with
          | (true, s) => ((s.completeLaunch lid).modChain n fun c => { c with lid := lid }).specRetire n lid
          | (false, s) => s

/-- SPEC_ENTRY_COMMIT. -/
def execSpecEntryCommit (n : Nat) (s : State) : Out := .next (specEntry n false s)
/-- SPEC_ENTRY_DISCARD. -/
def execSpecEntryDiscard (n : Nat) (s : State) : Out := .next (specEntry n true s)

/-! ## END -/

/-- The launches of a job. -/
def State.jobLaunches (s : State) (jid : Nat) : AMap Launch := s.hub.launches.filter fun p => p.2.jid == jid

/-- END_ENTRY: the current graph closes, and speculative launches whose units have all ended are discarded; the entry retires
when every launch of the job is complete (R318). -/
def execEndEntry (n : Nat) (s : State) : Out :=
  .next (s.takeEntry n eEND fun _ s =>
    match (s.chain n).job with
    | none => s
    | some jid =>
      let s := s.seal jid
      (s.jobLaunches jid).foldl (fun s p =>
        if p.2.desc.specv && !p.2.resolved && p.2.done.length = p.2.desc.units then s.cancelLaunch p.1 else s) s)

/-! ## Completion of levels (R313, R315) -/

/-- Whether every write that the cores of the compute dies that are up issued before an access number has performed (R255). -/
def State.boundaryDone (s : State) (mark : Nat) : Bool :=
  s.cores.all fun c => s.hub.ep.getD (c.1 / 64) 0 != 2 || s.corePerformed c.1 mark

/-- A device-wide phase boundary (R315): every core of every compute die that is up publishes and, once that is complete, is refreshed,
and what engine ops wrote is settled (R269). It is made for a job, which keeps the number of the last access it waits for; false where
a publication is not complete yet. -/
def State.phaseBoundary (s : State) (jid : Nat) : Bool × State :=
  let up := (s.cores.map (·.1)).filter fun ck => s.hub.ep.getD (ck / 64) 0 = 2
  let s := up.foldl (fun s ck => s.publish ck) s
  let mark := ((s.job? jid).bind (·.boundary)).getD s.seq
  if s.boundaryDone mark then
    (true, (up.foldl (fun s ck => s.refresh ck) s.closeWindows).modJob jid fun j => { j with boundary := none })
  else (false, s.modJob jid fun j => { j with boundary := some mark })

/-- A graph completes (R313). -/
def State.completeGraph (s : State) (gid : Nat) : State :=
  match s.openGraph gid with
  | none => s
  | some g =>
    let ls := s.launchesOf g.key
    if !g.closed || ls.any (fun p => !p.2.complete) then s
    else
      match s.job? g.jid, s.levelWrites fun lid => ls.any fun p => p.1 == lid with
      | some j, (true, s) =>
        (match s.bump (keyLevel 2 g.key) j g.gctr with
        | (true, s) => s.modGraph g.key fun g => { g with complete := true }
        | (false, s) => s)
      | _, (_, s) => s

/-- Whether a chain waits at an entry of a type. -/
def Chain.waitsAt (c : Chain) (ty : Nat) : Bool := c.stat != 2 && c.phase == .waiting && field c.entry 0 1 == ty

/-- The graphs of a job's current phase. -/
def State.phaseGraphs (s : State) (jid : Nat) (j : HJob) : List Graph := (s.graphsOf jid).filter fun g => g.phase == j.phase

/-- The mirror of a job's current phase advances, unless it has already (R313, R330). -/
def State.phaseMirror (s : State) (jid : Nat) (j : HJob) : Bool × State :=
  if j.early then (true, s) else s.bump (keyLevel 3 jid) j j.pctr

/-- A phase of a job completes, with the device-wide boundary (R313, R315): at its PHASE entry, which retires; the last one at the END
entry, or without one where the job is cancelled. A phase that no graph was opened in ends only with a PHASE entry (DEDUCED; log 37). The
mirror of a cancelled phase advances once its graphs are complete, wherever the chain is; its entry then only retires (R330). -/
def State.completePhase (s : State) (jid : Nat) : State :=
  match s.job? jid with
  | none => s
  | some j =>
    let c := s.chain j.chain
    let gs := s.phaseGraphs jid j
    let atPhase := c.job == some jid && c.waitsAt ePHASE
    let atEnd := c.job == some jid && c.waitsAt eEND && !gs.isEmpty
    let ends := j.cancelled || atPhase || atEnd
    let due := if j.cancelled then !j.closing else ends || (j.cancelledPhases.contains j.phase && !j.early)
    if !due || gs.any (fun g => !g.complete) then s
    else
      match s.phaseBoundary jid with
      | (false, s) => s
      | (true, s) =>
        match s.levelWrites fun lid => ((s.launch? lid).map (·.jid)) == some jid with
        | (false, s) => s
        | (true, s) =>
          match s.phaseMirror jid j with
          | (false, s) => s
          | (true, s) =>
            let s := s.modJob jid fun j =>
              if ends then { j with phase := j.phase + 1, closing := j.cancelled, early := false } else { j with early := true }
            if !j.cancelled && atPhase then s.retire j.chain else s

/-- A core without what it keeps of the ended engine ops of launches that a test picks. -/
def Core.dropDone (c : Core) (f : Nat → Bool) : Core :=
  { c with doneOps := c.doneOps.filter fun o => !f o.uid, doneJobs := c.doneJobs.filter fun j => !f j.uid }

/-- A job closes: nothing of it is left (R318). -/
def State.closeJob (s : State) (jid : Nat) : State :=
  let lids := (s.jobLaunches jid).map (·.1)
  let keep (uid : Nat) : Bool := !lids.contains (uid / 2 ^ 32)
  let s := { s with
    threads := s.threads.filter fun p => keep p.2.uid
    units := s.units.filter fun p => keep p.1
    cores := s.cores.map fun (c : Nat × Core) => (c.1, c.2.dropDone fun uid => !keep uid)
    issueQ := s.issueQ.filter fun tk => keep (tk / 1024) }
  s.modHub fun h =>
    { h with jobs := AMap.del h.jobs jid
             graphs := h.graphs.filter fun g => g.jid != jid
             launches := h.launches.filter fun p => p.2.jid != jid
             cancels := h.cancels.filter fun c => c.jid != jid
             chains := h.chains.map fun c => if c.job = some jid then { c with job := none } else c }

/-- A job completes: at its END entry, which retires, or once its cancellation has completed its phase (R313, R318, R330). -/
def State.completeJob (s : State) (jid : Nat) : State :=
  match s.job? jid with
  | none => s
  | some j =>
    let due := if j.cancelled then j.closing else (s.chain j.chain).job == some jid && (s.chain j.chain).waitsAt eEND
    if !due || (s.jobLaunches jid).any (fun p => !p.2.complete) || (s.graphsOf jid).any (fun g => !g.complete) ||
        !(s.phaseGraphs jid j).isEmpty then s
    else
      match s.levelWrites fun lid => ((s.launch? lid).map (·.jid)) == some jid with
      | (false, s) => s
      | (true, s) =>
        match s.bump (keyLevel 4 jid) j j.jctr with
        | (false, s) => s
        | (true, s) =>
          let s := if j.cancelled then s else s.retire j.chain
          s.closeJob jid

/-- LEVEL_COMPLETE: launch id, graph id, the current phase of a job, or a job (R313). Level 0 is a cancelled unit whose record
waits to be written (R330). -/
def execLevelComplete (level id : Nat) (s : State) : Out :=
  .next (match level with
    | 0 => s.tryRecord id
    | 1 => s.completeLaunch id
    | 2 => s.completeGraph id
    | 3 => s.completePhase id
    | 4 => s.completeJob id
    | _ => s)

end Sys2Proof.Machine
end

