-- ==== Sys2Proof/Machine/Island.lean ====
section
/-! DEFINITION. The router island: the host's aperture, Speiz links and flits, routes, endpoint states, and writes that are
delivered off the package or fail on the way. -/

namespace Sys2Proof.Machine

/-! ## The memory aperture (R262, R372) -/

/-- Another agent writes bytes at their home on this module; an error is logged under its requester kind (R259, R385). -/
def State.outsideWrite (s : State) (d : Nat) (bs : List Byte) (kind who : Nat) : State :=
  match s.targetErr d bs.length false with
  | some c => s.logMgmt d c kind who
  | none =>
    let (q, s) := s.takeSeq
    (s.writeAt 0 (.home d) bs).noteWrite .agent q (.home d) bs.length

/-- HOST_APERTURE_WRITE: BAR2 offset off reaches DPA APER_BASE + off, in the order of arrival; an error is logged (R262, R372, R385). -/
def execHostApertureWrite (off : Nat) (bytes : List Byte) (s : State) : Out :=
  if !s.hostTakes || bytes.isEmpty || off + bytes.length > s.hub.bar2 then .next s
  else
    let d := s.hub.aperBase.toNat + off
    match if s.hub.islUp then s.dpaErr d bytes.length false else some cMEMERR with
    | some c => .next (s.logMgmt d c 6 0)
    | none => .next (s.outsideWrite d bytes 6 0)

/-- HOST_APERTURE_READ: the bytes at their home; an error is logged (R262, R372, R385). -/
def execHostApertureRead (off len : Nat) (s : State) : Out :=
  if !s.hostTakes || len = 0 || off + len > s.hub.bar2 then .next s
  else
    let d := s.hub.aperBase.toNat + off
    match if s.hub.islUp then s.dpaErr d len true else some cMEMERR with
    | some c => .next (s.logMgmt d c 6 0)
    | none => .next (s.modHub fun h => { h with hostReads := h.hostReads ++ [s.bytesAt 0 (.home d) len] })

/-! ## Writes off the package (R259 to R263) -/

/-- A write of an op that is still in its channel is not delivered: the rows or elements that wrote the place have failed, and the op ends
with MEMERR (R77, R92, R263). A gather ends at once where the write was to its completion mask, else once its other elements are done. -/
def CopyOp.undelivered (o : CopyOp) (d : Nat) : CopyOp :=
  let hit := (o.pieces.filter fun p => p.dst.any fun l => l.overlap p.n (.home d) 1).map (·.row)
  let o := { o with landed := o.landed.filter fun q => !hit.contains q }
  let ends : CopyOp := { o with
    stopped := true
    waitOn := []
    code := if o.code = 0 then 1 else o.code
    cause := if o.cause = 0 then cMEMERR else o.cause }
  match o.card with
  | .copy _ => ends
  | .gath _ => if hit.isEmpty then ends else { o with failed := o.failed ++ hit.eraseDups.map fun q => (q, cMEMERR) }

/-- The op or job of an undelivered write of an engine reports it in its status (R77, R263). -/
def State.engUndelivered (s : State) (ck ch id d : Nat) : State :=
  if ch < 8 then
    match s.op? ck id with
    | none => s
    | some o =>
      let s := s.modOp ck id fun o => o.undelivered d
      if (o.undelivered d).stopped then s.setAllPresent ck id else s
  else s.jobUndelivered id d

/-- Each thread that waits, at an order of sys scope, for the delivery of a write that fails takes MEMERR there (R263); the writing thread
has it as its own error. -/
def State.failWaiters (s : State) (w : OffWrite) : State :=
  s.threads.foldl (fun s p =>
    match p.2.park with
    | some (.performed true _ _) =>
      if (w.eng.isNone && p.1 == w.tk) || !s.waitsFor (s.ckOf p.2.uid) (p.2.mark.getD 0) p.2.after.acq w then s
      else s.modThread p.1 fun t => { t with errs := t.errs ++ [{ regs := [], cause := cMEMERR, tloc := t.pc }] }
    | _ => s) s

/-- A write that its port accepted is not delivered: MEMERR to its thread at the thread's next delivery point, to the op of an engine,
or to the sequencer's log, and to what waits for it (R79, R263, R385). -/
def State.failWrite (s : State) (w : OffWrite) : State :=
  let s := s.failWaiters w
  match w.eng with
  | some (ck, ch) =>
    if ck = 2 ^ 16 then s.logSeq (some w.dpa) cMEMERR
    else
      let kind := if ch = 8 then 2 else 1
      (s.logCore ck { addr := Word.ofN w.dpa, cause := cMEMERR, kind := kind, who := if ch = 8 then w.tk % 1024 else ch,
                      unit := w.tk / 1024 % 2 ^ 32, time := s.hub.tmr, dpa := true }).engUndelivered ck ch w.op w.dpa
  | none => s.storeError w.tk (s.ckOf (w.tk / 1024)) (Word.ofN w.dpa) w.tloc cMEMERR

/-- Drops the undelivered writes that a test picks, each as failed. -/
def State.failWrites (s : State) (f : OffWrite → Bool) : State :=
  let out := s.offw.filter f
  let s := { s with offw := s.offw.filter fun w => !f w }
  out.foldl (fun s w => s.failWrite w) s

/-- A reply of this module to a requester, with its payload (R370). -/
def State.reply (s : State) (dst ty tag addr : Nat) (data : List Byte) : State :=
  s.sendPacket { dst := dst, line := addr % 2 ^ 51 / 128, flits := packetFlits dst s.hub.pkgid ty tag addr data }
/-- An error response to a requester off the module, which is logged (R358, R385). -/
def State.refuse (s : State) (src tag addr cause : Nat) : State := (s.logMgmt addr cause 5 src).reply src 4 tag addr []

/-- A packet for which no port is left: a write of this module fails, and a request in transit receives an error response (R263, R359). -/
def State.losePacket (s : State) (x : Packet) : State :=
  let head := x.flits.headD []
  let ty := field head 4 1
  match x.tag with
  | some t => s.failWrites fun w => w.tag == t && (match homeKind w.dpa with | .peer _ _ => true | _ => false)
  | none =>
    if field head 2 2 % 8192 != s.hub.pkgid && (ty == 0 || ty == 2 || ty == 5) then
      s.refuse (field head 2 2 % 8192) (field head 6 2) (field head 8 8) cMEMERR
    else s

/-- The packets of a port whose hash bucket has moved are replayed onto the port that the hash now picks, before any new packet of the
bucket; where none is left they are lost (R263, R359, R360). -/
def State.movePackets (s : State) (p : Nat) : State :=
  let l := s.hub.links.getD p {}
  let stays (x : Packet) : Bool := s.portTo x.dst x.line == some p
  let out := (l.unacked ++ l.queue).filter fun x => !stays x
  let s := s.modLink p fun l => { l with unacked := l.unacked.filter stays, queue := l.queue.filter stays }
  out.foldl (fun s x => if (s.portTo x.dst x.line).isSome then s.sendPacket x else s.losePacket x) (s.fillPort p)
/-- The buckets of every port are where the hash now puts them (R360). -/
def State.rebucket (s : State) : State := (upFrom 0 18).foldl State.movePackets s

/-- A port carries no traffic for now: what is in its replay buffer is to be sent again, and its buckets move (R263, R360, R370). -/
def State.reroute (s : State) (p : Nat) : State :=
  (s.modLink p fun l => { l with queue := l.unacked ++ l.queue, unacked := [], sent := 0, cont := none }).rebucket

/-- ZERO_LENGTH_READ_COMPLETION: the host confirms the delivery of every posted write before it (R259). -/
def execZeroLengthReadCompletion (s : State) : Out := .next { s with offw := s.offw.filter fun w => homeKind w.dpa != .host }

/-! ## Error responses (R77 to R79, R358, R385) -/

/-- Whether a cause is one that a target answers with: ADDR or MEMERR (R77). -/
def targetCause (c : Nat) : Bool := c == cADDR || c == cMEMERR

/-- The load records of a thread. -/
def State.modLoad (s : State) (tk idx : Nat) (f : LoadRec → LoadRec) : State :=
  s.modThread tk fun t => { t with loads := t.loads.map fun r => if r.idx = idx then f r else r }

/-- A byte answers with an error from now on. -/
def State.addBad (s : State) (l : Loc) (cause : Nat) (wr : Bool) : State :=
  { s with bad := { loc := l, cause := cause, wr := wr } :: s.bad.filter fun b => b.loc != l }

/-- ERROR_RESPONSE: a target cannot serve a request and answers with ADDR or MEMERR (R77). An outstanding load has it for its
result; a plain write does not perform, and is logged and waits for its delivery point (R78, R79); a request of a peer module or
of the host is logged in the management log (R385); an uncorrectable soft error makes every read of the byte answer so, and a bank
or path that fails, or an address that no target holds, every access (R101); a write that its port accepted fails to be delivered (R263). -/
def execErrorResponse (rq : ErrReq) (cause : Nat) (s : State) : Out :=
  if !targetCause cause then .next s
  else
    match rq with
    | .load tk idx => .next (s.modLoad tk idx fun r =>
        if r.res.isNone && r.err.isNone && r.loc.collected then { r with err := some cause } else r)
    | .store ck idx =>
      match (s.core ck).pend[idx]? with
      | none => .next s
      | some p =>
        if p.inColl || !p.loc.collected then .next s
        else
          let s := s.modCore ck fun c => { c with pend := dropAt c.pend idx }
          .next ((s.storeError p.tk ck p.va p.tloc cause).tryEnding p.tk)
    | .peer m dpa => .next (s.logMgmt dpa cause 5 (m % 8192))
    | .host dpa => .next (s.logMgmt dpa cause 6 0)
    | .soft d => .next (if cause = cMEMERR && (homeDie d).isSome then s.addBad (.home d) cause false else s)
    | .softScratch u o => .next (if cause = cMEMERR then s.addBad (.scratch u o) cause false else s)
    | .softOwn g o => .next (if cause = cMEMERR then s.addBad (.priv g o) cause false else s)
    | .softBuffer u o => .next (if cause = cMEMERR then s.addBad (.obuf u o) cause false else s)
    | .bank u o => .next (if cause = cMEMERR then s.addBad (.scratch u o) cause true else s)
    | .posted q d => .next (if cause = cMEMERR then s.failWrites fun w => w.seq == q && w.dpa == d else s)
    | .noTarget d => .next (if cause = cADDR && offPackage d then s.addBad (.home d) cause true else s)

/-! ## Links (R359, R370) -/

/-- A link's replay count saturates in 16 bits (R359). -/
def Link.replayed (l : Link) : Link := { l with replay := Nat.min (l.replay + 1) 65535, fails := l.fails + 1 }

/-- A port retrains: its buckets move (R360, R370). -/
def State.retrain (s : State) (p : Nat) : State := (s.modLink p fun l => { l with st := 1, lanes := 0, fails := 0 }).reroute p

/-- The bytes of a flit that its CRC covers, and whether the CRC holds (R370). -/
def crcOk (flit : List Byte) : Bool := field flit 120 8 == (Config.crc64 (flit.take 120)).toNat

/-- The write of this module to a peer that a response of the peer with a tag answers. -/
def State.answered (s : State) (src tag : Nat) : OffWrite → Bool := fun w =>
  match s.offw.find? fun x => x.tag % 65536 == tag && (match homeKind x.dpa with | .peer m _ => m == src | _ => false) with
  | some x => x.tag == w.tag && homeKind w.dpa == homeKind x.dpa
  | none => false

/-- The packets of a port's replay buffer once its peer has acknowledged the flit of a sequence number: a packet leaves when each of its
flits has been acknowledged (R360, R370). -/
def ackPackets (n : Nat) : List Packet → List Packet
  | [] => []
  | p :: ps =>
    match (upFrom 0 p.flits.length).find? fun k => (p.first + k) % 256 == n && !p.acked.contains k with
    | some k => if p.acked.length + 1 ≥ p.flits.length then ps else { p with acked := k :: p.acked } :: ps
    | none => p :: ackPackets n ps
/-- A port's peer acknowledges a flit (R370). -/
def State.ackFlit (s : State) (p n : Nat) : State :=
  (s.modLink p fun l => { l with unacked := ackPackets n l.unacked, heard := s.hub.tmr }).fillPort p

/-- A part of a peer's write arrives; one that follows a part that met an error is not logged again: the write has one error response
(R385). -/
def State.peerPart (s : State) (d : Nat) (bs : List Byte) (src : Nat) (bad : Bool) : State :=
  if bad && (s.targetErr d bs.length false).isSome then s else s.outsideWrite d bs 5 src

/-- A request or reply of a peer that is addressed to this module (R259, R261, R370). -/
def State.serveFlit (s : State) (p : Nat) (flit : List Byte) : State :=
  let src := field flit 2 2 % 8192
  let tag := field flit 6 2
  let d := field flit 8 8 % hostBase
  let n := Config.flitLength flit
  match field flit 4 1 with
  | 0 => (match s.targetErr d n true with
    | some c => s.refuse src tag d c
    | none => s.reply src 1 tag d (s.bytesAt 0 (.home d) n))
  | 1 => if n > 104 then s.modLink p fun l => { l with cont := some { addr := d, left := n - 104, src := src, write := false } } else s
  | 2 =>
    let here := Nat.min n 104
    let bad := here != 0 && (s.targetErr d here false).isSome
    let s := if here = 0 then s else s.outsideWrite d ((flit.drop 16).take here) 5 src
    if n > 104 then s.modLink p fun l => { l with cont := some { addr := d + 104, left := n - 104, src := src, tag := tag, bad := bad } }
    else s.reply src (if bad then 4 else 3) tag d []
  | 3 => { s with offw := s.offw.filter fun w => !s.answered src tag w }
  | 4 => s.failWrites (s.answered src tag)
  | 5 => (match s.targetErr d 8 true with
    | some c => s.refuse src tag d c
    | none =>
      let old := s.bytesAt 0 (.home d) 8
      let (q, s) := s.takeSeq
      ((s.forgetAt (.home d) 8).noteWrite .agent q (.home d) 8).reply src 1 tag d old)
  | _ => s

/-- A whole packet for another module leaves by the port that the hash picks; without one it is lost (R359, R360). -/
def State.forward (s : State) (flits : List (List Byte)) : State :=
  let head := flits.headD []
  let x : Packet := { dst := field head 0 2 % 8192, line := field head 8 8 % 2 ^ 51 / 128, flits := flits }
  if (s.portTo x.dst x.line).isSome then s.sendPacket x else s.losePacket x

/-- A flit for another module leaves once the data flits that follow it are there (R360, R370). -/
def State.forwardFlit (s : State) (p : Nat) (flit : List Byte) : State :=
  let n := if field flit 4 1 = 1 || field flit 4 1 = 2 then Config.flitLength flit else 0
  if n > 104 then s.modLink p fun l => { l with cont := some { addr := field flit 8 8, left := n - 104, src := field flit 2 2 % 8192, fwd := [flit] } }
  else s.forward [flit]

/-- A link whose next flit is taken: it is acknowledged by its sequence number (R370). -/
def Link.take (l : Link) : Link := { l with fails := 0, lseq := (l.lseq + 1) % 256, lastAck := some l.lseq }

/-- A data flit of a packet (R370): its payload goes on to where the packet does, and with the last one of a write for this module the
write is acknowledged. -/
def State.dataFlit (s : State) (p : Nat) (c : FlitCont) (flit : List Byte) : State :=
  let here := Nat.min c.left 120
  let mine := c.fwd.isEmpty
  let bad := c.bad || (mine && (s.targetErr c.addr here false).isSome)
  let flits := if mine then [] else c.fwd ++ [flit]
  let s := s.modLink p fun l =>
    { l.take with cont := if c.left > 120 then some { c with addr := c.addr + 120, left := c.left - 120, bad := bad, fwd := flits } else none }
  if !mine then (if c.left > 120 then s else s.forward flits)
  else if !c.write then s
  else
    let s := s.peerPart c.addr (flit.take here) c.src c.bad
    if c.left > 120 then s else s.reply c.src (if bad then 4 else 3) c.tag c.addr []

/-- FLIT_RECEIVE: a flit whose CRC fails, whose type is unknown, or that is out of sequence is not taken, and is replayed; 16
failures in a row retrain the port; a link flit acknowledges the flit whose sequence number it carries; any other is acknowledged, and
delivered or forwarded (R358, R370; log 50). -/
def execFlitReceive (port : Nat) (flit : List Byte) (s : State) : Out :=
  let l := s.hub.links.getD port {}
  if port ≥ 18 || flit.length ≠ 128 || !s.hub.islUp || !l.isUp then .next s
  else if !crcOk flit then
    let s := s.modLink port Link.replayed
    .next (if l.fails + 1 ≥ 16 then s.retrain port else s)
  else
    match l.cont with
    | some c => .next (s.dataFlit port c flit)
    | none =>
      if field flit 4 1 > 7 then .next (s.modLink port fun l => { l with replay := Nat.min (l.replay + 1) 65535 })
      else if field flit 4 1 = 7 then .next (s.ackFlit port (field flit 5 1))
      else if field flit 5 1 ≠ l.lseq then .next s
      else
        let s := s.modLink port Link.take
        .next (if field flit 0 2 % 8192 = s.hub.pkgid then s.serveFlit port flit else s.forwardFlit port flit)

/-- LINK_ACK_TIMEOUT: after 16 consecutive failures, or 10 µs without an acknowledgement, the port retrains (R370). -/
def execLinkAckTimeout (port : Nat) (s : State) : Out :=
  let l := s.hub.links.getD port {}
  if port < 18 && l.isUp && (l.fails ≥ 16 || (!l.unacked.isEmpty && s.hub.tmr - l.heard ≥ 10000)) then .next (s.retrain port) else .next s

/-- LINK_TRAINING_DONE: the port is UP on 8 lanes, or DEGRADED on 4 (R359, R370); buckets move to it, and what it holds is replayed
(R360). No port trains while the island is reset (R365). -/
def execLinkTrainingDone (port lanes peer : Nat) (s : State) : Out :=
  let l := s.hub.links.getD port {}
  if port ≥ 18 || !s.hub.islUp || l.st ≠ 1 || l.down || lanes = 0 || lanes > 8 then .next s
  else .next (s.modLink port fun l =>
    { l with st := if lanes = 8 then 2 else 3, lanes := if lanes = 8 then 8 else 4, peer := peer % 8192, fails := 0, lseq := 0, sent := 0, cont := none }).rebucket

/-- LINK_TAKE_DOWN: LNK_CTL takes a port down (R359). -/
def execLinkTakeDown (port : Nat) (s : State) : Out :=
  if port ≥ 18 || !s.hostTakes then .next s else .next ((s.modLink port fun l => { l with down := true, st := 0, lanes := 0 }).reroute port)

/-- LINK_ALLOW_TRAIN: LNK_CTL allows a port to train (R359), which it does once the island is up (R365). -/
def execLinkAllowTrain (port : Nat) (s : State) : Out :=
  if port ≥ 18 || !s.hostTakes then .next s else .next (s.modLink port fun l => { l with down := false, st := if l.st = 0 && s.hub.islUp then 1 else l.st })

/-- ROUTE_WRITE: the allowed ports toward a module; a write with bits [31:18] set is ignored (R359); buckets move (R360). -/
def execRouteWrite (m : Nat) (v : Word) (s : State) : Out :=
  if m ≥ 8192 || !s.hostTakes || bits v.toNat 31 18 ≠ 0 then .next s
  else .next (s.modHub fun h => { h with route := AMap.set h.route m (bits v.toNat 17 0) }).rebucket

/-! ## Endpoint states (R358, R359) -/

/-- What a read of ISL_STATE, EP_STATE and LNK_STATE of a port gives (R359); the peer of a port that is not up, which is not valid, reads
zero (DESIGN CHOICE; log 50). -/
def Hub.islState (h : Hub) : Word := if h.islUp then 1 else 0
def Hub.epState (h : Hub) : Word := Word.ofN (((upFrom 0 10).map fun n => h.ep.getD n 0 % 4 * 2 ^ (4 * n)).sum)
def Hub.lnkState (h : Hub) (p : Nat) : Word :=
  let l := h.links.getD p {}
  Word.ofN (l.st % 8 + l.lanes % 16 * 2 ^ 4 + l.replay % 2 ^ 16 * 2 ^ 16 + (if l.isUp then l.peer % 8192 * 2 ^ 32 else 0))

/-- An endpoint changes its state: its bit of EP_EVENT is set, and vector 3 is raised (R359, R375). -/
def State.setEp (s : State) (n st : Nat) : State :=
  if s.hub.ep.getD n 0 = st then s
  else (s.modHub fun h => { h with ep := setAt h.ep n st, epEvent := setAt h.epEvent n true }).vector 3

/-- EP_EVENT_CLEAR: write 1 to clear (R359). -/
def execEpEventClear (v : Word) (s : State) : Out :=
  if !s.hostTakes then .next s
  else .next (s.modHub fun h => { h with epEvent := (upFrom 0 10).map fun n => h.epEvent.getD n false && !v.getLsbD n })

/-- ISLAND_RESET: every Speiz port is down, and traffic between the module and the outside receives error responses, until the
island is up again; tables and tmr stay (R357, R365). -/
def execIslandReset (v : Word) (s : State) : Out :=
  if v ≠ 0x5EED0001 || !s.hostTakes then .next s
  else
    let s := s.modHub fun h =>
      { h with islUp := false, links := h.links.map fun l => { l with st := 0, lanes := 0, queue := [], unacked := [], sent := 0, cont := none, fails := 0 } }
    .next (s.failWrites fun _ => true)

/-- The island is up again: ports that are not taken down train (R359, R365). -/
def State.islandUp (s : State) : State :=
  s.modHub fun h => { h with islUp := true, links := h.links.map fun l => { l with st := if l.down then 0 else 1, lseq := 0 } }

end Sys2Proof.Machine
end

