-- ==== Sys2Proof/Machine/Resets.lean ====
section
/-! DEFINITION. Split resets, signed boot, the die map, and die sparing. -/

namespace Sys2Proof.Machine

/-! ## A compute die that is reset or fails (R357, R366) -/

/-- A unit is lost with its die: its threads and its ops are gone, with no status and no counter update, and it waits to run again
from its start (R366); the groups that remain on its core are throttled anew (R328). -/
def State.loseUnit (s : State) (uid : Nat) : State :=
  let s := (s.dropOps uid false).unseatUnit uid
  let s := { s with threads := s.threads.filter fun p => p.2.uid != uid }
  let s := s.modUnit uid fun u => { u with
    stat := .lost
    scrHeld := false
    obHeld := false
    resv := []
    absent := []
    savedOps := []
    savedJobs := []
    save := []
    saveTok := none
    dbg := {} }
  s.throttle (s.ckOf uid)

/-- The units that are lost with a die: those on it, with their ensembles, and what has not ended of their concurrent launches
(R366). -/
def State.lostWith (s : State) (p : Nat) : List Nat :=
  let hit := s.units.filter fun u => u.2.onCore && u.2.ck / 64 == p
  (hit.flatMap fun u => match s.launch? u.2.lid with
    | none => [u.1]
    | some l => (s.fellows u.2.lid u.2.idx l).filter fun x => ((s.unit? x).map (·.stat)) != some .ended).eraseDups

/-- A compute die loses what it holds: its units, its cores' state but for their error logs, its fault-buffer entries, and the home
tags that name its cores, whose unpublished writes are gone (R257, R357, R366). -/
def State.loseDie (s : State) (p : Nat) : State :=
  let s := (s.lostWith p).foldl (fun s u => s.loseUnit u) s
  let s := (s.hub.faults.filter fun f => f.live && f.ck.any fun c => c / 64 == p).foldl (fun s f => s.endFault f.token false) s
  { s with
    units := s.units.map fun u => if u.2.stat = .ended && u.2.ck / 64 = p then (u.1, { u.2 with scrHeld := false, obHeld := false }) else u
    cores := s.cores.map fun c => if c.1 / 64 = p then (c.1, ({ log := c.2.log, lost := c.2.lost } : Core)) else c
    clusters := s.clusters.map fun c => if c.1 / 8 = p then (c.1, { c.2 with clk := 0, droop := false, hold := false }) else c
    tags := s.tags.filter fun t => t.2.1 / 64 != p }

/-! ## Signed boot (R382) -/

/-- The digest of the stored image of a stage. -/
def State.imageDigestOf (s : State) (k : Nat) : BitVec 256 :=
  match AMap.get? s.hub.images k with
  | some im => Config.imageDigest k im
  | none => Config.factoryDigest k

/-- Whether the stored image of a stage verifies when a boot reads it, with the number of the reading; the one that the module left the
factory with does while it is intact (log 8). -/
def State.imageGood (s : State) (n k : Nat) : Bool :=
  Config.imageIntact n k && match AMap.get? s.hub.images k with
    | some im => Config.imageVerifies k im
    | none => true

/-- Boot from a stage on: each image that verifies is extended into its measurement register; one that does not is not run, and
leaves the hub in recovery. -/
def State.bootFrom (s : State) : List Nat → State
  | [] => s.modHub fun h => { h with bootDone := true, bootStage := 0 }
  | k :: ks =>
    let good := s.imageGood s.fresh k
    let s := s.takeFresh.2
    if good then
      let d := s.imageDigestOf k
      (s.modHub fun h => { h with meas := setAt h.meas (k - 1) (extendMeas (h.meas.getD (k - 1) 0) d) }).bootFrom ks
    else s.modHub fun h => { h with bootDone := false, bootStage := k }

/-- Signed boot: management firmware, sequencer microcode, island tables (R382). -/
def State.boot (s : State) : State := (s.modHub fun h => { h with meas := [0, 0, 0, 0] }).bootFrom [1, 2, 3]

/-! ## Reset sequences (R361 to R363) -/

/-- An endpoint leaves or enters service. -/
def State.setEps (s : State) (ns : List Nat) (st : Nat) : State := ns.foldl (fun s n => s.setEp n st) s

/-- Unperformed writes to the vaults and the GDDR of a base die that is reset receive error responses (R258, R386). -/
def State.failVaultWrites (s : State) (d : Nat) : State :=
  let hit (p : Pend) : Bool := match p.loc with
    | .home x => homeDie x == some d
    | _ => false
  let s' := { s with cores := s.cores.map fun c => (c.1, { c.2 with pend := c.2.pend.filter fun p => !hit p }) }
  (s.cores.flatMap fun c => (c.2.pend.filter hit).map fun p => (c.1, p)).foldl
    (fun s x => s.storeError x.2.tk x.1 x.2.va x.2.tloc cMEMERR) s'

/-- The vaults of a base die are cleared to zero, with the save blocks and speculation buffers in them (R357, R363). -/
def State.clearVaults (s : State) (d : Nat) : State :=
  let lo := 2 ^ 50 + d * 2 ^ 31
  let s := s.loseKept (.home lo) (2 ^ 31)
  { s with mem := s.mem.zero lo (lo + 2 ^ 31), bad := s.bad.filter fun b => match b.loc with
    | .home a => a < lo || lo + 2 ^ 31 ≤ a
    | _ => true }

/-- The far cache of a base die that is reset: written back where the die answers, else GDDR keeps what was last written back (R363,
R364; log 65). -/
def State.loseFar (s : State) (d : Nat) : State :=
  let (k, s) := s.takeFresh
  let mine (e : Nat × List Byte) : Bool := homeDie (128 * e.1) == some d
  let lost := if Config.answers k then [] else s.far.filter mine
  let s := lost.foldl (fun s e => s.loseKept (.home (128 * e.1)) 128) s
  { s with far := s.far.filter fun e => !mine e, mem := lost.foldl (fun m e => m.setBytes (128 * e.1) e.2) s.mem }

/-- The hub's work ends with its reset: every open job is cancelled as CANCEL does, with no mirror written (R363). -/
def State.dropJobs (s : State) : State :=
  let s := (s.hub.jobs.map (·.1)).foldl (fun s j => s.cancelJob j) s
  s.modHub fun h => { h with jobs := [], graphs := [], launches := [], cancels := [], recs := [], seqToks := [],
                             chains := List.replicate 16 {}, bootDone := false, bootStage := 0 }

/-- The bit of SPARE for a physical die. -/
def State.isSpare (s : State) (p : Nat) : Bool := bits s.hub.dmap.toNat (16 + p) (16 + p) == 1

/-- The endpoints of a domain that is reset (R363). -/
def State.resetEps (s : State) (dom die : Nat) : List Nat :=
  match dom with
  | 0 => [die]
  | 1 => [die, 4 + die]
  | _ => (upFrom 0 4).filter fun p => !s.isSpare p

/-- A reset sequence starts: the endpoints of its dies are DRAINING, so that no unit is admitted to them; for the hub, endpoints 8 and 9
are RESETTING, and every open job is cancelled (R358, R363; log 11). -/
def State.startReset (s : State) (dom die : Nat) (spare : Bool) : State :=
  let s := s.modHub fun h => { h with rst := { h.rst with busy := true, dom := dom, die := die, spare := spare, drain := true, mark := s.seq } }
  let s := if dom < 2 then s
    else { (s.setEps [8, 9] 1).dropJobs with units := [], threads := [], issueQ := [] }
  s.setEps (s.resetEps dom die) 3

/-- Step 3 of a reset: its endpoints are RESETTING, and what its dies hold is lost (R363). -/
def State.resetProper (s : State) : State :=
  let r := s.hub.rst
  let s := s.modHub fun h => { h with rst := { h.rst with drain := false } }
  let s := s.setEps (s.resetEps r.dom r.die) 1
  match r.dom with
  | 0 => s.loseDie r.die
  | 1 => (((s.loseDie r.die).failVaultWrites r.die).loseFar r.die).clearVaults r.die
  | _ => (upFrom 0 4).foldl (fun s p => s.loseDie p) s

/-- A command written to MGMT_RESET: it starts, waits behind the running sequence, or is ignored (R362). -/
def State.mgmtReset (s : State) (dom : Nat) (v : Word) : State :=
  let x := v.toNat
  if !s.hostTakes || bits x 63 32 ≠ 0x5EED0002 || bits x 31 10 ≠ 0 || bits x 7 0 ≠ dom then s
  else if !s.hub.rst.busy then s.startReset dom (bits x 9 8) false
  else if s.hub.rst.queued.isSome then s
  else s.modHub fun h => { h with rst := { h.rst with queued := some (dom, bits x 9 8) } }

/-- MGMT_RESET_COMPUTE_DIE (R361 to R363). -/
def execMgmtResetComputeDie (v : Word) (s : State) : Out := .next (s.mgmtReset 0 v)
/-- MGMT_RESET_BASE_DIE (R361 to R363). -/
def execMgmtResetBaseDie (v : Word) (s : State) : Out := .next (s.mgmtReset 1 v)
/-- MGMT_RESET_HUB (R361 to R363). -/
def execMgmtResetHub (v : Word) (s : State) : Out := .next (s.mgmtReset 2 v)

/-- The hub after its reset and boot: its jobs, chains and launches are lost, with MGMT_RESET, the sparing sequence and the command that
the mailbox runs; the fault queue's registers are 0, and what else the hub and the other domains hold stays (R72, R357, R362, R363, R369, R382; log 53). -/
def State.hubReset (s : State) : State :=
  let s := (s.hub.faults.filter fun f => f.live && f.ck.isNone).foldl (fun s f => s.endFault f.token false) s
  let s := s.modHub fun h => { h with
    chains := List.replicate 16 {}
    nextChain := 0
    jobs := []
    graphs := []
    launches := []
    cancels := []
    seqToks := []
    recs := []
    fqBase := 0
    fqSize := 0
    fqHead := 0
    fqTail := 0
    fqLimit := 0
    rst := {}
    spar := {}
    mb := { h.mb with busy := false, stage := 0, part := [] } }
  let s := { s with offw := s.offw.map fun (w : OffWrite) => { w with eng := some (2 ^ 16, 2) } }
  (s.boot.setEps (s.resetEps 2 0) 2).setEps [8, 9] 2

/-- The next command starts: step 6 of a sparing sequence ahead of the one that waits (R362); the record tells of the latest sequence
(R369). -/
def State.nextReset (s : State) : State :=
  match s.hub.rst.spareQ with
  | die :: rest =>
    (s.modHub fun h => { h with
      rst := { h.rst with spareQ := rest }
      spar := { h.spar with step := if h.spar.failed = die then 6 else h.spar.step } }).startReset 0 die true
  | [] =>
    match s.hub.rst.queued with
    | some (dom, die) => (s.modHub fun h => { h with rst := { h.rst with queued := none } }).startReset dom die false
    | none => s

/-! ## The die map (R367) -/

/-- Whether a value of DMAP is one that is taken (R367); one with a bit 4d + 2 set, which must be zero, is not (DESIGN CHOICE; log 80). -/
def dmapOk (x : Nat) : Bool :=
  let valid (d : Nat) : Bool := bits x (4 * d + 3) (4 * d + 3) == 1
  let phys (d : Nat) : Nat := bits x (4 * d + 1) (4 * d)
  (upFrom 0 4).all fun d =>
    bits x (4 * d + 2) (4 * d + 2) == 0 &&
    (!valid d || (bits x (16 + phys d) (16 + phys d) == 0 && (upFrom 0 d).all fun e => !valid e || phys e != phys d))

/-- DMAP_WRITE: taken only while no job is open; a spare is held in reset, and a die that is one no longer comes up (R367). -/
def execDmapWrite (v : Word) (s : State) : Out :=
  let x := v.toNat % 2 ^ 20
  if !s.hostTakes || !s.hub.jobs.isEmpty || !dmapOk x then .next s
  else
    let was := s
    let s := s.modHub fun h => { h with dmap := Word.ofN x }
    .next ((upFrom 0 4).foldl (fun s p =>
      if s.isSpare p then s.setEps [p] 1 else if was.isSpare p then s.setEps [p] 2 else s) s)

/-! ## Sparing (R368, R369) -/

/-- Step 5, which vector 4 signals; then step 6 is asked for (R368, R369, R375). A die that has found no spare stays mapped, and is
remembered. -/
def State.sparingStep5 (s : State) (p : Nat) (taken : Option Nat) : State :=
  let s := s.modHub fun h => { h with spar := { h.spar with
    step := 5, spareId := taken.getD 0xFF, left := s.leftWaiting, testing := none
    unspared := if taken.isNone then h.spar.unspared ++ [(p, h.spar.cause)] else h.spar.unspared } }
  let s := s.vector 4
  let s := s.modHub fun h => { h with rst := { h.rst with spareQ := h.rst.spareQ ++ [p] } }
  if s.hub.rst.busy then s else s.nextReset

/-- Step 3: a spare is released from reset and tests itself; without one the sequence goes on at step 5. -/
def State.sparingStep3 (s : State) (p : Nat) : State :=
  match (upFrom 0 4).find? s.isSpare with
  | some k => s.modHub fun h => { h with spar := { h.spar with step := 3, testing := some k } }
  | none => s.sparingStep5 p none

/-- A sparing sequence starts: COUNT is raised, the endpoint is DOWN, and what the die held is lost; units that an earlier one has lost and
that still wait are its own too (R368, R369; DEDUCED, log 87). -/
def State.startSparing (s : State) (p cause : Nat) : State :=
  let s := s.modHub fun h => { h with spar := { h.spar with
    count := h.spar.count + 1
    failed := p
    spareId := 0xFF
    ldie := (s.logOf p).getD 0
    cause := cause
    step := 2
    tdet := h.tmr
    rerun := 0
    left := 0 } }
  let us := s.lostWith p
  let s := (s.setEps [p] 0).loseDie p
  let mine (u : Nat × TUnit) : Bool := us.contains u.1 || (u.2.stat == .lost && u.2.lostBy != 0)
  let s := { s with units := s.units.map fun u => if mine u then (u.1, { u.2 with lostBy := s.hub.spar.count }) else u }
  s.sparingStep3 p

/-- A mapped compute die has failed; one whose failure comes during a sequence waits for it to finish step 5 (R368). -/
def State.dieFails (s : State) (p cause : Nat) : State :=
  if p > 3 || (s.logOf p).isNone then s
  else if s.hub.spar.testing.isNone then s.startSparing p cause
  else if s.hub.spar.waiting.any fun w => w.1 == p then s
  else s.modHub fun h => { h with spar := { h.spar with waiting := h.spar.waiting ++ [(p, cause)] } }

/-- DIE_HEARTBEAT_MISS: of a die that is UP (R368). -/
def execDieHeartbeatMiss (p : Nat) (s : State) : Out := .next (if s.hub.ep.getD p 0 = 2 then s.dieFails p 1 else s)
/-- DIE_INTERNAL_ERROR: of a die that is UP (R368). -/
def execDieInternalError (p : Nat) (s : State) : Out := .next (if s.hub.ep.getD p 0 = 2 then s.dieFails p 2 else s)

/-- The next failure that waits begins its sequence. -/
def State.nextSparing (s : State) : State :=
  match s.hub.spar.testing, s.hub.spar.waiting with
  | some _, _ => s
  | none, [] => s
  | none, w :: ws => (s.modHub fun h => { h with spar := { h.spar with waiting := ws } }).dieFails w.1 w.2

/-- A field of DMAP that maps a logical die to a physical one. -/
def dmapField (m : Word) (d p : Nat) : Word :=
  (m &&& ~~~(Word.ofN (15 * 2 ^ (4 * d)))) ||| Word.ofN ((8 + p) * 2 ^ (4 * d))
/-- DMAP with a die no longer in SPARE. -/
def dmapUnspare (m : Word) (p : Nat) : Word := m &&& ~~~(Word.ofN (2 ^ (16 + p)))

/-- SPARE_SELF_TEST_DONE: a spare that passes takes the logical number, cached translations are dropped, and step 5 is reached; one
that does not leaves SPARE, and the next is tried (R368). -/
def execSpareSelfTestDone (ok : Bool) (s : State) : Out :=
  match s.hub.spar.testing with
  | none => .next s
  | some k =>
    let p := s.hub.spar.failed
    let s := s.modHub fun h => { h with dmap := dmapUnspare h.dmap k }
    if ok then
      let s := s.modHub fun h => { h with dmap := dmapField h.dmap h.spar.ldie k, spar := { h.spar with step := 4 } }
      .next ((({ s with tlb := [] }.setEps [k] 2).sparingStep5 p (some k)).nextSparing)
    else .next (((s.setEps [k] 0).sparingStep3 p).nextSparing)

/-! ## The end of a reset sequence (R362, R363, R365, R368) -/

/-- A die that has lost its logical number becomes a spare, held in reset (R367, R368); a failed die that had found none is spared now. -/
def State.becomeSpare (s : State) (p : Nat) : State :=
  let s := s.modHub fun h => { h with dmap := h.dmap ||| Word.ofN (2 ^ (16 + p)) }
  match s.hub.spar.unspared with
  | [] => s
  | w :: ws => (s.modHub fun h => { h with spar := { h.spar with unspared := ws, waiting := h.spar.waiting ++ [w] } }).nextSparing

/-- Step 6 of a sparing sequence ends: a die that passes its self-test becomes a spare, but one that is still mapped stays DOWN, as one
that fails does (R368; log 54). -/
def State.sparingStep6 (s : State) (p : Nat) : State :=
  let (k, s) := s.takeFresh
  if (s.logOf p).isSome || !Config.selfTest k then s.setEps [p] 0 else s.becomeSpare p

/-- A die is UP after its reset, and no longer waits for a spare (R363). -/
def State.dieUp (s : State) (p : Nat) : State :=
  if s.isSpare p then s
  else (s.setEps [p] 2).modHub fun h => { h with spar := { h.spar with unspared := h.spar.unspared.filter fun w => w.1 != p } }

/-- RESET_SEQUENCE_COMPLETE: a stage of the sequence that runs is over. After its draining comes the reset proper; after the reset and
the self-test its endpoints are UP, and a command that waits starts; for an island that is being reset, the island is up again (R362,
R363, R365). -/
def execResetSequenceComplete (s : State) : Out :=
  if !s.hub.islUp then .next s.islandUp
  else if !s.hub.rst.busy then .next s
  else if s.hub.rst.drain then .next s.resetProper
  else
    let r := s.hub.rst
    let s := if r.dom < 2 then s.modHub fun h => { h with rst := { h.rst with busy := false, ldie := r.die, ldom := r.dom } } else s
    let s := match r.dom with
      | 0 => if r.spare then s.sparingStep6 r.die else s.dieUp r.die
      | 1 => (s.setEps [4 + r.die] 2).dieUp r.die
      | _ => s.hubReset
    .next (if s.hub.rst.busy then s else s.nextReset)

end Sys2Proof.Machine
end

