-- ==== Sys2Proof/Machine/Translation.lean ====
section
/-! DEFINITION. The translation control block: the fault queue, its replies, invalidation, and the size of the far-cache slices. -/

namespace Sys2Proof.Machine

/-! ## The fault queue (R71, R72, R74, R75) -/

/-- FQ_TAIL_WRITE: a value at or above FQ_SIZE is ignored; held records are appended as far as they find room (R72, R74). -/
def execFqTailWrite (v : Word) (s : State) : Out :=
  if s.hostTakes && v.toNat < s.hub.fqSize.toNat then .next (s.modHub fun h => { h with fqTail := v.toNat }).flushFaults else .next s

/-- FQ_BASE_WRITE: taken while the queue is empty, where the value is aligned (R72). -/
def execFqBaseWrite (v : Word) (s : State) : Out :=
  if s.hostTakes && v.toNat % 4096 = 0 && s.hub.fqHead = s.hub.fqTail then
    .next (s.modHub fun h => { h with fqBase := v, fqHead := 0, fqTail := 0 }).flushFaults
  else .next s

/-- Whether a length is one of R71: a power of two from 64 to 65,536. -/
def fqSizeOk (n : Nat) : Bool := (upFrom 6 11).any fun k => n == 2 ^ k
/-- FQ_SIZE_WRITE: taken while the queue is empty, where the value is valid (R72). -/
def execFqSizeWrite (v : Word) (s : State) : Out :=
  if s.hostTakes && fqSizeOk v.toNat && s.hub.fqHead = s.hub.fqTail then
    .next (s.modHub fun h => { h with fqSize := v, fqHead := 0, fqTail := 0 }).flushFaults
  else .next s

/-- FQ_REPLY_RESOLVE: the accesses that wait on the entry replay (R75). -/
def execFqReplyResolve (token : Nat) (s : State) : Out := .next (if s.hostTakes then s.endFault token false else s)
/-- FQ_REPLY_REFUSE: the accesses that wait on the entry fail with XLATE (R75). -/
def execFqReplyRefuse (token : Nat) (s : State) : Out := .next (if s.hostTakes then s.endFault token true else s)
/-- FQ_LIMIT_EXPIRY: an entry older than FQ_LIMIT microseconds, where that is nonzero, ends as if refused (R75). -/
def execFqLimitExpiry (token : Nat) (s : State) : Out :=
  match s.hub.faults.find? fun f => f.token == token && f.live with
  | none => .next s
  | some f =>
    if s.hub.fqLimit ≠ 0 && s.hub.tmr - f.born > s.hub.fqLimit.toNat * 1000 then .next (s.endFault token true) else .next s

/-! ## Invalidation (R70, R71, R73) -/

/-- Whether the range under invalidation holds a page of an address space. -/
def State.inXinv (s : State) (asn page : Nat) : Bool :=
  let (a, va, len) := s.hub.xinvRun
  asn == a.toNat % 4096 && (len == 0 || (va.toNat / 65536 ≤ page && page < va.toNat / 65536 + len.toNat))

/-- XINV_START: an invalidation of the range in XINV_ASN, XINV_VA and XINV_LEN starts, unless one is under way. -/
def execXinvStart (v : Word) (s : State) : Out :=
  if s.hostTakes && v.getLsbD 0 && s.hub.xinvDone then
    let s := s.modHub fun h => { h with xinvDone := false, xinvRun := (h.xinvAsn, h.xinvVa, h.xinvLen) }
    let bases := (s.tlb.filter fun e => s.inXinv e.asn e.page).map (·.base)
    .next (s.modHub fun h => { h with xinvBases := bases })
  else .next s

/-- Whether a page is one of the range, in the address space of a unit. -/
def State.xinvHit (s : State) (uid : Nat) (va : Word) : Bool := s.inXinv (s.spaceOf uid).1 (va.toNat / 65536)

/-- Whether a home address lies in a page that a translation under invalidation gave. -/
def State.xinvHome (s : State) (d : Nat) : Bool := s.hub.xinvBases.contains (d / 65536 * 65536)
/-- Whether a place lies in such a page. -/
def State.xinvLoc (s : State) : Loc → Bool
  | .home d => s.xinvHome d
  | _ => false

/-- Whether an access that used a translation of the range has not completed at its target (R73): a write that has not performed, has
not been delivered, or lies in a speculation buffer; a read that has not been answered; a page that an engine op has pinned. -/
def State.xinvOpen (s : State) : Bool :=
  (s.cores.any fun c => c.2.pend.any fun p => tagGlobal p.va && s.xinvHit (p.tk / 1024) p.va) ||
  (s.threads.any fun p => (p.2.loads.any fun r => r.res.isNone && r.err.isNone && tagGlobal r.va && s.xinvHit p.2.uid r.va) ||
    p.2.ports.any fun q => q.fin.any fun e => e.wait && e.loc.any s.xinvLoc) ||
  (s.cores.any fun c => c.2.chans.flatten.any fun o => o.pins.any fun p => s.inXinv (s.spaceOf o.uid).1 p.1) ||
  (s.offw.any fun w => s.xinvHome w.dpa) ||
  (s.hub.launches.any fun l => l.2.spec.any fun b => s.xinvHome b.head || b.lines.any fun e => s.xinvHome (128 * e.1))

/-- A thread forgets the places that the range gave the accesses of its instruction; one that waits at such a counter reads it anew. -/
def State.xinvThread (s : State) (tk : Nat) (t : Thread) : State :=
  let out := s.setThread tk { t with places := t.places.filter fun p => !s.xinvLoc p.2 }
  match t.park with
  | some (.counter l _ _) => if s.xinvLoc l then out.reissue tk else out
  | _ => out

/-- XINV_DONE: once no access that used a translation of the range is outstanding, the cached translations of the range are dropped and
DONE is 1 (R73). -/
def execXinvDone (s : State) : Out :=
  if s.hub.xinvDone || s.xinvOpen then .next s
  else
    let s := s.threads.foldl (fun s p => s.xinvThread p.1 p.2) s
    .next ({ s with tlb := s.tlb.filter fun e => !s.inXinv e.asn e.page }.modHub fun h => { h with xinvDone := true, xinvBases := [] })

/-! ## Far-cache slices (R62, R65) -/

/-- Whether a chain waits at a JOB entry that asks for a slice size of a base die while no job is open (R318). -/
def State.sliceAsked (s : State) (b size : Nat) : Bool :=
  s.hub.jobs.isEmpty && s.hub.chains.any fun c => c.waitsAt eJOB && entrySlice c.entry b == size

/-- SLICE_SIZE_CHANGE: while no unit is on the compute die above, the slice size changes as a JOB entry asks; changed lines of the old
slices are written back, and the vault bytes that become part of a slice or leave one hold undefined values (R65). -/
def execSliceSizeChange (bdie size : Nat) (s : State) : Out :=
  let busy := s.units.any fun p => p.2.onCore && p.2.ck / 64 == bdie
  if bdie > 3 || busy || !s.sliceAsked bdie size then .next s
  else
    let old := s.sliceBytes bdie
    let new := size * 8 * 2 ^ 20
    let s := (upFrom 0 64).foldl (fun s v =>
      let base := 2 ^ 50 + bdie * 2 ^ 31 + v * 2 ^ 25 + 2 ^ 25
      let (k, s) := s.takeFresh
      { s with mem := s.mem.forget (base - max old new) (base - min old new) k }) s
    .next { s with slice := setAt s.slice bdie size, far := s.far.filter fun e => homeDie (128 * e.1) != some bdie }

end Sys2Proof.Machine
end

