-- ==== Sys2Proof/Machine/Board.lean ====
section
/-! DEFINITION. Power, holds and tmr, monitors, the logs' clears, the registers of BAR0 that only hold a value, the size of BAR2, and
the management mailbox. -/

namespace Sys2Proof.Machine

/-! ## Monitors (R380) -/

/-- The bin that counts a sample. -/
def Monitor.binOf (m : Monitor) (x : Nat) : Nat :=
  let base := bits m.cfg.toNat 31 0
  if x < base then 0 else Nat.min ((x - base) / 2 ^ bits m.cfg.toNat 37 32 + 1) 31

/-- A monitor takes a sample, if it is enabled and its source is one of the table. -/
def Monitor.take (m : Monitor) (sample : Nat) : Monitor :=
  if !m.cfg.getLsbD 63 || m.src.toNat > 7 then m
  else
    let x := Word.ofN sample
    let k := m.binOf x.toNat
    let b := m.bin.getD k 0
    { m with
      min := if x.toNat < m.min.toNat then x else m.min
      max := if x.toNat > m.max.toNat then x else m.max
      cnt := m.cnt + 1
      bin := setAt m.bin k (if b = BitVec.allOnes 32 then b else b + 1) }

/-- The monitors of a source whose SEL names a thing take a sample. A cluster is named by its physical number, 8 x die + cluster (DESIGN
CHOICE; log 85). -/
def State.observe (s : State) (src sel sample : Nat) : State :=
  s.modHub fun h => { h with monitors := h.monitors.map fun m =>
    if m.2.src.toNat = src && m.2.sel.toNat = sel then (m.1, m.2.take sample) else m }

/-! ## Power clusters (R376 to R378) -/

/-- The physical cluster that PWR_CL n names: n is 8 x logical die + cluster (R376). -/
def State.clusterOf (s : State) (n : Nat) : Option Nat :=
  if n ≥ 32 then none else (s.physOf (n / 8)).map fun p => 8 * p + n % 8

/-- Whether a unit is resident on a cluster. -/
def State.clusterUsed (s : State) (n : Nat) : Bool := s.units.any fun u => u.2.onCore && u.2.ck / 8 == n

/-- A cluster after a request of a step and a ratio: a change of step takes effect at once; a change of ratio stops issue until it is
complete; a request to gate a cluster with a resident unit starts none, and leaves one that is under way as it is (R376). -/
def Cluster.request (c : Cluster) (step rat : Nat) (used : Bool) : Cluster :=
  if rat = c.crat && !c.changing then { c with step := step, rat := rat, cstep := step }
  else if rat = 3 && used then { c with step := step, rat := rat }
  else { c with step := step, rat := rat, changing := true, goal := rat }

/-- A cluster after the end of a change of ratio: issue goes on. Gating is honoured only while no unit is resident; a request for it stands
until then (R376). -/
def Cluster.settled (c : Cluster) (used : Bool) : Cluster :=
  if c.changing then { c with changing := false, crat := if c.goal = 3 && used then c.crat else c.goal, cstep := c.step }
  else if c.rat = 3 && !used then { c with crat := 3, cstep := c.step }
  else c

/-- PWR_CL_WRITE: a write with STEP = 3 is ignored (R376). -/
def execPwrClWrite (n : Nat) (v : Word) (s : State) : Out :=
  match s.clusterOf n with
  | none => .next s
  | some k =>
    if !s.hostTakes || bits v.toNat 3 2 = 3 then .next s
    else .next (s.modCluster k fun c => c.request (bits v.toNat 3 2) (bits v.toNat 1 0) (s.clusterUsed k))

/-- RATIO_CHANGE_COMPLETE: the ratio and step are in force, and issue goes on (R376). -/
def execRatioChangeComplete (n : Nat) (s : State) : Out :=
  if n ≥ 32 then .next s else .next (s.modCluster n fun c => c.settled (s.clusterUsed n))

/-- POWER_LIMIT_STEP: the management controller lowers a cluster's frequency by its step, never above the request (R376). -/
def execPowerLimitStep (n step : Nat) (s : State) : Out :=
  if n ≥ 32 || step > 2 || step < (s.cluster n).step then .next s else .next (s.modCluster n fun c => { c with cstep := step })

/-- DROOP_DETECT: the cluster's cycles are stretched; each is still one cycle for clk and every cycle count (R377). -/
def execDroopDetect (n : Nat) (s : State) : Out :=
  if n ≥ 32 || (s.cluster n).droop then .next s else .next (s.modCluster n fun c => { c with droop := true, droopAt := s.hub.tmr })
/-- DROOP_RECOVER: the monitors of the cluster's stretches take its duration (R377, R380). -/
def execDroopRecover (n : Nat) (s : State) : Out :=
  if n ≥ 32 || !(s.cluster n).droop then .next s
  else .next ((s.modCluster n fun c => { c with droop := false }).observe 7 n (s.hub.tmr - (s.cluster n).droopAt))

/-- HOLD_START: a hold of at most 2 µs begins, at the earliest 2 µs after the one before (R378). -/
def execHoldStart (n : Nat) (s : State) : Out :=
  let c := s.cluster n
  if n ≥ 32 || c.hold || s.hub.tmr < c.holdFree then .next s
  else .next (s.modCluster n fun c => { c with hold := true, holdEnd := s.hub.tmr + 2000 })
/-- HOLD_END: at the latest 2 µs after its start; the monitors of the cluster's holds take its duration (R378, R380). -/
def execHoldEnd (n : Nat) (s : State) : Out :=
  let c := s.cluster n
  if n ≥ 32 || !c.hold then .next s
  else
    let ends := min s.hub.tmr c.holdEnd
    .next ((s.modCluster n fun c => { c with hold := false, holdFree := ends + 2000 }).observe 6 n (ends + 2000 - c.holdEnd))

/-! ## tmr and power-on (R379) -/

/-- TMR_ALIGN: a module that joins a running system steps tmr forward once, before its first JOB entry opens; after that tmr only slews,
within the 100 ns that the island keeps. It never goes back (R379). -/
def execTmrAlign (forward : Nat) (s : State) : Out :=
  if !s.hub.joined then .next (s.modHub fun h => { h with tmr := h.tmr + forward, joined := true })
  else if forward ≤ 100 then .next (s.modHub fun h => { h with tmr := h.tmr + forward })
  else .next s

/-- POWER_ON_RESET: every domain is reset, and tmr starts at zero; loaded images stay, and boot verifies them (R379, R382). -/
def execPowerOnReset (s : State) : Out :=
  let images := s.hub.images
  let s' := { State.reset with sched := s.sched, turn := s.turn, fresh := s.fresh }.modHub fun h => { h with images := images }
  .next s'.boot

/-! ## The monitors' own steps (R380) -/

/-- MONITOR_SAMPLE: a monitor takes a sample of its source. One of corrected soft errors is 1 for each event; the durations of holds and of
stretches are sampled where these end. -/
def execMonitorSample (i sample : Nat) (s : State) : Out :=
  let m := AMap.get s.hub.monitors i {}
  if i ≥ 64 || m.src.toNat ≥ 6 then .next s
  else .next (s.modHub fun h => { h with monitors := AMap.set h.monitors i (m.take (if m.src.toNat = 5 then 1 else sample)) })

/-- MONITOR_CLR: MIN is all ones; MAX, CNT and BIN are zero. -/
def execMonitorClr (i : Nat) (s : State) : Out :=
  if i ≥ 64 || !s.hostTakes then .next s
  else
    let m := AMap.get s.hub.monitors i {}
    let m : Monitor := { cfg := m.cfg, src := m.src, sel := m.sel }
    .next (s.modHub fun h => { h with monitors := AMap.set h.monitors i m })

/-! ## Logs (R374, R385) -/

/-- ERROR_LOG_CLEAR: a core's error log and its lost count (R79, R374). -/
def execErrorLogClear (ck : Nat) (s : State) : Out :=
  if ck ≥ 256 || !s.hostTakes then .next s else .next (s.modCore ck fun c => { c with log := [], lost := 0 })
/-- MANAGEMENT_LOG_CLEAR (R385). -/
def execManagementLogClear (s : State) : Out := if !s.hostTakes then .next s else .next (s.modHub fun h => { h with mlog := [], mlost := 0 })

/-! ## BAR0 and BAR2 (R372 to R374) -/

/-- APER_BASE_WRITE: a value that is not aligned to the size of BAR2 is ignored (R372). -/
def execAperBaseWrite (v : Word) (s : State) : Out :=
  if !s.hostTakes || v.toNat % s.hub.bar2 ≠ 0 then .next s else .next (s.modHub fun h => { h with aperBase := v })

/-- BAR2_RESIZE: a power of two from 1 GiB to 256 GiB; APER_BASE stays (R372). -/
def execBar2Resize (size : Nat) (s : State) : Out :=
  if (upFrom 30 9).any fun k => size == 2 ^ k then .next (s.modHub fun h => { h with bar2 := size }) else .next s

/-- BAR0_BAD_ACCESS: the access is dropped and logs an unsupported request (R373). -/
def execBar0BadAccess (_ : Nat) (s : State) : Out := .next (s.modHub fun h => { h with unsupported := h.unsupported + 1 })

/-- A 64-bit register after a write of 8 bytes, or of 4 bytes to one of its halves (R373). -/
def putHalf (old v : Word) (off len : Nat) : Word :=
  let lo := v.toNat % 2 ^ 32
  if len = 8 then v
  else if off % 8 = 0 then Word.ofN (old.toNat / 2 ^ 32 * 2 ^ 32 + lo)
  else Word.ofN (lo * 2 ^ 32 + old.toNat % 2 ^ 32)

/-- Changes a monitor's register at an offset of its block. -/
def Monitor.put (m : Monitor) (at_ : Nat) (f : Word → Word) : Monitor :=
  match at_ with
  | 0 => { m with cfg := f m.cfg }
  | 8 =>
    let x := f (m.sel ++ m.src)
    { m with src := x.setWidth 32, sel := (x >>> 32).setWidth 32 }
  | _ => m

/-- Changes a register of a chain block that only holds a value (R316). -/
def Chain.put (c : Chain) (at_ : Nat) (f : Word → Word) : Chain :=
  match at_ with
  | 0x00 => { c with base := f c.base }
  | 0x08 => { c with size := f c.size }
  | 0x20 => { c with prog := f c.prog }
  | _ => c

/-- Lists bytes from an address on. -/
def setCells : List Host.Cell → Nat → List Byte → List Host.Cell
  | m, _, [] => m
  | m, k, b :: bs => setCells (setCell m k b) (k + 1) bs

/-- The hub after a write of bytes to a BAR0 register that only holds a value; the two halves of one are written one by one; other
offsets change nothing (R71, R316, R373, R374, R380, R384). -/
def Hub.putRegister (h : Hub) (off len : Nat) (v : Word) : Hub :=
  let r := off / 8 * 8
  let f (old : Word) : Word := putHalf old v off len
  let bytes := leBytes len v.toNat
  if r = 0x8 then { h with pkgid := (f (Word.ofN h.pkgid)).toNat % 8192 }
  else if r = 0x10 then (if (f h.aperBase).toNat % h.bar2 = 0 then { h with aperBase := f h.aperBase } else h)
  else if 0x1000 ≤ off && off < 0x2000 then { h with msix := setCells h.msix (off - 0x1000) bytes }
  else if r = 0x2000 then { h with xinvAsn := f h.xinvAsn }
  else if r = 0x2008 then { h with xinvVa := f h.xinvVa }
  else if r = 0x2010 then { h with xinvLen := f h.xinvLen }
  else if r = 0x2048 then { h with fqLimit := f h.fqLimit }
  else if 0x3000 ≤ r && r < 0x3400 then
    let n := (r - 0x3000) / 64
    { h with chains := setAt h.chains n ((h.chains.getD n {}).put (r % 64) f) }
  else if 0x31000 ≤ r && r < 0x35000 then
    let i := (r - 0x31000) / 256
    { h with monitors := AMap.set h.monitors i ((AMap.get h.monitors i {}).put (r % 256) f) }
  else if 0x40100 ≤ off && off < 0x44100 then
    { h with mb := { h.mb with req := setCells h.mb.req (off - 0x40100) bytes } }
  else h

/-- A write of 4 bytes to a ROUTE entry, or of 8 to two of them (R359, R373). -/
def routeWrites (m len : Nat) (v : Word) (s : State) : Out :=
  match execRouteWrite m (Word.ofN (bits v.toNat 31 0)) s with
  | .next s => if len = 8 then execRouteWrite (m + 1) (v >>> 32) s else .next s
  | r => r

/-- REGISTER_WRITE: a BAR0 register that takes writes of 4 and of 8 bytes takes it, FQ_TAIL, APER_BASE and the ROUTE entries as their own
steps do; read-only registers and unassigned offsets ignore it, and so do the registers that take writes of 8 bytes only, whose writes are
steps of their own (log 58); an access of a wrong size or alignment is dropped and logs an unsupported request (R71, R72, R316, R359, R372, R373,
R374, R380, R384). In recovery only the request buffer of LOAD_IMAGE is taken (R382). -/
def execRegisterWrite (off len : Nat) (v : Word) (s : State) : Out :=
  if (len ≠ 4 && len ≠ 8) || off % len ≠ 0 then execBar0BadAccess off s
  else if s.hubDown || (s.recovery && !(0x40100 ≤ off && off < 0x44100)) then .next s
  else if off / 8 * 8 = 0x2038 then execFqTailWrite (putHalf (Word.ofN s.hub.fqTail) v off len) s
  else if 0x14000 ≤ off && off < 0x1C000 then routeWrites ((off - 0x14000) / 4) len v s
  else .next (s.modHub fun h => h.putRegister off len v)

/-! ## The management mailbox (R383, R384) -/

/-- A write of MB_CMD starts a command, unless one runs (R384) or the hub is being reset (R363). -/
def State.mbStart (s : State) (code len tag : Nat) : State :=
  if s.hub.mb.busy || s.hubDown then s
  else s.modHub fun h => { h with mb := { h.mb with busy := true, code := code, len := len % 65536, tag := tag % 2 ^ 32, reply := [] } }

/-- ATTEST, code 0x0001. -/
def execAttest (len tag : Nat) (s : State) : Out := .next (s.mbStart 1 len tag)
/-- LOAD_IMAGE, code 0x0002. -/
def execLoadImage (len tag : Nat) (s : State) : Out := .next (s.mbStart 2 len tag)
/-- READ_MEAS, code 0x0003. -/
def execReadMeas (len tag : Nat) (s : State) : Out := .next (s.mbStart 3 len tag)
/-- UNKNOWN_COMMAND_CODE: a code that no command has. -/
def execUnknownCommandCode (code tag : Nat) (s : State) : Out :=
  if 1 ≤ code % 65536 && code % 65536 ≤ 3 then .next s else .next (s.mbStart (code % 65536) 0 tag)

/-- The request buffer's bytes from an offset. -/
def Mailbox.reqBytes (m : Mailbox) (off n : Nat) : List Byte := (upFrom off n).map fun k => cellAt m.req k

/-- The measurement registers as bytes. -/
def Hub.measBytes (h : Hub) : List Byte := h.meas.flatMap digestBytes

/-- The attestation report (R383). -/
def Hub.report (h : Hub) (nonce : List Byte) : List Byte :=
  let body := leBytes 4 1 ++ leBytes 4 h.pkgid ++ nonce ++ h.measBytes ++ leBytes 8 h.tmr
  body ++ (upFrom 0 2420).map (Config.signatureByte (Config.identityPrivate h.secret) (Config.sha3 body))

/-- The image that chunks make up, a later chunk over an earlier one; none for a byte that no chunk holds. -/
def overlay : List (Nat × List Byte) → List (Option Byte) → List (Option Byte)
  | [], im => im
  | (off, bs) :: rest, im =>
    let im := im ++ List.replicate (off + bs.length - im.length) none
    overlay rest (im.take off ++ bs.map some ++ im.drop (off + bs.length))

/-- The result of a command with the state after it, and its reply (R384). -/
structure MbDone where
  res   : Nat
  reply : List Byte := []
  st    : State

/-- A chunk of an image: kept, or at the last one the image is verified and stored; in recovery the hub boots again (R382, R384). -/
def State.loadChunk (s : State) (len : Nat) : MbDone :=
  let m := s.hub.mb
  let hd := m.reqBytes 0 8
  let stage := field hd 0 1
  let flags := field hd 1 1
  let off := field hd 4 4
  if !s.recovery && !s.hub.jobs.isEmpty then { res := 4, st := s }
  else if len < 8 || len > 16384 || flags > 1 || !zeroField hd 2 2 || off + (len - 8) > 2 ^ 23 || stage = 0 || stage > 3 then
    { res := 2, st := s }
  else
    let old := if m.stage = stage then m.part else []
    let part := old ++ [(off, m.reqBytes 8 (len - 8))]
    let keep (p : List (Nat × List Byte)) : State := s.modHub fun h => { h with mb := { h.mb with stage := stage, part := p } }
    if flags = 0 then { res := 0, st := keep part }
    else
      let s := keep []
      let im := overlay part []
      if im.any (·.isNone) then { res := 5, st := s }
      else
        let bytes := im.filterMap id
        if !Config.imageVerifies stage bytes then { res := 3, st := s }
        else
          let s := s.modHub fun h => { h with images := AMap.set h.images stage bytes }
          { res := 0, st := if s.recovery then s.boot else s }

/-- What the mailbox's command does (R384). -/
def State.mbRun (s : State) : MbDone :=
  let m := s.hub.mb
  if s.recovery && m.code ≠ 2 then { res := 4, st := s }
  else match m.code with
    | 1 => if m.len ≠ 32 then { res := 2, st := s } else { res := 0, reply := s.hub.report (m.reqBytes 0 32), st := s }
    | 2 => s.loadChunk m.len
    | 3 => if m.len ≠ 0 then { res := 2, st := s } else { res := 0, reply := s.hub.measBytes, st := s }
    | _ => { res := 1, st := s }

/-- MAILBOX_COMPLETION: the command's result and reply, BUSY 0, and vector 5 (R384); a hub that is being reset completes none. -/
def execMailboxCompletion (s : State) : Out :=
  if !s.hub.mb.busy || s.hubDown then .next s
  else
    let d := s.mbRun
    .next ((d.st.modHub fun h =>
      { h with mb := { h.mb with busy := false, result := d.res, rlen := d.reply.length, rtag := h.mb.tag, reply := d.reply } }).vector 5)

end Sys2Proof.Machine
end

