-- ==== Sys2Proof/Machine/Flags.lean ====
section
/-! DEFINITION. The conditions that compares write into predicates (R40, R142, R171). -/

namespace Sys2Proof.Machine

/-- An integer condition on full 64-bit values, signed or unsigned (R142). -/
def iholds (sgn : Bool) (c : ICond) (x y : Word) : Bool :=
  let lt := if sgn then x.toInt < y.toInt else x.toNat < y.toNat
  match c with
  | .eq => x == y
  | .ne => x != y
  | .lt => lt
  | .le => lt || x == y
  | .gt => !(lt || x == y)
  | .ge => !lt
  | .tst => (x &&& y) != 0

/-- A floating condition on two values (R40, R171). -/
def fholds (c : FCond) (x y : FVal) : Bool :=
  match x.cmp y, c with
  | none, .ne => true
  | none, .unord => true
  | none, _ => false
  | some _, .ord => true
  | some r, .eq => r == .eq
  | some r, .ne => r != .eq
  | some r, .lt => r == .lt
  | some r, .le => r != .gt
  | some r, .gt => r == .gt
  | some r, .ge => r != .lt
  | some _, .unord => false

end Sys2Proof.Machine
end

