-- ==== Sys2Proof/Machine/Integer.lean ====
section
/-! DEFINITION. Integer work: three-operand and unary instructions, special registers, uniforms, compares, selection, and the
16-bit integer forms. -/

namespace Sys2Proof.Machine

/-! ## Three-operand instructions -/

/-- IADD (R136). -/
def execIadd (o : Op3) (s : State) : Out := run2 (.iadd o) s fun x y => x + y
/-- ISUB (R136). -/
def execIsub (o : Op3) (s : State) : Out := run2 (.isub o) s fun x y => x - y
/-- IMUL (R136). -/
def execImul (o : Op3) (s : State) : Out := run2 (.imul o) s fun x y => x * y
/-- IMAC (R136). -/
def execImac (o : Op3) (s : State) : Out := run3 (.imac o) s fun x y acc => acc + x * y
/-- IADD.32 (R136). -/
def execIadd32 (o : Op3) (s : State) : Out := run2 (.iadd32 o) s fun x y => sextN (x + y) 32
/-- ISUB.32 (R136). -/
def execIsub32 (o : Op3) (s : State) : Out := run2 (.isub32 o) s fun x y => sextN (x - y) 32
/-- IMUL.32 (R136). -/
def execImul32 (o : Op3) (s : State) : Out := run2 (.imul32 o) s fun x y => sextN (x * y) 32
/-- IMAC.32 (R136). -/
def execImac32 (o : Op3) (s : State) : Out := run3 (.imac32 o) s fun x y acc => sextN (acc + x * y) 32
/-- IMULH.s (R136). -/
def execImulhS (o : Op3) (s : State) : Out := run2 (.imulhS o) s fun x y => BitVec.ofInt 64 (x.toInt * y.toInt / 2 ^ 64)
/-- IMULH.n (R136). -/
def execImulhN (o : Op3) (s : State) : Out := run2 (.imulhN o) s fun x y => Word.ofN (x.toNat * y.toNat / 2 ^ 64)
/-- AND (R136). -/
def execAndOp (o : Op3) (s : State) : Out := run2 (.andOp o) s fun x y => x &&& y
/-- OR (R136). -/
def execOrOp (o : Op3) (s : State) : Out := run2 (.orOp o) s fun x y => x ||| y
/-- XOR (R136). -/
def execXorOp (o : Op3) (s : State) : Out := run2 (.xorOp o) s fun x y => x ^^^ y
/-- ANDN (R136). -/
def execAndn (o : Op3) (s : State) : Out := run2 (.andn o) s fun x y => x &&& ~~~y
/-- SHL (R136). -/
def execShl (o : Op3) (s : State) : Out := run2 (.shl o) s fun x y => x <<< (y.toNat % 64)
/-- SHR (R136). -/
def execShr (o : Op3) (s : State) : Out := run2 (.shr o) s fun x y => x >>> (y.toNat % 64)
/-- ASR (R136). -/
def execAsr (o : Op3) (s : State) : Out := run2 (.asr o) s fun x y => x.sshiftRight (y.toNat % 64)
/-- IMIN.s (R136). -/
def execIminS (o : Op3) (s : State) : Out := run2 (.iminS o) s fun x y => if x.toInt ≤ y.toInt then x else y
/-- IMAX.s (R136). -/
def execImaxS (o : Op3) (s : State) : Out := run2 (.imaxS o) s fun x y => if x.toInt ≥ y.toInt then x else y
/-- IMIN.n (R136). -/
def execIminN (o : Op3) (s : State) : Out := run2 (.iminN o) s fun x y => if x.toNat ≤ y.toNat then x else y
/-- IMAX.n (R136). -/
def execImaxN (o : Op3) (s : State) : Out := run2 (.imaxN o) s fun x y => if x.toNat ≥ y.toNat then x else y

/-! ## Unary instructions -/

/-- The positions of the 1 bits. -/
def oneBits (a : Word) : List Nat := (upFrom 0 64).filter fun i => a.getLsbD i
/-- The number of 1 bits (R138). -/
def popCount (a : Word) : Word := Word.ofN (oneBits a).length
/-- The number of 0 bits above the highest 1 bit (R138). -/
def leadingZeros (a : Word) : Word := Word.ofN (63 - ((oneBits a).getLast?.getD 0) + (if a = 0 then 1 else 0))
/-- The number of 0 bits below the lowest 1 bit (R138). -/
def trailingZeros (a : Word) : Word := Word.ofN ((oneBits a).head?.getD 64)
/-- Bit i of the result is bit 63 - i (R138). -/
def bitReverse (a : Word) : Word := a.reverse
/-- Byte i of the result is byte 7 - i (R138). -/
def byteSwap (a : Word) : Word := Word.ofN (leVal (leBytes 8 a.toNat).reverse)

/-- MOV (R138). -/
def execMov (o : Op2) (s : State) : Out := run1 (.mov o) s fun a => a
/-- NOT (R138). -/
def execNotOp (o : Op2) (s : State) : Out := run1 (.notOp o) s fun a => ~~~a
/-- NEG (R138). -/
def execNegOp (o : Op2) (s : State) : Out := run1 (.negOp o) s fun a => 0 - a
/-- ABS (R138). -/
def execAbsOp (o : Op2) (s : State) : Out := run1 (.absOp o) s fun a => if a.toInt ≥ 0 then a else 0 - a
/-- POPC (R138). -/
def execPopc (o : Op2) (s : State) : Out := run1 (.popc o) s popCount
/-- CLZ (R138). -/
def execClz (o : Op2) (s : State) : Out := run1 (.clz o) s leadingZeros
/-- CTZ (R138). -/
def execCtz (o : Op2) (s : State) : Out := run1 (.ctz o) s trailingZeros
/-- BREV (R138). -/
def execBrev (o : Op2) (s : State) : Out := run1 (.brev o) s bitReverse
/-- BSWAP (R138). -/
def execBswap (o : Op2) (s : State) : Out := run1 (.bswap o) s byteSwap
/-- SX8 (R138). -/
def execSx8 (o : Op2) (s : State) : Out := run1 (.sx8 o) s fun a => sextN a 8
/-- SX16 (R138). -/
def execSx16 (o : Op2) (s : State) : Out := run1 (.sx16 o) s fun a => sextN a 16
/-- SX32 (R138). -/
def execSx32 (o : Op2) (s : State) : Out := run1 (.sx32 o) s fun a => sextN a 32
/-- ZX8 (R138). -/
def execZx8 (o : Op2) (s : State) : Out := run1 (.zx8 o) s fun a => zextN a 8
/-- ZX16 (R138). -/
def execZx16 (o : Op2) (s : State) : Out := run1 (.zx16 o) s fun a => zextN a 16
/-- ZX32 (R138). -/
def execZx32 (o : Op2) (s : State) : Out := run1 (.zx32 o) s fun a => zextN a 32

/-! ## Special registers (R139) -/

/-- The value of a special register. -/
def State.special (s : State) (t : Thread) (id : Nat) : Word :=
  let u := s.unit? t.uid
  let ck := s.ckOf t.uid
  match id with
  | 0 => Word.ofN (s.cluster (ck / 8)).clk
  | 1 => Word.ofN s.hub.tmr
  | 5 => Word.ofN ((u.map fun u => (u.gang t.gg).gpart).getD 32)
  | 6 => t.rpc
  | 7 => Word.ofN ((u.map (·.idx)).getD 0)
  | 8 => Word.ofN ((u.map (·.lid)).getD 0)
  | 9 => Word.ofN (ck % 64)
  | 10 => Word.ofN ((s.logOf (ck / 64)).getD 0)
  | 11 => Word.ofN s.hub.pkgid
  | 12 => t.tcause
  | 13 => t.tloc
  | n => ((t.loops.reverse[n - 2]?).map fun l => l.lc.setWidth 64).getD 0

/-- MOVS (R139). -/
def execMovs (o : MovsOp) (s : State) : Out :=
  run (.movs o) s fun tk t vals s' => resultBody (instrInfo (.movs o)) (fun _ => s.special t o.id.1) tk t vals s'

/-! ## Uniforms (R140, R141) -/

/-- URD. -/
def execUrd (o : Op2) (s : State) : Out :=
  run (.urd o) s fun tk t vals s =>
    let i := (vals.getD 0 0).toNat
    if i ≥ 160 then .trap s cOPERAND 0
    else
      match s.unit? t.uid with
      | none => .hold s
      | some u =>
        if u.uwrFlight tk i then .hold (s.restorePorts tk t.ports)
        else resultBody (instrInfo (.urd o)) (fun _ => u.uni.getD i 0) tk t vals s

/-- Whether a uniform write comes before another: by completion cycle, then array, seat and lane (R141). -/
def UwrRec.before (x y : UwrRec) : Bool :=
  let k (r : UwrRec) := ((r.done * 4 + r.arr) * 4 + r.seat) * 32 + r.tk % 32
  k x ≤ k y
/-- Puts a uniform write into the order of completion. -/
def uwrInsert (x : UwrRec) : List UwrRec → List UwrRec
  | [] => [x]
  | y :: ys => if y.before x then y :: uwrInsert x ys else x :: y :: ys

/-- UWR: the write takes effect when it completes, 2 cycles after issue. -/
def execUwr (o : OpX) (s : State) : Out :=
  run (.uwr o) s fun tk t vals s =>
    let i := (vals.getD 1 0).toNat
    if i ≥ 160 then .trap s cOPERAND 0
    else .seq (s.modUnit t.uid fun u =>
      let g := u.gang t.gg
      let r : UwrRec := { n := i, val := vals.getD 0 0, tk := tk, arr := g.home, seat := g.seat.getD 0,
                          done := (s.cluster (u.ck / 8)).clk + 2 }
      { u with uwr := uwrInsert r u.uwr })

/-! ## Compares and selection -/

/-- ICMP.s (R142). -/
def execIcmpS (o : ICmp) (s : State) : Out := runCompare (.icmpS o) o.p s (iholds true o.c)
/-- ICMP.n (R142). -/
def execIcmpN (o : ICmp) (s : State) : Out := runCompare (.icmpN o) o.p s (iholds false o.c)
/-- SEL: the guard's predicate selects the first or the second source (R143). -/
def execSel (o : Op3) (s : State) : Out :=
  run (.sel o) s fun tk t vals s =>
    resultBody (instrInfo (.sel o)) (fun v => if t.guard (some o.g) then v.getD 0 0 else v.getD 1 0) tk t vals s

/-! ## 16-bit forms (R47) -/

/-- The 16-bit MOV, which reads only S (R47). -/
def execMovCompact (o : C16) (s : State) : Out := run1 (.movCompact o) s fun x => x
/-- The 16-bit IADD (R47, R136). -/
def execIaddCompact (o : C16) (s : State) : Out := run2 (.iaddCompact o) s fun x y => x + y
/-- The 16-bit ISUB (R47, R136). -/
def execIsubCompact (o : C16) (s : State) : Out := run2 (.isubCompact o) s fun x y => x - y
/-- The 16-bit IADD.32 (R47, R136). -/
def execIadd32Compact (o : C16) (s : State) : Out := run2 (.iadd32Compact o) s fun x y => sextN (x + y) 32
/-- The 16-bit AND (R47, R136). -/
def execAndCompact (o : C16) (s : State) : Out := run2 (.andCompact o) s fun x y => x &&& y
/-- The 16-bit OR (R47, R136). -/
def execOrCompact (o : C16) (s : State) : Out := run2 (.orCompact o) s fun x y => x ||| y
/-- The 16-bit XOR (R47, R136). -/
def execXorCompact (o : C16) (s : State) : Out := run2 (.xorCompact o) s fun x y => x ^^^ y
/-- IADDI: an immediate from -16 to 15 (R47). -/
def execIaddi (o : C16I) (s : State) : Out := run1 (.iaddi o) s fun x => x + o.imm.signExtend 64
/-- SHLI: an immediate from 0 to 31 (R47). -/
def execShli (o : C16I) (s : State) : Out := run1 (.shli o) s fun x => x <<< o.imm.toNat
/-- SHRI: an immediate from 0 to 31 (R47). -/
def execShri (o : C16I) (s : State) : Out := run1 (.shri o) s fun x => x >>> o.imm.toNat

end Sys2Proof.Machine
end

