-- ==== Sys2Proof/Machine/Debug.lean ====
section
/-! DEFINITION. DBG: its request block, its refusals, and its sub-ops on a target (R347 to R352). -/

namespace Sys2Proof.Machine

/-! ## The target (R348) -/

/-- The unit that a DBG acts on: its launch and index, and the unit where it has been started and is not lost. -/
structure Target where
  lid : Nat
  idx : Nat
  l   : Launch
  u   : Option TUnit

/-- The target that a handle names for a thread; none for reason 0x27. -/
def State.target (s : State) (t : Thread) (h : Nat) : Option Target :=
  let lid := h / 2 ^ 32
  let idx := h % 2 ^ 32
  match s.launch? lid with
  | none => none
  | some l =>
    if l.jid ≠ s.jidOf t.uid || idx ≥ l.desc.units || unitKey lid idx = t.uid || l.done.contains idx ||
        (AMap.get? s.hub.recs (unitKey lid idx)).isSome then none
    else
      match s.unit? (unitKey lid idx) with
      | none => some { lid := lid, idx := idx, l := l, u := none }
      | some u =>
        if u.stat = .ended then none
        else some { lid := lid, idx := idx, l := l, u := if u.stat = .lost then none else some u }

/-- A target's key. -/
def Target.uid (x : Target) : Nat := unitKey x.lid x.idx
/-- The debug state of a target: that of its unit, or what is recorded for its start (R349). -/
def Target.dbg (x : Target) : UnitDbg :=
  match x.u with
  | some u => u.dbg
  | none => (AMap.get? x.l.preDbg x.idx).getD {}
/-- The gang count of a target. -/
def Target.gangs (x : Target) : Nat := x.l.desc.threads / 32
/-- The scratchpad bytes of a target. -/
def Target.scr (x : Target) : Nat := roundUp x.l.desc.spb 128

/-- Changes the debug state of a target. -/
def State.setDbg (s : State) (x : Target) (d : UnitDbg) : State :=
  match x.u with
  | some _ => s.modUnit x.uid fun u => { u with dbg := d }
  | none => s.modLaunch x.lid fun l => { l with preDbg := AMap.set l.preDbg x.idx d }

/-! ## Sub-ops (R349) -/

/-- The sub-ops. -/
inductive DbgOp where
  | halt | resume | step | setmask | wset | wclr | status | readreg | bpset | bpclr
  deriving DecidableEq, Repr

/-- Whether a sub-op writes OUT. -/
def DbgOp.writes : DbgOp → Bool
  | .wset => true
  | .status => true
  | .readreg => true
  | .bpset => true
  | _ => false

/-- The register count of a thread of a target by its role. -/
def regsAt : Nat → List Role → Nat
  | _, [] => 0
  | tg, r :: rs => if tg < 32 * r.gangs then r.regs else regsAt (tg - 32 * r.gangs) rs

/-- The numbers that a READREG kind has (R352). -/
def kindCount (regs : Nat) : Nat → Nat
  | 0 => regs | 1 => 1 | 2 => 4 | 3 => 14 | 4 => 1 | 5 => 160 | 6 => 1 | _ => 0

/-- Whether ARG is out of range for a sub-op (reason 0x28). -/
def argBad (op : DbgOp) (x : Target) (arg : Nat) : Bool :=
  match op with
  | .setmask => bits arg 63 37 != 0 || bits arg 36 32 ≥ x.gangs
  | .wset => bits arg 63 25 != 0 || arg % 8 != 0 || bits arg 24 23 == 0 || bits arg 18 0 + 8 * (bits arg 22 19 + 1) > x.scr
  | .wclr => arg > 3 || ((x.dbg.wps.getD arg none)).isNone
  | .bpset => bits arg 63 57 != 0 || arg % 2 == 1
  | .bpclr => arg > 7 || ((x.dbg.bps.getD arg none)).isNone
  | .readreg =>
    let tg := bits arg 15 0
    bits arg 63 32 != 0 || tg ≥ x.l.desc.threads || bits arg 31 24 ≥ kindCount (regsAt tg x.l.desc.roles) (bits arg 23 16)
  | _ => false

/-- The reason for which a request is refused, 0 for none (R348). -/
def State.dbgRefusal (s : State) (op : DbgOp) (bs : List Byte) (x : Option Target) : Nat :=
  let out := Word.ofN (field bs 16 8)
  let arg := field bs 8 8
  let outBad := op.writes && (out == 0 || out.toNat % 8 != 0 || !(tagGlobal out || bits out.toNat 63 56 == 0xF0))
  match x with
  | none => if !zeroField bs 24 8 || outBad then 0x26 else 0x27
  | some x =>
    let halted := match s.thread? (threadKey x.uid (bits arg 15 0)) with
      | some t => t.live && t.halted && x.u.isSome
      | none => false
    lowest [(0x26, !zeroField bs 24 8 || outBad), (0x28, argBad op x arg), (0x29, op == .readreg && !halted)]

/-- The comparators of a kind that are armed on a core (R351). -/
def State.armed (s : State) (ck : Nat) (f : UnitDbg → Nat) : Nat :=
  (s.units.filter fun p => p.2.onCore && p.2.ck == ck).foldl (fun n p => n + f p.2.dbg) 0
/-- Whether a target may take a further comparator of a kind, of which a core has n (R351). -/
def State.compFree (s : State) (x : Target) (n : Nat) (f : UnitDbg → Nat) : Bool :=
  match x.u with
  | some u => if u.onCore then s.armed u.ck f < n else true
  | none => true

/-- All ones: no comparator is free (R349). -/
def allOnes8 : List Byte := List.replicate 8 0xFF

/-- A mask of the threads of a gang that a test picks. -/
def State.gangMask (s : State) (x : Target) (g : Nat) (f : Thread → Bool) : Nat :=
  if x.u.isNone then 0
  else (((s.threadsOf x.uid).filter fun p => p.2.gg == g && f p.2).map fun p => 2 ^ p.2.ln).sum

/-- The status image of a target (R352). -/
def State.statusImage (s : State) (x : Target) : List Byte :=
  let d := x.dbg
  let st := match x.u with | none => 0 | some u => if u.stat = .resident then 1 else 2
  let held (xs : List Bool) : Nat := ((upFrom 0 xs.length).map fun k => if xs.getD k false then 2 ^ k else 0).sum
  leBytes 1 st ++ leBytes 1 ((if d.halt then 1 else 0) + (if d.under then 2 else 0)) ++ leBytes 2 x.gangs ++
    leBytes 4 (held (d.bps.map (·.isSome))) ++ leBytes 4 (held (d.wps.map (·.isSome))) ++ leBytes 4 0 ++
    (upFrom 0 x.gangs).flatMap fun g =>
      leBytes 4 (s.gangMask x g fun t => t.live && t.halted) ++ leBytes 4 (s.gangMask x g fun t => t.atBreak) ++
        leBytes 4 (s.gangMask x g fun t => !t.live) ++ leBytes 4 (s.gangMask x g fun t => t.stepping)

/-- The register that READREG writes (R352). -/
def State.regImage (s : State) (x : Target) (arg : Nat) : List Byte :=
  let n := bits arg 31 24
  match s.thread? (threadKey x.uid (bits arg 15 0)) with
  | none => leBytes 16 0
  | some t =>
    let out (v : Word) (flag : Nat) : List Byte := leBytes 8 v.toNat ++ leBytes 8 flag
    match bits arg 23 16 with
    | 0 => out (t.reg n) 0
    | 1 => out (Word.ofN (128 + ((upFrom 0 7).map fun k => if t.p.getD k false then 2 ^ k else 0).sum)) 0
    | 2 => let b := t.b.getD n {}; out b.val (if b.valid then 1 else 0)
    | 3 => out (s.special t n) 0
    | 4 => out t.pc 0
    | 5 => out ((x.u.map fun u => u.uni.getD n 0).getD 0) 0
    | _ => out (Word.ofN t.cd) 0

/-- The effect of a sub-op on its target, and the bytes for OUT (R349). -/
def State.dbgApply (s : State) (op : DbgOp) (x : Target) (arg : Nat) : List Byte × State :=
  let d := x.dbg
  match op with
  | .halt =>
    let s := if x.u.isSome then s.modThreadsOf x.uid fun t => if t.live then { t with halted := true, stepping := false } else t else s
    ([], s.setDbg x { d with halt := true, under := true })
  | .resume =>
    let s := if x.u.isSome then s.modThreadsOf x.uid fun t => { t with halted := false, atBreak := false, stepping := false } else s
    ([], s.setDbg x { d with halt := false })
  | .step =>
    ([], if x.u.isNone then s else s.modThreadsOf x.uid fun t =>
      let m := ((x.u.map fun u => (u.gang t.gg).stepMask).getD 0)
      if t.live && t.halted && m.getLsbD t.ln then { t with halted := false, stepping := true } else t)
  | .setmask =>
    ([], s.modUnit x.uid fun u =>
      if x.u.isSome then u.modGang (bits arg 36 32) fun g => { g with stepMask := BitVec.ofNat 32 (bits arg 31 0) } else u)
  | .wset =>
    match findPos (fun w => w == none) d.wps with
    | none => (allOnes8, s)
    | some k =>
      if !s.compFree x 4 (fun d => d.wps.countP (·.isSome)) then (allOnes8, s)
      else
        let w : Watch := { lo := bits arg 18 0, hi := bits arg 18 0 + 8 * (bits arg 22 19 + 1), rd := bits arg 23 23 == 1, wr := bits arg 24 24 == 1 }
        (leBytes 8 k, s.setDbg x { d with wps := setAt d.wps k (some w), under := true })
  | .wclr => ([], s.setDbg x { d with wps := setAt d.wps arg none })
  | .status => (s.statusImage x, s)
  | .readreg => (s.regImage x arg, s)
  | .bpset =>
    match findPos (fun b => b == none) d.bps with
    | none => (allOnes8, s)
    | some k =>
      if !s.compFree x 8 (fun d => d.bps.countP (·.isSome)) then (allOnes8, s)
      else (leBytes 8 k, s.setDbg x { d with bps := setAt d.bps k (some (Word.ofN arg)), under := true })
  | .bpclr => ([], s.setDbg x { d with bps := setAt d.bps arg none })

/-! ## OUT (R348) -/

/-- What the resolution of OUT gives: the places, an error, or a wait. -/
inductive OutRuns where
  | ok (rs : List Run)
  | err (cause : Nat)
  | fault (token : Option Nat)
  | absent (uid line : Nat)
  | hold

/-- Resolves n bytes at OUT, page by page, as plain stores of the thread (R57, R74, R112). -/
def State.outRuns (s : State) (tk : Nat) (t : Thread) : Nat → Word → Nat → OutRuns × State
  | 0, _, _ => (.ok [], s)
  | fuel + 1, va, n =>
    if n = 0 then (.ok [], s)
    else
      let k := Nat.min n (128 - va.toNat % 128)
      match s.access tk t t.ftok va k 8 1 with
      | (.trap c, s) => (.err c, s)
      | (.fault f, s) => (.fault f, s)
      | (.hold, s) => (.hold, s)
      | (.ok l, s) =>
        match s.locErr l k false with
        | some c => (.err c, s.logThread t va c 0)
        | none =>
          if s.isAbsent l then (match l with | .scratch u o => (.absent u (o / 128), s) | _ => (.ok [], s))
          else
            match s.outRuns tk t fuel (va + Word.ofN k) (n - k) with
            | (.ok rs, s) => (.ok ({ loc := l, n := k } :: rs), s)
            | r => r

/-- Writes bytes over resolved places, at their homes. -/
def State.outWrites (s : State) (tk : Nat) (t : Thread) (va : Word) : List Run → List Byte → State
  | [], _ => s
  | r :: rs, bs => (s.homeWrite tk t r.loc (bs.take r.n) va).outWrites tk t (va + Word.ofN r.n) rs (bs.drop r.n)

/-- The bytes that a sub-op writes to OUT. -/
def outSize (op : DbgOp) (x : Target) : Nat :=
  match op with
  | .wset => 8
  | .bpset => 8
  | .readreg => 16
  | .status => 16 + 16 * x.gangs
  | _ => 0

/-- DBG: privilege, the request block, the refusals, the sub-op on its target, its OUT writes, and an acquire at dev scope
(R347, R348). -/
def dbgBody (op : DbgOp) : Body := fun tk t vals s =>
  if !((s.launchOf t.uid).map (·.desc.dbgp)).getD false then .trap s cPRIV 0
  else readCard tk t 4 (vals.getD 0 0) s fun bs s =>
    let x := s.target t (field bs 0 8)
    let why := s.dbgRefusal op bs x
    match x with
    | none => .trap s cENGINE why
    | some x =>
      if why ≠ 0 then .trap s cENGINE why
      else if op = .halt && s.issueQ.any (fun k => k / 1024 == x.uid) then .park s (.haltDone x.uid)
      else
        let out := Word.ofN (field bs 16 8)
        let arg := field bs 8 8
        match s.outRuns tk t (outSize op x / 8 + 1) out (outSize op x) with
        | (.fault f, s) => parkFault s tk f
        | (.absent u l, s) => .park s (.presence u l)
        | (.hold, s) => .hold (s.restorePorts tk t.ports)
        | (.err c, s) =>
          let s := (s.dbgApply op x arg).2
          let rs := s.quietRuns t.uid tk [] (outSize op x + 1) out (outSize op x)
          .trap (rs.foldl (fun s r => s.forgetAs (s.specOf t.uid) r.loc r.n) s) c 0
        | (.ok rs, s) =>
          if rs.any fun r => !s.specFits (s.specOf t.uid) r.loc then .park s .specFull
          else
            let s := s.settle (s.ckOf t.uid) tk
            let (data, s) := s.dbgApply op x arg
            let s := ((s.outWrites tk t out rs data).refresh (s.ckOf t.uid)).acquire tk
            .seqR (s.modThread tk Thread.dropPrefetched)

/-- DBG 0. -/
def execDbgHalt (o : OpA) (s : State) : Out := run (.dbgHalt o) s (dbgBody .halt)
/-- DBG 1. -/
def execDbgResume (o : OpA) (s : State) : Out := run (.dbgResume o) s (dbgBody .resume)
/-- DBG 2. -/
def execDbgStep (o : OpA) (s : State) : Out := run (.dbgStep o) s (dbgBody .step)
/-- DBG 3. -/
def execDbgSetmask (o : OpA) (s : State) : Out := run (.dbgSetmask o) s (dbgBody .setmask)
/-- DBG 4. -/
def execDbgWset (o : OpA) (s : State) : Out := run (.dbgWset o) s (dbgBody .wset)
/-- DBG 5. -/
def execDbgWclr (o : OpA) (s : State) : Out := run (.dbgWclr o) s (dbgBody .wclr)
/-- DBG 6. -/
def execDbgStatus (o : OpA) (s : State) : Out := run (.dbgStatus o) s (dbgBody .status)
/-- DBG 7. -/
def execDbgReadreg (o : OpA) (s : State) : Out := run (.dbgReadreg o) s (dbgBody .readreg)
/-- DBG 8. -/
def execDbgBpset (o : OpA) (s : State) : Out := run (.dbgBpset o) s (dbgBody .bpset)
/-- DBG 9. -/
def execDbgBpclr (o : OpA) (s : State) : Out := run (.dbgBpclr o) s (dbgBody .bpclr)

end Sys2Proof.Machine
end

