-- ==== Sys2Proof/Machine/Floating.lean ====
section
/-! DEFINITION. Floating point on the lanes: arithmetic, packed arithmetic, compares, special functions, exponents, rounding and
conversions. -/

namespace Sys2Proof.Machine

/-- Two sources read in a format, and the exact result rounded to nearest even (R165, R167). -/
def fop2 (f : Fmt) (g : FVal → FVal → FVal) (a b : Word) : Word := Word.ofN (f.rne (g (f.val a.toNat) (f.val b.toNat)))
/-- Two sources and an accumulator, with one rounding (R167). -/
def fop3 (f : Fmt) (g : FVal → FVal → FVal → FVal) (a b d : Word) : Word :=
  Word.ofN (f.rne (g (f.val a.toNat) (f.val b.toNat) (f.val d.toNat)))
/-- The minimum or the maximum of two sources (R158, R168). -/
def fmin2 (f : Fmt) (greater : Bool) (a b : Word) : Word :=
  Word.ofN (f.minmax greater (a.toNat % 2 ^ f.width) (b.toNat % 2 ^ f.width))
/-- Four lanes of 16 bits (R170). -/
def packed (g : Nat → Nat → Nat → Nat) (a b d : Word) : Word :=
  let lane (k : Nat) := g (bits a.toNat (16 * k + 15) (16 * k)) (bits b.toNat (16 * k + 15) (16 * k)) (bits d.toNat (16 * k + 15) (16 * k))
  Word.ofN (lane 0 + 2 ^ 16 * lane 1 + 2 ^ 32 * lane 2 + 2 ^ 48 * lane 3)
/-- An operation on the bits of a source that is no NaN (R172). -/
def fsign (f : Fmt) (g : Nat → Nat) (a : Word) : Word :=
  let x := a.toNat % 2 ^ f.width
  Word.ofN (if f.isNan x then f.canon else g x)
/-- d x 2^a (R175). -/
def fscaleOp (f : Fmt) (a d : Word) : Word := Word.ofN (f.rne (scaleVal a.toInt (f.val d.toNat)))

/-! ## Two-source arithmetic -/

/-- FADD (R167). -/
def execFadd (o : Op3) (s : State) : Out := run2 (.fadd o) s (fop2 f32 fun x y => x.add y)
/-- FSUB (R167). -/
def execFsub (o : Op3) (s : State) : Out := run2 (.fsub o) s (fop2 f32 fun x y => x.add y.negate)
/-- FMUL (R167). -/
def execFmul (o : Op3) (s : State) : Out := run2 (.fmul o) s (fop2 f32 fun x y => x.mul y)
/-- FFMA (R167): one rounding. -/
def execFfma (o : Op3) (s : State) : Out := run3 (.ffma o) s (fop3 f32 fun x y acc => acc.add (x.mul y))
/-- FMIN (R158, R167). -/
def execFmin (o : Op3) (s : State) : Out := run2 (.fmin o) s (fmin2 f32 false)
/-- FMAX (R158, R167). -/
def execFmax (o : Op3) (s : State) : Out := run2 (.fmax o) s (fmin2 f32 true)
/-- DADD (R167). -/
def execDadd (o : Op3) (s : State) : Out := run2 (.dadd o) s (fop2 f64 fun x y => x.add y)
/-- DSUB (R167). -/
def execDsub (o : Op3) (s : State) : Out := run2 (.dsub o) s (fop2 f64 fun x y => x.add y.negate)
/-- DMUL (R167). -/
def execDmul (o : Op3) (s : State) : Out := run2 (.dmul o) s (fop2 f64 fun x y => x.mul y)
/-- DFMA (R167): one rounding. -/
def execDfma (o : Op3) (s : State) : Out := run3 (.dfma o) s (fop3 f64 fun x y acc => acc.add (x.mul y))
/-- DMIN (R158, R167). -/
def execDmin (o : Op3) (s : State) : Out := run2 (.dmin o) s (fmin2 f64 false)
/-- DMAX (R158, R167). -/
def execDmax (o : Op3) (s : State) : Out := run2 (.dmax o) s (fmin2 f64 true)

/-! ## Packed arithmetic -/

/-- HADD (R170). -/
def execHadd (o : Op3) (s : State) : Out := run2 (.hadd o) s fun a b => packed (fun x y _ => f16.rne (f16.val x |>.add (f16.val y))) a b 0
/-- HMUL (R170). -/
def execHmul (o : Op3) (s : State) : Out := run2 (.hmul o) s fun a b => packed (fun x y _ => f16.rne (f16.val x |>.mul (f16.val y))) a b 0
/-- HFMA (R170): one rounding. -/
def execHfma (o : Op3) (s : State) : Out := run3 (.hfma o) s (packed fun x y acc => f16.rne (f16.val acc |>.add ((f16.val x).mul (f16.val y))))
/-- BADD (R170). -/
def execBadd (o : Op3) (s : State) : Out := run2 (.badd o) s fun a b => packed (fun x y _ => bf16.rne (bf16.val x |>.add (bf16.val y))) a b 0
/-- BMUL (R170). -/
def execBmul (o : Op3) (s : State) : Out := run2 (.bmul o) s fun a b => packed (fun x y _ => bf16.rne (bf16.val x |>.mul (bf16.val y))) a b 0
/-- BFMA (R170): one rounding. -/
def execBfma (o : Op3) (s : State) : Out := run3 (.bfma o) s (packed fun x y acc => bf16.rne (bf16.val acc |>.add ((bf16.val x).mul (bf16.val y))))

/-! ## Compares -/

/-- FCMP (R171). -/
def execFcmp (o : FCmp) (s : State) : Out := runCompare (.fcmp o) o.p s fun x y => fholds o.c (f32.val x.toNat) (f32.val y.toNat)
/-- DCMP (R171). -/
def execDcmp (o : FCmp) (s : State) : Out := runCompare (.dcmp o) o.p s fun x y => fholds o.c (f64.val x.toNat) (f64.val y.toNat)

/-! ## Signs -/

/-- FNEG (R172). -/
def execFneg (o : Op2) (s : State) : Out := run1 (.fneg o) s (fsign f32 fun x => x ^^^ 2 ^ (f32.eb + f32.p))
/-- FABS (R172). -/
def execFabs (o : Op2) (s : State) : Out := run1 (.fabs o) s (fsign f32 fun x => x % 2 ^ (f32.eb + f32.p))
/-- DNEG (R172). -/
def execDneg (o : Op2) (s : State) : Out := run1 (.dneg o) s (fsign f64 fun x => x ^^^ 2 ^ (f64.eb + f64.p))
/-- DABS (R172). -/
def execDabs (o : Op2) (s : State) : Out := run1 (.dabs o) s (fsign f64 fun x => x % 2 ^ (f64.eb + f64.p))

/-! ## Special functions -/

/-- FRCP (R173, R174). -/
def execFrcp (o : Op2) (s : State) : Out := run1 (.frcp o) s fun a => Word.ofN (f32.apply1 .rz recipVal a.toNat)
/-- FRSQ (R173, R174). -/
def execFrsq (o : Op2) (s : State) : Out := run1 (.frsq o) s fun a => Word.ofN (f32.apply1 .rz rsqrtVal a.toNat)
/-- FSQRT (R173, R174). -/
def execFsqrt (o : Op2) (s : State) : Out := run1 (.fsqrt o) s fun a => Word.ofN (f32.apply1 .rn sqrtVal a.toNat)
/-- FEX2 (R173, R174). -/
def execFex2 (o : Op2) (s : State) : Out := run1 (.fex2 o) s fun a => Word.ofN (f32.apply1 .rz (ex2Val f32) a.toNat)
/-- FLG2 (R173, R174). -/
def execFlg2 (o : Op2) (s : State) : Out := run1 (.flg2 o) s fun a => Word.ofN (f32.apply1 .rz lg2Val a.toNat)
/-- DRCP (R173, R174). -/
def execDrcp (o : Op2) (s : State) : Out := run1 (.drcp o) s fun a => Word.ofN (f64.apply1 .rn recipVal a.toNat)
/-- DSQRT (R173, R174). -/
def execDsqrt (o : Op2) (s : State) : Out := run1 (.dsqrt o) s fun a => Word.ofN (f64.apply1 .rn sqrtVal a.toNat)
/-- DRSQ (R173, R174). -/
def execDrsq (o : Op2) (s : State) : Out := run1 (.drsq o) s fun a => Word.ofN (f64.apply1 .rn rsqrtVal a.toNat)

/-! ## Exponents -/

/-- FSCALE (R175). -/
def execFscale (o : Op2) (s : State) : Out := run2 (.fscale o) s (fscaleOp f32)
/-- DSCALE (R175). -/
def execDscale (o : Op2) (s : State) : Out := run2 (.dscale o) s (fscaleOp f64)
/-- FXPN (R176). -/
def execFxpn (o : Op2) (s : State) : Out := run1 (.fxpn o) s fun a => BitVec.ofInt 64 (exponentOf (f32.val a.toNat))
/-- DXPN (R176). -/
def execDxpn (o : Op2) (s : State) : Out := run1 (.dxpn o) s fun a => BitVec.ofInt 64 (exponentOf (f64.val a.toNat))
/-- EX2S: the significand to D, the integer to D + 1, and both into the latches (R177). -/
def execEx2s (o : Op2) (s : State) : Out :=
  run (.ex2s o) s fun tk t vals s =>
    let (m, n) := ex2Split (f32.val (vals.getD 0 0).toNat)
    let now := s.cycOf t
    .seq (s.modThread tk fun t =>
      let t := match keptDst o.w o.d with
        | some (.v d) => ((t.setReg d.1 (Word.ofN m)).setReg (d.1 + 1) (BitVec.ofInt 64 n)).mark_ [d.1, d.1 + 1] now (now + 12)
        | _ => t
      (t.shift (Word.ofN m) (now + 12)).shift (BitVec.ofInt 64 n) (now + 12))

/-! ## Rounding to integral values -/

/-- FRINT.rn (R178). -/
def execFrintRn (o : Op2) (s : State) : Out := run1 (.frintRn o) s fun a => Word.ofN (f32.enc (integralVal .rn (f32.val a.toNat)))
/-- FRINT.rz (R178). -/
def execFrintRz (o : Op2) (s : State) : Out := run1 (.frintRz o) s fun a => Word.ofN (f32.enc (integralVal .rz (f32.val a.toNat)))
/-- FRINT.rm (R178). -/
def execFrintRm (o : Op2) (s : State) : Out := run1 (.frintRm o) s fun a => Word.ofN (f32.enc (integralVal .rm (f32.val a.toNat)))
/-- FRINT.rp (R178). -/
def execFrintRp (o : Op2) (s : State) : Out := run1 (.frintRp o) s fun a => Word.ofN (f32.enc (integralVal .rp (f32.val a.toNat)))
/-- DRINT.rn (R178). -/
def execDrintRn (o : Op2) (s : State) : Out := run1 (.drintRn o) s fun a => Word.ofN (f64.enc (integralVal .rn (f64.val a.toNat)))
/-- DRINT.rz (R178). -/
def execDrintRz (o : Op2) (s : State) : Out := run1 (.drintRz o) s fun a => Word.ofN (f64.enc (integralVal .rz (f64.val a.toNat)))
/-- DRINT.rm (R178). -/
def execDrintRm (o : Op2) (s : State) : Out := run1 (.drintRm o) s fun a => Word.ofN (f64.enc (integralVal .rm (f64.val a.toNat)))
/-- DRINT.rp (R178). -/
def execDrintRp (o : Op2) (s : State) : Out := run1 (.drintRp o) s fun a => Word.ofN (f64.enc (integralVal .rp (f64.val a.toNat)))

/-! ## Conversions -/

/-- CVT.f64.f32 (R179). -/
def execCvtF64F32 (o : Op2) (s : State) : Out := run1 (.cvtF64F32 o) s fun a => Word.ofN (f64.rne (f32.val a.toNat))
/-- CVT.f32.f64 (R179). -/
def execCvtF32F64 (o : Op2) (s : State) : Out := run1 (.cvtF32F64 o) s fun a => Word.ofN (f32.rne (f64.val a.toNat))
/-- CVT.f16.f32 (R179). -/
def execCvtF16F32 (o : Op2) (s : State) : Out := run1 (.cvtF16F32 o) s fun a => Word.ofN (f16.rne (f32.val a.toNat))
/-- CVT.bf16.f32 (R179). -/
def execCvtBf16F32 (o : Op2) (s : State) : Out := run1 (.cvtBf16F32 o) s fun a => Word.ofN (bf16.rne (f32.val a.toNat))
/-- CVT.f32.f16 (R179). -/
def execCvtF32F16 (o : Op2) (s : State) : Out := run1 (.cvtF32F16 o) s fun a => Word.ofN (f32.rne (f16.val a.toNat))
/-- CVT.f32.bf16 (R179). -/
def execCvtF32Bf16 (o : Op2) (s : State) : Out := run1 (.cvtF32Bf16 o) s fun a => Word.ofN (f32.rne (bf16.val a.toNat))
/-- CVT.f32.s64 (R179). -/
def execCvtF32S64 (o : Op2) (s : State) : Out := run1 (.cvtF32S64 o) s fun a => Word.ofN (f32.rne (ofInt a.toInt))
/-- CVT.f32.n64 (R179). -/
def execCvtF32N64 (o : Op2) (s : State) : Out := run1 (.cvtF32N64 o) s fun a => Word.ofN (f32.rne (ofInt a.toNat))
/-- CVT.f64.s64 (R179). -/
def execCvtF64S64 (o : Op2) (s : State) : Out := run1 (.cvtF64S64 o) s fun a => Word.ofN (f64.rne (ofInt a.toInt))
/-- CVT.f64.n64 (R179). -/
def execCvtF64N64 (o : Op2) (s : State) : Out := run1 (.cvtF64N64 o) s fun a => Word.ofN (f64.rne (ofInt a.toNat))
/-- CVT.s32.f32 (R179, R180). -/
def execCvtS32F32 (o : Op2) (s : State) : Out := run1 (.cvtS32F32 o) s fun a => BitVec.ofInt 64 (toIntSat (-(2 ^ 31)) (2 ^ 31 - 1) (f32.val a.toNat))
/-- CVT.n32.f32 (R179, R180). -/
def execCvtN32F32 (o : Op2) (s : State) : Out := run1 (.cvtN32F32 o) s fun a => BitVec.ofInt 64 (toIntSat 0 (2 ^ 32 - 1) (f32.val a.toNat))
/-- CVT.s64.f32 (R179, R180). -/
def execCvtS64F32 (o : Op2) (s : State) : Out := run1 (.cvtS64F32 o) s fun a => BitVec.ofInt 64 (toIntSat (-(2 ^ 63)) (2 ^ 63 - 1) (f32.val a.toNat))
/-- CVT.n64.f32 (R179, R180). -/
def execCvtN64F32 (o : Op2) (s : State) : Out := run1 (.cvtN64F32 o) s fun a => BitVec.ofInt 64 (toIntSat 0 (2 ^ 64 - 1) (f32.val a.toNat))
/-- CVT.s32.f64 (R179, R180). -/
def execCvtS32F64 (o : Op2) (s : State) : Out := run1 (.cvtS32F64 o) s fun a => BitVec.ofInt 64 (toIntSat (-(2 ^ 31)) (2 ^ 31 - 1) (f64.val a.toNat))
/-- CVT.n32.f64 (R179, R180). -/
def execCvtN32F64 (o : Op2) (s : State) : Out := run1 (.cvtN32F64 o) s fun a => BitVec.ofInt 64 (toIntSat 0 (2 ^ 32 - 1) (f64.val a.toNat))
/-- CVT.s64.f64 (R179, R180). -/
def execCvtS64F64 (o : Op2) (s : State) : Out := run1 (.cvtS64F64 o) s fun a => BitVec.ofInt 64 (toIntSat (-(2 ^ 63)) (2 ^ 63 - 1) (f64.val a.toNat))
/-- CVT.n64.f64 (R179, R180). -/
def execCvtN64F64 (o : Op2) (s : State) : Out := run1 (.cvtN64F64 o) s fun a => BitVec.ofInt 64 (toIntSat 0 (2 ^ 64 - 1) (f64.val a.toNat))

/-! ## 16-bit forms -/

/-- The 16-bit FADD (R181). -/
def execFaddCompact (o : C16) (s : State) : Out := run2 (.faddCompact o) s (fop2 f32 fun x y => x.add y)
/-- The 16-bit FSUB (R181). -/
def execFsubCompact (o : C16) (s : State) : Out := run2 (.fsubCompact o) s (fop2 f32 fun x y => x.add y.negate)
/-- The 16-bit FMUL (R181). -/
def execFmulCompact (o : C16) (s : State) : Out := run2 (.fmulCompact o) s (fop2 f32 fun x y => x.mul y)
/-- The 16-bit FMAX (R181). -/
def execFmaxCompact (o : C16) (s : State) : Out := run2 (.fmaxCompact o) s (fmin2 f32 true)
/-- The 16-bit DADD (R181). -/
def execDaddCompact (o : C16) (s : State) : Out := run2 (.daddCompact o) s (fop2 f64 fun x y => x.add y)
/-- The 16-bit DMUL (R181). -/
def execDmulCompact (o : C16) (s : State) : Out := run2 (.dmulCompact o) s (fop2 f64 fun x y => x.mul y)

end Sys2Proof.Machine
end

