-- ==== Sys2Proof/Machine/Launching.lean ====
section
/-! DEFINITION. The instructions by which programs add work, end it, and settle speculative work. -/

namespace Sys2Proof.Machine

/-- LAUNCH: a launch joins the caller's graph (R329). -/
def execLaunch (o : OpX) (s : State) : Out :=
  run (.launch o) s fun tk t vals s =>
    if s.speculative t.uid then .trap s cSPEC 0
    else checkDst tk o.d s fun s =>
      readCard tk t 16 (vals.getD 0 0) s fun bs s =>
        match s.launchOf t.uid, s.jobOf t.uid with
        | some l, some j =>
          if (descOf bs).dbgp && !(j.dbg && l.desc.dbgp) then .trap s cPRIV 0
          else
            match s.launchReads (keyThread tk) j bs with
            | (.wait, s) => .park s (match AMap.get? s.hub.seqToks (keyThread tk) with | some k => .fault k | none => .faultFull)
            | (r, s) =>
              let s := s.seqDone (keyThread tk)
              let why := s.refusalOf l.jid bs r
              match why, r with
              | 0, .ok args spec =>
                whenPerformed tk t .dev false s fun s =>
                  let s := s.publish (s.ckOf t.uid)
                  if s.waitingLaunches ≥ 4096 then .park s .admitted
                  else
                    let (lid, s) := s.joinGraph l.jid l.gkey bs args spec 0 0
                    .seqR (s.putDst tk o.d (Word.ofN lid))
              | _, _ => .trap s cENGINE why
        | _, _ => .trap s cENGINE 0x23

/-- What a handle names at a level: work of the job, as the cancellation to send, or work that is complete; none where it names
nothing of the job (R313, R330). -/
def State.named (s : State) (jid level h : Nat) : Option (Option Cancellation) :=
  let c (id : Nat) : Option (Option Cancellation) := some (some { level := level, id := id, jid := jid })
  match level with
  | 0 =>
    match s.launch? (h / 2 ^ 32) with
    | some l => if l.jid = jid && h % 2 ^ 32 < l.desc.units then c h else none
    | none => none
  | 1 =>
    match s.launch? h with
    | some l => if l.jid = jid then c h else none
    | none => none
  | 2 =>
    match (s.graphsOf jid).find? fun g => g.gid == h && !g.complete with
    | some g => c g.key
    | none => if (s.graphsOf jid).any fun g => g.gid == h then some none else none
  | 3 =>
    match s.job? jid with
    | some j => if h ≤ j.phase then c h else none
    | none => none
  | _ => if h = jid then c h else none

/-- The handle of the caller's own work at a level (R330). -/
def State.ownWork (s : State) (t : Thread) (level : Nat) : Option Cancellation :=
  match s.launchOf t.uid with
  | none => none
  | some l =>
    let lid := ((s.unit? t.uid).map (·.lid)).getD 0
    some
      { level := level
        id := (match level with
          | 0 => t.uid
          | 1 => lid
          | 2 => l.gkey
          | 3 => ((s.graph? l.gkey).map (·.phase)).getD 0
          | _ => l.jid)
        jid := l.jid }

/-- The sequencer accepts a cancellation (R330). -/
def State.sendCancel (s : State) (c : Option Cancellation) : State :=
  match c with
  | some c => s.modHub fun h => { h with cancels := h.cancels ++ [c] }
  | none => s

/-- CANCEL (R330). -/
def execCancel (o : OpI 5) (s : State) : Out :=
  run (.cancel o) s fun _ t vals s =>
    let h := (vals.getD 0 0).toNat
    if h = 0 && o.a == .z then .seqR (s.sendCancel (s.ownWork t o.n.1))
    else if o.n.1 ≠ 0 && h ≥ 2 ^ 32 then .trap s cENGINE 0x24
    else
      match s.named (s.jidOf t.uid) o.n.1 h with
      | none => .trap s cENGINE 0x24
      | some c => .seqR (s.sendCancel c)

/-- The launch that SPEC names, with the checks of R333. -/
def specChecked (t : Thread) (a : Nat) (s : State) (k : Launch → State → Res) : Res :=
  if s.speculative t.uid then .trap s cSPEC 0
  else
    match s.launch? a with
    | none => .trap s cENGINE 0x24
    | some l =>
      if a ≥ 2 ^ 32 || l.jid ≠ s.jidOf t.uid then .trap s cENGINE 0x24
      else if !l.desc.specv then .trap s cENGINE 0x25
      else k l s

/-- The end of a SPEC that has resolved a launch (R333): its core's writes have been published at sys scope, and the launch's mirror has
advanced; until then the thread waits, in the region that starts after the SPEC. The sequencer's acceptance, at which that region starts
(R286), is taken to be the moment at which the launch is resolved (DEDUCED; log 92). -/
def specDone (tk : Nat) (t : Thread) (a : Nat) (s : State) : Res :=
  let ck := s.ckOf t.uid
  let s := (s.publish ck).completeLaunch a
  let mark := t.mark.getD s.seq
  if (s.launch? a).all (·.complete) && s.corePerformed ck mark && s.coreDelivered ck mark t.after.acq then .seqR s
  else .park (s.modThread tk fun t => t.startAfter (t.pw + 4)) (.specEnd a)

/-- SPEC #0: commits (R333). -/
def execSpecCommit (o : OpA) (s : State) : Out :=
  run (.specCommit o) s fun tk t vals s =>
    let a := (vals.getD 0 0).toNat
    specChecked t a s fun l s =>
      if l.resolved then (if t.mark.isSome then specDone tk t a s else .seqR s)
      else if s.cancelling a then .seqR s
      else match s.commit a with
        | (false, s) => .park s (.specEnd a)
        | (true, s) => specDone tk t a s

/-- SPEC #1: discards (R333). -/
def execSpecDiscard (o : OpA) (s : State) : Out :=
  run (.specDiscard o) s fun tk t vals s =>
    let a := (vals.getD 0 0).toNat
    specChecked t a s fun l s =>
      if l.resolved then (if t.mark.isSome then specDone tk t a s else .seqR s) else specDone tk t a (s.cancelLaunch a)

end Sys2Proof.Machine
end

