-- ==== Sys2Proof/Machine/Dispatch.lean ====
section
/-! DEFINITION. The meaning of every instruction and of every step of the device, one arm for each constructor of Instr. -/

namespace Sys2Proof.Machine

/-- What an instruction or a step of the device does to the machine. -/
def exec (i : Instr) (s : State) : Host.Outcome State Fault Refusal :=
  match i with
  | .iadd o => Sys2Proof.Machine.execIadd o s
  | .isub o => Sys2Proof.Machine.execIsub o s
  | .imul o => Sys2Proof.Machine.execImul o s
  | .imac o => Sys2Proof.Machine.execImac o s
  | .iadd32 o => Sys2Proof.Machine.execIadd32 o s
  | .isub32 o => Sys2Proof.Machine.execIsub32 o s
  | .imul32 o => Sys2Proof.Machine.execImul32 o s
  | .imac32 o => Sys2Proof.Machine.execImac32 o s
  | .imulhS o => Sys2Proof.Machine.execImulhS o s
  | .imulhN o => Sys2Proof.Machine.execImulhN o s
  | .andOp o => Sys2Proof.Machine.execAndOp o s
  | .orOp o => Sys2Proof.Machine.execOrOp o s
  | .xorOp o => Sys2Proof.Machine.execXorOp o s
  | .andn o => Sys2Proof.Machine.execAndn o s
  | .shl o => Sys2Proof.Machine.execShl o s
  | .shr o => Sys2Proof.Machine.execShr o s
  | .asr o => Sys2Proof.Machine.execAsr o s
  | .loop o => Sys2Proof.Machine.execLoop o s
  | .iminS o => Sys2Proof.Machine.execIminS o s
  | .imaxS o => Sys2Proof.Machine.execImaxS o s
  | .iminN o => Sys2Proof.Machine.execIminN o s
  | .imaxN o => Sys2Proof.Machine.execImaxN o s
  | .fadd o => Sys2Proof.Machine.execFadd o s
  | .fsub o => Sys2Proof.Machine.execFsub o s
  | .fmul o => Sys2Proof.Machine.execFmul o s
  | .ffma o => Sys2Proof.Machine.execFfma o s
  | .fmin o => Sys2Proof.Machine.execFmin o s
  | .fmax o => Sys2Proof.Machine.execFmax o s
  | .dadd o => Sys2Proof.Machine.execDadd o s
  | .dsub o => Sys2Proof.Machine.execDsub o s
  | .dmul o => Sys2Proof.Machine.execDmul o s
  | .dfma o => Sys2Proof.Machine.execDfma o s
  | .dmin o => Sys2Proof.Machine.execDmin o s
  | .dmax o => Sys2Proof.Machine.execDmax o s
  | .hadd o => Sys2Proof.Machine.execHadd o s
  | .hmul o => Sys2Proof.Machine.execHmul o s
  | .hfma o => Sys2Proof.Machine.execHfma o s
  | .badd o => Sys2Proof.Machine.execBadd o s
  | .bmul o => Sys2Proof.Machine.execBmul o s
  | .bfma o => Sys2Proof.Machine.execBfma o s
  | .icmpS o => Sys2Proof.Machine.execIcmpS o s
  | .icmpN o => Sys2Proof.Machine.execIcmpN o s
  | .fcmp o => Sys2Proof.Machine.execFcmp o s
  | .dcmp o => Sys2Proof.Machine.execDcmp o s
  | .sel o => Sys2Proof.Machine.execSel o s
  | .ld8 o => Sys2Proof.Machine.execLd8 o s
  | .ld16 o => Sys2Proof.Machine.execLd16 o s
  | .ld32 o => Sys2Proof.Machine.execLd32 o s
  | .ld64 o => Sys2Proof.Machine.execLd64 o s
  | .ld8S o => Sys2Proof.Machine.execLd8S o s
  | .ld16S o => Sys2Proof.Machine.execLd16S o s
  | .ld32S o => Sys2Proof.Machine.execLd32S o s
  | .st8 o => Sys2Proof.Machine.execSt8 o s
  | .st16 o => Sys2Proof.Machine.execSt16 o s
  | .st32 o => Sys2Proof.Machine.execSt32 o s
  | .st64 o => Sys2Proof.Machine.execSt64 o s
  | .ldacq o => Sys2Proof.Machine.execLdacq o s
  | .strel o => Sys2Proof.Machine.execStrel o s
  | .atomAdd o => Sys2Proof.Machine.execAtomAdd o s
  | .atomAnd o => Sys2Proof.Machine.execAtomAnd o s
  | .atomOr o => Sys2Proof.Machine.execAtomOr o s
  | .atomXor o => Sys2Proof.Machine.execAtomXor o s
  | .atomMinS o => Sys2Proof.Machine.execAtomMinS o s
  | .atomMaxS o => Sys2Proof.Machine.execAtomMaxS o s
  | .atomMinN o => Sys2Proof.Machine.execAtomMinN o s
  | .atomMaxN o => Sys2Proof.Machine.execAtomMaxN o s
  | .atomXchg o => Sys2Proof.Machine.execAtomXchg o s
  | .atomCas o => Sys2Proof.Machine.execAtomCas o s
  | .atomFadd o => Sys2Proof.Machine.execAtomFadd o s
  | .atomIncw o => Sys2Proof.Machine.execAtomIncw o s
  | .atomCasPromote o => Sys2Proof.Machine.execAtomCasPromote o s
  | .atomHacc o => Sys2Proof.Machine.execAtomHacc o s
  | .br o => Sys2Proof.Machine.execBr o s
  | .call o => Sys2Proof.Machine.execCall o s
  | .imx o => Sys2Proof.Machine.execImx o s
  | .ill => Sys2Proof.Machine.execIll s
  | .illParcel => Sys2Proof.Machine.execIllParcel s
  | .mov o => Sys2Proof.Machine.execMov o s
  | .notOp o => Sys2Proof.Machine.execNotOp o s
  | .negOp o => Sys2Proof.Machine.execNegOp o s
  | .absOp o => Sys2Proof.Machine.execAbsOp o s
  | .popc o => Sys2Proof.Machine.execPopc o s
  | .clz o => Sys2Proof.Machine.execClz o s
  | .ctz o => Sys2Proof.Machine.execCtz o s
  | .brev o => Sys2Proof.Machine.execBrev o s
  | .bswap o => Sys2Proof.Machine.execBswap o s
  | .sx8 o => Sys2Proof.Machine.execSx8 o s
  | .sx16 o => Sys2Proof.Machine.execSx16 o s
  | .sx32 o => Sys2Proof.Machine.execSx32 o s
  | .zx8 o => Sys2Proof.Machine.execZx8 o s
  | .zx16 o => Sys2Proof.Machine.execZx16 o s
  | .zx32 o => Sys2Proof.Machine.execZx32 o s
  | .movs o => Sys2Proof.Machine.execMovs o s
  | .urd o => Sys2Proof.Machine.execUrd o s
  | .uwr o => Sys2Proof.Machine.execUwr o s
  | .fneg o => Sys2Proof.Machine.execFneg o s
  | .fabs o => Sys2Proof.Machine.execFabs o s
  | .dneg o => Sys2Proof.Machine.execDneg o s
  | .dabs o => Sys2Proof.Machine.execDabs o s
  | .frcp o => Sys2Proof.Machine.execFrcp o s
  | .frsq o => Sys2Proof.Machine.execFrsq o s
  | .fsqrt o => Sys2Proof.Machine.execFsqrt o s
  | .fex2 o => Sys2Proof.Machine.execFex2 o s
  | .flg2 o => Sys2Proof.Machine.execFlg2 o s
  | .drcp o => Sys2Proof.Machine.execDrcp o s
  | .dsqrt o => Sys2Proof.Machine.execDsqrt o s
  | .drsq o => Sys2Proof.Machine.execDrsq o s
  | .fscale o => Sys2Proof.Machine.execFscale o s
  | .dscale o => Sys2Proof.Machine.execDscale o s
  | .fxpn o => Sys2Proof.Machine.execFxpn o s
  | .dxpn o => Sys2Proof.Machine.execDxpn o s
  | .ex2s o => Sys2Proof.Machine.execEx2s o s
  | .frintRn o => Sys2Proof.Machine.execFrintRn o s
  | .frintRz o => Sys2Proof.Machine.execFrintRz o s
  | .frintRm o => Sys2Proof.Machine.execFrintRm o s
  | .frintRp o => Sys2Proof.Machine.execFrintRp o s
  | .drintRn o => Sys2Proof.Machine.execDrintRn o s
  | .drintRz o => Sys2Proof.Machine.execDrintRz o s
  | .drintRm o => Sys2Proof.Machine.execDrintRm o s
  | .drintRp o => Sys2Proof.Machine.execDrintRp o s
  | .cvtF64F32 o => Sys2Proof.Machine.execCvtF64F32 o s
  | .cvtF32F64 o => Sys2Proof.Machine.execCvtF32F64 o s
  | .cvtF16F32 o => Sys2Proof.Machine.execCvtF16F32 o s
  | .cvtBf16F32 o => Sys2Proof.Machine.execCvtBf16F32 o s
  | .cvtF32F16 o => Sys2Proof.Machine.execCvtF32F16 o s
  | .cvtF32Bf16 o => Sys2Proof.Machine.execCvtF32Bf16 o s
  | .cvtF32S64 o => Sys2Proof.Machine.execCvtF32S64 o s
  | .cvtF32N64 o => Sys2Proof.Machine.execCvtF32N64 o s
  | .cvtF64S64 o => Sys2Proof.Machine.execCvtF64S64 o s
  | .cvtF64N64 o => Sys2Proof.Machine.execCvtF64N64 o s
  | .cvtS32F32 o => Sys2Proof.Machine.execCvtS32F32 o s
  | .cvtN32F32 o => Sys2Proof.Machine.execCvtN32F32 o s
  | .cvtS64F32 o => Sys2Proof.Machine.execCvtS64F32 o s
  | .cvtN64F32 o => Sys2Proof.Machine.execCvtN64F32 o s
  | .cvtS32F64 o => Sys2Proof.Machine.execCvtS32F64 o s
  | .cvtN32F64 o => Sys2Proof.Machine.execCvtN32F64 o s
  | .cvtS64F64 o => Sys2Proof.Machine.execCvtS64F64 o s
  | .cvtN64F64 o => Sys2Proof.Machine.execCvtN64F64 o s
  | .elect o => Sys2Proof.Machine.execElect o s
  | .vany o => Sys2Proof.Machine.execVany o s
  | .vall o => Sys2Proof.Machine.execVall o s
  | .vbal o => Sys2Proof.Machine.execVbal o s
  | .shfi o => Sys2Proof.Machine.execShfi o s
  | .shfa o => Sys2Proof.Machine.execShfa o s
  | .shfb o => Sys2Proof.Machine.execShfb o s
  | .shfx o => Sys2Proof.Machine.execShfx o s
  | .radd o => Sys2Proof.Machine.execRadd o s
  | .rminS o => Sys2Proof.Machine.execRminS o s
  | .rmaxS o => Sys2Proof.Machine.execRmaxS o s
  | .rfadd o => Sys2Proof.Machine.execRfadd o s
  | .rdadd o => Sys2Proof.Machine.execRdadd o s
  | .scan o => Sys2Proof.Machine.execScan o s
  | .matchOp o => Sys2Proof.Machine.execMatchOp o s
  | .gpart o => Sys2Proof.Machine.execGpart o s
  | .nop o => Sys2Proof.Machine.execNop o s
  | .exit o => Sys2Proof.Machine.execExit o s
  | .brk o => Sys2Proof.Machine.execBrk o s
  | .trap o => Sys2Proof.Machine.execTrap o s
  | .yield o => Sys2Proof.Machine.execYield o s
  | .rgn o => Sys2Proof.Machine.execRgn o s
  | .bnd o => Sys2Proof.Machine.execBnd o s
  | .fenceGrp o => Sys2Proof.Machine.execFenceGrp o s
  | .fenceCore o => Sys2Proof.Machine.execFenceCore o s
  | .fenceDie o => Sys2Proof.Machine.execFenceDie o s
  | .fenceDev o => Sys2Proof.Machine.execFenceDev o s
  | .fenceSys o => Sys2Proof.Machine.execFenceSys o s
  | .ofence o => Sys2Proof.Machine.execOfence o s
  | .barArr o => Sys2Proof.Machine.execBarArr o s
  | .barWait o => Sys2Proof.Machine.execBarWait o s
  | .barSync o => Sys2Proof.Machine.execBarSync o s
  | .barInit o => Sys2Proof.Machine.execBarInit o s
  | .wait o => Sys2Proof.Machine.execWait o s
  | .cpy o => Sys2Proof.Machine.execCpy o s
  | .gath o => Sys2Proof.Machine.execGath o s
  | .mxl o => Sys2Proof.Machine.execMxl o s
  | .ores o => Sys2Proof.Machine.execOres o s
  | .orls o => Sys2Proof.Machine.execOrls o s
  | .strm o => Sys2Proof.Machine.execStrm o s
  | .jmpi o => Sys2Proof.Machine.execJmpi o s
  | .calli o => Sys2Proof.Machine.execCalli o s
  | .ret o => Sys2Proof.Machine.execRet o s
  | .icinv o => Sys2Proof.Machine.execIcinv o s
  | .launch o => Sys2Proof.Machine.execLaunch o s
  | .cancel o => Sys2Proof.Machine.execCancel o s
  | .specCommit o => Sys2Proof.Machine.execSpecCommit o s
  | .specDiscard o => Sys2Proof.Machine.execSpecDiscard o s
  | .dbgHalt o => Sys2Proof.Machine.execDbgHalt o s
  | .dbgResume o => Sys2Proof.Machine.execDbgResume o s
  | .dbgStep o => Sys2Proof.Machine.execDbgStep o s
  | .dbgSetmask o => Sys2Proof.Machine.execDbgSetmask o s
  | .dbgWset o => Sys2Proof.Machine.execDbgWset o s
  | .dbgWclr o => Sys2Proof.Machine.execDbgWclr o s
  | .dbgStatus o => Sys2Proof.Machine.execDbgStatus o s
  | .dbgReadreg o => Sys2Proof.Machine.execDbgReadreg o s
  | .dbgBpset o => Sys2Proof.Machine.execDbgBpset o s
  | .dbgBpclr o => Sys2Proof.Machine.execDbgBpclr o s
  | .movCompact o => Sys2Proof.Machine.execMovCompact o s
  | .iaddCompact o => Sys2Proof.Machine.execIaddCompact o s
  | .isubCompact o => Sys2Proof.Machine.execIsubCompact o s
  | .iadd32Compact o => Sys2Proof.Machine.execIadd32Compact o s
  | .iaddi o => Sys2Proof.Machine.execIaddi o s
  | .andCompact o => Sys2Proof.Machine.execAndCompact o s
  | .orCompact o => Sys2Proof.Machine.execOrCompact o s
  | .xorCompact o => Sys2Proof.Machine.execXorCompact o s
  | .shli o => Sys2Proof.Machine.execShli o s
  | .shri o => Sys2Proof.Machine.execShri o s
  | .faddCompact o => Sys2Proof.Machine.execFaddCompact o s
  | .fsubCompact o => Sys2Proof.Machine.execFsubCompact o s
  | .fmulCompact o => Sys2Proof.Machine.execFmulCompact o s
  | .fmaxCompact o => Sys2Proof.Machine.execFmaxCompact o s
  | .daddCompact o => Sys2Proof.Machine.execDaddCompact o s
  | .dmulCompact o => Sys2Proof.Machine.execDmulCompact o s
  | .censusRound ck a => Sys2Proof.Machine.execCensusRound ck a s
  | .gangSeat ck a => Sys2Proof.Machine.execGangSeat ck a s
  | .gangUnseat ck a seat => Sys2Proof.Machine.execGangUnseat ck a seat s
  | .quantumDue ck a seat => Sys2Proof.Machine.execQuantumDue ck a seat s
  | .yieldHoldEnd tk => Sys2Proof.Machine.execYieldHoldEnd tk s
  | .deprioritisationEnd tk => Sys2Proof.Machine.execDeprioritisationEnd tk s
  | .prefetchFill tk => Sys2Proof.Machine.execPrefetchFill tk s
  | .parkConditionHolds tk => Sys2Proof.Machine.execParkConditionHolds tk s
  | .loadReply tk idx => Sys2Proof.Machine.execLoadReply tk idx s
  | .storePerform ck idx => Sys2Proof.Machine.execStorePerform ck idx s
  | .collectorSend ck idx => Sys2Proof.Machine.execCollectorSend ck idx s
  | .errorResponse rq cause => Sys2Proof.Machine.execErrorResponse rq cause s
  | .waitRecheck tk => Sys2Proof.Machine.execWaitRecheck tk s
  | .streamPrefetch tk port => Sys2Proof.Machine.execStreamPrefetch tk port s
  | .streamOutDrain tk port => Sys2Proof.Machine.execStreamOutDrain tk port s
  | .engineQueueAccept ck ch => Sys2Proof.Machine.execEngineQueueAccept ck ch s
  | .copyRowTransfer ck op row => Sys2Proof.Machine.execCopyRowTransfer ck op row s
  | .gatherElement ck op el => Sys2Proof.Machine.execGatherElement ck op el s
  | .probePass ck op => Sys2Proof.Machine.execProbePass ck op s
  | .engineOpEnd ck op => Sys2Proof.Machine.execEngineOpEnd ck op s
  | .watchdogTimeout ck op => Sys2Proof.Machine.execWatchdogTimeout ck op s
  | .matrixQueueAccept ck => Sys2Proof.Machine.execMatrixQueueAccept ck s
  | .jobEnterContext ck => Sys2Proof.Machine.execJobEnterContext ck s
  | .blockStep ck => Sys2Proof.Machine.execBlockStep ck s
  | .jobEnd ck job => Sys2Proof.Machine.execJobEnd ck job s
  | .handleReturn uid h => Sys2Proof.Machine.execHandleReturn uid h s
  | .allocationRelease uid => Sys2Proof.Machine.execAllocationRelease uid s
  | .fqReplyResolve token => Sys2Proof.Machine.execFqReplyResolve token s
  | .fqReplyRefuse token => Sys2Proof.Machine.execFqReplyRefuse token s
  | .fqLimitExpiry token => Sys2Proof.Machine.execFqLimitExpiry token s
  | .fqTailWrite v => Sys2Proof.Machine.execFqTailWrite v s
  | .fqBaseWrite v => Sys2Proof.Machine.execFqBaseWrite v s
  | .fqSizeWrite v => Sys2Proof.Machine.execFqSizeWrite v s
  | .xinvStart v => Sys2Proof.Machine.execXinvStart v s
  | .xinvDone => Sys2Proof.Machine.execXinvDone s
  | .sliceSizeChange bdie size => Sys2Proof.Machine.execSliceSizeChange bdie size s
  | .chTailWrite n v => Sys2Proof.Machine.execChTailWrite n v s
  | .chCtlRestart n v => Sys2Proof.Machine.execChCtlRestart n v s
  | .jobEntry n => Sys2Proof.Machine.execJobEntry n s
  | .graphEntry n => Sys2Proof.Machine.execGraphEntry n s
  | .launchEntry n => Sys2Proof.Machine.execLaunchEntry n s
  | .phaseEntry n => Sys2Proof.Machine.execPhaseEntry n s
  | .waitcEntry n => Sys2Proof.Machine.execWaitcEntry n s
  | .endEntry n => Sys2Proof.Machine.execEndEntry n s
  | .specEntryCommit n => Sys2Proof.Machine.execSpecEntryCommit n s
  | .specEntryDiscard n => Sys2Proof.Machine.execSpecEntryDiscard n s
  | .chainEntryRetire n => Sys2Proof.Machine.execChainEntryRetire n s
  | .unitStart lid idx => Sys2Proof.Machine.execUnitStart lid idx s
  | .levelComplete level id => Sys2Proof.Machine.execLevelComplete level id s
  | .preemption uid => Sys2Proof.Machine.execPreemption uid s
  | .resumption uid => Sys2Proof.Machine.execResumption uid s
  | .hostApertureWrite off bytes => Sys2Proof.Machine.execHostApertureWrite off bytes s
  | .hostApertureRead off len => Sys2Proof.Machine.execHostApertureRead off len s
  | .flitReceive port flit => Sys2Proof.Machine.execFlitReceive port flit s
  | .linkAckTimeout port => Sys2Proof.Machine.execLinkAckTimeout port s
  | .linkTrainingDone port lanes peer => Sys2Proof.Machine.execLinkTrainingDone port lanes peer s
  | .linkTakeDown port => Sys2Proof.Machine.execLinkTakeDown port s
  | .linkAllowTrain port => Sys2Proof.Machine.execLinkAllowTrain port s
  | .routeWrite m v => Sys2Proof.Machine.execRouteWrite m v s
  | .epEventClear v => Sys2Proof.Machine.execEpEventClear v s
  | .islandReset v => Sys2Proof.Machine.execIslandReset v s
  | .mgmtResetComputeDie v => Sys2Proof.Machine.execMgmtResetComputeDie v s
  | .mgmtResetBaseDie v => Sys2Proof.Machine.execMgmtResetBaseDie v s
  | .mgmtResetHub v => Sys2Proof.Machine.execMgmtResetHub v s
  | .resetSequenceComplete => Sys2Proof.Machine.execResetSequenceComplete s
  | .dmapWrite v => Sys2Proof.Machine.execDmapWrite v s
  | .dieHeartbeatMiss p => Sys2Proof.Machine.execDieHeartbeatMiss p s
  | .dieInternalError p => Sys2Proof.Machine.execDieInternalError p s
  | .spareSelfTestDone ok => Sys2Proof.Machine.execSpareSelfTestDone ok s
  | .lostUnitRerun uid => Sys2Proof.Machine.execLostUnitRerun uid s
  | .aperBaseWrite v => Sys2Proof.Machine.execAperBaseWrite v s
  | .pwrClWrite n v => Sys2Proof.Machine.execPwrClWrite n v s
  | .ratioChangeComplete n => Sys2Proof.Machine.execRatioChangeComplete n s
  | .powerLimitStep n step => Sys2Proof.Machine.execPowerLimitStep n step s
  | .droopDetect n => Sys2Proof.Machine.execDroopDetect n s
  | .droopRecover n => Sys2Proof.Machine.execDroopRecover n s
  | .holdStart n => Sys2Proof.Machine.execHoldStart n s
  | .holdEnd n => Sys2Proof.Machine.execHoldEnd n s
  | .tmrAlign forward => Sys2Proof.Machine.execTmrAlign forward s
  | .powerOnReset => Sys2Proof.Machine.execPowerOnReset s
  | .monitorSample n sample => Sys2Proof.Machine.execMonitorSample n sample s
  | .monitorClr n => Sys2Proof.Machine.execMonitorClr n s
  | .errorLogClear ck => Sys2Proof.Machine.execErrorLogClear ck s
  | .managementLogClear => Sys2Proof.Machine.execManagementLogClear s
  | .attest len tag => Sys2Proof.Machine.execAttest len tag s
  | .loadImage len tag => Sys2Proof.Machine.execLoadImage len tag s
  | .readMeas len tag => Sys2Proof.Machine.execReadMeas len tag s
  | .mailboxCompletion => Sys2Proof.Machine.execMailboxCompletion s
  | .bar0BadAccess off => Sys2Proof.Machine.execBar0BadAccess off s
  | .registerWrite off len v => Sys2Proof.Machine.execRegisterWrite off len v s
  | .cancellationTakesEffect idx => Sys2Proof.Machine.execCancellationTakesEffect idx s
  | .sequencerCounterReread idx => Sys2Proof.Machine.execSequencerCounterReread idx s
  | .zeroLengthReadCompletion => Sys2Proof.Machine.execZeroLengthReadCompletion s
  | .bar2Resize size => Sys2Proof.Machine.execBar2Resize size s
  | .unknownCommandCode code tag => Sys2Proof.Machine.execUnknownCommandCode code tag s

end Sys2Proof.Machine
end

