-- ==== Sys2Proof/Machine/Auto.lean ====
section
/-! DEFINITION. Which step of the device comes next when no thread is to be issued: one that the schedule names, or one of those that
the device can take of itself. -/

namespace Sys2Proof.Machine

/-- Whether a constructor is a step of the device, which has no encoding. -/
def isEvent (i : Instr) : Bool := (encode i).isEmpty

/-- The numbers of the elements of a list. -/
def indices {α : Type} (xs : List α) : List Nat := upFrom 0 xs.length

/-! ## Steps that the device can take of itself

A step that a list names may find that it has nothing to do, and then changes nothing. -/

/-- The steps that the device takes of itself: each is the constructor of Instr of its name. (They are a type of their own because
a compiled list of them can be built.) -/
inductive OwnStep where
  | censusRound (ck : Nat) (a : Nat)
  | gangSeat (ck : Nat) (a : Nat)
  | gangUnseat (ck : Nat) (a : Nat) (seat : Nat)
  | quantumDue (ck : Nat) (a : Nat) (seat : Nat)
  | yieldHoldEnd (tk : Nat)
  | deprioritisationEnd (tk : Nat)
  | prefetchFill (tk : Nat)
  | parkConditionHolds (tk : Nat)
  | loadReply (tk : Nat) (idx : Nat)
  | storePerform (ck : Nat) (idx : Nat)
  | collectorSend (ck : Nat) (idx : Nat)
  | waitRecheck (tk : Nat)
  | streamPrefetch (tk : Nat) (port : Nat)
  | streamOutDrain (tk : Nat) (port : Nat)
  | engineQueueAccept (ck : Nat) (ch : Nat)
  | copyRowTransfer (ck : Nat) (op : Nat) (row : Nat)
  | gatherElement (ck : Nat) (op : Nat) (el : Nat)
  | probePass (ck : Nat) (op : Nat)
  | engineOpEnd (ck : Nat) (op : Nat)
  | watchdogTimeout (ck : Nat) (op : Nat)
  | matrixQueueAccept (ck : Nat)
  | jobEnterContext (ck : Nat)
  | blockStep (ck : Nat)
  | jobEnd (ck : Nat) (job : Nat)
  | handleReturn (uid : Nat) (h : Nat)
  | allocationRelease (uid : Nat)
  | fqLimitExpiry (token : Nat)
  | xinvDone
  | sliceSizeChange (bdie : Nat) (size : Nat)
  | jobEntry (n : Nat)
  | graphEntry (n : Nat)
  | launchEntry (n : Nat)
  | phaseEntry (n : Nat)
  | waitcEntry (n : Nat)
  | endEntry (n : Nat)
  | specEntryCommit (n : Nat)
  | specEntryDiscard (n : Nat)
  | chainEntryRetire (n : Nat)
  | unitStart (lid : Nat) (idx : Nat)
  | levelComplete (level : Nat) (id : Nat)
  | preemption (uid : Nat)
  | resumption (uid : Nat)
  | resetSequenceComplete
  | lostUnitRerun (uid : Nat)
  | ratioChangeComplete (n : Nat)
  | droopRecover (n : Nat)
  | holdEnd (n : Nat)
  | mailboxCompletion
  | cancellationTakesEffect (idx : Nat)
  | sequencerCounterReread (idx : Nat)
  deriving DecidableEq, Repr

/-- What a step of the device does: the meaning of its constructor of Instr. -/
def OwnStep.run (i : OwnStep) (s : State) : Out :=
  match i with
  | .censusRound ck a => execCensusRound ck a s
  | .gangSeat ck a => execGangSeat ck a s
  | .gangUnseat ck a seat => execGangUnseat ck a seat s
  | .quantumDue ck a seat => execQuantumDue ck a seat s
  | .yieldHoldEnd tk => execYieldHoldEnd tk s
  | .deprioritisationEnd tk => execDeprioritisationEnd tk s
  | .prefetchFill tk => execPrefetchFill tk s
  | .parkConditionHolds tk => execParkConditionHolds tk s
  | .loadReply tk idx => execLoadReply tk idx s
  | .storePerform ck idx => execStorePerform ck idx s
  | .collectorSend ck idx => execCollectorSend ck idx s
  | .waitRecheck tk => execWaitRecheck tk s
  | .streamPrefetch tk port => execStreamPrefetch tk port s
  | .streamOutDrain tk port => execStreamOutDrain tk port s
  | .engineQueueAccept ck ch => execEngineQueueAccept ck ch s
  | .copyRowTransfer ck op row => execCopyRowTransfer ck op row s
  | .gatherElement ck op el => execGatherElement ck op el s
  | .probePass ck op => execProbePass ck op s
  | .engineOpEnd ck op => execEngineOpEnd ck op s
  | .watchdogTimeout ck op => execWatchdogTimeout ck op s
  | .matrixQueueAccept ck => execMatrixQueueAccept ck s
  | .jobEnterContext ck => execJobEnterContext ck s
  | .blockStep ck => execBlockStep ck s
  | .jobEnd ck job => execJobEnd ck job s
  | .handleReturn uid h => execHandleReturn uid h s
  | .allocationRelease uid => execAllocationRelease uid s
  | .fqLimitExpiry token => execFqLimitExpiry token s
  | .xinvDone => execXinvDone s
  | .sliceSizeChange bdie size => execSliceSizeChange bdie size s
  | .jobEntry n => execJobEntry n s
  | .graphEntry n => execGraphEntry n s
  | .launchEntry n => execLaunchEntry n s
  | .phaseEntry n => execPhaseEntry n s
  | .waitcEntry n => execWaitcEntry n s
  | .endEntry n => execEndEntry n s
  | .specEntryCommit n => execSpecEntryCommit n s
  | .specEntryDiscard n => execSpecEntryDiscard n s
  | .chainEntryRetire n => execChainEntryRetire n s
  | .unitStart lid idx => execUnitStart lid idx s
  | .levelComplete level id => execLevelComplete level id s
  | .preemption uid => execPreemption uid s
  | .resumption uid => execResumption uid s
  | .resetSequenceComplete => execResetSequenceComplete s
  | .lostUnitRerun uid => execLostUnitRerun uid s
  | .ratioChangeComplete n => execRatioChangeComplete n s
  | .droopRecover n => execDroopRecover n s
  | .holdEnd n => execHoldEnd n s
  | .mailboxCompletion => execMailboxCompletion s
  | .cancellationTakesEffect idx => execCancellationTakesEffect idx s
  | .sequencerCounterReread idx => execSequencerCounterReread idx s

/-- The constructor of Instr that a step of the device is. -/
def OwnStep.Is (o : OwnStep) (i : Instr) : Prop :=
  match o with
  | .censusRound ck a => i = .censusRound ck a
  | .gangSeat ck a => i = .gangSeat ck a
  | .gangUnseat ck a seat => i = .gangUnseat ck a seat
  | .quantumDue ck a seat => i = .quantumDue ck a seat
  | .yieldHoldEnd tk => i = .yieldHoldEnd tk
  | .deprioritisationEnd tk => i = .deprioritisationEnd tk
  | .prefetchFill tk => i = .prefetchFill tk
  | .parkConditionHolds tk => i = .parkConditionHolds tk
  | .loadReply tk idx => i = .loadReply tk idx
  | .storePerform ck idx => i = .storePerform ck idx
  | .collectorSend ck idx => i = .collectorSend ck idx
  | .waitRecheck tk => i = .waitRecheck tk
  | .streamPrefetch tk port => i = .streamPrefetch tk port
  | .streamOutDrain tk port => i = .streamOutDrain tk port
  | .engineQueueAccept ck ch => i = .engineQueueAccept ck ch
  | .copyRowTransfer ck op row => i = .copyRowTransfer ck op row
  | .gatherElement ck op el => i = .gatherElement ck op el
  | .probePass ck op => i = .probePass ck op
  | .engineOpEnd ck op => i = .engineOpEnd ck op
  | .watchdogTimeout ck op => i = .watchdogTimeout ck op
  | .matrixQueueAccept ck => i = .matrixQueueAccept ck
  | .jobEnterContext ck => i = .jobEnterContext ck
  | .blockStep ck => i = .blockStep ck
  | .jobEnd ck job => i = .jobEnd ck job
  | .handleReturn uid h => i = .handleReturn uid h
  | .allocationRelease uid => i = .allocationRelease uid
  | .fqLimitExpiry token => i = .fqLimitExpiry token
  | .xinvDone => i = .xinvDone
  | .sliceSizeChange bdie size => i = .sliceSizeChange bdie size
  | .jobEntry n => i = .jobEntry n
  | .graphEntry n => i = .graphEntry n
  | .launchEntry n => i = .launchEntry n
  | .phaseEntry n => i = .phaseEntry n
  | .waitcEntry n => i = .waitcEntry n
  | .endEntry n => i = .endEntry n
  | .specEntryCommit n => i = .specEntryCommit n
  | .specEntryDiscard n => i = .specEntryDiscard n
  | .chainEntryRetire n => i = .chainEntryRetire n
  | .unitStart lid idx => i = .unitStart lid idx
  | .levelComplete level id => i = .levelComplete level id
  | .preemption uid => i = .preemption uid
  | .resumption uid => i = .resumption uid
  | .resetSequenceComplete => i = .resetSequenceComplete
  | .lostUnitRerun uid => i = .lostUnitRerun uid
  | .ratioChangeComplete n => i = .ratioChangeComplete n
  | .droopRecover n => i = .droopRecover n
  | .holdEnd n => i = .holdEnd n
  | .mailboxCompletion => i = .mailboxCompletion
  | .cancellationTakesEffect idx => i = .cancellationTakesEffect idx
  | .sequencerCounterReread idx => i = .sequencerCounterReread idx

/-- Of a lane array: its census round, and its seats (R295, R300). -/
def arrayTurns (ck a : Nat) : List OwnStep :=
  [.censusRound ck a, .gangSeat ck a] ++ (upFrom 0 4).flatMap fun k => [.gangUnseat ck a k, .quantumDue ck a k]

/-- Of a thread. -/
def threadTurns (tk : Nat) (t : Thread) : List OwnStep :=
  [.prefetchFill tk]
    ++ (if t.park.isSome then [.parkConditionHolds tk, .waitRecheck tk] else [])
    ++ (if t.yieldTo ≠ 0 then [.yieldHoldEnd tk] else [])
    ++ (if t.depriTo ≠ 0 then [.deprioritisationEnd tk] else [])
    ++ (t.loads.map fun r => .loadReply tk r.idx)
    ++ (indices t.ports).flatMap fun k =>
        (if (t.ports.getD k {}).bind.isSome then [.streamPrefetch tk k] else [])
          ++ (if (t.ports.getD k {}).fout.isEmpty then [] else [.streamOutDrain tk k])

/-- The number of rows or elements of an op's card. -/
def Card.steps : Card → Nat
  | .copy c => c.yc * c.zc
  | .gath c => c.cnt

/-- Of an op of a copy channel. -/
def opTurns (ck : Nat) (o : CopyOp) : List OwnStep :=
  [.engineOpEnd ck o.id, .watchdogTimeout ck o.id] ++ (if o.ch = 7 then [.probePass ck o.id] else [])
    ++ (upFrom o.start (o.card.steps - o.start)).map fun q => match o.card with
        | .copy _ => .copyRowTransfer ck o.id q
        | .gath _ => .gatherElement ck o.id q

/-- Of a core. -/
def coreTurns (ck : Nat) (c : Core) : List OwnStep :=
  ((indices c.arrays).flatMap fun a => arrayTurns ck a)
    ++ ((indices c.pend).map fun k => .storePerform ck k)
    ++ ((indices c.coll).map fun k => .collectorSend ck k)
    ++ ((indices c.chans).map fun k => .engineQueueAccept ck k)
    ++ (c.chans.flatten.flatMap fun o => opTurns ck o)
    ++ [.matrixQueueAccept ck, .jobEnterContext ck, .blockStep ck]
    ++ (c.jobs.flatMap fun j => [.jobEnd ck j.id, .watchdogTimeout ck j.id])

/-- Of a unit. -/
def unitTurns (uid : Nat) (u : TUnit) : List OwnStep :=
  [.allocationRelease uid, .preemption uid, .resumption uid, .lostUnitRerun uid]
    ++ u.resv.map fun h => .handleReturn uid h.1

/-- Of a launch. -/
def launchTurns (lid : Nat) (l : Launch) : List OwnStep :=
  [.levelComplete 1 lid, .sequencerCounterReread (16 + lid)] ++ (indices (List.replicate l.desc.units ())).map fun k => .unitStart lid k

/-- The entry steps of a chain. -/
def entryTurns (n : Nat) : List OwnStep :=
  [.jobEntry n, .graphEntry n, .launchEntry n, .phaseEntry n, .waitcEntry n, .endEntry n, .specEntryCommit n, .specEntryDiscard n]

/-- Of the sequencer (R313, R318, R320, R330). -/
def Hub.sequencerTurns (h : Hub) : List OwnStep :=
  (match h.servedChain with | some n => entryTurns n | none => [])
    ++ ((indices h.chains).flatMap fun n => match (h.chains.getD n {}).phase with
        | .fetch => []
        | .waiting => entryTurns n ++ [.sequencerCounterReread n]
        | .retiring => [.chainEntryRetire n])
    ++ (h.launches.flatMap fun p => launchTurns p.1 p.2)
    ++ (h.graphs.map fun g => .levelComplete 2 g.gid)
    ++ (h.jobs.flatMap fun p => [.levelComplete 3 p.1, .levelComplete 4 p.1])
    ++ (h.recs.map fun p => .levelComplete 0 p.1)
    ++ ((indices h.cancels).map fun k => .cancellationTakesEffect k)

/-- The slice sizes that JOB entries ask for. -/
def sliceTurns : List OwnStep := (upFrom 0 4).flatMap fun b => (upFrom 0 4).map fun z => .sliceSizeChange b z

/-- Of the rest of the device. -/
def State.boardTurns (s : State) : List OwnStep :=
  (if s.hub.xinvDone then [] else [.xinvDone])
    ++ (if s.hub.chains.any (fun c => c.phase == .waiting) && s.hub.jobs.isEmpty then sliceTurns else [])
    ++ (s.hub.faults.map fun f => .fqLimitExpiry f.token)
    ++ (if s.hub.rst.busy || !s.hub.islUp then [.resetSequenceComplete] else [])
    ++ (if s.hub.mb.busy then [.mailboxCompletion] else [])
    ++ (s.clusters.flatMap fun c => (if c.2.rat ≠ c.2.crat || c.2.changing then [.ratioChangeComplete c.1] else [])
          ++ (if c.2.hold then [.holdEnd c.1] else []) ++ (if c.2.droop then [.droopRecover c.1] else []))

/-- Every step that the device can take of itself. -/
def State.turns (s : State) : List OwnStep :=
  (s.cores.flatMap fun c => coreTurns c.1 c.2)
    ++ (s.threads.flatMap fun p => threadTurns p.1 p.2)
    ++ (s.units.flatMap fun p => unitTurns p.1 p.2)
    ++ s.hub.sequencerTurns ++ s.boardTurns

/-! ## The next step -/

/-- The host and the peer modules change bytes of their own memory (R262; log 2). -/
def State.outsideChanges (s : State) (cells : List Host.Cell) : State :=
  cells.foldl (fun s c =>
    let (q, s) := s.takeSeq
    (s.writeAt 0 (.home (hostBase + c.1)) [c.2]).noteWrite .agent q (.home (hostBase + c.1)) 1) s
/-- The far cache writes changed lines back to GDDR (R62, R63). -/
def State.writeBacks (s : State) (lines : List Nat) : State := { s with far := lines.foldl (fun m x => AMap.del m x) s.far }
/-- What happens outside the steps of the device before one of them: time passes, memory outside the module changes, and the far cache
writes lines back. -/
def State.meanwhile (s : State) (dt : Nat) (out : List Host.Cell) (back : List Nat) : State :=
  (({ s with hub := { s.hub with tmr := s.hub.tmr + dt } } : State).writeBacks back).outsideChanges out

/-- A step of the device: the first of the schedule, else one that nothing fixes of those
that the device can take, after a time that nothing fixes (log 2). -/
def State.advance (s : State) : Out :=
  match s.sched with
  | t :: rest =>
    let s := ({ s with sched := rest } : State).meanwhile t.dt t.out t.back
    if isEvent t.ev then exec t.ev s else .next s
  | [] =>
    let back := (s.far.map (·.1)).filter (Config.writeBack s.turn)
    let s := ({ s with turn := s.turn + 1 } : State).meanwhile (Config.elapse s.turn) (Config.outside s.turn) back
    let ts := s.turns
    match ts[Config.pick (s.turn - 1) % ts.length]? with
    | none => .next s
    | some i => i.run s

end Sys2Proof.Machine
end

