-- ==== Sys2Proof/Machine/Step.lean ====
section
/-! DEFINITION. One step of the machine, and the placing of one instruction where a step fetches it. -/

namespace Sys2Proof.Machine

/-- One step: the first thread that waits to be issued runs its next instruction word; where none waits, one step of the
device takes place. -/
def step (s : State) : Host.Outcome State Fault Refusal :=
  match s.issueQ with
  | tk :: rest =>
    match ({ s with issueQ := rest }).issue tk with
    | .run i s => exec i s
    | .done s => .next s
  | [] => s.advance

/-- Where withFetchWord puts the instruction, the root table and the upper table. -/
def placeAt : Nat := 0x200000
/-- The root table of the placed job. -/
def placeRoot : Nat := 0x100000
/-- The upper table of the placed job: one page of 1 GiB at address 0. -/
def placeUpper : Nat := 0x110000

/-- The job, launch, unit and thread that run a placed instruction: one gang of 60 registers on core 0 (log 1). -/
def State.placed (s : State) : State :=
  let lid := s.hub.nextLid
  let jid := s.hub.nextLid + 1
  let uid := unitKey lid 0
  let job : HJob := { chain := 0, lock := false, dbg := true, root := Word.ofN placeRoot, asn := 1, slice := [0, 0, 0, 0],
                      resv := [], jctr := 0, pctr := 0, curGraph := some lid }
  let graph : Graph := { key := lid, gid := 1, jid := jid, phase := 0, gctr := 0 }
  let desc : Desc := { units := 1, cls := 0, prio := 0, e := 0, spread := false, specv := false, dbgp := true, spb := 0,
                       obb := 0, pvb := 4096, roles := [{ gangs := 1, regs := 60, entry := Word.ofN placeAt }], lctr := 0, urec := 0,
                       traph := 0, save := 0, spbuf := 0 }
  let launch : Launch := { gkey := lid, jid := jid, desc := desc, args := List.replicate 16 0, started := [0] }
  let unit : TUnit := { lid := lid, idx := 0, ck := 0, slot := 0, g := 32, uni := List.replicate 256 0,
                        bars := List.replicate 16 { c := 32 }, gangs := [(0, { seat := some 0 })] }
  let thread : Thread := { uid := uid, tg := 0, nregs := 60, v := setAt (List.replicate 60 0) 58 0xF200000000001000, rpc := Word.ofN placeAt, pc := Word.ofN placeAt }
  let c := s.core 0
  let mem := (s.mem.setBytes placeRoot (leBytes 8 (placeUpper + 1))).setBytes placeUpper (leBytes 8 0x1F)
  let s := { s with
    issueQ := threadKey uid 0 :: s.issueQ
    mem := mem
    tlb := []
    units := AMap.set s.units uid unit
    threads := AMap.set s.threads (threadKey uid 0) thread }
  (s.setCore 0 { c with ic := [] }).modHub fun h =>
    { h with nextLid := h.nextLid + 2, graphs := h.graphs ++ [graph], chains := setAt h.chains 0 { (h.chains.getD 0 {}) with job := some jid },
             jobs := AMap.set h.jobs jid job, launches := AMap.set h.launches lid launch }

/-- The machine with one instruction placed where its next step fetches: a table word, then zeros. -/
def State.withFetchWord (s : State) (nbits w : Nat) : State :=
  let s := s.placed
  { s with mem := s.mem.setBytes placeAt (tableBytes nbits w) }

end Sys2Proof.Machine
end

