-- ==== Sys2Proof/Laws/Encoding.lean ====
section
/-! SUPPORT. The fields of an encoded word are read back as they were put in. -/

namespace Sys2Proof

theorem Fields.toNat_toWord (f : Fields) : f.toWord.toNat = f.b.toNat * 2 ^ 25 + f.a.toNat * 2 ^ 18 + f.d.toNat * 2 ^ 12
    + f.maj.toNat * 2 ^ 6 + f.w.toNat * 2 ^ 5 + f.gn.toNat * 2 ^ 4 + f.gp.1 * 2 + 1 := by
  have hb := f.b.isLt; have ha := f.a.isLt; have hd := f.d.isLt; have hm := f.maj.isLt
  have hw := Bool.toNat_lt f.w; have hg := Bool.toNat_lt f.gn; have hp := f.gp.2
  simp only [Fields.toWord, BitVec.toNat_ofNat]
  rw [Nat.mod_eq_of_lt (by omega)]

theorem decide_toNat (w : Bool) {n : Nat} (h : n = w.toNat) : decide (n = 1) = w := by
  subst h; cases w <;> rfl

theorem Fields.ofWord_toWord (f : Fields) : Fields.ofWord f.toWord = f := by
  have key := f.toNat_toWord
  have hb := f.b.isLt; have ha := f.a.isLt; have hd := f.d.isLt; have hm := f.maj.isLt
  have hw := Bool.toNat_lt f.w; have hg := Bool.toNat_lt f.gn; have hp := f.gp.2
  generalize f.toWord = x at key
  obtain ⟨b, a, d, maj, w, gn, gp⟩ := f
  dsimp only at *
  unfold Fields.ofWord
  dsimp only
  congr 1
  · apply BitVec.eq_of_toNat_eq; rw [BitVec.toNat_ofNat]; omega
  · apply BitVec.eq_of_toNat_eq; rw [BitVec.toNat_ofNat]; omega
  · apply BitVec.eq_of_toNat_eq; rw [BitVec.toNat_ofNat]; omega
  · apply BitVec.eq_of_toNat_eq; rw [BitVec.toNat_ofNat]; omega
  · exact decide_toNat w (by omega)
  · exact decide_toNat gn (by omega)
  · apply Fin.ext; show x.toNat / 2 % 8 = gp.1; omega

/-- The fields of a word of the common layout. -/
theorem fields_word3 (maj g w d a b) : Fields.ofWord (word3 maj g w d a b) = ⟨b, a, d, maj, w, g.neg, g.p⟩ := Fields.ofWord_toWord _

theorem word3_odd (maj g w d a b) : (word3 maj g w d a b).toNat % 2 = 1 := by
  unfold word3
  rw [Fields.toNat_toWord]
  dsimp only
  omega

theorem Dst.ofBits_toBits (d : Dst) : Dst.ofBits d.toBits = d := by
  cases d with
  | v n =>
    have := n.2
    unfold Dst.ofBits Dst.toBits
    simp only [BitVec.toNat_ofNat]
    rw [dif_pos (by omega)]
    congr 1; apply Fin.ext; show n.1 % 64 = n.1; omega
  | m k =>
    have := k.2
    unfold Dst.ofBits Dst.toBits
    simp only [BitVec.toNat_ofNat]
    rw [dif_neg (by omega)]
    congr 1; apply Fin.ext; show (60 + k.1) % 64 - 60 = k.1; omega

theorem Src.ofBits_toBits (s : Src) : Src.ofBits s.toBits = s := by
  cases s with
  | v n => revert n; decide
  | m k => revert k; decide
  | b k => revert k; decide
  | z => decide
  | ln => decide
  | tg => decide
  | gg => decide
  | xi => decide
  | imm k => revert k; decide
  | s n => revert n; decide

theorem CSrc.ofBits_toBits (s : CSrc) : CSrc.ofBits s.toBits = s := by
  cases s with
  | v n => revert n; decide
  | b k => revert k; decide
  | s n => revert n; decide

theorem ICond.ofCode_code (c : ICond) : ICond.ofCode c.code = some c := by cases c <;> rfl
theorem FCond.ofCode_code (c : FCond) : FCond.ofCode c.code = c := by cases c <;> rfl
theorem ICond.code_lt (c : ICond) : c.code < 7 := by cases c <;> decide
theorem FCond.code_lt (c : FCond) : c.code < 8 := by cases c <;> decide
theorem Scope.ofCode_code (c : Scope) : Scope.ofCode c.code = some c := by cases c <;> rfl
theorem Scope.code_lt (c : Scope) : c.code < 5 := by cases c <;> decide
theorem AScope.ofCode_code (c : AScope) : AScope.ofCode c.code = c := by cases c <;> rfl
theorem AScope.code_lt (c : AScope) : c.code < 4 := by cases c <;> decide

theorem op3_back (o : Op3) (maj) : Fields.op3 ⟨o.b.toBits, o.a.toBits, o.d.toBits, maj, o.w, o.g.neg, o.g.p⟩ = o := by
  simp only [Fields.op3, Fields.guard, Src.ofBits_toBits, Dst.ofBits_toBits]
theorem op2_back (o : Op2) (maj b) : Fields.op2 ⟨b, o.a.toBits, o.d.toBits, maj, o.w, o.g.neg, o.g.p⟩ = o := by
  simp only [Fields.op2, Fields.guard, Src.ofBits_toBits, Dst.ofBits_toBits]
theorem opX_back (o : OpX) (maj b w) : Fields.opX ⟨b, o.a.toBits, o.d.toBits, maj, w, o.g.neg, o.g.p⟩ = o := by
  simp only [Fields.opX, Fields.guard, Src.ofBits_toBits, Dst.ofBits_toBits]
theorem mem_back (o : MemOp) (maj) : Fields.mem ⟨o.b.toBits, o.a.toBits, o.d.toBits, maj, o.na, o.g.neg, o.g.p⟩ = o := by
  simp only [Fields.mem, Fields.guard, Src.ofBits_toBits, Dst.ofBits_toBits]
theorem hacc_back (o : HaccOp) (maj b) : Fields.hacc ⟨b, o.a.toBits, o.d.toBits, maj, o.ar, o.g.neg, o.g.p⟩ = o := by
  simp only [Fields.hacc, Fields.guard, Src.ofBits_toBits, Dst.ofBits_toBits]

theorem cond_d (c p : Nat) (hc : c < 8) (hp : p < 8) :
    (BitVec.ofNat 6 (c * 8 + p)).toNat / 8 = c ∧ (BitVec.ofNat 6 (c * 8 + p)).toNat % 8 = p := by
  rw [BitVec.toNat_ofNat]; omega

theorem icmp_back (o : ICmp) (maj w) (k : ICmp → Instr) :
    Fields.icmp ⟨o.b.toBits, o.a.toBits, BitVec.ofNat 6 (o.c.code * 8 + o.p.1), maj, w, o.g.neg, o.g.p⟩ k = .ok (k o) := by
  have h := cond_d o.c.code o.p.1 (by have := o.c.code_lt; omega) o.p.2
  simp only [Fields.icmp, h.1, ICond.ofCode_code, Fields.guard, Src.ofBits_toBits, h.2]
theorem fcmp_back (o : FCmp) (maj w) :
    Fields.fcmp ⟨o.b.toBits, o.a.toBits, BitVec.ofNat 6 (o.c.code * 8 + o.p.1), maj, w, o.g.neg, o.g.p⟩ = o := by
  have h := cond_d o.c.code o.p.1 o.c.code_lt o.p.2
  simp only [Fields.fcmp, h.1, FCond.ofCode_code, Fields.guard, Src.ofBits_toBits, h.2]

theorem opA_back (o : OpA) (maj b w) (k : OpA → Instr) : Fields.opA ⟨b, o.a.toBits, 0, maj, w, o.g.neg, o.g.p⟩ k = .ok (k o) := by
  simp only [Fields.opA, Fields.guard, Src.ofBits_toBits, if_true]
theorem opD_back (o : OpD) (maj b w) (k : OpD → Instr) : Fields.opD ⟨b, 0, o.d.toBits, maj, w, o.g.neg, o.g.p⟩ k = .ok (k o) := by
  simp only [Fields.opD, Fields.guard, Dst.ofBits_toBits, if_true]
theorem opG_back (o : OpG) (maj b w) (k : OpG → Instr) : Fields.opG ⟨b, 0, 0, maj, w, o.g.neg, o.g.p⟩ k = .ok (k o) := by
  simp only [Fields.opG, Fields.guard, and_self, if_true]
theorem opS_back {n : Nat} (hn : n ≤ 64) (o : OpS n) (maj b w) (k : OpS n → Instr) :
    Fields.opS ⟨b, 0, BitVec.ofNat 6 o.n.1, maj, w, o.g.neg, o.g.p⟩ n k = .ok (k o) := by
  have h : (BitVec.ofNat 6 o.n.1).toNat = o.n.1 := by rw [BitVec.toNat_ofNat]; have := o.n.2; omega
  simp only [Fields.opS, Fields.guard, h, o.n.2, dite_true, if_true]
theorem opI_back {n : Nat} (hn : n ≤ 64) (o : OpI n) (maj b w) (k : OpI n → Instr) :
    Fields.opI ⟨b, o.a.toBits, BitVec.ofNat 6 o.n.1, maj, w, o.g.neg, o.g.p⟩ n k = .ok (k o) := by
  have h : (BitVec.ofNat 6 o.n.1).toNat = o.n.1 := by rw [BitVec.toNat_ofNat]; have := o.n.2; omega
  simp only [Fields.opI, Fields.guard, h, o.n.2, dite_true, Src.ofBits_toBits]
theorem movs_back (o : MovsOp) (maj b) :
    Fields.movs ⟨b, 0, o.d.toBits, maj, o.w, o.g.neg, o.g.p⟩ o.id = .ok (.movs o) := by
  simp only [Fields.movs, Fields.guard, Dst.ofBits_toBits, if_true]

theorem acq_back (o : AcqOp) (maj) :
    Fields.acq ⟨BitVec.ofNat 7 (o.pr.toNat * 32 + o.sc.code * 4 + o.wide.toNat), o.a.toBits, o.d.toBits, maj, o.na, o.g.neg, o.g.p⟩
      = .ok (.ldacq o) := by
  obtain ⟨g, na, d, a, pr, sc, wide⟩ := o
  cases pr <;> cases wide <;> cases sc <;>
    simp [Fields.acq, Fields.guard, Scope.code, Scope.ofCode, Src.ofBits_toBits, Dst.ofBits_toBits]
theorem rel_back (o : RelOp) (maj) :
    Fields.rel ⟨BitVec.ofNat 7 (o.sc.code * 4 + o.wide.toNat), o.a.toBits, o.d.toBits, maj, o.na, o.g.neg, o.g.p⟩ = .ok (.strel o) := by
  obtain ⟨g, na, d, a, sc, wide⟩ := o
  cases wide <;> cases sc <;>
    simp [Fields.rel, Fields.guard, Scope.code, Scope.ofCode, Src.ofBits_toBits, Dst.ofBits_toBits]

/-- The constructor of an ATOM of an operation code (R43). -/
def atomInstr (op : Nat) (o : AtomOp) : Except DecodeError Instr :=
  match op with
  | 0 => .ok (.atomAdd o) | 1 => .ok (.atomAnd o) | 2 => .ok (.atomOr o) | 3 => .ok (.atomXor o)
  | 4 => .ok (.atomMinS o) | 5 => .ok (.atomMaxS o) | 6 => .ok (.atomMinN o) | 7 => .ok (.atomMaxN o)
  | 8 => .ok (.atomXchg o) | 9 => .ok (.atomCas o) | 10 => .ok (.atomFadd o) | 11 => .ok (.atomIncw o)
  | 12 => .ok (.atomCasPromote o)
  | _ => .error .atomCode

theorem atom_back (op : Fin 13) (o : AtomOp) (maj) :
    Fields.atom ⟨BitVec.ofNat 7 (o.sc.code * 32 + o.wide.toNat * 16 + op.1), o.a.toBits, o.d.toBits, maj, o.ar, o.g.neg, o.g.p⟩
      = atomInstr op.1 o := by
  obtain ⟨g, ar, d, a, sc, wide⟩ := o
  have h1 : ∀ (sc : AScope) (w : Bool) (k : Fin 13), (BitVec.ofNat 7 (sc.code * 32 + w.toNat * 16 + k.1)).toNat % 16 = k.1 ∧
      AScope.ofCode ((BitVec.ofNat 7 (sc.code * 32 + w.toNat * 16 + k.1)).toNat / 32) = sc ∧
      decide ((BitVec.ofNat 7 (sc.code * 32 + w.toNat * 16 + k.1)).toNat / 16 % 2 = 1) = w := by
    intro sc w k
    cases sc <;> cases w <;> revert k <;> decide
  obtain ⟨e1, e2, e3⟩ := h1 sc wide op
  simp only [Fields.atom, Fields.guard, Src.ofBits_toBits, Dst.ofBits_toBits, e1, e2, e3]
  generalize (AtomOp.mk _ _ _ _ _ _) = x
  revert op
  intro op _ _ _
  match op with
  | ⟨0, _⟩ => rfl | ⟨1, _⟩ => rfl | ⟨2, _⟩ => rfl | ⟨3, _⟩ => rfl | ⟨4, _⟩ => rfl | ⟨5, _⟩ => rfl | ⟨6, _⟩ => rfl
  | ⟨7, _⟩ => rfl | ⟨8, _⟩ => rfl | ⟨9, _⟩ => rfl | ⟨10, _⟩ => rfl | ⟨11, _⟩ => rfl | ⟨12, _⟩ => rfl

theorem hacc_word (o : HaccOp) : Fields.atom ⟨29, o.a.toBits, o.d.toBits, 0x3B, o.ar, o.g.neg, o.g.p⟩ = .ok (.atomHacc o) := by
  unfold Fields.atom
  dsimp only [BitVec.reduceToNat]
  simp only [Nat.reduceMod, Nat.reduceDiv, if_true]
  exact congrArg (fun x => Except.ok (Instr.atomHacc x)) (hacc_back o 0x3B 29)

theorem loop_back (o : LoopOp) (maj) :
    Fields.loop ⟨BitVec.ofNat 7 (o.len.1 / 64 * 32), o.a.toBits, BitVec.ofNat 6 o.len.1, maj, false, o.g.neg, o.g.p⟩ = .ok (.loop o) := by
  obtain ⟨g, a, len⟩ := o
  have hl := len.2
  simp only [Fields.loop, BitVec.toNat_ofNat, Fields.guard, Src.ofBits_toBits]
  rw [if_pos ⟨by simp, by omega⟩]
  congr 3
  apply Fin.ext
  show (len.1 / 64 * 32) % 2 ^ 7 / 32 % 4 * 64 + len.1 % 2 ^ 6 = len.1
  omega

/-- The parcels of a 32-bit word are joined to it again. -/
theorem decodeParcels_parcels32 {x : BitVec 32} (h : x.toNat % 2 = 1) (rest : List Parcel) : decodeParcels (parcels32 x ++ rest) = decode32 x := by
  have hx := x.isLt
  unfold parcels32 decodeParcels
  simp only [List.cons_append, List.nil_append, BitVec.toNat_ofNat]
  rw [if_neg (by omega)]
  congr 1
  apply BitVec.eq_of_toNat_eq
  simp only [BitVec.toNat_ofNat]
  omega

/-- A word of the common layout decodes to i where its fields give i. -/
theorem word3_back {maj g w d a b i} (h : ∀ x, Fields.ofWord x = ⟨b, a, d, maj, w, g.neg, g.p⟩ → decode32 x = .ok i) (rest : List Parcel) :
    decodeParcels (parcels32 (word3 maj g w d a b) ++ rest) = .ok i := by
  rw [decodeParcels_parcels32 (word3_odd maj g w d a b)]
  exact h _ (fields_word3 maj g w d a b)

/-- An XOP word decodes to i where its function gives i. -/
theorem xop_back {g w d a b i} (h : Fields.xop ⟨b, a, d, 0x3E, w, g.neg, g.p⟩ = .ok i) (rest : List Parcel) :
    decodeParcels (parcels32 (word3 0x3E g w d a b) ++ rest) = .ok i :=
  word3_back (fun x hx => by unfold decode32; rw [hx]; exact h) rest

theorem br_back (maj : Nat) (hm : maj = 0x3C ∨ maj = 0x3D) (o : BrOp) :
    brOp (encBr maj o) = o ∧ (Fields.ofWord (encBr maj o)).maj.toNat = maj ∧ (encBr maj o).toNat % 2 = 1 := by
  obtain ⟨g, u, h, x, off⟩ := o
  obtain ⟨gn, gp⟩ := g
  have ho := off.isLt; have hp := gp.2
  have hu := Bool.toNat_lt u; have hh := Bool.toNat_lt h; have hx := Bool.toNat_lt x; have hg := Bool.toNat_lt gn
  have key : (encBr maj ⟨⟨gn, gp⟩, u, h, x, off⟩).toNat = off.toNat * 2 ^ 14 + x.toNat * 2 ^ 13 + h.toNat * 2 ^ 12 + maj * 2 ^ 6 + u.toNat * 2 ^ 5
      + gn.toNat * 2 ^ 4 + gp.1 * 2 + 1 := by
    simp only [encBr, BitVec.toNat_ofNat]
    rw [Nat.mod_eq_of_lt]
    omega
  refine ⟨?_, ?_, by rw [key]; omega⟩
  · simp only [brOp, Fields.guard, Fields.ofWord, key]
    congr 1
    · congr 1
      · cases gn <;> simp only [Bool.toNat_true, Bool.toNat_false, decide_eq_true_eq, decide_eq_false_iff_not] <;> omega
      · apply Fin.ext; show _ % 8 = gp.1; omega
    · cases u <;> simp only [Bool.toNat_true, Bool.toNat_false, decide_eq_true_eq, decide_eq_false_iff_not] <;> omega
    · cases h <;> simp only [Bool.toNat_true, Bool.toNat_false, decide_eq_true_eq, decide_eq_false_iff_not] <;> omega
    · cases x <;> simp only [Bool.toNat_true, Bool.toNat_false, decide_eq_true_eq, decide_eq_false_iff_not] <;> omega
    · apply BitVec.eq_of_toNat_eq; rw [BitVec.toNat_ofNat]; omega
  · simp only [Fields.ofWord, key, BitVec.toNat_ofNat]; omega

theorem imx_back (p : BitVec 25) : imxPayload (encImx p) = p ∧ (Fields.ofWord (encImx p)).maj.toNat = 0x3F ∧ (encImx p).toNat % 2 = 1 := by
  have hp := p.isLt
  have key : (encImx p).toNat = p.toNat / 32 * 2 ^ 12 + 0x3F * 2 ^ 6 + p.toNat % 32 * 2 + 1 := by
    simp only [encImx, BitVec.toNat_ofNat]
    rw [Nat.mod_eq_of_lt]
    omega
  refine ⟨?_, ?_, by rw [key]; omega⟩
  · apply BitVec.eq_of_toNat_eq
    simp only [imxPayload, key, BitVec.toNat_ofNat]; omega
  · simp only [Fields.ofWord, key, BitVec.toNat_ofNat]; omega

theorem c16_parts (op : Fin 16) (d s : Nat) (hd : d < 64) (hs : s < 32) :
    (BitVec.ofNat 16 (s * 2048 + d * 32 + op.1 * 2)).toNat / 32 % 64 = d ∧ (BitVec.ofNat 16 (s * 2048 + d * 32 + op.1 * 2)).toNat / 2048 = s ∧
    (BitVec.ofNat 16 (s * 2048 + d * 32 + op.1 * 2)).toNat / 2 % 16 = op.1 ∧ (BitVec.ofNat 16 (s * 2048 + d * 32 + op.1 * 2)).toNat % 2 = 0 ∧
    ((BitVec.ofNat 16 (s * 2048 + d * 32 + op.1 * 2)).toNat = 0 → s = 0 ∧ d = 0 ∧ op.1 = 0) := by
  have := op.2
  rw [BitVec.toNat_ofNat]; omega

/-- What the operation of a 16-bit instruction gives (R48). -/
def compactInstr (op : Nat) (o : C16) (oi : C16I) : Instr :=
  match op with
  | 0 => .movCompact o | 1 => .iaddCompact o | 2 => .isubCompact o | 3 => .iadd32Compact o | 4 => .iaddi oi
  | 5 => .andCompact o | 6 => .orCompact o | 7 => .xorCompact o | 8 => .shli oi | 9 => .shri oi
  | 10 => .faddCompact o | 11 => .fsubCompact o | 12 => .fmulCompact o | 13 => .fmaxCompact o | 14 => .daddCompact o
  | _ => .dmulCompact o

theorem compact_back (op : Fin 16) (d : Dst) (s : BitVec 5) (h : op.1 ≠ 0 ∨ d ≠ .v 0 ∨ s ≠ 0) (rest : List Parcel) :
    decodeParcels (BitVec.ofNat 16 (s.toNat * 2048 + d.toBits.toNat * 32 + op.1 * 2) :: rest) =
      .ok (compactInstr op.1 ⟨d, CSrc.ofBits s⟩ ⟨d, s⟩) := by
  obtain ⟨e1, e2, e3, e4, e5⟩ := c16_parts op d.toBits.toNat s.toNat d.toBits.isLt s.isLt
  unfold decodeParcels
  dsimp only
  rw [if_pos e4]
  unfold decode16
  dsimp only
  rw [if_neg]
  · have f1 : BitVec.ofNat 6 ((BitVec.ofNat 16 (s.toNat * 2048 + d.toBits.toNat * 32 + op.1 * 2)).toNat / 32) = d.toBits := by
      apply BitVec.eq_of_toNat_eq; rw [BitVec.toNat_ofNat]; exact e1
    have f2 : BitVec.ofNat 5 ((BitVec.ofNat 16 (s.toNat * 2048 + d.toBits.toNat * 32 + op.1 * 2)).toNat / 2048) = s := by
      apply BitVec.eq_of_toNat_eq; rw [BitVec.toNat_ofNat, e2]; exact Nat.mod_eq_of_lt s.isLt
    rw [f1, f2, e3, Dst.ofBits_toBits]
    rfl
  · intro h0
    obtain ⟨h1, h2, h3⟩ := e5 h0
    rcases h with h | h | h
    · exact h h3
    · apply h
      have : d.toBits = 0 := BitVec.eq_of_toNat_eq h2
      rw [← Dst.ofBits_toBits d, this]; rfl
    · exact h (BitVec.eq_of_toNat_eq h1)

end Sys2Proof
end

