-- ==== Sys2Proof/Laws/PerInstr.lean ====
section
/-! SUPPORT. Statements about every instruction, one lemma for each constructor of Instr. -/

namespace Sys2Proof.Laws.RoundTrip

set_option Elab.async false

open Sys2Proof

/-- The parcels of a well-formed instruction decode to it, whatever stands after them (R23, R26, R49, R50). -/
def Statement (i : Instr) : Prop := WellFormed i = true → ∀ rest : List Parcel, decodeParcels (encode i ++ rest) = .ok i

theorem opAFields (o : OpA) (d b maj w) : (⟨Fields.guard ⟨b, o.a.toBits, d, maj, w, o.g.neg, o.g.p⟩, Src.ofBits o.a.toBits⟩ : OpA) = o := by
  simp only [Fields.guard, Src.ofBits_toBits]

theorem iadd a0 : Statement (.iadd a0) := fun _ rest => word3_back (fun x hx => by unfold decode32; rw [hx]; exact congrArg (fun o => Except.ok (Instr.iadd o)) (op3_back a0 _)) rest
theorem isub a0 : Statement (.isub a0) := fun _ rest => word3_back (fun x hx => by unfold decode32; rw [hx]; exact congrArg (fun o => Except.ok (Instr.isub o)) (op3_back a0 _)) rest
theorem imul a0 : Statement (.imul a0) := fun _ rest => word3_back (fun x hx => by unfold decode32; rw [hx]; exact congrArg (fun o => Except.ok (Instr.imul o)) (op3_back a0 _)) rest
theorem imac a0 : Statement (.imac a0) := fun _ rest => word3_back (fun x hx => by unfold decode32; rw [hx]; exact congrArg (fun o => Except.ok (Instr.imac o)) (op3_back a0 _)) rest
theorem iadd32 a0 : Statement (.iadd32 a0) := fun _ rest => word3_back (fun x hx => by unfold decode32; rw [hx]; exact congrArg (fun o => Except.ok (Instr.iadd32 o)) (op3_back a0 _)) rest
theorem isub32 a0 : Statement (.isub32 a0) := fun _ rest => word3_back (fun x hx => by unfold decode32; rw [hx]; exact congrArg (fun o => Except.ok (Instr.isub32 o)) (op3_back a0 _)) rest
theorem imul32 a0 : Statement (.imul32 a0) := fun _ rest => word3_back (fun x hx => by unfold decode32; rw [hx]; exact congrArg (fun o => Except.ok (Instr.imul32 o)) (op3_back a0 _)) rest
theorem imac32 a0 : Statement (.imac32 a0) := fun _ rest => word3_back (fun x hx => by unfold decode32; rw [hx]; exact congrArg (fun o => Except.ok (Instr.imac32 o)) (op3_back a0 _)) rest
theorem imulhS a0 : Statement (.imulhS a0) := fun _ rest => word3_back (fun x hx => by unfold decode32; rw [hx]; exact congrArg (fun o => Except.ok (Instr.imulhS o)) (op3_back a0 _)) rest
theorem imulhN a0 : Statement (.imulhN a0) := fun _ rest => word3_back (fun x hx => by unfold decode32; rw [hx]; exact congrArg (fun o => Except.ok (Instr.imulhN o)) (op3_back a0 _)) rest
theorem andOp a0 : Statement (.andOp a0) := fun _ rest => word3_back (fun x hx => by unfold decode32; rw [hx]; exact congrArg (fun o => Except.ok (Instr.andOp o)) (op3_back a0 _)) rest
theorem orOp a0 : Statement (.orOp a0) := fun _ rest => word3_back (fun x hx => by unfold decode32; rw [hx]; exact congrArg (fun o => Except.ok (Instr.orOp o)) (op3_back a0 _)) rest
theorem xorOp a0 : Statement (.xorOp a0) := fun _ rest => word3_back (fun x hx => by unfold decode32; rw [hx]; exact congrArg (fun o => Except.ok (Instr.xorOp o)) (op3_back a0 _)) rest
theorem andn a0 : Statement (.andn a0) := fun _ rest => word3_back (fun x hx => by unfold decode32; rw [hx]; exact congrArg (fun o => Except.ok (Instr.andn o)) (op3_back a0 _)) rest
theorem shl a0 : Statement (.shl a0) := fun _ rest => word3_back (fun x hx => by unfold decode32; rw [hx]; exact congrArg (fun o => Except.ok (Instr.shl o)) (op3_back a0 _)) rest
theorem shr a0 : Statement (.shr a0) := fun _ rest => word3_back (fun x hx => by unfold decode32; rw [hx]; exact congrArg (fun o => Except.ok (Instr.shr o)) (op3_back a0 _)) rest
theorem asr a0 : Statement (.asr a0) := fun _ rest => word3_back (fun x hx => by unfold decode32; rw [hx]; exact congrArg (fun o => Except.ok (Instr.asr o)) (op3_back a0 _)) rest
theorem loop a0 : Statement (.loop a0) := fun _ rest => word3_back (fun x hx => by unfold decode32; rw [hx]; exact loop_back a0 _) rest
theorem iminS a0 : Statement (.iminS a0) := fun _ rest => word3_back (fun x hx => by unfold decode32; rw [hx]; exact congrArg (fun o => Except.ok (Instr.iminS o)) (op3_back a0 _)) rest
theorem imaxS a0 : Statement (.imaxS a0) := fun _ rest => word3_back (fun x hx => by unfold decode32; rw [hx]; exact congrArg (fun o => Except.ok (Instr.imaxS o)) (op3_back a0 _)) rest
theorem iminN a0 : Statement (.iminN a0) := fun _ rest => word3_back (fun x hx => by unfold decode32; rw [hx]; exact congrArg (fun o => Except.ok (Instr.iminN o)) (op3_back a0 _)) rest
theorem imaxN a0 : Statement (.imaxN a0) := fun _ rest => word3_back (fun x hx => by unfold decode32; rw [hx]; exact congrArg (fun o => Except.ok (Instr.imaxN o)) (op3_back a0 _)) rest
theorem fadd a0 : Statement (.fadd a0) := fun _ rest => word3_back (fun x hx => by unfold decode32; rw [hx]; exact congrArg (fun o => Except.ok (Instr.fadd o)) (op3_back a0 _)) rest
theorem fsub a0 : Statement (.fsub a0) := fun _ rest => word3_back (fun x hx => by unfold decode32; rw [hx]; exact congrArg (fun o => Except.ok (Instr.fsub o)) (op3_back a0 _)) rest
theorem fmul a0 : Statement (.fmul a0) := fun _ rest => word3_back (fun x hx => by unfold decode32; rw [hx]; exact congrArg (fun o => Except.ok (Instr.fmul o)) (op3_back a0 _)) rest
theorem ffma a0 : Statement (.ffma a0) := fun _ rest => word3_back (fun x hx => by unfold decode32; rw [hx]; exact congrArg (fun o => Except.ok (Instr.ffma o)) (op3_back a0 _)) rest
theorem fmin a0 : Statement (.fmin a0) := fun _ rest => word3_back (fun x hx => by unfold decode32; rw [hx]; exact congrArg (fun o => Except.ok (Instr.fmin o)) (op3_back a0 _)) rest
theorem fmax a0 : Statement (.fmax a0) := fun _ rest => word3_back (fun x hx => by unfold decode32; rw [hx]; exact congrArg (fun o => Except.ok (Instr.fmax o)) (op3_back a0 _)) rest
theorem dadd a0 : Statement (.dadd a0) := fun _ rest => word3_back (fun x hx => by unfold decode32; rw [hx]; exact congrArg (fun o => Except.ok (Instr.dadd o)) (op3_back a0 _)) rest
theorem dsub a0 : Statement (.dsub a0) := fun _ rest => word3_back (fun x hx => by unfold decode32; rw [hx]; exact congrArg (fun o => Except.ok (Instr.dsub o)) (op3_back a0 _)) rest
theorem dmul a0 : Statement (.dmul a0) := fun _ rest => word3_back (fun x hx => by unfold decode32; rw [hx]; exact congrArg (fun o => Except.ok (Instr.dmul o)) (op3_back a0 _)) rest
theorem dfma a0 : Statement (.dfma a0) := fun _ rest => word3_back (fun x hx => by unfold decode32; rw [hx]; exact congrArg (fun o => Except.ok (Instr.dfma o)) (op3_back a0 _)) rest
theorem dmin a0 : Statement (.dmin a0) := fun _ rest => word3_back (fun x hx => by unfold decode32; rw [hx]; exact congrArg (fun o => Except.ok (Instr.dmin o)) (op3_back a0 _)) rest
theorem dmax a0 : Statement (.dmax a0) := fun _ rest => word3_back (fun x hx => by unfold decode32; rw [hx]; exact congrArg (fun o => Except.ok (Instr.dmax o)) (op3_back a0 _)) rest
theorem hadd a0 : Statement (.hadd a0) := fun _ rest => word3_back (fun x hx => by unfold decode32; rw [hx]; exact congrArg (fun o => Except.ok (Instr.hadd o)) (op3_back a0 _)) rest
theorem hmul a0 : Statement (.hmul a0) := fun _ rest => word3_back (fun x hx => by unfold decode32; rw [hx]; exact congrArg (fun o => Except.ok (Instr.hmul o)) (op3_back a0 _)) rest
theorem hfma a0 : Statement (.hfma a0) := fun _ rest => word3_back (fun x hx => by unfold decode32; rw [hx]; exact congrArg (fun o => Except.ok (Instr.hfma o)) (op3_back a0 _)) rest
theorem badd a0 : Statement (.badd a0) := fun _ rest => word3_back (fun x hx => by unfold decode32; rw [hx]; exact congrArg (fun o => Except.ok (Instr.badd o)) (op3_back a0 _)) rest
theorem bmul a0 : Statement (.bmul a0) := fun _ rest => word3_back (fun x hx => by unfold decode32; rw [hx]; exact congrArg (fun o => Except.ok (Instr.bmul o)) (op3_back a0 _)) rest
theorem bfma a0 : Statement (.bfma a0) := fun _ rest => word3_back (fun x hx => by unfold decode32; rw [hx]; exact congrArg (fun o => Except.ok (Instr.bfma o)) (op3_back a0 _)) rest
theorem icmpS a0 : Statement (.icmpS a0) := fun _ rest => word3_back (fun x hx => by unfold decode32; rw [hx]; exact icmp_back a0 _ _ Instr.icmpS) rest
theorem icmpN a0 : Statement (.icmpN a0) := fun _ rest => word3_back (fun x hx => by unfold decode32; rw [hx]; exact icmp_back a0 _ _ Instr.icmpN) rest
theorem fcmp a0 : Statement (.fcmp a0) := fun _ rest => word3_back (fun x hx => by unfold decode32; rw [hx]; exact congrArg (fun o => Except.ok (Instr.fcmp o)) (fcmp_back a0 _ _)) rest
theorem dcmp a0 : Statement (.dcmp a0) := fun _ rest => word3_back (fun x hx => by unfold decode32; rw [hx]; exact congrArg (fun o => Except.ok (Instr.dcmp o)) (fcmp_back a0 _ _)) rest
theorem sel a0 : Statement (.sel a0) := fun _ rest => word3_back (fun x hx => by unfold decode32; rw [hx]; exact congrArg (fun o => Except.ok (Instr.sel o)) (op3_back a0 _)) rest
theorem ld8 a0 : Statement (.ld8 a0) := fun _ rest => word3_back (fun x hx => by unfold decode32; rw [hx]; exact congrArg (fun o => Except.ok (Instr.ld8 o)) (mem_back a0 _)) rest
theorem ld16 a0 : Statement (.ld16 a0) := fun _ rest => word3_back (fun x hx => by unfold decode32; rw [hx]; exact congrArg (fun o => Except.ok (Instr.ld16 o)) (mem_back a0 _)) rest
theorem ld32 a0 : Statement (.ld32 a0) := fun _ rest => word3_back (fun x hx => by unfold decode32; rw [hx]; exact congrArg (fun o => Except.ok (Instr.ld32 o)) (mem_back a0 _)) rest
theorem ld64 a0 : Statement (.ld64 a0) := fun _ rest => word3_back (fun x hx => by unfold decode32; rw [hx]; exact congrArg (fun o => Except.ok (Instr.ld64 o)) (mem_back a0 _)) rest
theorem ld8S a0 : Statement (.ld8S a0) := fun _ rest => word3_back (fun x hx => by unfold decode32; rw [hx]; exact congrArg (fun o => Except.ok (Instr.ld8S o)) (mem_back a0 _)) rest
theorem ld16S a0 : Statement (.ld16S a0) := fun _ rest => word3_back (fun x hx => by unfold decode32; rw [hx]; exact congrArg (fun o => Except.ok (Instr.ld16S o)) (mem_back a0 _)) rest
theorem ld32S a0 : Statement (.ld32S a0) := fun _ rest => word3_back (fun x hx => by unfold decode32; rw [hx]; exact congrArg (fun o => Except.ok (Instr.ld32S o)) (mem_back a0 _)) rest
theorem st8 a0 : Statement (.st8 a0) := fun _ rest => word3_back (fun x hx => by unfold decode32; rw [hx]; exact congrArg (fun o => Except.ok (Instr.st8 o)) (mem_back a0 _)) rest
theorem st16 a0 : Statement (.st16 a0) := fun _ rest => word3_back (fun x hx => by unfold decode32; rw [hx]; exact congrArg (fun o => Except.ok (Instr.st16 o)) (mem_back a0 _)) rest
theorem st32 a0 : Statement (.st32 a0) := fun _ rest => word3_back (fun x hx => by unfold decode32; rw [hx]; exact congrArg (fun o => Except.ok (Instr.st32 o)) (mem_back a0 _)) rest
theorem st64 a0 : Statement (.st64 a0) := fun _ rest => word3_back (fun x hx => by unfold decode32; rw [hx]; exact congrArg (fun o => Except.ok (Instr.st64 o)) (mem_back a0 _)) rest
theorem ldacq a0 : Statement (.ldacq a0) := fun _ rest => word3_back (fun x hx => by unfold decode32; rw [hx]; exact acq_back a0 _) rest
theorem strel a0 : Statement (.strel a0) := fun _ rest => word3_back (fun x hx => by unfold decode32; rw [hx]; exact rel_back a0 _) rest
theorem atomAdd a0 : Statement (.atomAdd a0) := fun _ rest => word3_back (fun x hx => by unfold decode32; rw [hx]; exact (atom_back ⟨0, by decide⟩ a0 _)) rest
theorem atomAnd a0 : Statement (.atomAnd a0) := fun _ rest => word3_back (fun x hx => by unfold decode32; rw [hx]; exact (atom_back ⟨1, by decide⟩ a0 _)) rest
theorem atomOr a0 : Statement (.atomOr a0) := fun _ rest => word3_back (fun x hx => by unfold decode32; rw [hx]; exact (atom_back ⟨2, by decide⟩ a0 _)) rest
theorem atomXor a0 : Statement (.atomXor a0) := fun _ rest => word3_back (fun x hx => by unfold decode32; rw [hx]; exact (atom_back ⟨3, by decide⟩ a0 _)) rest
theorem atomMinS a0 : Statement (.atomMinS a0) := fun _ rest => word3_back (fun x hx => by unfold decode32; rw [hx]; exact (atom_back ⟨4, by decide⟩ a0 _)) rest
theorem atomMaxS a0 : Statement (.atomMaxS a0) := fun _ rest => word3_back (fun x hx => by unfold decode32; rw [hx]; exact (atom_back ⟨5, by decide⟩ a0 _)) rest
theorem atomMinN a0 : Statement (.atomMinN a0) := fun _ rest => word3_back (fun x hx => by unfold decode32; rw [hx]; exact (atom_back ⟨6, by decide⟩ a0 _)) rest
theorem atomMaxN a0 : Statement (.atomMaxN a0) := fun _ rest => word3_back (fun x hx => by unfold decode32; rw [hx]; exact (atom_back ⟨7, by decide⟩ a0 _)) rest
theorem atomXchg a0 : Statement (.atomXchg a0) := fun _ rest => word3_back (fun x hx => by unfold decode32; rw [hx]; exact (atom_back ⟨8, by decide⟩ a0 _)) rest
theorem atomCas a0 : Statement (.atomCas a0) := fun _ rest => word3_back (fun x hx => by unfold decode32; rw [hx]; exact (atom_back ⟨9, by decide⟩ a0 _)) rest
theorem atomFadd a0 : Statement (.atomFadd a0) := fun _ rest => word3_back (fun x hx => by unfold decode32; rw [hx]; exact (atom_back ⟨10, by decide⟩ a0 _)) rest
theorem atomIncw a0 : Statement (.atomIncw a0) := fun _ rest => word3_back (fun x hx => by unfold decode32; rw [hx]; exact (atom_back ⟨11, by decide⟩ a0 _)) rest
theorem atomCasPromote a0 : Statement (.atomCasPromote a0) := fun _ rest => word3_back (fun x hx => by unfold decode32; rw [hx]; exact (atom_back ⟨12, by decide⟩ a0 _)) rest
theorem atomHacc a0 : Statement (.atomHacc a0) := fun _ rest => word3_back (fun x hx => by unfold decode32; rw [hx]; exact hacc_word a0) rest
theorem br a0 : Statement (.br a0) := fun _ rest => by
  obtain ⟨h1, h2, h3⟩ := br_back 0x3C (by decide) a0
  refine (decodeParcels_parcels32 h3 rest).trans ?_
  unfold decode32
  dsimp only
  rw [h2]
  exact congrArg (fun o => Except.ok (Instr.br o)) h1
theorem call a0 : Statement (.call a0) := fun _ rest => by
  obtain ⟨h1, h2, h3⟩ := br_back 0x3D (by decide) a0
  refine (decodeParcels_parcels32 h3 rest).trans ?_
  unfold decode32
  dsimp only
  rw [h2]
  exact congrArg (fun o => Except.ok (Instr.call o)) h1
theorem imx a0 : Statement (.imx a0) := fun _ rest => by
  obtain ⟨h1, h2, h3⟩ := imx_back a0
  refine (decodeParcels_parcels32 h3 rest).trans ?_
  unfold decode32
  dsimp only
  rw [h2]
  exact congrArg (fun o => Except.ok (Instr.imx o)) h1
theorem ill : Statement .ill := by intro h; exact absurd h (by simp [WellFormed])
theorem illParcel : Statement .illParcel := by intro h; exact absurd h (by simp [WellFormed])
theorem mov a0 : Statement (.mov a0) := fun _ rest => xop_back (by exact congrArg (fun o => Except.ok (Instr.mov o)) (op2_back a0 _ _)) rest
theorem notOp a0 : Statement (.notOp a0) := fun _ rest => xop_back (by exact congrArg (fun o => Except.ok (Instr.notOp o)) (op2_back a0 _ _)) rest
theorem negOp a0 : Statement (.negOp a0) := fun _ rest => xop_back (by exact congrArg (fun o => Except.ok (Instr.negOp o)) (op2_back a0 _ _)) rest
theorem absOp a0 : Statement (.absOp a0) := fun _ rest => xop_back (by exact congrArg (fun o => Except.ok (Instr.absOp o)) (op2_back a0 _ _)) rest
theorem popc a0 : Statement (.popc a0) := fun _ rest => xop_back (by exact congrArg (fun o => Except.ok (Instr.popc o)) (op2_back a0 _ _)) rest
theorem clz a0 : Statement (.clz a0) := fun _ rest => xop_back (by exact congrArg (fun o => Except.ok (Instr.clz o)) (op2_back a0 _ _)) rest
theorem ctz a0 : Statement (.ctz a0) := fun _ rest => xop_back (by exact congrArg (fun o => Except.ok (Instr.ctz o)) (op2_back a0 _ _)) rest
theorem brev a0 : Statement (.brev a0) := fun _ rest => xop_back (by exact congrArg (fun o => Except.ok (Instr.brev o)) (op2_back a0 _ _)) rest
theorem bswap a0 : Statement (.bswap a0) := fun _ rest => xop_back (by exact congrArg (fun o => Except.ok (Instr.bswap o)) (op2_back a0 _ _)) rest
theorem sx8 a0 : Statement (.sx8 a0) := fun _ rest => xop_back (by exact congrArg (fun o => Except.ok (Instr.sx8 o)) (op2_back a0 _ _)) rest
theorem sx16 a0 : Statement (.sx16 a0) := fun _ rest => xop_back (by exact congrArg (fun o => Except.ok (Instr.sx16 o)) (op2_back a0 _ _)) rest
theorem sx32 a0 : Statement (.sx32 a0) := fun _ rest => xop_back (by exact congrArg (fun o => Except.ok (Instr.sx32 o)) (op2_back a0 _ _)) rest
theorem zx8 a0 : Statement (.zx8 a0) := fun _ rest => xop_back (by exact congrArg (fun o => Except.ok (Instr.zx8 o)) (op2_back a0 _ _)) rest
theorem zx16 a0 : Statement (.zx16 a0) := fun _ rest => xop_back (by exact congrArg (fun o => Except.ok (Instr.zx16 o)) (op2_back a0 _ _)) rest
theorem zx32 a0 : Statement (.zx32 a0) := fun _ rest => xop_back (by exact congrArg (fun o => Except.ok (Instr.zx32 o)) (op2_back a0 _ _)) rest
/-- MOVS has one function code for each special register. -/
theorem movs_fn (b a d maj w gn gp) (k : Fin 14) (h : b = BitVec.ofNat 7 (0x10 + k.1)) : Fields.xop ⟨b, a, d, maj, w, gn, gp⟩ = Fields.movs ⟨b, a, d, maj, w, gn, gp⟩ k := by
  subst h
  match k with
  | ⟨0, _⟩ => rfl | ⟨1, _⟩ => rfl | ⟨2, _⟩ => rfl | ⟨3, _⟩ => rfl | ⟨4, _⟩ => rfl | ⟨5, _⟩ => rfl | ⟨6, _⟩ => rfl
  | ⟨7, _⟩ => rfl | ⟨8, _⟩ => rfl | ⟨9, _⟩ => rfl | ⟨10, _⟩ => rfl | ⟨11, _⟩ => rfl | ⟨12, _⟩ => rfl | ⟨13, _⟩ => rfl
theorem movs a0 : Statement (.movs a0) := fun _ rest => xop_back (by exact (movs_fn _ _ _ _ _ _ _ a0.id rfl).trans (movs_back a0 _ _)) rest
theorem urd a0 : Statement (.urd a0) := fun _ rest => xop_back (by exact congrArg (fun o => Except.ok (Instr.urd o)) (op2_back a0 _ _)) rest
theorem uwr a0 : Statement (.uwr a0) := fun _ rest => xop_back (by exact congrArg (fun o => Except.ok (Instr.uwr o)) (opX_back a0 _ _ _)) rest
theorem fneg a0 : Statement (.fneg a0) := fun _ rest => xop_back (by exact congrArg (fun o => Except.ok (Instr.fneg o)) (op2_back a0 _ _)) rest
theorem fabs a0 : Statement (.fabs a0) := fun _ rest => xop_back (by exact congrArg (fun o => Except.ok (Instr.fabs o)) (op2_back a0 _ _)) rest
theorem dneg a0 : Statement (.dneg a0) := fun _ rest => xop_back (by exact congrArg (fun o => Except.ok (Instr.dneg o)) (op2_back a0 _ _)) rest
theorem dabs a0 : Statement (.dabs a0) := fun _ rest => xop_back (by exact congrArg (fun o => Except.ok (Instr.dabs o)) (op2_back a0 _ _)) rest
theorem frcp a0 : Statement (.frcp a0) := fun _ rest => xop_back (by exact congrArg (fun o => Except.ok (Instr.frcp o)) (op2_back a0 _ _)) rest
theorem frsq a0 : Statement (.frsq a0) := fun _ rest => xop_back (by exact congrArg (fun o => Except.ok (Instr.frsq o)) (op2_back a0 _ _)) rest
theorem fsqrt a0 : Statement (.fsqrt a0) := fun _ rest => xop_back (by exact congrArg (fun o => Except.ok (Instr.fsqrt o)) (op2_back a0 _ _)) rest
theorem fex2 a0 : Statement (.fex2 a0) := fun _ rest => xop_back (by exact congrArg (fun o => Except.ok (Instr.fex2 o)) (op2_back a0 _ _)) rest
theorem flg2 a0 : Statement (.flg2 a0) := fun _ rest => xop_back (by exact congrArg (fun o => Except.ok (Instr.flg2 o)) (op2_back a0 _ _)) rest
theorem drcp a0 : Statement (.drcp a0) := fun _ rest => xop_back (by exact congrArg (fun o => Except.ok (Instr.drcp o)) (op2_back a0 _ _)) rest
theorem dsqrt a0 : Statement (.dsqrt a0) := fun _ rest => xop_back (by exact congrArg (fun o => Except.ok (Instr.dsqrt o)) (op2_back a0 _ _)) rest
theorem drsq a0 : Statement (.drsq a0) := fun _ rest => xop_back (by exact congrArg (fun o => Except.ok (Instr.drsq o)) (op2_back a0 _ _)) rest
theorem fscale a0 : Statement (.fscale a0) := fun _ rest => xop_back (by exact congrArg (fun o => Except.ok (Instr.fscale o)) (op2_back a0 _ _)) rest
theorem dscale a0 : Statement (.dscale a0) := fun _ rest => xop_back (by exact congrArg (fun o => Except.ok (Instr.dscale o)) (op2_back a0 _ _)) rest
theorem fxpn a0 : Statement (.fxpn a0) := fun _ rest => xop_back (by exact congrArg (fun o => Except.ok (Instr.fxpn o)) (op2_back a0 _ _)) rest
theorem dxpn a0 : Statement (.dxpn a0) := fun _ rest => xop_back (by exact congrArg (fun o => Except.ok (Instr.dxpn o)) (op2_back a0 _ _)) rest
theorem ex2s a0 : Statement (.ex2s a0) := fun _ rest => xop_back (by exact congrArg (fun o => Except.ok (Instr.ex2s o)) (op2_back a0 _ _)) rest
theorem frintRn a0 : Statement (.frintRn a0) := fun _ rest => xop_back (by exact congrArg (fun o => Except.ok (Instr.frintRn o)) (op2_back a0 _ _)) rest
theorem frintRz a0 : Statement (.frintRz a0) := fun _ rest => xop_back (by exact congrArg (fun o => Except.ok (Instr.frintRz o)) (op2_back a0 _ _)) rest
theorem frintRm a0 : Statement (.frintRm a0) := fun _ rest => xop_back (by exact congrArg (fun o => Except.ok (Instr.frintRm o)) (op2_back a0 _ _)) rest
theorem frintRp a0 : Statement (.frintRp a0) := fun _ rest => xop_back (by exact congrArg (fun o => Except.ok (Instr.frintRp o)) (op2_back a0 _ _)) rest
theorem drintRn a0 : Statement (.drintRn a0) := fun _ rest => xop_back (by exact congrArg (fun o => Except.ok (Instr.drintRn o)) (op2_back a0 _ _)) rest
theorem drintRz a0 : Statement (.drintRz a0) := fun _ rest => xop_back (by exact congrArg (fun o => Except.ok (Instr.drintRz o)) (op2_back a0 _ _)) rest
theorem drintRm a0 : Statement (.drintRm a0) := fun _ rest => xop_back (by exact congrArg (fun o => Except.ok (Instr.drintRm o)) (op2_back a0 _ _)) rest
theorem drintRp a0 : Statement (.drintRp a0) := fun _ rest => xop_back (by exact congrArg (fun o => Except.ok (Instr.drintRp o)) (op2_back a0 _ _)) rest
theorem cvtF64F32 a0 : Statement (.cvtF64F32 a0) := fun _ rest => xop_back (by exact congrArg (fun o => Except.ok (Instr.cvtF64F32 o)) (op2_back a0 _ _)) rest
theorem cvtF32F64 a0 : Statement (.cvtF32F64 a0) := fun _ rest => xop_back (by exact congrArg (fun o => Except.ok (Instr.cvtF32F64 o)) (op2_back a0 _ _)) rest
theorem cvtF16F32 a0 : Statement (.cvtF16F32 a0) := fun _ rest => xop_back (by exact congrArg (fun o => Except.ok (Instr.cvtF16F32 o)) (op2_back a0 _ _)) rest
theorem cvtBf16F32 a0 : Statement (.cvtBf16F32 a0) := fun _ rest => xop_back (by exact congrArg (fun o => Except.ok (Instr.cvtBf16F32 o)) (op2_back a0 _ _)) rest
theorem cvtF32F16 a0 : Statement (.cvtF32F16 a0) := fun _ rest => xop_back (by exact congrArg (fun o => Except.ok (Instr.cvtF32F16 o)) (op2_back a0 _ _)) rest
theorem cvtF32Bf16 a0 : Statement (.cvtF32Bf16 a0) := fun _ rest => xop_back (by exact congrArg (fun o => Except.ok (Instr.cvtF32Bf16 o)) (op2_back a0 _ _)) rest
theorem cvtF32S64 a0 : Statement (.cvtF32S64 a0) := fun _ rest => xop_back (by exact congrArg (fun o => Except.ok (Instr.cvtF32S64 o)) (op2_back a0 _ _)) rest
theorem cvtF32N64 a0 : Statement (.cvtF32N64 a0) := fun _ rest => xop_back (by exact congrArg (fun o => Except.ok (Instr.cvtF32N64 o)) (op2_back a0 _ _)) rest
theorem cvtF64S64 a0 : Statement (.cvtF64S64 a0) := fun _ rest => xop_back (by exact congrArg (fun o => Except.ok (Instr.cvtF64S64 o)) (op2_back a0 _ _)) rest
theorem cvtF64N64 a0 : Statement (.cvtF64N64 a0) := fun _ rest => xop_back (by exact congrArg (fun o => Except.ok (Instr.cvtF64N64 o)) (op2_back a0 _ _)) rest
theorem cvtS32F32 a0 : Statement (.cvtS32F32 a0) := fun _ rest => xop_back (by exact congrArg (fun o => Except.ok (Instr.cvtS32F32 o)) (op2_back a0 _ _)) rest
theorem cvtN32F32 a0 : Statement (.cvtN32F32 a0) := fun _ rest => xop_back (by exact congrArg (fun o => Except.ok (Instr.cvtN32F32 o)) (op2_back a0 _ _)) rest
theorem cvtS64F32 a0 : Statement (.cvtS64F32 a0) := fun _ rest => xop_back (by exact congrArg (fun o => Except.ok (Instr.cvtS64F32 o)) (op2_back a0 _ _)) rest
theorem cvtN64F32 a0 : Statement (.cvtN64F32 a0) := fun _ rest => xop_back (by exact congrArg (fun o => Except.ok (Instr.cvtN64F32 o)) (op2_back a0 _ _)) rest
theorem cvtS32F64 a0 : Statement (.cvtS32F64 a0) := fun _ rest => xop_back (by exact congrArg (fun o => Except.ok (Instr.cvtS32F64 o)) (op2_back a0 _ _)) rest
theorem cvtN32F64 a0 : Statement (.cvtN32F64 a0) := fun _ rest => xop_back (by exact congrArg (fun o => Except.ok (Instr.cvtN32F64 o)) (op2_back a0 _ _)) rest
theorem cvtS64F64 a0 : Statement (.cvtS64F64 a0) := fun _ rest => xop_back (by exact congrArg (fun o => Except.ok (Instr.cvtS64F64 o)) (op2_back a0 _ _)) rest
theorem cvtN64F64 a0 : Statement (.cvtN64F64 a0) := fun _ rest => xop_back (by exact congrArg (fun o => Except.ok (Instr.cvtN64F64 o)) (op2_back a0 _ _)) rest
theorem elect a0 : Statement (.elect a0) := fun _ rest => xop_back (by exact opD_back a0 _ _ _ Instr.elect) rest
theorem vany a0 : Statement (.vany a0) := fun _ rest => xop_back (by exact congrArg (fun o => Except.ok (Instr.vany o)) (opX_back a0 _ _ _)) rest
theorem vall a0 : Statement (.vall a0) := fun _ rest => xop_back (by exact congrArg (fun o => Except.ok (Instr.vall o)) (opX_back a0 _ _ _)) rest
theorem vbal a0 : Statement (.vbal a0) := fun _ rest => xop_back (by exact congrArg (fun o => Except.ok (Instr.vbal o)) (opX_back a0 _ _ _)) rest
theorem shfi a0 : Statement (.shfi a0) := fun _ rest => xop_back (by exact congrArg (fun o => Except.ok (Instr.shfi o)) (opX_back a0 _ _ _)) rest
theorem shfa a0 : Statement (.shfa a0) := fun _ rest => xop_back (by exact congrArg (fun o => Except.ok (Instr.shfa o)) (opX_back a0 _ _ _)) rest
theorem shfb a0 : Statement (.shfb a0) := fun _ rest => xop_back (by exact congrArg (fun o => Except.ok (Instr.shfb o)) (opX_back a0 _ _ _)) rest
theorem shfx a0 : Statement (.shfx a0) := fun _ rest => xop_back (by exact congrArg (fun o => Except.ok (Instr.shfx o)) (opX_back a0 _ _ _)) rest
theorem radd a0 : Statement (.radd a0) := fun _ rest => xop_back (by exact congrArg (fun o => Except.ok (Instr.radd o)) (opX_back a0 _ _ _)) rest
theorem rminS a0 : Statement (.rminS a0) := fun _ rest => xop_back (by exact congrArg (fun o => Except.ok (Instr.rminS o)) (opX_back a0 _ _ _)) rest
theorem rmaxS a0 : Statement (.rmaxS a0) := fun _ rest => xop_back (by exact congrArg (fun o => Except.ok (Instr.rmaxS o)) (opX_back a0 _ _ _)) rest
theorem rfadd a0 : Statement (.rfadd a0) := fun _ rest => xop_back (by exact congrArg (fun o => Except.ok (Instr.rfadd o)) (opX_back a0 _ _ _)) rest
theorem rdadd a0 : Statement (.rdadd a0) := fun _ rest => xop_back (by exact congrArg (fun o => Except.ok (Instr.rdadd o)) (opX_back a0 _ _ _)) rest
theorem scan a0 : Statement (.scan a0) := fun _ rest => xop_back (by exact congrArg (fun o => Except.ok (Instr.scan o)) (opX_back a0 _ _ _)) rest
theorem matchOp a0 : Statement (.matchOp a0) := fun _ rest => xop_back (by exact congrArg (fun o => Except.ok (Instr.matchOp o)) (opX_back a0 _ _ _)) rest
theorem gpart a0 : Statement (.gpart a0) := fun _ rest => xop_back (by exact opA_back a0 _ _ _ Instr.gpart) rest
theorem nop a0 : Statement (.nop a0) := fun _ rest => xop_back (by exact opG_back a0 _ _ _ Instr.nop) rest
theorem exit a0 : Statement (.exit a0) := fun _ rest => xop_back (by exact opA_back a0 _ _ _ Instr.exit) rest
theorem brk a0 : Statement (.brk a0) := fun _ rest => xop_back (by exact opG_back a0 _ _ _ Instr.brk) rest
theorem trap a0 : Statement (.trap a0) := fun _ rest => xop_back (by exact opA_back a0 _ _ _ Instr.trap) rest
theorem yield a0 : Statement (.yield a0) := fun _ rest => xop_back (by exact opG_back a0 _ _ _ Instr.yield) rest
theorem rgn a0 : Statement (.rgn a0) := fun _ rest => xop_back (by exact opG_back a0 _ _ _ Instr.rgn) rest
theorem bnd a0 : Statement (.bnd a0) := fun _ rest => xop_back (by exact opG_back a0 _ _ _ Instr.bnd) rest
theorem fenceGrp a0 : Statement (.fenceGrp a0) := fun _ rest => xop_back (by exact opG_back a0 _ _ _ Instr.fenceGrp) rest
theorem fenceCore a0 : Statement (.fenceCore a0) := fun _ rest => xop_back (by exact opG_back a0 _ _ _ Instr.fenceCore) rest
theorem fenceDie a0 : Statement (.fenceDie a0) := fun _ rest => xop_back (by exact opG_back a0 _ _ _ Instr.fenceDie) rest
theorem fenceDev a0 : Statement (.fenceDev a0) := fun _ rest => xop_back (by exact opG_back a0 _ _ _ Instr.fenceDev) rest
theorem fenceSys a0 : Statement (.fenceSys a0) := fun _ rest => xop_back (by exact opG_back a0 _ _ _ Instr.fenceSys) rest
theorem ofence a0 : Statement (.ofence a0) := fun _ rest => xop_back (by exact opG_back a0 _ _ _ Instr.ofence) rest
theorem barArr a0 : Statement (.barArr a0) := fun _ rest => xop_back (by exact opS_back (by decide) a0 _ _ _ Instr.barArr) rest
theorem barWait a0 : Statement (.barWait a0) := fun _ rest => xop_back (by exact opS_back (by decide) a0 _ _ _ Instr.barWait) rest
theorem barSync a0 : Statement (.barSync a0) := fun _ rest => xop_back (by exact opS_back (by decide) a0 _ _ _ Instr.barSync) rest
theorem barInit a0 : Statement (.barInit a0) := fun _ rest => xop_back (by exact opI_back (by decide) a0 _ _ _ Instr.barInit) rest
theorem wait a0 : Statement (.wait a0) := fun _ rest => xop_back (by exact congrArg (fun o => Except.ok (Instr.wait o)) (opX_back a0 _ _ _)) rest
theorem cpy a0 : Statement (.cpy a0) := fun _ rest => xop_back (by exact opI_back (by decide) a0 _ _ _ Instr.cpy) rest
theorem gath a0 : Statement (.gath a0) := fun _ rest => xop_back (by exact opI_back (by decide) a0 _ _ _ Instr.gath) rest
theorem mxl a0 : Statement (.mxl a0) := fun _ rest => xop_back (by exact congrArg (fun o => Except.ok (Instr.mxl o)) (opX_back a0 _ _ _)) rest
theorem ores a0 : Statement (.ores a0) := fun _ rest => xop_back (by exact congrArg (fun o => Except.ok (Instr.ores o)) (opX_back a0 _ _ _)) rest
theorem orls a0 : Statement (.orls a0) := fun _ rest => xop_back (by exact opA_back a0 _ _ _ Instr.orls) rest
theorem strm a0 : Statement (.strm a0) := fun _ rest => xop_back (by exact opI_back (by decide) a0 _ _ _ Instr.strm) rest
theorem jmpi a0 : Statement (.jmpi a0) := fun _ rest => xop_back (by exact opA_back a0 _ _ _ Instr.jmpi) rest
theorem calli a0 : Statement (.calli a0) := fun _ rest => xop_back (by exact opA_back a0 _ _ _ Instr.calli) rest
theorem ret a0 : Statement (.ret a0) := fun _ rest => xop_back (by exact opG_back a0 _ _ _ Instr.ret) rest
theorem icinv a0 : Statement (.icinv a0) := fun _ rest => xop_back (by exact congrArg (fun o => Except.ok (Instr.icinv o)) (opX_back a0 _ _ _)) rest
theorem launch a0 : Statement (.launch a0) := fun _ rest => xop_back (by exact congrArg (fun o => Except.ok (Instr.launch o)) (opX_back a0 _ _ _)) rest
theorem cancel a0 : Statement (.cancel a0) := fun _ rest => xop_back (by exact opI_back (by decide) a0 _ _ _ Instr.cancel) rest
theorem specCommit a0 : Statement (.specCommit a0) := fun _ rest => xop_back (by exact congrArg (fun o => Except.ok (Instr.specCommit o)) (opAFields a0 _ _ _ _)) rest
theorem specDiscard a0 : Statement (.specDiscard a0) := fun _ rest => xop_back (by exact congrArg (fun o => Except.ok (Instr.specDiscard o)) (opAFields a0 _ _ _ _)) rest
theorem dbgHalt a0 : Statement (.dbgHalt a0) := fun _ rest => xop_back (by exact congrArg (fun o => Except.ok (Instr.dbgHalt o)) (opAFields a0 _ _ _ _)) rest
theorem dbgResume a0 : Statement (.dbgResume a0) := fun _ rest => xop_back (by exact congrArg (fun o => Except.ok (Instr.dbgResume o)) (opAFields a0 _ _ _ _)) rest
theorem dbgStep a0 : Statement (.dbgStep a0) := fun _ rest => xop_back (by exact congrArg (fun o => Except.ok (Instr.dbgStep o)) (opAFields a0 _ _ _ _)) rest
theorem dbgSetmask a0 : Statement (.dbgSetmask a0) := fun _ rest => xop_back (by exact congrArg (fun o => Except.ok (Instr.dbgSetmask o)) (opAFields a0 _ _ _ _)) rest
theorem dbgWset a0 : Statement (.dbgWset a0) := fun _ rest => xop_back (by exact congrArg (fun o => Except.ok (Instr.dbgWset o)) (opAFields a0 _ _ _ _)) rest
theorem dbgWclr a0 : Statement (.dbgWclr a0) := fun _ rest => xop_back (by exact congrArg (fun o => Except.ok (Instr.dbgWclr o)) (opAFields a0 _ _ _ _)) rest
theorem dbgStatus a0 : Statement (.dbgStatus a0) := fun _ rest => xop_back (by exact congrArg (fun o => Except.ok (Instr.dbgStatus o)) (opAFields a0 _ _ _ _)) rest
theorem dbgReadreg a0 : Statement (.dbgReadreg a0) := fun _ rest => xop_back (by exact congrArg (fun o => Except.ok (Instr.dbgReadreg o)) (opAFields a0 _ _ _ _)) rest
theorem dbgBpset a0 : Statement (.dbgBpset a0) := fun _ rest => xop_back (by exact congrArg (fun o => Except.ok (Instr.dbgBpset o)) (opAFields a0 _ _ _ _)) rest
theorem dbgBpclr a0 : Statement (.dbgBpclr a0) := fun _ rest => xop_back (by exact congrArg (fun o => Except.ok (Instr.dbgBpclr o)) (opAFields a0 _ _ _ _)) rest
theorem movCompact a0 : Statement (.movCompact a0) := fun h rest => by
  refine (compact_back (0 : Fin 16) a0.d a0.s.toBits (Or.inr ?_) rest).trans (congrArg (fun x => Except.ok (Instr.movCompact ⟨a0.d, x⟩)) (CSrc.ofBits_toBits a0.s))
  obtain ⟨d, s⟩ := a0
  by_cases hd : d = .v 0
  · right; intro hs; subst hd
    have e := CSrc.ofBits_toBits s
    rw [show s.toBits = 0 from hs] at e
    subst e
    exact absurd h (by decide)
  · exact Or.inl hd
theorem iaddCompact a0 : Statement (.iaddCompact a0) := fun _ rest => (compact_back (1 : Fin 16) a0.d a0.s.toBits (Or.inl (by decide)) rest).trans (congrArg (fun x => Except.ok (Instr.iaddCompact ⟨a0.d, x⟩)) (CSrc.ofBits_toBits a0.s))
theorem isubCompact a0 : Statement (.isubCompact a0) := fun _ rest => (compact_back (2 : Fin 16) a0.d a0.s.toBits (Or.inl (by decide)) rest).trans (congrArg (fun x => Except.ok (Instr.isubCompact ⟨a0.d, x⟩)) (CSrc.ofBits_toBits a0.s))
theorem iadd32Compact a0 : Statement (.iadd32Compact a0) := fun _ rest => (compact_back (3 : Fin 16) a0.d a0.s.toBits (Or.inl (by decide)) rest).trans (congrArg (fun x => Except.ok (Instr.iadd32Compact ⟨a0.d, x⟩)) (CSrc.ofBits_toBits a0.s))
theorem iaddi a0 : Statement (.iaddi a0) := fun _ rest => compact_back (4 : Fin 16) a0.d a0.imm (Or.inl (by decide)) rest
theorem andCompact a0 : Statement (.andCompact a0) := fun _ rest => (compact_back (5 : Fin 16) a0.d a0.s.toBits (Or.inl (by decide)) rest).trans (congrArg (fun x => Except.ok (Instr.andCompact ⟨a0.d, x⟩)) (CSrc.ofBits_toBits a0.s))
theorem orCompact a0 : Statement (.orCompact a0) := fun _ rest => (compact_back (6 : Fin 16) a0.d a0.s.toBits (Or.inl (by decide)) rest).trans (congrArg (fun x => Except.ok (Instr.orCompact ⟨a0.d, x⟩)) (CSrc.ofBits_toBits a0.s))
theorem xorCompact a0 : Statement (.xorCompact a0) := fun _ rest => (compact_back (7 : Fin 16) a0.d a0.s.toBits (Or.inl (by decide)) rest).trans (congrArg (fun x => Except.ok (Instr.xorCompact ⟨a0.d, x⟩)) (CSrc.ofBits_toBits a0.s))
theorem shli a0 : Statement (.shli a0) := fun _ rest => compact_back (8 : Fin 16) a0.d a0.imm (Or.inl (by decide)) rest
theorem shri a0 : Statement (.shri a0) := fun _ rest => compact_back (9 : Fin 16) a0.d a0.imm (Or.inl (by decide)) rest
theorem faddCompact a0 : Statement (.faddCompact a0) := fun _ rest => (compact_back (10 : Fin 16) a0.d a0.s.toBits (Or.inl (by decide)) rest).trans (congrArg (fun x => Except.ok (Instr.faddCompact ⟨a0.d, x⟩)) (CSrc.ofBits_toBits a0.s))
theorem fsubCompact a0 : Statement (.fsubCompact a0) := fun _ rest => (compact_back (11 : Fin 16) a0.d a0.s.toBits (Or.inl (by decide)) rest).trans (congrArg (fun x => Except.ok (Instr.fsubCompact ⟨a0.d, x⟩)) (CSrc.ofBits_toBits a0.s))
theorem fmulCompact a0 : Statement (.fmulCompact a0) := fun _ rest => (compact_back (12 : Fin 16) a0.d a0.s.toBits (Or.inl (by decide)) rest).trans (congrArg (fun x => Except.ok (Instr.fmulCompact ⟨a0.d, x⟩)) (CSrc.ofBits_toBits a0.s))
theorem fmaxCompact a0 : Statement (.fmaxCompact a0) := fun _ rest => (compact_back (13 : Fin 16) a0.d a0.s.toBits (Or.inl (by decide)) rest).trans (congrArg (fun x => Except.ok (Instr.fmaxCompact ⟨a0.d, x⟩)) (CSrc.ofBits_toBits a0.s))
theorem daddCompact a0 : Statement (.daddCompact a0) := fun _ rest => (compact_back (14 : Fin 16) a0.d a0.s.toBits (Or.inl (by decide)) rest).trans (congrArg (fun x => Except.ok (Instr.daddCompact ⟨a0.d, x⟩)) (CSrc.ofBits_toBits a0.s))
theorem dmulCompact a0 : Statement (.dmulCompact a0) := fun _ rest => (compact_back (15 : Fin 16) a0.d a0.s.toBits (Or.inl (by decide)) rest).trans (congrArg (fun x => Except.ok (Instr.dmulCompact ⟨a0.d, x⟩)) (CSrc.ofBits_toBits a0.s))
theorem censusRound a0 a1 : Statement (.censusRound a0 a1) := by intro h; exact absurd h (by simp [WellFormed])
theorem gangSeat a0 a1 : Statement (.gangSeat a0 a1) := by intro h; exact absurd h (by simp [WellFormed])
theorem gangUnseat a0 a1 a2 : Statement (.gangUnseat a0 a1 a2) := by intro h; exact absurd h (by simp [WellFormed])
theorem quantumDue a0 a1 a2 : Statement (.quantumDue a0 a1 a2) := by intro h; exact absurd h (by simp [WellFormed])
theorem yieldHoldEnd a0 : Statement (.yieldHoldEnd a0) := by intro h; exact absurd h (by simp [WellFormed])
theorem deprioritisationEnd a0 : Statement (.deprioritisationEnd a0) := by intro h; exact absurd h (by simp [WellFormed])
theorem prefetchFill a0 : Statement (.prefetchFill a0) := by intro h; exact absurd h (by simp [WellFormed])
theorem parkConditionHolds a0 : Statement (.parkConditionHolds a0) := by intro h; exact absurd h (by simp [WellFormed])
theorem loadReply a0 a1 : Statement (.loadReply a0 a1) := by intro h; exact absurd h (by simp [WellFormed])
theorem storePerform a0 a1 : Statement (.storePerform a0 a1) := by intro h; exact absurd h (by simp [WellFormed])
theorem collectorSend a0 a1 : Statement (.collectorSend a0 a1) := by intro h; exact absurd h (by simp [WellFormed])
theorem errorResponse a0 a1 : Statement (.errorResponse a0 a1) := by intro h; exact absurd h (by simp [WellFormed])
theorem waitRecheck a0 : Statement (.waitRecheck a0) := by intro h; exact absurd h (by simp [WellFormed])
theorem streamPrefetch a0 a1 : Statement (.streamPrefetch a0 a1) := by intro h; exact absurd h (by simp [WellFormed])
theorem streamOutDrain a0 a1 : Statement (.streamOutDrain a0 a1) := by intro h; exact absurd h (by simp [WellFormed])
theorem engineQueueAccept a0 a1 : Statement (.engineQueueAccept a0 a1) := by intro h; exact absurd h (by simp [WellFormed])
theorem copyRowTransfer a0 a1 a2 : Statement (.copyRowTransfer a0 a1 a2) := by intro h; exact absurd h (by simp [WellFormed])
theorem gatherElement a0 a1 a2 : Statement (.gatherElement a0 a1 a2) := by intro h; exact absurd h (by simp [WellFormed])
theorem probePass a0 a1 : Statement (.probePass a0 a1) := by intro h; exact absurd h (by simp [WellFormed])
theorem engineOpEnd a0 a1 : Statement (.engineOpEnd a0 a1) := by intro h; exact absurd h (by simp [WellFormed])
theorem watchdogTimeout a0 a1 : Statement (.watchdogTimeout a0 a1) := by intro h; exact absurd h (by simp [WellFormed])
theorem matrixQueueAccept a0 : Statement (.matrixQueueAccept a0) := by intro h; exact absurd h (by simp [WellFormed])
theorem jobEnterContext a0 : Statement (.jobEnterContext a0) := by intro h; exact absurd h (by simp [WellFormed])
theorem blockStep a0 : Statement (.blockStep a0) := by intro h; exact absurd h (by simp [WellFormed])
theorem jobEnd a0 a1 : Statement (.jobEnd a0 a1) := by intro h; exact absurd h (by simp [WellFormed])
theorem handleReturn a0 a1 : Statement (.handleReturn a0 a1) := by intro h; exact absurd h (by simp [WellFormed])
theorem allocationRelease a0 : Statement (.allocationRelease a0) := by intro h; exact absurd h (by simp [WellFormed])
theorem fqReplyResolve a0 : Statement (.fqReplyResolve a0) := by intro h; exact absurd h (by simp [WellFormed])
theorem fqReplyRefuse a0 : Statement (.fqReplyRefuse a0) := by intro h; exact absurd h (by simp [WellFormed])
theorem fqLimitExpiry a0 : Statement (.fqLimitExpiry a0) := by intro h; exact absurd h (by simp [WellFormed])
theorem fqTailWrite a0 : Statement (.fqTailWrite a0) := by intro h; exact absurd h (by simp [WellFormed])
theorem fqBaseWrite a0 : Statement (.fqBaseWrite a0) := by intro h; exact absurd h (by simp [WellFormed])
theorem fqSizeWrite a0 : Statement (.fqSizeWrite a0) := by intro h; exact absurd h (by simp [WellFormed])
theorem xinvStart a0 : Statement (.xinvStart a0) := by intro h; exact absurd h (by simp [WellFormed])
theorem xinvDone : Statement .xinvDone := by intro h; exact absurd h (by simp [WellFormed])
theorem sliceSizeChange a0 a1 : Statement (.sliceSizeChange a0 a1) := by intro h; exact absurd h (by simp [WellFormed])
theorem chTailWrite a0 a1 : Statement (.chTailWrite a0 a1) := by intro h; exact absurd h (by simp [WellFormed])
theorem chCtlRestart a0 a1 : Statement (.chCtlRestart a0 a1) := by intro h; exact absurd h (by simp [WellFormed])
theorem jobEntry a0 : Statement (.jobEntry a0) := by intro h; exact absurd h (by simp [WellFormed])
theorem graphEntry a0 : Statement (.graphEntry a0) := by intro h; exact absurd h (by simp [WellFormed])
theorem launchEntry a0 : Statement (.launchEntry a0) := by intro h; exact absurd h (by simp [WellFormed])
theorem phaseEntry a0 : Statement (.phaseEntry a0) := by intro h; exact absurd h (by simp [WellFormed])
theorem waitcEntry a0 : Statement (.waitcEntry a0) := by intro h; exact absurd h (by simp [WellFormed])
theorem endEntry a0 : Statement (.endEntry a0) := by intro h; exact absurd h (by simp [WellFormed])
theorem specEntryCommit a0 : Statement (.specEntryCommit a0) := by intro h; exact absurd h (by simp [WellFormed])
theorem specEntryDiscard a0 : Statement (.specEntryDiscard a0) := by intro h; exact absurd h (by simp [WellFormed])
theorem chainEntryRetire a0 : Statement (.chainEntryRetire a0) := by intro h; exact absurd h (by simp [WellFormed])
theorem unitStart a0 a1 : Statement (.unitStart a0 a1) := by intro h; exact absurd h (by simp [WellFormed])
theorem levelComplete a0 a1 : Statement (.levelComplete a0 a1) := by intro h; exact absurd h (by simp [WellFormed])
theorem preemption a0 : Statement (.preemption a0) := by intro h; exact absurd h (by simp [WellFormed])
theorem resumption a0 : Statement (.resumption a0) := by intro h; exact absurd h (by simp [WellFormed])
theorem hostApertureWrite a0 a1 : Statement (.hostApertureWrite a0 a1) := by intro h; exact absurd h (by simp [WellFormed])
theorem hostApertureRead a0 a1 : Statement (.hostApertureRead a0 a1) := by intro h; exact absurd h (by simp [WellFormed])
theorem flitReceive a0 a1 : Statement (.flitReceive a0 a1) := by intro h; exact absurd h (by simp [WellFormed])
theorem linkAckTimeout a0 : Statement (.linkAckTimeout a0) := by intro h; exact absurd h (by simp [WellFormed])
theorem linkTrainingDone a0 a1 a2 : Statement (.linkTrainingDone a0 a1 a2) := by intro h; exact absurd h (by simp [WellFormed])
theorem linkTakeDown a0 : Statement (.linkTakeDown a0) := by intro h; exact absurd h (by simp [WellFormed])
theorem linkAllowTrain a0 : Statement (.linkAllowTrain a0) := by intro h; exact absurd h (by simp [WellFormed])
theorem routeWrite a0 a1 : Statement (.routeWrite a0 a1) := by intro h; exact absurd h (by simp [WellFormed])
theorem epEventClear a0 : Statement (.epEventClear a0) := by intro h; exact absurd h (by simp [WellFormed])
theorem islandReset a0 : Statement (.islandReset a0) := by intro h; exact absurd h (by simp [WellFormed])
theorem mgmtResetComputeDie a0 : Statement (.mgmtResetComputeDie a0) := by intro h; exact absurd h (by simp [WellFormed])
theorem mgmtResetBaseDie a0 : Statement (.mgmtResetBaseDie a0) := by intro h; exact absurd h (by simp [WellFormed])
theorem mgmtResetHub a0 : Statement (.mgmtResetHub a0) := by intro h; exact absurd h (by simp [WellFormed])
theorem resetSequenceComplete : Statement .resetSequenceComplete := by intro h; exact absurd h (by simp [WellFormed])
theorem dmapWrite a0 : Statement (.dmapWrite a0) := by intro h; exact absurd h (by simp [WellFormed])
theorem dieHeartbeatMiss a0 : Statement (.dieHeartbeatMiss a0) := by intro h; exact absurd h (by simp [WellFormed])
theorem dieInternalError a0 : Statement (.dieInternalError a0) := by intro h; exact absurd h (by simp [WellFormed])
theorem spareSelfTestDone a0 : Statement (.spareSelfTestDone a0) := by intro h; exact absurd h (by simp [WellFormed])
theorem lostUnitRerun a0 : Statement (.lostUnitRerun a0) := by intro h; exact absurd h (by simp [WellFormed])
theorem aperBaseWrite a0 : Statement (.aperBaseWrite a0) := by intro h; exact absurd h (by simp [WellFormed])
theorem pwrClWrite a0 a1 : Statement (.pwrClWrite a0 a1) := by intro h; exact absurd h (by simp [WellFormed])
theorem ratioChangeComplete a0 : Statement (.ratioChangeComplete a0) := by intro h; exact absurd h (by simp [WellFormed])
theorem powerLimitStep a0 a1 : Statement (.powerLimitStep a0 a1) := by intro h; exact absurd h (by simp [WellFormed])
theorem droopDetect a0 : Statement (.droopDetect a0) := by intro h; exact absurd h (by simp [WellFormed])
theorem droopRecover a0 : Statement (.droopRecover a0) := by intro h; exact absurd h (by simp [WellFormed])
theorem holdStart a0 : Statement (.holdStart a0) := by intro h; exact absurd h (by simp [WellFormed])
theorem holdEnd a0 : Statement (.holdEnd a0) := by intro h; exact absurd h (by simp [WellFormed])
theorem tmrAlign a0 : Statement (.tmrAlign a0) := by intro h; exact absurd h (by simp [WellFormed])
theorem powerOnReset : Statement .powerOnReset := by intro h; exact absurd h (by simp [WellFormed])
theorem monitorSample a0 a1 : Statement (.monitorSample a0 a1) := by intro h; exact absurd h (by simp [WellFormed])
theorem monitorClr a0 : Statement (.monitorClr a0) := by intro h; exact absurd h (by simp [WellFormed])
theorem errorLogClear a0 : Statement (.errorLogClear a0) := by intro h; exact absurd h (by simp [WellFormed])
theorem managementLogClear : Statement .managementLogClear := by intro h; exact absurd h (by simp [WellFormed])
theorem attest a0 a1 : Statement (.attest a0 a1) := by intro h; exact absurd h (by simp [WellFormed])
theorem loadImage a0 a1 : Statement (.loadImage a0 a1) := by intro h; exact absurd h (by simp [WellFormed])
theorem readMeas a0 a1 : Statement (.readMeas a0 a1) := by intro h; exact absurd h (by simp [WellFormed])
theorem mailboxCompletion : Statement .mailboxCompletion := by intro h; exact absurd h (by simp [WellFormed])
theorem bar0BadAccess a0 : Statement (.bar0BadAccess a0) := by intro h; exact absurd h (by simp [WellFormed])
theorem registerWrite a0 a1 a2 : Statement (.registerWrite a0 a1 a2) := by intro h; exact absurd h (by simp [WellFormed])
theorem cancellationTakesEffect a0 : Statement (.cancellationTakesEffect a0) := by intro h; exact absurd h (by simp [WellFormed])
theorem sequencerCounterReread a0 : Statement (.sequencerCounterReread a0) := by intro h; exact absurd h (by simp [WellFormed])
theorem zeroLengthReadCompletion : Statement .zeroLengthReadCompletion := by intro h; exact absurd h (by simp [WellFormed])
theorem bar2Resize a0 : Statement (.bar2Resize a0) := by intro h; exact absurd h (by simp [WellFormed])
theorem unknownCommandCode a0 a1 : Statement (.unknownCommandCode a0 a1) := by intro h; exact absurd h (by simp [WellFormed])

end Sys2Proof.Laws.RoundTrip
end

