-- ==== Sys2Proof/Machine/Registers.lean ====
section
/-! DEFINITION. What a read of BAR0 gives: the read value of every register and log of its map (R71, R79, R316, R359, R362, R367, R369,
R373, R374, R376, R380, R384, R385, R392). -/

namespace Sys2Proof.Machine

/-- The 32 bytes of an error-log or management-log entry (R79, R385). -/
def LogEnt.bytes (e : LogEnt) : List Byte :=
  leBytes 8 e.addr.toNat ++ leBytes 1 e.cause ++ leBytes 1 e.kind ++ leBytes 2 e.who ++ leBytes 4 e.unit ++ leBytes 8 e.time
    ++ leBytes 4 (if e.dpa then 1 else 0) ++ leBytes 4 0

/-- A byte string as 8-byte registers, zero past its end. -/
def wordAt (bs : List Byte) (off : Nat) : Word := Word.ofN (field bs off 8)

/-- The device block (R374, R382, R392). -/
def Hub.deviceBlock (h : Hub) : Nat → Word
  | 0x00 => Word.ofN (Config.revision % 256 * 2 ^ 32 + 0xC300 * 2 ^ 16 + 0x0101)
  | 0x08 => Word.ofN h.pkgid
  | 0x10 => h.aperBase
  | 0x18 => Word.ofN ((if h.bootDone then 1 else 0) + 2 * h.bootStage)
  | _ => 0

/-- The translation control block (R71). -/
def Hub.translationBlock (h : Hub) : Nat → Word
  | 0x00 => h.xinvAsn
  | 0x08 => h.xinvVa
  | 0x10 => h.xinvLen
  | 0x18 => if h.xinvDone then 2 else 0
  | 0x20 => h.fqBase
  | 0x28 => h.fqSize
  | 0x30 => Word.ofN h.fqHead
  | 0x38 => Word.ofN h.fqTail
  | 0x48 => h.fqLimit
  | _ => 0

/-- A chain's block (R316). -/
def Chain.block (c : Chain) : Nat → Word
  | 0x00 => c.base
  | 0x08 => c.size
  | 0x10 => c.tail
  | 0x18 => Word.ofN c.head
  | 0x20 => c.prog
  | 0x28 => Word.ofN (c.stat + c.reason * 2 ^ 8 + c.ereason * 2 ^ 16)
  | _ => 0

/-- LNK_CTL: the ports that are taken down (R359). -/
def Hub.lnkCtl (h : Hub) : Word := Word.ofN (((upFrom 0 18).map fun p => if (h.links.getD p {}).down then 2 ^ p else 0).sum)

/-- The island block (R359): a ROUTE entry is 4 bytes. -/
def Hub.islandBlock (h : Hub) (off : Nat) : Word :=
  if off = 0x0 then h.islState
  else if off = 0x8 then h.epState
  else if off = 0x10 then Word.ofN (((upFrom 0 10).map fun n => if h.epEvent.getD n false then 2 ^ n else 0).sum)
  else if 0x40 ≤ off && off < 0x40 + 8 * 18 then h.lnkState ((off - 0x40) / 8)
  else if off = 0x200 then h.lnkCtl
  else if 0x4000 ≤ off && off < 0x4000 + 4 * 8192 then
    let m := (off - 0x4000) / 4
    Word.ofN (AMap.get h.route m 0 + AMap.get h.route (m + 1) 0 * 2 ^ 32)
  else 0

/-- MGMT_RESET (R362). -/
def ResetCtl.word (r : ResetCtl) : Word :=
  Word.ofN ((if r.busy then 1 else 0) + (if r.queued.isSome then 2 else 0) + r.ldom % 256 * 2 ^ 8 + r.ldie % 4 * 2 ^ 16)

/-- The sparing event record (R369). -/
def Sparing.bytes (r : Sparing) : List Byte :=
  leBytes 8 r.count ++ leBytes 1 r.failed ++ leBytes 1 r.spareId ++ leBytes 1 r.ldie ++ leBytes 1 r.cause ++ leBytes 1 r.step ++ leBytes 3 0
    ++ leBytes 8 r.tdet ++ leBytes 4 r.rerun ++ leBytes 4 r.left

/-- The die block (R362, R367, R369). -/
def Hub.dieBlock (h : Hub) (off : Nat) : Word :=
  if off = 0x0 then h.dmap
  else if off = 0x8 then h.rst.word
  else if 0x10 ≤ off && off < 0x30 then wordAt h.spar.bytes (off - 0x10)
  else 0

/-- PWR_CL of a cluster (R376). -/
def Cluster.word (c : Cluster) : Word := Word.ofN (c.cstep % 4 * 2 ^ 6 + c.crat % 4 * 2 ^ 4 + c.step % 4 * 2 ^ 2 + c.rat % 4)

/-- The bytes of a monitor (R380). -/
def Monitor.bytes (m : Monitor) : List Byte :=
  leBytes 8 m.cfg.toNat ++ leBytes 4 m.src.toNat ++ leBytes 4 m.sel.toNat ++ leBytes 8 m.min.toNat ++ leBytes 8 m.max.toNat
    ++ leBytes 8 m.cnt.toNat ++ m.bin.flatMap fun b => leBytes 4 b.toNat

/-- The power and monitor block (R376, R380). -/
def State.powerBlock (s : State) (off : Nat) : Word :=
  if 0x100 ≤ off && off < 0x200 then
    match s.clusterOf ((off - 0x100) / 8) with
    | some k => (s.cluster k).word
    | none => 0
  else if 0x1000 ≤ off && off < 0x5000 then wordAt (AMap.get s.hub.monitors ((off - 0x1000) / 256) {}).bytes ((off - 0x1000) % 256)
  else 0

/-- MB_STATUS (R384). -/
def Mailbox.statusWord (m : Mailbox) : Word :=
  Word.ofN ((if m.busy then 1 else 0) + m.result % 256 * 2 ^ 8 + m.rlen % 2 ^ 16 * 2 ^ 16 + m.rtag % 2 ^ 32 * 2 ^ 32)

/-- The management mailbox block with the management log (R381, R384, R385). -/
def Hub.mailboxBlock (h : Hub) (off : Nat) : Word :=
  let some8 (f : Nat → Byte) (k : Nat) : Word := Word.ofN (leVal ((upFrom k 8).map f))
  if off = 0x8 then h.mb.statusWord
  else if 0x100 ≤ off && off < 0x4100 then Word.ofN (leVal (h.mb.reqBytes (off - 0x100) 8))
  else if 0x4100 ≤ off && off < 0x8100 then wordAt h.mb.reply (off - 0x4100)
  else if 0x8100 ≤ off && off < 0x8620 then some8 (Config.identityKeyByte h.secret) (off - 0x8100)
  else if off = 0x8700 then Word.ofN (Config.certificateLength % 2 ^ 32)
  else if 0x8708 ≤ off && off < 0x9700 then some8 Config.certificateByte (off - 0x8708)
  else if 0xA000 ≤ off && off < 0xA800 then wordAt (h.mlog.flatMap LogEnt.bytes) (off - 0xA000)
  else if off = 0xA800 then Word.ofN h.mlost
  else 0

/-- The region of a core (R79, R374). -/
def Core.region (c : Core) (off : Nat) : Word :=
  if off < 0x400 then wordAt (c.log.flatMap LogEnt.bytes) off else if off = 0x400 then Word.ofN c.lost else 0

/-- What a read of 8 bytes at an aligned offset of BAR0 gives; an unassigned offset reads zero (R373, R374). -/
def State.readRegister (s : State) (off : Nat) : Word :=
  let h := s.hub
  if off < 0x1000 then h.deviceBlock off
  else if off < 0x2000 then Word.ofN (leVal ((upFrom (off - 0x1000) 8).map fun k => cellAt h.msix k))
  else if off < 0x3000 then h.translationBlock (off - 0x2000)
  else if off < 0x3400 then (h.chains.getD ((off - 0x3000) / 64) {}).block ((off - 0x3000) % 64)
  else if 0x10000 ≤ off && off < 0x20000 then h.islandBlock (off - 0x10000)
  else if 0x20000 ≤ off && off < 0x21000 then h.dieBlock (off - 0x20000)
  else if 0x30000 ≤ off && off < 0x40000 then s.powerBlock (off - 0x30000)
  else if 0x40000 ≤ off && off < 0x50000 then h.mailboxBlock (off - 0x40000)
  else if 0x1000000 ≤ off && off < 0x1400000 then
    let k := off - 0x1000000
    (s.core (k / 0x100000 * 64 + k % 0x100000 / 0x4000)).region (k % 0x4000)
  else 0

/-- What a read of 4 bytes gives: the half of the register that it addresses (R373). -/
def State.readHalf (s : State) (off : Nat) : BitVec 32 :=
  let w := s.readRegister (off / 8 * 8)
  if off % 8 = 4 then (w >>> 32).setWidth 32 else w.setWidth 32

end Sys2Proof.Machine
end

