-- ==== Sys2Proof/Safety.lean ====
section
/-! DEFINITION. What a safe outcome is, and what every state of the machine keeps. -/

namespace Sys2Proof

/-- A step that answers a next state. -/
def completes (o : Host.Outcome Machine.State Machine.Fault Machine.Refusal) : Bool :=
  match o with
  | .next _ => true
  | _ => false

/-- An address at which an instruction may stand: it is even, since instructions are made of 16-bit parcels (R23). -/
def EvenAddr (w : Word) : Prop := w.toNat % 2 = 0

/-- Every value of a map meets a property. -/
def AMap.All {β : Type} (P : β → Prop) (m : AMap β) : Prop := ∀ p ∈ m, P p.2

namespace Machine

/-! ## When an instruction runs

The terms in which the statements about instructions are made. -/

/-- An instruction that the current thread runs: decode raises nothing, no pending error is due, no acquire is outstanding, its
guard is true (or it is SEL); and what it names waits for no load, an out-port that it writes is not held, and its sources read as vals,
which leaves the state s' (in-port elements are consumed), or it has parked and holds vals (R29, R51, R78, R119, R126, R128, R307). -/
structure Ready (i : Instr) (s : State) (tk : Nat) (t : Thread) (vals : List Word) (s' : State) : Prop where
  cur    : s.cur = some tk
  thread : s.thread? tk = some t
  valid  : operandOk i t.nregs t.pre = true
  noErr  : (instrInfo i).dueError t = none
  noWait : t.loads.any (·.block) = false
  guard  : t.guard (instrInfo i).guard = true ∨ (instrInfo i).mode = .sel
  gets   :
    (t.held = none ∧ (instrInfo i).loadsReady t = true ∧ s.dstHeld tk t (instrInfo i) = false ∧
      s.readSrcs tk t (instrInfo i).allSrcs = .ok vals s') ∨
    ((∃ h, t.held = some h ∧ vals = h.vals) ∧ s' = s)

/-- An instruction of the current thread whose guard is false (R30, R31). -/
structure Skipped (i : Instr) (s : State) (tk : Nat) (t : Thread) : Prop where
  cur    : s.cur = some tk
  thread : s.thread? tk = some t
  valid  : operandOk i t.nregs t.pre = true
  noErr  : (instrInfo i).dueError t = none
  noWait : t.loads.any (·.block) = false
  guard  : t.guard (instrInfo i).guard = false
  mode   : (instrInfo i).mode ≠ .sel

/-- The thread after an instruction, past its word (R282). -/
def Thread.past (t : Thread) (i : Instr) : Thread := t.continueAt (t.pw + Word.ofN (instrInfo i).len) (decide ((instrInfo i).cls ≥ 6))
/-- The same, with a region started there (R286). -/
def Thread.pastR (t : Thread) (i : Instr) : Thread := (t.past i).startRegion (t.past i).pc

/-- That an instruction delivers a result r: it goes to the destination unless W = 1, it shifts into the bypass latches, and control
continues in sequence; nothing else of the state after the sources are read changes (R32, R127, R132, R297). -/
def Delivers (i : Instr) (s : State) (tk : Nat) (t : Thread) (s' : State) (r : Word) : Prop :=
  ∀ u, s'.thread? tk = some u →
    let now := s'.cycOf t
    let done := now + latency (instrInfo i).cls
    match (instrInfo i).dst with
    | none => exec i s = .next (s'.setThread tk ((u.shift r done).past i))
    | some (.v n) => exec i s = .next (s'.setThread tk ((((u.setReg n.1 r).shift r done).mark_ [n.1] now done).past i))
    | some (.m k) => s'.outCheck tk u k.1 = none →
        ∃ w, (s'.outWrite tk k.1 r t.pc).thread? tk = some w ∧
          exec i s = .next ((s'.outWrite tk k.1 r t.pc).setThread tk ((w.shift r done).past i))

/-- A three-operand instruction whose result is a function of its two sources. -/
def Gives3 (mk : Op3 → Instr) (f : Word → Word → Word) : Prop :=
  ∀ o s tk t a b s', Ready (mk o) s tk t [a, b] s' → Delivers (mk o) s tk t s' (f a b)
/-- A three-operand instruction that accumulates: the destination is read after the two sources. -/
def GivesAcc (mk : Op3 → Instr) (f : Word → Word → Word → Word) : Prop :=
  ∀ o s tk t a b d s', Ready (mk o) s tk t [a, b, d] s' → Delivers (mk o) s tk t s' (f a b d)
/-- An instruction whose result is a function of its one source. -/
def Gives2 (mk : Op2 → Instr) (f : Word → Word) : Prop :=
  ∀ o s tk t a s', Ready (mk o) s tk t [a] s' → Delivers (mk o) s tk t s' (f a)
/-- An instruction of one source that reads its destination after it. -/
def Gives2Acc (mk : Op2 → Instr) (f : Word → Word → Word) : Prop :=
  ∀ o s tk t a d s', Ready (mk o) s tk t [a, d] s' → Delivers (mk o) s tk t s' (f a d)
/-- A 16-bit form: its destination is its first source. -/
def GivesC (mk : C16 → Instr) (f : Word → Word → Word) : Prop :=
  ∀ o s tk t a b s', Ready (mk o) s tk t [a, b] s' → Delivers (mk o) s tk t s' (f a b)
/-- A 16-bit form with an immediate. -/
def GivesI (mk : C16I → Instr) (f : BitVec 5 → Word → Word) : Prop :=
  ∀ o s tk t a s', Ready (mk o) s tk t [a] s' → Delivers (mk o) s tk t s' (f o.imm a)

/-! ## When an access goes through -/

/-- The thread's own waiting out-port elements go out first, which leaves the state s' (R128). -/
structure WentOut (s : State) (tk : Nat) (s' : State) : Prop where
  out  : s.drainOut tk = s'
  none : ((s'.thread? tk).map Thread.outEmpty).getD true = true

/-- An access of n bytes names a place: the checks of R57 pass, which leaves the state s', or the instruction has parked since an earlier
try at which they did (R57, R112). -/
def Placed (s : State) (tk : Nat) (t : Thread) (va : Word) (n kind : Nat) (l : Loc) (s' : State) : Prop :=
  (t.places.find? (fun p => p.1 == va) = none ∧ s.access tk t t.ftok va n n kind = (.ok l, s')) ∨
  (t.places.find? (fun p => p.1 == va) = some (va, l) ∧ s' = s)

/-- An access of n bytes reaches a place, which leaves the state s': it names the place, no watch comparator matches (R350), and the line
is present (R112). -/
structure Reaches (s : State) (tk : Nat) (t : Thread) (va : Word) (n kind : Nat) (rd wr : Bool) (l : Loc) (s' : State) : Prop where
  checks    : Placed s tk t va n kind l s'
  unwatched : s'.watchHit t l n rd wr = none
  here      : s'.isAbsent l = false

/-- No op of an engine and no job is in flight, saved away, or has ended with its counter update not yet waited for, and no unit has a save
block: a write then leaves no byte undefined (R98, R105, R220, R268, R345). -/
def State.Idle (s : State) : Prop :=
  (∀ c ∈ s.cores, c.2.chans.flatten = [] ∧ c.2.doneOps = [] ∧ c.2.jobs = [] ∧ c.2.doneJobs = []) ∧
  ∀ p ∈ s.units, p.2.save = [] ∧ p.2.savedOps = [] ∧ p.2.savedJobs = []

/-- No launch holds a speculation buffer (R331). -/
def State.NoSpec (s : State) : Prop := ∀ p ∈ s.hub.launches, p.2.spec = none

/-- What an order at a scope waits for has come about in the state s': the thread's out-port elements, and for die or wider those of
its core, have gone out; no error waits, where the instruction is one that delivers it (clean); every earlier access and uniform write of the thread, and for die or wider every earlier write
of its core, is performed; and for sys the writes that go off the package are delivered (R78, R128, R141, R242, R250, R260). -/
structure Performed (s : State) (tk : Nat) (t : Thread) (sc : Scope) (s' : State) (clean : Bool := true) : Prop where
  out       : (if isWide sc then (s.drainOut tk).drainCore (s.ckOf t.uid) else s.drainOut tk) = s'
  errors    : clean = true → ((s'.thread? tk).map (·.errs.isEmpty)).getD true = true
  uniforms  : s'.uwrOpen tk = false
  own       : s'.ownPerformed (s.ckOf t.uid) tk = true
  core      : isWide sc = true → s'.corePerformed (s.ckOf t.uid) (t.mark.getD s.seq) = true
  delivered : sc = .sys → s'.coreDelivered (s.ckOf t.uid) (t.mark.getD s.seq) t.after.acq = true

/-- What the release bit of an ATOM asks for: nothing where it is clear, else an order at the scope and then the release of the
place (R242, R244). -/
def Released (ar : Bool) (s : State) (tk : Nat) (t : Thread) (sc : Scope) (l : Loc) (s' : State) : Prop :=
  if ar then ∃ s1, Performed s tk t sc s1 ∧ s' = s1.release (s1.ckOf t.uid) sc l else s' = s

/-- What an access that promotes its line leaves: the core that the line's tag names, if there is another, has published whole, its copy
is dropped and the tag clear (R255, R257). -/
def Promoted (pr : Bool) (s : State) (t : Thread) (l : Loc) (s' : State) : Prop :=
  if pr then
    match s.taggedCore (s.ckOf t.uid) l with
    | none => s' = s
    | some x => s' = s.promote (s.ckOf t.uid) l ∧ s'.outDrained x = true
  else s' = s

/-- What the uniformity assertion of a branch with outcome g gives: nothing to check where U = 0, else the thread matches or makes its
record, which leaves the state s' (R275). -/
def Checked (u g : Bool) (s : State) (tk : Nat) (t : Thread) (s' : State) : Prop :=
  if u then s.uniformCheck tk t t.pw g = .ok s' else s' = s

/-- A trap is delivered to a handler: the unit has one, the thread is not in it, its call depth is not full within a loop, and the
trap does not stop the thread for a debugger (R342, R350). -/
structure Handles (s : State) (t : Thread) (cause : Nat) : Prop where
  handler  : s.traph t.uid ≠ 0
  outside  : t.ih = false
  depth    : t.cd < 65535 ∨ t.loops = []
  debugger : (∀ u, s.unit? t.uid = some u → u.dbg.under = false) ∨ (cause ≠ cBRK ∧ cause ≠ cWATCH)

/-- A thread whose collective i passed its checks, which left the state s0, arrives with a; its tile has no failed record and no open
record of another function. Where every live lane of the tile has then arrived, the record is freed, and each lane that arrived
receives its value, has its ordinal advanced, goes on past the collective and starts a region; else the thread parks in the record
(R185, R186, R187). -/
def Gathers (i : Instr) (s s0 : State) (tk : Nat) (t : Thread) (fn : CollFn) (a : Arrival) : Prop :=
  ∀ u, s0.unit? t.uid = some u →
    let g := u.gang t.gg
    let tile := g.tile t.ln
    let r := (AMap.get? g.insts tile).getD { ord := t.cord, fn := fn }
    let all := r.arrived ++ [a]
    let s1 := s0.joinRecord t.uid t.gg tile tk a r
    g.gfail = none → r.failed = false → r.fn = fn →
    ((∀ ln ∈ s0.liveTile t.uid t.gg tile, ∃ x ∈ all, x.ln = ln) →
      exec i s = .next (all.foldl (fun x w => x.leaveInstance (threadKey t.uid (32 * t.gg + w.ln)) w (collResult fn all g.gpart w) (· + 1))
        (s1.modUnit t.uid fun v => v.modGang t.gg fun g => { g with insts := AMap.del g.insts tile }))) ∧
    ((∃ ln ∈ s0.liveTile t.uid t.gg tile, ∀ x ∈ all, x.ln ≠ ln) → exec i s = .next s1)

/-- A destination of an instruction other than a result-producing one takes a result: it is a lane register, or an out-port whose checks
pass (R127). -/
def DstFree (s : State) (tk : Nat) (d : Dst) : Prop := ∃ w, s.thread? tk = some w ∧ ∀ k, d = .m k → s.outCheck tk w k.1 = none

/-- A result with which the instruction does not park. -/
def Res.GoesOn : Res → Prop
  | .park _ _ => False
  | _ => True

/-- A part of an effect that goes through in a state: what follows it, if it does not park, runs with v in the state s'. -/
def Through {α : Type} (p : (α → State → Res) → Res) (v : α) (s' : State) : Prop := ∀ k, (k v s').GoesOn → p k = k v s'
/-- The same for a part that gives no value. -/
def Passes (p : (State → Res) → Res) (s' : State) : Prop := ∀ k, (k s').GoesOn → p k = k s'

/-- A chain's entry of a type is taken up: the hub has booted, the chain is not stopped and has an entry, and either it already waits
at that entry, or it is the chain's turn, and the entry at its head is read at its home, follows R317, has a greater SEQ than the one
before, and belongs to an open job unless it is JOB; the next turn is then another chain's. The entry's bytes are bs, and the state s' then waits at it (R316, R317, R320, R321). -/
structure Takes (s : State) (n ty : Nat) (bs : List Byte) (s' : State) : Prop where
  chain  : n < 16
  booted : s.hub.bootDone = true
  runs   : (s.chain n).stat ≠ 2
  has    : (s.chain n).hasEntry = true
  kind   : field bs 0 1 = ty
  entry  :
    ((s.chain n).phase = .waiting ∧ (s.chain n).entry = bs ∧ s' = s) ∨
    ((s.chain n).phase = .fetch ∧ s.hub.servedChain = some n ∧ sizeValid (s.chain n).size.toNat = true ∧ (s.chain n).skip = false ∧
      (let home := (s.chain n).base.toNat / 128 * 128 + 128 * (s.chain n).head
       s.dpaErr home 128 true = none ∧ s.bytesAt 0 (.home home) 128 = bs) ∧
      entryBad bs = false ∧ (∀ q, (s.chain n).lastSeq = some q → q < field bs 8 8) ∧ (ty = eJOB ∨ (s.chain n).job.isSome = true) ∧
      s' = (s.modHub fun h => { h with nextChain := (n + 1) % 16 }).modChain n fun c => { c with phase := .waiting, entry := bs, stat := 1, lid := 0 })

/-! ## What every state keeps -/

/-- The loop levels of a thread: at most three, each with a body that starts at an even address (R280, R281). -/
def LoopsOk (ls : List LoopLevel) : Prop := ls.length ≤ 3 ∧ ∀ l ∈ ls, EvenAddr l.s

/-- What every thread keeps: its pc and its region restart point are even, as are the
starts of its loop bodies and of those in its region shadow; and its call depths fit 16 bits (R130, R280, R285). -/
def Thread.Inv (t : Thread) : Prop :=
  EvenAddr t.pc ∧ EvenAddr t.rpc ∧ LoopsOk t.loops ∧ LoopsOk t.shadow.loops ∧
  t.cd ≤ 65535 ∧ t.hd ≤ 65535 ∧ t.shadow.cd ≤ 65535 ∧ t.shadow.hd ≤ 65535

/-- What every gang keeps: the own windows of its threads are in canonical form (R56). -/
def Gang.Inv (g : Gang) : Prop := g.priv.wf = true
/-- What every unit keeps: its scratchpad, its operand buffer and its threads' own windows are in canonical form. -/
def TUnit.Inv (u : TUnit) : Prop := u.scr.wf = true ∧ u.obuf.wf = true ∧ AMap.All Gang.Inv u.gangs

/-- What every accepted launch keeps: its entry addresses and its handler address are even (R322). -/
def Launch.Inv (l : Launch) : Prop := EvenAddr l.desc.traph ∧ ∀ r ∈ l.desc.roles, EvenAddr r.entry

/-- What every state keeps: main memory is in canonical form, and every thread, unit and launch keeps its own. -/
def State.Inv (s : State) : Prop :=
  s.mem.wf = true ∧ AMap.All Thread.Inv s.threads ∧ AMap.All TUnit.Inv s.units ∧ AMap.All Launch.Inv s.hub.launches

end Machine

end Sys2Proof
end

