-- ==== Sys2Proof/Certificates/Slice0/Obligations.lean ====
section
/-! DEFINITION. The statements for the provers. -/

open Sys2Proof Sys2Proof.Machine

/-- One word of each layout, bit by bit from the tables of R26 and R40 to R50, decodes to the instruction that it stands for,
with each operand in its place. (R26, R32, R33, R38, R40, R42, R43, R44, R45, R47, R49, R50) -/
def Obligations.DecodeWords : Prop :=
    (decodeTableWord 32 0b10101101000001000101000001110101 = some (.iadd ⟨⟨true, 2⟩, true, .v 5, .b 1, .imm 13⟩)) ∧
    (decodeTableWord 32 0b10101101000001000101011010110101 = some (.ffma ⟨⟨true, 2⟩, true, .v 5, .b 1, .imm 13⟩)) ∧
    (decodeTableWord 32 0b10010010111100101011101001010101 = some (.icmpS ⟨⟨true, 2⟩, .ge, 3, .m 0, .imm 0⟩)) ∧
    (decodeTableWord 32 0b10101101000001000101101101110101 = some (.sel ⟨⟨true, 2⟩, true, .v 5, .b 1, .imm 13⟩)) ∧
    (decodeTableWord 32 0b10111111100000111010110000110101 = some (.ld32 ⟨⟨true, 2⟩, true, .v 58, .s 0, .imm 22⟩)) ∧
    (decodeTableWord 32 0b00100001000110001001111010110101 = some (.strel ⟨⟨true, 2⟩, true, .v 9, .tg, .sys, false⟩)) ∧
    (decodeTableWord 32 0b10110011000101001010111011110101 = some (.atomCas ⟨⟨true, 2⟩, true, .v 10, .ln, .dev, true⟩)) ∧
    (decodeTableWord 32 0b11111111111111110110111100110101 = some (.br ⟨⟨true, 2⟩, true, false, true, 0x3FFFD#18⟩)) ∧
    (decodeTableWord 32 0b10000000000000000101010010010101 = some (.loop ⟨⟨true, 2⟩, .v 0, 133⟩)) ∧
    (decodeTableWord 32 0b10000000000000000001111111100101 = some (.imx (0x1000032#25))) ∧
    (decodeTableWord 32 0b00111010000000000111111110010101 = some (.movs ⟨⟨true, 2⟩, false, .v 7, 13⟩)) ∧
    (decodeTableWord 32 0b00111101111111111110111110110101 = some (.urd ⟨⟨true, 2⟩, true, .m 2, .s 31⟩)) ∧
    (decodeTableWord 32 0b10101111000100111011111110010101 = some (.shfx ⟨⟨true, 2⟩, .v 59, .z⟩)) ∧
    (decodeTableWord 32 0b11100001001000001111111110010101 = some (.barInit ⟨⟨true, 2⟩, 15, .xi⟩)) ∧
    (decodeTableWord 32 0b11100101001000000111111110010101 = some (.cpy ⟨⟨true, 2⟩, 7, .xi⟩)) ∧
    (decodeTableWord 32 0b11010110000000000000111110010101 = some (.fenceSys ⟨⟨true, 2⟩⟩)) ∧
    (decodeTableWord 32 0b11111100111011000001111110010101 = some (.specDiscard ⟨⟨true, 2⟩, .v 59⟩)) ∧
    (decodeTableWord 32 0b11111110111011000010111110010101 = some (.dbgStep ⟨⟨true, 2⟩, .v 59⟩)) ∧
    (decodeTableWord 16 0b1111000011101000 = some (.iaddi ⟨.v 7, 0x1E#5⟩)) ∧
    (decodeTableWord 16 0b1100101011111110 = some (.dmulCompact ⟨.v 23, .b 1⟩))

/-- For every instruction that the encodings allow, the decoder reads its parcels, whatever parcels stand after them, as that
instruction with every operand. (R23, R26, R47, R49, R50) -/
def Obligations.RoundTrip : Prop :=
  ∀ i, WellFormed i = true → ∀ rest, decodeParcels (encode i ++ rest) = .ok i

/-- Where a thread waits to be issued, is live and not parked, no PC comparator matches, and the parcels at its address decode to
an instruction, step is exec of that instruction with that thread current; a word that decode refuses traps with ILL; a
parcel comes from the thread's prefetch buffer, else from the loop buffer of its lane array, else from a line of the
instruction cache of its space, else from the bytes at home. With no thread to issue and an entry in the schedule, step lets
its time pass, makes the changes of memory that the entry says come from outside the steps, and is exec of the step of the
device that it names. Where the manual leaves a point open it follows the model's own choices, logs 2 and 61. (R23, R24, R25, R51, R308, R350) -/
def Obligations.StepRunsDecoded : Prop :=
  (∀ (s : State) tk rest t ps s1, s.issueQ = tk :: rest → s.thread? tk = some t → t.live = true → (t.park = none ∨ t.resume_ = true) →
    ({ s with issueQ := rest } : State).bpHit t = none → ({ s with issueQ := rest } : State).fetchWord t t.pw = .ok ps s1 →
    (∀ i, decodeParcels ps = .ok i → step s = exec i { s1 with cur := some tk }) ∧
    (∀ e, decodeParcels ps = .error e → step s = .next (({ s1 with cur := some tk } : State).deliver tk cILL 0 t.pc))) ∧
  (∀ (s : State) tk rest t, s.issueQ = tk :: rest → s.thread? tk = some t → (t.live = false ∨ (t.park.isSome = true ∧ t.resume_ = false)) →
    step s = .next { s with issueQ := rest }) ∧
  (∀ (s : State) tk rest t k, s.issueQ = tk :: rest → s.thread? tk = some t → t.live = true → (t.park = none ∨ t.resume_ = true) →
    ({ s with issueQ := rest } : State).bpHit t = some k → step s = .next (({ s with issueQ := rest } : State).deliver tk cBRK 0 t.pc (some k))) ∧
  (∀ (s : State) t va p s1, s.fetchParcel t va = .ok p s1 →
    (p.toNat % 2 = 0 → s.fetchWord t va = .ok [p] s1) ∧
    (∀ q s2, p.toNat % 2 = 1 → s1.fetchParcel t (va + 2) = .ok q s2 → s.fetchWord t va = .ok [p, q] s2)) ∧
  (∀ (s : State) (t : Thread) va,
    (∀ p, pbufGet t.pbuf va = some p → s.fetchParcel t va = .ok p s) ∧
    (∀ p, pbufGet t.pbuf va = none → loopGet (s.arrayAt t).loopBuf (s.fetchTag t) va = some p → s.fetchParcel t va = .ok p s) ∧
    (∀ l, pbufGet t.pbuf va = none → loopGet (s.arrayAt t).loopBuf (s.fetchTag t) va = none → tagGlobal va = true →
      (s.core (s.ckOf t.uid)).ic.find? (fun l => l.asn == s.fetchTag t && l.line == va.toNat / 128) = some l →
      s.fetchParcel t va = .ok (BitVec.ofNat 16 (field l.bytes (va.toNat % 128) 2)) s) ∧
    (∀ d s1, pbufGet t.pbuf va = none → loopGet (s.arrayAt t).loopBuf (s.fetchTag t) va = none → tagGlobal va = true →
      (s.core (s.ckOf t.uid)).ic.find? (fun l => l.asn == s.fetchTag t && l.line == va.toNat / 128) = none →
      s.threadXlate t t.ftok va 3 = (.ok (.home d), s1) → s1.targetErr d 2 true = none →
      ∃ s2, s.fetchParcel t va = .ok (BitVec.ofNat 16 (field (s1.bytesAt (s1.specOf t.uid) (.home (d / 128 * 128)) 128) (va.toNat % 128) 2)) s2)) ∧
  (∀ (s : State) t rest, s.issueQ = [] → s.sched = t :: rest → isEvent t.ev = true →
    step s = exec t.ev (({ s with sched := rest } : State).meanwhile t.dt t.out t.back)) ∧
  (∀ (s : State) dt out back,
    (s.meanwhile dt out back).hub.tmr = s.hub.tmr + dt ∧ (s.meanwhile dt out back).threads = s.threads ∧ (s.meanwhile dt out back).issueQ = s.issueQ ∧
    (out = [] → (s.meanwhile dt out back).mem = s.mem ∧ (s.meanwhile dt out back).units = s.units))

/-- At reset the invariant holds, tmr is 0, no unit, thread, job or launch exists, no byte of memory is written and every byte of
the vaults reads zero, the fault queue's registers are zero, no reset sequence has run, the sparing record is zero, pkgid is
0, BAR2 has 1 GiB, and every core's array starts its rotation at 0. That GDDR reads zero and that the endpoints are up are
the model's choices (logs 3 and 4). (R71, R295, R300, R357, R362, R369, R372, R379) -/
def Obligations.ResetState : Prop :=
  State.reset.Inv ∧ State.reset.hub.tmr = 0 ∧ State.reset.threads = [] ∧ State.reset.units = [] ∧ State.reset.hub.jobs = [] ∧
  State.reset.hub.launches = [] ∧ State.reset.mem = {} ∧ (∀ d, State.reset.mem.byte d = 0) ∧
  State.reset.hub.fqBase = 0 ∧ State.reset.hub.fqSize = 0 ∧ State.reset.hub.fqHead = 0 ∧ State.reset.hub.fqTail = 0 ∧ State.reset.hub.fqLimit = 0 ∧
  State.reset.hub.rst.busy = false ∧ State.reset.hub.rst.queued = none ∧ State.reset.hub.rst.ldom = 0xFF ∧ State.reset.hub.spar.count = 0 ∧
  State.reset.hub.pkgid = 0 ∧ State.reset.hub.bar2 = 2 ^ 30 ∧ State.reset.hub.ep = List.replicate 10 2 ∧
  (∀ ck a, ((State.reset.core ck).arrays.getD a {}).rot = 0 ∧ ((State.reset.core ck).arrays.getD a {}).seats = [none, none, none, none])

/-- From every state that meets the invariant (each byte store is in canonical form, each thread's pc, restart point and loop
starts are even, loop levels are at most three, call depths fit 16 bits, and each launch's entry addresses are even), a step
answers a next state, never a fault or a refusal, and that state meets the invariant. Where the manual leaves a point open it
follows the model's own choices, logs 2 and 44. (R23, R25, R280, R285, R322) -/
def Obligations.StepKeepsInv : Prop :=
  ∀ s : State, s.Inv → ∃ s', step s = .next s' ∧ s'.Inv

/-- Writing bytes at a place of main memory, of a scratchpad, of an operand buffer or of a thread's own window gives those bytes
back to a read there, and leaves every byte of every other place, and the canonical form, as they were; a range that is made
undefined leaves every byte outside it as it was. Where the manual leaves a point open it follows the model's own choice, log
5. (R3, R7, R58, R106, R121) -/
def Obligations.MemoryReadAfterWrite : Prop :=
  let exists_ (s : State) (l : Loc) : Prop := match l with
    | .home _ => True
    | .scratch u _ => (s.unit? u).isSome = true
    | .obuf u _ => (s.unit? u).isSome = true
    | .priv g _ => (s.unit? (g / 32)).isSome = true
  ∀ (s : State) l, s.Inv → exists_ s l →
    (∀ bs, (s.writeAt 0 l bs).Inv ∧ (s.writeAt 0 l bs).bytesAt 0 l bs.length = bs ∧
      ∀ x, (∀ k, k < bs.length → x ≠ l.add k) → (s.writeAt 0 l bs).byteAt 0 x = s.byteAt 0 x) ∧
    (∀ n x, (∀ k, k < n → x ≠ l.add k) → (s.forgetAt l n).byteAt 0 x = s.byteAt 0 x)

/-- A lane register, z, ln, tg, gg, a near uniform and a valid latch read their values, a void latch traps, and a uniform that a
UWR of the thread is still writing waits; a small integer reads as that integer in an integer position, scaled by the access
size as an offset, and as its image in each floating format; xi reads the payload of one IMX word, or of two with the second
IMX word low, sign-extended in an integer position and left-aligned in a floating one; an in-port reads its oldest element,
which is consumed, where its COUNT and its FIFO hold all the elements that the instruction reads of it; without a port among
them, reading sources changes no state. (R33, R34, R38, R39, R41, R126, R132, R133, R141) -/
def Obligations.SourceValues : Prop :=
  let is (x : FVal) (v : Int) : Bool := match x with
    | .zero neg => v == 0 && !neg
    | .fin neg m e => neg == decide (v < 0) && decide (e ≤ 0) && m == v.natAbs * 2 ^ (-e).toNat
    | _ => false
  (∀ (s : State) tk (t : Thread) p n,
    (∀ r, s.readSrc tk t p n (.v r) = .ok [t.reg r.1] s) ∧ s.readSrc tk t p n .z = .ok [0] s ∧ s.readSrc tk t p n .ln = .ok [Word.ofN (t.tg % 32)] s ∧
    s.readSrc tk t p n .tg = .ok [Word.ofN t.tg] s ∧ s.readSrc tk t p n .gg = .ok [Word.ofN (t.tg / 32)] s ∧
    (∀ k, (t.b.getD k.1 {}).valid = true → s.readSrc tk t p n (.b k) = .ok [(t.b.getD k.1 {}).val] s) ∧
    (∀ k, (t.b.getD k.1 {}).valid = false → s.readSrc tk t p n (.b k) = .trap cLATCH 0) ∧
    (∀ r u, s.unit? t.uid = some u → u.uwrFlight tk r.1 = false → s.readSrc tk t p n (.s r) = .ok [u.uni.getD r.1 0] s) ∧
    (∀ r u, s.unit? t.uid = some u → u.uwrFlight tk r.1 = true → s.readSrc tk t p n (.s r) = .wait s) ∧
    (∀ k, s.readSrc tk t p n (.imm k) = .ok [immWord p (k.1 - 11 : Int)] s) ∧
    (∀ x, xiWord p t.pre = some x → s.readSrc tk t p n .xi = .ok [x] s)) ∧
  (∀ k : Fin 23, let v : Int := k.1 - 11
    (immWord .int v).toInt = v ∧ (∀ n, n ∈ [1, 2, 4, 8] → (immWord (.off n) v).toInt = v * n) ∧
    is (f32.val (immWord .f32 v).toNat) v ∧ is (f64.val (immWord .f64 v).toNat) v ∧
    (∀ j, j < 4 → is (f16.val (bits (immWord .h4 v).toNat (16 * j + 15) (16 * j))) v ∧ is (bf16.val (bits (immWord .b4 v).toNat (16 * j + 15) (16 * j))) v)) ∧
  (∀ a : BitVec 25, ∃ x y z : Word, xiWord .int [a] = some x ∧ x.toInt = a.toInt ∧ xiWord .f64 [a] = some y ∧ y.toNat = a.toNat * 2 ^ 39 ∧
    xiWord .f32 [a] = some z ∧ z.toNat = a.toNat * 2 ^ 7) ∧
  (∀ a b : BitVec 25, ∃ x y : Word, xiWord .int [a, b] = some x ∧ x.toInt = (a ++ b).toInt ∧ xiWord .f64 [a, b] = some y ∧ y.toNat = (a ++ b).toNat * 2 ^ 14 ∧
    (xiWord .f32 [a, b] = none ↔ (a ++ b).toNat % 2 ^ 18 ≠ 0)) ∧
  (∀ (s : State) tk (t : Thread) srcs vals s', (∀ x ∈ srcs, ∀ k, x.2 ≠ .m k) → s.readSrcs tk t srcs = .ok vals s' → s' = s ∧ vals.length = srcs.length) ∧
  (∀ (s : State) tk t k n b e rest, s.thread? tk = some t → (t.ports.getD k {}).bind = some b → b.isOut = false → b.pos + n ≤ b.count → finReady n (t.ports.getD k {}).fin = true →
    (t.ports.getD k {}).fin = e :: rest → e.err = none → (∀ l, e.loc = some l → s.watchHit t l b.width true false = none) →
    s.portRead tk k n = .ok e.val (s.setThread tk { t with ports := setAt t.ports k { t.ports.getD k {} with
      bind := some { b with pos := b.pos + 1 }, fin := rest } }))

/-- An integer, logic, shift, compare, select, move, floating or conversion instruction of classes 0 to 5, in its 32-bit or
16-bit form (UWR and URD have statements of their own), once its sources are read, answers a next state in which every lane
register but its destinations (D, D + 1 for EX2S; none under W = 1, for a stream port or for a compare), every predicate but
those a compare writes, every port but its destination port with its FIFOs, the trap and region state, the outstanding loads
and errors, every other thread, every unit, core and hub register, and every byte of memory are as they were. Where the
manual leaves a point open it follows the model's own choice, log 19. (R8, R27, R28, R32, R35, R40, R132, R136) -/
def Obligations.ResultFrame : Prop :=
  ∀ i s tk t vals s' u, (instrInfo i).cls ≤ 5 → (∀ o, i ≠ .uwr o) → (∀ o, i ≠ .urd o) → Ready i s tk t vals s' → s'.thread? tk = some u →
    (∀ k, (instrInfo i).dst = some (.m k) → s'.outCheck tk u k.1 = none) →
    ∃ r w, exec i s = .next r ∧ r.thread? tk = some w ∧ (∀ x, x ≠ tk → r.thread? x = s'.thread? x) ∧
      r.mem = s'.mem ∧ (∀ spec l, r.byteAt spec l = s'.byteAt spec l) ∧ r.units = s'.units ∧ r.cores = s'.cores ∧ r.clusters = s'.clusters ∧ r.hub = s'.hub ∧
      (∀ n, n ∉ (instrInfo i).wr → w.reg n = u.reg n) ∧ (∀ k, k ∉ (instrInfo i).wp → w.pred k = u.pred k) ∧
      (∀ k, (∀ q, (instrInfo i).dst = some (.m q) → q.1 ≠ k) → w.ports.getD k {} = u.ports.getD k {}) ∧
      w.rpc = u.rpc ∧ w.shadow = u.shadow ∧ w.cd = u.cd ∧ w.tcause = u.tcause ∧ w.tloc = u.tloc ∧ w.ih = u.ih ∧ w.hv = u.hv ∧ w.hd = u.hd ∧
      w.loads = u.loads ∧ w.errs = u.errs ∧ w.live = u.live ∧ w.cord = u.cord ∧ w.uord = u.uord ∧ w.arr = u.arr

/-- Each of the twenty integer three-operand instructions, when it runs, reads A, then B, then D where it accumulates, and
delivers the value that the table gives: to its destination unless W = 1, and into the latches; control continues in sequence
and nothing else changes. (R136) -/
def Obligations.IntegerResults : Prop :=
  Gives3 .iadd (fun x y => Word.ofN (x.toNat + y.toNat)) ∧
  Gives3 .isub (fun x y => BitVec.ofInt 64 ((x.toNat : Int) - y.toNat)) ∧
  Gives3 .imul (fun x y => Word.ofN (x.toNat * y.toNat)) ∧
  GivesAcc .imac (fun x y acc => Word.ofN (acc.toNat + x.toNat * y.toNat)) ∧
  Gives3 .iadd32 (fun x y => sextN (Word.ofN (x.toNat % 2 ^ 32 + y.toNat % 2 ^ 32)) 32) ∧
  Gives3 .isub32 (fun x y => sextN (BitVec.ofInt 64 ((x.toNat % 2 ^ 32 : Nat) - (y.toNat % 2 ^ 32 : Nat))) 32) ∧
  Gives3 .imul32 (fun x y => sextN (Word.ofN (x.toNat % 2 ^ 32 * (y.toNat % 2 ^ 32))) 32) ∧
  GivesAcc .imac32 (fun x y acc => sextN (Word.ofN (acc.toNat % 2 ^ 32 + x.toNat % 2 ^ 32 * (y.toNat % 2 ^ 32))) 32) ∧
  Gives3 .imulhS (fun x y => BitVec.ofInt 64 (x.toInt * y.toInt / 2 ^ 64)) ∧
  Gives3 .imulhN (fun x y => Word.ofN (x.toNat * y.toNat / 2 ^ 64)) ∧
  Gives3 .andOp (fun x y => x &&& y) ∧
  Gives3 .orOp (fun x y => x ||| y) ∧
  Gives3 .xorOp (fun x y => x ^^^ y) ∧
  Gives3 .andn (fun x y => x &&& ~~~y) ∧
  Gives3 .shl (fun x y => Word.ofN (x.toNat * 2 ^ (y.toNat % 64))) ∧
  Gives3 .shr (fun x y => Word.ofN (x.toNat / 2 ^ (y.toNat % 64))) ∧
  Gives3 .asr (fun x y => BitVec.ofInt 64 (x.toInt / 2 ^ (y.toNat % 64))) ∧
  Gives3 .iminS (fun x y => if x.toInt ≤ y.toInt then x else y) ∧
  Gives3 .imaxS (fun x y => if x.toInt ≥ y.toInt then x else y) ∧
  Gives3 .iminN (fun x y => if x.toNat ≤ y.toNat then x else y) ∧
  Gives3 .imaxN (fun x y => if x.toNat ≥ y.toNat then x else y)

/-- Each of the fifteen integer unary instructions delivers the value that the table gives for its source. (R138) -/
def Obligations.IntegerUnaryResults : Prop :=
  Gives2 .mov (fun a => a) ∧
  Gives2 .notOp (fun a => Word.ofN (2 ^ 64 - 1 - a.toNat)) ∧
  Gives2 .negOp (fun a => BitVec.ofInt 64 (-(a.toNat : Int))) ∧
  Gives2 .absOp (fun a => BitVec.ofInt 64 (if a.toInt ≥ 0 then a.toInt else -a.toInt)) ∧
  Gives2 .popc popCount ∧ Gives2 .clz leadingZeros ∧ Gives2 .ctz trailingZeros ∧ Gives2 .brev bitReverse ∧ Gives2 .bswap byteSwap ∧
  Gives2 .sx8 (fun a => BitVec.ofInt 64 (BitVec.ofNat 8 a.toNat).toInt) ∧
  Gives2 .sx16 (fun a => BitVec.ofInt 64 (BitVec.ofNat 16 a.toNat).toInt) ∧
  Gives2 .sx32 (fun a => BitVec.ofInt 64 (BitVec.ofNat 32 a.toNat).toInt) ∧
  Gives2 .zx8 (fun a => Word.ofN (a.toNat % 2 ^ 8)) ∧ Gives2 .zx16 (fun a => Word.ofN (a.toNat % 2 ^ 16)) ∧
  Gives2 .zx32 (fun a => Word.ofN (a.toNat % 2 ^ 32)) ∧
  (∀ a, popCount a = Word.ofN ((List.range 64).countP fun i => a.getLsbD i)) ∧
  (leadingZeros 0 = 64 ∧ ∀ a, a ≠ 0 → (leadingZeros a).toNat ≤ 63 ∧ a.getLsbD (63 - (leadingZeros a).toNat) = true ∧
    ∀ i, 63 - (leadingZeros a).toNat < i → a.getLsbD i = false) ∧
  (trailingZeros 0 = 64 ∧ ∀ a, a ≠ 0 → (trailingZeros a).toNat ≤ 63 ∧ a.getLsbD (trailingZeros a).toNat = true ∧
    ∀ i, i < (trailingZeros a).toNat → a.getLsbD i = false) ∧
  (∀ a i, i < 64 → (bitReverse a).getLsbD i = a.getLsbD (63 - i)) ∧
  (∀ a i, i < 64 → (byteSwap a).getLsbD i = a.getLsbD (8 * (7 - i / 8) + i % 8))

/-- FADD to DMAX, the packed forms on four 16-bit lanes, and FSCALE and DSCALE deliver the exact result of their sources in their
format with one rounding to nearest even; FMIN to DMAX the lesser or the greater. (R165, R167, R168, R170, R175) -/
def Obligations.FloatResults : Prop :=
  Gives3 .fadd (fop2 f32 fun x y => x.add y) ∧ Gives3 .fsub (fop2 f32 fun x y => x.add y.negate) ∧
  Gives3 .fmul (fop2 f32 fun x y => x.mul y) ∧ GivesAcc .ffma (fop3 f32 fun x y acc => acc.add (x.mul y)) ∧
  Gives3 .fmin (fmin2 f32 false) ∧ Gives3 .fmax (fmin2 f32 true) ∧
  Gives3 .dadd (fop2 f64 fun x y => x.add y) ∧ Gives3 .dsub (fop2 f64 fun x y => x.add y.negate) ∧
  Gives3 .dmul (fop2 f64 fun x y => x.mul y) ∧ GivesAcc .dfma (fop3 f64 fun x y acc => acc.add (x.mul y)) ∧
  Gives3 .dmin (fmin2 f64 false) ∧ Gives3 .dmax (fmin2 f64 true) ∧
  Gives3 .hadd (fun a b => packed (fun x y _ => f16.rne ((f16.val x).add (f16.val y))) a b 0) ∧
  Gives3 .hmul (fun a b => packed (fun x y _ => f16.rne ((f16.val x).mul (f16.val y))) a b 0) ∧
  GivesAcc .hfma (packed fun x y acc => f16.rne ((f16.val acc).add ((f16.val x).mul (f16.val y)))) ∧
  Gives3 .badd (fun a b => packed (fun x y _ => bf16.rne ((bf16.val x).add (bf16.val y))) a b 0) ∧
  Gives3 .bmul (fun a b => packed (fun x y _ => bf16.rne ((bf16.val x).mul (bf16.val y))) a b 0) ∧
  GivesAcc .bfma (packed fun x y acc => bf16.rne ((bf16.val acc).add ((bf16.val x).mul (bf16.val y)))) ∧
  Gives2Acc .fscale (fscaleOp f32) ∧ Gives2Acc .dscale (fscaleOp f64) ∧
  (∀ g a b d k, k < 4 → (∀ x y z, g x y z < 2 ^ 16) →
    bits (packed g a b d).toNat (16 * k + 15) (16 * k) =
      g (bits a.toNat (16 * k + 15) (16 * k)) (bits b.toNat (16 * k + 15) (16 * k)) (bits d.toNat (16 * k + 15) (16 * k)))

/-- Sign operations, special functions, exponents and roundings to integral values deliver the function that their rule names,
with the rounding it names. Where the manual leaves a point open it follows the model's own choice, log 10. (R172, R173, R174, R176, R178) -/
def Obligations.FloatUnaryResults : Prop :=
  Gives2 .fneg (fsign f32 fun x => x ^^^ 2 ^ 31) ∧ Gives2 .fabs (fsign f32 fun x => x % 2 ^ 31) ∧
  Gives2 .dneg (fsign f64 fun x => x ^^^ 2 ^ 63) ∧ Gives2 .dabs (fsign f64 fun x => x % 2 ^ 63) ∧
  Gives2 .frcp (fun a => Word.ofN (f32.apply1 .rz recipVal a.toNat)) ∧ Gives2 .frsq (fun a => Word.ofN (f32.apply1 .rz rsqrtVal a.toNat)) ∧
  Gives2 .fsqrt (fun a => Word.ofN (f32.apply1 .rn sqrtVal a.toNat)) ∧ Gives2 .fex2 (fun a => Word.ofN (f32.apply1 .rz (ex2Val f32) a.toNat)) ∧
  Gives2 .flg2 (fun a => Word.ofN (f32.apply1 .rz lg2Val a.toNat)) ∧ Gives2 .drcp (fun a => Word.ofN (f64.apply1 .rn recipVal a.toNat)) ∧
  Gives2 .dsqrt (fun a => Word.ofN (f64.apply1 .rn sqrtVal a.toNat)) ∧ Gives2 .drsq (fun a => Word.ofN (f64.apply1 .rn rsqrtVal a.toNat)) ∧
  Gives2 .fxpn (fun a => BitVec.ofInt 64 (exponentOf (f32.val a.toNat))) ∧ Gives2 .dxpn (fun a => BitVec.ofInt 64 (exponentOf (f64.val a.toNat))) ∧
  Gives2 .frintRn (fun a => Word.ofN (f32.enc (integralVal .rn (f32.val a.toNat)))) ∧
  Gives2 .frintRz (fun a => Word.ofN (f32.enc (integralVal .rz (f32.val a.toNat)))) ∧
  Gives2 .frintRm (fun a => Word.ofN (f32.enc (integralVal .rm (f32.val a.toNat)))) ∧
  Gives2 .frintRp (fun a => Word.ofN (f32.enc (integralVal .rp (f32.val a.toNat)))) ∧
  Gives2 .drintRn (fun a => Word.ofN (f64.enc (integralVal .rn (f64.val a.toNat)))) ∧
  Gives2 .drintRz (fun a => Word.ofN (f64.enc (integralVal .rz (f64.val a.toNat)))) ∧
  Gives2 .drintRm (fun a => Word.ofN (f64.enc (integralVal .rm (f64.val a.toNat)))) ∧
  Gives2 .drintRp (fun a => Word.ofN (f64.enc (integralVal .rp (f64.val a.toNat)))) ∧
  (∀ f a, f.isNan (a.toNat % 2 ^ f.width) = true → ∀ g, fsign f g a = Word.ofN f.canon)

/-- The eighteen conversions read their source in its format and deliver it in the other: rounded to nearest even between formats
and from integers; truncated and saturated to an integer range from a format, with NaN giving 0. Rounding to nearest even, in
f64, f32, f16 and bf16: every encoding that is no NaN encodes the value that it decodes to, and rounding that value gives it
back; a NaN gives the canonical NaN; a nonzero exact value of a magnitude below (2 - 2^-(p+1)) x 2^emax gives a finite value
of its sign to which no finite value of the format is nearer, and whose lowest bit is 0 where another is as near; one from
that bound on gives the infinity of its sign. (R144, R145, R153, R154, R156, R179, R180) -/
def Obligations.ConversionResults : Prop :=
  Gives2 .cvtF64F32 (fun a => Word.ofN (f64.rne (f32.val a.toNat))) ∧ Gives2 .cvtF32F64 (fun a => Word.ofN (f32.rne (f64.val a.toNat))) ∧
  Gives2 .cvtF16F32 (fun a => Word.ofN (f16.rne (f32.val a.toNat))) ∧ Gives2 .cvtBf16F32 (fun a => Word.ofN (bf16.rne (f32.val a.toNat))) ∧
  Gives2 .cvtF32F16 (fun a => Word.ofN (f32.rne (f16.val a.toNat))) ∧ Gives2 .cvtF32Bf16 (fun a => Word.ofN (f32.rne (bf16.val a.toNat))) ∧
  Gives2 .cvtF32S64 (fun a => Word.ofN (f32.rne (ofInt a.toInt))) ∧ Gives2 .cvtF32N64 (fun a => Word.ofN (f32.rne (ofInt a.toNat))) ∧
  Gives2 .cvtF64S64 (fun a => Word.ofN (f64.rne (ofInt a.toInt))) ∧ Gives2 .cvtF64N64 (fun a => Word.ofN (f64.rne (ofInt a.toNat))) ∧
  Gives2 .cvtS32F32 (fun a => BitVec.ofInt 64 (toIntSat (-(2 ^ 31)) (2 ^ 31 - 1) (f32.val a.toNat))) ∧
  Gives2 .cvtN32F32 (fun a => BitVec.ofInt 64 (toIntSat 0 (2 ^ 32 - 1) (f32.val a.toNat))) ∧
  Gives2 .cvtS64F32 (fun a => BitVec.ofInt 64 (toIntSat (-(2 ^ 63)) (2 ^ 63 - 1) (f32.val a.toNat))) ∧
  Gives2 .cvtN64F32 (fun a => BitVec.ofInt 64 (toIntSat 0 (2 ^ 64 - 1) (f32.val a.toNat))) ∧
  Gives2 .cvtS32F64 (fun a => BitVec.ofInt 64 (toIntSat (-(2 ^ 31)) (2 ^ 31 - 1) (f64.val a.toNat))) ∧
  Gives2 .cvtN32F64 (fun a => BitVec.ofInt 64 (toIntSat 0 (2 ^ 32 - 1) (f64.val a.toNat))) ∧
  Gives2 .cvtS64F64 (fun a => BitVec.ofInt 64 (toIntSat (-(2 ^ 63)) (2 ^ 63 - 1) (f64.val a.toNat))) ∧
  Gives2 .cvtN64F64 (fun a => BitVec.ofInt 64 (toIntSat 0 (2 ^ 64 - 1) (f64.val a.toNat))) ∧
  (∀ lo hi : Int, ∀ x, lo ≤ 0 → 0 ≤ hi → lo ≤ toIntSat lo hi x ∧ toIntSat lo hi x ≤ hi) ∧
  (∀ lo hi : Int, toIntSat lo hi .nan = 0) ∧
  (∀ f ∈ [f64, f32, f16, bf16],
    let rat (x : FVal) : ℚ := match x with
      | .fin neg m e => (if neg then -1 else 1) * m * (2 : ℚ) ^ e
      | _ => 0
    let finite (x : FVal) : Prop := x ≠ .nan ∧ ∀ neg, x ≠ .inf neg
    (∀ x < 2 ^ f.width, f.val x ≠ .nan → f.enc (f.val x) = x ∧ f.rne (f.val x) = x) ∧ f.rne .nan = f.canon ∧ f.val f.canon = .nan ∧
    (∀ neg m e, 0 < m →
      let v : FVal := .fin neg m e
      let r := f.rne v
      let bound : ℚ := (2 - (2 : ℚ) ^ (-(f.p + 1 : Int))) * (2 : ℚ) ^ f.emax
      (bound ≤ |rat v| → f.val r = .inf neg) ∧
      (|rat v| < bound → r < 2 ^ f.width ∧ finite (f.val r) ∧ (f.val r).neg? = neg ∧
        ∀ x < 2 ^ f.width, finite (f.val x) → |rat v - rat (f.val r)| ≤ |rat v - rat (f.val x)| ∧
          (|rat v - rat (f.val r)| = |rat v - rat (f.val x)| → rat (f.val x) ≠ rat (f.val r) → r % 2 = 0))))

/-- Each of the sixteen 16-bit instructions reads its destination as its first source (MOV reads only S) and delivers the result
of its 32-bit form; IADDI adds an immediate from -16 to 15, SHLI and SHRI shift by 0 to 31. (R47, R136, R167, R181) -/
def Obligations.CompactResults : Prop :=
  (∀ o s tk t a s', Ready (.movCompact o) s tk t [a] s' → Delivers (.movCompact o) s tk t s' a) ∧
  GivesC .iaddCompact (fun x y => Word.ofN (x.toNat + y.toNat)) ∧
  GivesC .isubCompact (fun x y => BitVec.ofInt 64 ((x.toNat : Int) - y.toNat)) ∧
  GivesC .iadd32Compact (fun x y => sextN (Word.ofN (x.toNat % 2 ^ 32 + y.toNat % 2 ^ 32)) 32) ∧
  GivesI .iaddi (fun n x => BitVec.ofInt 64 (x.toNat + n.toInt)) ∧
  GivesC .andCompact (fun x y => x &&& y) ∧ GivesC .orCompact (fun x y => x ||| y) ∧ GivesC .xorCompact (fun x y => x ^^^ y) ∧
  GivesI .shli (fun n x => Word.ofN (x.toNat * 2 ^ n.toNat)) ∧ GivesI .shri (fun n x => Word.ofN (x.toNat / 2 ^ n.toNat)) ∧
  GivesC .faddCompact (fop2 f32 fun x y => x.add y) ∧ GivesC .fsubCompact (fop2 f32 fun x y => x.add y.negate) ∧
  GivesC .fmulCompact (fop2 f32 fun x y => x.mul y) ∧ GivesC .fmaxCompact (fmin2 f32 true) ∧
  GivesC .daddCompact (fop2 f64 fun x y => x.add y) ∧ GivesC .dmulCompact (fop2 f64 fun x y => x.mul y)

/-- ICMP.s, ICMP.n, FCMP and DCMP under a true guard write pP with the condition and p(P xor 1) with its negation, complete after
the latency of the compare's class; under a false guard both are false at once and no source is read; nothing else of the
state changes but that control continues in sequence. (R31, R40, R142, R171, R296, R298) -/
def Obligations.CompareResults : Prop :=
  let write (u : Thread) (p : Fin 8) (x y : Bool) : Thread := (u.setPred p.1 x).setPred (p.1 ^^^ 1) y
  let Cmp (i : Instr) (p : Fin 8) (c : Word → Word → Bool) : Prop :=
    (∀ s tk t a b s' u, Ready i s tk t [a, b] s' → s'.thread? tk = some u →
      exec i s = .next (s'.setThread tk (((write u p (c a b) (!c a b)).mark_ ([64 + p.1, 64 + (p.1 ^^^ 1)].filter (· < 71)) (s'.cycOf u)
        (s'.cycOf u + latency (instrInfo i).cls)).past i))) ∧
    (∀ s tk t, Skipped i s tk t → exec i s = .next (s.setThread tk ((write t p false false).past i)))
  (∀ o, Cmp (.icmpS o) o.p (iholds true o.c)) ∧ (∀ o, Cmp (.icmpN o) o.p (iholds false o.c)) ∧
  (∀ o, Cmp (.fcmp o) o.p fun x y => fholds o.c (f32.val x.toNat) (f32.val y.toNat)) ∧
  (∀ o, Cmp (.dcmp o) o.p fun x y => fholds o.c (f64.val x.toNat) (f64.val y.toNat))

/-- EQ, NE and TST have one meaning; LT, LE, GT and GE compare the full 64-bit values, signed for ICMP.s and unsigned for ICMP.n. (R40, R142) -/
def Obligations.IntegerConditions : Prop :=
  ∀ x y : Word,
    (∀ g, iholds g .eq x y = decide (x = y) ∧ iholds g .ne x y = decide (x ≠ y) ∧ iholds g .tst x y = decide (x &&& y ≠ 0)) ∧
    (iholds true .lt x y = decide (x.toInt < y.toInt) ∧ iholds true .le x y = decide (x.toInt ≤ y.toInt) ∧
      iholds true .gt x y = decide (x.toInt > y.toInt) ∧ iholds true .ge x y = decide (x.toInt ≥ y.toInt)) ∧
    (iholds false .lt x y = decide (x.toNat < y.toNat) ∧ iholds false .le x y = decide (x.toNat ≤ y.toNat) ∧
      iholds false .gt x y = decide (x.toNat > y.toNat) ∧ iholds false .ge x y = decide (x.toNat ≥ y.toNat))

/-- SEL reads both sources and delivers A under a true guard and B under a false one; MOVS delivers the special register of its
id as it stands at issue, by the table of R139: clk of the cluster, tmr, the loop counters from the outermost level on (0
where there is no such level), the tile size, the region start, the unit's index, the launch's id, the core and the logical
die, pkgid, tcause and tloc; URD of an index below 160 with no UWR of the thread in flight to it delivers that uniform; EX2S
writes the significand to D and the integer to D + 1, or with W = 1, whatever D names, neither, and shifts both into the
latches. Where the manual leaves a point open it follows the model's own choice, log 10. (R139, R140, R143, R177) -/
def Obligations.SelectAndSpecialReads : Prop :=
  (∀ o s tk t a b s', Ready (.sel o) s tk t [a, b] s' → Delivers (.sel o) s tk t s' (if t.guard (some o.g) then a else b)) ∧
  (∀ o s tk t vals s', Ready (.movs o) s tk t vals s' → Delivers (.movs o) s tk t s' (s.special t o.id.1)) ∧
  (∀ (s : State) t u, s.unit? t.uid = some u →
    s.special t 0 = Word.ofN (s.cluster (u.ck / 8)).clk ∧ s.special t 1 = Word.ofN s.hub.tmr ∧
    (∀ k l, k < 3 → t.loops.reverse[k]? = some l → s.special t (2 + k) = l.lc.setWidth 64) ∧
    (∀ k, k < 3 → t.loops.length ≤ k → s.special t (2 + k) = 0) ∧
    s.special t 5 = Word.ofN (u.gang t.gg).gpart ∧ s.special t 6 = t.rpc ∧ s.special t 7 = Word.ofN u.idx ∧ s.special t 8 = Word.ofN u.lid ∧
    s.special t 9 = Word.ofN (u.ck % 64) ∧
    (∀ d, d < 4 → s.physOf d = some (u.ck / 64) → (∀ e, e < d → s.physOf e ≠ some (u.ck / 64)) → s.special t 10 = Word.ofN d) ∧
    s.special t 11 = Word.ofN s.hub.pkgid ∧ s.special t 12 = t.tcause ∧ s.special t 13 = t.tloc) ∧
  (∀ o s tk t a s' x, Ready (.urd o) s tk t [a] s' → a.toNat < 160 → s'.unit? t.uid = some x → x.uwrFlight tk a.toNat = false →
    Delivers (.urd o) s tk t s' (x.uni.getD a.toNat 0)) ∧
  (∀ o s tk t a s' u, Ready (.ex2s o) s tk t [a] s' → s'.thread? tk = some u →
    let r := ex2Split (f32.val a.toNat)
    let now := s'.cycOf t
    let w := match o.w, o.d with
      | false, .v n => ((u.setReg n.1 (Word.ofN r.1)).setReg (n.1 + 1) (BitVec.ofInt 64 r.2)).mark_ [n.1, n.1 + 1] now (now + 12)
      | _, _ => u
    exec (.ex2s o) s = .next (s'.setThread tk (((w.shift (Word.ofN r.1) (now + 12)).shift (BitVec.ofInt 64 r.2) (now + 12)).past (.ex2s o))))

/-- UWR of an index below 160 leaves the latches, the registers and memory as they were and puts one write of the source under
that index in flight, which completes at the second cycle from now; a completed write is what a read of that uniform then
gives. Where the manual leaves a point open it follows the model's own choice, log 19. (R140, R141) -/
def Obligations.UniformWrite : Prop :=
  (∀ o s tk t a i s' u x, Ready (.uwr o) s tk t [a, i] s' → s'.thread? tk = some u → s'.unit? t.uid = some x → i.toNat < 160 →
    ∃ w, exec (.uwr o) s = .next w ∧ w.thread? tk = some (u.past (.uwr o)) ∧ w.mem = s'.mem ∧ w.cores = s'.cores ∧ w.hub = s'.hub ∧
      ∃ y, w.unit? t.uid = some y ∧ y.uni = x.uni ∧ y.scr = x.scr ∧ y.uwr.Perm
        ({ n := i.toNat, val := a, tk := tk, arr := (x.gang t.gg).home, seat := (x.gang t.gg).seat.getD 0,
           done := (s'.cluster (x.ck / 8)).clk + 2 } :: x.uwr)) ∧
  (∀ (s : State) uid x r, s.unit? uid = some x → x.uwr = [r] → r.n < x.uni.length →
    ∃ y, (s.landUwr uid fun q => q.done ≤ r.done).unit? uid = some y ∧ y.uwr = [] ∧ y.uni.getD r.n 0 = r.val)

/-- Under a false guard every instruction but SEL, the compares, BR, CALL and LOOP leaves the whole state as it was, except that
the thread passes it: no source is read, no latch shifts, nothing is written. (R30) -/
def Obligations.FalseGuardSkips : Prop :=
  ∀ i s tk t, isEvent i = false → i ≠ .ill → i ≠ .illParcel → (∀ o, i ≠ .imx o) → (instrInfo i).mode = .normal →
    Skipped i s tk t → exec i s = .next (s.setThread tk (t.past i))

/-- An encoded instruction whose operand checks fail takes the trap OPERAND whatever its guard, with nothing of it done. The
checks refuse: a small integer in the first source's field A; a lane register that a source or the destination names at or
above the role's count, with v59 for CALL and CALLI and D + 1 for EX2S, ATOM CAS, CAS.promote and HACC; a stream port in D of
a load, a store, LDACQ, STREL and ATOM, of an instruction that reads D, of EX2S with W = 0 and of a 16-bit form; an odd D of
the ATOM operations with a pair; xi without an IMX before the instruction, with two in an f32 position where the low 18 bits
are not 0, and in a 16-bit format where there are two or the low 9 bits are not 0. IADD is refused for nothing else. Where
the manual leaves a point open it follows the model's own choice, log 81. (R33, R35, R36, R37, R38, R39, R51) -/
def Obligations.OperandTrap : Prop :=
  (∀ i s tk t, isEvent i = false → i ≠ .ill → i ≠ .illParcel → (∀ o, i ≠ .imx o) → s.cur = some tk → s.thread? tk = some t →
    operandOk i t.nregs t.pre = false → exec i s = .next (s.deliver tk cOPERAND 0 t.pc)) ∧
  (∀ n pre,
    let no (i : Instr) : Prop := operandOk i n pre = false
    (∀ i p k rest, (instrInfo i).srcs = (p, .imm k) :: rest → no i) ∧
    (∀ i p r, (p, .v r) ∈ (instrInfo i).srcs → n ≤ r.1 → no i) ∧ (∀ i r, (instrInfo i).dst = some (.v r) → n ≤ r.1 → no i) ∧
    (n < 60 → (∀ o, no (.call o)) ∧ ∀ o, no (.calli o)) ∧
    (∀ o r, o.w = false → o.d = .v r → n ≤ r.1 + 1 → no (.ex2s o)) ∧ (∀ o k, o.w = false → o.d = .m k → no (.ex2s o)) ∧
    (∀ o k, o.d = .m k → ∀ mk ∈ [Instr.ld8, .ld16, .ld32, .ld64, .ld8S, .ld16S, .ld32S, .st8, .st16, .st32, .st64], no (mk o)) ∧
    (∀ o k, o.d = .m k → no (.ldacq o)) ∧ (∀ o k, o.d = .m k → no (.strel o)) ∧
    (∀ o k, o.d = .m k → ∀ mk ∈ [Instr.atomAdd, .atomAnd, .atomOr, .atomXor, .atomMinS, .atomMaxS, .atomMinN, .atomMaxN, .atomXchg, .atomCas,
      .atomFadd, .atomIncw, .atomCasPromote], no (mk o)) ∧ (∀ o k, o.d = .m k → no (.atomHacc o)) ∧
    (∀ o k, o.d = .m k → ∀ mk ∈ [Instr.imac, .imac32, .ffma, .dfma, .hfma, .bfma], no (mk o)) ∧
    (∀ o k, o.d = .m k → ∀ mk ∈ [Instr.fscale, .dscale], no (mk o)) ∧
    (∀ o k, o.d = .m k → ∀ mk ∈ [Instr.uwr, .wait, .icinv, .shfi, .shfa, .shfb, .shfx], no (mk o)) ∧
    (∀ o r, o.d = .v r → (r.1 % 2 = 1 ∨ n ≤ r.1 + 1) → no (.atomCas o) ∧ no (.atomCasPromote o)) ∧
    (∀ o r, o.d = .v r → (r.1 % 2 = 1 ∨ n ≤ r.1 + 1) → no (.atomHacc o)) ∧
    (∀ i p, (p, .xi) ∈ (instrInfo i).srcs → (pre = [] → no i) ∧
      (∀ a b, pre = [a, b] → p = .f32 → (a ++ b).toNat % 2 ^ 18 ≠ 0 → no i) ∧
      (p ∈ [.h4, .b4, .h1, .b1] → (∀ a b, pre = [a, b] → no i) ∧ ∀ a, pre = [a] → a.toNat % 2 ^ 9 ≠ 0 → no i)) ∧
    (∀ o, operandOk (.iadd o) n pre = true ↔ (∀ k, o.a ≠ .imm k) ∧ (∀ r, (o.a = .v r ∨ o.b = .v r ∨ o.w = false ∧ o.d = .v r) → r.1 < n) ∧
      ((o.a = .xi ∨ o.b = .xi) → pre.length = 1 ∨ pre.length = 2)))

/-- An encoded instruction at which a pending data-path error is due takes the trap with the error's cause and the address of the
access, in place of itself, and that error no longer waits; one that had parked has read nothing of its ports. Where the
manual leaves a point open it follows the model's own choices, logs 17 and 81. (R78) -/
def Obligations.PendingErrorTrap : Prop :=
  ∀ i s tk t e, isEvent i = false → i ≠ .ill → i ≠ .illParcel → (∀ o, i ≠ .imx o) → s.cur = some tk → s.thread? tk = some t →
    operandOk i t.nregs t.pre = true → (instrInfo i).dueError t = some e →
    exec i s = .next (((s.setThread tk { t with errs := t.errs.erase e }).restorePorts tk t.before).deliver tk e.cause 0 e.tloc)

/-- LD8 to LD32.s access A + B with their width; where the checks pass, the thread goes on past the load with one load record
more: outside the collector path the record has the extended bytes at once, or the cause of the error that answers; where the
core holds the line, it has the extended bytes at once; else it joins a collector entry of its line and has no value yet.
Memory, the registers and the latches are as they were. Where the manual leaves a point open it follows the model's own
choice, log 18. (R57, R115, R116, R118, R119, R254) -/
def Obligations.LoadsIssue : Prop :=
  let Load (mk : MemOp → Instr) (n : Nat) (sgn : Bool) : Prop :=
    ∀ o s tk t a b s0 s1 l s2, Ready (mk o) s tk t [a, b] s0 → WentOut s0 tk s1 → Reaches s1 tk t (a + b) n 0 true false l s2 →
      let ck := s2.ckOf t.uid
      let s2' := { s2 with seq := s2.seq + 1 }
      let line := ((s2.core ck).l1.find? fun e => e.1 == l.line).map (·.2)
      let r : LoadRec := { idx := 0, d := (dstRegs o.d).headD 0, size := n, sgn := sgn, loc := l, va := a + b, tloc := 0, seq := s2.seq }
      let value (bs : Option (List Byte)) : Word := extend (s2'.seen ck tk s2.seq (s2'.specOf t.uid) l n bs) sgn
      let done (x : State) (r : LoadRec) : Out := .next ((x.addLoad tk r).modThread tk fun u => u.past (mk o))
      (∀ c, l.collected = false → s2'.locErr l n true = some c → exec (mk o) s = done s2' { r with err := some c }) ∧
      (l.collected = false → s2'.locErr l n true = none → exec (mk o) s = done (s2'.markSeen ck tk s2.seq l n) { r with res := some (value none) }) ∧
      (∀ bs, l.collected = true → line = some bs →
        exec (mk o) s = done (s2'.markSeen ck tk s2.seq l n) { r with res := some (value (some bs)) }) ∧
      (∀ s3, l.collected = true → line = none → s2'.joinEntry ck l = some s3 → exec (mk o) s = done s3 r)
  Load .ld8 1 false ∧ Load .ld16 2 false ∧ Load .ld32 4 false ∧ Load .ld64 8 false ∧
  Load .ld8S 1 true ∧ Load .ld16S 2 true ∧ Load .ld32S 4 true ∧
  (∀ (s : State) ck tk seq l n, (s.markSeen ck tk seq l n).mem = s.mem ∧ (s.markSeen ck tk seq l n).threads = s.threads ∧
    (s.markSeen ck tk seq l n).units = s.units ∧ (s.markSeen ck tk seq l n).hub = s.hub)

/-- ST8 to ST64 access A + B with their width; where the checks pass, the low bytes of the third source join the core's writes
that have not performed, as one write at the place that A + B names, and the thread goes on; no byte of memory changes yet.
Where the manual leaves a point open it follows the model's own choice, log 6. (R57, R115, R239, R255) -/
def Obligations.StoresIssue : Prop :=
  let Store (mk : MemOp → Instr) (n : Nat) : Prop :=
    ∀ o s tk t a b c s0 s1 l s2 s3, Ready (mk o) s tk t [a, b, c] s0 → WentOut s0 tk s1 → Reaches s1 tk t (a + b) n 1 false true l s2 →
      let ck := s2.ckOf t.uid
      s2.specFits (s2.specOf t.uid) l = true → s2.joinEntry ck l = some s3 →
      let p : Pend := { tk := tk, seq := s3.seq, loc := l, bytes := leBytes n c.toNat, va := a + b, tloc := t.pc, inColl := l.collected,
                        spec := s3.specAt t.uid l }
      exec (mk o) s = .next (((({ s3 with seq := s3.seq + 1 }).modCore ck fun k => { k with pend := k.pend ++ [p] }).modThread tk
        fun u => u.touched l n).modThread tk fun u => u.past (mk o)) ∧ s3.mem = s2.mem ∧ s3.threads = s2.threads ∧ s3.units = s2.units
  Store .st8 1 ∧ Store .st16 2 ∧ Store .st32 4 ∧ Store .st64 8

/-- LDACQ reads its operand at its home, updates the core's copy of the line, if it has one, and becomes an outstanding load that
its thread waits for, or one with the cause of the error that answers; it is an acquire of its thread, and an 8-byte one
closes the windows of the ops, of the cores in its scope, whose counter update it has read; STREL, where every earlier access
that its scope names has performed and the thread's uniform writes have completed, makes the release, and writes the source
at its place at once; a region starts after it. Where the manual leaves a point open it follows the model's own choices, logs
15, 16, 20, 26 and 71. (R78, R119, R241, R242, R256, R257) -/
def Obligations.AcquireAndRelease : Prop :=
  (∀ o s tk t a s0 s1 l s2 s3, Ready (.ldacq o) s tk t [a] s0 → WentOut s0 tk s1 →
    let n := if o.wide then 8 else 4
    Reaches s1 tk t a n 0 true false l s2 → Promoted (o.pr && isWide o.sc) s2 t l s3 →
    let ck := s2.ckOf t.uid
    let s4 := s3.orderAtHome ck tk l n
    let s5 := { s4 with seq := s4.seq + 1 }
    let r : LoadRec := { idx := 0, d := (dstRegs o.d).headD 0, size := n, loc := l, va := a, tloc := 0, seq := s4.seq, block := true, acq := isWide o.sc }
    let done (x : State) (r : LoadRec) : Out := .next ((x.addLoad tk r).modThread tk fun u => u.past (.ldacq o))
    (∀ c, s5.locErr l n true = some c → exec (.ldacq o) s = done s5 { r with err := some c }) ∧
    (s5.locErr l n true = none →
      let bs := s5.seen ck tk s4.seq (s5.specOf t.uid) l n none
      let s6 := s5.acquireAt tk t o.sc s4.seq l n (leVal bs)
      exec (.ldacq o) s = done (s6.l1Update ck l (s6.bytesAt 0 l n)) { r with res := some (extend bs false) })) ∧
  (∀ o s tk t a c s0 l s1 s2, Ready (.strel o) s tk t [a, c] s0 →
    let n := if o.wide then 8 else 4
    (s0.speculative t.uid && isWide o.sc) = false → Reaches s0 tk t a n 1 false true l s1 → Performed s1 tk t o.sc s2 →
    s2.specFits (s2.specOf t.uid) l = true →
    exec (.strel o) s = .next (((s2.release (s2.ckOf t.uid) o.sc l).homeWrite tk t l (leBytes n c.toNat) a).modThread tk
      fun u => u.pastR (.strel o)))

/-- The thirteen ATOM operations but HACC, on 4 or 8 bytes at A with the operand in D (and the new value of a compare and swap in
D + 1), where the checks and, with the release bit, the order of the scope are met: the operation is made at the place, the
old value goes to the thread as an outstanding load, and a region starts after it; one with the release bit is an acquire
too, and an 8-byte one then closes the windows of the ops, of the cores in its scope, whose counter update it has read. Where
the manual leaves a point open it follows the model's own choices, logs 20, 26 and 71. (R244, R245, R246, R257, R268) -/
def Obligations.AtomicsComplete : Prop :=
  let Atom (mk : AtomOp → Instr) (promote pair : Bool) (f : Thread → AtomOp → AtomFn) : Prop :=
    ∀ o s tk t a x s0 s1 l s2 s3 s4, Ready (mk o) s tk t [a, x] s0 → s0.speculative t.uid = false → WentOut s0 tk s1 →
      let n := if o.wide then 8 else 4
      let sc := scopeOf o.sc
      Reaches s1 tk t a n 2 true true l s2 → Released o.ar s2 tk t sc l s3 → Promoted (promote && isWide sc) s3 t l s4 →
      let ck := s3.ckOf t.uid
      ∀ old s5, s4.atomAt ck tk l n (fun y => f t o n y (x.toNat % 2 ^ (8 * n))) = (.inl old, s5) →
      let s6 := s5.modThread tk fun u => u.touched l n
      let s7 := if o.ar then s6.acquireAt tk t sc (s6.seq - 1) l n old else s6
      exec (mk o) s = .next ((s7.addLoad tk
        { idx := 0, d := (dstRegs o.d).headD 0, pair := pair, size := n, loc := l, va := a, tloc := 0, seq := s5.seq, block := o.ar,
          acq := o.ar && isWide sc, res := some (Word.ofN old) }).modThread tk fun u => u.pastR (mk o))
  let swap (t : Thread) (o : AtomOp) (n old x : Nat) : Nat :=
    if old = x then (t.reg ((dstRegs o.d).headD 0 + 1)).toNat % 2 ^ (8 * n) else old
  Atom .atomAdd false false (fun _ _ n old x => (old + x) % 2 ^ (8 * n)) ∧ Atom .atomAnd false false (fun _ _ _ old x => old &&& x) ∧
  Atom .atomOr false false (fun _ _ _ old x => old ||| x) ∧ Atom .atomXor false false (fun _ _ _ old x => old ^^^ x) ∧
  Atom .atomMinS false false (fun _ _ n old x => if sgnOf n old ≤ sgnOf n x then old else x) ∧
  Atom .atomMaxS false false (fun _ _ n old x => if sgnOf n old ≥ sgnOf n x then old else x) ∧
  Atom .atomMinN false false (fun _ _ _ old x => min old x) ∧ Atom .atomMaxN false false (fun _ _ _ old x => max old x) ∧
  Atom .atomXchg false false (fun _ _ _ _ x => x) ∧
  Atom .atomFadd false false (fun _ _ n old x => (if n = 4 then f32 else f64).rne (((if n = 4 then f32 else f64).val old).add ((if n = 4 then f32 else f64).val x))) ∧
  Atom .atomIncw false false (fun _ _ _ old x => if old ≥ x then 0 else old + 1) ∧
  Atom .atomCas false true swap ∧ Atom .atomCasPromote true true swap

/-- At 4 or 8 bytes in memory at home, with no engine op in flight or waited for, no save block, no launch that holds a
speculation buffer, and no write pending and no collector entry open in the core: the old value is the little-endian value of
the bytes there, afterwards the bytes there are those of the new value, and every other byte of memory reads as before. Where
the manual leaves a point open it follows the model's own choices, logs 20 and 71. (R244, R245) -/
def Obligations.AtomicAtHome : Prop :=
  ∀ (s : State) ck tk d n f, s.mem.wf = true → (n = 4 ∨ n = 8) → (∀ x, f x < 2 ^ (8 * n)) → s.targetErr d n true = none →
    (s.core ck).coll = [] → (s.core ck).pend = [] → s.NoSpec → s.Idle →
    let r := s.atomAt ck tk (.home d) n f
    r.1 = .inl (leVal (s.mem.bytes d n)) ∧ leVal (r.2.mem.bytes d n) = f (leVal (s.mem.bytes d n)) ∧
      ∀ a, (a < d ∨ d + n ≤ a) → r.2.mem.byte a = s.mem.byte a

/-- HACC on a well-formed table in the group's scratchpad, whose descriptor's two words lie at two places that are present and
unwatched: a zero key gives status 3; else, of the entries h, h + 1, ... of the table, where the line of each is present and
no comparator matches, the first that holds the key or nothing decides: the key gives status 0, the sum in D + 1 and the sum
in the entry; an empty one gives status 1, the operand in D + 1 and a new entry; where neither is found within min(8,
capacity) entries, status 2. An entry that a plain store of another thread races with holds undefined values before it and
after it. Where no engine op is in flight or waited for and no write of the core pending, a word of the table is that of the
scratchpad. A region starts after it; with W = 1 it is an acquire of its thread. (R109, R247, R248) -/
def Obligations.HashAccumulate : Prop :=
  (∀ o s tk t a k s0 s1 l m s2 s3 s4, Ready (.atomHacc o) s tk t [a, k] s0 → s0.speculative t.uid = false → WentOut s0 tk s1 →
    a.toNat % 16 = 0 → Placed s1 tk t a 8 2 l s2 → Placed s2 tk t (a + 8) 8 2 m s3 → bits a.toNat 63 56 = 0xF0 →
    (∀ x, (x = l ∨ x = m) → s3.watchHit t x 8 true false = none ∧ s3.isAbsent x = false) →
    Released o.ar s3 tk t .core l s4 →
    let ck := s4.ckOf t.uid
    let s5 := (s4.orderAtHome ck tk l 8).orderAtHome ck tk m 8
    let desc := s5.seen ck tk s5.seq 0 l 8 none ++ s5.seen ck tk s5.seq 0 m 8 none
    let base := field desc 0 4
    let cap := 2 ^ field desc 4 1
    let vt := field desc 5 1
    base % 16 = 0 → field desc 4 1 ≤ 12 → vt ≤ 1 → zeroField desc 6 10 = true →
    base + 16 * cap ≤ ((s5.unit? t.uid).map (·.scrSize)).getD 0 →
    let done (y : State) (st : Nat) (v : Option Word) : Out :=
      let y := if o.ar then y.acquire tk else y
      .next ((y.addLoad tk
        { idx := 0, d := (dstRegs o.d).headD 0, pair := true, size := 16, loc := l, va := a, tloc := 0, seq := y.seq,
          res := some (Word.ofN st), res2 := v, block := o.ar }).modThread tk fun u => u.pastR (.atomHacc o))
    let raced := s5.racingEntries tk t.uid base cap
    let s6 := s5.tableRaces ck tk t.uid base cap
    let x := t.reg ((dstRegs o.d).headD 0 + 1)
    let at_ (j : Nat) := base + 16 * ((k.toNat * 0x9E3779B97F4A7C15 % 2 ^ 64 / 2 ^ (64 - field desc 4 1) + j) % cap)
    let key (j : Nat) := leVal (s6.tableWord t tk t.uid (at_ j))
    (∀ j, s6.watchHit t (.scratch t.uid (at_ j)) 16 true false = none ∧ s6.watchHit t (.scratch t.uid (at_ j)) 16 false true = none ∧
      s6.isAbsent (.scratch t.uid (at_ j)) = false) →
    (k = 0 → exec (.atomHacc o) s = done s5 3 none) ∧
    (k ≠ 0 → (∀ j < min 8 cap, key j ≠ k.toNat ∧ key j ≠ 0) → exec (.atomHacc o) s = done s6 2 none) ∧
    (∀ j < min 8 cap, k ≠ 0 → (∀ i < j, key i ≠ k.toNat ∧ key i ≠ 0) →
      (key j = k.toNat →
        let v := haccSum vt (leVal (s6.tableWord t tk t.uid (at_ j + 8))) x
        exec (.atomHacc o) s = done ((s6.tableWrite tk t.uid (at_ j) none v).forgetEntries t.uid raced) 0 (some v)) ∧
      (key j = 0 → exec (.atomHacc o) s = done ((s6.tableWrite tk t.uid (at_ j) (some k.toNat) x).forgetEntries t.uid raced) 1 (some x)))) ∧
  (∀ (s : State) t tk uid off, s.Idle → (s.core (s.ckOf t.uid)).pend = [] →
    s.tableWord t tk uid off = s.bytesAt 0 (.scratch uid off) 8)

/-- FENCE at each scope and BND, where every earlier access that the scope names has performed and the thread's uniform writes
have completed: at die or wider, and for BND, the core has made a publication and dropped its L1 lines; the thread has
acquired; no prefetched stream element is kept; control continues in sequence, after BND with a new region. Where the manual
leaves a point open it follows the model's own choices, logs 15, 16 and 60. (R128, R250, R251, R255, R256) -/
def Obligations.FencesComplete : Prop :=
  let Fence (mk : OpG → Instr) (sc : Scope) : Prop :=
    ∀ o s tk t s1, Ready (mk o) s tk t [] s → Performed s tk t sc s1 →
      exec (mk o) s = .next ((((if isWide sc then (s1.publish (s1.ckOf t.uid)).refresh (s1.ckOf t.uid) else s1).acquire tk).modThread tk
        Thread.dropPrefetched).modThread tk fun u => u.past (mk o))
  Fence .fenceGrp .grp ∧ Fence .fenceCore .core ∧ Fence .fenceDie .die ∧ Fence .fenceDev .dev ∧ Fence .fenceSys .sys ∧
  (∀ o s tk t s1, Ready (.bnd o) s tk t [] s → Performed s tk t .dev s1 →
    exec (.bnd o) s = .next (((((s1.publish (s1.ckOf t.uid)).refresh (s1.ckOf t.uid)).acquire tk).modThread tk
      Thread.dropPrefetched).modThread tk fun u => u.pastR (.bnd o)))

/-- STORE_PERFORM of any pending write completes: where its collector entry has left and no older pending write that has not left
with it shares a byte with one that leaves with it, it and those of its entry are taken off the list and perform in their
order, and a thread that waits to end may end; else nothing changes. A write at home whose target answers, with no engine op
in flight or waited for, no save block and no launch that holds a speculation buffer, changes memory at its bytes from its
address on, and no other byte of memory; that is what STORE_PERFORM does of one that left alone. LOAD_REPLY of any
outstanding load of a thread whose unit is resident completes: an error is logged; the record goes, and the value is written
to its register (and the second one of a pair, where it has one), or the error waits for its delivery point and the registers
stay; prefetched elements are dropped after an access that held the thread, and an acquire that got its value refreshes the
core. A load with no result yet, a thread saved away and a number that no load has change nothing. Where the manual leaves a
point open it follows the model's own choice, log 18. (R78, R115, R116, R118, R119, R128, R239, R252, R255, R256, R396) -/
def Obligations.WritesPerformAndLoadsReply : Prop :=
  let shares (x q : Pend) : Prop := x.loc.overlap x.bytes.length q.loc q.bytes.length = true
  (∀ (s : State) ck idx p, (s.core ck).pend[idx]? = some p → p.inColl = false →
    (∀ a q b, (s.core ck).pend = a ++ q :: b → p.with_ q = true → ∀ x ∈ a, shares x q → p.with_ x = true) →
    let ps := (s.core ck).pend.filter p.with_
    exec (.storePerform ck idx) s = .next (ps.foldl (fun x q => x.tryEnding q.tk)
      (ps.foldl (fun x q => x.perform ck q) (s.setCore ck { s.core ck with pend := (s.core ck).pend.filter fun q => !p.with_ q })))) ∧
  (∀ (s : State) ck idx, (∀ p, (s.core ck).pend[idx]? = some p → p.inColl = true ∨
      ∃ a q b, (s.core ck).pend = a ++ q :: b ∧ p.with_ q = true ∧ ∃ x ∈ a, shares x q ∧ p.with_ x = false) →
    exec (.storePerform ck idx) s = .next s) ∧
  (∀ (s : State) ck p d, s.mem.wf = true → p.loc = .home d → p.spec = 0 → s.targetErr d p.bytes.length false (some p.seq) = none →
    s.NoSpec → s.Idle →
    ∀ a, (s.perform ck p).mem.byte a = if d ≤ a ∧ a < d + p.bytes.length then p.bytes.getD (a - d) 0 else s.mem.byte a) ∧
  (∀ (s : State) ck idx p d, s.mem.wf = true → (s.core ck).pend[idx]? = some p → p.loc = .home d → p.inColl = false → p.spec = 0 →
    (∀ j q, j ≠ idx → (s.core ck).pend[j]? = some q → p.with_ q = false ∧ (j < idx → ¬ shares q p)) →
    s.targetErr d p.bytes.length false (some p.seq) = none → s.NoSpec → (∀ t, s.thread? p.tk = some t → t.ending = false) → s.Idle →
    ∃ s', exec (.storePerform ck idx) s = .next s' ∧ (s'.core ck).pend = dropAt (s.core ck).pend idx ∧
      ∀ a, s'.mem.byte a = if d ≤ a ∧ a < d + p.bytes.length then p.bytes.getD (a - d) 0 else s.mem.byte a) ∧
  (∀ (s : State) tk t idx r, s.thread? tk = some t → (t.loads.find? fun r => r.idx == idx) = some r → s.away t = false →
    (r.res.isSome = true ∨ r.err.isSome = true) →
    let s1 := match r.err with | some c => s.logThread t r.va c 0 | none => s
    let s2 := s1.modThread tk fun u => if r.block then (u.loadDone r).dropPrefetched else u.loadDone r
    let s3 := if r.acq && r.err.isNone then s2.refresh (s2.ckOf t.uid) else s2
    exec (.loadReply tk idx) s = .next (s3.tryEnding tk)) ∧
  (∀ (s : State) tk t r, s.thread? tk = some t → t.ending = false → s.away t = false → t.loads = [r] → r.acq = false →
    (∀ v, r.err = none → r.res = some v →
      let u := { t with loads := [] }
      let w := u.setReg r.d v
      let x := match r.pair, r.res2 with
        | true, some y => w.setReg (r.d + 1) y
        | _, _ => w
      exec (.loadReply tk r.idx) s = .next (s.setThread tk (if r.block then x.dropPrefetched else x))) ∧
    (∀ c, r.err = some c → r.block = false → ∃ s', exec (.loadReply tk r.idx) s = .next s' ∧ s'.mem = s.mem ∧
      s'.thread? tk = some { t with loads := [], errs := t.errs ++ [{ regs := r.d :: (if r.pair then [r.d + 1] else []), cause := c, tloc := r.tloc }] })) ∧
  (∀ (s : State) tk t idx, s.thread? tk = some t → (∀ r, (t.loads.find? fun r => r.idx == idx) = some r →
      s.away t = true ∨ (r.res = none ∧ r.err = none)) → exec (.loadReply tk idx) s = .next s)

/-- A taken BR or JMPI passes control to its target, which is the branch word's address plus twice the offset, or A, and ends the
loop levels that the target leaves; a taken CALL or CALLI writes the link and raises the call depth instead; with the guard
false a BR or CALL continues in sequence and writes nothing. A branch with U = 1 is checked first, with either outcome. An
odd target traps ALIGN at the transfer. (R44, R270, R271, R272, R273, R275, R283) -/
def Obligations.TransfersComplete : Prop :=
  let target (o : BrOp) (t : Thread) : Word := BitVec.ofInt 64 (t.pw.toNat + 2 * o.off.toInt)
  let leave (x : State) (tk : Nat) (a : Word) : Out :=
    .next ((x.modThread tk fun u => { u with loops := exitCheck u.cd a u.loops }).modThread tk fun u => u.jumpTo a)
  let link (x : State) (tk : Nat) (a : Word) : Out :=
    .next ((x.modThread tk fun u => { u.setReg 59 (u.pw + 4) with cd := min 65535 (u.cd + 1) }).modThread tk fun u => u.jumpTo a)
  let room (x : State) (tk : Nat) : Prop := ∃ u, x.thread? tk = some u ∧ (u.cd < 65535 ∨ u.cd = 65535 ∧ u.loops = [])
  (∀ o s tk t s1, Ready (.br o) s tk t [] s → Checked o.u true s tk t s1 → exec (.br o) s = leave s1 tk (target o t)) ∧
  (∀ o s tk t s1, Ready (.call o) s tk t [] s → Checked o.u true s tk t s1 → room s1 tk → exec (.call o) s = link s1 tk (target o t)) ∧
  (∀ o s tk t s1, Skipped (.br o) s tk t → Checked o.u false s tk t s1 →
    exec (.br o) s = .next (s1.modThread tk fun u => u.past (.br o))) ∧
  (∀ o s tk t s1, Skipped (.call o) s tk t → Checked o.u false s tk t s1 →
    exec (.call o) s = .next (s1.modThread tk fun u => u.past (.call o))) ∧
  (∀ o s tk t a s1, Ready (.jmpi o) s tk t [a] s1 → a.toNat % 2 = 0 → exec (.jmpi o) s = leave s1 tk a) ∧
  (∀ o s tk t a s1, Ready (.calli o) s tk t [a] s1 → a.toNat % 2 = 0 → room s1 tk → exec (.calli o) s = link s1 tk a) ∧
  (∀ s tk t a s1, a.toNat % 2 = 1 →
    let traps : Out := .next ((s1.restorePorts tk t.before).deliver tk cALIGN 0 (((s1.thread? tk).map (·.pc)).getD 0))
    (∀ o, Ready (.jmpi o) s tk t [a] s1 → exec (.jmpi o) s = traps) ∧ (∀ o, Ready (.calli o) s tk t [a] s1 → exec (.calli o) s = traps) ∧
    (∀ o, Ready (.ret o) s tk t [] s1 → t.reg 59 = a → exec (.ret o) s = traps))

/-- RET with an even v59 in a thread that is in no handler, or whose lowered call depth is not the saved one, passes control to
v59 with the call depth lowered by 1 (not below 0), and ends the levels that are recorded deeper and those the target leaves;
the handler return also restores v59 from HV, clears IH and starts a region at the target. Registers but v59, predicates,
latches and memory are unchanged. (R273, R283, R286, R343) -/
def Obligations.ReturnCompletes : Prop :=
  ∀ o s tk t, Ready (.ret o) s tk t [] s → (t.reg 59).toNat % 2 = 0 →
    let a := t.reg 59
    let cd := t.cd - 1
    let ls := exitCheck cd a (dropDeep cd t.loops)
    (¬(t.ih = true ∧ cd = t.hd) → exec (.ret o) s = .next (s.setThread tk ({ t with cd := cd, loops := ls }.jumpTo a))) ∧
    (t.ih = true → cd = t.hd → exec (.ret o) s = .next (s.setThread tk
      (({ t.setReg 59 t.hv with ih := false, cd := cd, loops := ls }.jumpTo a).startRegion a)))

/-- LOOP with a count from 1 to 2^32 - 1, in a thread with a free level whose innermost level at its call depth does not end
inside the new body, records the count, the start pw + 4, the end after L instructions and the call depth, and continues at
the start; with a count of 0, or under a false guard, it continues in sequence at the end of the body. A count above 2^32 - 1
under a true guard traps LOOP, before the body is read; a fourth level, and a body that ends past its enclosing body, trap
LOOP after it. (R281, R282) -/
def Obligations.LoopStarts : Prop :=
  (∀ o s tk t n s0 s1 e p, Ready (.loop o) s tk t [n] s0 → n.toNat < 2 ^ 32 →
    s0.bodyEnd t (2 ^ 57) (o.len.1 + 1) (t.pw + 4) = (.ok p s1, e) →
    (n ≠ 0 → t.loops.length < 3 → (∀ l ls, t.loops = l :: ls → l.depth = t.cd → e.toNat ≤ l.e.toNat) →
      exec (.loop o) s = .next ((s1.modThread tk fun u =>
        { u with loops := { lc := BitVec.ofNat 32 n.toNat, s := t.pw + 4, e := e, depth := t.cd } :: t.loops }).modThread tk
          fun u => u.past (.loop o))) ∧
    (n = 0 → exec (.loop o) s = .next (s1.modThread tk fun u => u.continueAt e true)) ∧
    (n ≠ 0 → (3 ≤ t.loops.length ∨ ∃ l ls, t.loops = l :: ls ∧ l.depth = t.cd ∧ l.e.toNat < e.toNat) →
      exec (.loop o) s = .next ((s1.restorePorts tk t.before).deliver tk cLOOP 0 (((s1.thread? tk).map (·.pc)).getD 0)))) ∧
  (∀ o s tk t n s0, Ready (.loop o) s tk t [n] s0 → 2 ^ 32 ≤ n.toNat →
    exec (.loop o) s = .next ((s0.restorePorts tk t.before).deliver tk cLOOP 0 (((s0.thread? tk).map (·.pc)).getD 0))) ∧
  (∀ o s tk t s1 e p, Skipped (.loop o) s tk t → s.bodyEnd t (2 ^ 57) (o.len.1 + 1) (t.pw + 4) = (.ok p s1, e) →
    exec (.loop o) s = .next (s1.modThread tk fun u => u.continueAt e true))

/-- A level with a count of n at the present call depth, whose end is reached again and again: the first n - 1 ends pass control
back to its start with the count lowered each time, and the n-th closes it and goes on with the enclosing levels. (R280, R282) -/
def Obligations.LoopRuns : Prop :=
  ∀ (cd n k : Nat) (a e : Word) (ls : List LoopLevel), 0 < n → n < 2 ^ 32 → k ≤ n →
    Nat.repeat (fun r : List LoopLevel × Word => endCheck cd e r.1) k ({ lc := BitVec.ofNat 32 n, s := a, e := e, depth := cd } :: ls, a) =
      if k < n then ({ lc := BitVec.ofNat 32 (n - k), s := a, e := e, depth := cd } :: ls, a) else endCheck cd e ls

/-- loop_exit_check ends, from the innermost, the levels of the present call depth whose body does not hold the target, and stops
at the first that is of another depth or holds it; the return ends the levels that are recorded deeper. (R273, R283) -/
def Obligations.LoopLevelsLeft : Prop :=
  ∀ (cd : Nat) (a : Word) (ls : List LoopLevel),
    (∃ gone, ls = gone ++ exitCheck cd a ls ∧ ∀ l ∈ gone, l.depth = cd ∧ ¬(l.s.toNat ≤ a.toNat ∧ a.toNat < l.e.toNat)) ∧
    (∀ l rest, exitCheck cd a ls = l :: rest → l.depth ≠ cd ∨ (l.s.toNat ≤ a.toNat ∧ a.toNat < l.e.toNat)) ∧
    (∃ gone, ls = gone ++ dropDeep cd ls ∧ ∀ l ∈ gone, cd < l.depth) ∧ (∀ l rest, dropDeep cd ls = l :: rest → l.depth ≤ cd)

/-- NOP only advances; RGN also starts a region at the next instruction; YIELD makes the thread not ready for 32 cycles and
offers its gang for reseating; an IMX leaves its payload with the thread for the instruction that follows, which is issued
next; EXIT, where the thread's earlier accesses are done, ends the thread with the low 8 bits of A. Where the manual leaves a
point open it follows the model's own choice, log 22. (R24, R39, R285, R288, R291) -/
def Obligations.PlainControlCompletes : Prop :=
  (∀ o s tk t, Ready (.nop o) s tk t [] s → exec (.nop o) s = .next (s.setThread tk (t.past (.nop o)))) ∧
  (∀ o s tk t, Ready (.rgn o) s tk t [] s → exec (.rgn o) s = .next (s.setThread tk (t.pastR (.rgn o)))) ∧
  (∀ o s tk t, Ready (.yield o) s tk t [] s → exec (.yield o) s =
    .next (((s.setThread tk { t with yieldTo := s.cycOf t + 32 }).offerSeat t).modThread tk fun u => u.past (.yield o))) ∧
  (∀ x s tk t, s.cur = some tk → s.thread? tk = some t → t.pre.length < 2 →
    exec (.imx x) s = .next { s.setThread tk { t with pre := t.pre ++ [x] } with issueQ := tk :: s.issueQ }) ∧
  (∀ o s tk t a s0, Ready (.exit o) s tk t [a] s0 → s0.exitReady tk = true →
    exec (.exit o) s = .next (s0.endThread tk (a.toNat % 256)))

/-- BRK takes the trap BRK, TRAP the trap TRAP with the low byte of A as its second code, ILL, the zero parcel and a third IMX in
a row the trap ILL, each at the address of the instruction with its prefixes. (R24, R38, R48, R51, R52, R290) -/
def Obligations.SoftwareTraps : Prop :=
  (∀ o s tk t, Ready (.brk o) s tk t [] s → exec (.brk o) s = .next ((s.restorePorts tk t.before).deliver tk cBRK 0 t.pc)) ∧
  (∀ o s tk t a s0 u, Ready (.trap o) s tk t [a] s0 → s0.thread? tk = some u →
    exec (.trap o) s = .next ((s0.restorePorts tk t.before).deliver tk cTRAP (a.toNat % 256) u.pc)) ∧
  (∀ s tk t, s.cur = some tk → s.thread? tk = some t → exec .ill s = .next (s.deliver tk cILL 0 t.pc) ∧
    exec .illParcel s = .next (s.deliver tk cILL 0 t.pc) ∧
    ∀ x, 2 ≤ t.pre.length → exec (.imx x) s = .next (s.deliver tk cILL 0 t.pc))

/-- Where the launch has a handler and the thread is not in it: tcause and tloc are set, HV takes v59 (0 in a role of fewer than
60 registers), HD the call depth, IH is set, the call depth rises (not above 65,535), the pc and the region restart point are
the handler's address; no register, predicate, latch, port binding or loop level changes, and nothing but the thread does. (R285, R341, R342) -/
def Obligations.TrapDelivery : Prop :=
  ∀ (s : State) tk t cause code tloc cmp, s.thread? tk = some t → Handles s t cause → cause < 256 → code < 256 →
    ∃ u, s.deliver tk cause code tloc cmp = s.setThread tk u ∧ u.tcause = Word.ofN (cause + 256 * code) ∧ u.tloc = tloc ∧
      u.hv = (if t.nregs = 60 then t.reg 59 else 0) ∧ u.hd = t.cd ∧ u.ih = true ∧ u.cd = min 65535 (t.cd + 1) ∧
      u.pc = s.traph t.uid ∧ u.rpc = s.traph t.uid ∧ u.pre = [] ∧ u.park = none ∧ u.live = t.live ∧
      u.v = t.v ∧ u.p = t.p ∧ u.b = t.b ∧ u.ports.map (·.bind) = t.ports.map (·.bind) ∧ u.loops = t.loops ∧
      u.shadow.hv = u.hv ∧ u.shadow.hd = u.hd ∧ u.shadow.ih = true ∧ u.shadow.cd = u.cd ∧ u.shadow.loops = u.loops

/-- Without a handler, in a handler, or at a full call depth within a loop, a trap ends the thread as EXIT with the status 0xE0
or the low five bits of the cause, once its accesses are done; in a unit under debug BRK and WATCH stop the thread at the
instruction, marked at-break, and halt its unit. (R288, R341, R342, R350) -/
def Obligations.TrapWithoutHandler : Prop :=
  ∀ (s : State) tk t cause code tloc cmp, s.thread? tk = some t →
    let debug := (∃ u, s.unit? t.uid = some u ∧ u.dbg.under = true) ∧ (cause = cBRK ∨ cause = cWATCH)
    (¬debug → (s.traph t.uid = 0 ∨ t.ih = true ∨ (t.cd = 65535 ∧ t.loops ≠ [])) → ∃ u,
      s.deliver tk cause code tloc cmp = (s.setThread tk u).tryEnding tk ∧ u.ending = true ∧ u.status = (0xE0 ||| cause % 32) ∧
      u.tcause = Word.ofN (cause + 256 * code) ∧ u.tloc = tloc ∧ u.pc = t.pc ∧ u.park = some .completed ∧ u.errs = [] ∧
      ((s.setThread tk u).exitReady tk = true → s.deliver tk cause code tloc cmp = (s.setThread tk u).endThread tk (0xE0 ||| cause % 32))) ∧
    (debug → ∃ u, s.deliver tk cause code tloc cmp = (s.setThread tk u).haltUnit t.uid ∧ u.atBreak = true ∧ u.pc = t.pc ∧
      u.tcause = Word.ofN (cause + 256 * code) ∧ u.tloc = tloc ∧ u.v = t.v)

/-- Each of the fifteen collectives with a result, run by a thread whose tile has no failed record and whose record, if one is
open, is of the same function: the thread arrives, and where every live lane of the tile has now arrived, the record is freed
and each lane that arrived receives the value that R188 gives from all of them, advances and starts a region; where one is
missing, the thread parks in the record. (R185, R186, R187, R188, R189) -/
def Obligations.CollectivesComplete : Prop :=
  let Coll (mk : OpX → Instr) (fn : CollFn) : Prop :=
    ∀ o s tk t a s0, Ready (mk o) s tk t [a] s0 → DstFree s0 tk o.d →
      Gathers (mk o) s s0 tk t fn { ln := t.ln, a := a, d := 0, dst := some o.d, port := portOf o.a }
  let Shuffle (mk : OpX → Instr) (fn : CollFn) : Prop :=
    ∀ o s tk t a d s0, Ready (mk o) s tk t [a, d] s0 → DstFree s0 tk o.d →
      Gathers (mk o) s s0 tk t fn { ln := t.ln, a := a, d := d, dst := some o.d, port := portOf o.a }
  (∀ o s tk t, Ready (.elect o) s tk t [] s → DstFree s tk o.d →
    Gathers (.elect o) s s tk t .elect { ln := t.ln, a := 0, d := 0, dst := some o.d, port := none }) ∧
  Coll .vany .vany ∧ Coll .vall .vall ∧ Coll .vbal .vbal ∧ Shuffle .shfi .shfi ∧ Shuffle .shfa .shfa ∧ Shuffle .shfb .shfb ∧
  Shuffle .shfx .shfx ∧ Coll .radd .radd ∧ Coll .rminS .rmin ∧ Coll .rmaxS .rmax ∧ Coll .rfadd .rfadd ∧ Coll .rdadd .rdadd ∧
  Coll .scan .scan ∧ Coll .matchOp .cmatch

/-- Of participants in one tile with distinct lanes: ELECT gives 1 to the one of the lowest lane alone, VANY and VALL the or and
the and, VBAL and MATCH the masks of their tile lanes, a shuffle the operand of the lane it names and its own where that lane
is absent, RADD and SCAN the wrapped sums, RMIN.s and RMAX.s an operand that none undercuts or exceeds, RFADD and RDADD the
sum over the binary tree of 32 leaves in the order of the tile lanes, each node of two present children rounded once and one
of a single present child that child, with the root rounded. (R162, R163, R183, R188) -/
def Obligations.CollectiveValues : Prop :=
  ∀ (ps : List Arrival) (t : Nat) (u : Arrival), u ∈ ps → 0 < t → t ≤ 32 → (ps.map fun w => w.ln % t).Nodup →
    (∀ w ∈ ps, w.ln / t = u.ln / t) →
    let give (fn : CollFn) := collResult fn ps t u
    let shuffled (fn : CollFn) (k : Nat) : Prop :=
      (∀ w ∈ ps, w.ln % t = k → give fn = w.a) ∧ ((∀ w ∈ ps, w.ln % t ≠ k) → give fn = u.a)
    (give .elect = if ∀ w ∈ ps, u.ln % t ≤ w.ln % t then 1 else 0) ∧
    (give .vany = if ∃ w ∈ ps, w.a ≠ 0 then 1 else 0) ∧ (give .vall = if ∀ w ∈ ps, w.a ≠ 0 then 1 else 0) ∧
    (∀ i, (give .vbal).getLsbD i = true ↔ ∃ w ∈ ps, w.ln % t = i ∧ w.a ≠ 0) ∧
    (∀ i, (give .cmatch).getLsbD i = true ↔ ∃ w ∈ ps, w.ln % t = i ∧ w.a = u.a) ∧
    shuffled .shfi (u.d.toNat % t) ∧ shuffled .shfa ((u.ln + u.d.toNat) % t) ∧ shuffled .shfb ((u.ln % t + (t - u.d.toNat % t)) % t) ∧
    shuffled .shfx (u.ln % t ^^^ u.d.toNat % t) ∧
    (give .radd).toNat = (ps.map fun w => w.a.toNat).sum % 2 ^ 64 ∧
    (give .scan).toNat = ((ps.filter fun w => w.ln % t < u.ln % t).map fun w => w.a.toNat).sum % 2 ^ 64 ∧
    ((∃ w ∈ ps, give .rmin = w.a) ∧ ∀ w ∈ ps, (give .rmin).toInt ≤ w.a.toInt) ∧
    ((∃ w ∈ ps, give .rmax = w.a) ∧ ∀ w ∈ ps, w.a.toInt ≤ (give .rmax).toInt) ∧
    (∀ fn f, (fn, f) ∈ [(CollFn.rfadd, f32), (CollFn.rdadd, f64)] → ∀ node : Nat → Nat → Option FVal,
      (∀ w ∈ ps, node 0 (w.ln % t) = some (f.val (w.a.toNat % 2 ^ f.width))) → (∀ k, (∀ w ∈ ps, w.ln % t ≠ k) → node 0 k = none) →
      (∀ lv k, node (lv + 1) k = match node lv (2 * k), node lv (2 * k + 1) with
        | none, y => y
        | x, none => x
        | some x, some y => some (f.round .rn false (x.add y))) →
      ∃ r, node 5 0 = some r ∧ give fn = Word.ofN (f.rne r))

/-- GPART of a size 2, 4, 8, 16 or 32 in a gang where no GPART has failed, and whose open records are GPARTs of that size: where
every live lane of the gang has then arrived, gpart takes the size, the open records and the rendezvous tables are discarded,
and every lane that arrived goes on with its ordinals at 0 and a region started. (R190, R276) -/
def Obligations.PartitionCompletes : Prop :=
  ∀ o s tk t a s0 u, Ready (.gpart o) s tk t [a] s0 → s0.unit? t.uid = some u → sizeOk a.toNat = true →
    let g := u.gang t.gg
    let tile := g.tile t.ln
    let r := (AMap.get? g.insts tile).getD { ord := t.cord, fn := .gpart, size := a.toNat }
    let s1 := s0.joinRecord t.uid t.gg tile tk { ln := t.ln, a := a, d := 0, dst := none, port := portOf o.a } r
    g.gfail = none → (∀ p ∈ g.insts, p.2.fn = .gpart ∧ p.2.failed = false ∧ p.2.size = a.toNat) →
    ∀ u1, s1.unit? t.uid = some u1 →
    let all := (u1.gang t.gg).insts.flatMap fun p => p.2.arrived
    (∀ ln ∈ s1.liveLanes t.uid t.gg, ∃ x ∈ all, x.ln = ln) →
    exec (.gpart o) s = .next (all.foldl (fun x w =>
      (x.leaveInstance (threadKey t.uid (32 * t.gg + w.ln)) { w with dst := none } 0 (fun _ => 0)).modThread
        (threadKey t.uid (32 * t.gg + w.ln)) fun v => { v with uord := 0 }.startRegion v.pc)
      (s1.modUnit t.uid fun v => v.modGang t.gg fun g => { g with gpart := a.toNat, insts := [], utab := [], ubase := [] }))

/-- BAR.ARR of a thread without an open arrival at the slot, whose uniform writes have completed, releases at group scope, marks
the arrival with the round, counts it, checks the round and starts a region; BAR.WAIT of one goes on as an acquire and
fetches its stream elements again; BAR.SYNC does the first and, where the round has moved on, the second; BAR.INIT with a
count from 1 to the unit's threads sets it and checks the round; a round ends when the arrivals and the exited threads
without an open arrival reach the count. (R128, R191, R192, R193, R194) -/
def Obligations.BarriersComplete : Prop :=
  let here (n : Fin 16) (x : State) (tk : Nat) (t : Thread) : State :=
    (((x.settle (x.ckOf t.uid) tk).modThread tk fun u => { u with arr := setAt u.arr n.1 (x.roundOf t.uid n.1) }).modUnit t.uid
      fun u => { u with bars := match u.bars[n.1]? with | some b => setAt u.bars n.1 { b with n := b.n + 1 } | none => u.bars }).checkRound t.uid n.1
  (∀ o s tk t s1, Ready (.barArr o) s tk t [] s → s.openArrival t o.n.1 = false → s.uwrOpen tk = false → WentOut s tk s1 →
    exec (.barArr o) s = .next ((here o.n s1 tk t).modThread tk fun u => u.pastR (.barArr o))) ∧
  (∀ o s tk t, Ready (.barWait o) s tk t [] s → s.openArrival t o.n.1 = false →
    exec (.barWait o) s = .next (s.setThread tk (({ t with after := { t.after with acq := s.seq } }.dropPrefetched).past (.barWait o)))) ∧
  (∀ o s tk t s1 w, Ready (.barSync o) s tk t [] s → t.arrDone = false → s.openArrival t o.n.1 = false → s.uwrOpen tk = false → WentOut s tk s1 →
    let s2 := (here o.n s1 tk t).modThread tk fun u => { u with arrDone := true }.startRegion u.pc
    s2.thread? tk = some w → s2.openArrival w o.n.1 = false →
    exec (.barSync o) s = .next (s2.setThread tk ({ w.dropPrefetched with arrDone := false, after := { w.after with acq := s2.seq } }.pastR (.barSync o)))) ∧
  (∀ o s tk t, Ready (.barSync o) s tk t [] s → t.arrDone = true → s.openArrival t o.n.1 = false →
    exec (.barSync o) s = .next (s.setThread tk ({ t.dropPrefetched with arrDone := false, after := { t.after with acq := s.seq } }.pastR (.barSync o)))) ∧
  (∀ o s tk t c s0 u b, Ready (.barInit o) s tk t [c] s0 → s0.unit? t.uid = some u → 0 < c.toNat → c.toNat ≤ u.g → u.bars[o.n.1]? = some b →
    exec (.barInit o) s = .next (((s0.setUnit t.uid { u with bars := setAt u.bars o.n.1 { b with c := c.toNat } }).checkRound t.uid o.n.1).modThread tk
      fun v => v.past (.barInit o))) ∧
  (∀ (s : State) uid slot u b, s.unit? uid = some u → u.bars[slot]? = some b →
    let gone := ((s.threadsOf uid).filter fun p => !p.2.live && p.2.arr.getD slot (-1) != (b.r : Int)).length
    s.checkRound uid slot = if b.c ≤ b.n + gone then s.setUnit uid { u with bars := setAt u.bars slot { b with r := b.r + 1, n := 0 } } else s)

/-- STRM with a well-formed descriptor writes the old position back and binds the port to the descriptor's fields, with z for its
source it unbinds the port; WAIT reads its counter at home and goes on as an acquire once the value has reached the target,
which closes the windows of the ops whose updates it has passed on, else it parks, and keeps the values that it has read and
the place that it has checked; OFENCE goes on once no earlier write of the group to a scratchpad waits, and the thread's
later ops come after those writes, and after those that its acquires have ordered before the OFENCE; ICINV of a global range
drops the cached and prefetched code of the address space there and starts a region. Where the manual leaves a point open it
follows the model's own choices, logs 14, 26 and 35. (R104, R125, R213, R256, R268, R292) -/
def Obligations.StreamsAndCountersComplete : Prop :=
  (∀ o s tk t va s0 bs s1 s2, Ready (.strm o) s tk t [va] s0 → o.a ≠ .z → Through (readCard tk t 4 va s0) bs s1 →
    let code := field bs 24 1
    let b : PortBind := { base := Word.ofN (field bs 0 8), stride := Word.ofN (field bs 8 8), count := field bs 16 4, pos := field bs 20 4,
                          code := (Word.ofN code).setWidth 8, desc := va }
    code < 16 → zeroField bs 25 7 = true → tagKnown b.base = true → bits b.base.toNat 63 56 ≠ 0xF4 →
    b.base.toNat % 2 ^ (code % 4) = 0 → b.stride.toNat % 2 ^ (code % 4) = 0 → b.pos ≤ b.count →
    Passes (writeBack tk t (((s0.thread? tk).getD t).ports.getD o.n.1 {}).bind s1) s2 →
    exec (.strm o) s = .next ((s2.bindPort tk o.n.1 (some b)).modThread tk fun u => u.past (.strm o))) ∧
  (∀ o s tk t va s0 s1 s2, Ready (.strm o) s tk t [va] s0 → o.a = .z → WentOut s0 tk s1 →
    Passes (writeBack tk t (t.ports.getD o.n.1 {}).bind s1) s2 →
    exec (.strm o) s = .next ((s2.bindPort tk o.n.1 none).modThread tk fun u => u.past (.strm o))) ∧
  (∀ o s tk t a v s0 s1 l s2, Ready (.wait o) s tk t [a, v] s0 → WentOut s0 tk s1 → Reaches s1 tk t a 8 0 false false l s2 →
    let s3 := s2.orderAtHome (s2.ckOf t.uid) tk l 8
    s3.locErr l 8 true = none →
    (v.toNat ≤ s3.counterAt t.uid l →
      exec (.wait o) s = .next ((((({ s3 with seq := s3.seq + 1 } : State).acquireAt tk t .dev s3.seq l 8 (s3.counterAt t.uid l)).refresh (s2.ckOf t.uid)).modThread tk
        Thread.dropPrefetched).modThread tk fun u => u.past (.wait o))) ∧
    (s3.counterAt t.uid l < v.toNat →
      let s4 := if (t.places.find? fun p => p.1 == a).isNone then s3.modThread tk fun u => { u with places := u.places ++ [(a, l)] } else s3
      exec (.wait o) s = .next (s4.modThread tk fun u =>
        { u.stepped with park := some (.counter l v.toNat (s3.hub.tmr + 1000)), resume_ := false, seatPt := true,
                         mark := u.mark.or (some s3.seq), held := some ⟨[a, v], t.before⟩ }))) ∧
  (∀ o s tk t, Ready (.ofence o) s tk t [] s →
    let s1 := (s.threadsOf t.uid).foldl (fun x p => x.drainOut p.1) s
    let s2 := s1.performWhere (s1.ckOf t.uid) fun p => p.tk / 1024 == t.uid && p.loc.isScratch
    s2.groupWaits t.uid (t.mark.getD s.seq) = false → exec (.ofence o) s = .next ((s2.modThread tk fun u => { u with after := { u.after with fence := t.mark.getD s.seq, facq := u.after.acq } }).modThread tk fun u => u.past (.ofence o))) ∧
  (∀ o s tk t a n s0, Ready (.icinv o) s tk t [a, n] s0 → tagGlobal a = true →
    let s1 := s0.drainOut tk
    s1.ownPerformed (s1.ckOf t.uid) tk = true →
    exec (.icinv o) s = .next ((s1.dropCode (s1.spaceOf t.uid).1 a.toNat n.toNat).modThread tk fun u => u.pastR (.icinv o)))

/-- ORES of a valid record gives the lowest free handle with the lowest free range of its size, whose bytes become undefined, or
0 where there is none; ORLS of a handle that the group holds makes it releasing, and it returns to the free pool once no
accepted op names it. A region starts after either. Where the manual leaves a point open it follows the model's own choice,
log 5. (R199, R200, R201) -/
def Obligations.ReservationsComplete : Prop :=
  (∀ o s tk t va s0 bs s1 r u, Ready (.ores o) s tk t [va] s0 → DstFree s0 tk o.d → Through (readCard tk t 4 va s0) bs s1 →
    resvOf bs = some r → s1.unit? t.uid = some u →
    (∀ h off, u.freeHandle = some h → u.freeRange r.size = some off →
      exec (.ores o) s = .next (((((s1.setUnit t.uid { u with resv := AMap.set u.resv h { r with off := off } }).forgetAt (.obuf t.uid off) r.size).putDst
        tk o.d (Word.ofN h))).modThread tk fun v => v.pastR (.ores o))) ∧
    ((u.freeHandle = none ∨ u.freeRange r.size = none) →
      exec (.ores o) s = .next ((s1.putDst tk o.d 0).modThread tk fun v => v.pastR (.ores o)))) ∧
  (∀ o s tk t h s0 u r, Ready (.orls o) s tk t [h] s0 → 0 < h.toNat → h.toNat ≤ 255 → s0.unit? t.uid = some u →
    AMap.get? u.resv h.toNat = some r → r.releasing = false →
    let s1 := s0.setUnit t.uid { u with resv := AMap.set u.resv h.toNat { r with releasing := true } }
    exec (.orls o) s = .next ((((s1.spoilHandle t.uid h.toNat r).returnHandle t.uid h.toNat)).modThread tk fun v => v.pastR (.orls o))) ∧
  (∀ (u : TUnit) size o, u.freeRange size = some o → o + size ≤ u.obSize ∧
    (∀ r ∈ u.resv, o + size ≤ r.2.off ∨ r.2.off + r.2.size ≤ o) ∧
    ∀ p < o, ¬(p + size ≤ u.obSize ∧ ∀ r ∈ u.resv, p + size ≤ r.2.off ∨ r.2.off + r.2.size ≤ p)) ∧
  (∀ (u : TUnit) h, u.freeHandle = some h → 0 < h ∧ h ≤ 255 ∧ AMap.get? u.resv h = none ∧
    ∀ k, 0 < k → k < h → AMap.get? u.resv k ≠ none)

/-- CPY and GATH on a channel that the launch may use, with a card that R97 does not refuse and a free place that no other thread
waits for, and no write of the thread to a tile declaration in flight: the thread's earlier writes are performed, the op
takes the last place of the channel (a resumed copy from the row that its status word names, or one that an error of that
read ends), and a region starts; MXL likewise takes the last place of the matrix engine's queue (a resumed job with what its
status record says), and gives the job's ticket to its destination. A thread that has waited for its place offers the card
that it read and checked before, and reads none. CPY and GATH on channel 7 without debug privilege trap PRIV. Where the
manual leaves a point open it follows the model's own choices, logs 14, 30, 33, 43, 73, 75, 76, 77 and 78. (R80, R81, R86, R93, R96, R97, R102, R214) -/
def Obligations.EngineOpsAccepted : Prop :=
  let free (x : State) (ck ch used : Nat) (first : Bool) : Prop := used < 32 ∧ (first = true ∨ (x.core ck).waitq.getD ch [] = [])
  let copies (i : Instr) (ch : Nat) (s : State) (tk : Nat) (t : Thread) (ck : Nat) (c : CopyCard) (x : State) : Prop :=
    let y := x.settleFor ck tk
    let op : CopyOp := { id := 0, tk := tk, uid := t.uid, ch := ch, seq := y.seq, card := .copy c, decls := y.keptDecls t.uid, after := t.after }
    let a := op.agent ck
    (∀ n z, y.readProg a t.ftok c = (.ok n, z) → exec i s = .next ((z.acceptOp ck { op with start := n }).modThread tk fun u => u.pastR i)) ∧
    (∀ e z, y.readProg a t.ftok c = (.err e, z) → exec i s = .next ((z.acceptOp ck op (some e)).modThread tk fun u => u.pastR i))
  let gathers (i : Instr) (ch : Nat) (s : State) (tk : Nat) (t : Thread) (ck : Nat) (c : GathCard) (x : State) : Prop :=
    let y := x.settleFor ck tk
    let op : CopyOp := { id := 0, tk := tk, uid := t.uid, ch := ch, seq := y.seq, card := .gath c, decls := y.keptDecls t.uid, after := t.after }
    exec i s = .next ((y.acceptOp ck op).modThread tk fun u => u.pastR i)
  let multiplies (o : OpX) (s : State) (tk : Nat) (t : Thread) (ck : Nat) (c : JobCard) (lock : Bool) (st : Option (List Byte)) (x : State) : Prop :=
    let r := (x.settleFor ck tk).acceptJob ck tk t c lock st
    exec (.mxl o) s = .next ((r.2.putDst tk o.d r.1).modThread tk fun u => u.pastR (.mxl o))
  (∀ o s tk t va s0 bs s2 fs s3, Ready (.cpy o) s tk t [va] s0 → t.offer = none → s0.declsInFlight tk t.uid = false →
    let ck := s0.ckOf t.uid
    let q := s0.leaveQueue ck o.n.1 tk
    q.2.channelOk t.uid o.n.1 = true → Through (readCard tk t 8 va q.2) bs s2 →
    Through (readFields tk t va (· == 1) (· == 1) (field bs 62 1) 64 [] [] s2) fs s3 →
    let c := copyCardOf bs fs.stat
    s3.copyReason t.uid bs fs c = 0 → free s3 ck o.n.1 ((s3.core ck).chans.getD o.n.1 []).length q.1 →
    copies (.cpy o) o.n.1 s tk t ck c s3) ∧
  (∀ o s tk t va s0 c, Ready (.cpy o) s tk t [va] s0 → t.offer = some (.card (.copy c)) → s0.declsInFlight tk t.uid = false →
    let ck := s0.ckOf t.uid
    let q := s0.leaveQueue ck o.n.1 tk
    free q.2 ck o.n.1 ((q.2.core ck).chans.getD o.n.1 []).length q.1 → copies (.cpy o) o.n.1 s tk t ck c q.2) ∧
  (∀ o s tk t va s0 bs s2, Ready (.gath o) s tk t [va] s0 → t.offer = none → s0.declsInFlight tk t.uid = false →
    let ck := s0.ckOf t.uid
    let q := s0.leaveQueue ck o.n.1 tk
    q.2.channelOk t.uid o.n.1 = true → Through (readCard tk t 8 va q.2) bs s2 →
    s2.gathReason t.uid bs (gathCardOf bs) = 0 → free s2 ck o.n.1 ((s2.core ck).chans.getD o.n.1 []).length q.1 →
    gathers (.gath o) o.n.1 s tk t ck (gathCardOf bs) s2) ∧
  (∀ o s tk t va s0 c, Ready (.gath o) s tk t [va] s0 → t.offer = some (.card (.gath c)) → s0.declsInFlight tk t.uid = false →
    let ck := s0.ckOf t.uid
    let q := s0.leaveQueue ck o.n.1 tk
    free q.2 ck o.n.1 ((q.2.core ck).chans.getD o.n.1 []).length q.1 → gathers (.gath o) o.n.1 s tk t ck c q.2) ∧
  (∀ o s tk t va s0 bs s2 fs s3 st s4, Ready (.mxl o) s tk t [va] s0 → t.offer = none → s0.declsInFlight tk t.uid = false →
    let ck := s0.ckOf t.uid
    let q := s0.leaveQueue ck 8 tk
    DstFree q.2 tk o.d → Through (readCard tk t 32 va q.2) bs s2 →
    Through (readFields tk t va (· == 0x10) (fun k => k == 0x10 && blockScaled (field bs 4 1)) (field bs 7 1) 256 [] [] s2) fs s3 →
    let c := jobCardOf bs fs.ascale
    let lock := ((s3.jobOf t.uid).map (·.lock)).getD false
    let resumes := c.flag 8 && c.stat != 0 && statOk c.stat
    ((resumes = false ∧ st = none ∧ s4 = s3) ∨ (resumes = true ∧ ∃ b, st = some b ∧ Through (readWords tk t 2 c.stat [] s3) b s4)) →
    s4.jobReason t.uid bs fs c lock st = 0 → free s4 ck 8 (s4.core ck).jobs.length q.1 → multiplies o s tk t ck c lock st s4) ∧
  (∀ o s tk t va s0 c lock st, Ready (.mxl o) s tk t [va] s0 → t.offer = some (.job c lock st) → s0.declsInFlight tk t.uid = false →
    let ck := s0.ckOf t.uid
    let q := s0.leaveQueue ck 8 tk
    DstFree q.2 tk o.d → free q.2 ck 8 (q.2.core ck).jobs.length q.1 → multiplies o s tk t ck c lock st q.2) ∧
  (∀ (o : OpI 8) s tk t va s0, o.n = 7 → s0.channelOk t.uid 7 = false → t.offer = none → s0.declsInFlight tk t.uid = false →
    let s1 := (s0.leaveQueue (s0.ckOf t.uid) 7 tk).2
    let traps : Out := .next ((s1.restorePorts tk t.before).deliver tk cPRIV 0 (((s1.thread? tk).map (·.pc)).getD 0))
    (Ready (.cpy o) s tk t [va] s0 → exec (.cpy o) s = traps) ∧ (Ready (.gath o) s tk t [va] s0 → exec (.gath o) s = traps))

/-- LAUNCH by a program that is not speculative, of a descriptor that R323 does not refuse and whose privilege the caller has,
once everything before it is performed: the core publishes, the launch joins the caller's graph, its id goes to the
destination. CANCEL of work of the job, or of the caller's own, is handed to the sequencer. SPEC #0 commits a quiet
speculative launch of the job, and SPEC #1 discards one; either goes on once the core's publication is done, at sys scope,
and the launch's mirror has advanced, which a commit's lines come before, and waits until then at the region that starts
after it; a commit of a launch that is being cancelled, and either SPEC of one already resolved, has no effect. A region
starts after each. Where the manual leaves a point open it follows the model's own choices, logs 9, 16, 41, 47, 90, 91 and
92. (R323, R329, R330, R333) -/
def Obligations.WorkInstructionsComplete : Prop :=
  let resolving (i : Instr) (s : State) (tk : Nat) (t : Thread) (lid : Nat) (x : State) : Prop :=
    let y := (x.publish (x.ckOf t.uid)).completeLaunch lid
    let done := (y.launch? lid).all (·.complete) && y.corePerformed (x.ckOf t.uid) (t.mark.getD y.seq) &&
      y.coreDelivered (x.ckOf t.uid) (t.mark.getD y.seq) t.after.acq
    (done = true → exec i s = .next (y.modThread tk fun u => u.pastR i)) ∧
    (done = false → ∃ g : Thread → Thread, (∀ u, (g u).park = some (.specEnd lid)) ∧
      exec i s = .next ((y.modThread tk fun u => u.startAfter (t.pw + 4)).modThread tk g))
  let Spec (mk : OpA → Instr) (resolve : State → Nat → State → Prop) : Prop :=
    ∀ o s tk t a s0 l, Ready (mk o) s tk t [a] s0 → s0.speculative t.uid = false → a.toNat < 2 ^ 32 → s0.launch? a.toNat = some l →
      l.jid = s0.jidOf t.uid → l.desc.specv = true →
      (l.resolved = false → ∀ s1, resolve s0 a.toNat s1 → resolving (mk o) s tk t a.toNat s1) ∧
      (l.resolved = true → t.mark.isSome = true → resolving (mk o) s tk t a.toNat s0) ∧
      (l.resolved = true → t.mark = none → exec (mk o) s = .next (s0.modThread tk fun u => u.pastR (mk o)))
  (∀ o s tk t va s0 bs s1 l j args spec s2 s3, Ready (.launch o) s tk t [va] s0 → s0.speculative t.uid = false → DstFree s0 tk o.d →
    Through (readCard tk t 16 va s0) bs s1 → s1.launchOf t.uid = some l → s1.jobOf t.uid = some j →
    ((descOf bs).dbgp = true → j.dbg = true ∧ l.desc.dbgp = true) → s1.launchReads (keyThread tk) j bs = (.ok args spec, s2) →
    (s2.seqDone (keyThread tk)).refusalOf l.jid bs (.ok args spec) = 0 → Performed (s2.seqDone (keyThread tk)) tk t .dev s3 false →
    let s4 := s3.publish (s3.ckOf t.uid)
    s4.waitingLaunches < 4096 →
    let r := s4.joinGraph l.jid l.gkey bs args spec 0 0
    exec (.launch o) s = .next ((r.2.putDst tk o.d (Word.ofN r.1)).modThread tk fun u => u.pastR (.launch o))) ∧
  (∀ o s tk t h s0, Ready (.cancel o) s tk t [h] s0 →
    (o.a = .z → h = 0 → exec (.cancel o) s = .next ((s0.sendCancel (s0.ownWork t o.n.1)).modThread tk fun u => u.pastR (.cancel o))) ∧
    (o.a ≠ .z → (o.n = 0 ∨ h.toNat < 2 ^ 32) → ∀ c, s0.named (s0.jidOf t.uid) o.n.1 h.toNat = some c →
      exec (.cancel o) s = .next ((s0.sendCancel c).modThread tk fun u => u.pastR (.cancel o))) ∧
    (o.a ≠ .z → (o.n = 0 ∨ h.toNat < 2 ^ 32) → s0.named (s0.jidOf t.uid) o.n.1 h.toNat = none →
      exec (.cancel o) s = .next ((s0.restorePorts tk t.before).deliver tk cENGINE 0x24 (((s0.thread? tk).map (·.pc)).getD 0)))) ∧
  Spec .specCommit (fun x lid y => x.cancelling lid = false ∧ x.commit lid = (true, y)) ∧
  Spec .specDiscard (fun x lid y => y = x.cancelLaunch lid) ∧
  (∀ o s tk t a s0 l, Ready (.specCommit o) s tk t [a] s0 → s0.speculative t.uid = false → a.toNat < 2 ^ 32 → s0.launch? a.toNat = some l →
    l.jid = s0.jidOf t.uid → l.desc.specv = true → l.resolved = false → s0.cancelling a.toNat = true →
    exec (.specCommit o) s = .next (s0.modThread tk fun u => u.pastR (.specCommit o)))

/-- Each of the ten DBG sub-ops, by a launch with debug privilege, with a request block that R348 does not refuse and an OUT that
resolves with room for what is written: the thread's writes perform, the sub-op has its effect on the target, its bytes go to
OUT at their homes, the core's L1 is refreshed, and the thread has acquired; a region starts after it. Without the privilege
it takes the trap PRIV and does nothing else. Where the manual leaves a point open it follows the model's own choice, log 46. (R347, R348, R349) -/
def Obligations.DebugCompletes : Prop :=
  let Dbg (mk : OpA → Instr) (op : DbgOp) : Prop :=
    (∀ o s tk t va s0 bs s1 x rs s2, Ready (mk o) s tk t [va] s0 → ((s0.launchOf t.uid).map (·.desc.dbgp)).getD false = true →
      Through (readCard tk t 4 va s0) bs s1 → s1.target t (field bs 0 8) = some x → s1.dbgRefusal op bs (some x) = 0 →
      ¬(op = .halt ∧ (s1.issueQ.any fun k => k / 1024 == x.uid) = true) →
      let out := Word.ofN (field bs 16 8)
      s1.outRuns tk t (outSize op x / 8 + 1) out (outSize op x) = (.ok rs, s2) →
      (rs.all fun r => s2.specFits (s2.specOf t.uid) r.loc) = true →
      let r := (s2.settle (s2.ckOf t.uid) tk).dbgApply op x (field bs 8 8)
      let s3 := r.2.outWrites tk t out rs r.1
      exec (mk o) s = .next ((((s3.refresh (r.2.ckOf t.uid)).acquire tk).modThread tk Thread.dropPrefetched).modThread tk fun u => u.pastR (mk o))) ∧
    (∀ o s tk t va s0, Ready (mk o) s tk t [va] s0 → ((s0.launchOf t.uid).map (·.desc.dbgp)).getD false = false →
      exec (mk o) s = .next ((s0.restorePorts tk t.before).deliver tk cPRIV 0 (((s0.thread? tk).map (·.pc)).getD 0)))
  Dbg .dbgHalt .halt ∧ Dbg .dbgResume .resume ∧ Dbg .dbgStep .step ∧ Dbg .dbgSetmask .setmask ∧ Dbg .dbgWset .wset ∧
  Dbg .dbgWclr .wclr ∧ Dbg .dbgStatus .status ∧ Dbg .dbgReadreg .readreg ∧ Dbg .dbgBpset .bpset ∧ Dbg .dbgBpclr .bpclr

/-- On a resident target: HALT halts its live threads and marks the unit halted and under debug; RESUME lets every thread go on
and leaves no mark of a break; SETMASK writes the step mask of one gang, and STEP lets exactly the live halted threads that
their masks name take one instruction. Threads of other units are as they were. Where the manual leaves a point open it
follows the model's own choice, log 46. (R349, R350) -/
def Obligations.DebugHaltAndResume : Prop :=
  ∀ (s : State) (x : Target) arg tk t u, s.thread? tk = some t → s.unit? x.uid = some u → x.u = some u →
    let after (op : DbgOp) := (s.dbgApply op x arg).2.thread? tk
    (t.uid ≠ x.uid → after .halt = some t ∧ after .resume = some t ∧ after .step = some t) ∧
    (t.uid = x.uid →
      after .halt = some (if t.live then { t with halted := true, stepping := false } else t) ∧
      after .resume = some { t with halted := false, atBreak := false, stepping := false } ∧
      after .step = some (if t.live && t.halted && ((u.gang t.gg).stepMask).getLsbD t.ln then { t with halted := false, stepping := true } else t)) ∧
    ((s.dbgApply .halt x arg).2.unit? x.uid = some { u with dbg := { x.dbg with halt := true, under := true } }) ∧
    ((s.dbgApply .setmask x arg).2.unit? x.uid = some (u.modGang (bits arg 36 32) fun g => { g with stepMask := BitVec.ofNat 32 (bits arg 31 0) }))

/-- A census round of an array whose cluster runs issues, of its candidates, no two of one thread, the threads of the picked
class behind those that wait to be issued, zeroes their waits and lengthens the others' by one, and moves the rotation on; it
takes place only once the seating policy has nothing to do on the array and the arrays before it have had theirs; a round
after which no array of the cluster has one open begins the next cycle. A free seat takes the gang that has waited longest; a
gang leaves its seat for the reasons of R295, and becomes due after its quantum where another waits, but not while a thread
of it is halted; the holds of YIELD and of the first-path hint end; the prefetch buffers of a gang's threads take their next
instructions. Where the manual leaves a point open it follows the model's own choices, logs 61, 62, 63 and 70. (R134, R277, R291, R295, R300, R305, R306, R308, R309) -/
def Obligations.SchedulingEvents : Prop :=
  let arr (s : State) (ck a : Nat) : LaneArray := (s.core ck).arrays.getD a {}
  (∀ (s : State) ck a, (s.cluster (ck / 8)).changing = false → (s.cluster (ck / 8)).crat ≠ 3 → a < (s.core ck).arrays.length →
    (arr s ck a).cyc ≤ (s.cluster (ck / 8)).clk → s.policyDue ck a = false → s.earlierOpen ck a = false →
    let now := (s.cluster (ck / 8)).clk
    let k := s.candidates ck a now
    (pickClass (arr s ck a).rot k = none → exec (.censusRound ck a) s = .next (s.modCore ck fun c =>
      { c with arrays := setAt c.arrays a { arr s ck a with cyc := now + 1 } })) ∧
    (∀ c, pickClass (arr s ck a).rot k = some c →
      let tks := (k.filter fun x => (issued c (fun tk => tk / 32) k).any fun y => y.tk == x.tk).map (·.tk)
      ∃ s', exec (.censusRound ck a) s = .next s' ∧ s'.issueQ = s.issueQ ++ tks ∧ s'.mem = s.mem ∧ s'.units = s.units ∧
        (s'.core ck).arrays = setAt (s.core ck).arrays a { arr s ck a with rot := (c + 1) % 12, cyc := now + 1 } ∧
        (∀ tk t, s.thread? tk = some t → (∀ x ∈ k, x.tk ≠ tk) → s'.thread? tk = some t) ∧
        ((k.map (·.tk)).Nodup → ∀ x ∈ k, ∀ t, s.thread? x.tk = some t →
          ∃ u, s'.thread? x.tk = some u ∧ u.w = if x.tk ∈ tks then 0 else t.w + 1))) ∧
  (∀ (s : State) ck a, (s.cluster (ck / 8)).changing = false → (s.cluster (ck / 8)).crat ≠ 3 →
    (s.cluster (ck / 8)).clk < (arr s ck a).cyc → s.cycleOpen (ck / 8) = false →
    ∃ s', exec (.censusRound ck a) s = .next s' ∧ (s'.cluster (ck / 8)).clk = (s.cluster (ck / 8)).clk + 1 ∧ s'.mem = s.mem) ∧
  (∀ (s : State) ck a, (arr s ck a).cyc ≤ (s.cluster (ck / 8)).clk → (s.policyDue ck a = true ∨ s.earlierOpen ck a = true) →
    exec (.censusRound ck a) s = .next s) ∧
  (∀ (s : State) ck a seat uid gg u, findPos (fun x => x == none) (arr s ck a).seats = some seat → s.nextGang ck a = some (uid, gg) →
    s.unit? uid = some u → a < (s.core ck).arrays.length →
    ∃ s', exec (.gangSeat ck a) s = .next s' ∧ s'.unit? uid = some (u.modGang gg fun g => { g with seat := some seat }) ∧
      (arr s' ck a).seats = setAt (arr s ck a).seats seat (some { uid := uid, gg := gg, at_ := (s.cluster (ck / 8)).clk }) ∧ s'.mem = s.mem) ∧
  (∀ (s : State) ck a seat x, (arr s ck a).seats.getD seat none = some x →
    let live := s.liveGang x.uid x.gg
    let waits := !(s.waitingGangs ck a).isEmpty
    let halted := live.any fun p => p.2.halted
    exec (.gangUnseat ck a seat) s = .next (if live.isEmpty || (!halted && ((waits && live.all fun p => p.2.park.isSome) ||
      (x.due && s.reseatable x.uid x.gg))) then s.unseat ck x else s) ∧
    exec (.quantumDue ck a seat) s = .next (if !x.due && !halted && (s.cluster (ck / 8)).clk ≥ x.at_ + 1024 && waits then s.markDue ck a seat else s)) ∧
  (∀ (s : State) tk t, s.thread? tk = some t →
    (t.yieldTo ≤ s.cycOf t → exec (.yieldHoldEnd tk) s = .next (s.setThread tk { t with yieldTo := 0 })) ∧
    (t.depriTo ≤ s.cycOf t → exec (.deprioritisationEnd tk) s = .next (s.setThread tk { t with depriTo := 0 })) ∧
    exec (.prefetchFill tk) s = .next ((s.liveOf t.uid).foldl (fun x p => if p.2.gg = t.gg then x.fillOne p.1 else x) s) ∧
    (∀ ps s' x, t.live = true → t.park = none → t.halted = false → t.fetched = false →
      s.fetchInstr t (2 - t.pre.length) t.pw = (.ok x s', ps) →
      s.fillOne tk = (s'.captureLoop t ps).modThread tk fun u => { u with pbuf := ps }))

/-- PARK_CONDITION_HOLDS of a parked live thread whose condition holds lets it issue its instruction again next, and changes
nothing where the condition does not hold; of the threads of a group that are parked at one barrier slot and may go on, the
first by lane array, seat and lane goes first; WAIT_RECHECK does the same for a WAIT, and else sets the time of its next read
at most 1 us away. Where the manual leaves a point open it follows the model's own choice, log 14. (R9, R76, R104, R192) -/
def Obligations.ParkEvents : Prop :=
  (∀ (s : State) tk t p, s.thread? tk = some t → t.park = some p → s.away t = false →
    (s.parkHolds tk t p = false → exec (.parkConditionHolds tk) s = .next s) ∧
    (s.parkHolds tk t p = true → t.live = true → t.ending = false → (∀ k, p ≠ .fault k) → p ≠ .faultFull →
      s.firstAtBar tk t = true → exec (.parkConditionHolds tk) s = .next (s.reissue tk)) ∧
    (s.firstAtBar tk t = false → exec (.parkConditionHolds tk) s = .next s) ∧
    (s.parkHolds tk t p = true → t.live = true → t.ending = false → s.firstAtBar tk t = true → ((∃ k, p = .fault k) ∨ p = .faultFull) →
      exec (.parkConditionHolds tk) s = .next (if t.fetched then s.reissue tk else s.setThread tk { t with park := none, freeAt := s.cycOf t })) ∧
    (∀ l v u, p = .counter l v u → t.live = true → exec (.waitRecheck tk) s = .next (if s.parkHolds tk t p then s.reissue tk
      else s.setThread tk { t with park := some (.counter l v (s.hub.tmr + 1000)) }))) ∧
  (∀ (s : State) tk t, (t.barSlot = none → s.firstAtBar tk t = true) ∧ ∀ k, t.barSlot = some k →
    (s.firstAtBar tk t = true ↔ ∀ p ∈ s.threadsOf t.uid, p.1 ≠ tk → p.2.barSlot = some k →
      (∃ x, p.2.park = some x ∧ s.parkHolds p.1 p.2 x = true) → s.arrayOrder t ≤ s.arrayOrder p.2)) ∧
  (∀ (s : State) tk t, s.thread? tk = some t →
    (s.reissue tk).issueQ = tk :: s.issueQ ∧ (s.reissue tk).mem = s.mem ∧
    (s.reissue tk).thread? tk = some { t with park := none, resume_ := true, freeAt := s.cycOf t }) ∧
  (∀ (s : State) tk (t : Thread) u line, s.parkHolds tk t (.presence u line) = !s.isAbsent (.scratch u (128 * line))) ∧
  (∀ (s : State) tk (t : Thread) k, s.parkHolds tk t (.fault k) = !s.hub.faults.any fun f => f.live && f.token == k) ∧
  (∀ (s : State) tk (t : Thread) d v u, s.targetErr d 8 true = none →
    (s.parkHolds tk t (.counter (.home d) v u) = true ↔ v ≤ s.counterAt t.uid (.home d)))

/-- COLLECTOR_SEND sends the entry: it is gone, and the loads that joined it have the bytes of the line at home, or its error.
ERROR_RESPONSE gives a load its error, takes a write off with an error for its thread, logs a peer's or the host's request,
or makes reads of a byte, or every access to a byte of a bank or of an address without a target, answer it from then on.
STREAM_PREFETCH appends the element after those that an in-port holds; STREAM_OUT_DRAIN hands the oldest out-port element to
the memory system. Where the manual leaves a point open it follows the model's own choices, logs 12 and 18. (R77, R78, R115, R116, R126, R128, R385) -/
def Obligations.MemoryEvents : Prop :=
  (∀ (s : State) ck idx e, (s.core ck).coll[idx]? = some e → exec (.collectorSend ck idx) s = .next (s.sendEntry ck e.line) ∧
    ((s.sendEntry ck e.line).core ck).coll = (s.core ck).coll.filter (fun x => x.line != e.line) ∧
    (s.sendEntry ck e.line).mem = s.mem) ∧
  (∀ (s : State) cause, targetCause cause = true →
    (∀ tk t r, s.thread? tk = some t → t.loads = [r] → r.res = none → r.err = none → r.loc.collected = true →
      exec (.errorResponse (.load tk r.idx) cause) s = .next (s.setThread tk { t with loads := [{ r with err := some cause }] })) ∧
    (∀ ck idx p, (s.core ck).pend[idx]? = some p → p.inColl = false → p.loc.collected = true →
      exec (.errorResponse (.store ck idx) cause) s = .next
        (((s.modCore ck fun c => { c with pend := dropAt c.pend idx }).storeError p.tk ck p.va p.tloc cause).tryEnding p.tk)) ∧
    (∀ m d, exec (.errorResponse (.peer m d) cause) s = .next (s.logMgmt d cause 5 (m % 8192)) ∧
      exec (.errorResponse (.host d) cause) s = .next (s.logMgmt d cause 6 0)) ∧
    (∀ d, cause = cMEMERR → (homeDie d).isSome = true → ∃ s', exec (.errorResponse (.soft d) cause) s = .next s' ∧ s'.mem = s.mem ∧
      s'.badAt (.home d) 1 true = some cause ∧ s'.badAt (.home d) 1 false = none ∧
      ∀ x n rd, x.overlap n (.home d) 1 = false → s'.badAt x n rd = s.badAt x n rd) ∧
    (∀ u o, cause = cMEMERR → exec (.errorResponse (.bank u o) cause) s = .next (s.addBad (.scratch u o) cause true)) ∧
    (∀ d, cause = cADDR → offPackage d = true → exec (.errorResponse (.noTarget d) cause) s = .next (s.addBad (.home d) cause true)) ∧
    (∀ l wr, (s.addBad l cause wr).badAt l 1 true = (if l.overlap 1 l 1 then some cause else (s.addBad l cause wr).badAt l 1 true) ∧
      (s.addBad l cause true).badAt l 1 false = (s.addBad l cause true).badAt l 1 true)) ∧
  (∀ (s : State) tk t k b e s', s.thread? tk = some t → (t.ports.getD k {}).bind = some b → s.away t = false → t.live = true →
    b.isOut = false → (t.ports.getD k {}).fin.length < 8 → (∀ x ∈ (t.ports.getD k {}).fin, x.err = none) →
    b.pos + (t.ports.getD k {}).fin.length < b.count → s.fetchElem tk k (b.pos + (t.ports.getD k {}).fin.length) = (some e, s') →
    exec (.streamPrefetch tk k) s = .next (s'.modThread tk fun u =>
      { u with ports := setAt u.ports k { u.ports.getD k {} with tokIn := none, fin := (u.ports.getD k {}).fin ++ [e] } })) ∧
  (∀ (s : State) tk t k s', s.thread? tk = some t → s.away t = false → t.oldestOut = some k → s.drainOne tk = (true, s') →
    (∀ u, s'.thread? tk = some u → u.ending = false) → exec (.streamOutDrain tk k) s = .next s')

/-- A free place lets the first waiting thread issue again; a row of a copy, and an element of a gather whose index is in bounds,
is read from its source and written to its destinations, and has then landed (a gather sets its mask bit); an index out of
bounds fails its element with ADDR; the probe pass of channel 7 pins every page and only then lets data move; the watchdog
ends an op, or its wait for the line of its counter, after 4 ms of waiting for an absent line; a row, an element and a probe
pass take place once every earlier op of the channel has begun; an op at the head of its channel whose data phase is over
resolves its counter once, which ends it with CODE 1 and the cause where it cannot be resolved, writes its status, adds to
its counter and leaves. Where the manual leaves a point open it follows the model's own choices, logs 26, 27, 29, 32, 74, 82,
83 and 84. (R81, R82, R84, R89, R90, R91, R92, R95, R101, R102, R103) -/
def Obligations.CopyEngineEvents : Prop :=
  (∀ (s : State) ck ch tk q, (s.core ck).waitq.getD ch [] = tk :: q → ch < 8 → ((s.core ck).chans.getD ch []).length < 32 → s.waitsPlace tk = true →
    exec (.engineQueueAccept ck ch) s = .next (s.reissue tk)) ∧
  (∀ (s : State) ck id row o c src s1 d s2 s4, s.op? ck id = some o → o.card = .copy c → o.stopped = false → row ∈ o.left →
    (o.ch ≠ 7 ∨ o.probed = true) → s.mayBegin ck o = true → (s.openOp ck o).opSource ck o row (c.srcRow row) c.xb = (.ok src, s1) →
    s1.deliveries (o.agent ck) (AMap.get? o.toks row) c.xb
      (if c.mc then (c.members (s1.esize o.uid) o.mfail).map fun m => (m, memberVa m (c.dstRow row)) else [(8, c.dstRow row)]) {} = (d, s2) →
    d.wait = none → (c.mc = true ∨ d.bad = []) →
    let s3 := s2.modOp ck id fun x => { x with mfail := d.bad.foldl (fun m y => m ||| 2 ^ y.1) x.mfail
                                               cause := if x.cause = 0 then (d.bad.map (·.2)).headD 0 else x.cause }
    s3.writeAll (o.agent ck) o.writer (s3.readRuns (o.agent ck) src) d.runs = (true, s4) →
    exec (.copyRowTransfer ck id row) s = .next (s4.opLanded ck id row (d.runs.flatMap fun r => zipRuns row (2 * c.xb + 2) src r.2))) ∧
  (∀ (s : State) ck id el o c rs s1 o1 o2, s.op? ck id = some o → o.card = .gath c → o.begun = true →
    (o.ch ≠ 7 ∨ o.probed = true) → s.mayBegin ck o = true → (s.openOp ck o).op? ck id = some o1 → o1.begun = true → o1.stopped = false → el ∈ o1.left →
    (s.openOp ck o).opSource ck o1 el (c.idx + Word.ofN (4 * el)) 4 = (.ok rs, s1) →
    let s2 := s1.modOp ck id fun x => { x with index := (x.index.filter fun y => y.1 != el) ++ [(el, (rs.headD { loc := .home 0, n := 0 }))] }
    s2.op? ck id = some o2 → exec (.gatherElement ck id el) s = .next (s2.gatherCopy ck o2 c el (leVal (s1.readRuns (o1.agent ck) rs)))) ∧
  (∀ (s : State) ck (o : CopyOp) c el x, (c.bnd ≤ x → s.gatherCopy ck o c el x = s.elementFails ck o.id el cADDR) ∧
    ∀ src s1 runs s2 mask s3 s4, x < c.bnd → s.opSource ck o el (c.src + Word.ofN (x * c.srs)) c.rb = (.ok src, s1) →
      s1.deliveries (o.agent ck) (AMap.get? o.toks el) c.rb [(8, o.card.dstRow el)] {} = ({ runs := runs }, s2) →
      s2.maskRuns ck o c (el / 8) 1 true = (.ok mask, s3) → s3.absentOf o.cleared mask = none →
      s3.writeAll (o.agent ck) o.writer (s3.readRuns (o.agent ck) src) runs = (true, s4) →
      let s5 := s4.opLanded ck o.id el (runs.flatMap fun r => zipRuns el (2 * c.rb + 2) src r.2)
      ∀ s6, s5.maskWrite ck o mask (putBit (s5.readRuns (o.agent ck) mask) (el % 8) true) mask = (true, s6) →
        s.gatherCopy ck o c el x = s6) ∧
  (∀ (s : State) ck id o c rs s1, s.op? ck id = some o → o.card = .copy c → o.ch = 7 → o.probed = false → o.stopped = false →
    s.mayBegin ck o = true →
    (s.openOp ck o).pinAll ck id ((if c.ctr = 0 then [] else [(c.ctr, true)]) ++ (match c.stat with | some a => [(a, true)] | none => []) ++
      o.left.flatMap fun q => ((pagesOf (c.xb + 1) (c.srcRow q) c.xb).map fun v => (v, false)) ++
        ((pagesOf (c.xb + 1) (c.dstRow q) c.xb).map fun v => (v, true))) = (.ok rs, s1) →
    exec (.probePass ck id) s = .next ((s1.modOp ck id fun x => { x with probed := true }).opSettle ck id)) ∧
  (∀ (s : State) ck id o w ws, s.op? ck id = some o → o.waitOn = w :: ws → 4000000 ≤ o.waited + (s.hub.tmr - o.waitFrom) →
    let s1 := s.logEng (o.agent ck) (s.lineAddr o.uid w.uid w.line) cENGINE
    exec (.watchdogTimeout ck id) s = .next (if o.stopped then s1.modOp ck id fun x => { x with late := true, code := 2, cause := cENGINE, waitOn := [] }
      else s1.opStop ck id 2 cENGINE)) ∧
  (∀ (s : State) ck id o s1, s.op? ck id = some o → o.stopped = true → ((s.core ck).chans.getD o.ch []).head?.map (·.id) = some id →
    (o.card.csc ≠ 4 ∨ s.engDelivered ck o.ch = true) →
    (∀ c, o.ctr = some c → exec (.engineOpEnd ck id) s = .next (s.opEnd ck o c)) ∧
    (∀ c, o.ctr = none → s.counterLoc (o.agent ck) (AMap.get? o.toks keyCtr) o.card.ctr = (.is c, s1) →
      exec (.engineOpEnd ck id) s = .next ((s1.modOp ck id fun x => x.resolved c).opEnd ck (o.resolved c) c))) ∧
  (∀ (s : State) ck (o : CopyOp), (∀ l, s.counterWait o.late l = none → s.opEnd ck o (.at_ l) = s.opFinish ck o (some l)) ∧
    s.opEnd ck o .none = s.opFinish ck o none ∧
    ∀ e, s.opEnd ck o (.bad e) = s.opFinish ck o none ∧ (o.resolved (.bad e)).codeOf = 1 ∧ (o.resolved (.bad e)).causeOf = e) ∧
  (∀ (s : State) ck (o : CopyOp) rs bs dep, o.clearedOf rs = false → s.maskWrite ck o rs bs dep = s.engWriteRuns (o.agent ck) o.writer rs bs) ∧
  (∀ (s : State) ck (o : CopyOp), o.card.stat = none → ∀ x ∈ ((s.opFinish ck o none).core ck).chans.flatten, x.id ≠ o.id)

/-- A free place lets the first waiting thread issue its MXL again; the oldest job outside the four contexts enters one; a job
that may run does one block step, and the last segment of a tile writes its C elements and moves on to the next tile; an
ended job that is the first of its group resolves its counter once, gives its status and counter and leaves; a job that has
waited 4 ms for an absent line stops, or waits no longer for the line of its counter; a releasing handle that nothing names
returns, and an ended unit's scratchpad and operand buffer are free once no record of them is still to be written and nothing
names them. Where the manual leaves a point open it follows the model's own choices, logs 26, 27, 32, 34 and 59. (R103, R106, R201, R209, R211, R214, R217, R219) -/
def Obligations.MatrixEngineEvents : Prop :=
  (∀ (s : State) ck tk q, (s.core ck).waitq.getD 8 [] = tk :: q → (s.core ck).jobs.length < 32 → s.waitsPlace tk = true →
    exec (.matrixQueueAccept ck) s = .next (s.reissue tk)) ∧
  (∀ (s : State) ck j, ((s.core ck).jobs.filter (·.ctx)).length < 4 → ((s.core ck).jobs.find? fun j => !j.ctx) = some j →
    exec (.jobEnterContext ck) s = .next (s.modMjob ck j.id fun x => { x with ctx := true })) ∧
  (∀ (s : State) ck j s1, s.held (ck / 8) = false → (s.cluster (ck / 8)).changing = false → (s.core ck).runnable = [j] →
    s.jobStep ck j = (true, s1) → exec (.blockStep ck) s = .next (s1.modCore ck fun c =>
      if c.run = some j.id then { c with leased := c.leased + 1 } else { c with run := some j.id, leased := 1 })) ∧
  (∀ (s : State) ck (j : Job) acc fell s1, s.jobSegment ck j = .ok (acc, fell) s1 →
    (j.seg + 1 < j.segs → s.jobStep ck j = (true, s1.modMjob ck j.id fun x =>
      { x with seg := j.seg + 1, acc := acc, ord2 := x.ord2 || fell, waitOn := none, waited := 0 })) ∧
    (∀ locs s2 s3, j.segs ≤ j.seg + 1 → s1.tileLocs ck j j.tile = .ok locs s2 → s2.writeTile ck j j.tile acc locs = (true, s3) →
      s.jobStep ck j = (true, s3.modMjob ck j.id fun x =>
        { x with tile := j.tile + 1, seg := 0, acc := [], steps := x.steps + j.segs, ord2 := x.ord2 || fell, waitOn := none, waited := 0,
                 ended := j.tile + 1 ≥ j.tiles }))) ∧
  (∀ (s : State) ck id j s1, s.mjob? ck id = some j → j.ended = true →
    (((s.core ck).jobs.takeWhile fun x => x.id != id).all fun x => x.uid != j.uid) = true → (j.card.csc ≠ 4 ∨ s.engDelivered ck 8 = true) →
    (∀ c, j.ctr = some c → exec (.jobEnd ck id) s = .next (s.jobEnd ck j c)) ∧
    (∀ c, j.ctr = none → s.counterLoc (j.agent ck) (AMap.get? j.toks keyCtr) j.card.ctr = (.is c, s1) →
      exec (.jobEnd ck id) s = .next ((s1.modMjob ck id fun x => x.resolved c).jobEnd ck (j.resolved c) c))) ∧
  (∀ (s : State) ck (j : Job), (∀ l, s.counterWait j.late l = none → s.jobEnd ck j (.at_ l) = s.jobFinish ck j (some l)) ∧
    s.jobEnd ck j .none = s.jobFinish ck j none ∧
    ∀ e, s.jobEnd ck j (.bad e) = s.jobFinish ck j none ∧ (j.resolved (.bad e)).code = 1 ∧ (j.resolved (.bad e)).cause = e) ∧
  (∀ (s : State) ck id j w, s.op? ck id = none → s.mjob? ck id = some j → j.waitOn = some w → 4000000 ≤ j.waited + (s.hub.tmr - j.waitFrom) →
    let s1 := s.logEng (j.agent ck) (s.lineAddr j.uid w.1 w.2) cENGINE
    exec (.watchdogTimeout ck id) s = .next (if j.ended then s1.modMjob ck id fun x => { x with late := true, code := 2, cause := cENGINE, waitOn := none }
      else s1.jobStop ck id 2 cENGINE)) ∧
  (∀ (s : State) uid h u r, s.unit? uid = some u → AMap.get? u.resv h = some r →
    exec (.handleReturn uid h) s = .next (if r.releasing && !s.handleNamed uid h then s.setUnit uid { u with resv := AMap.del u.resv h } else s)) ∧
  (∀ (s : State) uid u, s.unit? uid = some u → u.stat = .ended →
    let gone (m : TUnit) : Bool := m.stat == .ended && (AMap.get? s.hub.recs (unitKey m.lid m.idx)).isNone
    let free := ((upFrom 0 u.esize).filterMap fun k => (s.member uid k).bind s.unit?).all gone && !s.scratchNamed uid
    let buffer := gone u && u.resv.all fun r => !s.handleNamed uid r.1
    exec (.allocationRelease uid) s = .next (s.setUnit uid { u with scrHeld := u.scrHeld && !free, obHeld := u.obHeld && !buffer }))

/-- While the host may write, a valid CH_TAIL write moves the tail and an invalid one is ignored, and CH_CTL restarts a stopped
chain at its entry. A JOB entry whose id is free opens its job, waiting for the slices, reserved cores and START time that it
names; a GRAPH entry opens its graph in the current phase, a used id stops the chain; PHASE and END close the current graph;
WAITC retires once its counter has reached its value; SPEC retires when it has committed or discarded its launch and the
launch is complete. Retirement, once the earlier writes of the sequencer are delivered, moves the head on, keeps SEQ, and
writes it to the progress word. Where the manual leaves a point open it follows the model's own choices, logs 36, 37, 47, 88
and 89. (R313, R314, R316, R317, R318, R319, R320, R321, R333) -/
def Obligations.ChainEvents : Prop :=
  (∀ (s : State) n v, n < 16 → n < s.hub.chains.length →
    (s.hostTakes = true → v.toNat < (s.chain n).size.toNat → ∃ t, exec (.chTailWrite n v) s = .next t ∧ (t.chain n).tail = v ∧ (t.chain n).head = (s.chain n).head ∧
      ((s.chain n).stat ≠ 2 → (t.chain n).stat = if (s.chain n).head = v.toNat then 0 else 1) ∧ t.mem = s.mem) ∧
    ((s.chain n).size.toNat ≤ v.toNat → exec (.chTailWrite n v) s = .next s) ∧
    (s.hostTakes = true → (s.chain n).stat = 2 → v.getLsbD 0 = true → ∃ t, exec (.chCtlRestart n v) s = .next t ∧ (t.chain n).stat = 1 ∧ (t.chain n).reason = 0 ∧
      (t.chain n).phase = .fetch ∧ (t.chain n).head = (s.chain n).head ∧ t.mem = s.mem)) ∧
  (∀ (s : State) n bs s', Takes s n eJOB bs s' →
    let id := field bs 4 4
    ((id = 0 ∨ (s'.job? id).isSome = true) → exec (.jobEntry n) s = .next (s'.stopChain n 4)) ∧
    (id ≠ 0 → s'.job? id = none →
      let opens := (s'.chain n).job = none ∧ (∀ b, b < 4 → s'.slice.getD b 0 = entrySlice bs b) ∧
        (∀ j ∈ s'.hub.jobs, ∀ d, d < 4 → (j.2.resv.getD d 0) &&& ((entryResv bs).getD d 0) = 0) ∧
        (bits (field bs 1 1) 1 1 = 0 ∨ field bs 32 8 ≤ s'.hub.tmr)
      (¬ opens → exec (.jobEntry n) s = .next s') ∧
      (opens → ∃ t j, exec (.jobEntry n) s = .next t ∧ t.job? id = some j ∧ j.chain = n ∧ j.lock = (bits (field bs 1 1) 0 0 == 1) ∧
        j.dbg = (bits (field bs 1 1) 2 2 == 1) ∧ j.root = Word.ofN (field bs 16 8) ∧ j.asn = field bs 24 2 ∧ j.resv = entryResv bs ∧
        j.jctr = Word.ofN (field bs 72 8) ∧ j.pctr = Word.ofN (field bs 80 8) ∧ j.cancelled = false ∧
        (t.chain n).job = some id ∧ (t.chain n).phase = .retiring ∧ t.mem = s.mem ∧ t.units = s.units))) ∧
  (∀ (s : State) n bs s' jid j, Takes s n eGRAPH bs s' → (s'.chain n).job = some jid → s'.job? jid = some j →
    let gid := field bs 4 4
    ((gid = 0 ∨ (s'.openGraph gid).isSome = true) → exec (.graphEntry n) s = .next (s'.stopChain n 4)) ∧
    (gid ≠ 0 → s'.openGraph gid = none → ∃ t g, exec (.graphEntry n) s = .next t ∧ t.hub.graphs = (s'.seal jid).hub.graphs ++ [g] ∧
      g.gid = gid ∧ g.jid = jid ∧ g.phase = j.phase ∧ g.gctr = Word.ofN (field bs 16 8) ∧ g.closed = false ∧ g.complete = false ∧
      (t.job? jid).bind (·.curGraph) = some g.key ∧ (t.chain n).phase = .retiring ∧ t.mem = s.mem)) ∧
  (∀ (s : State) n bs s' jid, (s'.chain n).job = some jid →
    (Takes s n ePHASE bs s' → exec (.phaseEntry n) s = .next (s'.seal jid)) ∧
    (Takes s n eEND bs s' → exec (.endEntry n) s = .next (((s'.seal jid).jobLaunches jid).foldl (fun x p =>
      if p.2.desc.specv ∧ p.2.resolved = false ∧ p.2.done.length = p.2.desc.units then x.cancelLaunch p.1 else x) (s'.seal jid)))) ∧
  (∀ (s : State) n bs s' jid j v s1, Takes s n eWAITC bs s' → (s'.chain n).job = some jid → s'.job? jid = some j →
    s'.seqCounter n j (Word.ofN (field bs 16 8)) = (.val v, s1) →
    exec (.waitcEntry n) s = .next (if field bs 24 8 ≤ v then s1.retire n else s1)) ∧
  (∀ (s : State) n jid j v s1, n < 16 → (s.chain n).stat ≠ 2 → (s.chain n).phase = .waiting → field (s.chain n).entry 0 1 = eWAITC →
    (s.chain n).job = some jid → s.job? jid = some j → s.seqCounter n j (Word.ofN (field (s.chain n).entry 16 8)) = (.val v, s1) →
    exec (.sequencerCounterReread n) s = .next (if field (s.chain n).entry 24 8 ≤ v then s1.retire n else s1)) ∧
  (∀ (s : State) lid l j v s1, s.launch? lid = some l → s.job? l.jid = some j → l.wok = false → l.cancelled = false →
    s.seqCounter (keyWctr lid) j l.wctr = (.val v, s1) →
    exec (.sequencerCounterReread (16 + lid)) s = .next (if l.wval.toNat ≤ v then s1.modLaunch lid fun l => { l with wok := true } else s1)) ∧
  (∀ (s : State) n bs s' jid l, Takes s n eSPEC bs s' → (s'.chain n).job = some jid → s'.specLaunch jid (field bs 4 4) = some l →
    l.resolved = false →
    (bits (field bs 1 1) 0 0 = 1 → exec (.specEntryDiscard n) s =
      .next ((((s'.cancelLaunch (field bs 4 4)).completeLaunch (field bs 4 4)).modChain n fun c => { c with lid := field bs 4 4 }).specRetire n (field bs 4 4))) ∧
    (bits (field bs 1 1) 0 0 = 0 → s'.cancelling (field bs 4 4) = false → ∀ done s1, s'.commit (field bs 4 4) = (done, s1) →
      exec (.specEntryCommit n) s = .next (if done then
        ((s1.completeLaunch (field bs 4 4)).modChain n fun c => { c with lid := field bs 4 4 }).specRetire n (field bs 4 4) else s1)) ∧
    (bits (field bs 1 1) 0 0 = 0 → s'.cancelling (field bs 4 4) = true → exec (.specEntryCommit n) s = .next (s'.retire n))) ∧
  (∀ (s : State) n bs s' jid l, Takes s n eSPEC bs s' → (s'.chain n).job = some jid → s'.specLaunch jid (field bs 4 4) = some l →
    l.resolved = true → (s'.chain n).lid = field bs 4 4 → bits (field bs 1 1) 0 0 = 0 →
    exec (.specEntryCommit n) s = .next ((s'.completeLaunch (field bs 4 4)).specRetire n (field bs 4 4))) ∧
  (∀ (s : State) n lid, (∀ l, s.launch? lid = some l → l.complete = true) → s.specRetire n lid = s.retire n) ∧
  (∀ (s : State) n, n < 16 → n < s.hub.chains.length → s.mem.wf = true → (s.chain n).stat ≠ 2 → (s.chain n).phase = .retiring → s.seqDelivered = true →
    let seq := field (s.chain n).entry 8 8
    let d := (s.chain n).prog.toNat / 8 * 8
    s.dpaErr d 8 false = none →
    ∃ s1 : State, exec (.chainEntryRetire n) s = .next (s1.seqStore d (leBytes 8 seq)) ∧ s1.mem = s.mem ∧
      (s1.chain n).head = ((s.chain n).head + 1) % (s.chain n).size.toNat ∧ (s1.chain n).lastSeq = some seq ∧ (s1.chain n).phase = .fetch ∧
      (s.Idle → (s1.seqStore d (leBytes 8 seq)).mem.bytes d 8 = leBytes 8 seq))

/-- A LAUNCH entry whose descriptor breaks R323 stops its chain with reason 5 and the launch reason; else the launch is accepted
under the next id, its graph and copies of descriptor and arguments kept. A unit whose turn it is takes the place found for
it; at its start it is resident, its uniforms hold the arguments, unit index, unit count and launch id, and each of its
threads is live at the entry of its role with that role's registers. Units that give way to a launch of higher priority stop
and are saved; a unit saved away resumes once its save block has been read; a lost unit runs again, and the sparing record
counts those of the latest sequence that have, and those that no die can take. An accepted cancellation stops what it names;
a committed launch writes its buffered lines home one at a time, and then gives its buffer up; a level completes once its
parts have, its writes are performed and its mirror word is raised by one; a cancelled phase raises its mirror word once its
graphs are complete, wherever its chain is, and its entry then only retires. Where the manual leaves a point open it follows
the model's own choices, logs 9, 13, 16, 37, 42, 43, 44, 45, 87, 90 and 91. (R313, R314, R315, R318, R322, R323, R324, R326, R328, R330, R344, R346) -/
def Obligations.LaunchAndUnitEvents : Prop :=
  (∀ (s : State) n bs s' jid j gkey desc s1 args spec s2, Takes s n eLAUNCH bs s' → (s'.chain n).job = some jid → s'.job? jid = some j →
    (s'.chain n).lid = 0 → j.curGraph = some gkey → field bs 16 8 % 8 = 0 → s'.seqRead n j 3 (Word.ofN (field bs 16 8)) 128 = (.ok desc, s1) →
    s1.launchReads n j desc = (.ok args spec, s2) →
    let why := if (descOf desc).dbgp = true ∧ j.dbg = false then 0x20 else s2.refusalOf jid desc (.ok args spec)
    let r := (s2.seqDone n).joinGraph jid gkey desc args spec (Word.ofN (field bs 32 8)) (Word.ofN (field bs 40 8))
    (why ≠ 0 → exec (.launchEntry n) s = .next (s2.stopChain n 5 why)) ∧
    (why = 0 → exec (.launchEntry n) s = .next ((r.2.modChain n fun c => { c with lid := r.1 }).writeLidp n j bs r.1))) ∧
  (∀ (s : State) n bs s' jid j gkey desc s1 s2, Takes s n eLAUNCH bs s' → (s'.chain n).job = some jid → s'.job? jid = some j →
    (s'.chain n).lid = 0 → j.curGraph = some gkey → field bs 16 8 % 8 = 0 → s'.seqRead n j 3 (Word.ofN (field bs 16 8)) 128 = (.ok desc, s1) →
    ∀ hdr, s1.launchReads n j desc = (.bad hdr, s2) → ((descOf desc).dbgp = true → j.dbg = true) →
    exec (.launchEntry n) s = .next (s2.stopChain n 5 (s2.refusal jid desc false hdr)) ∧ (descBad desc hdr = true → s2.refusal jid desc false hdr = 0x20) ∧
    (descBad desc hdr = false → rolesBad desc = false → s2.neverFits jid (descOf desc) = false → s2.refusal jid desc false hdr = 0x23)) ∧
  (∀ (s : State) jid gkey bs args spec w v, ∃ l, (s.acceptLaunch jid gkey bs args spec w v).1 = s.hub.nextLid ∧
    (s.acceptLaunch jid gkey bs args spec w v).2.launch? s.hub.nextLid = some l ∧ l.jid = jid ∧ l.gkey = gkey ∧ l.desc = descOf bs ∧
    l.wctr = w ∧ l.wval = v ∧ (l.wok = true ↔ w = 0) ∧ l.started = [] ∧ l.done = [] ∧ l.cancelled = false ∧ l.complete = false) ∧
  (∀ (s : State) lid idx l g t, s.launch? lid = some l → (s.nextGroups lid l).find? (fun g => g.contains idx) = some g → s.place lid l g = some t →
    (∀ p ∈ s.hub.launches, servedBefore p.1 p.2 lid l = true → s.canAdmit p.1 p.2 = false) →
    (∀ p ∈ s.hub.launches, l.desc.prio < p.2.desc.prio → s.claims p.1 p.2 = false) →
    s.takeIn lid idx (s.startedBefore lid idx) = some t ∧
    (s.startedBefore lid idx = false → exec (.unitStart lid idx) s = .next t)) ∧
  (∀ (s : State) lid idx ck l, let uid := unitKey lid idx
    ∃ u, (s.startUnit lid idx ck l).unit? uid = some u ∧ u.stat = .resident ∧ u.ck = ck ∧ u.lid = lid ∧ u.idx = idx ∧ u.g = l.desc.threads ∧
      u.uni = l.args ++ [Word.ofN idx, Word.ofN l.desc.units, Word.ofN lid] ++ List.replicate 141 0 ∧ u.scr = {} ∧ u.absent = [] ∧
      (∀ p ∈ (s.startUnit lid idx ck l).threads, p.2.uid = uid → ∃ r ∈ l.desc.roles, p.2.pc = r.entry ∧ p.2.nregs = r.regs ∧ p.2.live = true ∧
        (r.regs < 60 → p.2.v = List.replicate r.regs 0)) ∧ (l.desc.save = 0 → (s.startUnit lid idx ck l).mem = s.mem)) ∧
  (∀ (s : State) uid u l s1 t, s.unit? uid = some u → s.launchOf uid = some l → u.stat = .preempted → (s.takeIn u.lid u.idx true).isSome = true →
    s.readBlocks ((s.fellows u.lid u.idx l).filter fun x => ((s.unit? x).map (·.stat)) == some .preempted) = (true, s1) →
    s1.takeIn u.lid u.idx true = some t → exec (.resumption uid) s = .next t) ∧
  (∀ (s : State) uid ck u, s.unit? uid = some u → u.saveHit = [] → u.dbg.halt = false →
    ∃ v, (s.restoreUnit uid ck).unit? uid = some v ∧ v.stat = .resident ∧ v.ck = ck ∧ v.uni = u.uni ∧ v.scr = u.scr ∧ v.obuf = u.obuf ∧ v.bars = u.bars ∧
      v.resv = u.resv ∧ v.savedOps = u.savedOps ∧ v.savedJobs = u.savedJobs ∧ v.absent = [] ∧
      (s.restoreUnit uid ck).threads = s.threads ∧ (s.restoreUnit uid ck).mem = s.mem) ∧
  (∀ (s : State) uid u, s.unit? uid = some u → s.reacceptUnit uid =
    (s.setUnit uid { u with savedOps := [], savedJobs := [] }).reacceptAll u.ck ((u.savedOps.foldr insertOp []).length + u.savedJobs.length + 1)
      (u.savedOps.foldr insertOp []) u.savedJobs) ∧
  (∀ (s : State) lid l idxs sites, s.chooseSites lid l idxs = some sites → s.placeGroup lid l idxs =
    some (idxs.foldl (fun x i => x.reacceptUnit (unitKey lid i)) ((idxs.zip sites).foldl (fun x y => x.placeUnit lid y.1 y.2.ck l) s))) ∧
  (∀ (s : State) uid u t, s.unit? uid = some u → u.stat = .lost → s.takeIn u.lid u.idx true = some t →
    ∃ t', exec (.lostUnitRerun uid) s = .next t' ∧ t'.units = t.units ∧ t'.threads = t.threads ∧ t'.mem = t.mem ∧
      t'.hub.spar.rerun = t.hub.spar.rerun + ((s.units.countP fun p => s.lostNow p.2) - (t.units.countP fun p => t.lostNow p.2)) ∧
      t'.hub.spar.left = t.leftWaiting) ∧
  (∀ (s : State) uid u l, s.unit? uid = some u → s.launchOf uid = some l →
    (u.stat = .saving → exec (.preemption uid) s = .next (s.saveUnit uid)) ∧
    (∀ p g, u.stat = .resident → p ∈ s.hub.launches → l.desc.prio < p.2.desc.prio → s.claims p.1 p.2 = true →
      (s.without []).canAdmit p.1 p.2 = false → s.firstVictim p.2.desc.prio = some g → uid ∈ g →
      let us := (s.fellows u.lid u.idx l).filter fun x => ((s.unit? x).map (·.stat)) == some .resident
      exec (.preemption uid) s = .next (us.foldl (fun x v => x.saveUnit v) (us.foldl (fun x v => x.stopUnit v) s)))) ∧
  (∀ (s : State) idx c, s.hub.cancels[idx]? = some c →
    let s1 := s.modHub fun h => { h with cancels := dropAt h.cancels idx }
    (c.level = 0 → exec (.cancellationTakesEffect idx) s = .next (s1.cancelUnit (c.id / 2 ^ 32) (c.id % 2 ^ 32))) ∧
    (c.level = 1 → exec (.cancellationTakesEffect idx) s = .next (s1.cancelLaunch c.id)) ∧
    (c.level = 2 → exec (.cancellationTakesEffect idx) s = .next (s1.cancelGraph c.id)) ∧
    (c.level = 3 → exec (.cancellationTakesEffect idx) s = .next (s1.cancelPhase c.jid c.id)) ∧
    (c.level = 4 → exec (.cancellationTakesEffect idx) s = .next (s1.cancelJob c.jid))) ∧
  (∀ (s : State) key j va d s1, va ≠ 0 → va.toNat % 8 = 0 → s.seqXlate key j va 8 true = (.ok d, s1) →
    s.bump key j va = (true, (s1.seqDone key).seqStore d (leBytes 8 (leVal (s1.bytesAt 0 (.home d) 8) + 1)))) ∧
  (∀ (s : State) uid, exec (.levelComplete 0 uid) s = .next (s.tryRecord uid)) ∧
  (∀ (s : State) lid l j s1 s2, s.launch? lid = some l → s.job? l.jid = some j → l.complete = false → l.desc.units ≤ l.done.length →
    (l.desc.specv = true → l.resolved = true) → s.launchQuiet lid = true → l.spec = none → s.levelWrites (· == lid) = (true, s1) →
    s1.bump (keyLevel 1 lid) j l.desc.lctr = (true, s2) →
    exec (.levelComplete 1 lid) s = .next (s2.modLaunch lid fun l => { l with complete := true })) ∧
  (∀ (s : State) lid l b, s.launch? lid = some l → l.complete = false → l.desc.units ≤ l.done.length → l.resolved = true → s.launchQuiet lid = true →
    l.spec = some b → exec (.levelComplete 1 lid) s = .next (s.commitLine lid b) ∧ (b.lines[b.written]? = none → s.commitLine lid b = s.dropBuffer lid) ∧
    ∀ e, b.lines[b.written]? = some e → s.commitLine lid b = (e.2.foldl (fun x y => x.seqStore (128 * e.1 + y.1) [y.2] lid) s).modLaunch lid
      fun x => { x with spec := x.spec.map fun (y : SpecBuf) => { y with written := y.written + 1 } }) ∧
  (∀ (s : State) gid g j s1 s2, s.openGraph gid = some g → s.job? g.jid = some j → g.closed = true →
    (∀ p ∈ s.launchesOf g.key, p.2.complete = true) → (s.levelWrites fun lid => (s.launchesOf g.key).any fun p => p.1 == lid) = (true, s1) →
    s1.bump (keyLevel 2 g.key) j g.gctr = (true, s2) →
    exec (.levelComplete 2 gid) s = .next (s2.modGraph g.key fun g => { g with complete := true })) ∧
  (∀ (s : State) jid j s1 s2 s3, s.job? jid = some j → (∀ g ∈ s.graphsOf jid, g.phase = j.phase → g.complete = true) →
    s.phaseBoundary jid = (true, s1) → (s1.levelWrites fun lid => ((s1.launch? lid).map (·.jid)) == some jid) = (true, s2) →
    s2.phaseMirror jid j = (true, s3) →
    let t := s3.modJob jid fun x => { x with phase := x.phase + 1, closing := x.cancelled, early := false }
    (j.cancelled = false → (s.chain j.chain).job = some jid → (s.chain j.chain).waitsAt ePHASE = true →
      exec (.levelComplete 3 jid) s = .next (t.retire j.chain)) ∧
    (j.cancelled = false → (s.chain j.chain).job = some jid → (s.chain j.chain).waitsAt eEND = true → s.phaseGraphs jid j ≠ [] →
      exec (.levelComplete 3 jid) s = .next t) ∧
    (j.cancelled = true → j.closing = false → exec (.levelComplete 3 jid) s = .next t) ∧
    (j.cancelled = false → j.phase ∈ j.cancelledPhases → j.early = false → (s.chain j.chain).waitsAt ePHASE = false →
      (s.chain j.chain).waitsAt eEND = false → exec (.levelComplete 3 jid) s = .next (s3.modJob jid fun x => { x with early := true }))) ∧
  (∀ (s : State) jid j, (j.early = true → s.phaseMirror jid j = (true, s)) ∧
    (j.early = false → s.phaseMirror jid j = s.bump (keyLevel 3 jid) j j.pctr)) ∧
  (∀ (s : State) jid j s1 s2, s.job? jid = some j → (∀ p ∈ s.jobLaunches jid, p.2.complete = true) →
    (∀ g ∈ s.graphsOf jid, g.complete = true) → s.phaseGraphs jid j = [] →
    (s.levelWrites fun lid => ((s.launch? lid).map (·.jid)) == some jid) = (true, s1) → s1.bump (keyLevel 4 jid) j j.jctr = (true, s2) →
    (j.cancelled = false → (s.chain j.chain).job = some jid → (s.chain j.chain).waitsAt eEND = true →
      exec (.levelComplete 4 jid) s = .next ((s2.retire j.chain).closeJob jid)) ∧
    (j.cancelled = true → j.closing = true → exec (.levelComplete 4 jid) s = .next (s2.closeJob jid)))

/-- While the hub takes host transactions, a reply resolves or refuses the entry of its token, which is then gone; an entry older
than a nonzero FQ_LIMIT ends as if refused; valid writes of FQ_TAIL, FQ_BASE and FQ_SIZE are taken, the latter two only while
the queue is empty, and records that were held are then appended; an invalidation runs over the range latched at its start
and is done, with no translation of the range cached and no thread holding a place of the range for its instruction, once no
access or undelivered write that used one is left; a slice size changes as a JOB entry asks while no unit is on the die, and
the slice then holds no changed line; the completion of the zero-length read delivers every write toward the host. Where the
manual leaves a point open it follows the model's own choices, logs 25 and 65. (R65, R71, R72, R73, R74, R75, R259) -/
def Obligations.TranslationEvents : Prop :=
  let live (s : State) (k : Nat) : Option FaultEnt := s.hub.faults.find? fun f => f.token == k && f.live
  (∀ (s : State) k f, s.hostTakes = true → live s k = some f →
    (∃ t, exec (.fqReplyResolve k) s = .next t ∧ live t k = none ∧ t.hub.refused = s.hub.refused ∧ t.mem = s.mem ∧ t.threads = s.threads) ∧
    (∃ t, exec (.fqReplyRefuse k) s = .next t ∧ live t k = none ∧ t.hub.refused = s.hub.refused ++ [(k, f.va.toNat / 65536)] ∧ t.mem = s.mem ∧
      t.threads = s.threads ∧ (s.hub.fqLimit ≠ 0 → s.hub.fqLimit.toNat * 1000 < s.hub.tmr - f.born → exec (.fqLimitExpiry k) s = .next t)) ∧
    ((s.hub.fqLimit = 0 ∨ s.hub.tmr - f.born ≤ s.hub.fqLimit.toNat * 1000) → exec (.fqLimitExpiry k) s = .next s)) ∧
  (∀ (s : State) k, live s k = none ∨ s.hostTakes = false → (live s k = none → exec (.fqLimitExpiry k) s = .next s) ∧ exec (.fqReplyResolve k) s = .next s ∧ exec (.fqReplyRefuse k) s = .next s) ∧
  (∀ (s : State) v, s.hostTakes = true →
    (v.toNat < s.hub.fqSize.toNat → exec (.fqTailWrite v) s = .next (s.modHub fun h => { h with fqTail := v.toNat }).flushFaults) ∧
    (s.hub.fqSize.toNat ≤ v.toNat → exec (.fqTailWrite v) s = .next s) ∧
    (v.toNat % 4096 = 0 → s.hub.fqHead = s.hub.fqTail →
      exec (.fqBaseWrite v) s = .next (s.modHub fun h => { h with fqBase := v, fqHead := 0, fqTail := 0 }).flushFaults) ∧
    ((v.toNat % 4096 ≠ 0 ∨ s.hub.fqHead ≠ s.hub.fqTail) → exec (.fqBaseWrite v) s = .next s) ∧
    ((∃ k, 6 ≤ k ∧ k ≤ 16 ∧ v.toNat = 2 ^ k) → s.hub.fqHead = s.hub.fqTail →
      exec (.fqSizeWrite v) s = .next (s.modHub fun h => { h with fqSize := v, fqHead := 0, fqTail := 0 }).flushFaults) ∧
    (((∀ k, 6 ≤ k → k ≤ 16 → v.toNat ≠ 2 ^ k) ∨ s.hub.fqHead ≠ s.hub.fqTail) → exec (.fqSizeWrite v) s = .next s) ∧
    ((∀ f ∈ s.hub.faults, f.written = true) → s.flushFaults = s)) ∧
  (∀ (s : State) v,
    (s.hostTakes = true → v.getLsbD 0 = true → s.hub.xinvDone = true → exec (.xinvStart v) s = .next (s.modHub fun h =>
      { h with xinvDone := false, xinvRun := (h.xinvAsn, h.xinvVa, h.xinvLen), xinvBases := (s.tlb.filter fun e =>
        (s.modHub fun h => { h with xinvDone := false, xinvRun := (h.xinvAsn, h.xinvVa, h.xinvLen) }).inXinv e.asn e.page).map (·.base) })) ∧
    ((s.hostTakes = false ∨ v.getLsbD 0 = false ∨ s.hub.xinvDone = false) → exec (.xinvStart v) s = .next s)) ∧
  (∀ (s : State), s.hub.xinvDone = false →
    (∀ c ∈ s.cores, ∀ p ∈ c.2.pend, tagGlobal p.va = true → s.xinvHit (p.tk / 1024) p.va = false) →
    (∀ p ∈ s.threads, ∀ r ∈ p.2.loads, r.res = none → r.err = none → tagGlobal r.va = true → s.xinvHit p.2.uid r.va = false) →
    (∀ c ∈ s.cores, ∀ o ∈ c.2.chans.flatten, ∀ p ∈ o.pins, s.inXinv (s.spaceOf o.uid).1 p.1 = false) →
    (∀ p ∈ s.threads, ∀ q ∈ p.2.ports, ∀ e ∈ q.fin, e.wait = true → ∀ l, e.loc = some l → s.xinvLoc l = false) →
    (∀ w ∈ s.offw, s.xinvHome w.dpa = false) →
    (∀ l ∈ s.hub.launches, ∀ b, l.2.spec = some b → s.xinvHome b.head = false ∧ ∀ e ∈ b.lines, s.xinvHome (128 * e.1) = false) →
    ∃ t, exec .xinvDone s = .next t ∧ t.hub.xinvDone = true ∧ (∀ e, e ∈ t.tlb ↔ e ∈ s.tlb ∧ s.inXinv e.asn e.page = false) ∧ t.mem = s.mem ∧
      ∀ tk th, AMap.get? t.threads tk = some th → ∀ p ∈ th.places, s.xinvLoc p.2 = false) ∧
  (∀ (s : State) c p, s.hub.xinvDone = false → c ∈ s.cores → p ∈ c.2.pend → tagGlobal p.va = true → s.xinvHit (p.tk / 1024) p.va = true →
    exec .xinvDone s = .next s) ∧
  (∀ (s : State) w, s.hub.xinvDone = false → w ∈ s.offw → s.xinvHome w.dpa = true → exec .xinvDone s = .next s) ∧
  (∀ (s : State) b z, b < 4 → z < 4 → s.slice.getD b 0 < 4 → (∀ p ∈ s.units, p.2.onCore = true → p.2.ck / 64 ≠ b) → s.sliceAsked b z = true →
    ∃ t, exec (.sliceSizeChange b z) s = .next t ∧ t.slice = setAt s.slice b z ∧ (∀ e, e ∈ t.far ↔ e ∈ s.far ∧ homeDie (128 * e.1) ≠ some b) ∧ t.units = s.units ∧ t.threads = s.threads ∧
      (s.mem.wf = true → ∀ d, d < 2 ^ 50 → t.mem.byte d = s.mem.byte d)) ∧
  (∀ (s : State), ∃ t, exec .zeroLengthReadCompletion s = .next t ∧ (∀ w, w ∈ t.offw ↔ w ∈ s.offw ∧ homeKind w.dpa ≠ .host) ∧ t.mem = s.mem)

/-- While the hub takes host transactions, an access within BAR2 reaches APER_BASE + offset at its home, and one that receives an
error, as every one does while the island is down, is logged; a flit whose CRC fails is counted as a replay, and the
sixteenth in a row retrains the port; one of an unknown type is counted too and one out of sequence is not taken; an
acknowledgement takes its flit from the replay buffer; one that is taken is acknowledged by its sequence number, and
delivered here or sent on by its destination module, and payload flits go to the address that their request named, or on with
it once its packet is whole, the last of a write being answered; a port retrains after 16 failures or 10 µs without an
acknowledgement; links retrain, come up, degrade, and are taken down or allowed to train; a route is written where bits 31:18
are zero; endpoint event bits clear by writing 1; the island's reset takes every port down until the island is up. Where the
manual leaves a point open it follows the model's own choices, logs 8, 49, 50, 53 and 86. (R259, R262, R357, R358, R359, R360, R365, R370, R372, R385) -/
def Obligations.IslandEvents : Prop :=
  (∀ (s : State) off bs, s.hostTakes = true → bs ≠ [] → off + bs.length ≤ s.hub.bar2 →
    let d := s.hub.aperBase.toNat + off
    let err := if s.hub.islUp then s.dpaErr d bs.length false else some cMEMERR
    (∀ c, err = some c → exec (.hostApertureWrite off bs) s = .next (s.logMgmt d c 6 0)) ∧
    (err = none → ∃ t, exec (.hostApertureWrite off bs) s = .next t ∧ (s.mem.wf = true → s.Idle →
      t.mem.bytes d bs.length = bs ∧ ∀ a, a < d ∨ d + bs.length ≤ a → t.mem.byte a = s.mem.byte a))) ∧
  (∀ (s : State) off n, s.hostTakes = true → 0 < n → off + n ≤ s.hub.bar2 →
    let d := s.hub.aperBase.toNat + off
    let err := if s.hub.islUp then s.dpaErr d n true else some cMEMERR
    (∀ c, err = some c → exec (.hostApertureRead off n) s = .next (s.logMgmt d c 6 0)) ∧
    (err = none → ∃ t, exec (.hostApertureRead off n) s = .next t ∧ t.mem = s.mem ∧
      t.hub.hostReads = s.hub.hostReads ++ [s.bytesAt 0 (.home d) n])) ∧
  (∀ (s : State) p fl, p < 18 → fl.length = 128 → s.hub.islUp = true → (s.hub.links.getD p {}).isUp = true →
    let l := s.hub.links.getD p {}
    let takes := s.modLink p fun l => { l with fails := 0, lseq := (l.lseq + 1) % 256, lastAck := some l.lseq }
    (crcOk fl = false → exec (.flitReceive p fl) s = .next (if l.fails < 15 then s.modLink p Link.replayed else (s.modLink p Link.replayed).retrain p)) ∧
    (crcOk fl = true → ∀ c, l.cont = some c →
      let bad := c.bad || (c.fwd.isEmpty && (s.targetErr c.addr (Nat.min c.left 120) false).isSome)
      let goes (fwd : List (List Byte)) := s.modLink p fun l => { l with
        fails := 0, lseq := (l.lseq + 1) % 256, lastAck := some l.lseq,
        cont := some { c with addr := c.addr + 120, left := c.left - 120, bad := bad, fwd := fwd } }
      let ends := s.modLink p fun l => { l with fails := 0, lseq := (l.lseq + 1) % 256, lastAck := some l.lseq, cont := none }
      (c.fwd = [] → c.write = true → 120 < c.left → c.bad = false → exec (.flitReceive p fl) s = .next ((goes []).outsideWrite c.addr (fl.take 120) 5 c.src)) ∧
      (c.fwd = [] → c.write = true → c.left ≤ 120 → c.bad = false → exec (.flitReceive p fl) s =
        .next ((ends.outsideWrite c.addr (fl.take c.left) 5 c.src).reply c.src (if bad then 4 else 3) c.tag c.addr [])) ∧
      (c.fwd = [] → c.write = true → c.left ≤ 120 → c.bad = true → s.targetErr c.addr c.left false ≠ none →
        exec (.flitReceive p fl) s = .next (ends.reply c.src 4 c.tag c.addr [])) ∧
      (c.fwd = [] → c.write = false → exec (.flitReceive p fl) s = .next (if 120 < c.left then goes [] else ends)) ∧
      (c.fwd ≠ [] → exec (.flitReceive p fl) s = .next (if 120 < c.left then goes (c.fwd ++ [fl]) else ends.forward (c.fwd ++ [fl])))) ∧
    (crcOk fl = true → l.cont = none → 7 < field fl 4 1 →
      exec (.flitReceive p fl) s = .next (s.modLink p fun l => { l with replay := Nat.min (l.replay + 1) 65535 })) ∧
    (crcOk fl = true → l.cont = none → field fl 4 1 = 7 → exec (.flitReceive p fl) s = .next (s.ackFlit p (field fl 5 1))) ∧
    (crcOk fl = true → l.cont = none → field fl 4 1 < 7 →
      (field fl 5 1 ≠ l.lseq → exec (.flitReceive p fl) s = .next s) ∧
      (field fl 5 1 = l.lseq → exec (.flitReceive p fl) s = .next
        (if field fl 0 2 % 8192 = s.hub.pkgid then takes.serveFlit p fl else takes.forwardFlit p fl)))) ∧
  (∀ (s : State) p, p < 18 → p < s.hub.links.length →
    let l := s.hub.links.getD p {}
    let at_ (t : State) : Link := t.hub.links.getD p {}
    (l.isUp = true → (16 ≤ l.fails ∨ l.unacked ≠ [] ∧ 10000 ≤ s.hub.tmr - l.heard) → exec (.linkAckTimeout p) s = .next (s.retrain p)) ∧
    ((l.isUp = false ∨ l.fails < 16 ∧ (l.unacked = [] ∨ s.hub.tmr - l.heard < 10000)) → exec (.linkAckTimeout p) s = .next s) ∧
    (∀ lanes peer, s.hub.islUp = true → l.st = 1 → l.down = false → 0 < lanes → lanes ≤ 8 → ∃ t, exec (.linkTrainingDone p lanes peer) s = .next t ∧
      (at_ t).st = (if lanes = 8 then 2 else 3) ∧ (at_ t).lanes = (if lanes = 8 then 8 else 4) ∧ (at_ t).peer = peer % 8192 ∧
      (s.offw = [] → t.mem = s.mem)) ∧
    (s.hostTakes = true → exec (.linkTakeDown p) s = .next ((s.modLink p fun l => { l with down := true, st := 0, lanes := 0 }).reroute p)) ∧
    (s.hostTakes = true → ∃ t, exec (.linkAllowTrain p) s = .next t ∧ (at_ t).down = false ∧ (at_ t).st = (if l.st = 0 ∧ s.hub.islUp = true then 1 else l.st) ∧ t.mem = s.mem)) ∧
  (∀ (s : State) m v, s.hostTakes = true → m < 8192 →
    (bits v.toNat 31 18 = 0 → ∃ t, exec (.routeWrite m v) s = .next t ∧ AMap.get? t.hub.route m = some (bits v.toNat 17 0) ∧ (s.offw = [] → t.mem = s.mem)) ∧
    (bits v.toNat 31 18 ≠ 0 → exec (.routeWrite m v) s = .next s)) ∧
  (∀ (s : State) v, s.hostTakes = true → ∃ t, exec (.epEventClear v) s = .next t ∧ t.hub.ep = s.hub.ep ∧
    ∀ n, n < 10 → t.hub.epEvent.getD n false = (s.hub.epEvent.getD n false && !v.getLsbD n)) ∧
  (∀ (s : State) v,
    (s.hostTakes = true → v = 0x5EED0001 → ∃ s1 : State, exec (.islandReset v) s = .next (s1.failWrites fun _ => true) ∧ s1.hub.islUp = false ∧
      s1.hub.links.length = s.hub.links.length ∧ (∀ l ∈ s1.hub.links, l.st = 0 ∧ l.lanes = 0) ∧ s1.hub.tmr = s.hub.tmr ∧
      s1.hub.route = s.hub.route ∧ s1.hub.dmap = s.hub.dmap ∧ s1.mem = s.mem) ∧
    (s.hostTakes = false ∨ v ≠ 0x5EED0001 → exec (.islandReset v) s = .next s)) ∧
  (∀ (s : State), s.hub.islUp = false → exec .resetSequenceComplete s = .next s.islandUp ∧ s.islandUp.hub.islUp = true ∧
    ∀ l ∈ s.islandUp.hub.links, l.st = if l.down then 0 else 1)

/-- While the hub takes host transactions, a MGMT_RESET command with its key starts a reset sequence of its domain, waits behind
the one that runs, or is ignored; its endpoints drain, then reset, when what the dies hold is lost; a sequence that completes
brings its endpoints up and starts the command that waits; DMAP is taken only while no job is open and only where it is one
to one; a mapped die that is up and fails starts a sparing sequence, or waits for the one that runs; a spare that passes its
test takes the failed die's logical number and cached translations are dropped, and one that does not leaves SPARE; step 6
waits behind the reset that runs, and a die that is still mapped is DOWN after it; power-on starts from the state of reset,
with tmr at zero, the stored images kept and memory as reset leaves it (what GDDR then reads is the model's choice, log 3).
Where the manual leaves a point open it follows the model's own choices, logs 3, 11, 52, 53, 54, 57, 65, 80 and 86. (R361, R362, R363, R367, R368, R379, R382) -/
def Obligations.ResetAndSparingEvents : Prop :=
  let command (i : Word → Instr) (dom : Nat) : Prop := ∀ (s : State) v, s.hostTakes = true → bits v.toNat 63 32 = 0x5EED0002 → bits v.toNat 31 10 = 0 → bits v.toNat 7 0 = dom →
    (s.hub.rst.busy = false → exec (i v) s = .next (s.startReset dom (bits v.toNat 9 8) false)) ∧
    (s.hub.rst.busy = true → s.hub.rst.queued = none → exec (i v) s = .next (s.modHub fun h =>
      { h with rst := { h.rst with queued := some (dom, bits v.toNat 9 8) } })) ∧
    (s.hub.rst.busy = true → s.hub.rst.queued.isSome = true → exec (i v) s = .next s)
  command .mgmtResetComputeDie 0 ∧ command .mgmtResetBaseDie 1 ∧ command .mgmtResetHub 2 ∧
  (∀ (s : State) v, s.hostTakes = false ∨ bits v.toNat 63 32 ≠ 0x5EED0002 → exec (.mgmtResetComputeDie v) s = .next s ∧ exec (.mgmtResetBaseDie v) s = .next s ∧
    exec (.mgmtResetHub v) s = .next s) ∧
  (∀ (s : State) die, s.hub.rst.busy = false → die < 4 → s.hub.ep.length = 10 → s.hub.ep.getD die 0 ≠ 3 →
    let t := s.startReset 0 die false
    t.hub.rst.busy = true ∧ t.hub.rst.drain = true ∧ t.hub.rst.die = die ∧ t.hub.ep.getD die 0 = 3 ∧ t.units = s.units ∧ t.threads = s.threads ∧ t.mem = s.mem) ∧
  (∀ (s : State), s.hub.islUp = true → s.hub.rst.busy = true → s.hub.rst.drain = true →
    exec .resetSequenceComplete s = .next s.resetProper ∧ s.resetProper.hub.rst.drain = false ∧
    (s.hub.rst.dom = 0 → s.hub.rst.die < s.hub.ep.length → s.resetProper.hub.ep.getD s.hub.rst.die 0 = 1 ∧
      (∀ x ∈ s.resetProper.tags, x.2.1 / 64 ≠ s.hub.rst.die) ∧
      ∀ c ∈ s.resetProper.cores, c.1 / 64 = s.hub.rst.die → c.2.pend = [] ∧ c.2.chans.flatten = [] ∧ c.2.jobs = [])) ∧
  (∀ (s : State), s.hub.islUp = true → s.hub.rst.busy = true → s.hub.rst.drain = false → s.hub.rst.dom = 0 → s.hub.rst.spare = false → s.isSpare s.hub.rst.die = false →
    s.hub.rst.die < s.hub.ep.length → s.hub.rst.spareQ = [] → s.hub.rst.queued = none →
    ∃ t, exec .resetSequenceComplete s = .next t ∧ t.hub.ep.getD s.hub.rst.die 0 = 2 ∧ t.hub.rst.busy = false ∧ t.hub.rst.ldie = s.hub.rst.die ∧
      t.hub.rst.ldom = 0 ∧ t.mem = s.mem) ∧
  (∀ (s : State), s.hub.islUp = true → s.hub.rst.busy = true → s.hub.rst.drain = false → s.hub.rst.dom = 2 → exec .resetSequenceComplete s = .next s.hubReset.nextReset) ∧
  (∀ (s : State) v,
    (s.hostTakes = true → s.hub.jobs = [] → dmapOk (v.toNat % 2 ^ 20) = true → ∃ t, exec (.dmapWrite v) s = .next t ∧ t.hub.dmap = Word.ofN (v.toNat % 2 ^ 20) ∧ t.mem = s.mem) ∧
    ((s.hostTakes = false ∨ s.hub.jobs ≠ [] ∨ dmapOk (v.toNat % 2 ^ 20) = false) → exec (.dmapWrite v) s = .next s)) ∧
  (∀ (s : State) p, p ≤ 3 → s.hub.ep.getD p 0 = 2 → (s.logOf p).isSome = true →
    (s.hub.spar.testing = none → exec (.dieHeartbeatMiss p) s = .next (s.startSparing p 1) ∧ exec (.dieInternalError p) s = .next (s.startSparing p 2)) ∧
    (s.hub.spar.testing.isSome = true → (∀ w ∈ s.hub.spar.waiting, w.1 ≠ p) →
      ∃ t, exec (.dieHeartbeatMiss p) s = .next t ∧ t.hub.spar.waiting = s.hub.spar.waiting ++ [(p, 1)] ∧ t.mem = s.mem)) ∧
  (∀ (s : State) k, s.hub.spar.testing = some k → k < s.hub.ep.length →
    (∃ s1 : State, exec (.spareSelfTestDone true) s = .next ((s1.sparingStep5 s.hub.spar.failed (some k)).nextSparing) ∧ s1.tlb = [] ∧
      s1.hub.dmap = dmapField (dmapUnspare s.hub.dmap k) s.hub.spar.ldie k ∧ s1.hub.ep.getD k 0 = 2 ∧ s1.hub.spar.step = 4 ∧ s1.mem = s.mem) ∧
    (∃ s1 : State, exec (.spareSelfTestDone false) s = .next ((s1.sparingStep3 s.hub.spar.failed).nextSparing) ∧
      s1.hub.dmap = dmapUnspare s.hub.dmap k ∧ s1.hub.ep.getD k 0 = 0 ∧ s1.mem = s.mem)) ∧
  (∀ (s : State) p k, s.hub.rst.busy = true → (s.sparingStep5 p k).hub.rst.spareQ = s.hub.rst.spareQ ++ [p]) ∧
  (∀ (s : State), s.hub.islUp = true → s.hub.rst.busy = true → s.hub.rst.drain = false → s.hub.rst.dom = 0 → s.hub.rst.spare = true →
    (s.logOf s.hub.rst.die).isSome = true → s.hub.rst.die < s.hub.ep.length → s.hub.rst.spareQ = [] → s.hub.rst.queued = none →
    ∃ t, exec .resetSequenceComplete s = .next t ∧ t.hub.ep.getD s.hub.rst.die 0 = 0 ∧ t.hub.dmap = s.hub.dmap ∧ t.hub.rst.busy = false ∧ t.mem = s.mem) ∧
  (∀ (s : State), ∃ t, exec .powerOnReset s = .next t ∧ t.mem = {} ∧ t.threads = [] ∧ t.units = [] ∧ t.cores = [] ∧ t.hub.tmr = 0 ∧ t.hub.jobs = [] ∧
    t.hub.images = s.hub.images)

/-- A write of PWR_CL with STEP = 3 is ignored; one that keeps the ratio changes the step at once, any other stops issue until
RATIO_CHANGE_COMPLETE puts it in force, and one that would gate a cluster in use starts no change; the power limit lowers the
frequency by its step, never above the request; droops and holds begin and end; TMR_ALIGN steps tmr forward; a monitor that
is enabled takes a sample into MIN, MAX and CNT, 1 for each corrected soft error and the duration of each hold or stretch
when it ends, and CLR sets them to all ones and zero; the logs clear. Where the manual leaves a point open it follows the
model's own choices, logs 55, 56, 62, 85 and 86. (R79, R374, R376, R377, R378, R379, R380, R385) -/
def Obligations.PowerAndMonitorEvents : Prop :=
  (∀ (s : State) n v, (bits v.toNat 3 2 = 3 → exec (.pwrClWrite n v) s = .next s) ∧
    ∀ k, s.hostTakes = true → s.clusterOf n = some k → bits v.toNat 3 2 ≠ 3 →
      let c := s.cluster k
      ∃ t, exec (.pwrClWrite n v) s = .next t ∧ (t.cluster k).step = bits v.toNat 3 2 ∧ (t.cluster k).rat = bits v.toNat 1 0 ∧ t.mem = s.mem ∧
        (bits v.toNat 1 0 = c.crat → c.changing = false → (t.cluster k).cstep = bits v.toNat 3 2 ∧ (t.cluster k).changing = false) ∧
        (bits v.toNat 1 0 ≠ c.crat → (bits v.toNat 1 0 ≠ 3 ∨ s.clusterUsed k = false) → (t.cluster k).changing = true ∧ (t.cluster k).goal = bits v.toNat 1 0 ∧ (t.cluster k).crat = c.crat) ∧
        (bits v.toNat 1 0 = 3 → c.crat ≠ 3 → s.clusterUsed k = true → (t.cluster k).changing = c.changing ∧ (t.cluster k).goal = c.goal ∧ (t.cluster k).crat = c.crat)) ∧
  (∀ (s : State) n, n < 32 →
    let c := s.cluster n
    let keeps (t : State) : Prop := t.mem = s.mem ∧ t.threads = s.threads ∧ t.units = s.units
    (c.changing = true → ∃ t, exec (.ratioChangeComplete n) s = .next t ∧ (t.cluster n).crat = (if c.goal = 3 ∧ s.clusterUsed n = true then c.crat else c.goal) ∧
      (t.cluster n).cstep = c.step ∧ (t.cluster n).changing = false ∧ keeps t) ∧
    (c.changing = false → c.rat = 3 → s.clusterUsed n = false → ∃ t, exec (.ratioChangeComplete n) s = .next t ∧ (t.cluster n).crat = 3 ∧ keeps t) ∧
    (∀ k, k ≤ 2 → c.step ≤ k → ∃ t, exec (.powerLimitStep n k) s = .next t ∧ (t.cluster n).cstep = k ∧ (t.cluster n).clk = c.clk ∧ keeps t) ∧
    (∀ k, k < c.step → exec (.powerLimitStep n k) s = .next s) ∧
    (∃ t, exec (.droopDetect n) s = .next t ∧ (t.cluster n).droop = true ∧ (c.droop = false → (t.cluster n).droopAt = s.hub.tmr) ∧ (t.cluster n).clk = c.clk ∧ keeps t) ∧
    (∃ t, exec (.droopRecover n) s = .next t ∧ (t.cluster n).droop = false ∧ (t.cluster n).clk = c.clk ∧ keeps t ∧ ∀ i m, AMap.get? s.hub.monitors i = some m →
      AMap.get? t.hub.monitors i = some (if c.droop = true ∧ m.src.toNat = 7 ∧ m.sel.toNat = n then m.take (s.hub.tmr - c.droopAt) else m)) ∧
    (c.hold = false → c.holdFree ≤ s.hub.tmr → ∃ t, exec (.holdStart n) s = .next t ∧ (t.cluster n).hold = true ∧
      (t.cluster n).holdEnd = s.hub.tmr + 2000 ∧ keeps t) ∧
    ((c.hold = true ∨ s.hub.tmr < c.holdFree) → exec (.holdStart n) s = .next s) ∧
    (c.hold = true → ∃ t, exec (.holdEnd n) s = .next t ∧ (t.cluster n).hold = false ∧
      (t.cluster n).holdFree = min s.hub.tmr c.holdEnd + 2000 ∧ keeps t ∧ ∀ i m, AMap.get? s.hub.monitors i = some m →
      AMap.get? t.hub.monitors i = some (if m.src.toNat = 6 ∧ m.sel.toNat = n then m.take (min s.hub.tmr c.holdEnd + 2000 - c.holdEnd) else m))) ∧
  (∀ (s : State) k, ((s.hub.joined = false ∨ k ≤ 100) → ∃ t, exec (.tmrAlign k) s = .next t ∧ t.hub.tmr = s.hub.tmr + k ∧ t.mem = s.mem ∧
      (s.hub.joined = false → t.hub.joined = true)) ∧ (s.hub.joined = true → 100 < k → exec (.tmrAlign k) s = .next s)) ∧
  (∀ (s : State) n x, n < 64 →
    let m := AMap.get s.hub.monitors n {}
    let now (t : State) : Monitor := AMap.get t.hub.monitors n {}
    let x' := if m.src.toNat = 5 then 1 else x
    (m.cfg.getLsbD 63 = true → m.src.toNat < 6 → ∃ t, exec (.monitorSample n x) s = .next t ∧ (now t).cnt = m.cnt + 1 ∧
      (now t).min.toNat = Nat.min m.min.toNat (x' % 2 ^ 64) ∧ (now t).max.toNat = Nat.max m.max.toNat (x' % 2 ^ 64) ∧ (now t).cfg = m.cfg ∧ t.mem = s.mem) ∧
    (6 ≤ m.src.toNat → exec (.monitorSample n x) s = .next s) ∧ (m.cfg.getLsbD 63 = false → m.take x = m) ∧ (7 < m.src.toNat → m.take x = m) ∧
    (s.hostTakes = true → ∃ t, exec (.monitorClr n) s = .next t ∧ (now t).min = BitVec.allOnes 64 ∧ (now t).max = 0 ∧ (now t).cnt = 0 ∧ (now t).bin = List.replicate 32 0 ∧
      (now t).cfg = m.cfg ∧ (now t).src = m.src ∧ (now t).sel = m.sel ∧ t.mem = s.mem)) ∧
  (∀ (s : State) ck, s.hostTakes = true → ck < 256 → ∃ t, exec (.errorLogClear ck) s = .next t ∧ (t.core ck).log = [] ∧ (t.core ck).lost = 0 ∧
    (t.core ck).pend = (s.core ck).pend ∧ t.mem = s.mem) ∧
  (∀ (s : State), s.hostTakes = true → ∃ t, exec .managementLogClear s = .next t ∧ t.hub.mlog = [] ∧ t.hub.mlost = 0 ∧ t.mem = s.mem)

/-- While the hub takes host transactions, a register that only holds a value takes a write of 4 or 8 bytes and reads back so,
FQ_TAIL and ROUTE entries take one as their own steps do, and an unassigned offset reads 0; an access of another size or
alignment logs an unsupported request; APER_BASE takes an aligned value, and BAR2 a power of two from 1 GiB to 256 GiB; a
command code starts a command unless one runs, and its completion gives its result, its reply and its tag: the attestation
report, the measurement registers, a kept chunk of an image, or the result for a code that no command has; in recovery only
LOAD_IMAGE and its request buffer are taken. Where the manual leaves a point open it follows the model's own choices, logs 8,
51, 53, 57, 58 and 86. (R71, R316, R372, R373, R374, R382, R383, R384) -/
def Obligations.HostRegisterEvents : Prop :=
  (∀ (s : State) off, ∃ t, exec (.bar0BadAccess off) s = .next t ∧ t.hub.unsupported = s.hub.unsupported + 1 ∧ t.mem = s.mem ∧ t.threads = s.threads) ∧
  (∀ (s : State) off n v, (s.hubDown = false → (s.recovery = false ∨ 0x40100 ≤ off ∧ off < 0x44100) → (n = 4 ∨ n = 8) → off % n = 0 →
      off / 8 * 8 ≠ 0x2038 → (off < 0x14000 ∨ 0x1C000 ≤ off) →
      exec (.registerWrite off n v) s = .next (s.modHub fun h => h.putRegister off n v)) ∧
    ((s.hubDown = true ∨ s.recovery = true ∧ (off < 0x40100 ∨ 0x44100 ≤ off)) → (n = 4 ∨ n = 8) → off % n = 0 → exec (.registerWrite off n v) s = .next s) ∧
    (s.hostTakes = true → (n = 4 ∨ n = 8) → off % n = 0 → off / 8 * 8 = 0x2038 →
      exec (.registerWrite off n v) s = exec (.fqTailWrite (putHalf (Word.ofN s.hub.fqTail) v off n)) s) ∧
    (∀ m, s.hostTakes = true → m < 8192 → exec (.registerWrite (0x14000 + 4 * m) 4 v) s = exec (.routeWrite m (Word.ofN (bits v.toNat 31 0))) s) ∧
    ((n ≠ 4 ∧ n ≠ 8 ∨ off % n ≠ 0) → exec (.registerWrite off n v) s = exec (.bar0BadAccess off) s)) ∧
  (∀ (h : Hub) v, (h.putRegister 0x2000 8 v).xinvAsn = v ∧ (h.putRegister 0x2008 8 v).xinvVa = v ∧ (h.putRegister 0x2010 8 v).xinvLen = v ∧
    (h.putRegister 0x2048 8 v).fqLimit = v ∧ (h.putRegister 8 8 v).pkgid = v.toNat % 8192 ∧
    (v.toNat % h.bar2 = 0 → (h.putRegister 0x10 8 v).aperBase = v) ∧ (v.toNat % h.bar2 ≠ 0 → h.putRegister 0x10 8 v = h) ∧
    ((h.putRegister 0x2008 4 v).putRegister 0x200C 4 (v >>> 32)).xinvVa = v ∧ h.putRegister 0x50000 8 v = h) ∧
  (∀ (h : Hub) n v, n < 16 → n < h.chains.length →
    (h.putRegister (0x3000 + 64 * n) 8 v).chains.getD n {} = { h.chains.getD n {} with base := v } ∧
    (h.putRegister (0x3000 + 64 * n + 8) 8 v).chains.getD n {} = { h.chains.getD n {} with size := v } ∧
    (h.putRegister (0x3000 + 64 * n + 0x20) 8 v).chains.getD n {} = { h.chains.getD n {} with prog := v }) ∧
  (∀ (s : State) v, let put (off : Nat) : State := s.modHub fun h => h.putRegister off 8 v
    (put 0x2000).readRegister 0x2000 = v ∧ (put 0x2008).readRegister 0x2008 = v ∧ (put 0x2010).readRegister 0x2010 = v ∧
    (put 0x2048).readRegister 0x2048 = v ∧ s.readRegister 0x2030 = Word.ofN s.hub.fqHead ∧ s.readRegister 0x2038 = Word.ofN s.hub.fqTail ∧
    s.readRegister 0x10 = s.hub.aperBase ∧ s.readRegister 0x20000 = s.hub.dmap ∧ s.readRegister 0x50000 = 0) ∧
  (∀ (s : State) v, (s.hostTakes = true → v.toNat % s.hub.bar2 = 0 → ∃ t, exec (.aperBaseWrite v) s = .next t ∧ t.hub.aperBase = v ∧ t.mem = s.mem) ∧
    (s.hostTakes = false ∨ v.toNat % s.hub.bar2 ≠ 0 → exec (.aperBaseWrite v) s = .next s)) ∧
  (∀ (s : State) z, ((∃ k, 30 ≤ k ∧ k ≤ 38 ∧ z = 2 ^ k) → ∃ t, exec (.bar2Resize z) s = .next t ∧ t.hub.bar2 = z ∧ t.hub.aperBase = s.hub.aperBase) ∧
    ((∀ k, 30 ≤ k → k ≤ 38 → z ≠ 2 ^ k) → exec (.bar2Resize z) s = .next s)) ∧
  (∀ (s : State) n tag,
    let starts (i : Instr) (code len : Nat) : Prop := (s.hub.mb.busy = true ∨ s.hubDown = true → exec i s = .next s) ∧
      (s.hubDown = false → s.hub.mb.busy = false → ∃ t, exec i s = .next t ∧ t.hub.mb.busy = true ∧ t.hub.mb.code = code ∧ t.hub.mb.len = len % 65536 ∧
        t.hub.mb.tag = tag % 2 ^ 32 ∧ t.hub.mb.req = s.hub.mb.req ∧ t.mem = s.mem)
    starts (.attest n tag) 1 n ∧ starts (.loadImage n tag) 2 n ∧ starts (.readMeas n tag) 3 n ∧
    ((n % 65536 = 0 ∨ 3 < n % 65536) → starts (.unknownCommandCode n tag) (n % 65536) 0)) ∧
  (∀ (s : State), s.hubDown = true → exec .mailboxCompletion s = .next s) ∧
  (∀ (s : State), s.hubDown = false → s.hub.mb.busy = true → ∃ t, exec .mailboxCompletion s = .next t ∧ t.hub.mb.busy = false ∧ t.hub.mb.result = s.mbRun.res ∧
    t.hub.mb.reply = s.mbRun.reply ∧ t.hub.mb.rlen = s.mbRun.reply.length ∧ t.hub.mb.rtag = s.hub.mb.tag ∧ t.mem = s.mem) ∧
  (∀ (s : State), let m := s.hub.mb
    (s.recovery = true → m.code ≠ 2 → s.mbRun.res = 4 ∧ s.mbRun.reply = []) ∧
    (s.recovery = false → m.code = 1 → m.len = 32 → s.mbRun.res = 0 ∧ s.mbRun.reply = s.hub.report (m.reqBytes 0 32)) ∧
    (s.recovery = false → m.code = 1 → m.len ≠ 32 → s.mbRun.res = 2) ∧
    (s.recovery = false → m.code = 3 → m.len = 0 → s.mbRun.res = 0 ∧ s.mbRun.reply = s.hub.measBytes) ∧
    (s.recovery = false → m.code = 0 ∨ 3 < m.code → s.mbRun.res = 1) ∧
    (m.code = 2 → s.recovery = false → s.hub.jobs ≠ [] → s.mbRun.res = 4) ∧
    (∀ stage off, m.code = 2 → s.hub.jobs = [] → 8 ≤ m.len → m.len ≤ 16384 → 0 < stage → stage ≤ 3 → off + (m.len - 8) ≤ 2 ^ 23 →
      m.reqBytes 0 8 = leBytes 1 stage ++ [0, 0, 0] ++ leBytes 4 off → s.mbRun.res = 0 ∧ s.mbRun.reply = [] ∧ s.mbRun.st.hub.mb.stage = stage ∧
        s.mbRun.st.hub.mb.part = (if m.stage = stage then m.part else []) ++ [(off, m.reqBytes 8 (m.len - 8))]))
end

