-- ==== Sys2Proof/Laws/Maps.lean ====
section
/-! SUPPORT. Maps: what a property of every value becomes under the operations of a map, and what a read gives after a write. -/

namespace Sys2Proof

theorem AMap.All.set {β : Type} {P : β → Prop} : ∀ {m : AMap β} (k : Nat) {v : β}, AMap.All P m → P v → AMap.All P (AMap.set m k v)
  | [], k, v, _, hv => by intro p hp; simp [AMap.set] at hp; subst hp; exact hv
  | (j, w) :: rest, k, v, h, hv => by
    have ih := AMap.All.set (m := rest) k (fun p hp => h p (List.mem_cons_of_mem _ hp)) hv
    intro p hp
    unfold AMap.set at hp
    split at hp
    · rcases List.mem_cons.1 hp with rfl | hp
      · exact hv
      · exact h p (List.mem_cons_of_mem _ hp)
    · rcases List.mem_cons.1 hp with rfl | hp
      · exact h _ (List.mem_cons_self)
      · exact ih p hp

theorem AMap.All.get? {β : Type} {P : β → Prop} : ∀ {m : AMap β} {k : Nat} {v : β}, AMap.All P m → AMap.get? m k = some v → P v
  | [], k, v, _, h => by simp [AMap.get?] at h
  | (j, w) :: rest, k, v, h, hg => by
    unfold AMap.get? at hg
    split at hg
    · cases hg; exact h _ (List.mem_cons_self)
    · exact AMap.All.get? (m := rest) (fun p hp => h p (List.mem_cons_of_mem _ hp)) hg

theorem AMap.All.del {β : Type} {P : β → Prop} : ∀ {m : AMap β} (k : Nat), AMap.All P m → AMap.All P (AMap.del m k)
  | [], k, _ => by intro p hp; simp [AMap.del] at hp
  | (j, w) :: rest, k, h => by
    have ih := AMap.All.del (m := rest) k (fun p hp => h p (List.mem_cons_of_mem _ hp))
    unfold AMap.del
    split
    · exact ih
    · intro p hp
      rcases List.mem_cons.1 hp with rfl | hp
      · exact h _ (List.mem_cons_self)
      · exact ih p hp

theorem AMap.All.filter {β : Type} {P : β → Prop} {m : AMap β} (f : Nat × β → Bool) (h : AMap.All P m) : AMap.All P (m.filter f) :=
  fun p hp => h p ((List.mem_filter.1 hp).1)

theorem AMap.All.map {β : Type} {P : β → Prop} {m : AMap β} (f : Nat × β → Nat × β) (hf : ∀ p, P p.2 → P (f p).2)
    (h : AMap.All P m) : AMap.All P (m.map f) := by
  intro p hp
  obtain ⟨q, hq, rfl⟩ := List.mem_map.1 hp
  exact hf q (h q hq)

theorem AMap.All.append {β : Type} {P : β → Prop} {m n : AMap β} (h : AMap.All P m) (h' : AMap.All P n) : AMap.All P (m ++ n) := by
  intro p hp
  rcases List.mem_append.1 hp with hp | hp
  · exact h p hp
  · exact h' p hp

theorem AMap.All.nil {β : Type} {P : β → Prop} : AMap.All P ([] : AMap β) := by intro p hp; cases hp
theorem AMap.All.mem {β : Type} {P : β → Prop} {m : AMap β} {p : Nat × β} (h : AMap.All P m) (hp : p ∈ m) : P p.2 := h p hp


theorem AMap.get?_set_same {β : Type} (k : Nat) (v : β) : ∀ m : AMap β, AMap.get? (AMap.set m k v) k = some v
  | [] => by simp [AMap.set, AMap.get?]
  | (j, w) :: rest => by
    by_cases h : j = k
    · simp [AMap.set, AMap.get?, h]
    · simp [AMap.set, AMap.get?, h, AMap.get?_set_same k v rest]

theorem AMap.get?_set_ne {β : Type} {k j : Nat} (v : β) (hjk : j ≠ k) : ∀ m : AMap β, AMap.get? (AMap.set m k v) j = AMap.get? m j
  | [] => by simp [AMap.set, AMap.get?, Ne.symm hjk]
  | (i, w) :: rest => by
    by_cases h : i = k
    · subst h; simp [AMap.set, AMap.get?, Ne.symm hjk]
    · by_cases hj : i = j
      · subst hj; simp [AMap.set, AMap.get?, hjk]
      · simp [AMap.set, AMap.get?, h, hj, AMap.get?_set_ne v hjk rest]

/-- A second put under the same key replaces the first. -/
theorem AMap.set_set {β : Type} (k : Nat) (v w : β) : ∀ m : AMap β, AMap.set (AMap.set m k v) k w = AMap.set m k w
  | [] => by simp [AMap.set]
  | (j, x) :: rest => by
    by_cases h : j = k
    · simp [AMap.set, h]
    · simp [AMap.set, h, AMap.set_set k v w rest]

end Sys2Proof
end

