-- ==== Sys2Proof/Laws/State.lean ====
section
/-! SUPPORT. One lemma for each field and each named update of State and of Thread. -/

namespace Sys2Proof.Machine

/-! ## Updates of the state -/

@[simp] theorem State.setThread_cur (s : State) (tk : Nat) (t : Thread) : (s.setThread tk t).cur = s.cur := rfl
@[simp] theorem State.setThread_issueQ (s : State) (tk : Nat) (t : Thread) : (s.setThread tk t).issueQ = s.issueQ := rfl
@[simp] theorem State.setThread_sched (s : State) (tk : Nat) (t : Thread) : (s.setThread tk t).sched = s.sched := rfl
@[simp] theorem State.setThread_turn (s : State) (tk : Nat) (t : Thread) : (s.setThread tk t).turn = s.turn := rfl
@[simp] theorem State.setThread_fresh (s : State) (tk : Nat) (t : Thread) : (s.setThread tk t).fresh = s.fresh := rfl
@[simp] theorem State.setThread_seq (s : State) (tk : Nat) (t : Thread) : (s.setThread tk t).seq = s.seq := rfl
@[simp] theorem State.setThread_units (s : State) (tk : Nat) (t : Thread) : (s.setThread tk t).units = s.units := rfl
@[simp] theorem State.setThread_cores (s : State) (tk : Nat) (t : Thread) : (s.setThread tk t).cores = s.cores := rfl
@[simp] theorem State.setThread_clusters (s : State) (tk : Nat) (t : Thread) : (s.setThread tk t).clusters = s.clusters := rfl
@[simp] theorem State.setThread_mem (s : State) (tk : Nat) (t : Thread) : (s.setThread tk t).mem = s.mem := rfl
@[simp] theorem State.setThread_bad (s : State) (tk : Nat) (t : Thread) : (s.setThread tk t).bad = s.bad := rfl
@[simp] theorem State.setThread_far (s : State) (tk : Nat) (t : Thread) : (s.setThread tk t).far = s.far := rfl
@[simp] theorem State.setThread_tags (s : State) (tk : Nat) (t : Thread) : (s.setThread tk t).tags = s.tags := rfl
@[simp] theorem State.setThread_tlb (s : State) (tk : Nat) (t : Thread) : (s.setThread tk t).tlb = s.tlb := rfl
@[simp] theorem State.setThread_slice (s : State) (tk : Nat) (t : Thread) : (s.setThread tk t).slice = s.slice := rfl
@[simp] theorem State.setThread_offw (s : State) (tk : Nat) (t : Thread) : (s.setThread tk t).offw = s.offw := rfl
@[simp] theorem State.setThread_hub (s : State) (tk : Nat) (t : Thread) : (s.setThread tk t).hub = s.hub := rfl
@[simp] theorem State.setUnit_cur (s : State) (k : Nat) (u : TUnit) : (s.setUnit k u).cur = s.cur := rfl
@[simp] theorem State.setUnit_issueQ (s : State) (k : Nat) (u : TUnit) : (s.setUnit k u).issueQ = s.issueQ := rfl
@[simp] theorem State.setUnit_sched (s : State) (k : Nat) (u : TUnit) : (s.setUnit k u).sched = s.sched := rfl
@[simp] theorem State.setUnit_turn (s : State) (k : Nat) (u : TUnit) : (s.setUnit k u).turn = s.turn := rfl
@[simp] theorem State.setUnit_fresh (s : State) (k : Nat) (u : TUnit) : (s.setUnit k u).fresh = s.fresh := rfl
@[simp] theorem State.setUnit_seq (s : State) (k : Nat) (u : TUnit) : (s.setUnit k u).seq = s.seq := rfl
@[simp] theorem State.setUnit_threads (s : State) (k : Nat) (u : TUnit) : (s.setUnit k u).threads = s.threads := rfl
@[simp] theorem State.setUnit_cores (s : State) (k : Nat) (u : TUnit) : (s.setUnit k u).cores = s.cores := rfl
@[simp] theorem State.setUnit_clusters (s : State) (k : Nat) (u : TUnit) : (s.setUnit k u).clusters = s.clusters := rfl
@[simp] theorem State.setUnit_mem (s : State) (k : Nat) (u : TUnit) : (s.setUnit k u).mem = s.mem := rfl
@[simp] theorem State.setUnit_bad (s : State) (k : Nat) (u : TUnit) : (s.setUnit k u).bad = s.bad := rfl
@[simp] theorem State.setUnit_far (s : State) (k : Nat) (u : TUnit) : (s.setUnit k u).far = s.far := rfl
@[simp] theorem State.setUnit_tags (s : State) (k : Nat) (u : TUnit) : (s.setUnit k u).tags = s.tags := rfl
@[simp] theorem State.setUnit_tlb (s : State) (k : Nat) (u : TUnit) : (s.setUnit k u).tlb = s.tlb := rfl
@[simp] theorem State.setUnit_slice (s : State) (k : Nat) (u : TUnit) : (s.setUnit k u).slice = s.slice := rfl
@[simp] theorem State.setUnit_offw (s : State) (k : Nat) (u : TUnit) : (s.setUnit k u).offw = s.offw := rfl
@[simp] theorem State.setUnit_hub (s : State) (k : Nat) (u : TUnit) : (s.setUnit k u).hub = s.hub := rfl
@[simp] theorem State.setCore_cur (s : State) (k : Nat) (c : Core) : (s.setCore k c).cur = s.cur := rfl
@[simp] theorem State.setCore_issueQ (s : State) (k : Nat) (c : Core) : (s.setCore k c).issueQ = s.issueQ := rfl
@[simp] theorem State.setCore_sched (s : State) (k : Nat) (c : Core) : (s.setCore k c).sched = s.sched := rfl
@[simp] theorem State.setCore_turn (s : State) (k : Nat) (c : Core) : (s.setCore k c).turn = s.turn := rfl
@[simp] theorem State.setCore_fresh (s : State) (k : Nat) (c : Core) : (s.setCore k c).fresh = s.fresh := rfl
@[simp] theorem State.setCore_seq (s : State) (k : Nat) (c : Core) : (s.setCore k c).seq = s.seq := rfl
@[simp] theorem State.setCore_threads (s : State) (k : Nat) (c : Core) : (s.setCore k c).threads = s.threads := rfl
@[simp] theorem State.setCore_units (s : State) (k : Nat) (c : Core) : (s.setCore k c).units = s.units := rfl
@[simp] theorem State.setCore_clusters (s : State) (k : Nat) (c : Core) : (s.setCore k c).clusters = s.clusters := rfl
@[simp] theorem State.setCore_mem (s : State) (k : Nat) (c : Core) : (s.setCore k c).mem = s.mem := rfl
@[simp] theorem State.setCore_bad (s : State) (k : Nat) (c : Core) : (s.setCore k c).bad = s.bad := rfl
@[simp] theorem State.setCore_far (s : State) (k : Nat) (c : Core) : (s.setCore k c).far = s.far := rfl
@[simp] theorem State.setCore_tags (s : State) (k : Nat) (c : Core) : (s.setCore k c).tags = s.tags := rfl
@[simp] theorem State.setCore_tlb (s : State) (k : Nat) (c : Core) : (s.setCore k c).tlb = s.tlb := rfl
@[simp] theorem State.setCore_slice (s : State) (k : Nat) (c : Core) : (s.setCore k c).slice = s.slice := rfl
@[simp] theorem State.setCore_offw (s : State) (k : Nat) (c : Core) : (s.setCore k c).offw = s.offw := rfl
@[simp] theorem State.setCore_hub (s : State) (k : Nat) (c : Core) : (s.setCore k c).hub = s.hub := rfl
@[simp] theorem State.modCore_cur (s : State) (k : Nat) (f : Core → Core) : (s.modCore k f).cur = s.cur := rfl
@[simp] theorem State.modCore_issueQ (s : State) (k : Nat) (f : Core → Core) : (s.modCore k f).issueQ = s.issueQ := rfl
@[simp] theorem State.modCore_sched (s : State) (k : Nat) (f : Core → Core) : (s.modCore k f).sched = s.sched := rfl
@[simp] theorem State.modCore_turn (s : State) (k : Nat) (f : Core → Core) : (s.modCore k f).turn = s.turn := rfl
@[simp] theorem State.modCore_fresh (s : State) (k : Nat) (f : Core → Core) : (s.modCore k f).fresh = s.fresh := rfl
@[simp] theorem State.modCore_seq (s : State) (k : Nat) (f : Core → Core) : (s.modCore k f).seq = s.seq := rfl
@[simp] theorem State.modCore_threads (s : State) (k : Nat) (f : Core → Core) : (s.modCore k f).threads = s.threads := rfl
@[simp] theorem State.modCore_units (s : State) (k : Nat) (f : Core → Core) : (s.modCore k f).units = s.units := rfl
@[simp] theorem State.modCore_clusters (s : State) (k : Nat) (f : Core → Core) : (s.modCore k f).clusters = s.clusters := rfl
@[simp] theorem State.modCore_mem (s : State) (k : Nat) (f : Core → Core) : (s.modCore k f).mem = s.mem := rfl
@[simp] theorem State.modCore_bad (s : State) (k : Nat) (f : Core → Core) : (s.modCore k f).bad = s.bad := rfl
@[simp] theorem State.modCore_far (s : State) (k : Nat) (f : Core → Core) : (s.modCore k f).far = s.far := rfl
@[simp] theorem State.modCore_tags (s : State) (k : Nat) (f : Core → Core) : (s.modCore k f).tags = s.tags := rfl
@[simp] theorem State.modCore_tlb (s : State) (k : Nat) (f : Core → Core) : (s.modCore k f).tlb = s.tlb := rfl
@[simp] theorem State.modCore_slice (s : State) (k : Nat) (f : Core → Core) : (s.modCore k f).slice = s.slice := rfl
@[simp] theorem State.modCore_offw (s : State) (k : Nat) (f : Core → Core) : (s.modCore k f).offw = s.offw := rfl
@[simp] theorem State.modCore_hub (s : State) (k : Nat) (f : Core → Core) : (s.modCore k f).hub = s.hub := rfl
@[simp] theorem State.modCluster_cur (s : State) (k : Nat) (f : Cluster → Cluster) : (s.modCluster k f).cur = s.cur := rfl
@[simp] theorem State.modCluster_issueQ (s : State) (k : Nat) (f : Cluster → Cluster) : (s.modCluster k f).issueQ = s.issueQ := rfl
@[simp] theorem State.modCluster_sched (s : State) (k : Nat) (f : Cluster → Cluster) : (s.modCluster k f).sched = s.sched := rfl
@[simp] theorem State.modCluster_turn (s : State) (k : Nat) (f : Cluster → Cluster) : (s.modCluster k f).turn = s.turn := rfl
@[simp] theorem State.modCluster_fresh (s : State) (k : Nat) (f : Cluster → Cluster) : (s.modCluster k f).fresh = s.fresh := rfl
@[simp] theorem State.modCluster_seq (s : State) (k : Nat) (f : Cluster → Cluster) : (s.modCluster k f).seq = s.seq := rfl
@[simp] theorem State.modCluster_threads (s : State) (k : Nat) (f : Cluster → Cluster) : (s.modCluster k f).threads = s.threads := rfl
@[simp] theorem State.modCluster_units (s : State) (k : Nat) (f : Cluster → Cluster) : (s.modCluster k f).units = s.units := rfl
@[simp] theorem State.modCluster_cores (s : State) (k : Nat) (f : Cluster → Cluster) : (s.modCluster k f).cores = s.cores := rfl
@[simp] theorem State.modCluster_mem (s : State) (k : Nat) (f : Cluster → Cluster) : (s.modCluster k f).mem = s.mem := rfl
@[simp] theorem State.modCluster_bad (s : State) (k : Nat) (f : Cluster → Cluster) : (s.modCluster k f).bad = s.bad := rfl
@[simp] theorem State.modCluster_far (s : State) (k : Nat) (f : Cluster → Cluster) : (s.modCluster k f).far = s.far := rfl
@[simp] theorem State.modCluster_tags (s : State) (k : Nat) (f : Cluster → Cluster) : (s.modCluster k f).tags = s.tags := rfl
@[simp] theorem State.modCluster_tlb (s : State) (k : Nat) (f : Cluster → Cluster) : (s.modCluster k f).tlb = s.tlb := rfl
@[simp] theorem State.modCluster_slice (s : State) (k : Nat) (f : Cluster → Cluster) : (s.modCluster k f).slice = s.slice := rfl
@[simp] theorem State.modCluster_offw (s : State) (k : Nat) (f : Cluster → Cluster) : (s.modCluster k f).offw = s.offw := rfl
@[simp] theorem State.modCluster_hub (s : State) (k : Nat) (f : Cluster → Cluster) : (s.modCluster k f).hub = s.hub := rfl
@[simp] theorem State.modHub_cur (s : State) (f : Hub → Hub) : (s.modHub f).cur = s.cur := rfl
@[simp] theorem State.modHub_issueQ (s : State) (f : Hub → Hub) : (s.modHub f).issueQ = s.issueQ := rfl
@[simp] theorem State.modHub_sched (s : State) (f : Hub → Hub) : (s.modHub f).sched = s.sched := rfl
@[simp] theorem State.modHub_turn (s : State) (f : Hub → Hub) : (s.modHub f).turn = s.turn := rfl
@[simp] theorem State.modHub_fresh (s : State) (f : Hub → Hub) : (s.modHub f).fresh = s.fresh := rfl
@[simp] theorem State.modHub_seq (s : State) (f : Hub → Hub) : (s.modHub f).seq = s.seq := rfl
@[simp] theorem State.modHub_threads (s : State) (f : Hub → Hub) : (s.modHub f).threads = s.threads := rfl
@[simp] theorem State.modHub_units (s : State) (f : Hub → Hub) : (s.modHub f).units = s.units := rfl
@[simp] theorem State.modHub_cores (s : State) (f : Hub → Hub) : (s.modHub f).cores = s.cores := rfl
@[simp] theorem State.modHub_clusters (s : State) (f : Hub → Hub) : (s.modHub f).clusters = s.clusters := rfl
@[simp] theorem State.modHub_mem (s : State) (f : Hub → Hub) : (s.modHub f).mem = s.mem := rfl
@[simp] theorem State.modHub_bad (s : State) (f : Hub → Hub) : (s.modHub f).bad = s.bad := rfl
@[simp] theorem State.modHub_far (s : State) (f : Hub → Hub) : (s.modHub f).far = s.far := rfl
@[simp] theorem State.modHub_tags (s : State) (f : Hub → Hub) : (s.modHub f).tags = s.tags := rfl
@[simp] theorem State.modHub_tlb (s : State) (f : Hub → Hub) : (s.modHub f).tlb = s.tlb := rfl
@[simp] theorem State.modHub_slice (s : State) (f : Hub → Hub) : (s.modHub f).slice = s.slice := rfl
@[simp] theorem State.modHub_offw (s : State) (f : Hub → Hub) : (s.modHub f).offw = s.offw := rfl
@[simp] theorem State.modHub_hub (s : State) (f : Hub → Hub) : (s.modHub f).hub = f s.hub := rfl
@[simp] theorem State.takeFresh_cur (s : State) : (s.takeFresh.2).cur = s.cur := rfl
@[simp] theorem State.takeFresh_issueQ (s : State) : (s.takeFresh.2).issueQ = s.issueQ := rfl
@[simp] theorem State.takeFresh_sched (s : State) : (s.takeFresh.2).sched = s.sched := rfl
@[simp] theorem State.takeFresh_turn (s : State) : (s.takeFresh.2).turn = s.turn := rfl
@[simp] theorem State.takeFresh_seq (s : State) : (s.takeFresh.2).seq = s.seq := rfl
@[simp] theorem State.takeFresh_threads (s : State) : (s.takeFresh.2).threads = s.threads := rfl
@[simp] theorem State.takeFresh_units (s : State) : (s.takeFresh.2).units = s.units := rfl
@[simp] theorem State.takeFresh_cores (s : State) : (s.takeFresh.2).cores = s.cores := rfl
@[simp] theorem State.takeFresh_clusters (s : State) : (s.takeFresh.2).clusters = s.clusters := rfl
@[simp] theorem State.takeFresh_mem (s : State) : (s.takeFresh.2).mem = s.mem := rfl
@[simp] theorem State.takeFresh_bad (s : State) : (s.takeFresh.2).bad = s.bad := rfl
@[simp] theorem State.takeFresh_far (s : State) : (s.takeFresh.2).far = s.far := rfl
@[simp] theorem State.takeFresh_tags (s : State) : (s.takeFresh.2).tags = s.tags := rfl
@[simp] theorem State.takeFresh_tlb (s : State) : (s.takeFresh.2).tlb = s.tlb := rfl
@[simp] theorem State.takeFresh_slice (s : State) : (s.takeFresh.2).slice = s.slice := rfl
@[simp] theorem State.takeFresh_offw (s : State) : (s.takeFresh.2).offw = s.offw := rfl
@[simp] theorem State.takeFresh_hub (s : State) : (s.takeFresh.2).hub = s.hub := rfl
@[simp] theorem State.takeSeq_cur (s : State) : (s.takeSeq.2).cur = s.cur := rfl
@[simp] theorem State.takeSeq_issueQ (s : State) : (s.takeSeq.2).issueQ = s.issueQ := rfl
@[simp] theorem State.takeSeq_sched (s : State) : (s.takeSeq.2).sched = s.sched := rfl
@[simp] theorem State.takeSeq_turn (s : State) : (s.takeSeq.2).turn = s.turn := rfl
@[simp] theorem State.takeSeq_fresh (s : State) : (s.takeSeq.2).fresh = s.fresh := rfl
@[simp] theorem State.takeSeq_threads (s : State) : (s.takeSeq.2).threads = s.threads := rfl
@[simp] theorem State.takeSeq_units (s : State) : (s.takeSeq.2).units = s.units := rfl
@[simp] theorem State.takeSeq_cores (s : State) : (s.takeSeq.2).cores = s.cores := rfl
@[simp] theorem State.takeSeq_clusters (s : State) : (s.takeSeq.2).clusters = s.clusters := rfl
@[simp] theorem State.takeSeq_mem (s : State) : (s.takeSeq.2).mem = s.mem := rfl
@[simp] theorem State.takeSeq_bad (s : State) : (s.takeSeq.2).bad = s.bad := rfl
@[simp] theorem State.takeSeq_far (s : State) : (s.takeSeq.2).far = s.far := rfl
@[simp] theorem State.takeSeq_tags (s : State) : (s.takeSeq.2).tags = s.tags := rfl
@[simp] theorem State.takeSeq_tlb (s : State) : (s.takeSeq.2).tlb = s.tlb := rfl
@[simp] theorem State.takeSeq_slice (s : State) : (s.takeSeq.2).slice = s.slice := rfl
@[simp] theorem State.takeSeq_offw (s : State) : (s.takeSeq.2).offw = s.offw := rfl
@[simp] theorem State.takeSeq_hub (s : State) : (s.takeSeq.2).hub = s.hub := rfl
@[simp] theorem State.takeFresh_fst (s : State) : s.takeFresh.1 = s.fresh := rfl
@[simp] theorem State.takeFresh_fresh (s : State) : s.takeFresh.2.fresh = s.fresh + 1 := rfl
@[simp] theorem State.takeSeq_fst (s : State) : s.takeSeq.1 = s.seq := rfl
@[simp] theorem State.takeSeq_seq (s : State) : s.takeSeq.2.seq = s.seq + 1 := rfl
@[simp] theorem State.modThread_cur (s : State) (tk : Nat) (f : Thread → Thread) : (s.modThread tk f).cur = s.cur := by unfold State.modThread; split <;> rfl
@[simp] theorem State.modThread_issueQ (s : State) (tk : Nat) (f : Thread → Thread) : (s.modThread tk f).issueQ = s.issueQ := by unfold State.modThread; split <;> rfl
@[simp] theorem State.modThread_sched (s : State) (tk : Nat) (f : Thread → Thread) : (s.modThread tk f).sched = s.sched := by unfold State.modThread; split <;> rfl
@[simp] theorem State.modThread_turn (s : State) (tk : Nat) (f : Thread → Thread) : (s.modThread tk f).turn = s.turn := by unfold State.modThread; split <;> rfl
@[simp] theorem State.modThread_fresh (s : State) (tk : Nat) (f : Thread → Thread) : (s.modThread tk f).fresh = s.fresh := by unfold State.modThread; split <;> rfl
@[simp] theorem State.modThread_seq (s : State) (tk : Nat) (f : Thread → Thread) : (s.modThread tk f).seq = s.seq := by unfold State.modThread; split <;> rfl
@[simp] theorem State.modThread_units (s : State) (tk : Nat) (f : Thread → Thread) : (s.modThread tk f).units = s.units := by unfold State.modThread; split <;> rfl
@[simp] theorem State.modThread_cores (s : State) (tk : Nat) (f : Thread → Thread) : (s.modThread tk f).cores = s.cores := by unfold State.modThread; split <;> rfl
@[simp] theorem State.modThread_clusters (s : State) (tk : Nat) (f : Thread → Thread) : (s.modThread tk f).clusters = s.clusters := by unfold State.modThread; split <;> rfl
@[simp] theorem State.modThread_mem (s : State) (tk : Nat) (f : Thread → Thread) : (s.modThread tk f).mem = s.mem := by unfold State.modThread; split <;> rfl
@[simp] theorem State.modThread_bad (s : State) (tk : Nat) (f : Thread → Thread) : (s.modThread tk f).bad = s.bad := by unfold State.modThread; split <;> rfl
@[simp] theorem State.modThread_far (s : State) (tk : Nat) (f : Thread → Thread) : (s.modThread tk f).far = s.far := by unfold State.modThread; split <;> rfl
@[simp] theorem State.modThread_tags (s : State) (tk : Nat) (f : Thread → Thread) : (s.modThread tk f).tags = s.tags := by unfold State.modThread; split <;> rfl
@[simp] theorem State.modThread_tlb (s : State) (tk : Nat) (f : Thread → Thread) : (s.modThread tk f).tlb = s.tlb := by unfold State.modThread; split <;> rfl
@[simp] theorem State.modThread_slice (s : State) (tk : Nat) (f : Thread → Thread) : (s.modThread tk f).slice = s.slice := by unfold State.modThread; split <;> rfl
@[simp] theorem State.modThread_offw (s : State) (tk : Nat) (f : Thread → Thread) : (s.modThread tk f).offw = s.offw := by unfold State.modThread; split <;> rfl
@[simp] theorem State.modThread_hub (s : State) (tk : Nat) (f : Thread → Thread) : (s.modThread tk f).hub = s.hub := by unfold State.modThread; split <;> rfl
@[simp] theorem State.modUnit_cur (s : State) (k : Nat) (f : TUnit → TUnit) : (s.modUnit k f).cur = s.cur := by unfold State.modUnit; split <;> rfl
@[simp] theorem State.modUnit_issueQ (s : State) (k : Nat) (f : TUnit → TUnit) : (s.modUnit k f).issueQ = s.issueQ := by unfold State.modUnit; split <;> rfl
@[simp] theorem State.modUnit_sched (s : State) (k : Nat) (f : TUnit → TUnit) : (s.modUnit k f).sched = s.sched := by unfold State.modUnit; split <;> rfl
@[simp] theorem State.modUnit_turn (s : State) (k : Nat) (f : TUnit → TUnit) : (s.modUnit k f).turn = s.turn := by unfold State.modUnit; split <;> rfl
@[simp] theorem State.modUnit_fresh (s : State) (k : Nat) (f : TUnit → TUnit) : (s.modUnit k f).fresh = s.fresh := by unfold State.modUnit; split <;> rfl
@[simp] theorem State.modUnit_seq (s : State) (k : Nat) (f : TUnit → TUnit) : (s.modUnit k f).seq = s.seq := by unfold State.modUnit; split <;> rfl
@[simp] theorem State.modUnit_threads (s : State) (k : Nat) (f : TUnit → TUnit) : (s.modUnit k f).threads = s.threads := by unfold State.modUnit; split <;> rfl
@[simp] theorem State.modUnit_cores (s : State) (k : Nat) (f : TUnit → TUnit) : (s.modUnit k f).cores = s.cores := by unfold State.modUnit; split <;> rfl
@[simp] theorem State.modUnit_clusters (s : State) (k : Nat) (f : TUnit → TUnit) : (s.modUnit k f).clusters = s.clusters := by unfold State.modUnit; split <;> rfl
@[simp] theorem State.modUnit_mem (s : State) (k : Nat) (f : TUnit → TUnit) : (s.modUnit k f).mem = s.mem := by unfold State.modUnit; split <;> rfl
@[simp] theorem State.modUnit_bad (s : State) (k : Nat) (f : TUnit → TUnit) : (s.modUnit k f).bad = s.bad := by unfold State.modUnit; split <;> rfl
@[simp] theorem State.modUnit_far (s : State) (k : Nat) (f : TUnit → TUnit) : (s.modUnit k f).far = s.far := by unfold State.modUnit; split <;> rfl
@[simp] theorem State.modUnit_tags (s : State) (k : Nat) (f : TUnit → TUnit) : (s.modUnit k f).tags = s.tags := by unfold State.modUnit; split <;> rfl
@[simp] theorem State.modUnit_tlb (s : State) (k : Nat) (f : TUnit → TUnit) : (s.modUnit k f).tlb = s.tlb := by unfold State.modUnit; split <;> rfl
@[simp] theorem State.modUnit_slice (s : State) (k : Nat) (f : TUnit → TUnit) : (s.modUnit k f).slice = s.slice := by unfold State.modUnit; split <;> rfl
@[simp] theorem State.modUnit_offw (s : State) (k : Nat) (f : TUnit → TUnit) : (s.modUnit k f).offw = s.offw := by unfold State.modUnit; split <;> rfl
@[simp] theorem State.modUnit_hub (s : State) (k : Nat) (f : TUnit → TUnit) : (s.modUnit k f).hub = s.hub := by unfold State.modUnit; split <;> rfl
@[simp] theorem State.modLaunch_cur (s : State) (k : Nat) (f : Launch → Launch) : (s.modLaunch k f).cur = s.cur := by unfold State.modLaunch; split <;> rfl
@[simp] theorem State.modLaunch_issueQ (s : State) (k : Nat) (f : Launch → Launch) : (s.modLaunch k f).issueQ = s.issueQ := by unfold State.modLaunch; split <;> rfl
@[simp] theorem State.modLaunch_sched (s : State) (k : Nat) (f : Launch → Launch) : (s.modLaunch k f).sched = s.sched := by unfold State.modLaunch; split <;> rfl
@[simp] theorem State.modLaunch_turn (s : State) (k : Nat) (f : Launch → Launch) : (s.modLaunch k f).turn = s.turn := by unfold State.modLaunch; split <;> rfl
@[simp] theorem State.modLaunch_fresh (s : State) (k : Nat) (f : Launch → Launch) : (s.modLaunch k f).fresh = s.fresh := by unfold State.modLaunch; split <;> rfl
@[simp] theorem State.modLaunch_seq (s : State) (k : Nat) (f : Launch → Launch) : (s.modLaunch k f).seq = s.seq := by unfold State.modLaunch; split <;> rfl
@[simp] theorem State.modLaunch_threads (s : State) (k : Nat) (f : Launch → Launch) : (s.modLaunch k f).threads = s.threads := by unfold State.modLaunch; split <;> rfl
@[simp] theorem State.modLaunch_units (s : State) (k : Nat) (f : Launch → Launch) : (s.modLaunch k f).units = s.units := by unfold State.modLaunch; split <;> rfl
@[simp] theorem State.modLaunch_cores (s : State) (k : Nat) (f : Launch → Launch) : (s.modLaunch k f).cores = s.cores := by unfold State.modLaunch; split <;> rfl
@[simp] theorem State.modLaunch_clusters (s : State) (k : Nat) (f : Launch → Launch) : (s.modLaunch k f).clusters = s.clusters := by unfold State.modLaunch; split <;> rfl
@[simp] theorem State.modLaunch_mem (s : State) (k : Nat) (f : Launch → Launch) : (s.modLaunch k f).mem = s.mem := by unfold State.modLaunch; split <;> rfl
@[simp] theorem State.modLaunch_bad (s : State) (k : Nat) (f : Launch → Launch) : (s.modLaunch k f).bad = s.bad := by unfold State.modLaunch; split <;> rfl
@[simp] theorem State.modLaunch_far (s : State) (k : Nat) (f : Launch → Launch) : (s.modLaunch k f).far = s.far := by unfold State.modLaunch; split <;> rfl
@[simp] theorem State.modLaunch_tags (s : State) (k : Nat) (f : Launch → Launch) : (s.modLaunch k f).tags = s.tags := by unfold State.modLaunch; split <;> rfl
@[simp] theorem State.modLaunch_tlb (s : State) (k : Nat) (f : Launch → Launch) : (s.modLaunch k f).tlb = s.tlb := by unfold State.modLaunch; split <;> rfl
@[simp] theorem State.modLaunch_slice (s : State) (k : Nat) (f : Launch → Launch) : (s.modLaunch k f).slice = s.slice := by unfold State.modLaunch; split <;> rfl
@[simp] theorem State.modLaunch_offw (s : State) (k : Nat) (f : Launch → Launch) : (s.modLaunch k f).offw = s.offw := by unfold State.modLaunch; split <;> rfl
@[simp] theorem State.modJob_cur (s : State) (k : Nat) (f : HJob → HJob) : (s.modJob k f).cur = s.cur := by unfold State.modJob; split <;> rfl
@[simp] theorem State.modJob_issueQ (s : State) (k : Nat) (f : HJob → HJob) : (s.modJob k f).issueQ = s.issueQ := by unfold State.modJob; split <;> rfl
@[simp] theorem State.modJob_sched (s : State) (k : Nat) (f : HJob → HJob) : (s.modJob k f).sched = s.sched := by unfold State.modJob; split <;> rfl
@[simp] theorem State.modJob_turn (s : State) (k : Nat) (f : HJob → HJob) : (s.modJob k f).turn = s.turn := by unfold State.modJob; split <;> rfl
@[simp] theorem State.modJob_fresh (s : State) (k : Nat) (f : HJob → HJob) : (s.modJob k f).fresh = s.fresh := by unfold State.modJob; split <;> rfl
@[simp] theorem State.modJob_seq (s : State) (k : Nat) (f : HJob → HJob) : (s.modJob k f).seq = s.seq := by unfold State.modJob; split <;> rfl
@[simp] theorem State.modJob_threads (s : State) (k : Nat) (f : HJob → HJob) : (s.modJob k f).threads = s.threads := by unfold State.modJob; split <;> rfl
@[simp] theorem State.modJob_units (s : State) (k : Nat) (f : HJob → HJob) : (s.modJob k f).units = s.units := by unfold State.modJob; split <;> rfl
@[simp] theorem State.modJob_cores (s : State) (k : Nat) (f : HJob → HJob) : (s.modJob k f).cores = s.cores := by unfold State.modJob; split <;> rfl
@[simp] theorem State.modJob_clusters (s : State) (k : Nat) (f : HJob → HJob) : (s.modJob k f).clusters = s.clusters := by unfold State.modJob; split <;> rfl
@[simp] theorem State.modJob_mem (s : State) (k : Nat) (f : HJob → HJob) : (s.modJob k f).mem = s.mem := by unfold State.modJob; split <;> rfl
@[simp] theorem State.modJob_bad (s : State) (k : Nat) (f : HJob → HJob) : (s.modJob k f).bad = s.bad := by unfold State.modJob; split <;> rfl
@[simp] theorem State.modJob_far (s : State) (k : Nat) (f : HJob → HJob) : (s.modJob k f).far = s.far := by unfold State.modJob; split <;> rfl
@[simp] theorem State.modJob_tags (s : State) (k : Nat) (f : HJob → HJob) : (s.modJob k f).tags = s.tags := by unfold State.modJob; split <;> rfl
@[simp] theorem State.modJob_tlb (s : State) (k : Nat) (f : HJob → HJob) : (s.modJob k f).tlb = s.tlb := by unfold State.modJob; split <;> rfl
@[simp] theorem State.modJob_slice (s : State) (k : Nat) (f : HJob → HJob) : (s.modJob k f).slice = s.slice := by unfold State.modJob; split <;> rfl
@[simp] theorem State.modJob_offw (s : State) (k : Nat) (f : HJob → HJob) : (s.modJob k f).offw = s.offw := by unfold State.modJob; split <;> rfl
@[simp] theorem State.modThreadsOf_cur (s : State) (k : Nat) (f : Thread → Thread) : (s.modThreadsOf k f).cur = s.cur := rfl
@[simp] theorem State.modThreadsOf_issueQ (s : State) (k : Nat) (f : Thread → Thread) : (s.modThreadsOf k f).issueQ = s.issueQ := rfl
@[simp] theorem State.modThreadsOf_sched (s : State) (k : Nat) (f : Thread → Thread) : (s.modThreadsOf k f).sched = s.sched := rfl
@[simp] theorem State.modThreadsOf_turn (s : State) (k : Nat) (f : Thread → Thread) : (s.modThreadsOf k f).turn = s.turn := rfl
@[simp] theorem State.modThreadsOf_fresh (s : State) (k : Nat) (f : Thread → Thread) : (s.modThreadsOf k f).fresh = s.fresh := rfl
@[simp] theorem State.modThreadsOf_seq (s : State) (k : Nat) (f : Thread → Thread) : (s.modThreadsOf k f).seq = s.seq := rfl
@[simp] theorem State.modThreadsOf_units (s : State) (k : Nat) (f : Thread → Thread) : (s.modThreadsOf k f).units = s.units := rfl
@[simp] theorem State.modThreadsOf_cores (s : State) (k : Nat) (f : Thread → Thread) : (s.modThreadsOf k f).cores = s.cores := rfl
@[simp] theorem State.modThreadsOf_clusters (s : State) (k : Nat) (f : Thread → Thread) : (s.modThreadsOf k f).clusters = s.clusters := rfl
@[simp] theorem State.modThreadsOf_mem (s : State) (k : Nat) (f : Thread → Thread) : (s.modThreadsOf k f).mem = s.mem := rfl
@[simp] theorem State.modThreadsOf_bad (s : State) (k : Nat) (f : Thread → Thread) : (s.modThreadsOf k f).bad = s.bad := rfl
@[simp] theorem State.modThreadsOf_far (s : State) (k : Nat) (f : Thread → Thread) : (s.modThreadsOf k f).far = s.far := rfl
@[simp] theorem State.modThreadsOf_tags (s : State) (k : Nat) (f : Thread → Thread) : (s.modThreadsOf k f).tags = s.tags := rfl
@[simp] theorem State.modThreadsOf_tlb (s : State) (k : Nat) (f : Thread → Thread) : (s.modThreadsOf k f).tlb = s.tlb := rfl
@[simp] theorem State.modThreadsOf_slice (s : State) (k : Nat) (f : Thread → Thread) : (s.modThreadsOf k f).slice = s.slice := rfl
@[simp] theorem State.modThreadsOf_offw (s : State) (k : Nat) (f : Thread → Thread) : (s.modThreadsOf k f).offw = s.offw := rfl
@[simp] theorem State.modThreadsOf_hub (s : State) (k : Nat) (f : Thread → Thread) : (s.modThreadsOf k f).hub = s.hub := rfl

/-! ## Looking up what was put -/

@[simp] theorem State.thread?_setThread (s : State) (tk : Nat) (t : Thread) : (s.setThread tk t).thread? tk = some t :=
  AMap.get?_set_same tk t s.threads
theorem State.thread?_setThread_ne (s : State) {tk k : Nat} (t : Thread) (h : k ≠ tk) : (s.setThread tk t).thread? k = s.thread? k :=
  AMap.get?_set_ne t h s.threads
@[simp] theorem State.unit?_setUnit (s : State) (k : Nat) (u : TUnit) : (s.setUnit k u).unit? k = some u :=
  AMap.get?_set_same k u s.units
theorem State.unit?_setUnit_ne (s : State) {j k : Nat} (u : TUnit) (h : j ≠ k) : (s.setUnit k u).unit? j = s.unit? j :=
  AMap.get?_set_ne u h s.units
theorem State.modThread_eq {s : State} {tk : Nat} {t : Thread} (f : Thread → Thread) (h : s.thread? tk = some t) :
    s.modThread tk f = s.setThread tk (f t) := by unfold State.modThread; rw [h]
theorem State.thread?_modThread {s : State} {tk : Nat} {t : Thread} (f : Thread → Thread) (h : s.thread? tk = some t) :
    (s.modThread tk f).thread? tk = some (f t) := by rw [State.modThread_eq f h, State.thread?_setThread]
theorem State.thread?_modThread_ne (s : State) {tk k : Nat} (f : Thread → Thread) (h : k ≠ tk) : (s.modThread tk f).thread? k = s.thread? k := by
  unfold State.modThread
  split
  · exact State.thread?_setThread_ne s _ h
  · rfl
theorem State.modUnit_eq {s : State} {k : Nat} {u : TUnit} (f : TUnit → TUnit) (h : s.unit? k = some u) :
    s.modUnit k f = s.setUnit k (f u) := by unfold State.modUnit; rw [h]
theorem State.unit?_modUnit {s : State} {k : Nat} {u : TUnit} (f : TUnit → TUnit) (h : s.unit? k = some u) :
    (s.modUnit k f).unit? k = some (f u) := by rw [State.modUnit_eq f h, State.unit?_setUnit]
@[simp] theorem State.thread?_setUnit (s : State) (k tk : Nat) (u : TUnit) : (s.setUnit k u).thread? tk = s.thread? tk := rfl
@[simp] theorem State.thread?_modUnit (s : State) (k tk : Nat) (f : TUnit → TUnit) : (s.modUnit k f).thread? tk = s.thread? tk := by
  unfold State.thread?; rw [State.modUnit_threads]
@[simp] theorem State.thread?_modHub (s : State) (f : Hub → Hub) (tk : Nat) : (s.modHub f).thread? tk = s.thread? tk := rfl
@[simp] theorem State.thread?_modCore (s : State) (k : Nat) (f : Core → Core) (tk : Nat) : (s.modCore k f).thread? tk = s.thread? tk := rfl
@[simp] theorem State.thread?_takeSeq (s : State) (tk : Nat) : s.takeSeq.2.thread? tk = s.thread? tk := rfl
@[simp] theorem State.unit?_setThread (s : State) (tk k : Nat) (t : Thread) : (s.setThread tk t).unit? k = s.unit? k := rfl
@[simp] theorem State.unit?_modThread (s : State) (tk k : Nat) (f : Thread → Thread) : (s.modThread tk f).unit? k = s.unit? k := by
  unfold State.unit?; rw [State.modThread_units]
@[simp] theorem State.core_setCore (s : State) (k : Nat) (c : Core) : (s.setCore k c).core k = c := by
  unfold State.core State.setCore AMap.get; rw [AMap.get?_set_same]; rfl
@[simp] theorem State.core_modCore (s : State) (k : Nat) (f : Core → Core) : (s.modCore k f).core k = f (s.core k) := State.core_setCore s k _
@[simp] theorem State.core_setThread (s : State) (tk k : Nat) (t : Thread) : (s.setThread tk t).core k = s.core k := rfl
@[simp] theorem State.core_modThread (s : State) (tk k : Nat) (f : Thread → Thread) : (s.modThread tk f).core k = s.core k := by
  unfold State.core; rw [State.modThread_cores]
@[simp] theorem State.cluster_modCluster (s : State) (n : Nat) (f : Cluster → Cluster) : (s.modCluster n f).cluster n = f (s.cluster n) := by
  unfold State.cluster State.modCluster AMap.get; rw [AMap.get?_set_same]; rfl

/-! ## Updates of a thread -/

@[simp] theorem Thread.setReg_uid (t : Thread) (n : Nat) (r : Word) : (t.setReg n r).uid = t.uid := rfl
@[simp] theorem Thread.setReg_tg (t : Thread) (n : Nat) (r : Word) : (t.setReg n r).tg = t.tg := rfl
@[simp] theorem Thread.setReg_nregs (t : Thread) (n : Nat) (r : Word) : (t.setReg n r).nregs = t.nregs := rfl
@[simp] theorem Thread.setReg_p (t : Thread) (n : Nat) (r : Word) : (t.setReg n r).p = t.p := rfl
@[simp] theorem Thread.setReg_b (t : Thread) (n : Nat) (r : Word) : (t.setReg n r).b = t.b := rfl
@[simp] theorem Thread.setReg_ports (t : Thread) (n : Nat) (r : Word) : (t.setReg n r).ports = t.ports := rfl
@[simp] theorem Thread.setReg_loops (t : Thread) (n : Nat) (r : Word) : (t.setReg n r).loops = t.loops := rfl
@[simp] theorem Thread.setReg_cd (t : Thread) (n : Nat) (r : Word) : (t.setReg n r).cd = t.cd := rfl
@[simp] theorem Thread.setReg_rpc (t : Thread) (n : Nat) (r : Word) : (t.setReg n r).rpc = t.rpc := rfl
@[simp] theorem Thread.setReg_shadow (t : Thread) (n : Nat) (r : Word) : (t.setReg n r).shadow = t.shadow := rfl
@[simp] theorem Thread.setReg_pc (t : Thread) (n : Nat) (r : Word) : (t.setReg n r).pc = t.pc := rfl
@[simp] theorem Thread.setReg_pre (t : Thread) (n : Nat) (r : Word) : (t.setReg n r).pre = t.pre := rfl
@[simp] theorem Thread.setReg_tcause (t : Thread) (n : Nat) (r : Word) : (t.setReg n r).tcause = t.tcause := rfl
@[simp] theorem Thread.setReg_tloc (t : Thread) (n : Nat) (r : Word) : (t.setReg n r).tloc = t.tloc := rfl
@[simp] theorem Thread.setReg_ih (t : Thread) (n : Nat) (r : Word) : (t.setReg n r).ih = t.ih := rfl
@[simp] theorem Thread.setReg_hv (t : Thread) (n : Nat) (r : Word) : (t.setReg n r).hv = t.hv := rfl
@[simp] theorem Thread.setReg_hd (t : Thread) (n : Nat) (r : Word) : (t.setReg n r).hd = t.hd := rfl
@[simp] theorem Thread.setReg_cord (t : Thread) (n : Nat) (r : Word) : (t.setReg n r).cord = t.cord := rfl
@[simp] theorem Thread.setReg_uord (t : Thread) (n : Nat) (r : Word) : (t.setReg n r).uord = t.uord := rfl
@[simp] theorem Thread.setReg_arr (t : Thread) (n : Nat) (r : Word) : (t.setReg n r).arr = t.arr := rfl
@[simp] theorem Thread.setReg_arrDone (t : Thread) (n : Nat) (r : Word) : (t.setReg n r).arrDone = t.arrDone := rfl
@[simp] theorem Thread.setReg_live (t : Thread) (n : Nat) (r : Word) : (t.setReg n r).live = t.live := rfl
@[simp] theorem Thread.setReg_ending (t : Thread) (n : Nat) (r : Word) : (t.setReg n r).ending = t.ending := rfl
@[simp] theorem Thread.setReg_status (t : Thread) (n : Nat) (r : Word) : (t.setReg n r).status = t.status := rfl
@[simp] theorem Thread.setReg_park (t : Thread) (n : Nat) (r : Word) : (t.setReg n r).park = t.park := rfl
@[simp] theorem Thread.setReg_resume_ (t : Thread) (n : Nat) (r : Word) : (t.setReg n r).resume_ = t.resume_ := rfl
@[simp] theorem Thread.setReg_mark (t : Thread) (n : Nat) (r : Word) : (t.setReg n r).mark = t.mark := rfl
@[simp] theorem Thread.setReg_loads (t : Thread) (n : Nat) (r : Word) : (t.setReg n r).loads = t.loads := rfl
@[simp] theorem Thread.setReg_nextIdx (t : Thread) (n : Nat) (r : Word) : (t.setReg n r).nextIdx = t.nextIdx := rfl
@[simp] theorem Thread.setReg_errs (t : Thread) (n : Nat) (r : Word) : (t.setReg n r).errs = t.errs := rfl
@[simp] theorem Thread.setReg_busy (t : Thread) (n : Nat) (r : Word) : (t.setReg n r).busy = t.busy := rfl
@[simp] theorem Thread.setReg_w (t : Thread) (n : Nat) (r : Word) : (t.setReg n r).w = t.w := rfl
@[simp] theorem Thread.setReg_yieldTo (t : Thread) (n : Nat) (r : Word) : (t.setReg n r).yieldTo = t.yieldTo := rfl
@[simp] theorem Thread.setReg_depriTo (t : Thread) (n : Nat) (r : Word) : (t.setReg n r).depriTo = t.depriTo := rfl
@[simp] theorem Thread.setReg_freeAt (t : Thread) (n : Nat) (r : Word) : (t.setReg n r).freeAt = t.freeAt := rfl
@[simp] theorem Thread.setReg_pbuf (t : Thread) (n : Nat) (r : Word) : (t.setReg n r).pbuf = t.pbuf := rfl
@[simp] theorem Thread.setReg_seatPt (t : Thread) (n : Nat) (r : Word) : (t.setReg n r).seatPt = t.seatPt := rfl
@[simp] theorem Thread.setReg_halted (t : Thread) (n : Nat) (r : Word) : (t.setReg n r).halted = t.halted := rfl
@[simp] theorem Thread.setReg_atBreak (t : Thread) (n : Nat) (r : Word) : (t.setReg n r).atBreak = t.atBreak := rfl
@[simp] theorem Thread.setReg_stepping (t : Thread) (n : Nat) (r : Word) : (t.setReg n r).stepping = t.stepping := rfl
@[simp] theorem Thread.setReg_skip (t : Thread) (n : Nat) (r : Word) : (t.setReg n r).skip = t.skip := rfl
@[simp] theorem Thread.setReg_ftok (t : Thread) (n : Nat) (r : Word) : (t.setReg n r).ftok = t.ftok := rfl
@[simp] theorem Thread.setReg_places (t : Thread) (n : Nat) (r : Word) : (t.setReg n r).places = t.places := rfl
@[simp] theorem Thread.setReg_offer (t : Thread) (n : Nat) (r : Word) : (t.setReg n r).offer = t.offer := rfl
@[simp] theorem Thread.setReg_held (t : Thread) (n : Nat) (r : Word) : (t.setReg n r).held = t.held := rfl
@[simp] theorem Thread.setReg_after (t : Thread) (n : Nat) (r : Word) : (t.setReg n r).after = t.after := rfl
@[simp] theorem Thread.setPred_uid (t : Thread) (n : Nat) (x : Bool) : (t.setPred n x).uid = t.uid := rfl
@[simp] theorem Thread.setPred_tg (t : Thread) (n : Nat) (x : Bool) : (t.setPred n x).tg = t.tg := rfl
@[simp] theorem Thread.setPred_nregs (t : Thread) (n : Nat) (x : Bool) : (t.setPred n x).nregs = t.nregs := rfl
@[simp] theorem Thread.setPred_v (t : Thread) (n : Nat) (x : Bool) : (t.setPred n x).v = t.v := rfl
@[simp] theorem Thread.setPred_b (t : Thread) (n : Nat) (x : Bool) : (t.setPred n x).b = t.b := rfl
@[simp] theorem Thread.setPred_ports (t : Thread) (n : Nat) (x : Bool) : (t.setPred n x).ports = t.ports := rfl
@[simp] theorem Thread.setPred_loops (t : Thread) (n : Nat) (x : Bool) : (t.setPred n x).loops = t.loops := rfl
@[simp] theorem Thread.setPred_cd (t : Thread) (n : Nat) (x : Bool) : (t.setPred n x).cd = t.cd := rfl
@[simp] theorem Thread.setPred_rpc (t : Thread) (n : Nat) (x : Bool) : (t.setPred n x).rpc = t.rpc := rfl
@[simp] theorem Thread.setPred_shadow (t : Thread) (n : Nat) (x : Bool) : (t.setPred n x).shadow = t.shadow := rfl
@[simp] theorem Thread.setPred_pc (t : Thread) (n : Nat) (x : Bool) : (t.setPred n x).pc = t.pc := rfl
@[simp] theorem Thread.setPred_pre (t : Thread) (n : Nat) (x : Bool) : (t.setPred n x).pre = t.pre := rfl
@[simp] theorem Thread.setPred_tcause (t : Thread) (n : Nat) (x : Bool) : (t.setPred n x).tcause = t.tcause := rfl
@[simp] theorem Thread.setPred_tloc (t : Thread) (n : Nat) (x : Bool) : (t.setPred n x).tloc = t.tloc := rfl
@[simp] theorem Thread.setPred_ih (t : Thread) (n : Nat) (x : Bool) : (t.setPred n x).ih = t.ih := rfl
@[simp] theorem Thread.setPred_hv (t : Thread) (n : Nat) (x : Bool) : (t.setPred n x).hv = t.hv := rfl
@[simp] theorem Thread.setPred_hd (t : Thread) (n : Nat) (x : Bool) : (t.setPred n x).hd = t.hd := rfl
@[simp] theorem Thread.setPred_cord (t : Thread) (n : Nat) (x : Bool) : (t.setPred n x).cord = t.cord := rfl
@[simp] theorem Thread.setPred_uord (t : Thread) (n : Nat) (x : Bool) : (t.setPred n x).uord = t.uord := rfl
@[simp] theorem Thread.setPred_arr (t : Thread) (n : Nat) (x : Bool) : (t.setPred n x).arr = t.arr := rfl
@[simp] theorem Thread.setPred_arrDone (t : Thread) (n : Nat) (x : Bool) : (t.setPred n x).arrDone = t.arrDone := rfl
@[simp] theorem Thread.setPred_live (t : Thread) (n : Nat) (x : Bool) : (t.setPred n x).live = t.live := rfl
@[simp] theorem Thread.setPred_ending (t : Thread) (n : Nat) (x : Bool) : (t.setPred n x).ending = t.ending := rfl
@[simp] theorem Thread.setPred_status (t : Thread) (n : Nat) (x : Bool) : (t.setPred n x).status = t.status := rfl
@[simp] theorem Thread.setPred_park (t : Thread) (n : Nat) (x : Bool) : (t.setPred n x).park = t.park := rfl
@[simp] theorem Thread.setPred_resume_ (t : Thread) (n : Nat) (x : Bool) : (t.setPred n x).resume_ = t.resume_ := rfl
@[simp] theorem Thread.setPred_mark (t : Thread) (n : Nat) (x : Bool) : (t.setPred n x).mark = t.mark := rfl
@[simp] theorem Thread.setPred_loads (t : Thread) (n : Nat) (x : Bool) : (t.setPred n x).loads = t.loads := rfl
@[simp] theorem Thread.setPred_nextIdx (t : Thread) (n : Nat) (x : Bool) : (t.setPred n x).nextIdx = t.nextIdx := rfl
@[simp] theorem Thread.setPred_errs (t : Thread) (n : Nat) (x : Bool) : (t.setPred n x).errs = t.errs := rfl
@[simp] theorem Thread.setPred_busy (t : Thread) (n : Nat) (x : Bool) : (t.setPred n x).busy = t.busy := rfl
@[simp] theorem Thread.setPred_w (t : Thread) (n : Nat) (x : Bool) : (t.setPred n x).w = t.w := rfl
@[simp] theorem Thread.setPred_yieldTo (t : Thread) (n : Nat) (x : Bool) : (t.setPred n x).yieldTo = t.yieldTo := rfl
@[simp] theorem Thread.setPred_depriTo (t : Thread) (n : Nat) (x : Bool) : (t.setPred n x).depriTo = t.depriTo := rfl
@[simp] theorem Thread.setPred_freeAt (t : Thread) (n : Nat) (x : Bool) : (t.setPred n x).freeAt = t.freeAt := rfl
@[simp] theorem Thread.setPred_pbuf (t : Thread) (n : Nat) (x : Bool) : (t.setPred n x).pbuf = t.pbuf := rfl
@[simp] theorem Thread.setPred_seatPt (t : Thread) (n : Nat) (x : Bool) : (t.setPred n x).seatPt = t.seatPt := rfl
@[simp] theorem Thread.setPred_halted (t : Thread) (n : Nat) (x : Bool) : (t.setPred n x).halted = t.halted := rfl
@[simp] theorem Thread.setPred_atBreak (t : Thread) (n : Nat) (x : Bool) : (t.setPred n x).atBreak = t.atBreak := rfl
@[simp] theorem Thread.setPred_stepping (t : Thread) (n : Nat) (x : Bool) : (t.setPred n x).stepping = t.stepping := rfl
@[simp] theorem Thread.setPred_skip (t : Thread) (n : Nat) (x : Bool) : (t.setPred n x).skip = t.skip := rfl
@[simp] theorem Thread.setPred_ftok (t : Thread) (n : Nat) (x : Bool) : (t.setPred n x).ftok = t.ftok := rfl
@[simp] theorem Thread.setPred_places (t : Thread) (n : Nat) (x : Bool) : (t.setPred n x).places = t.places := rfl
@[simp] theorem Thread.setPred_offer (t : Thread) (n : Nat) (x : Bool) : (t.setPred n x).offer = t.offer := rfl
@[simp] theorem Thread.setPred_held (t : Thread) (n : Nat) (x : Bool) : (t.setPred n x).held = t.held := rfl
@[simp] theorem Thread.setPred_after (t : Thread) (n : Nat) (x : Bool) : (t.setPred n x).after = t.after := rfl
@[simp] theorem Thread.shift_uid (t : Thread) (r : Word) (done : Nat) : (t.shift r done).uid = t.uid := rfl
@[simp] theorem Thread.shift_tg (t : Thread) (r : Word) (done : Nat) : (t.shift r done).tg = t.tg := rfl
@[simp] theorem Thread.shift_nregs (t : Thread) (r : Word) (done : Nat) : (t.shift r done).nregs = t.nregs := rfl
@[simp] theorem Thread.shift_v (t : Thread) (r : Word) (done : Nat) : (t.shift r done).v = t.v := rfl
@[simp] theorem Thread.shift_p (t : Thread) (r : Word) (done : Nat) : (t.shift r done).p = t.p := rfl
@[simp] theorem Thread.shift_ports (t : Thread) (r : Word) (done : Nat) : (t.shift r done).ports = t.ports := rfl
@[simp] theorem Thread.shift_loops (t : Thread) (r : Word) (done : Nat) : (t.shift r done).loops = t.loops := rfl
@[simp] theorem Thread.shift_cd (t : Thread) (r : Word) (done : Nat) : (t.shift r done).cd = t.cd := rfl
@[simp] theorem Thread.shift_rpc (t : Thread) (r : Word) (done : Nat) : (t.shift r done).rpc = t.rpc := rfl
@[simp] theorem Thread.shift_shadow (t : Thread) (r : Word) (done : Nat) : (t.shift r done).shadow = t.shadow := rfl
@[simp] theorem Thread.shift_pc (t : Thread) (r : Word) (done : Nat) : (t.shift r done).pc = t.pc := rfl
@[simp] theorem Thread.shift_pre (t : Thread) (r : Word) (done : Nat) : (t.shift r done).pre = t.pre := rfl
@[simp] theorem Thread.shift_tcause (t : Thread) (r : Word) (done : Nat) : (t.shift r done).tcause = t.tcause := rfl
@[simp] theorem Thread.shift_tloc (t : Thread) (r : Word) (done : Nat) : (t.shift r done).tloc = t.tloc := rfl
@[simp] theorem Thread.shift_ih (t : Thread) (r : Word) (done : Nat) : (t.shift r done).ih = t.ih := rfl
@[simp] theorem Thread.shift_hv (t : Thread) (r : Word) (done : Nat) : (t.shift r done).hv = t.hv := rfl
@[simp] theorem Thread.shift_hd (t : Thread) (r : Word) (done : Nat) : (t.shift r done).hd = t.hd := rfl
@[simp] theorem Thread.shift_cord (t : Thread) (r : Word) (done : Nat) : (t.shift r done).cord = t.cord := rfl
@[simp] theorem Thread.shift_uord (t : Thread) (r : Word) (done : Nat) : (t.shift r done).uord = t.uord := rfl
@[simp] theorem Thread.shift_arr (t : Thread) (r : Word) (done : Nat) : (t.shift r done).arr = t.arr := rfl
@[simp] theorem Thread.shift_arrDone (t : Thread) (r : Word) (done : Nat) : (t.shift r done).arrDone = t.arrDone := rfl
@[simp] theorem Thread.shift_live (t : Thread) (r : Word) (done : Nat) : (t.shift r done).live = t.live := rfl
@[simp] theorem Thread.shift_ending (t : Thread) (r : Word) (done : Nat) : (t.shift r done).ending = t.ending := rfl
@[simp] theorem Thread.shift_status (t : Thread) (r : Word) (done : Nat) : (t.shift r done).status = t.status := rfl
@[simp] theorem Thread.shift_park (t : Thread) (r : Word) (done : Nat) : (t.shift r done).park = t.park := rfl
@[simp] theorem Thread.shift_resume_ (t : Thread) (r : Word) (done : Nat) : (t.shift r done).resume_ = t.resume_ := rfl
@[simp] theorem Thread.shift_mark (t : Thread) (r : Word) (done : Nat) : (t.shift r done).mark = t.mark := rfl
@[simp] theorem Thread.shift_loads (t : Thread) (r : Word) (done : Nat) : (t.shift r done).loads = t.loads := rfl
@[simp] theorem Thread.shift_nextIdx (t : Thread) (r : Word) (done : Nat) : (t.shift r done).nextIdx = t.nextIdx := rfl
@[simp] theorem Thread.shift_errs (t : Thread) (r : Word) (done : Nat) : (t.shift r done).errs = t.errs := rfl
@[simp] theorem Thread.shift_busy (t : Thread) (r : Word) (done : Nat) : (t.shift r done).busy = t.busy := rfl
@[simp] theorem Thread.shift_w (t : Thread) (r : Word) (done : Nat) : (t.shift r done).w = t.w := rfl
@[simp] theorem Thread.shift_yieldTo (t : Thread) (r : Word) (done : Nat) : (t.shift r done).yieldTo = t.yieldTo := rfl
@[simp] theorem Thread.shift_depriTo (t : Thread) (r : Word) (done : Nat) : (t.shift r done).depriTo = t.depriTo := rfl
@[simp] theorem Thread.shift_freeAt (t : Thread) (r : Word) (done : Nat) : (t.shift r done).freeAt = t.freeAt := rfl
@[simp] theorem Thread.shift_pbuf (t : Thread) (r : Word) (done : Nat) : (t.shift r done).pbuf = t.pbuf := rfl
@[simp] theorem Thread.shift_seatPt (t : Thread) (r : Word) (done : Nat) : (t.shift r done).seatPt = t.seatPt := rfl
@[simp] theorem Thread.shift_halted (t : Thread) (r : Word) (done : Nat) : (t.shift r done).halted = t.halted := rfl
@[simp] theorem Thread.shift_atBreak (t : Thread) (r : Word) (done : Nat) : (t.shift r done).atBreak = t.atBreak := rfl
@[simp] theorem Thread.shift_stepping (t : Thread) (r : Word) (done : Nat) : (t.shift r done).stepping = t.stepping := rfl
@[simp] theorem Thread.shift_skip (t : Thread) (r : Word) (done : Nat) : (t.shift r done).skip = t.skip := rfl
@[simp] theorem Thread.shift_ftok (t : Thread) (r : Word) (done : Nat) : (t.shift r done).ftok = t.ftok := rfl
@[simp] theorem Thread.shift_places (t : Thread) (r : Word) (done : Nat) : (t.shift r done).places = t.places := rfl
@[simp] theorem Thread.shift_offer (t : Thread) (r : Word) (done : Nat) : (t.shift r done).offer = t.offer := rfl
@[simp] theorem Thread.shift_held (t : Thread) (r : Word) (done : Nat) : (t.shift r done).held = t.held := rfl
@[simp] theorem Thread.shift_after (t : Thread) (r : Word) (done : Nat) : (t.shift r done).after = t.after := rfl
@[simp] theorem Thread.mark__uid (t : Thread) (ks : List Nat) (now done : Nat) : (t.mark_ ks now done).uid = t.uid := rfl
@[simp] theorem Thread.mark__tg (t : Thread) (ks : List Nat) (now done : Nat) : (t.mark_ ks now done).tg = t.tg := rfl
@[simp] theorem Thread.mark__nregs (t : Thread) (ks : List Nat) (now done : Nat) : (t.mark_ ks now done).nregs = t.nregs := rfl
@[simp] theorem Thread.mark__v (t : Thread) (ks : List Nat) (now done : Nat) : (t.mark_ ks now done).v = t.v := rfl
@[simp] theorem Thread.mark__p (t : Thread) (ks : List Nat) (now done : Nat) : (t.mark_ ks now done).p = t.p := rfl
@[simp] theorem Thread.mark__b (t : Thread) (ks : List Nat) (now done : Nat) : (t.mark_ ks now done).b = t.b := rfl
@[simp] theorem Thread.mark__ports (t : Thread) (ks : List Nat) (now done : Nat) : (t.mark_ ks now done).ports = t.ports := rfl
@[simp] theorem Thread.mark__loops (t : Thread) (ks : List Nat) (now done : Nat) : (t.mark_ ks now done).loops = t.loops := rfl
@[simp] theorem Thread.mark__cd (t : Thread) (ks : List Nat) (now done : Nat) : (t.mark_ ks now done).cd = t.cd := rfl
@[simp] theorem Thread.mark__rpc (t : Thread) (ks : List Nat) (now done : Nat) : (t.mark_ ks now done).rpc = t.rpc := rfl
@[simp] theorem Thread.mark__shadow (t : Thread) (ks : List Nat) (now done : Nat) : (t.mark_ ks now done).shadow = t.shadow := rfl
@[simp] theorem Thread.mark__pc (t : Thread) (ks : List Nat) (now done : Nat) : (t.mark_ ks now done).pc = t.pc := rfl
@[simp] theorem Thread.mark__pre (t : Thread) (ks : List Nat) (now done : Nat) : (t.mark_ ks now done).pre = t.pre := rfl
@[simp] theorem Thread.mark__tcause (t : Thread) (ks : List Nat) (now done : Nat) : (t.mark_ ks now done).tcause = t.tcause := rfl
@[simp] theorem Thread.mark__tloc (t : Thread) (ks : List Nat) (now done : Nat) : (t.mark_ ks now done).tloc = t.tloc := rfl
@[simp] theorem Thread.mark__ih (t : Thread) (ks : List Nat) (now done : Nat) : (t.mark_ ks now done).ih = t.ih := rfl
@[simp] theorem Thread.mark__hv (t : Thread) (ks : List Nat) (now done : Nat) : (t.mark_ ks now done).hv = t.hv := rfl
@[simp] theorem Thread.mark__hd (t : Thread) (ks : List Nat) (now done : Nat) : (t.mark_ ks now done).hd = t.hd := rfl
@[simp] theorem Thread.mark__cord (t : Thread) (ks : List Nat) (now done : Nat) : (t.mark_ ks now done).cord = t.cord := rfl
@[simp] theorem Thread.mark__uord (t : Thread) (ks : List Nat) (now done : Nat) : (t.mark_ ks now done).uord = t.uord := rfl
@[simp] theorem Thread.mark__arr (t : Thread) (ks : List Nat) (now done : Nat) : (t.mark_ ks now done).arr = t.arr := rfl
@[simp] theorem Thread.mark__arrDone (t : Thread) (ks : List Nat) (now done : Nat) : (t.mark_ ks now done).arrDone = t.arrDone := rfl
@[simp] theorem Thread.mark__live (t : Thread) (ks : List Nat) (now done : Nat) : (t.mark_ ks now done).live = t.live := rfl
@[simp] theorem Thread.mark__ending (t : Thread) (ks : List Nat) (now done : Nat) : (t.mark_ ks now done).ending = t.ending := rfl
@[simp] theorem Thread.mark__status (t : Thread) (ks : List Nat) (now done : Nat) : (t.mark_ ks now done).status = t.status := rfl
@[simp] theorem Thread.mark__park (t : Thread) (ks : List Nat) (now done : Nat) : (t.mark_ ks now done).park = t.park := rfl
@[simp] theorem Thread.mark__resume_ (t : Thread) (ks : List Nat) (now done : Nat) : (t.mark_ ks now done).resume_ = t.resume_ := rfl
@[simp] theorem Thread.mark__mark (t : Thread) (ks : List Nat) (now done : Nat) : (t.mark_ ks now done).mark = t.mark := rfl
@[simp] theorem Thread.mark__loads (t : Thread) (ks : List Nat) (now done : Nat) : (t.mark_ ks now done).loads = t.loads := rfl
@[simp] theorem Thread.mark__nextIdx (t : Thread) (ks : List Nat) (now done : Nat) : (t.mark_ ks now done).nextIdx = t.nextIdx := rfl
@[simp] theorem Thread.mark__errs (t : Thread) (ks : List Nat) (now done : Nat) : (t.mark_ ks now done).errs = t.errs := rfl
@[simp] theorem Thread.mark__w (t : Thread) (ks : List Nat) (now done : Nat) : (t.mark_ ks now done).w = t.w := rfl
@[simp] theorem Thread.mark__yieldTo (t : Thread) (ks : List Nat) (now done : Nat) : (t.mark_ ks now done).yieldTo = t.yieldTo := rfl
@[simp] theorem Thread.mark__depriTo (t : Thread) (ks : List Nat) (now done : Nat) : (t.mark_ ks now done).depriTo = t.depriTo := rfl
@[simp] theorem Thread.mark__freeAt (t : Thread) (ks : List Nat) (now done : Nat) : (t.mark_ ks now done).freeAt = t.freeAt := rfl
@[simp] theorem Thread.mark__pbuf (t : Thread) (ks : List Nat) (now done : Nat) : (t.mark_ ks now done).pbuf = t.pbuf := rfl
@[simp] theorem Thread.mark__seatPt (t : Thread) (ks : List Nat) (now done : Nat) : (t.mark_ ks now done).seatPt = t.seatPt := rfl
@[simp] theorem Thread.mark__halted (t : Thread) (ks : List Nat) (now done : Nat) : (t.mark_ ks now done).halted = t.halted := rfl
@[simp] theorem Thread.mark__atBreak (t : Thread) (ks : List Nat) (now done : Nat) : (t.mark_ ks now done).atBreak = t.atBreak := rfl
@[simp] theorem Thread.mark__stepping (t : Thread) (ks : List Nat) (now done : Nat) : (t.mark_ ks now done).stepping = t.stepping := rfl
@[simp] theorem Thread.mark__skip (t : Thread) (ks : List Nat) (now done : Nat) : (t.mark_ ks now done).skip = t.skip := rfl
@[simp] theorem Thread.mark__ftok (t : Thread) (ks : List Nat) (now done : Nat) : (t.mark_ ks now done).ftok = t.ftok := rfl
@[simp] theorem Thread.mark__places (t : Thread) (ks : List Nat) (now done : Nat) : (t.mark_ ks now done).places = t.places := rfl
@[simp] theorem Thread.mark__offer (t : Thread) (ks : List Nat) (now done : Nat) : (t.mark_ ks now done).offer = t.offer := rfl
@[simp] theorem Thread.mark__held (t : Thread) (ks : List Nat) (now done : Nat) : (t.mark_ ks now done).held = t.held := rfl
@[simp] theorem Thread.mark__after (t : Thread) (ks : List Nat) (now done : Nat) : (t.mark_ ks now done).after = t.after := rfl
@[simp] theorem Thread.retire_uid (t : Thread) (seat : Bool) : (t.retire seat).uid = t.uid := rfl
@[simp] theorem Thread.retire_tg (t : Thread) (seat : Bool) : (t.retire seat).tg = t.tg := rfl
@[simp] theorem Thread.retire_nregs (t : Thread) (seat : Bool) : (t.retire seat).nregs = t.nregs := rfl
@[simp] theorem Thread.retire_v (t : Thread) (seat : Bool) : (t.retire seat).v = t.v := rfl
@[simp] theorem Thread.retire_p (t : Thread) (seat : Bool) : (t.retire seat).p = t.p := rfl
@[simp] theorem Thread.retire_b (t : Thread) (seat : Bool) : (t.retire seat).b = t.b := rfl
@[simp] theorem Thread.retire_ports (t : Thread) (seat : Bool) : (t.retire seat).ports = t.ports := rfl
@[simp] theorem Thread.retire_loops (t : Thread) (seat : Bool) : (t.retire seat).loops = t.loops := rfl
@[simp] theorem Thread.retire_cd (t : Thread) (seat : Bool) : (t.retire seat).cd = t.cd := rfl
@[simp] theorem Thread.retire_rpc (t : Thread) (seat : Bool) : (t.retire seat).rpc = t.rpc := rfl
@[simp] theorem Thread.retire_shadow (t : Thread) (seat : Bool) : (t.retire seat).shadow = t.shadow := rfl
@[simp] theorem Thread.retire_pc (t : Thread) (seat : Bool) : (t.retire seat).pc = t.pc := rfl
@[simp] theorem Thread.retire_tcause (t : Thread) (seat : Bool) : (t.retire seat).tcause = t.tcause := rfl
@[simp] theorem Thread.retire_tloc (t : Thread) (seat : Bool) : (t.retire seat).tloc = t.tloc := rfl
@[simp] theorem Thread.retire_ih (t : Thread) (seat : Bool) : (t.retire seat).ih = t.ih := rfl
@[simp] theorem Thread.retire_hv (t : Thread) (seat : Bool) : (t.retire seat).hv = t.hv := rfl
@[simp] theorem Thread.retire_hd (t : Thread) (seat : Bool) : (t.retire seat).hd = t.hd := rfl
@[simp] theorem Thread.retire_cord (t : Thread) (seat : Bool) : (t.retire seat).cord = t.cord := rfl
@[simp] theorem Thread.retire_uord (t : Thread) (seat : Bool) : (t.retire seat).uord = t.uord := rfl
@[simp] theorem Thread.retire_arr (t : Thread) (seat : Bool) : (t.retire seat).arr = t.arr := rfl
@[simp] theorem Thread.retire_arrDone (t : Thread) (seat : Bool) : (t.retire seat).arrDone = t.arrDone := rfl
@[simp] theorem Thread.retire_live (t : Thread) (seat : Bool) : (t.retire seat).live = t.live := rfl
@[simp] theorem Thread.retire_ending (t : Thread) (seat : Bool) : (t.retire seat).ending = t.ending := rfl
@[simp] theorem Thread.retire_status (t : Thread) (seat : Bool) : (t.retire seat).status = t.status := rfl
@[simp] theorem Thread.retire_loads (t : Thread) (seat : Bool) : (t.retire seat).loads = t.loads := rfl
@[simp] theorem Thread.retire_nextIdx (t : Thread) (seat : Bool) : (t.retire seat).nextIdx = t.nextIdx := rfl
@[simp] theorem Thread.retire_errs (t : Thread) (seat : Bool) : (t.retire seat).errs = t.errs := rfl
@[simp] theorem Thread.retire_busy (t : Thread) (seat : Bool) : (t.retire seat).busy = t.busy := rfl
@[simp] theorem Thread.retire_w (t : Thread) (seat : Bool) : (t.retire seat).w = t.w := rfl
@[simp] theorem Thread.retire_yieldTo (t : Thread) (seat : Bool) : (t.retire seat).yieldTo = t.yieldTo := rfl
@[simp] theorem Thread.retire_depriTo (t : Thread) (seat : Bool) : (t.retire seat).depriTo = t.depriTo := rfl
@[simp] theorem Thread.retire_freeAt (t : Thread) (seat : Bool) : (t.retire seat).freeAt = t.freeAt := rfl
@[simp] theorem Thread.retire_atBreak (t : Thread) (seat : Bool) : (t.retire seat).atBreak = t.atBreak := rfl
@[simp] theorem Thread.retire_after (t : Thread) (seat : Bool) : (t.retire seat).after = t.after := rfl
@[simp] theorem Thread.continueAt_uid (t : Thread) (next : Word) (seat : Bool) : (t.continueAt next seat).uid = t.uid := rfl
@[simp] theorem Thread.continueAt_tg (t : Thread) (next : Word) (seat : Bool) : (t.continueAt next seat).tg = t.tg := rfl
@[simp] theorem Thread.continueAt_nregs (t : Thread) (next : Word) (seat : Bool) : (t.continueAt next seat).nregs = t.nregs := rfl
@[simp] theorem Thread.continueAt_v (t : Thread) (next : Word) (seat : Bool) : (t.continueAt next seat).v = t.v := rfl
@[simp] theorem Thread.continueAt_p (t : Thread) (next : Word) (seat : Bool) : (t.continueAt next seat).p = t.p := rfl
@[simp] theorem Thread.continueAt_b (t : Thread) (next : Word) (seat : Bool) : (t.continueAt next seat).b = t.b := rfl
@[simp] theorem Thread.continueAt_ports (t : Thread) (next : Word) (seat : Bool) : (t.continueAt next seat).ports = t.ports := rfl
@[simp] theorem Thread.continueAt_cd (t : Thread) (next : Word) (seat : Bool) : (t.continueAt next seat).cd = t.cd := rfl
@[simp] theorem Thread.continueAt_rpc (t : Thread) (next : Word) (seat : Bool) : (t.continueAt next seat).rpc = t.rpc := rfl
@[simp] theorem Thread.continueAt_shadow (t : Thread) (next : Word) (seat : Bool) : (t.continueAt next seat).shadow = t.shadow := rfl
@[simp] theorem Thread.continueAt_tcause (t : Thread) (next : Word) (seat : Bool) : (t.continueAt next seat).tcause = t.tcause := rfl
@[simp] theorem Thread.continueAt_tloc (t : Thread) (next : Word) (seat : Bool) : (t.continueAt next seat).tloc = t.tloc := rfl
@[simp] theorem Thread.continueAt_ih (t : Thread) (next : Word) (seat : Bool) : (t.continueAt next seat).ih = t.ih := rfl
@[simp] theorem Thread.continueAt_hv (t : Thread) (next : Word) (seat : Bool) : (t.continueAt next seat).hv = t.hv := rfl
@[simp] theorem Thread.continueAt_hd (t : Thread) (next : Word) (seat : Bool) : (t.continueAt next seat).hd = t.hd := rfl
@[simp] theorem Thread.continueAt_cord (t : Thread) (next : Word) (seat : Bool) : (t.continueAt next seat).cord = t.cord := rfl
@[simp] theorem Thread.continueAt_uord (t : Thread) (next : Word) (seat : Bool) : (t.continueAt next seat).uord = t.uord := rfl
@[simp] theorem Thread.continueAt_arr (t : Thread) (next : Word) (seat : Bool) : (t.continueAt next seat).arr = t.arr := rfl
@[simp] theorem Thread.continueAt_arrDone (t : Thread) (next : Word) (seat : Bool) : (t.continueAt next seat).arrDone = t.arrDone := rfl
@[simp] theorem Thread.continueAt_live (t : Thread) (next : Word) (seat : Bool) : (t.continueAt next seat).live = t.live := rfl
@[simp] theorem Thread.continueAt_ending (t : Thread) (next : Word) (seat : Bool) : (t.continueAt next seat).ending = t.ending := rfl
@[simp] theorem Thread.continueAt_status (t : Thread) (next : Word) (seat : Bool) : (t.continueAt next seat).status = t.status := rfl
@[simp] theorem Thread.continueAt_loads (t : Thread) (next : Word) (seat : Bool) : (t.continueAt next seat).loads = t.loads := rfl
@[simp] theorem Thread.continueAt_nextIdx (t : Thread) (next : Word) (seat : Bool) : (t.continueAt next seat).nextIdx = t.nextIdx := rfl
@[simp] theorem Thread.continueAt_errs (t : Thread) (next : Word) (seat : Bool) : (t.continueAt next seat).errs = t.errs := rfl
@[simp] theorem Thread.continueAt_busy (t : Thread) (next : Word) (seat : Bool) : (t.continueAt next seat).busy = t.busy := rfl
@[simp] theorem Thread.continueAt_w (t : Thread) (next : Word) (seat : Bool) : (t.continueAt next seat).w = t.w := rfl
@[simp] theorem Thread.continueAt_yieldTo (t : Thread) (next : Word) (seat : Bool) : (t.continueAt next seat).yieldTo = t.yieldTo := rfl
@[simp] theorem Thread.continueAt_depriTo (t : Thread) (next : Word) (seat : Bool) : (t.continueAt next seat).depriTo = t.depriTo := rfl
@[simp] theorem Thread.continueAt_freeAt (t : Thread) (next : Word) (seat : Bool) : (t.continueAt next seat).freeAt = t.freeAt := rfl
@[simp] theorem Thread.continueAt_atBreak (t : Thread) (next : Word) (seat : Bool) : (t.continueAt next seat).atBreak = t.atBreak := rfl
@[simp] theorem Thread.continueAt_after (t : Thread) (next : Word) (seat : Bool) : (t.continueAt next seat).after = t.after := rfl
@[simp] theorem Thread.jumpTo_uid (t : Thread) (target : Word) : (t.jumpTo target).uid = t.uid := rfl
@[simp] theorem Thread.jumpTo_tg (t : Thread) (target : Word) : (t.jumpTo target).tg = t.tg := rfl
@[simp] theorem Thread.jumpTo_nregs (t : Thread) (target : Word) : (t.jumpTo target).nregs = t.nregs := rfl
@[simp] theorem Thread.jumpTo_v (t : Thread) (target : Word) : (t.jumpTo target).v = t.v := rfl
@[simp] theorem Thread.jumpTo_p (t : Thread) (target : Word) : (t.jumpTo target).p = t.p := rfl
@[simp] theorem Thread.jumpTo_b (t : Thread) (target : Word) : (t.jumpTo target).b = t.b := rfl
@[simp] theorem Thread.jumpTo_ports (t : Thread) (target : Word) : (t.jumpTo target).ports = t.ports := rfl
@[simp] theorem Thread.jumpTo_loops (t : Thread) (target : Word) : (t.jumpTo target).loops = t.loops := rfl
@[simp] theorem Thread.jumpTo_cd (t : Thread) (target : Word) : (t.jumpTo target).cd = t.cd := rfl
@[simp] theorem Thread.jumpTo_rpc (t : Thread) (target : Word) : (t.jumpTo target).rpc = t.rpc := rfl
@[simp] theorem Thread.jumpTo_shadow (t : Thread) (target : Word) : (t.jumpTo target).shadow = t.shadow := rfl
@[simp] theorem Thread.jumpTo_tcause (t : Thread) (target : Word) : (t.jumpTo target).tcause = t.tcause := rfl
@[simp] theorem Thread.jumpTo_tloc (t : Thread) (target : Word) : (t.jumpTo target).tloc = t.tloc := rfl
@[simp] theorem Thread.jumpTo_ih (t : Thread) (target : Word) : (t.jumpTo target).ih = t.ih := rfl
@[simp] theorem Thread.jumpTo_hv (t : Thread) (target : Word) : (t.jumpTo target).hv = t.hv := rfl
@[simp] theorem Thread.jumpTo_hd (t : Thread) (target : Word) : (t.jumpTo target).hd = t.hd := rfl
@[simp] theorem Thread.jumpTo_cord (t : Thread) (target : Word) : (t.jumpTo target).cord = t.cord := rfl
@[simp] theorem Thread.jumpTo_uord (t : Thread) (target : Word) : (t.jumpTo target).uord = t.uord := rfl
@[simp] theorem Thread.jumpTo_arr (t : Thread) (target : Word) : (t.jumpTo target).arr = t.arr := rfl
@[simp] theorem Thread.jumpTo_arrDone (t : Thread) (target : Word) : (t.jumpTo target).arrDone = t.arrDone := rfl
@[simp] theorem Thread.jumpTo_live (t : Thread) (target : Word) : (t.jumpTo target).live = t.live := rfl
@[simp] theorem Thread.jumpTo_ending (t : Thread) (target : Word) : (t.jumpTo target).ending = t.ending := rfl
@[simp] theorem Thread.jumpTo_status (t : Thread) (target : Word) : (t.jumpTo target).status = t.status := rfl
@[simp] theorem Thread.jumpTo_loads (t : Thread) (target : Word) : (t.jumpTo target).loads = t.loads := rfl
@[simp] theorem Thread.jumpTo_nextIdx (t : Thread) (target : Word) : (t.jumpTo target).nextIdx = t.nextIdx := rfl
@[simp] theorem Thread.jumpTo_errs (t : Thread) (target : Word) : (t.jumpTo target).errs = t.errs := rfl
@[simp] theorem Thread.jumpTo_busy (t : Thread) (target : Word) : (t.jumpTo target).busy = t.busy := rfl
@[simp] theorem Thread.jumpTo_w (t : Thread) (target : Word) : (t.jumpTo target).w = t.w := rfl
@[simp] theorem Thread.jumpTo_yieldTo (t : Thread) (target : Word) : (t.jumpTo target).yieldTo = t.yieldTo := rfl
@[simp] theorem Thread.jumpTo_depriTo (t : Thread) (target : Word) : (t.jumpTo target).depriTo = t.depriTo := rfl
@[simp] theorem Thread.jumpTo_freeAt (t : Thread) (target : Word) : (t.jumpTo target).freeAt = t.freeAt := rfl
@[simp] theorem Thread.jumpTo_atBreak (t : Thread) (target : Word) : (t.jumpTo target).atBreak = t.atBreak := rfl
@[simp] theorem Thread.jumpTo_after (t : Thread) (target : Word) : (t.jumpTo target).after = t.after := rfl
@[simp] theorem Thread.startRegion_uid (t : Thread) (a : Word) : (t.startRegion a).uid = t.uid := rfl
@[simp] theorem Thread.startRegion_tg (t : Thread) (a : Word) : (t.startRegion a).tg = t.tg := rfl
@[simp] theorem Thread.startRegion_nregs (t : Thread) (a : Word) : (t.startRegion a).nregs = t.nregs := rfl
@[simp] theorem Thread.startRegion_v (t : Thread) (a : Word) : (t.startRegion a).v = t.v := rfl
@[simp] theorem Thread.startRegion_p (t : Thread) (a : Word) : (t.startRegion a).p = t.p := rfl
@[simp] theorem Thread.startRegion_b (t : Thread) (a : Word) : (t.startRegion a).b = t.b := rfl
@[simp] theorem Thread.startRegion_ports (t : Thread) (a : Word) : (t.startRegion a).ports = t.ports := rfl
@[simp] theorem Thread.startRegion_loops (t : Thread) (a : Word) : (t.startRegion a).loops = t.loops := rfl
@[simp] theorem Thread.startRegion_cd (t : Thread) (a : Word) : (t.startRegion a).cd = t.cd := rfl
@[simp] theorem Thread.startRegion_pc (t : Thread) (a : Word) : (t.startRegion a).pc = t.pc := rfl
@[simp] theorem Thread.startRegion_pre (t : Thread) (a : Word) : (t.startRegion a).pre = t.pre := rfl
@[simp] theorem Thread.startRegion_tcause (t : Thread) (a : Word) : (t.startRegion a).tcause = t.tcause := rfl
@[simp] theorem Thread.startRegion_tloc (t : Thread) (a : Word) : (t.startRegion a).tloc = t.tloc := rfl
@[simp] theorem Thread.startRegion_ih (t : Thread) (a : Word) : (t.startRegion a).ih = t.ih := rfl
@[simp] theorem Thread.startRegion_hv (t : Thread) (a : Word) : (t.startRegion a).hv = t.hv := rfl
@[simp] theorem Thread.startRegion_hd (t : Thread) (a : Word) : (t.startRegion a).hd = t.hd := rfl
@[simp] theorem Thread.startRegion_cord (t : Thread) (a : Word) : (t.startRegion a).cord = t.cord := rfl
@[simp] theorem Thread.startRegion_uord (t : Thread) (a : Word) : (t.startRegion a).uord = t.uord := rfl
@[simp] theorem Thread.startRegion_arr (t : Thread) (a : Word) : (t.startRegion a).arr = t.arr := rfl
@[simp] theorem Thread.startRegion_arrDone (t : Thread) (a : Word) : (t.startRegion a).arrDone = t.arrDone := rfl
@[simp] theorem Thread.startRegion_live (t : Thread) (a : Word) : (t.startRegion a).live = t.live := rfl
@[simp] theorem Thread.startRegion_ending (t : Thread) (a : Word) : (t.startRegion a).ending = t.ending := rfl
@[simp] theorem Thread.startRegion_status (t : Thread) (a : Word) : (t.startRegion a).status = t.status := rfl
@[simp] theorem Thread.startRegion_park (t : Thread) (a : Word) : (t.startRegion a).park = t.park := rfl
@[simp] theorem Thread.startRegion_resume_ (t : Thread) (a : Word) : (t.startRegion a).resume_ = t.resume_ := rfl
@[simp] theorem Thread.startRegion_mark (t : Thread) (a : Word) : (t.startRegion a).mark = t.mark := rfl
@[simp] theorem Thread.startRegion_loads (t : Thread) (a : Word) : (t.startRegion a).loads = t.loads := rfl
@[simp] theorem Thread.startRegion_nextIdx (t : Thread) (a : Word) : (t.startRegion a).nextIdx = t.nextIdx := rfl
@[simp] theorem Thread.startRegion_errs (t : Thread) (a : Word) : (t.startRegion a).errs = t.errs := rfl
@[simp] theorem Thread.startRegion_busy (t : Thread) (a : Word) : (t.startRegion a).busy = t.busy := rfl
@[simp] theorem Thread.startRegion_w (t : Thread) (a : Word) : (t.startRegion a).w = t.w := rfl
@[simp] theorem Thread.startRegion_yieldTo (t : Thread) (a : Word) : (t.startRegion a).yieldTo = t.yieldTo := rfl
@[simp] theorem Thread.startRegion_depriTo (t : Thread) (a : Word) : (t.startRegion a).depriTo = t.depriTo := rfl
@[simp] theorem Thread.startRegion_freeAt (t : Thread) (a : Word) : (t.startRegion a).freeAt = t.freeAt := rfl
@[simp] theorem Thread.startRegion_pbuf (t : Thread) (a : Word) : (t.startRegion a).pbuf = t.pbuf := rfl
@[simp] theorem Thread.startRegion_seatPt (t : Thread) (a : Word) : (t.startRegion a).seatPt = t.seatPt := rfl
@[simp] theorem Thread.startRegion_halted (t : Thread) (a : Word) : (t.startRegion a).halted = t.halted := rfl
@[simp] theorem Thread.startRegion_atBreak (t : Thread) (a : Word) : (t.startRegion a).atBreak = t.atBreak := rfl
@[simp] theorem Thread.startRegion_stepping (t : Thread) (a : Word) : (t.startRegion a).stepping = t.stepping := rfl
@[simp] theorem Thread.startRegion_skip (t : Thread) (a : Word) : (t.startRegion a).skip = t.skip := rfl
@[simp] theorem Thread.startRegion_ftok (t : Thread) (a : Word) : (t.startRegion a).ftok = t.ftok := rfl
@[simp] theorem Thread.startRegion_places (t : Thread) (a : Word) : (t.startRegion a).places = t.places := rfl
@[simp] theorem Thread.startRegion_offer (t : Thread) (a : Word) : (t.startRegion a).offer = t.offer := rfl
@[simp] theorem Thread.startRegion_held (t : Thread) (a : Word) : (t.startRegion a).held = t.held := rfl
@[simp] theorem Thread.startRegion_after (t : Thread) (a : Word) : (t.startRegion a).after = t.after := rfl
@[simp] theorem Thread.dropPrefetched_uid (t : Thread) : (t.dropPrefetched).uid = t.uid := rfl
@[simp] theorem Thread.dropPrefetched_tg (t : Thread) : (t.dropPrefetched).tg = t.tg := rfl
@[simp] theorem Thread.dropPrefetched_nregs (t : Thread) : (t.dropPrefetched).nregs = t.nregs := rfl
@[simp] theorem Thread.dropPrefetched_v (t : Thread) : (t.dropPrefetched).v = t.v := rfl
@[simp] theorem Thread.dropPrefetched_p (t : Thread) : (t.dropPrefetched).p = t.p := rfl
@[simp] theorem Thread.dropPrefetched_b (t : Thread) : (t.dropPrefetched).b = t.b := rfl
@[simp] theorem Thread.dropPrefetched_loops (t : Thread) : (t.dropPrefetched).loops = t.loops := rfl
@[simp] theorem Thread.dropPrefetched_cd (t : Thread) : (t.dropPrefetched).cd = t.cd := rfl
@[simp] theorem Thread.dropPrefetched_rpc (t : Thread) : (t.dropPrefetched).rpc = t.rpc := rfl
@[simp] theorem Thread.dropPrefetched_shadow (t : Thread) : (t.dropPrefetched).shadow = t.shadow := rfl
@[simp] theorem Thread.dropPrefetched_pc (t : Thread) : (t.dropPrefetched).pc = t.pc := rfl
@[simp] theorem Thread.dropPrefetched_pre (t : Thread) : (t.dropPrefetched).pre = t.pre := rfl
@[simp] theorem Thread.dropPrefetched_tcause (t : Thread) : (t.dropPrefetched).tcause = t.tcause := rfl
@[simp] theorem Thread.dropPrefetched_tloc (t : Thread) : (t.dropPrefetched).tloc = t.tloc := rfl
@[simp] theorem Thread.dropPrefetched_ih (t : Thread) : (t.dropPrefetched).ih = t.ih := rfl
@[simp] theorem Thread.dropPrefetched_hv (t : Thread) : (t.dropPrefetched).hv = t.hv := rfl
@[simp] theorem Thread.dropPrefetched_hd (t : Thread) : (t.dropPrefetched).hd = t.hd := rfl
@[simp] theorem Thread.dropPrefetched_cord (t : Thread) : (t.dropPrefetched).cord = t.cord := rfl
@[simp] theorem Thread.dropPrefetched_uord (t : Thread) : (t.dropPrefetched).uord = t.uord := rfl
@[simp] theorem Thread.dropPrefetched_arr (t : Thread) : (t.dropPrefetched).arr = t.arr := rfl
@[simp] theorem Thread.dropPrefetched_arrDone (t : Thread) : (t.dropPrefetched).arrDone = t.arrDone := rfl
@[simp] theorem Thread.dropPrefetched_live (t : Thread) : (t.dropPrefetched).live = t.live := rfl
@[simp] theorem Thread.dropPrefetched_ending (t : Thread) : (t.dropPrefetched).ending = t.ending := rfl
@[simp] theorem Thread.dropPrefetched_status (t : Thread) : (t.dropPrefetched).status = t.status := rfl
@[simp] theorem Thread.dropPrefetched_park (t : Thread) : (t.dropPrefetched).park = t.park := rfl
@[simp] theorem Thread.dropPrefetched_resume_ (t : Thread) : (t.dropPrefetched).resume_ = t.resume_ := rfl
@[simp] theorem Thread.dropPrefetched_mark (t : Thread) : (t.dropPrefetched).mark = t.mark := rfl
@[simp] theorem Thread.dropPrefetched_loads (t : Thread) : (t.dropPrefetched).loads = t.loads := rfl
@[simp] theorem Thread.dropPrefetched_nextIdx (t : Thread) : (t.dropPrefetched).nextIdx = t.nextIdx := rfl
@[simp] theorem Thread.dropPrefetched_errs (t : Thread) : (t.dropPrefetched).errs = t.errs := rfl
@[simp] theorem Thread.dropPrefetched_busy (t : Thread) : (t.dropPrefetched).busy = t.busy := rfl
@[simp] theorem Thread.dropPrefetched_w (t : Thread) : (t.dropPrefetched).w = t.w := rfl
@[simp] theorem Thread.dropPrefetched_yieldTo (t : Thread) : (t.dropPrefetched).yieldTo = t.yieldTo := rfl
@[simp] theorem Thread.dropPrefetched_depriTo (t : Thread) : (t.dropPrefetched).depriTo = t.depriTo := rfl
@[simp] theorem Thread.dropPrefetched_freeAt (t : Thread) : (t.dropPrefetched).freeAt = t.freeAt := rfl
@[simp] theorem Thread.dropPrefetched_pbuf (t : Thread) : (t.dropPrefetched).pbuf = t.pbuf := rfl
@[simp] theorem Thread.dropPrefetched_seatPt (t : Thread) : (t.dropPrefetched).seatPt = t.seatPt := rfl
@[simp] theorem Thread.dropPrefetched_halted (t : Thread) : (t.dropPrefetched).halted = t.halted := rfl
@[simp] theorem Thread.dropPrefetched_atBreak (t : Thread) : (t.dropPrefetched).atBreak = t.atBreak := rfl
@[simp] theorem Thread.dropPrefetched_stepping (t : Thread) : (t.dropPrefetched).stepping = t.stepping := rfl
@[simp] theorem Thread.dropPrefetched_skip (t : Thread) : (t.dropPrefetched).skip = t.skip := rfl
@[simp] theorem Thread.dropPrefetched_ftok (t : Thread) : (t.dropPrefetched).ftok = t.ftok := rfl
@[simp] theorem Thread.dropPrefetched_places (t : Thread) : (t.dropPrefetched).places = t.places := rfl
@[simp] theorem Thread.dropPrefetched_offer (t : Thread) : (t.dropPrefetched).offer = t.offer := rfl
@[simp] theorem Thread.dropPrefetched_held (t : Thread) : (t.dropPrefetched).held = t.held := rfl
@[simp] theorem Thread.dropPrefetched_after (t : Thread) : (t.dropPrefetched).after = t.after := rfl
@[simp] theorem Thread.touched_uid (t : Thread) (l : Loc) (n : Nat) : (t.touched l n).uid = t.uid := rfl
@[simp] theorem Thread.touched_tg (t : Thread) (l : Loc) (n : Nat) : (t.touched l n).tg = t.tg := rfl
@[simp] theorem Thread.touched_nregs (t : Thread) (l : Loc) (n : Nat) : (t.touched l n).nregs = t.nregs := rfl
@[simp] theorem Thread.touched_v (t : Thread) (l : Loc) (n : Nat) : (t.touched l n).v = t.v := rfl
@[simp] theorem Thread.touched_p (t : Thread) (l : Loc) (n : Nat) : (t.touched l n).p = t.p := rfl
@[simp] theorem Thread.touched_b (t : Thread) (l : Loc) (n : Nat) : (t.touched l n).b = t.b := rfl
@[simp] theorem Thread.touched_loops (t : Thread) (l : Loc) (n : Nat) : (t.touched l n).loops = t.loops := rfl
@[simp] theorem Thread.touched_cd (t : Thread) (l : Loc) (n : Nat) : (t.touched l n).cd = t.cd := rfl
@[simp] theorem Thread.touched_rpc (t : Thread) (l : Loc) (n : Nat) : (t.touched l n).rpc = t.rpc := rfl
@[simp] theorem Thread.touched_shadow (t : Thread) (l : Loc) (n : Nat) : (t.touched l n).shadow = t.shadow := rfl
@[simp] theorem Thread.touched_pc (t : Thread) (l : Loc) (n : Nat) : (t.touched l n).pc = t.pc := rfl
@[simp] theorem Thread.touched_pre (t : Thread) (l : Loc) (n : Nat) : (t.touched l n).pre = t.pre := rfl
@[simp] theorem Thread.touched_tcause (t : Thread) (l : Loc) (n : Nat) : (t.touched l n).tcause = t.tcause := rfl
@[simp] theorem Thread.touched_tloc (t : Thread) (l : Loc) (n : Nat) : (t.touched l n).tloc = t.tloc := rfl
@[simp] theorem Thread.touched_ih (t : Thread) (l : Loc) (n : Nat) : (t.touched l n).ih = t.ih := rfl
@[simp] theorem Thread.touched_hv (t : Thread) (l : Loc) (n : Nat) : (t.touched l n).hv = t.hv := rfl
@[simp] theorem Thread.touched_hd (t : Thread) (l : Loc) (n : Nat) : (t.touched l n).hd = t.hd := rfl
@[simp] theorem Thread.touched_cord (t : Thread) (l : Loc) (n : Nat) : (t.touched l n).cord = t.cord := rfl
@[simp] theorem Thread.touched_uord (t : Thread) (l : Loc) (n : Nat) : (t.touched l n).uord = t.uord := rfl
@[simp] theorem Thread.touched_arr (t : Thread) (l : Loc) (n : Nat) : (t.touched l n).arr = t.arr := rfl
@[simp] theorem Thread.touched_arrDone (t : Thread) (l : Loc) (n : Nat) : (t.touched l n).arrDone = t.arrDone := rfl
@[simp] theorem Thread.touched_live (t : Thread) (l : Loc) (n : Nat) : (t.touched l n).live = t.live := rfl
@[simp] theorem Thread.touched_ending (t : Thread) (l : Loc) (n : Nat) : (t.touched l n).ending = t.ending := rfl
@[simp] theorem Thread.touched_status (t : Thread) (l : Loc) (n : Nat) : (t.touched l n).status = t.status := rfl
@[simp] theorem Thread.touched_park (t : Thread) (l : Loc) (n : Nat) : (t.touched l n).park = t.park := rfl
@[simp] theorem Thread.touched_resume_ (t : Thread) (l : Loc) (n : Nat) : (t.touched l n).resume_ = t.resume_ := rfl
@[simp] theorem Thread.touched_mark (t : Thread) (l : Loc) (n : Nat) : (t.touched l n).mark = t.mark := rfl
@[simp] theorem Thread.touched_loads (t : Thread) (l : Loc) (n : Nat) : (t.touched l n).loads = t.loads := rfl
@[simp] theorem Thread.touched_nextIdx (t : Thread) (l : Loc) (n : Nat) : (t.touched l n).nextIdx = t.nextIdx := rfl
@[simp] theorem Thread.touched_errs (t : Thread) (l : Loc) (n : Nat) : (t.touched l n).errs = t.errs := rfl
@[simp] theorem Thread.touched_busy (t : Thread) (l : Loc) (n : Nat) : (t.touched l n).busy = t.busy := rfl
@[simp] theorem Thread.touched_w (t : Thread) (l : Loc) (n : Nat) : (t.touched l n).w = t.w := rfl
@[simp] theorem Thread.touched_yieldTo (t : Thread) (l : Loc) (n : Nat) : (t.touched l n).yieldTo = t.yieldTo := rfl
@[simp] theorem Thread.touched_depriTo (t : Thread) (l : Loc) (n : Nat) : (t.touched l n).depriTo = t.depriTo := rfl
@[simp] theorem Thread.touched_freeAt (t : Thread) (l : Loc) (n : Nat) : (t.touched l n).freeAt = t.freeAt := rfl
@[simp] theorem Thread.touched_pbuf (t : Thread) (l : Loc) (n : Nat) : (t.touched l n).pbuf = t.pbuf := rfl
@[simp] theorem Thread.touched_seatPt (t : Thread) (l : Loc) (n : Nat) : (t.touched l n).seatPt = t.seatPt := rfl
@[simp] theorem Thread.touched_halted (t : Thread) (l : Loc) (n : Nat) : (t.touched l n).halted = t.halted := rfl
@[simp] theorem Thread.touched_atBreak (t : Thread) (l : Loc) (n : Nat) : (t.touched l n).atBreak = t.atBreak := rfl
@[simp] theorem Thread.touched_stepping (t : Thread) (l : Loc) (n : Nat) : (t.touched l n).stepping = t.stepping := rfl
@[simp] theorem Thread.touched_skip (t : Thread) (l : Loc) (n : Nat) : (t.touched l n).skip = t.skip := rfl
@[simp] theorem Thread.touched_ftok (t : Thread) (l : Loc) (n : Nat) : (t.touched l n).ftok = t.ftok := rfl
@[simp] theorem Thread.touched_places (t : Thread) (l : Loc) (n : Nat) : (t.touched l n).places = t.places := rfl
@[simp] theorem Thread.touched_offer (t : Thread) (l : Loc) (n : Nat) : (t.touched l n).offer = t.offer := rfl
@[simp] theorem Thread.touched_held (t : Thread) (l : Loc) (n : Nat) : (t.touched l n).held = t.held := rfl
@[simp] theorem Thread.touched_after (t : Thread) (l : Loc) (n : Nat) : (t.touched l n).after = t.after := rfl

@[simp] theorem Thread.setReg_v (t : Thread) (n : Nat) (r : Word) : (t.setReg n r).v = setAt t.v n r := rfl
@[simp] theorem Thread.setPred_p (t : Thread) (n : Nat) (x : Bool) : (t.setPred n x).p = setAt t.p n x := rfl
@[simp] theorem Thread.jumpTo_pc (t : Thread) (a : Word) : (t.jumpTo a).pc = a := rfl
@[simp] theorem Thread.jumpTo_pre (t : Thread) (a : Word) : (t.jumpTo a).pre = [] := rfl
@[simp] theorem Thread.continueAt_pre (t : Thread) (a : Word) (b : Bool) : (t.continueAt a b).pre = [] := rfl
@[simp] theorem Thread.continueAt_loops (t : Thread) (a : Word) (b : Bool) : (t.continueAt a b).loops = (endCheck t.cd a t.loops).1 := rfl
@[simp] theorem Thread.continueAt_pc (t : Thread) (a : Word) (b : Bool) : (t.continueAt a b).pc = (endCheck t.cd a t.loops).2 := rfl
@[simp] theorem Thread.startRegion_rpc (t : Thread) (a : Word) : (t.startRegion a).rpc = a := rfl

/-! ## Lists -/

@[simp] theorem setAt_length {α : Type} : ∀ (xs : List α) (i : Nat) (y : α), (setAt xs i y).length = xs.length
  | [], _, _ => rfl
  | _ :: _, 0, _ => rfl
  | x :: xs, i + 1, y => by simp [setAt, setAt_length xs i y]
theorem getD_setAt_same {α : Type} : ∀ (xs : List α) (i : Nat) (y d : α), i < xs.length → (setAt xs i y).getD i d = y
  | [], _, _, _, h => by cases h
  | _ :: _, 0, _, _, _ => rfl
  | _ :: xs, i + 1, y, d, h => getD_setAt_same xs i y d (Nat.lt_of_succ_lt_succ h)
theorem getD_setAt_ne {α : Type} : ∀ (xs : List α) (i j : Nat) (y d : α), j ≠ i → (setAt xs i y).getD j d = xs.getD j d
  | [], _, _, _, _, _ => rfl
  | _ :: _, 0, 0, _, _, h => absurd rfl h
  | _ :: _, 0, _ + 1, _, _, _ => rfl
  | _ :: _, _ + 1, 0, _, _, _ => rfl
  | _ :: xs, i + 1, j + 1, y, d, h => getD_setAt_ne xs i j y d fun e => h (congrArg (· + 1) e)

end Sys2Proof.Machine
end

