-- ==== Sys2Proof/Laws/Run.lean ====
section
/-! SUPPORT. What the run of an instruction answers: its effect, the skip under a false guard, and the traps of decode and of a pending
error. -/

namespace Sys2Proof.Machine

/-! ## run -/

/-- An instruction that is ready runs its effect. -/
theorem run_ready {i : Instr} {s s' : State} {tk : Nat} {t : Thread} {vals : List Word} (h : Ready i s tk t vals s') (body : Body)
    (off : Nat → Thread → State → Res) : run i s body off = .next (finish tk (instrInfo i) ⟨vals, t.before⟩ (body tk t vals s')) := by
  have hg : (!t.guard (instrInfo i).guard && (instrInfo i).mode != .sel) = false := by
    rcases h.guard with hg | hg <;> simp [hg]
  unfold run
  rw [h.cur]
  dsimp only
  rw [h.thread]
  rcases h.gets with ⟨h1, h2, h3, h4⟩ | ⟨⟨x, h1, rfl⟩, rfl⟩
  · simp only [h.valid, h.noErr, h.noWait, hg, h1, h2, h3, h4, Thread.before, Option.map_none, Option.getD_none, Bool.or_false, Bool.not_true, Bool.false_eq_true, if_false]
  · simp only [h.valid, h.noErr, h.noWait, hg, h1, Thread.before, Option.map_some, Option.getD_some, Bool.not_true, Bool.false_eq_true, if_false]

/-- An instruction whose guard is false runs what a false guard does. -/
theorem run_skipped {i : Instr} {s : State} {tk : Nat} {t : Thread} (h : Skipped i s tk t) (body : Body)
    (off : Nat → Thread → State → Res) : run i s body off = .next (finish tk (instrInfo i) ⟨[], t.ports⟩ (off tk t s)) := by
  have hm : ((instrInfo i).mode != GMode.sel) = true := by simp [h.mode]
  unfold run
  rw [h.cur]
  dsimp only
  rw [h.thread]
  simp only [h.valid, h.noErr, h.noWait, h.guard, hm, Bool.not_true, Bool.not_false, Bool.and_true, Bool.false_eq_true, if_false, if_true]

/-- An instruction that decode refuses for its operands traps with OPERAND (R51). -/
theorem run_operand {i : Instr} {s : State} {tk : Nat} {t : Thread} (hc : s.cur = some tk) (ht : s.thread? tk = some t)
    (h : operandOk i t.nregs t.pre = false) (body : Body) (off : Nat → Thread → State → Res) :
    run i s body off = .next (s.deliver tk cOPERAND 0 t.pc) := by
  unfold run
  rw [hc]
  dsimp only
  rw [ht]
  simp only [h, Bool.not_false, if_true]

/-- An instruction at which a pending error is due traps with it (R78). -/
theorem run_due {i : Instr} {s : State} {tk : Nat} {t : Thread} {e : PendErr} (hc : s.cur = some tk) (ht : s.thread? tk = some t)
    (h : operandOk i t.nregs t.pre = true) (he : (instrInfo i).dueError t = some e) (body : Body) (off : Nat → Thread → State → Res) :
    run i s body off = .next (((s.setThread tk { t with errs := t.errs.erase e }).restorePorts tk t.before).deliver tk e.cause 0 e.tloc) := by
  unfold run
  rw [hc]
  dsimp only
  rw [ht]
  simp only [h, he, Bool.not_true, Bool.false_eq_true, if_false]

/-- A run of the current thread always answers a next state. -/
theorem run_next {i : Instr} {s : State} {tk : Nat} {t : Thread} (hc : s.cur = some tk) (ht : s.thread? tk = some t) (body : Body)
    (off : Nat → Thread → State → Res) : ∃ s', run i s body off = .next s' := by
  unfold run
  rw [hc]
  dsimp only
  rw [ht]
  dsimp only
  repeat' split
  all_goals exact ⟨_, rfl⟩

/-! ## Results -/

theorem finish_seq {tk : Nat} {i : Instr} {old : Held} {s : State} {t : Thread} (h : s.thread? tk = some t) :
    finish tk (instrInfo i) old (.seq s) = s.setThread tk (t.past i) := State.modThread_eq _ h
theorem finish_seqR {tk : Nat} {i : Instr} {old : Held} {s : State} {t : Thread} (h : s.thread? tk = some t) :
    finish tk (instrInfo i) old (.seqR s) = s.setThread tk (t.pastR i) := State.modThread_eq _ h
theorem finish_jump {tk : Nat} {i : Info} {old : Held} {s : State} {t : Thread} {a : Word} (h : s.thread? tk = some t) :
    finish tk i old (.jump s a) = s.setThread tk (t.jumpTo a) := State.modThread_eq _ h
theorem State.setThread_setThread (s : State) (tk : Nat) (t u : Thread) : (s.setThread tk t).setThread tk u = s.setThread tk u := by
  unfold State.setThread; rw [AMap.set_set]

/-- What an instruction that runs resultBody delivers. -/
theorem delivers_of {i : Instr} {s s' : State} {tk : Nat} {t : Thread} {vals : List Word} (h : Ready i s tk t vals s')
    (f : List Word → Word) (off : Nat → Thread → State → Res) (he : exec i s = run i s (resultBody (instrInfo i) f) off) :
    Delivers i s tk t s' (f vals) := by
  intro u hu
  rw [he, run_ready h]
  unfold resultBody
  dsimp only
  rcases (instrInfo i).dst with _ | n | k
  · dsimp only
    rw [State.modThread_eq _ hu, finish_seq (State.thread?_setThread s' tk _), State.setThread_setThread]
  · dsimp only
    rw [State.modThread_eq _ hu, finish_seq (State.thread?_setThread s' tk _), State.setThread_setThread]
  · dsimp only
    intro hc
    rw [hu]
    dsimp only
    rw [hc]
    dsimp only
    have hw : ∃ w, (s'.outWrite tk k.1 (f vals) t.pc).thread? tk = some w := by
      unfold State.outWrite
      rw [hu]
      dsimp only
      split
      · exact ⟨u, hu⟩
      · exact ⟨_, State.thread?_setThread _ _ _⟩
    obtain ⟨w, hw⟩ := hw
    exact ⟨w, hw, by rw [State.modThread_eq _ hw, finish_seq (State.thread?_setThread _ tk _), State.setThread_setThread]⟩

theorem gives3_of {mk : Op3 → Instr} {f : Word → Word → Word} (he : ∀ o s, exec (mk o) s = run2 (mk o) s f) : Gives3 mk f :=
  fun o s _ _ _ _ _ h => delivers_of h (fun v => f (v.getD 0 0) (v.getD 1 0)) (fun _ _ s => .seq s) (he o s)
theorem givesAcc_of {mk : Op3 → Instr} {f : Word → Word → Word → Word} (he : ∀ o s, exec (mk o) s = run3 (mk o) s f) : GivesAcc mk f :=
  fun o s _ _ _ _ _ _ h => delivers_of h (fun v => f (v.getD 0 0) (v.getD 1 0) (v.getD 2 0)) (fun _ _ s => .seq s) (he o s)
theorem gives2_of {mk : Op2 → Instr} {f : Word → Word} (he : ∀ o s, exec (mk o) s = run1 (mk o) s f) : Gives2 mk f :=
  fun o s _ _ _ _ h => delivers_of h (fun v => f (v.getD 0 0)) (fun _ _ s => .seq s) (he o s)
theorem gives2Acc_of {mk : Op2 → Instr} {f : Word → Word → Word} (he : ∀ o s, exec (mk o) s = run2 (mk o) s f) : Gives2Acc mk f :=
  fun o s _ _ _ _ _ h => delivers_of h (fun v => f (v.getD 0 0) (v.getD 1 0)) (fun _ _ s => .seq s) (he o s)
theorem givesC_of {mk : C16 → Instr} {f : Word → Word → Word} (he : ∀ o s, exec (mk o) s = run2 (mk o) s f) : GivesC mk f :=
  fun o s _ _ _ _ _ h => delivers_of h (fun v => f (v.getD 0 0) (v.getD 1 0)) (fun _ _ s => .seq s) (he o s)
theorem givesI_of {mk : C16I → Instr} {f : BitVec 5 → Word → Word} (he : ∀ o s, exec (mk o) s = run1 (mk o) s (f o.imm)) : GivesI mk f :=
  fun o s _ _ _ _ h => delivers_of h (fun v => f o.imm (v.getD 0 0)) (fun _ _ s => .seq s) (he o s)

/-! ## Accesses and orders -/

theorem afterOut_ready {s s' : State} {tk : Nat} {t : Thread} (h : WentOut s tk s') (k : State → Res) : afterOut tk t s k = k s' := by
  unfold afterOut
  simp only [h.out, h.none, if_true]

/-- An instruction that goes on keeps no place. -/
theorem keepPlace_goesOn {r : Res} (h : r.GoesOn) (tk : Nat) (va : Word) (l : Loc) : keepPlace tk va l r = r := by
  cases r <;> first | rfl | exact h.elim

theorem presentAccess_here {s : State} {l : Loc} (h : s.isAbsent l = false) (k : Loc → State → Res) : presentAccess l s k = k l s := by
  cases l with
  | scratch u o => unfold presentAccess; rw [h]; rfl
  | _ => rfl

theorem placeAccess_ready {s s' : State} {tk : Nat} {t : Thread} {va : Word} {n kind : Nat} {l : Loc} (h : Placed s tk t va n kind l s')
    (k : Loc → State → Res) (hk : (k l s').GoesOn) : placeAccess tk t va n kind s k = k l s' := by
  unfold placeAccess
  rcases h with ⟨h1, h2⟩ | ⟨h1, rfl⟩
  · rw [h1]
    dsimp only
    rw [h2]
    dsimp only
    rw [keepPlace_goesOn hk]
  · rw [h1]

theorem watchedAccess_ready {s : State} {t : Thread} {l : Loc} {n : Nat} {rd wr : Bool} (hw : s.watchHit t l n rd wr = none)
    (hp : s.isAbsent l = false) (k : Loc → State → Res) : watchedAccess t l n rd wr s k = k l s := by
  unfold watchedAccess
  rw [hw]
  exact presentAccess_here hp k

theorem checkedAccess_ready {s s' : State} {tk : Nat} {t : Thread} {va : Word} {n kind : Nat} {rd wr : Bool} {l : Loc}
    (h : Reaches s tk t va n kind rd wr l s') (k : Loc → State → Res) (hk : (k l s').GoesOn) :
    checkedAccess tk t va n kind rd wr s k = k l s' := by
  have hp := watchedAccess_ready h.unwatched h.here k
  unfold checkedAccess
  rw [placeAccess_ready h.checks _ (by rw [hp]; exact hk), hp]

theorem whenPerformed_ready {s s' : State} {tk : Nat} {t : Thread} {sc : Scope} {clean : Bool} (h : Performed s tk t sc s' clean)
    (k : State → Res) : whenPerformed tk t sc clean s k = k s' := by
  have h1 := h.out
  have h2 := h.errors
  have h3 := h.own
  have h4 := h.core
  have h5 := h.delivered
  have h6 := h.uniforms
  unfold whenPerformed
  cases sc <;> cases clean <;> simp_all [isWide]

theorem atomRelease_ready {s s' : State} {tk : Nat} {t : Thread} {ar : Bool} {sc : Scope} {l : Loc} (h : Released ar s tk t sc l s')
    (k : State → Res) : atomRelease ar sc tk t l s k = k s' := by
  unfold atomRelease
  cases ar with
  | false => rw [show s' = s from h]; rfl
  | true => obtain ⟨s1, h1, rfl⟩ := h; simp only [if_true]; rw [whenPerformed_ready h1]

theorem promoted_ready {pr : Bool} {s s' : State} {t : Thread} {l : Loc} (h : Promoted pr s t l s') (tk : Nat) (k : State → Res) :
    promoted pr tk t l s k = k s' := by
  unfold promoted
  unfold Promoted at h
  cases pr with
  | false => rw [show s' = s from h]; rfl
  | true =>
    simp only [if_true] at h
    dsimp only [Bool.not_true]
    rw [if_neg (by decide)]
    split at h
    · rename_i he; first | rw [he, h] | rw [h]
    · rename_i x he
      obtain ⟨rfl, hd⟩ := h
      first
        | (rw [he]; dsimp only; rw [hd]; rfl)
        | (rw [hd]; rfl)

end Sys2Proof.Machine
end

