-- ==== Sys2Proof/Laws/Device.lean ====
section
/-! SUPPORT. What the operations of the sequencer, the seats, the fault queue, the island and the board change and what they leave. -/

namespace Sys2Proof.Machine

/-- The element that was put. -/
theorem setAt_getD_same {α} (d : α) : ∀ (xs : List α) n y, n < xs.length → (setAt xs n y).getD n d = y
  | [], n, y, h => by simp at h
  | x :: xs, 0, y, h => by simp [setAt]
  | x :: xs, n+1, y, h => by
    have := setAt_getD_same d xs n y (by simpa using h)
    simpa [setAt] using this

/-- Putting what is there changes nothing. -/
theorem setAt_getD_id {α} (d : α) : ∀ (xs : List α) n, setAt xs n (xs.getD n d) = xs
  | [], n => rfl
  | x :: xs, 0 => rfl
  | x :: xs, n+1 => by
    have := setAt_getD_id d xs n
    simpa [setAt] using this

/-- A changed chain. -/
theorem State.modChain_chain (s : State) {n} (f) (h : n < s.hub.chains.length) : (s.modChain n f).chain n = f (s.chain n) :=
  setAt_getD_same _ _ _ _ h

/-- A change that changes nothing. -/
theorem State.modChain_id (s : State) {n f} (h : f (s.chain n) = s.chain n) : s.modChain n f = s := by
  unfold State.modChain State.modHub
  show { s with hub := { s.hub with chains := setAt s.hub.chains n (f (s.chain n)) } } = s
  rw [h]
  show { s with hub := { s.hub with chains := setAt s.hub.chains n (s.hub.chains.getD n {}) } } = s
  rw [setAt_getD_id]

/-- A chain entry that is taken up reaches its meaning (R320). -/
theorem Takes.take {s n ty bs s'} (h : Takes s n ty bs s') (k) : s.takeEntry n ty k = k bs s' := by
  unfold State.takeEntry
  dsimp only
  have e0 : (decide (n ≥ 16) || decide ((s.chain n).stat = 2) || !(s.chain n).hasEntry || decide ((s.chain n).phase = .retiring) || !s.hub.bootDone) = false := by
    have h1 := h.chain
    simp only [h.has, h.booted, Bool.or_eq_false_iff, decide_eq_false_iff_not]
    refine ⟨⟨⟨⟨by omega, h.runs⟩, rfl⟩, ?_⟩, rfl⟩
    rcases h.entry with ⟨h2, _⟩ | ⟨h2, _⟩ <;> rw [h2] <;> simp
  rw [if_neg (by rw [e0]; simp)]
  rcases h.entry with ⟨h2, h3, h4⟩ | ⟨h2, h3, h4, h5, h6, h7, h8, h10⟩
  · rw [if_pos h2, h3, if_pos h.kind, h4]
  · obtain ⟨h10, rfl⟩ := h10
    rw [if_neg (by rw [h2]; simp), if_neg (by simp [h3]), if_neg (by rw [h4]; simp), h6.1]
    dsimp only
    rw [h5, h6.2]
    simp only [Bool.false_eq_true, if_false, h7, h.kind]
    rw [if_neg (by simp)]
    have : (match (s.chain n).lastSeq with | some q => decide (field bs 8 8 ≤ q) | none => false) = false := by
      cases hq : (s.chain n).lastSeq with
      | none => rfl
      | some q => have := h8 q hq; simp; omega
    rw [if_neg (by intro hh; exact absurd (this.symm.trans hh) (by simp)), if_neg (by rcases h10 with h9 | h9 <;> simp [h9] <;> cases hj : (s.chain n).job <;> simp_all)]
    rfl

/-- It is one of the chains. -/
theorem Takes.len {s n ty bs s'} (h : Takes s n ty bs s') : n < s'.hub.chains.length := by
  have h1 : n < s.hub.chains.length := by
    apply Decidable.byContradiction
    intro hn
    have := h.has
    have e : s.chain n = {} := by unfold State.chain; rw [List.getD_eq_getElem?_getD, List.getElem?_eq_none (by omega)]; rfl
    rw [e] at this
    exact absurd this (by decide)
  rcases h.entry with ⟨_, _, h4⟩ | ⟨_, _, _, _, _, _, _, _, h10⟩
  · rw [h4]; exact h1
  · rw [h10]; show n < (setAt _ _ _).length; rw [Machine.setAt_length]; exact h1

/-- Taking it up leaves memory and units. -/
theorem Takes.same {s n ty bs s'} (h : Takes s n ty bs s') : s'.mem = s.mem ∧ s'.units = s.units := by
  rcases h.entry with ⟨_, _, h4⟩ | ⟨_, _, _, _, _, _, _, _, h10⟩
  · rw [h4]; exact ⟨rfl, rfl⟩
  · rw [h10]; exact ⟨rfl, rfl⟩

/-- Throttling changes the shares of the residents alone (R299). -/
theorem State.throttle_keeps (s : State) (ck) : (s.throttle ck).threads = s.threads ∧ (s.throttle ck).mem = s.mem ∧
    ∀ uid u, s.unit? uid = some u → ∃ f, (s.throttle ck).unit? uid = some { u with f := f } := by
  unfold State.throttle
  dsimp only
  generalize hpm : (s.residents ck).foldl (fun m u => Nat.max m (s.prioOf u)) 0 = pm
  generalize s.residents ck = us
  suffices ∀ (us : List Nat) (x : State), (us.foldl (fun x u => x.modUnit u fun y => { y with f := 2 ^ (pm - x.prioOf u) }) x).threads = x.threads ∧ (us.foldl (fun x u => x.modUnit u fun y => { y with f := 2 ^ (pm - x.prioOf u) }) x).mem = x.mem ∧
    ∀ uid u, x.unit? uid = some u → ∃ f, (us.foldl (fun x u => x.modUnit u fun y => { y with f := 2 ^ (pm - x.prioOf u) }) x).unit? uid = some { u with f := f } by
    exact this us s
  intro us
  induction us with
  | nil => intro x; exact ⟨rfl, rfl, fun uid u h => ⟨u.f, h⟩⟩
  | cons v us ih =>
    intro x
    rw [List.foldl_cons]
    have h0 : (x.modUnit v fun y => { y with f := 2 ^ (pm - x.prioOf v) }).threads = x.threads ∧ (x.modUnit v fun y => { y with f := 2 ^ (pm - x.prioOf v) }).mem = x.mem := by
      unfold State.modUnit; split <;> exact ⟨rfl, rfl⟩
    have := ih (x.modUnit v fun y => { y with f := 2 ^ (pm - x.prioOf v) })
    refine ⟨this.1.trans h0.1, this.2.1.trans h0.2, ?_⟩
    intro uid u hu
    by_cases hv : uid = v
    · subst hv
      have h1 : (x.modUnit uid fun y => { y with f := 2 ^ (pm - x.prioOf uid) }).unit? uid = some { u with f := 2 ^ (pm - x.prioOf uid) } := by
        unfold State.modUnit; rw [hu]; exact AMap.get?_set_same _ _ _
      obtain ⟨f, hf⟩ := this.2.2 uid _ h1
      exact ⟨f, hf⟩
    · have h1 : (x.modUnit v fun y => { y with f := 2 ^ (pm - x.prioOf v) }).unit? uid = some u := by
        unfold State.modUnit
        split
        · exact (AMap.get?_set_ne _ hv _).trans hu
        · exact hu
      exact this.2.2 uid u h1

/-- The threads of a unit are new threads of its roles. -/
theorem threadsFrom_mem (uid pvb : Nat) : ∀ (rs : List Role) tg p, p ∈ threadsFrom uid pvb tg rs → ∃ r ∈ rs, ∃ k, p.2 = newThread uid k r pvb
  | [], tg, p, h => by simp [threadsFrom] at h
  | r :: rs, tg, p, h => by
    unfold threadsFrom at h
    rw [List.mem_append, List.mem_map] at h
    rcases h with ⟨k, _, rfl⟩ | h
    · exact ⟨r, by simp, k, rfl⟩
    · obtain ⟨r', h1, h2⟩ := threadsFrom_mem uid pvb rs _ p h
      exact ⟨r', List.mem_cons_of_mem _ h1, h2⟩

/-- Ending a fault entry takes it off the live ones (R74). -/
theorem State.endFault_facts (s : State) (k : Nat) (f : FaultEnt) (b : Bool) (h : s.hub.faults.find? (fun f => f.token == k && f.live) = some f) :
    (s.endFault k b).hub.faults.find? (fun f => f.token == k && f.live) = none ∧ (s.endFault k b).hub.refused = (if b then s.hub.refused ++ [(k, f.va.toNat / 65536)] else s.hub.refused) ∧
    (s.endFault k b).mem = s.mem ∧ (s.endFault k b).threads = s.threads := by
  unfold State.endFault
  rw [h]
  dsimp only
  refine ⟨?_, ?_, rfl, rfl⟩
  · unfold State.modHub
    dsimp only
    rw [List.find?_eq_none]
    intro x hx
    split at hx
    · rw [List.mem_filter] at hx; simp at hx ⊢; intro h; exact absurd h hx.2
    · rw [List.mem_map] at hx
      obtain ⟨y, hy, rfl⟩ := hx
      split
      · simp
      · rename_i hne; simp; intro h; exact absurd h hne
  · cases b <;> rfl

/-- What each step of a fold keeps, the fold keeps. -/
theorem foldl_keep {α β : Type} (P : α → Prop) (f : α → β → α) : ∀ (l : List β) (a : α), P a → (∀ a, P a → ∀ b ∈ l, P (f a b)) → P (l.foldl f a)
  | [], a, h, _ => h
  | b :: l, a, h, hs => foldl_keep P f l (f a b) (hs a h b (by simp)) (fun a h b hb => hs a h b (List.mem_cons_of_mem _ hb))

/-- With every entry written none is appended. -/
theorem State.appendFault_none (s : State) (h : ∀ f ∈ s.hub.faults, f.written = true) : s.appendFault = s := by
  unfold State.appendFault
  dsimp only
  split
  · rfl
  · have : s.hub.faults.find? (fun f => !f.written) = none := by
      rw [List.find?_eq_none]; intro f hf; simp [h f hf]
    rw [this]

/-- Changing the state of an endpoint changes nothing else named here. -/
theorem State.setEp_facts (s : State) (n st : Nat) : (s.setEp n st).mem = s.mem ∧ (s.setEp n st).hub.rst = s.hub.rst ∧ (s.setEp n st).hub.dmap = s.hub.dmap ∧ (s.setEp n st).hub.spar = s.hub.spar ∧ (s.setEp n st).tlb = s.tlb ∧ (n < s.hub.ep.length → (s.setEp n st).hub.ep.getD n 0 = st) ∧ (s.setEp n st).hub.ep.length = s.hub.ep.length := by
  unfold State.setEp
  split
  · rename_i h; exact ⟨rfl, rfl, rfl, rfl, rfl, fun _ => h, rfl⟩
  · refine ⟨rfl, rfl, rfl, rfl, rfl, fun h => setAt_getD_same _ _ _ _ h, by show (setAt _ _ _).length = _; rw [Machine.setAt_length]⟩

/-- A changed cluster. -/
theorem State.modCluster_cluster (s : State) (n f) : (s.modCluster n f).cluster n = f (s.cluster n) := by
  unfold State.modCluster State.cluster
  simp [AMap.get, AMap.get?_set_same]

/-- Booting leaves memory and the mailbox. -/
theorem State.bootFrom_keeps : ∀ (x : State) ks, (x.bootFrom ks).mem = x.mem ∧ (x.bootFrom ks).hub.mb = x.hub.mb := by
      intro x ks
      induction ks generalizing x with
      | nil => exact ⟨rfl, rfl⟩
      | cons k ks ih =>
        unfold State.bootFrom
        dsimp only
        split
        · exact ih _
        · exact ⟨rfl, rfl⟩

end Sys2Proof.Machine
end

