-- ==== Sys2Proof/Laws/Effects.lean ====
section
/-! SUPPORT. What the shared effects of instructions answer: loads, stores, atomics, fences, compares, uniformity checks, calls, destinations and queues. -/

namespace Sys2Proof.Machine

/-- A fence whose order is met goes on (R250). -/
theorem fence_next {i : Instr} {s s1 : State} {tk t sc} (h : Ready i s tk t [] s) (hp : Performed s tk t sc s1) (he : exec i s = run i s (fenceBody sc)) :
   exec i s = .next ((((if isWide sc then (s1.publish (s1.ckOf t.uid)).refresh (s1.ckOf t.uid) else s1).acquire tk).modThread tk
        Thread.dropPrefetched).modThread tk fun u => u.past i) := by
  rw [he, run_ready h]
  unfold fenceBody
  rw [whenPerformed_ready hp]
  rfl

/-- A load is issued (R118). -/
theorem load_next (i : Instr) {o : MemOp} {s s0 s1 s2 : State} {tk t a b n sgn l} (hr : Ready i s tk t [a, b] s0) (hw : WentOut s0 tk s1) (ha : Reaches s1 tk t (a + b) n 0 true false l s2) (he : exec i s = run i s (loadBody n sgn o.d)) :
      let ck := s2.ckOf t.uid
      let s2' := { s2 with seq := s2.seq + 1 }
      let line := ((s2.core ck).l1.find? fun e => e.1 == l.line).map (·.2)
      let r : LoadRec := { idx := 0, d := (dstRegs o.d).headD 0, size := n, sgn := sgn, loc := l, va := a + b, tloc := 0, seq := s2.seq }
      let value (bs : Option (List Byte)) : Word := extend (s2'.seen ck tk s2.seq (s2'.specOf t.uid) l n bs) sgn
      let done (x : State) (r : LoadRec) : Out := .next ((x.addLoad tk r).modThread tk fun u => u.past i)
      (∀ c, l.collected = false → s2'.locErr l n true = some c → exec i s = done s2' { r with err := some c }) ∧
      (l.collected = false → s2'.locErr l n true = none → exec i s = done (s2'.markSeen ck tk s2.seq l n) { r with res := some (value none) }) ∧
      (∀ bs, l.collected = true → line = some bs → exec i s = done (s2'.markSeen ck tk s2.seq l n) { r with res := some (value (some bs)) }) ∧
      (∀ s3, l.collected = true → line = none → s2'.joinEntry ck l = some s3 → exec i s = done s3 r) := by
  intro ck s2' line r value done
  have hg : (loadAt n sgn o.d tk t (a + b) l s2).GoesOn := by
    unfold loadAt
    dsimp only
    repeat' split
    all_goals trivial
  have key : exec i s = .next (finish tk (instrInfo i) ⟨[a, b], t.before⟩ (loadAt n sgn o.d tk t (a + b) l s2)) := by
    rw [he, run_ready hr]
    unfold loadBody
    rw [afterOut_ready hw]
    exact congrArg _ (congrArg _ (checkedAccess_ready ha _ hg))
  have body : loadAt n sgn o.d tk t (a + b) l s2 =
      (if !l.collected then
        match s2'.locErr l n true with
        | some c => .seq (s2'.addLoad tk { r with err := some c })
        | none => .seq ((s2'.markSeen ck tk s2.seq l n).addLoad tk { r with res := some (value none) })
      else
        match (s2'.core ck).l1.find? fun e => e.1 == l.line with
        | some e => .seq ((s2'.markSeen ck tk s2.seq l n).addLoad tk { r with res := some (value (some e.2)) })
        | none =>
          match s2'.joinEntry ck l with
          | some s => .seq (s.addLoad tk r)
          | none => .hold (s2'.restorePorts tk t.ports)) := rfl
  have hl : ((s2'.core ck).l1.find? fun e => e.1 == l.line).map (·.2) = line := rfl
  rw [key, body]
  refine ⟨fun c hc h => ?_, fun hc h => ?_, fun bs hc h => ?_, fun s3 hc h hj => ?_⟩
  · rw [hc, h]; rfl
  · rw [hc, h]; rfl
  · rw [← hl, Option.map_eq_some_iff] at h
    obtain ⟨e, he, rfl⟩ := h
    rw [hc, he]; rfl
  · rw [← hl, Option.map_eq_none_iff] at h
    rw [hc, h, hj]; rfl

/-- A store is issued (R239). -/
theorem store_next {i : Instr} {s s0 s1 s2 s3 : State} {tk t a b c n l} (hr : Ready i s tk t [a, b, c] s0) (hw : WentOut s0 tk s1) (ha : Reaches s1 tk t (a + b) n 1 false true l s2)
   (hf : s2.specFits (s2.specOf t.uid) l = true) (hj : s2.joinEntry (s2.ckOf t.uid) l = some s3) (he : exec i s = run i s (storeBody n)) (hn : (leBytes n c.toNat).length = n) :
      let ck := s2.ckOf t.uid
      let p : Pend := { tk := tk, seq := s3.seq, loc := l, bytes := leBytes n c.toNat, va := a + b, tloc := t.pc, inColl := l.collected,
                        spec := s3.specAt t.uid l }
      exec i s = .next (((({ s3 with seq := s3.seq + 1 }).modCore ck fun k => { k with pend := k.pend ++ [p] }).modThread tk
        fun u => u.touched l n).modThread tk fun u => u.past i) ∧ s3.mem = s2.mem ∧ s3.threads = s2.threads ∧ s3.units = s2.units := by
  intro ck p
  constructor
  · have h : s2.issueWrite tk t l (leBytes n c.toNat) (a + b) t.pc = some ((({ s3 with seq := s3.seq + 1 }).modCore ck fun k => { k with pend := k.pend ++ [p] }).modThread tk
        fun u => u.touched l n) := by
      unfold State.issueWrite
      dsimp only
      rw [hj]
      dsimp only [State.takeSeq]
      rw [hn]
      rfl
    rw [he, run_ready hr]
    unfold storeBody
    rw [afterOut_ready hw]
    rw [show [a, b, c].getD 0 0 = a from rfl, show [a, b, c].getD 1 0 = b from rfl, show [a, b, c].getD 2 0 = c from rfl]
    rw [checkedAccess_ready ha, hf]
    · rw [if_neg (by decide), h]
      rfl
    · rw [hf, if_neg (by decide), h]
      trivial
  · unfold State.joinEntry at hj
    dsimp only at hj
    split at hj
    · cases hj; exact ⟨rfl, rfl, rfl⟩
    · split at hj
      · cases hj; exact ⟨rfl, rfl, rfl⟩
      · split at hj
        · cases hj; exact ⟨rfl, rfl, rfl⟩
        · cases hj

/-- An atomic operation is made at its place (R244). -/
theorem atom_next {i : Instr} {o : AtomOp} {promote pair : Bool} {f : Thread → AtomOp → AtomFn} {s tk t a x s0 s1 l s2 s3 s4}
   (hr : Ready i s tk t [a, x] s0) (hs : s0.speculative t.uid = false) (hw : WentOut s0 tk s1)
   (ha : Reaches s1 tk t a (if o.wide then 8 else 4) 2 true true l s2) (hx : Released o.ar s2 tk t (scopeOf o.sc) l s3)
   (hp : Promoted (promote && isWide (scopeOf o.sc)) s3 t l s4)
   (he : exec i s = run i s (fun tk t vals s => atomBody o promote pair (f t o) tk t vals s)) (old s5)
   (h5 : s4.atomAt (s3.ckOf t.uid) tk l (if o.wide then 8 else 4) (fun y => f t o (if o.wide then 8 else 4) y (x.toNat % 2 ^ (8 * (if o.wide then 8 else 4)))) = (.inl old, s5)) :
      let n := if o.wide then 8 else 4
      let sc := scopeOf o.sc
      let s6 := s5.modThread tk fun u => u.touched l n
      let s7 := if o.ar then s6.acquireAt tk t sc (s6.seq - 1) l n old else s6
      exec i s = .next ((s7.addLoad tk
        { idx := 0, d := (dstRegs o.d).headD 0, pair := pair, size := n, loc := l, va := a, tloc := 0, seq := s5.seq, block := o.ar,
          acq := o.ar && isWide sc, res := some (Word.ofN old) }).modThread tk fun u => u.pastR i) := by
  intro n sc s6 s7
  rw [he, run_ready hr]
  unfold atomBody
  rw [hs, show [a, x].getD 0 0 = a from rfl, show [a, x].getD 1 0 = x from rfl]
  simp only [Bool.false_eq_true, if_false]
  rw [afterOut_ready hw]
  rw [checkedAccess_ready ha]
  · rw [atomRelease_ready hx, promoted_ready hp, h5]
    rfl
  · rw [atomRelease_ready hx, promoted_ready hp, h5]
    trivial

/-- A compare writes both predicates, after the latency of its class (R40, R142, R298). -/
theorem compare_next (i : Instr) (p : Fin 8) (c : Word → Word → Bool) (he : ∀ s, exec i s = runCompare i p s c) :
    (∀ s tk t a b s' u, Ready i s tk t [a, b] s' → s'.thread? tk = some u →
      exec i s = .next (s'.setThread tk (((u.setPreds p.1 (c a b) (!c a b)).mark_ ([64 + p.1, 64 + (p.1 ^^^ 1)].filter (· < 71)) (s'.cycOf u)
        (s'.cycOf u + latency (instrInfo i).cls)).past i))) ∧
    (∀ s tk t, Skipped i s tk t → exec i s = .next (s.setThread tk ((t.setPreds p.1 false false).past i))) := by
  constructor
  · intro s tk t a b s' u hr hu
    rw [he, runCompare, run_ready hr]
    unfold predBody
    rw [State.modThread_eq _ hu, finish_seq (State.thread?_setThread _ _ _), State.setThread_setThread]
    rfl
  · intro s tk t hr
    rw [he, runCompare, run_skipped hr]
    rw [State.modThread_eq _ hr.thread, finish_seq (State.thread?_setThread _ _ _), State.setThread_setThread]

/-- The result alone decides what a result instruction does. -/
theorem resultBody_congr (i : Info) (f g : List Word → Word) (tk : Nat) (t : Thread) (vals : List Word) (s : State) (h : f vals = g vals) :
   resultBody i f tk t vals s = resultBody i g tk t vals s := by unfold resultBody; simp only [h]

/-- Inserting a uniform write keeps the others. -/
theorem uwrInsert_perm (x : UwrRec) : ∀ l, (uwrInsert x l).Perm (x :: l)
  | [] => List.Perm.refl _
  | y :: ys => by
    unfold uwrInsert
    split
    · exact (List.Perm.cons y (uwrInsert_perm x ys)).trans (List.Perm.swap x y ys)
    · exact List.Perm.refl _

/-- A uniformity check that passes goes on (R275). -/
theorem checked_ready {u g tk t s s1} (h : Checked u g s tk t s1) (k) : checked u g tk t s k = k s1 := by
  unfold checked; unfold Checked at h
  cases u
  · simp at h; subst h; rfl
  · simp only [if_true] at h ⊢; rw [h]

/-- A call links and jumps (R271). -/
theorem takeCall_finish {s1 : State} {tk a} (h : ∃ u, s1.thread? tk = some u ∧ (u.cd < 65535 ∨ u.cd = 65535 ∧ u.loops = [])) {i old} :
   finish tk i old (takeCall tk a s1) = (s1.modThread tk fun u => { u.setReg 59 (u.pw + 4) with cd := min 65535 (u.cd + 1) }).modThread tk fun u => u.jumpTo a := by
  obtain ⟨u, hu, hr⟩ := h
  unfold takeCall
  rw [hu]
  dsimp only
  have : (decide (u.cd = 65535) && !u.loops.isEmpty) = false := by
    rcases hr with h | ⟨h, h2⟩
    · simp; omega
    · simp [h2]
  rw [this]
  simp only [Bool.false_eq_true, if_false]
  unfold finish
  dsimp only
  congr 1
  rw [State.modThread_eq _ hu]
  congr 2
  split <;> omega

/-- A free destination passes its checks. -/
theorem checkDst_free {tk d s} (h : DstFree s tk d) (k) : checkDst tk d s k = k s := by
  obtain ⟨w, hw, hk⟩ := h
  unfold checkDst
  cases d with
  | v n => rfl
  | m p => dsimp only; rw [hw]; dsimp only; rw [hk p rfl]

/-- A queue with a place takes the op. -/
theorem withPlace_ready {ck ch tk used first p x s} (h1 : used < 32) (h2 : first = true ∨ (State.core s ck).waitq.getD ch [] = []) (k) : withPlace ck ch tk used first p x s k = k s := by
  unfold withPlace
  dsimp only
  rw [if_pos]
  simp only [Bool.and_eq_true, decide_eq_true_eq, Bool.or_eq_true, List.isEmpty_iff]
  exact ⟨h1, h2⟩

end Sys2Proof.Machine
end

