-- ==== Sys2Proof/Laws/IsRun.lean ====
section
/-! SUPPORT. That every instruction but IMX and the encodings that fail decode is a run, and that no instruction of a thread stops. -/

namespace Sys2Proof.Machine

/-- That an instruction is the run of some effect, and under a false guard does nothing unless its mode says otherwise. -/
def IsRun (i : Instr) (s : State) : Prop :=
  ∃ body off, exec i s = run i s body off ∧ ((instrInfo i).mode = .normal → off = fun _ _ s => .seq s)

theorem execIadd_run (o : Op3) (s : State) : IsRun (.iadd o) s := ⟨_, _, rfl, fun _ => rfl⟩
theorem execIsub_run (o : Op3) (s : State) : IsRun (.isub o) s := ⟨_, _, rfl, fun _ => rfl⟩
theorem execImul_run (o : Op3) (s : State) : IsRun (.imul o) s := ⟨_, _, rfl, fun _ => rfl⟩
theorem execImac_run (o : Op3) (s : State) : IsRun (.imac o) s := ⟨_, _, rfl, fun _ => rfl⟩
theorem execIadd32_run (o : Op3) (s : State) : IsRun (.iadd32 o) s := ⟨_, _, rfl, fun _ => rfl⟩
theorem execIsub32_run (o : Op3) (s : State) : IsRun (.isub32 o) s := ⟨_, _, rfl, fun _ => rfl⟩
theorem execImul32_run (o : Op3) (s : State) : IsRun (.imul32 o) s := ⟨_, _, rfl, fun _ => rfl⟩
theorem execImac32_run (o : Op3) (s : State) : IsRun (.imac32 o) s := ⟨_, _, rfl, fun _ => rfl⟩
theorem execImulhS_run (o : Op3) (s : State) : IsRun (.imulhS o) s := ⟨_, _, rfl, fun _ => rfl⟩
theorem execImulhN_run (o : Op3) (s : State) : IsRun (.imulhN o) s := ⟨_, _, rfl, fun _ => rfl⟩
theorem execAndOp_run (o : Op3) (s : State) : IsRun (.andOp o) s := ⟨_, _, rfl, fun _ => rfl⟩
theorem execOrOp_run (o : Op3) (s : State) : IsRun (.orOp o) s := ⟨_, _, rfl, fun _ => rfl⟩
theorem execXorOp_run (o : Op3) (s : State) : IsRun (.xorOp o) s := ⟨_, _, rfl, fun _ => rfl⟩
theorem execAndn_run (o : Op3) (s : State) : IsRun (.andn o) s := ⟨_, _, rfl, fun _ => rfl⟩
theorem execShl_run (o : Op3) (s : State) : IsRun (.shl o) s := ⟨_, _, rfl, fun _ => rfl⟩
theorem execShr_run (o : Op3) (s : State) : IsRun (.shr o) s := ⟨_, _, rfl, fun _ => rfl⟩
theorem execAsr_run (o : Op3) (s : State) : IsRun (.asr o) s := ⟨_, _, rfl, fun _ => rfl⟩
theorem execLoop_run (o : LoopOp) (s : State) : IsRun (.loop o) s := ⟨_, _, show execLoop o s = _ by unfold execLoop; rfl, nofun⟩
theorem execIminS_run (o : Op3) (s : State) : IsRun (.iminS o) s := ⟨_, _, rfl, fun _ => rfl⟩
theorem execImaxS_run (o : Op3) (s : State) : IsRun (.imaxS o) s := ⟨_, _, rfl, fun _ => rfl⟩
theorem execIminN_run (o : Op3) (s : State) : IsRun (.iminN o) s := ⟨_, _, rfl, fun _ => rfl⟩
theorem execImaxN_run (o : Op3) (s : State) : IsRun (.imaxN o) s := ⟨_, _, rfl, fun _ => rfl⟩
theorem execFadd_run (o : Op3) (s : State) : IsRun (.fadd o) s := ⟨_, _, rfl, fun _ => rfl⟩
theorem execFsub_run (o : Op3) (s : State) : IsRun (.fsub o) s := ⟨_, _, rfl, fun _ => rfl⟩
theorem execFmul_run (o : Op3) (s : State) : IsRun (.fmul o) s := ⟨_, _, rfl, fun _ => rfl⟩
theorem execFfma_run (o : Op3) (s : State) : IsRun (.ffma o) s := ⟨_, _, rfl, fun _ => rfl⟩
theorem execFmin_run (o : Op3) (s : State) : IsRun (.fmin o) s := ⟨_, _, rfl, fun _ => rfl⟩
theorem execFmax_run (o : Op3) (s : State) : IsRun (.fmax o) s := ⟨_, _, rfl, fun _ => rfl⟩
theorem execDadd_run (o : Op3) (s : State) : IsRun (.dadd o) s := ⟨_, _, rfl, fun _ => rfl⟩
theorem execDsub_run (o : Op3) (s : State) : IsRun (.dsub o) s := ⟨_, _, rfl, fun _ => rfl⟩
theorem execDmul_run (o : Op3) (s : State) : IsRun (.dmul o) s := ⟨_, _, rfl, fun _ => rfl⟩
theorem execDfma_run (o : Op3) (s : State) : IsRun (.dfma o) s := ⟨_, _, rfl, fun _ => rfl⟩
theorem execDmin_run (o : Op3) (s : State) : IsRun (.dmin o) s := ⟨_, _, rfl, fun _ => rfl⟩
theorem execDmax_run (o : Op3) (s : State) : IsRun (.dmax o) s := ⟨_, _, rfl, fun _ => rfl⟩
theorem execHadd_run (o : Op3) (s : State) : IsRun (.hadd o) s := ⟨_, _, rfl, fun _ => rfl⟩
theorem execHmul_run (o : Op3) (s : State) : IsRun (.hmul o) s := ⟨_, _, rfl, fun _ => rfl⟩
theorem execHfma_run (o : Op3) (s : State) : IsRun (.hfma o) s := ⟨_, _, rfl, fun _ => rfl⟩
theorem execBadd_run (o : Op3) (s : State) : IsRun (.badd o) s := ⟨_, _, rfl, fun _ => rfl⟩
theorem execBmul_run (o : Op3) (s : State) : IsRun (.bmul o) s := ⟨_, _, rfl, fun _ => rfl⟩
theorem execBfma_run (o : Op3) (s : State) : IsRun (.bfma o) s := ⟨_, _, rfl, fun _ => rfl⟩
theorem execIcmpS_run (o : ICmp) (s : State) : IsRun (.icmpS o) s := ⟨_, _, show execIcmpS o s = _ by unfold execIcmpS runCompare; rfl, nofun⟩
theorem execIcmpN_run (o : ICmp) (s : State) : IsRun (.icmpN o) s := ⟨_, _, show execIcmpN o s = _ by unfold execIcmpN runCompare; rfl, nofun⟩
theorem execFcmp_run (o : FCmp) (s : State) : IsRun (.fcmp o) s := ⟨_, _, show execFcmp o s = _ by unfold execFcmp runCompare; rfl, nofun⟩
theorem execDcmp_run (o : FCmp) (s : State) : IsRun (.dcmp o) s := ⟨_, _, show execDcmp o s = _ by unfold execDcmp runCompare; rfl, nofun⟩
theorem execSel_run (o : Op3) (s : State) : IsRun (.sel o) s := ⟨_, _, show execSel o s = _ by unfold execSel; rfl, nofun⟩
theorem execLd8_run (o : MemOp) (s : State) : IsRun (.ld8 o) s := ⟨_, _, show execLd8 o s = _ by unfold execLd8; rfl, fun _ => rfl⟩
theorem execLd16_run (o : MemOp) (s : State) : IsRun (.ld16 o) s := ⟨_, _, show execLd16 o s = _ by unfold execLd16; rfl, fun _ => rfl⟩
theorem execLd32_run (o : MemOp) (s : State) : IsRun (.ld32 o) s := ⟨_, _, show execLd32 o s = _ by unfold execLd32; rfl, fun _ => rfl⟩
theorem execLd64_run (o : MemOp) (s : State) : IsRun (.ld64 o) s := ⟨_, _, show execLd64 o s = _ by unfold execLd64; rfl, fun _ => rfl⟩
theorem execLd8S_run (o : MemOp) (s : State) : IsRun (.ld8S o) s := ⟨_, _, show execLd8S o s = _ by unfold execLd8S; rfl, fun _ => rfl⟩
theorem execLd16S_run (o : MemOp) (s : State) : IsRun (.ld16S o) s := ⟨_, _, show execLd16S o s = _ by unfold execLd16S; rfl, fun _ => rfl⟩
theorem execLd32S_run (o : MemOp) (s : State) : IsRun (.ld32S o) s := ⟨_, _, show execLd32S o s = _ by unfold execLd32S; rfl, fun _ => rfl⟩
theorem execSt8_run (o : MemOp) (s : State) : IsRun (.st8 o) s := ⟨_, _, show execSt8 o s = _ by unfold execSt8; rfl, fun _ => rfl⟩
theorem execSt16_run (o : MemOp) (s : State) : IsRun (.st16 o) s := ⟨_, _, show execSt16 o s = _ by unfold execSt16; rfl, fun _ => rfl⟩
theorem execSt32_run (o : MemOp) (s : State) : IsRun (.st32 o) s := ⟨_, _, show execSt32 o s = _ by unfold execSt32; rfl, fun _ => rfl⟩
theorem execSt64_run (o : MemOp) (s : State) : IsRun (.st64 o) s := ⟨_, _, show execSt64 o s = _ by unfold execSt64; rfl, fun _ => rfl⟩
theorem execLdacq_run (o : AcqOp) (s : State) : IsRun (.ldacq o) s := ⟨_, _, show execLdacq o s = _ by unfold execLdacq; rfl, fun _ => rfl⟩
theorem execStrel_run (o : RelOp) (s : State) : IsRun (.strel o) s := ⟨_, _, show execStrel o s = _ by unfold execStrel; rfl, fun _ => rfl⟩
theorem execAtomAdd_run (o : AtomOp) (s : State) : IsRun (.atomAdd o) s := ⟨_, _, show execAtomAdd o s = _ by unfold execAtomAdd; rfl, fun _ => rfl⟩
theorem execAtomAnd_run (o : AtomOp) (s : State) : IsRun (.atomAnd o) s := ⟨_, _, show execAtomAnd o s = _ by unfold execAtomAnd; rfl, fun _ => rfl⟩
theorem execAtomOr_run (o : AtomOp) (s : State) : IsRun (.atomOr o) s := ⟨_, _, show execAtomOr o s = _ by unfold execAtomOr; rfl, fun _ => rfl⟩
theorem execAtomXor_run (o : AtomOp) (s : State) : IsRun (.atomXor o) s := ⟨_, _, show execAtomXor o s = _ by unfold execAtomXor; rfl, fun _ => rfl⟩
theorem execAtomMinS_run (o : AtomOp) (s : State) : IsRun (.atomMinS o) s := ⟨_, _, show execAtomMinS o s = _ by unfold execAtomMinS; rfl, fun _ => rfl⟩
theorem execAtomMaxS_run (o : AtomOp) (s : State) : IsRun (.atomMaxS o) s := ⟨_, _, show execAtomMaxS o s = _ by unfold execAtomMaxS; rfl, fun _ => rfl⟩
theorem execAtomMinN_run (o : AtomOp) (s : State) : IsRun (.atomMinN o) s := ⟨_, _, show execAtomMinN o s = _ by unfold execAtomMinN; rfl, fun _ => rfl⟩
theorem execAtomMaxN_run (o : AtomOp) (s : State) : IsRun (.atomMaxN o) s := ⟨_, _, show execAtomMaxN o s = _ by unfold execAtomMaxN; rfl, fun _ => rfl⟩
theorem execAtomXchg_run (o : AtomOp) (s : State) : IsRun (.atomXchg o) s := ⟨_, _, show execAtomXchg o s = _ by unfold execAtomXchg; rfl, fun _ => rfl⟩
theorem execAtomCas_run (o : AtomOp) (s : State) : IsRun (.atomCas o) s := ⟨_, _, show execAtomCas o s = _ by unfold execAtomCas; rfl, fun _ => rfl⟩
theorem execAtomFadd_run (o : AtomOp) (s : State) : IsRun (.atomFadd o) s := ⟨_, _, show execAtomFadd o s = _ by unfold execAtomFadd; rfl, fun _ => rfl⟩
theorem execAtomIncw_run (o : AtomOp) (s : State) : IsRun (.atomIncw o) s := ⟨_, _, show execAtomIncw o s = _ by unfold execAtomIncw; rfl, fun _ => rfl⟩
theorem execAtomCasPromote_run (o : AtomOp) (s : State) : IsRun (.atomCasPromote o) s := ⟨_, _, show execAtomCasPromote o s = _ by unfold execAtomCasPromote; rfl, fun _ => rfl⟩
theorem execAtomHacc_run (o : HaccOp) (s : State) : IsRun (.atomHacc o) s := ⟨_, _, show execAtomHacc o s = _ by unfold execAtomHacc; rfl, fun _ => rfl⟩
theorem execBr_run (o : BrOp) (s : State) : IsRun (.br o) s := ⟨_, _, show execBr o s = _ by unfold execBr; rfl, nofun⟩
theorem execCall_run (o : BrOp) (s : State) : IsRun (.call o) s := ⟨_, _, show execCall o s = _ by unfold execCall; rfl, nofun⟩
theorem execMov_run (o : Op2) (s : State) : IsRun (.mov o) s := ⟨_, _, rfl, fun _ => rfl⟩
theorem execNotOp_run (o : Op2) (s : State) : IsRun (.notOp o) s := ⟨_, _, rfl, fun _ => rfl⟩
theorem execNegOp_run (o : Op2) (s : State) : IsRun (.negOp o) s := ⟨_, _, rfl, fun _ => rfl⟩
theorem execAbsOp_run (o : Op2) (s : State) : IsRun (.absOp o) s := ⟨_, _, rfl, fun _ => rfl⟩
theorem execPopc_run (o : Op2) (s : State) : IsRun (.popc o) s := ⟨_, _, rfl, fun _ => rfl⟩
theorem execClz_run (o : Op2) (s : State) : IsRun (.clz o) s := ⟨_, _, rfl, fun _ => rfl⟩
theorem execCtz_run (o : Op2) (s : State) : IsRun (.ctz o) s := ⟨_, _, rfl, fun _ => rfl⟩
theorem execBrev_run (o : Op2) (s : State) : IsRun (.brev o) s := ⟨_, _, rfl, fun _ => rfl⟩
theorem execBswap_run (o : Op2) (s : State) : IsRun (.bswap o) s := ⟨_, _, rfl, fun _ => rfl⟩
theorem execSx8_run (o : Op2) (s : State) : IsRun (.sx8 o) s := ⟨_, _, rfl, fun _ => rfl⟩
theorem execSx16_run (o : Op2) (s : State) : IsRun (.sx16 o) s := ⟨_, _, rfl, fun _ => rfl⟩
theorem execSx32_run (o : Op2) (s : State) : IsRun (.sx32 o) s := ⟨_, _, rfl, fun _ => rfl⟩
theorem execZx8_run (o : Op2) (s : State) : IsRun (.zx8 o) s := ⟨_, _, rfl, fun _ => rfl⟩
theorem execZx16_run (o : Op2) (s : State) : IsRun (.zx16 o) s := ⟨_, _, rfl, fun _ => rfl⟩
theorem execZx32_run (o : Op2) (s : State) : IsRun (.zx32 o) s := ⟨_, _, rfl, fun _ => rfl⟩
theorem execMovs_run (o : MovsOp) (s : State) : IsRun (.movs o) s := ⟨_, _, show execMovs o s = _ by unfold execMovs; rfl, fun _ => rfl⟩
theorem execUrd_run (o : Op2) (s : State) : IsRun (.urd o) s := ⟨_, _, show execUrd o s = _ by unfold execUrd; rfl, fun _ => rfl⟩
theorem execUwr_run (o : OpX) (s : State) : IsRun (.uwr o) s := ⟨_, _, show execUwr o s = _ by unfold execUwr; rfl, fun _ => rfl⟩
theorem execFneg_run (o : Op2) (s : State) : IsRun (.fneg o) s := ⟨_, _, rfl, fun _ => rfl⟩
theorem execFabs_run (o : Op2) (s : State) : IsRun (.fabs o) s := ⟨_, _, rfl, fun _ => rfl⟩
theorem execDneg_run (o : Op2) (s : State) : IsRun (.dneg o) s := ⟨_, _, rfl, fun _ => rfl⟩
theorem execDabs_run (o : Op2) (s : State) : IsRun (.dabs o) s := ⟨_, _, rfl, fun _ => rfl⟩
theorem execFrcp_run (o : Op2) (s : State) : IsRun (.frcp o) s := ⟨_, _, rfl, fun _ => rfl⟩
theorem execFrsq_run (o : Op2) (s : State) : IsRun (.frsq o) s := ⟨_, _, rfl, fun _ => rfl⟩
theorem execFsqrt_run (o : Op2) (s : State) : IsRun (.fsqrt o) s := ⟨_, _, rfl, fun _ => rfl⟩
theorem execFex2_run (o : Op2) (s : State) : IsRun (.fex2 o) s := ⟨_, _, rfl, fun _ => rfl⟩
theorem execFlg2_run (o : Op2) (s : State) : IsRun (.flg2 o) s := ⟨_, _, rfl, fun _ => rfl⟩
theorem execDrcp_run (o : Op2) (s : State) : IsRun (.drcp o) s := ⟨_, _, rfl, fun _ => rfl⟩
theorem execDsqrt_run (o : Op2) (s : State) : IsRun (.dsqrt o) s := ⟨_, _, rfl, fun _ => rfl⟩
theorem execDrsq_run (o : Op2) (s : State) : IsRun (.drsq o) s := ⟨_, _, rfl, fun _ => rfl⟩
theorem execFscale_run (o : Op2) (s : State) : IsRun (.fscale o) s := ⟨_, _, rfl, fun _ => rfl⟩
theorem execDscale_run (o : Op2) (s : State) : IsRun (.dscale o) s := ⟨_, _, rfl, fun _ => rfl⟩
theorem execFxpn_run (o : Op2) (s : State) : IsRun (.fxpn o) s := ⟨_, _, rfl, fun _ => rfl⟩
theorem execDxpn_run (o : Op2) (s : State) : IsRun (.dxpn o) s := ⟨_, _, rfl, fun _ => rfl⟩
theorem execEx2s_run (o : Op2) (s : State) : IsRun (.ex2s o) s := ⟨_, _, show execEx2s o s = _ by unfold execEx2s; rfl, fun _ => rfl⟩
theorem execFrintRn_run (o : Op2) (s : State) : IsRun (.frintRn o) s := ⟨_, _, rfl, fun _ => rfl⟩
theorem execFrintRz_run (o : Op2) (s : State) : IsRun (.frintRz o) s := ⟨_, _, rfl, fun _ => rfl⟩
theorem execFrintRm_run (o : Op2) (s : State) : IsRun (.frintRm o) s := ⟨_, _, rfl, fun _ => rfl⟩
theorem execFrintRp_run (o : Op2) (s : State) : IsRun (.frintRp o) s := ⟨_, _, rfl, fun _ => rfl⟩
theorem execDrintRn_run (o : Op2) (s : State) : IsRun (.drintRn o) s := ⟨_, _, rfl, fun _ => rfl⟩
theorem execDrintRz_run (o : Op2) (s : State) : IsRun (.drintRz o) s := ⟨_, _, rfl, fun _ => rfl⟩
theorem execDrintRm_run (o : Op2) (s : State) : IsRun (.drintRm o) s := ⟨_, _, rfl, fun _ => rfl⟩
theorem execDrintRp_run (o : Op2) (s : State) : IsRun (.drintRp o) s := ⟨_, _, rfl, fun _ => rfl⟩
theorem execCvtF64F32_run (o : Op2) (s : State) : IsRun (.cvtF64F32 o) s := ⟨_, _, rfl, fun _ => rfl⟩
theorem execCvtF32F64_run (o : Op2) (s : State) : IsRun (.cvtF32F64 o) s := ⟨_, _, rfl, fun _ => rfl⟩
theorem execCvtF16F32_run (o : Op2) (s : State) : IsRun (.cvtF16F32 o) s := ⟨_, _, rfl, fun _ => rfl⟩
theorem execCvtBf16F32_run (o : Op2) (s : State) : IsRun (.cvtBf16F32 o) s := ⟨_, _, rfl, fun _ => rfl⟩
theorem execCvtF32F16_run (o : Op2) (s : State) : IsRun (.cvtF32F16 o) s := ⟨_, _, rfl, fun _ => rfl⟩
theorem execCvtF32Bf16_run (o : Op2) (s : State) : IsRun (.cvtF32Bf16 o) s := ⟨_, _, rfl, fun _ => rfl⟩
theorem execCvtF32S64_run (o : Op2) (s : State) : IsRun (.cvtF32S64 o) s := ⟨_, _, rfl, fun _ => rfl⟩
theorem execCvtF32N64_run (o : Op2) (s : State) : IsRun (.cvtF32N64 o) s := ⟨_, _, rfl, fun _ => rfl⟩
theorem execCvtF64S64_run (o : Op2) (s : State) : IsRun (.cvtF64S64 o) s := ⟨_, _, rfl, fun _ => rfl⟩
theorem execCvtF64N64_run (o : Op2) (s : State) : IsRun (.cvtF64N64 o) s := ⟨_, _, rfl, fun _ => rfl⟩
theorem execCvtS32F32_run (o : Op2) (s : State) : IsRun (.cvtS32F32 o) s := ⟨_, _, rfl, fun _ => rfl⟩
theorem execCvtN32F32_run (o : Op2) (s : State) : IsRun (.cvtN32F32 o) s := ⟨_, _, rfl, fun _ => rfl⟩
theorem execCvtS64F32_run (o : Op2) (s : State) : IsRun (.cvtS64F32 o) s := ⟨_, _, rfl, fun _ => rfl⟩
theorem execCvtN64F32_run (o : Op2) (s : State) : IsRun (.cvtN64F32 o) s := ⟨_, _, rfl, fun _ => rfl⟩
theorem execCvtS32F64_run (o : Op2) (s : State) : IsRun (.cvtS32F64 o) s := ⟨_, _, rfl, fun _ => rfl⟩
theorem execCvtN32F64_run (o : Op2) (s : State) : IsRun (.cvtN32F64 o) s := ⟨_, _, rfl, fun _ => rfl⟩
theorem execCvtS64F64_run (o : Op2) (s : State) : IsRun (.cvtS64F64 o) s := ⟨_, _, rfl, fun _ => rfl⟩
theorem execCvtN64F64_run (o : Op2) (s : State) : IsRun (.cvtN64F64 o) s := ⟨_, _, rfl, fun _ => rfl⟩
theorem execElect_run (o : OpD) (s : State) : IsRun (.elect o) s := ⟨_, _, show execElect o s = _ by unfold execElect; rfl, fun _ => rfl⟩
theorem execVany_run (o : OpX) (s : State) : IsRun (.vany o) s := ⟨_, _, show execVany o s = _ by unfold execVany; rfl, fun _ => rfl⟩
theorem execVall_run (o : OpX) (s : State) : IsRun (.vall o) s := ⟨_, _, show execVall o s = _ by unfold execVall; rfl, fun _ => rfl⟩
theorem execVbal_run (o : OpX) (s : State) : IsRun (.vbal o) s := ⟨_, _, show execVbal o s = _ by unfold execVbal; rfl, fun _ => rfl⟩
theorem execShfi_run (o : OpX) (s : State) : IsRun (.shfi o) s := ⟨_, _, show execShfi o s = _ by unfold execShfi; rfl, fun _ => rfl⟩
theorem execShfa_run (o : OpX) (s : State) : IsRun (.shfa o) s := ⟨_, _, show execShfa o s = _ by unfold execShfa; rfl, fun _ => rfl⟩
theorem execShfb_run (o : OpX) (s : State) : IsRun (.shfb o) s := ⟨_, _, show execShfb o s = _ by unfold execShfb; rfl, fun _ => rfl⟩
theorem execShfx_run (o : OpX) (s : State) : IsRun (.shfx o) s := ⟨_, _, show execShfx o s = _ by unfold execShfx; rfl, fun _ => rfl⟩
theorem execRadd_run (o : OpX) (s : State) : IsRun (.radd o) s := ⟨_, _, show execRadd o s = _ by unfold execRadd; rfl, fun _ => rfl⟩
theorem execRminS_run (o : OpX) (s : State) : IsRun (.rminS o) s := ⟨_, _, show execRminS o s = _ by unfold execRminS; rfl, fun _ => rfl⟩
theorem execRmaxS_run (o : OpX) (s : State) : IsRun (.rmaxS o) s := ⟨_, _, show execRmaxS o s = _ by unfold execRmaxS; rfl, fun _ => rfl⟩
theorem execRfadd_run (o : OpX) (s : State) : IsRun (.rfadd o) s := ⟨_, _, show execRfadd o s = _ by unfold execRfadd; rfl, fun _ => rfl⟩
theorem execRdadd_run (o : OpX) (s : State) : IsRun (.rdadd o) s := ⟨_, _, show execRdadd o s = _ by unfold execRdadd; rfl, fun _ => rfl⟩
theorem execScan_run (o : OpX) (s : State) : IsRun (.scan o) s := ⟨_, _, show execScan o s = _ by unfold execScan; rfl, fun _ => rfl⟩
theorem execMatchOp_run (o : OpX) (s : State) : IsRun (.matchOp o) s := ⟨_, _, show execMatchOp o s = _ by unfold execMatchOp; rfl, fun _ => rfl⟩
theorem execGpart_run (o : OpA) (s : State) : IsRun (.gpart o) s := ⟨_, _, show execGpart o s = _ by unfold execGpart; rfl, fun _ => rfl⟩
theorem execNop_run (o : OpG) (s : State) : IsRun (.nop o) s := ⟨_, _, show execNop o s = _ by unfold execNop; rfl, fun _ => rfl⟩
theorem execExit_run (o : OpA) (s : State) : IsRun (.exit o) s := ⟨_, _, show execExit o s = _ by unfold execExit; rfl, fun _ => rfl⟩
theorem execBrk_run (o : OpG) (s : State) : IsRun (.brk o) s := ⟨_, _, show execBrk o s = _ by unfold execBrk; rfl, fun _ => rfl⟩
theorem execTrap_run (o : OpA) (s : State) : IsRun (.trap o) s := ⟨_, _, show execTrap o s = _ by unfold execTrap; rfl, fun _ => rfl⟩
theorem execYield_run (o : OpG) (s : State) : IsRun (.yield o) s := ⟨_, _, show execYield o s = _ by unfold execYield; rfl, fun _ => rfl⟩
theorem execRgn_run (o : OpG) (s : State) : IsRun (.rgn o) s := ⟨_, _, show execRgn o s = _ by unfold execRgn; rfl, fun _ => rfl⟩
theorem execBnd_run (o : OpG) (s : State) : IsRun (.bnd o) s := ⟨_, _, show execBnd o s = _ by unfold execBnd; rfl, fun _ => rfl⟩
theorem execFenceGrp_run (o : OpG) (s : State) : IsRun (.fenceGrp o) s := ⟨_, _, show execFenceGrp o s = _ by unfold execFenceGrp; rfl, fun _ => rfl⟩
theorem execFenceCore_run (o : OpG) (s : State) : IsRun (.fenceCore o) s := ⟨_, _, show execFenceCore o s = _ by unfold execFenceCore; rfl, fun _ => rfl⟩
theorem execFenceDie_run (o : OpG) (s : State) : IsRun (.fenceDie o) s := ⟨_, _, show execFenceDie o s = _ by unfold execFenceDie; rfl, fun _ => rfl⟩
theorem execFenceDev_run (o : OpG) (s : State) : IsRun (.fenceDev o) s := ⟨_, _, show execFenceDev o s = _ by unfold execFenceDev; rfl, fun _ => rfl⟩
theorem execFenceSys_run (o : OpG) (s : State) : IsRun (.fenceSys o) s := ⟨_, _, show execFenceSys o s = _ by unfold execFenceSys; rfl, fun _ => rfl⟩
theorem execOfence_run (o : OpG) (s : State) : IsRun (.ofence o) s := ⟨_, _, show execOfence o s = _ by unfold execOfence; rfl, fun _ => rfl⟩
theorem execBarArr_run (o : OpS 16) (s : State) : IsRun (.barArr o) s := ⟨_, _, show execBarArr o s = _ by unfold execBarArr; rfl, fun _ => rfl⟩
theorem execBarWait_run (o : OpS 16) (s : State) : IsRun (.barWait o) s := ⟨_, _, show execBarWait o s = _ by unfold execBarWait; rfl, fun _ => rfl⟩
theorem execBarSync_run (o : OpS 16) (s : State) : IsRun (.barSync o) s := ⟨_, _, show execBarSync o s = _ by unfold execBarSync; rfl, fun _ => rfl⟩
theorem execBarInit_run (o : OpI 16) (s : State) : IsRun (.barInit o) s := ⟨_, _, show execBarInit o s = _ by unfold execBarInit; rfl, fun _ => rfl⟩
theorem execWait_run (o : OpX) (s : State) : IsRun (.wait o) s := ⟨_, _, show execWait o s = _ by unfold execWait; rfl, fun _ => rfl⟩
theorem execCpy_run (o : OpI 8) (s : State) : IsRun (.cpy o) s := ⟨_, _, show execCpy o s = _ by unfold execCpy; rfl, fun _ => rfl⟩
theorem execGath_run (o : OpI 8) (s : State) : IsRun (.gath o) s := ⟨_, _, show execGath o s = _ by unfold execGath; rfl, fun _ => rfl⟩
theorem execMxl_run (o : OpX) (s : State) : IsRun (.mxl o) s := ⟨_, _, show execMxl o s = _ by unfold execMxl; rfl, fun _ => rfl⟩
theorem execOres_run (o : OpX) (s : State) : IsRun (.ores o) s := ⟨_, _, show execOres o s = _ by unfold execOres; rfl, fun _ => rfl⟩
theorem execOrls_run (o : OpA) (s : State) : IsRun (.orls o) s := ⟨_, _, show execOrls o s = _ by unfold execOrls; rfl, fun _ => rfl⟩
theorem execStrm_run (o : OpI 4) (s : State) : IsRun (.strm o) s := ⟨_, _, show execStrm o s = _ by unfold execStrm; rfl, fun _ => rfl⟩
theorem execJmpi_run (o : OpA) (s : State) : IsRun (.jmpi o) s := ⟨_, _, show execJmpi o s = _ by unfold execJmpi; rfl, fun _ => rfl⟩
theorem execCalli_run (o : OpA) (s : State) : IsRun (.calli o) s := ⟨_, _, show execCalli o s = _ by unfold execCalli; rfl, fun _ => rfl⟩
theorem execRet_run (o : OpG) (s : State) : IsRun (.ret o) s := ⟨_, _, show execRet o s = _ by unfold execRet; rfl, fun _ => rfl⟩
theorem execIcinv_run (o : OpX) (s : State) : IsRun (.icinv o) s := ⟨_, _, show execIcinv o s = _ by unfold execIcinv; rfl, fun _ => rfl⟩
theorem execLaunch_run (o : OpX) (s : State) : IsRun (.launch o) s := ⟨_, _, show execLaunch o s = _ by unfold execLaunch; rfl, fun _ => rfl⟩
theorem execCancel_run (o : OpI 5) (s : State) : IsRun (.cancel o) s := ⟨_, _, show execCancel o s = _ by unfold execCancel; rfl, fun _ => rfl⟩
theorem execSpecCommit_run (o : OpA) (s : State) : IsRun (.specCommit o) s := ⟨_, _, show execSpecCommit o s = _ by unfold execSpecCommit; rfl, fun _ => rfl⟩
theorem execSpecDiscard_run (o : OpA) (s : State) : IsRun (.specDiscard o) s := ⟨_, _, show execSpecDiscard o s = _ by unfold execSpecDiscard; rfl, fun _ => rfl⟩
theorem execDbgHalt_run (o : OpA) (s : State) : IsRun (.dbgHalt o) s := ⟨_, _, show execDbgHalt o s = _ by unfold execDbgHalt; rfl, fun _ => rfl⟩
theorem execDbgResume_run (o : OpA) (s : State) : IsRun (.dbgResume o) s := ⟨_, _, show execDbgResume o s = _ by unfold execDbgResume; rfl, fun _ => rfl⟩
theorem execDbgStep_run (o : OpA) (s : State) : IsRun (.dbgStep o) s := ⟨_, _, show execDbgStep o s = _ by unfold execDbgStep; rfl, fun _ => rfl⟩
theorem execDbgSetmask_run (o : OpA) (s : State) : IsRun (.dbgSetmask o) s := ⟨_, _, show execDbgSetmask o s = _ by unfold execDbgSetmask; rfl, fun _ => rfl⟩
theorem execDbgWset_run (o : OpA) (s : State) : IsRun (.dbgWset o) s := ⟨_, _, show execDbgWset o s = _ by unfold execDbgWset; rfl, fun _ => rfl⟩
theorem execDbgWclr_run (o : OpA) (s : State) : IsRun (.dbgWclr o) s := ⟨_, _, show execDbgWclr o s = _ by unfold execDbgWclr; rfl, fun _ => rfl⟩
theorem execDbgStatus_run (o : OpA) (s : State) : IsRun (.dbgStatus o) s := ⟨_, _, show execDbgStatus o s = _ by unfold execDbgStatus; rfl, fun _ => rfl⟩
theorem execDbgReadreg_run (o : OpA) (s : State) : IsRun (.dbgReadreg o) s := ⟨_, _, show execDbgReadreg o s = _ by unfold execDbgReadreg; rfl, fun _ => rfl⟩
theorem execDbgBpset_run (o : OpA) (s : State) : IsRun (.dbgBpset o) s := ⟨_, _, show execDbgBpset o s = _ by unfold execDbgBpset; rfl, fun _ => rfl⟩
theorem execDbgBpclr_run (o : OpA) (s : State) : IsRun (.dbgBpclr o) s := ⟨_, _, show execDbgBpclr o s = _ by unfold execDbgBpclr; rfl, fun _ => rfl⟩
theorem execMovCompact_run (o : C16) (s : State) : IsRun (.movCompact o) s := ⟨_, _, rfl, fun _ => rfl⟩
theorem execIaddCompact_run (o : C16) (s : State) : IsRun (.iaddCompact o) s := ⟨_, _, rfl, fun _ => rfl⟩
theorem execIsubCompact_run (o : C16) (s : State) : IsRun (.isubCompact o) s := ⟨_, _, rfl, fun _ => rfl⟩
theorem execIadd32Compact_run (o : C16) (s : State) : IsRun (.iadd32Compact o) s := ⟨_, _, rfl, fun _ => rfl⟩
theorem execIaddi_run (o : C16I) (s : State) : IsRun (.iaddi o) s := ⟨_, _, rfl, fun _ => rfl⟩
theorem execAndCompact_run (o : C16) (s : State) : IsRun (.andCompact o) s := ⟨_, _, rfl, fun _ => rfl⟩
theorem execOrCompact_run (o : C16) (s : State) : IsRun (.orCompact o) s := ⟨_, _, rfl, fun _ => rfl⟩
theorem execXorCompact_run (o : C16) (s : State) : IsRun (.xorCompact o) s := ⟨_, _, rfl, fun _ => rfl⟩
theorem execShli_run (o : C16I) (s : State) : IsRun (.shli o) s := ⟨_, _, rfl, fun _ => rfl⟩
theorem execShri_run (o : C16I) (s : State) : IsRun (.shri o) s := ⟨_, _, rfl, fun _ => rfl⟩
theorem execFaddCompact_run (o : C16) (s : State) : IsRun (.faddCompact o) s := ⟨_, _, rfl, fun _ => rfl⟩
theorem execFsubCompact_run (o : C16) (s : State) : IsRun (.fsubCompact o) s := ⟨_, _, rfl, fun _ => rfl⟩
theorem execFmulCompact_run (o : C16) (s : State) : IsRun (.fmulCompact o) s := ⟨_, _, rfl, fun _ => rfl⟩
theorem execFmaxCompact_run (o : C16) (s : State) : IsRun (.fmaxCompact o) s := ⟨_, _, rfl, fun _ => rfl⟩
theorem execDaddCompact_run (o : C16) (s : State) : IsRun (.daddCompact o) s := ⟨_, _, rfl, fun _ => rfl⟩
theorem execDmulCompact_run (o : C16) (s : State) : IsRun (.dmulCompact o) s := ⟨_, _, rfl, fun _ => rfl⟩

theorem isRun (i : Instr) (s : State) (h : isEvent i = false) (h1 : i ≠ .ill) (h2 : i ≠ .illParcel) (h3 : ∀ o, i ≠ .imx o) : IsRun i s := by
  cases i with
  | iadd o => exact execIadd_run o s
  | isub o => exact execIsub_run o s
  | imul o => exact execImul_run o s
  | imac o => exact execImac_run o s
  | iadd32 o => exact execIadd32_run o s
  | isub32 o => exact execIsub32_run o s
  | imul32 o => exact execImul32_run o s
  | imac32 o => exact execImac32_run o s
  | imulhS o => exact execImulhS_run o s
  | imulhN o => exact execImulhN_run o s
  | andOp o => exact execAndOp_run o s
  | orOp o => exact execOrOp_run o s
  | xorOp o => exact execXorOp_run o s
  | andn o => exact execAndn_run o s
  | shl o => exact execShl_run o s
  | shr o => exact execShr_run o s
  | asr o => exact execAsr_run o s
  | loop o => exact execLoop_run o s
  | iminS o => exact execIminS_run o s
  | imaxS o => exact execImaxS_run o s
  | iminN o => exact execIminN_run o s
  | imaxN o => exact execImaxN_run o s
  | fadd o => exact execFadd_run o s
  | fsub o => exact execFsub_run o s
  | fmul o => exact execFmul_run o s
  | ffma o => exact execFfma_run o s
  | fmin o => exact execFmin_run o s
  | fmax o => exact execFmax_run o s
  | dadd o => exact execDadd_run o s
  | dsub o => exact execDsub_run o s
  | dmul o => exact execDmul_run o s
  | dfma o => exact execDfma_run o s
  | dmin o => exact execDmin_run o s
  | dmax o => exact execDmax_run o s
  | hadd o => exact execHadd_run o s
  | hmul o => exact execHmul_run o s
  | hfma o => exact execHfma_run o s
  | badd o => exact execBadd_run o s
  | bmul o => exact execBmul_run o s
  | bfma o => exact execBfma_run o s
  | icmpS o => exact execIcmpS_run o s
  | icmpN o => exact execIcmpN_run o s
  | fcmp o => exact execFcmp_run o s
  | dcmp o => exact execDcmp_run o s
  | sel o => exact execSel_run o s
  | ld8 o => exact execLd8_run o s
  | ld16 o => exact execLd16_run o s
  | ld32 o => exact execLd32_run o s
  | ld64 o => exact execLd64_run o s
  | ld8S o => exact execLd8S_run o s
  | ld16S o => exact execLd16S_run o s
  | ld32S o => exact execLd32S_run o s
  | st8 o => exact execSt8_run o s
  | st16 o => exact execSt16_run o s
  | st32 o => exact execSt32_run o s
  | st64 o => exact execSt64_run o s
  | ldacq o => exact execLdacq_run o s
  | strel o => exact execStrel_run o s
  | atomAdd o => exact execAtomAdd_run o s
  | atomAnd o => exact execAtomAnd_run o s
  | atomOr o => exact execAtomOr_run o s
  | atomXor o => exact execAtomXor_run o s
  | atomMinS o => exact execAtomMinS_run o s
  | atomMaxS o => exact execAtomMaxS_run o s
  | atomMinN o => exact execAtomMinN_run o s
  | atomMaxN o => exact execAtomMaxN_run o s
  | atomXchg o => exact execAtomXchg_run o s
  | atomCas o => exact execAtomCas_run o s
  | atomFadd o => exact execAtomFadd_run o s
  | atomIncw o => exact execAtomIncw_run o s
  | atomCasPromote o => exact execAtomCasPromote_run o s
  | atomHacc o => exact execAtomHacc_run o s
  | br o => exact execBr_run o s
  | call o => exact execCall_run o s
  | imx o => exact absurd rfl (h3 o)
  | ill => exact absurd rfl h1
  | illParcel => exact absurd rfl h2
  | mov o => exact execMov_run o s
  | notOp o => exact execNotOp_run o s
  | negOp o => exact execNegOp_run o s
  | absOp o => exact execAbsOp_run o s
  | popc o => exact execPopc_run o s
  | clz o => exact execClz_run o s
  | ctz o => exact execCtz_run o s
  | brev o => exact execBrev_run o s
  | bswap o => exact execBswap_run o s
  | sx8 o => exact execSx8_run o s
  | sx16 o => exact execSx16_run o s
  | sx32 o => exact execSx32_run o s
  | zx8 o => exact execZx8_run o s
  | zx16 o => exact execZx16_run o s
  | zx32 o => exact execZx32_run o s
  | movs o => exact execMovs_run o s
  | urd o => exact execUrd_run o s
  | uwr o => exact execUwr_run o s
  | fneg o => exact execFneg_run o s
  | fabs o => exact execFabs_run o s
  | dneg o => exact execDneg_run o s
  | dabs o => exact execDabs_run o s
  | frcp o => exact execFrcp_run o s
  | frsq o => exact execFrsq_run o s
  | fsqrt o => exact execFsqrt_run o s
  | fex2 o => exact execFex2_run o s
  | flg2 o => exact execFlg2_run o s
  | drcp o => exact execDrcp_run o s
  | dsqrt o => exact execDsqrt_run o s
  | drsq o => exact execDrsq_run o s
  | fscale o => exact execFscale_run o s
  | dscale o => exact execDscale_run o s
  | fxpn o => exact execFxpn_run o s
  | dxpn o => exact execDxpn_run o s
  | ex2s o => exact execEx2s_run o s
  | frintRn o => exact execFrintRn_run o s
  | frintRz o => exact execFrintRz_run o s
  | frintRm o => exact execFrintRm_run o s
  | frintRp o => exact execFrintRp_run o s
  | drintRn o => exact execDrintRn_run o s
  | drintRz o => exact execDrintRz_run o s
  | drintRm o => exact execDrintRm_run o s
  | drintRp o => exact execDrintRp_run o s
  | cvtF64F32 o => exact execCvtF64F32_run o s
  | cvtF32F64 o => exact execCvtF32F64_run o s
  | cvtF16F32 o => exact execCvtF16F32_run o s
  | cvtBf16F32 o => exact execCvtBf16F32_run o s
  | cvtF32F16 o => exact execCvtF32F16_run o s
  | cvtF32Bf16 o => exact execCvtF32Bf16_run o s
  | cvtF32S64 o => exact execCvtF32S64_run o s
  | cvtF32N64 o => exact execCvtF32N64_run o s
  | cvtF64S64 o => exact execCvtF64S64_run o s
  | cvtF64N64 o => exact execCvtF64N64_run o s
  | cvtS32F32 o => exact execCvtS32F32_run o s
  | cvtN32F32 o => exact execCvtN32F32_run o s
  | cvtS64F32 o => exact execCvtS64F32_run o s
  | cvtN64F32 o => exact execCvtN64F32_run o s
  | cvtS32F64 o => exact execCvtS32F64_run o s
  | cvtN32F64 o => exact execCvtN32F64_run o s
  | cvtS64F64 o => exact execCvtS64F64_run o s
  | cvtN64F64 o => exact execCvtN64F64_run o s
  | elect o => exact execElect_run o s
  | vany o => exact execVany_run o s
  | vall o => exact execVall_run o s
  | vbal o => exact execVbal_run o s
  | shfi o => exact execShfi_run o s
  | shfa o => exact execShfa_run o s
  | shfb o => exact execShfb_run o s
  | shfx o => exact execShfx_run o s
  | radd o => exact execRadd_run o s
  | rminS o => exact execRminS_run o s
  | rmaxS o => exact execRmaxS_run o s
  | rfadd o => exact execRfadd_run o s
  | rdadd o => exact execRdadd_run o s
  | scan o => exact execScan_run o s
  | matchOp o => exact execMatchOp_run o s
  | gpart o => exact execGpart_run o s
  | nop o => exact execNop_run o s
  | exit o => exact execExit_run o s
  | brk o => exact execBrk_run o s
  | trap o => exact execTrap_run o s
  | yield o => exact execYield_run o s
  | rgn o => exact execRgn_run o s
  | bnd o => exact execBnd_run o s
  | fenceGrp o => exact execFenceGrp_run o s
  | fenceCore o => exact execFenceCore_run o s
  | fenceDie o => exact execFenceDie_run o s
  | fenceDev o => exact execFenceDev_run o s
  | fenceSys o => exact execFenceSys_run o s
  | ofence o => exact execOfence_run o s
  | barArr o => exact execBarArr_run o s
  | barWait o => exact execBarWait_run o s
  | barSync o => exact execBarSync_run o s
  | barInit o => exact execBarInit_run o s
  | wait o => exact execWait_run o s
  | cpy o => exact execCpy_run o s
  | gath o => exact execGath_run o s
  | mxl o => exact execMxl_run o s
  | ores o => exact execOres_run o s
  | orls o => exact execOrls_run o s
  | strm o => exact execStrm_run o s
  | jmpi o => exact execJmpi_run o s
  | calli o => exact execCalli_run o s
  | ret o => exact execRet_run o s
  | icinv o => exact execIcinv_run o s
  | launch o => exact execLaunch_run o s
  | cancel o => exact execCancel_run o s
  | specCommit o => exact execSpecCommit_run o s
  | specDiscard o => exact execSpecDiscard_run o s
  | dbgHalt o => exact execDbgHalt_run o s
  | dbgResume o => exact execDbgResume_run o s
  | dbgStep o => exact execDbgStep_run o s
  | dbgSetmask o => exact execDbgSetmask_run o s
  | dbgWset o => exact execDbgWset_run o s
  | dbgWclr o => exact execDbgWclr_run o s
  | dbgStatus o => exact execDbgStatus_run o s
  | dbgReadreg o => exact execDbgReadreg_run o s
  | dbgBpset o => exact execDbgBpset_run o s
  | dbgBpclr o => exact execDbgBpclr_run o s
  | movCompact o => exact execMovCompact_run o s
  | iaddCompact o => exact execIaddCompact_run o s
  | isubCompact o => exact execIsubCompact_run o s
  | iadd32Compact o => exact execIadd32Compact_run o s
  | iaddi o => exact execIaddi_run o s
  | andCompact o => exact execAndCompact_run o s
  | orCompact o => exact execOrCompact_run o s
  | xorCompact o => exact execXorCompact_run o s
  | shli o => exact execShli_run o s
  | shri o => exact execShri_run o s
  | faddCompact o => exact execFaddCompact_run o s
  | fsubCompact o => exact execFsubCompact_run o s
  | fmulCompact o => exact execFmulCompact_run o s
  | fmaxCompact o => exact execFmaxCompact_run o s
  | daddCompact o => exact execDaddCompact_run o s
  | dmulCompact o => exact execDmulCompact_run o s
  | censusRound _ _ => exact Bool.noConfusion (show true = false from h)
  | gangSeat _ _ => exact Bool.noConfusion (show true = false from h)
  | gangUnseat _ _ _ => exact Bool.noConfusion (show true = false from h)
  | quantumDue _ _ _ => exact Bool.noConfusion (show true = false from h)
  | yieldHoldEnd _ => exact Bool.noConfusion (show true = false from h)
  | deprioritisationEnd _ => exact Bool.noConfusion (show true = false from h)
  | prefetchFill _ => exact Bool.noConfusion (show true = false from h)
  | parkConditionHolds _ => exact Bool.noConfusion (show true = false from h)
  | loadReply _ _ => exact Bool.noConfusion (show true = false from h)
  | storePerform _ _ => exact Bool.noConfusion (show true = false from h)
  | collectorSend _ _ => exact Bool.noConfusion (show true = false from h)
  | errorResponse _ _ => exact Bool.noConfusion (show true = false from h)
  | waitRecheck _ => exact Bool.noConfusion (show true = false from h)
  | streamPrefetch _ _ => exact Bool.noConfusion (show true = false from h)
  | streamOutDrain _ _ => exact Bool.noConfusion (show true = false from h)
  | engineQueueAccept _ _ => exact Bool.noConfusion (show true = false from h)
  | copyRowTransfer _ _ _ => exact Bool.noConfusion (show true = false from h)
  | gatherElement _ _ _ => exact Bool.noConfusion (show true = false from h)
  | probePass _ _ => exact Bool.noConfusion (show true = false from h)
  | engineOpEnd _ _ => exact Bool.noConfusion (show true = false from h)
  | watchdogTimeout _ _ => exact Bool.noConfusion (show true = false from h)
  | matrixQueueAccept _ => exact Bool.noConfusion (show true = false from h)
  | jobEnterContext _ => exact Bool.noConfusion (show true = false from h)
  | blockStep _ => exact Bool.noConfusion (show true = false from h)
  | jobEnd _ _ => exact Bool.noConfusion (show true = false from h)
  | handleReturn _ _ => exact Bool.noConfusion (show true = false from h)
  | allocationRelease _ => exact Bool.noConfusion (show true = false from h)
  | fqReplyResolve _ => exact Bool.noConfusion (show true = false from h)
  | fqReplyRefuse _ => exact Bool.noConfusion (show true = false from h)
  | fqLimitExpiry _ => exact Bool.noConfusion (show true = false from h)
  | fqTailWrite _ => exact Bool.noConfusion (show true = false from h)
  | fqBaseWrite _ => exact Bool.noConfusion (show true = false from h)
  | fqSizeWrite _ => exact Bool.noConfusion (show true = false from h)
  | xinvStart _ => exact Bool.noConfusion (show true = false from h)
  | xinvDone => exact Bool.noConfusion (show true = false from h)
  | sliceSizeChange _ _ => exact Bool.noConfusion (show true = false from h)
  | chTailWrite _ _ => exact Bool.noConfusion (show true = false from h)
  | chCtlRestart _ _ => exact Bool.noConfusion (show true = false from h)
  | jobEntry _ => exact Bool.noConfusion (show true = false from h)
  | graphEntry _ => exact Bool.noConfusion (show true = false from h)
  | launchEntry _ => exact Bool.noConfusion (show true = false from h)
  | phaseEntry _ => exact Bool.noConfusion (show true = false from h)
  | waitcEntry _ => exact Bool.noConfusion (show true = false from h)
  | endEntry _ => exact Bool.noConfusion (show true = false from h)
  | specEntryCommit _ => exact Bool.noConfusion (show true = false from h)
  | specEntryDiscard _ => exact Bool.noConfusion (show true = false from h)
  | chainEntryRetire _ => exact Bool.noConfusion (show true = false from h)
  | unitStart _ _ => exact Bool.noConfusion (show true = false from h)
  | levelComplete _ _ => exact Bool.noConfusion (show true = false from h)
  | preemption _ => exact Bool.noConfusion (show true = false from h)
  | resumption _ => exact Bool.noConfusion (show true = false from h)
  | hostApertureWrite _ _ => exact Bool.noConfusion (show true = false from h)
  | hostApertureRead _ _ => exact Bool.noConfusion (show true = false from h)
  | flitReceive _ _ => exact Bool.noConfusion (show true = false from h)
  | linkAckTimeout _ => exact Bool.noConfusion (show true = false from h)
  | linkTrainingDone _ _ _ => exact Bool.noConfusion (show true = false from h)
  | linkTakeDown _ => exact Bool.noConfusion (show true = false from h)
  | linkAllowTrain _ => exact Bool.noConfusion (show true = false from h)
  | routeWrite _ _ => exact Bool.noConfusion (show true = false from h)
  | epEventClear _ => exact Bool.noConfusion (show true = false from h)
  | islandReset _ => exact Bool.noConfusion (show true = false from h)
  | mgmtResetComputeDie _ => exact Bool.noConfusion (show true = false from h)
  | mgmtResetBaseDie _ => exact Bool.noConfusion (show true = false from h)
  | mgmtResetHub _ => exact Bool.noConfusion (show true = false from h)
  | resetSequenceComplete => exact Bool.noConfusion (show true = false from h)
  | dmapWrite _ => exact Bool.noConfusion (show true = false from h)
  | dieHeartbeatMiss _ => exact Bool.noConfusion (show true = false from h)
  | dieInternalError _ => exact Bool.noConfusion (show true = false from h)
  | spareSelfTestDone _ => exact Bool.noConfusion (show true = false from h)
  | lostUnitRerun _ => exact Bool.noConfusion (show true = false from h)
  | aperBaseWrite _ => exact Bool.noConfusion (show true = false from h)
  | pwrClWrite _ _ => exact Bool.noConfusion (show true = false from h)
  | ratioChangeComplete _ => exact Bool.noConfusion (show true = false from h)
  | powerLimitStep _ _ => exact Bool.noConfusion (show true = false from h)
  | droopDetect _ => exact Bool.noConfusion (show true = false from h)
  | droopRecover _ => exact Bool.noConfusion (show true = false from h)
  | holdStart _ => exact Bool.noConfusion (show true = false from h)
  | holdEnd _ => exact Bool.noConfusion (show true = false from h)
  | tmrAlign _ => exact Bool.noConfusion (show true = false from h)
  | powerOnReset => exact Bool.noConfusion (show true = false from h)
  | monitorSample _ _ => exact Bool.noConfusion (show true = false from h)
  | monitorClr _ => exact Bool.noConfusion (show true = false from h)
  | errorLogClear _ => exact Bool.noConfusion (show true = false from h)
  | managementLogClear => exact Bool.noConfusion (show true = false from h)
  | attest _ _ => exact Bool.noConfusion (show true = false from h)
  | loadImage _ _ => exact Bool.noConfusion (show true = false from h)
  | readMeas _ _ => exact Bool.noConfusion (show true = false from h)
  | mailboxCompletion => exact Bool.noConfusion (show true = false from h)
  | bar0BadAccess _ => exact Bool.noConfusion (show true = false from h)
  | registerWrite _ _ _ => exact Bool.noConfusion (show true = false from h)
  | cancellationTakesEffect _ => exact Bool.noConfusion (show true = false from h)
  | sequencerCounterReread _ => exact Bool.noConfusion (show true = false from h)
  | zeroLengthReadCompletion => exact Bool.noConfusion (show true = false from h)
  | bar2Resize _ => exact Bool.noConfusion (show true = false from h)
  | unknownCommandCode _ _ => exact Bool.noConfusion (show true = false from h)

/-! ## The steps of the device always answer a next state -/

theorem ite_next {c : Prop} [Decidable c] {a b : Out} (ha : ∃ s, a = .next s) (hb : ∃ s, b = .next s) : ∃ s, (if c then a else b) = .next s := by
  split
  · exact ha
  · exact hb

theorem execCensusRound_next (ck : Nat) (a : Nat) (s : State) : ∃ s2, execCensusRound ck a s = .next s2 := by
  unfold execCensusRound; exact ite_next ⟨_, rfl⟩ (ite_next ⟨_, rfl⟩ ⟨_, rfl⟩)
theorem execGangSeat_next (ck : Nat) (a : Nat) (s : State) : ∃ s2, execGangSeat ck a s = .next s2 := by unfold execGangSeat; repeat (first | exact ⟨_, rfl⟩ | split | dsimp only)
theorem execGangUnseat_next (ck : Nat) (a : Nat) (seat : Nat) (s : State) : ∃ s2, execGangUnseat ck a seat s = .next s2 := by unfold execGangUnseat; repeat (first | exact ⟨_, rfl⟩ | split | dsimp only)
theorem execQuantumDue_next (ck : Nat) (a : Nat) (seat : Nat) (s : State) : ∃ s2, execQuantumDue ck a seat s = .next s2 := by unfold execQuantumDue; repeat (first | exact ⟨_, rfl⟩ | split | dsimp only)
theorem execYieldHoldEnd_next (tk : Nat) (s : State) : ∃ s2, execYieldHoldEnd tk s = .next s2 := by unfold execYieldHoldEnd; repeat (first | exact ⟨_, rfl⟩ | split | dsimp only)
theorem execDeprioritisationEnd_next (tk : Nat) (s : State) : ∃ s2, execDeprioritisationEnd tk s = .next s2 := by unfold execDeprioritisationEnd; repeat (first | exact ⟨_, rfl⟩ | split | dsimp only)
theorem execPrefetchFill_next (tk : Nat) (s : State) : ∃ s2, execPrefetchFill tk s = .next s2 := by unfold execPrefetchFill; repeat (first | exact ⟨_, rfl⟩ | split | dsimp only)
theorem execParkConditionHolds_next (tk : Nat) (s : State) : ∃ s2, execParkConditionHolds tk s = .next s2 := by unfold execParkConditionHolds; repeat (first | exact ⟨_, rfl⟩ | split | dsimp only)
theorem execLoadReply_next (tk : Nat) (idx : Nat) (s : State) : ∃ s2, execLoadReply tk idx s = .next s2 := by unfold execLoadReply; repeat (first | exact ⟨_, rfl⟩ | split | dsimp only)
theorem execStorePerform_next (ck : Nat) (idx : Nat) (s : State) : ∃ s2, execStorePerform ck idx s = .next s2 := by unfold execStorePerform; repeat (first | exact ⟨_, rfl⟩ | split | dsimp only)
theorem execCollectorSend_next (ck : Nat) (idx : Nat) (s : State) : ∃ s2, execCollectorSend ck idx s = .next s2 := by unfold execCollectorSend; repeat (first | exact ⟨_, rfl⟩ | split | dsimp only)
theorem execErrorResponse_next (rq : ErrReq) (cause : Nat) (s : State) : ∃ s2, execErrorResponse rq cause s = .next s2 := by unfold execErrorResponse; repeat (first | exact ⟨_, rfl⟩ | split | dsimp only)
theorem execWaitRecheck_next (tk : Nat) (s : State) : ∃ s2, execWaitRecheck tk s = .next s2 := by unfold execWaitRecheck; repeat (first | exact ⟨_, rfl⟩ | split | dsimp only)
theorem execStreamPrefetch_next (tk : Nat) (port : Nat) (s : State) : ∃ s2, execStreamPrefetch tk port s = .next s2 := by unfold execStreamPrefetch; repeat (first | exact ⟨_, rfl⟩ | split | dsimp only)
theorem execStreamOutDrain_next (tk : Nat) (port : Nat) (s : State) : ∃ s2, execStreamOutDrain tk port s = .next s2 := by unfold execStreamOutDrain; repeat (first | exact ⟨_, rfl⟩ | split | dsimp only)
theorem execEngineQueueAccept_next (ck : Nat) (ch : Nat) (s : State) : ∃ s2, execEngineQueueAccept ck ch s = .next s2 := by unfold execEngineQueueAccept; repeat (first | exact ⟨_, rfl⟩ | split | dsimp only)
theorem execCopyRowTransfer_next (ck : Nat) (op : Nat) (row : Nat) (s : State) : ∃ s2, execCopyRowTransfer ck op row s = .next s2 := by unfold execCopyRowTransfer; repeat (first | exact ⟨_, rfl⟩ | split | dsimp only)
theorem execGatherElement_next (ck : Nat) (op : Nat) (el : Nat) (s : State) : ∃ s2, execGatherElement ck op el s = .next s2 := by unfold execGatherElement; repeat (first | exact ⟨_, rfl⟩ | split | dsimp only)
theorem execProbePass_next (ck : Nat) (op : Nat) (s : State) : ∃ s2, execProbePass ck op s = .next s2 := by unfold execProbePass; repeat (first | exact ⟨_, rfl⟩ | split | dsimp only)
theorem execEngineOpEnd_next (ck : Nat) (op : Nat) (s : State) : ∃ s2, execEngineOpEnd ck op s = .next s2 := by unfold execEngineOpEnd; repeat (first | exact ⟨_, rfl⟩ | split | dsimp only)
theorem execWatchdogTimeout_next (ck : Nat) (op : Nat) (s : State) : ∃ s2, execWatchdogTimeout ck op s = .next s2 := by unfold execWatchdogTimeout; repeat (first | exact ⟨_, rfl⟩ | split | dsimp only)
theorem execMatrixQueueAccept_next (ck : Nat) (s : State) : ∃ s2, execMatrixQueueAccept ck s = .next s2 := by unfold execMatrixQueueAccept; repeat (first | exact ⟨_, rfl⟩ | split | dsimp only)
theorem execJobEnterContext_next (ck : Nat) (s : State) : ∃ s2, execJobEnterContext ck s = .next s2 := by unfold execJobEnterContext; repeat (first | exact ⟨_, rfl⟩ | split | dsimp only)
theorem execBlockStep_next (ck : Nat) (s : State) : ∃ s2, execBlockStep ck s = .next s2 := by unfold execBlockStep; repeat (first | exact ⟨_, rfl⟩ | split | dsimp only)
theorem execJobEnd_next (ck : Nat) (job : Nat) (s : State) : ∃ s2, execJobEnd ck job s = .next s2 := by unfold execJobEnd; repeat (first | exact ⟨_, rfl⟩ | split | dsimp only)
theorem execHandleReturn_next (uid : Nat) (h : Nat) (s : State) : ∃ s2, execHandleReturn uid h s = .next s2 := by unfold execHandleReturn; repeat (first | exact ⟨_, rfl⟩ | split | dsimp only)
theorem execAllocationRelease_next (uid : Nat) (s : State) : ∃ s2, execAllocationRelease uid s = .next s2 := by unfold execAllocationRelease; repeat (first | exact ⟨_, rfl⟩ | split | dsimp only)
theorem execFqReplyResolve_next (token : Nat) (s : State) : ∃ s2, execFqReplyResolve token s = .next s2 := by unfold execFqReplyResolve; repeat (first | exact ⟨_, rfl⟩ | split | dsimp only)
theorem execFqReplyRefuse_next (token : Nat) (s : State) : ∃ s2, execFqReplyRefuse token s = .next s2 := by unfold execFqReplyRefuse; repeat (first | exact ⟨_, rfl⟩ | split | dsimp only)
theorem execFqLimitExpiry_next (token : Nat) (s : State) : ∃ s2, execFqLimitExpiry token s = .next s2 := by unfold execFqLimitExpiry; repeat (first | exact ⟨_, rfl⟩ | split | dsimp only)
theorem execFqTailWrite_next (v : Word) (s : State) : ∃ s2, execFqTailWrite v s = .next s2 := by unfold execFqTailWrite; repeat (first | exact ⟨_, rfl⟩ | split | dsimp only)
theorem execFqBaseWrite_next (v : Word) (s : State) : ∃ s2, execFqBaseWrite v s = .next s2 := by unfold execFqBaseWrite; repeat (first | exact ⟨_, rfl⟩ | split | dsimp only)
theorem execFqSizeWrite_next (v : Word) (s : State) : ∃ s2, execFqSizeWrite v s = .next s2 := by unfold execFqSizeWrite; repeat (first | exact ⟨_, rfl⟩ | split | dsimp only)
theorem execXinvStart_next (v : Word) (s : State) : ∃ s2, execXinvStart v s = .next s2 := by unfold execXinvStart; repeat (first | exact ⟨_, rfl⟩ | split | dsimp only)
theorem execXinvDone_next (s : State) : ∃ s2, execXinvDone s = .next s2 := by unfold execXinvDone; repeat (first | exact ⟨_, rfl⟩ | split | dsimp only)
theorem execSliceSizeChange_next (bdie : Nat) (size : Nat) (s : State) : ∃ s2, execSliceSizeChange bdie size s = .next s2 := by unfold execSliceSizeChange; repeat (first | exact ⟨_, rfl⟩ | split | dsimp only)
theorem execChTailWrite_next (n : Nat) (v : Word) (s : State) : ∃ s2, execChTailWrite n v s = .next s2 := by unfold execChTailWrite; repeat (first | exact ⟨_, rfl⟩ | split | dsimp only)
theorem execChCtlRestart_next (n : Nat) (v : Word) (s : State) : ∃ s2, execChCtlRestart n v s = .next s2 := by unfold execChCtlRestart; repeat (first | exact ⟨_, rfl⟩ | split | dsimp only)
theorem execJobEntry_next (n : Nat) (s : State) : ∃ s2, execJobEntry n s = .next s2 := by unfold execJobEntry; repeat (first | exact ⟨_, rfl⟩ | split | dsimp only)
theorem execGraphEntry_next (n : Nat) (s : State) : ∃ s2, execGraphEntry n s = .next s2 := by unfold execGraphEntry; repeat (first | exact ⟨_, rfl⟩ | split | dsimp only)
theorem execLaunchEntry_next (n : Nat) (s : State) : ∃ s2, execLaunchEntry n s = .next s2 := by unfold execLaunchEntry; repeat (first | exact ⟨_, rfl⟩ | split | dsimp only)
theorem execPhaseEntry_next (n : Nat) (s : State) : ∃ s2, execPhaseEntry n s = .next s2 := by unfold execPhaseEntry; repeat (first | exact ⟨_, rfl⟩ | split | dsimp only)
theorem execWaitcEntry_next (n : Nat) (s : State) : ∃ s2, execWaitcEntry n s = .next s2 := by unfold execWaitcEntry; repeat (first | exact ⟨_, rfl⟩ | split | dsimp only)
theorem execEndEntry_next (n : Nat) (s : State) : ∃ s2, execEndEntry n s = .next s2 := by unfold execEndEntry; repeat (first | exact ⟨_, rfl⟩ | split | dsimp only)
theorem execSpecEntryCommit_next (n : Nat) (s : State) : ∃ s2, execSpecEntryCommit n s = .next s2 := by unfold execSpecEntryCommit; repeat (first | exact ⟨_, rfl⟩ | split | dsimp only)
theorem execSpecEntryDiscard_next (n : Nat) (s : State) : ∃ s2, execSpecEntryDiscard n s = .next s2 := by unfold execSpecEntryDiscard; repeat (first | exact ⟨_, rfl⟩ | split | dsimp only)
theorem execChainEntryRetire_next (n : Nat) (s : State) : ∃ s2, execChainEntryRetire n s = .next s2 := by unfold execChainEntryRetire; repeat (first | exact ⟨_, rfl⟩ | split | dsimp only)
theorem execUnitStart_next (lid : Nat) (idx : Nat) (s : State) : ∃ s2, execUnitStart lid idx s = .next s2 := by unfold execUnitStart; repeat (first | exact ⟨_, rfl⟩ | split | dsimp only)
theorem execLevelComplete_next (level : Nat) (id : Nat) (s : State) : ∃ s2, execLevelComplete level id s = .next s2 := by unfold execLevelComplete; repeat (first | exact ⟨_, rfl⟩ | split | dsimp only)
theorem execPreemption_next (uid : Nat) (s : State) : ∃ s2, execPreemption uid s = .next s2 := by unfold execPreemption; repeat (first | exact ⟨_, rfl⟩ | split | dsimp only)
theorem execResumption_next (uid : Nat) (s : State) : ∃ s2, execResumption uid s = .next s2 := by unfold execResumption; repeat (first | exact ⟨_, rfl⟩ | split | dsimp only)
theorem execHostApertureWrite_next (off : Nat) (bytes : (List Byte)) (s : State) : ∃ s2, execHostApertureWrite off bytes s = .next s2 := by unfold execHostApertureWrite; repeat (first | exact ⟨_, rfl⟩ | split | dsimp only)
theorem execHostApertureRead_next (off : Nat) (len : Nat) (s : State) : ∃ s2, execHostApertureRead off len s = .next s2 := by unfold execHostApertureRead; repeat (first | exact ⟨_, rfl⟩ | split | dsimp only)
theorem execFlitReceive_next (port : Nat) (flit : (List Byte)) (s : State) : ∃ s2, execFlitReceive port flit s = .next s2 := by unfold execFlitReceive; repeat (first | exact ⟨_, rfl⟩ | split | dsimp only)
theorem execLinkAckTimeout_next (port : Nat) (s : State) : ∃ s2, execLinkAckTimeout port s = .next s2 := by unfold execLinkAckTimeout; repeat (first | exact ⟨_, rfl⟩ | split | dsimp only)
theorem execLinkTrainingDone_next (port : Nat) (lanes : Nat) (peer : Nat) (s : State) : ∃ s2, execLinkTrainingDone port lanes peer s = .next s2 := by unfold execLinkTrainingDone; repeat (first | exact ⟨_, rfl⟩ | split | dsimp only)
theorem execLinkTakeDown_next (port : Nat) (s : State) : ∃ s2, execLinkTakeDown port s = .next s2 := by unfold execLinkTakeDown; repeat (first | exact ⟨_, rfl⟩ | split | dsimp only)
theorem execLinkAllowTrain_next (port : Nat) (s : State) : ∃ s2, execLinkAllowTrain port s = .next s2 := by unfold execLinkAllowTrain; repeat (first | exact ⟨_, rfl⟩ | split | dsimp only)
theorem execRouteWrite_next (m : Nat) (v : Word) (s : State) : ∃ s2, execRouteWrite m v s = .next s2 := by unfold execRouteWrite; repeat (first | exact ⟨_, rfl⟩ | split | dsimp only)
theorem execEpEventClear_next (v : Word) (s : State) : ∃ s2, execEpEventClear v s = .next s2 := by unfold execEpEventClear; repeat (first | exact ⟨_, rfl⟩ | split | dsimp only)
theorem execIslandReset_next (v : Word) (s : State) : ∃ s2, execIslandReset v s = .next s2 := by unfold execIslandReset; repeat (first | exact ⟨_, rfl⟩ | split | dsimp only)
theorem execMgmtResetComputeDie_next (v : Word) (s : State) : ∃ s2, execMgmtResetComputeDie v s = .next s2 := by unfold execMgmtResetComputeDie; repeat (first | exact ⟨_, rfl⟩ | split | dsimp only)
theorem execMgmtResetBaseDie_next (v : Word) (s : State) : ∃ s2, execMgmtResetBaseDie v s = .next s2 := by unfold execMgmtResetBaseDie; repeat (first | exact ⟨_, rfl⟩ | split | dsimp only)
theorem execMgmtResetHub_next (v : Word) (s : State) : ∃ s2, execMgmtResetHub v s = .next s2 := by unfold execMgmtResetHub; repeat (first | exact ⟨_, rfl⟩ | split | dsimp only)
theorem execResetSequenceComplete_next (s : State) : ∃ s2, execResetSequenceComplete s = .next s2 := by unfold execResetSequenceComplete; repeat (first | exact ⟨_, rfl⟩ | split | dsimp only)
theorem execDmapWrite_next (v : Word) (s : State) : ∃ s2, execDmapWrite v s = .next s2 := by unfold execDmapWrite; repeat (first | exact ⟨_, rfl⟩ | split | dsimp only)
theorem execDieHeartbeatMiss_next (p : Nat) (s : State) : ∃ s2, execDieHeartbeatMiss p s = .next s2 := by unfold execDieHeartbeatMiss; repeat (first | exact ⟨_, rfl⟩ | split | dsimp only)
theorem execDieInternalError_next (p : Nat) (s : State) : ∃ s2, execDieInternalError p s = .next s2 := by unfold execDieInternalError; repeat (first | exact ⟨_, rfl⟩ | split | dsimp only)
theorem execSpareSelfTestDone_next (ok : Bool) (s : State) : ∃ s2, execSpareSelfTestDone ok s = .next s2 := by unfold execSpareSelfTestDone; repeat (first | exact ⟨_, rfl⟩ | split | dsimp only)
theorem execLostUnitRerun_next (uid : Nat) (s : State) : ∃ s2, execLostUnitRerun uid s = .next s2 := by unfold execLostUnitRerun; repeat (first | exact ⟨_, rfl⟩ | split | dsimp only)
theorem execAperBaseWrite_next (v : Word) (s : State) : ∃ s2, execAperBaseWrite v s = .next s2 := by unfold execAperBaseWrite; repeat (first | exact ⟨_, rfl⟩ | split | dsimp only)
theorem execPwrClWrite_next (n : Nat) (v : Word) (s : State) : ∃ s2, execPwrClWrite n v s = .next s2 := by unfold execPwrClWrite; repeat (first | exact ⟨_, rfl⟩ | split | dsimp only)
theorem execRatioChangeComplete_next (n : Nat) (s : State) : ∃ s2, execRatioChangeComplete n s = .next s2 := by unfold execRatioChangeComplete; repeat (first | exact ⟨_, rfl⟩ | split | dsimp only)
theorem execPowerLimitStep_next (n : Nat) (step : Nat) (s : State) : ∃ s2, execPowerLimitStep n step s = .next s2 := by unfold execPowerLimitStep; repeat (first | exact ⟨_, rfl⟩ | split | dsimp only)
theorem execDroopDetect_next (n : Nat) (s : State) : ∃ s2, execDroopDetect n s = .next s2 := by unfold execDroopDetect; repeat (first | exact ⟨_, rfl⟩ | split | dsimp only)
theorem execDroopRecover_next (n : Nat) (s : State) : ∃ s2, execDroopRecover n s = .next s2 := by unfold execDroopRecover; repeat (first | exact ⟨_, rfl⟩ | split | dsimp only)
theorem execHoldStart_next (n : Nat) (s : State) : ∃ s2, execHoldStart n s = .next s2 := by unfold execHoldStart; repeat (first | exact ⟨_, rfl⟩ | split | dsimp only)
theorem execHoldEnd_next (n : Nat) (s : State) : ∃ s2, execHoldEnd n s = .next s2 := by unfold execHoldEnd; repeat (first | exact ⟨_, rfl⟩ | split | dsimp only)
theorem execTmrAlign_next (forward : Nat) (s : State) : ∃ s2, execTmrAlign forward s = .next s2 := by unfold execTmrAlign; repeat (first | exact ⟨_, rfl⟩ | split | dsimp only)
theorem execPowerOnReset_next (s : State) : ∃ s2, execPowerOnReset s = .next s2 := by unfold execPowerOnReset; repeat (first | exact ⟨_, rfl⟩ | split | dsimp only)
theorem execMonitorSample_next (n : Nat) (sample : Nat) (s : State) : ∃ s2, execMonitorSample n sample s = .next s2 := by unfold execMonitorSample; repeat (first | exact ⟨_, rfl⟩ | split | dsimp only)
theorem execMonitorClr_next (n : Nat) (s : State) : ∃ s2, execMonitorClr n s = .next s2 := by unfold execMonitorClr; repeat (first | exact ⟨_, rfl⟩ | split | dsimp only)
theorem execErrorLogClear_next (ck : Nat) (s : State) : ∃ s2, execErrorLogClear ck s = .next s2 := by unfold execErrorLogClear; repeat (first | exact ⟨_, rfl⟩ | split | dsimp only)
theorem execManagementLogClear_next (s : State) : ∃ s2, execManagementLogClear s = .next s2 := by unfold execManagementLogClear; repeat (first | exact ⟨_, rfl⟩ | split | dsimp only)
theorem execAttest_next (len : Nat) (tag : Nat) (s : State) : ∃ s2, execAttest len tag s = .next s2 := by unfold execAttest; repeat (first | exact ⟨_, rfl⟩ | split | dsimp only)
theorem execLoadImage_next (len : Nat) (tag : Nat) (s : State) : ∃ s2, execLoadImage len tag s = .next s2 := by unfold execLoadImage; repeat (first | exact ⟨_, rfl⟩ | split | dsimp only)
theorem execReadMeas_next (len : Nat) (tag : Nat) (s : State) : ∃ s2, execReadMeas len tag s = .next s2 := by unfold execReadMeas; repeat (first | exact ⟨_, rfl⟩ | split | dsimp only)
theorem execMailboxCompletion_next (s : State) : ∃ s2, execMailboxCompletion s = .next s2 := by unfold execMailboxCompletion; repeat (first | exact ⟨_, rfl⟩ | split | dsimp only)
theorem execBar0BadAccess_next (off : Nat) (s : State) : ∃ s2, execBar0BadAccess off s = .next s2 := by unfold execBar0BadAccess; repeat (first | exact ⟨_, rfl⟩ | split | dsimp only)
theorem routeWrites_next (m len : Nat) (v : Word) (s : State) : ∃ s2, routeWrites m len v s = .next s2 := by
  unfold routeWrites
  obtain ⟨s2, h⟩ := execRouteWrite_next m (Word.ofN (bits v.toNat 31 0)) s
  rw [h]
  dsimp only
  split
  · exact execRouteWrite_next _ _ _
  · exact ⟨_, rfl⟩
theorem execRegisterWrite_next (off : Nat) (len : Nat) (v : Word) (s : State) : ∃ s2, execRegisterWrite off len v s = .next s2 := by
  unfold execRegisterWrite
  split
  · exact ⟨_, rfl⟩
  split
  · exact ⟨_, rfl⟩
  split
  · exact execFqTailWrite_next _ _
  split
  · exact routeWrites_next _ _ _ _
  · exact ⟨_, rfl⟩
theorem execCancellationTakesEffect_next (idx : Nat) (s : State) : ∃ s2, execCancellationTakesEffect idx s = .next s2 := by unfold execCancellationTakesEffect; repeat (first | exact ⟨_, rfl⟩ | split | dsimp only)
theorem execSequencerCounterReread_next (idx : Nat) (s : State) : ∃ s2, execSequencerCounterReread idx s = .next s2 := by unfold execSequencerCounterReread; repeat (first | exact ⟨_, rfl⟩ | split | dsimp only)
theorem execZeroLengthReadCompletion_next (s : State) : ∃ s2, execZeroLengthReadCompletion s = .next s2 := by unfold execZeroLengthReadCompletion; repeat (first | exact ⟨_, rfl⟩ | split | dsimp only)
theorem execBar2Resize_next (size : Nat) (s : State) : ∃ s2, execBar2Resize size s = .next s2 := by unfold execBar2Resize; repeat (first | exact ⟨_, rfl⟩ | split | dsimp only)
theorem execUnknownCommandCode_next (code : Nat) (tag : Nat) (s : State) : ∃ s2, execUnknownCommandCode code tag s = .next s2 := by unfold execUnknownCommandCode; repeat (first | exact ⟨_, rfl⟩ | split | dsimp only)

/-- An instruction of a thread, or a step of the device, always answers a next state. -/
theorem exec_next (i : Instr) (s : State) (h : isEvent i = false → ∃ tk t, s.cur = some tk ∧ s.thread? tk = some t) : ∃ s2, exec i s = .next s2 := by
  have on (hi : isEvent i = false) (f : Nat → Thread → State) : ∃ s2, onCurrent s f = .next s2 := by
    obtain ⟨tk, t, hc, ht⟩ := h hi
    unfold onCurrent
    rw [hc]
    dsimp only
    rw [ht]
    exact ⟨_, rfl⟩
  have go (hr : IsRun i s) (hi : isEvent i = false) : ∃ s2, exec i s = .next s2 := by
    obtain ⟨tk, t, hc, ht⟩ := h hi
    obtain ⟨body, off, he, _⟩ := hr
    rw [he]
    exact run_next hc ht body off
  cases i with
  | iadd o => exact go (execIadd_run o s) rfl
  | isub o => exact go (execIsub_run o s) rfl
  | imul o => exact go (execImul_run o s) rfl
  | imac o => exact go (execImac_run o s) rfl
  | iadd32 o => exact go (execIadd32_run o s) rfl
  | isub32 o => exact go (execIsub32_run o s) rfl
  | imul32 o => exact go (execImul32_run o s) rfl
  | imac32 o => exact go (execImac32_run o s) rfl
  | imulhS o => exact go (execImulhS_run o s) rfl
  | imulhN o => exact go (execImulhN_run o s) rfl
  | andOp o => exact go (execAndOp_run o s) rfl
  | orOp o => exact go (execOrOp_run o s) rfl
  | xorOp o => exact go (execXorOp_run o s) rfl
  | andn o => exact go (execAndn_run o s) rfl
  | shl o => exact go (execShl_run o s) rfl
  | shr o => exact go (execShr_run o s) rfl
  | asr o => exact go (execAsr_run o s) rfl
  | loop o => exact go (execLoop_run o s) rfl
  | iminS o => exact go (execIminS_run o s) rfl
  | imaxS o => exact go (execImaxS_run o s) rfl
  | iminN o => exact go (execIminN_run o s) rfl
  | imaxN o => exact go (execImaxN_run o s) rfl
  | fadd o => exact go (execFadd_run o s) rfl
  | fsub o => exact go (execFsub_run o s) rfl
  | fmul o => exact go (execFmul_run o s) rfl
  | ffma o => exact go (execFfma_run o s) rfl
  | fmin o => exact go (execFmin_run o s) rfl
  | fmax o => exact go (execFmax_run o s) rfl
  | dadd o => exact go (execDadd_run o s) rfl
  | dsub o => exact go (execDsub_run o s) rfl
  | dmul o => exact go (execDmul_run o s) rfl
  | dfma o => exact go (execDfma_run o s) rfl
  | dmin o => exact go (execDmin_run o s) rfl
  | dmax o => exact go (execDmax_run o s) rfl
  | hadd o => exact go (execHadd_run o s) rfl
  | hmul o => exact go (execHmul_run o s) rfl
  | hfma o => exact go (execHfma_run o s) rfl
  | badd o => exact go (execBadd_run o s) rfl
  | bmul o => exact go (execBmul_run o s) rfl
  | bfma o => exact go (execBfma_run o s) rfl
  | icmpS o => exact go (execIcmpS_run o s) rfl
  | icmpN o => exact go (execIcmpN_run o s) rfl
  | fcmp o => exact go (execFcmp_run o s) rfl
  | dcmp o => exact go (execDcmp_run o s) rfl
  | sel o => exact go (execSel_run o s) rfl
  | ld8 o => exact go (execLd8_run o s) rfl
  | ld16 o => exact go (execLd16_run o s) rfl
  | ld32 o => exact go (execLd32_run o s) rfl
  | ld64 o => exact go (execLd64_run o s) rfl
  | ld8S o => exact go (execLd8S_run o s) rfl
  | ld16S o => exact go (execLd16S_run o s) rfl
  | ld32S o => exact go (execLd32S_run o s) rfl
  | st8 o => exact go (execSt8_run o s) rfl
  | st16 o => exact go (execSt16_run o s) rfl
  | st32 o => exact go (execSt32_run o s) rfl
  | st64 o => exact go (execSt64_run o s) rfl
  | ldacq o => exact go (execLdacq_run o s) rfl
  | strel o => exact go (execStrel_run o s) rfl
  | atomAdd o => exact go (execAtomAdd_run o s) rfl
  | atomAnd o => exact go (execAtomAnd_run o s) rfl
  | atomOr o => exact go (execAtomOr_run o s) rfl
  | atomXor o => exact go (execAtomXor_run o s) rfl
  | atomMinS o => exact go (execAtomMinS_run o s) rfl
  | atomMaxS o => exact go (execAtomMaxS_run o s) rfl
  | atomMinN o => exact go (execAtomMinN_run o s) rfl
  | atomMaxN o => exact go (execAtomMaxN_run o s) rfl
  | atomXchg o => exact go (execAtomXchg_run o s) rfl
  | atomCas o => exact go (execAtomCas_run o s) rfl
  | atomFadd o => exact go (execAtomFadd_run o s) rfl
  | atomIncw o => exact go (execAtomIncw_run o s) rfl
  | atomCasPromote o => exact go (execAtomCasPromote_run o s) rfl
  | atomHacc o => exact go (execAtomHacc_run o s) rfl
  | br o => exact go (execBr_run o s) rfl
  | call o => exact go (execCall_run o s) rfl
  | imx o => exact on rfl _
  | ill => exact on rfl _
  | illParcel => exact on rfl _
  | mov o => exact go (execMov_run o s) rfl
  | notOp o => exact go (execNotOp_run o s) rfl
  | negOp o => exact go (execNegOp_run o s) rfl
  | absOp o => exact go (execAbsOp_run o s) rfl
  | popc o => exact go (execPopc_run o s) rfl
  | clz o => exact go (execClz_run o s) rfl
  | ctz o => exact go (execCtz_run o s) rfl
  | brev o => exact go (execBrev_run o s) rfl
  | bswap o => exact go (execBswap_run o s) rfl
  | sx8 o => exact go (execSx8_run o s) rfl
  | sx16 o => exact go (execSx16_run o s) rfl
  | sx32 o => exact go (execSx32_run o s) rfl
  | zx8 o => exact go (execZx8_run o s) rfl
  | zx16 o => exact go (execZx16_run o s) rfl
  | zx32 o => exact go (execZx32_run o s) rfl
  | movs o => exact go (execMovs_run o s) rfl
  | urd o => exact go (execUrd_run o s) rfl
  | uwr o => exact go (execUwr_run o s) rfl
  | fneg o => exact go (execFneg_run o s) rfl
  | fabs o => exact go (execFabs_run o s) rfl
  | dneg o => exact go (execDneg_run o s) rfl
  | dabs o => exact go (execDabs_run o s) rfl
  | frcp o => exact go (execFrcp_run o s) rfl
  | frsq o => exact go (execFrsq_run o s) rfl
  | fsqrt o => exact go (execFsqrt_run o s) rfl
  | fex2 o => exact go (execFex2_run o s) rfl
  | flg2 o => exact go (execFlg2_run o s) rfl
  | drcp o => exact go (execDrcp_run o s) rfl
  | dsqrt o => exact go (execDsqrt_run o s) rfl
  | drsq o => exact go (execDrsq_run o s) rfl
  | fscale o => exact go (execFscale_run o s) rfl
  | dscale o => exact go (execDscale_run o s) rfl
  | fxpn o => exact go (execFxpn_run o s) rfl
  | dxpn o => exact go (execDxpn_run o s) rfl
  | ex2s o => exact go (execEx2s_run o s) rfl
  | frintRn o => exact go (execFrintRn_run o s) rfl
  | frintRz o => exact go (execFrintRz_run o s) rfl
  | frintRm o => exact go (execFrintRm_run o s) rfl
  | frintRp o => exact go (execFrintRp_run o s) rfl
  | drintRn o => exact go (execDrintRn_run o s) rfl
  | drintRz o => exact go (execDrintRz_run o s) rfl
  | drintRm o => exact go (execDrintRm_run o s) rfl
  | drintRp o => exact go (execDrintRp_run o s) rfl
  | cvtF64F32 o => exact go (execCvtF64F32_run o s) rfl
  | cvtF32F64 o => exact go (execCvtF32F64_run o s) rfl
  | cvtF16F32 o => exact go (execCvtF16F32_run o s) rfl
  | cvtBf16F32 o => exact go (execCvtBf16F32_run o s) rfl
  | cvtF32F16 o => exact go (execCvtF32F16_run o s) rfl
  | cvtF32Bf16 o => exact go (execCvtF32Bf16_run o s) rfl
  | cvtF32S64 o => exact go (execCvtF32S64_run o s) rfl
  | cvtF32N64 o => exact go (execCvtF32N64_run o s) rfl
  | cvtF64S64 o => exact go (execCvtF64S64_run o s) rfl
  | cvtF64N64 o => exact go (execCvtF64N64_run o s) rfl
  | cvtS32F32 o => exact go (execCvtS32F32_run o s) rfl
  | cvtN32F32 o => exact go (execCvtN32F32_run o s) rfl
  | cvtS64F32 o => exact go (execCvtS64F32_run o s) rfl
  | cvtN64F32 o => exact go (execCvtN64F32_run o s) rfl
  | cvtS32F64 o => exact go (execCvtS32F64_run o s) rfl
  | cvtN32F64 o => exact go (execCvtN32F64_run o s) rfl
  | cvtS64F64 o => exact go (execCvtS64F64_run o s) rfl
  | cvtN64F64 o => exact go (execCvtN64F64_run o s) rfl
  | elect o => exact go (execElect_run o s) rfl
  | vany o => exact go (execVany_run o s) rfl
  | vall o => exact go (execVall_run o s) rfl
  | vbal o => exact go (execVbal_run o s) rfl
  | shfi o => exact go (execShfi_run o s) rfl
  | shfa o => exact go (execShfa_run o s) rfl
  | shfb o => exact go (execShfb_run o s) rfl
  | shfx o => exact go (execShfx_run o s) rfl
  | radd o => exact go (execRadd_run o s) rfl
  | rminS o => exact go (execRminS_run o s) rfl
  | rmaxS o => exact go (execRmaxS_run o s) rfl
  | rfadd o => exact go (execRfadd_run o s) rfl
  | rdadd o => exact go (execRdadd_run o s) rfl
  | scan o => exact go (execScan_run o s) rfl
  | matchOp o => exact go (execMatchOp_run o s) rfl
  | gpart o => exact go (execGpart_run o s) rfl
  | nop o => exact go (execNop_run o s) rfl
  | exit o => exact go (execExit_run o s) rfl
  | brk o => exact go (execBrk_run o s) rfl
  | trap o => exact go (execTrap_run o s) rfl
  | yield o => exact go (execYield_run o s) rfl
  | rgn o => exact go (execRgn_run o s) rfl
  | bnd o => exact go (execBnd_run o s) rfl
  | fenceGrp o => exact go (execFenceGrp_run o s) rfl
  | fenceCore o => exact go (execFenceCore_run o s) rfl
  | fenceDie o => exact go (execFenceDie_run o s) rfl
  | fenceDev o => exact go (execFenceDev_run o s) rfl
  | fenceSys o => exact go (execFenceSys_run o s) rfl
  | ofence o => exact go (execOfence_run o s) rfl
  | barArr o => exact go (execBarArr_run o s) rfl
  | barWait o => exact go (execBarWait_run o s) rfl
  | barSync o => exact go (execBarSync_run o s) rfl
  | barInit o => exact go (execBarInit_run o s) rfl
  | wait o => exact go (execWait_run o s) rfl
  | cpy o => exact go (execCpy_run o s) rfl
  | gath o => exact go (execGath_run o s) rfl
  | mxl o => exact go (execMxl_run o s) rfl
  | ores o => exact go (execOres_run o s) rfl
  | orls o => exact go (execOrls_run o s) rfl
  | strm o => exact go (execStrm_run o s) rfl
  | jmpi o => exact go (execJmpi_run o s) rfl
  | calli o => exact go (execCalli_run o s) rfl
  | ret o => exact go (execRet_run o s) rfl
  | icinv o => exact go (execIcinv_run o s) rfl
  | launch o => exact go (execLaunch_run o s) rfl
  | cancel o => exact go (execCancel_run o s) rfl
  | specCommit o => exact go (execSpecCommit_run o s) rfl
  | specDiscard o => exact go (execSpecDiscard_run o s) rfl
  | dbgHalt o => exact go (execDbgHalt_run o s) rfl
  | dbgResume o => exact go (execDbgResume_run o s) rfl
  | dbgStep o => exact go (execDbgStep_run o s) rfl
  | dbgSetmask o => exact go (execDbgSetmask_run o s) rfl
  | dbgWset o => exact go (execDbgWset_run o s) rfl
  | dbgWclr o => exact go (execDbgWclr_run o s) rfl
  | dbgStatus o => exact go (execDbgStatus_run o s) rfl
  | dbgReadreg o => exact go (execDbgReadreg_run o s) rfl
  | dbgBpset o => exact go (execDbgBpset_run o s) rfl
  | dbgBpclr o => exact go (execDbgBpclr_run o s) rfl
  | movCompact o => exact go (execMovCompact_run o s) rfl
  | iaddCompact o => exact go (execIaddCompact_run o s) rfl
  | isubCompact o => exact go (execIsubCompact_run o s) rfl
  | iadd32Compact o => exact go (execIadd32Compact_run o s) rfl
  | iaddi o => exact go (execIaddi_run o s) rfl
  | andCompact o => exact go (execAndCompact_run o s) rfl
  | orCompact o => exact go (execOrCompact_run o s) rfl
  | xorCompact o => exact go (execXorCompact_run o s) rfl
  | shli o => exact go (execShli_run o s) rfl
  | shri o => exact go (execShri_run o s) rfl
  | faddCompact o => exact go (execFaddCompact_run o s) rfl
  | fsubCompact o => exact go (execFsubCompact_run o s) rfl
  | fmulCompact o => exact go (execFmulCompact_run o s) rfl
  | fmaxCompact o => exact go (execFmaxCompact_run o s) rfl
  | daddCompact o => exact go (execDaddCompact_run o s) rfl
  | dmulCompact o => exact go (execDmulCompact_run o s) rfl
  | censusRound ck a => exact execCensusRound_next ck a s
  | gangSeat ck a => exact execGangSeat_next ck a s
  | gangUnseat ck a seat => exact execGangUnseat_next ck a seat s
  | quantumDue ck a seat => exact execQuantumDue_next ck a seat s
  | yieldHoldEnd tk => exact execYieldHoldEnd_next tk s
  | deprioritisationEnd tk => exact execDeprioritisationEnd_next tk s
  | prefetchFill tk => exact execPrefetchFill_next tk s
  | parkConditionHolds tk => exact execParkConditionHolds_next tk s
  | loadReply tk idx => exact execLoadReply_next tk idx s
  | storePerform ck idx => exact execStorePerform_next ck idx s
  | collectorSend ck idx => exact execCollectorSend_next ck idx s
  | errorResponse rq cause => exact execErrorResponse_next rq cause s
  | waitRecheck tk => exact execWaitRecheck_next tk s
  | streamPrefetch tk port => exact execStreamPrefetch_next tk port s
  | streamOutDrain tk port => exact execStreamOutDrain_next tk port s
  | engineQueueAccept ck ch => exact execEngineQueueAccept_next ck ch s
  | copyRowTransfer ck op row => exact execCopyRowTransfer_next ck op row s
  | gatherElement ck op el => exact execGatherElement_next ck op el s
  | probePass ck op => exact execProbePass_next ck op s
  | engineOpEnd ck op => exact execEngineOpEnd_next ck op s
  | watchdogTimeout ck op => exact execWatchdogTimeout_next ck op s
  | matrixQueueAccept ck => exact execMatrixQueueAccept_next ck s
  | jobEnterContext ck => exact execJobEnterContext_next ck s
  | blockStep ck => exact execBlockStep_next ck s
  | jobEnd ck job => exact execJobEnd_next ck job s
  | handleReturn uid k => exact execHandleReturn_next uid k s
  | allocationRelease uid => exact execAllocationRelease_next uid s
  | fqReplyResolve token => exact execFqReplyResolve_next token s
  | fqReplyRefuse token => exact execFqReplyRefuse_next token s
  | fqLimitExpiry token => exact execFqLimitExpiry_next token s
  | fqTailWrite v => exact execFqTailWrite_next v s
  | fqBaseWrite v => exact execFqBaseWrite_next v s
  | fqSizeWrite v => exact execFqSizeWrite_next v s
  | xinvStart v => exact execXinvStart_next v s
  | xinvDone => exact execXinvDone_next s
  | sliceSizeChange bdie size => exact execSliceSizeChange_next bdie size s
  | chTailWrite n v => exact execChTailWrite_next n v s
  | chCtlRestart n v => exact execChCtlRestart_next n v s
  | jobEntry n => exact execJobEntry_next n s
  | graphEntry n => exact execGraphEntry_next n s
  | launchEntry n => exact execLaunchEntry_next n s
  | phaseEntry n => exact execPhaseEntry_next n s
  | waitcEntry n => exact execWaitcEntry_next n s
  | endEntry n => exact execEndEntry_next n s
  | specEntryCommit n => exact execSpecEntryCommit_next n s
  | specEntryDiscard n => exact execSpecEntryDiscard_next n s
  | chainEntryRetire n => exact execChainEntryRetire_next n s
  | unitStart lid idx => exact execUnitStart_next lid idx s
  | levelComplete level id => exact execLevelComplete_next level id s
  | preemption uid => exact execPreemption_next uid s
  | resumption uid => exact execResumption_next uid s
  | hostApertureWrite off bytes => exact execHostApertureWrite_next off bytes s
  | hostApertureRead off len => exact execHostApertureRead_next off len s
  | flitReceive port flit => exact execFlitReceive_next port flit s
  | linkAckTimeout port => exact execLinkAckTimeout_next port s
  | linkTrainingDone port lanes peer => exact execLinkTrainingDone_next port lanes peer s
  | linkTakeDown port => exact execLinkTakeDown_next port s
  | linkAllowTrain port => exact execLinkAllowTrain_next port s
  | routeWrite m v => exact execRouteWrite_next m v s
  | epEventClear v => exact execEpEventClear_next v s
  | islandReset v => exact execIslandReset_next v s
  | mgmtResetComputeDie v => exact execMgmtResetComputeDie_next v s
  | mgmtResetBaseDie v => exact execMgmtResetBaseDie_next v s
  | mgmtResetHub v => exact execMgmtResetHub_next v s
  | resetSequenceComplete => exact execResetSequenceComplete_next s
  | dmapWrite v => exact execDmapWrite_next v s
  | dieHeartbeatMiss p => exact execDieHeartbeatMiss_next p s
  | dieInternalError p => exact execDieInternalError_next p s
  | spareSelfTestDone ok => exact execSpareSelfTestDone_next ok s
  | lostUnitRerun uid => exact execLostUnitRerun_next uid s
  | aperBaseWrite v => exact execAperBaseWrite_next v s
  | pwrClWrite n v => exact execPwrClWrite_next n v s
  | ratioChangeComplete n => exact execRatioChangeComplete_next n s
  | powerLimitStep n step => exact execPowerLimitStep_next n step s
  | droopDetect n => exact execDroopDetect_next n s
  | droopRecover n => exact execDroopRecover_next n s
  | holdStart n => exact execHoldStart_next n s
  | holdEnd n => exact execHoldEnd_next n s
  | tmrAlign forward => exact execTmrAlign_next forward s
  | powerOnReset => exact execPowerOnReset_next s
  | monitorSample n sample => exact execMonitorSample_next n sample s
  | monitorClr n => exact execMonitorClr_next n s
  | errorLogClear ck => exact execErrorLogClear_next ck s
  | managementLogClear => exact execManagementLogClear_next s
  | attest len tag => exact execAttest_next len tag s
  | loadImage len tag => exact execLoadImage_next len tag s
  | readMeas len tag => exact execReadMeas_next len tag s
  | mailboxCompletion => exact execMailboxCompletion_next s
  | bar0BadAccess off => exact execBar0BadAccess_next off s
  | registerWrite off len v => exact execRegisterWrite_next off len v s
  | cancellationTakesEffect idx => exact execCancellationTakesEffect_next idx s
  | sequencerCounterReread idx => exact execSequencerCounterReread_next idx s
  | zeroLengthReadCompletion => exact execZeroLengthReadCompletion_next s
  | bar2Resize size => exact execBar2Resize_next size s
  | unknownCommandCode code tag => exact execUnknownCommandCode_next code tag s

end Sys2Proof.Machine
end

