-- ==== Sys2Proof/Laws/Memory.lean ====
section
/-! SUPPORT. Byte stores: every operation keeps the canonical form; a read after a write to the same place gives the value
written, and a write leaves every other place alone. -/

namespace Sys2Proof.Machine

theorem cellsWf_of_lt {a b : Nat} (h : a ≤ b) {cs : List Host.Cell} (hc : cellsWf (some b) cs = true) : cellsWf (some a) cs = true := by
  cases cs with
  | nil => rfl
  | cons c cs =>
    obtain ⟨k, v⟩ := c
    simp only [cellsWf, Bool.and_eq_true, decide_eq_true_eq] at hc ⊢
    exact ⟨⟨by omega, hc.1.2⟩, hc.2⟩

theorem cellsWf_none {a : Nat} {cs : List Host.Cell} (hc : cellsWf (some a) cs = true) : cellsWf none cs = true := by
  cases cs with
  | nil => rfl
  | cons c cs =>
    obtain ⟨k, v⟩ := c
    simp only [cellsWf, Bool.and_eq_true, decide_eq_true_eq] at hc ⊢
    exact ⟨⟨trivial, hc.1.2⟩, hc.2⟩

theorem setCell_wf (k : Nat) (v : Byte) : ∀ (cs : List Host.Cell) (lo : Option Nat), (∀ l, lo = some l → l < k) →
    cellsWf lo cs = true → cellsWf lo (setCell cs k v) = true
  | [], lo, hlo, _ => by
    unfold setCell
    split
    · rfl
    · cases lo with
      | none => simp_all [cellsWf]
      | some l => have := hlo l rfl; simp_all [cellsWf]
  | (a, b) :: rest, lo, hlo, h => by
    unfold setCell
    simp only [cellsWf, Bool.and_eq_true] at h
    obtain ⟨⟨h1, h2⟩, h3⟩ := h
    split
    · rename_i hk
      split
      · simp only [cellsWf, Bool.and_eq_true]; exact ⟨⟨h1, h2⟩, h3⟩
      · rename_i hv
        simp only [cellsWf, Bool.and_eq_true, decide_eq_true_eq]
        refine ⟨⟨?_, by simpa using hv⟩, ⟨hk, h2⟩, h3⟩
        cases lo with
        | none => rfl
        | some l => simpa using hlo l rfl
    · split
      · rename_i _ hk
        subst hk
        split
        · cases lo with
          | none => exact cellsWf_none h3
          | some l => exact cellsWf_of_lt (Nat.le_of_lt (hlo l rfl)) h3
        · rename_i hv
          simp only [cellsWf, Bool.and_eq_true]
          exact ⟨⟨h1, by simpa using hv⟩, h3⟩
      · rename_i h4 h5
        simp only [cellsWf, Bool.and_eq_true]
        refine ⟨⟨h1, h2⟩, setCell_wf k v rest (some a) ?_ h3⟩
        intro l hl
        cases hl
        omega

theorem cutCells_wf (p q : Nat) : ∀ (cs : List Host.Cell) (lo : Option Nat), cellsWf lo cs = true → cellsWf lo (cutCells cs p q) = true
  | [], lo, _ => by cases lo <;> rfl
  | (a, b) :: rest, lo, h => by
    unfold cutCells
    simp only [cellsWf, Bool.and_eq_true] at h
    obtain ⟨⟨h1, h2⟩, h3⟩ := h
    split
    · cases lo with
      | none => exact cutCells_wf p q rest none (cellsWf_none h3)
      | some l => exact cutCells_wf p q rest (some l) (cellsWf_of_lt (by simp at h1; omega) h3)
    · simp only [cellsWf, Bool.and_eq_true]
      exact ⟨⟨h1, h2⟩, cutCells_wf p q rest (some a) h3⟩

theorem Store.setByte_wf {m : Store} (h : m.wf = true) (k : Nat) (v : Byte) : (m.setByte k v).wf = true :=
  setCell_wf k v m.cells none (by intro l hl; cases hl) h
theorem Store.setBytes_wf : ∀ (bs : List Byte) {m : Store} (_ : m.wf = true) (k : Nat), (m.setBytes k bs).wf = true
  | [], _, h, _ => h
  | b :: bs, _, h, k => Store.setBytes_wf bs (Store.setByte_wf h k b) (k + 1)
theorem Store.forget_wf {m : Store} (h : m.wf = true) (lo hi seed : Nat) : (m.forget lo hi seed).wf = true := by
  unfold Store.forget
  split
  · exact cutCells_wf lo hi m.cells none h
  · exact h
theorem Store.zero_wf {m : Store} (h : m.wf = true) (lo hi : Nat) : (m.zero lo hi).wf = true := cutCells_wf lo hi m.cells none h
theorem Store.empty_wf : Store.wf {} = true := rfl


/-! ## Reads after writes -/

theorem cellAt_setCell_same (k : Nat) (v : Byte) : ∀ (cs : List Host.Cell) (lo : Option Nat), cellsWf lo cs = true →
    cellAt (setCell cs k v) k = v
  | [], _, _ => by unfold setCell; split <;> simp_all [cellAt]
  | (a, b) :: rest, lo, h => by
    unfold setCell
    simp only [cellsWf, Bool.and_eq_true] at h
    obtain ⟨_, h3⟩ := h
    split
    · rename_i hk
      split
      · rename_i hv; unfold cellAt; rw [if_neg (by omega), if_pos hk, hv]
      · simp [cellAt]
    · split
      · rename_i hk
        subst hk
        split
        · rename_i hv
          subst hv
          cases rest with
          | nil => rfl
          | cons c rest =>
            obtain ⟨c1, c2⟩ := c
            simp only [cellsWf, Bool.and_eq_true, decide_eq_true_eq] at h3
            unfold cellAt
            rw [if_neg (by omega), if_pos h3.1.1]
        · simp [cellAt]
      · unfold cellAt
        rw [if_neg (by omega), if_neg (by omega)]
        exact cellAt_setCell_same k v rest (some a) h3

theorem cellAt_below {a k : Nat} (hk : k ≤ a) {cs : List Host.Cell} (h : cellsWf (some a) cs = true) : cellAt cs k = 0 := by
  cases cs with
  | nil => rfl
  | cons c cs =>
    obtain ⟨i, v⟩ := c
    simp only [cellsWf, Bool.and_eq_true, decide_eq_true_eq] at h
    unfold cellAt
    rw [if_neg (by omega), if_pos (by omega)]

theorem cellAt_setCell_ne {j k : Nat} (v : Byte) (hjk : j ≠ k) : ∀ (cs : List Host.Cell) (lo : Option Nat), cellsWf lo cs = true →
    cellAt (setCell cs k v) j = cellAt cs j
  | [], _, _ => by
    unfold setCell
    split
    · rfl
    · unfold cellAt; rw [if_neg (Ne.symm hjk)]; split <;> simp [cellAt]
  | (a, b) :: rest, lo, h => by
    unfold setCell
    simp only [cellsWf, Bool.and_eq_true] at h
    obtain ⟨_, h3⟩ := h
    split
    · rename_i hk
      split
      · rfl
      · conv => lhs; unfold cellAt
        rw [if_neg (Ne.symm hjk)]
        split
        · unfold cellAt; rw [if_neg (by omega), if_pos (by omega)]
        · rfl
    · split
      · rename_i hk
        subst hk
        split
        · conv => rhs; unfold cellAt
          rw [if_neg (Ne.symm hjk)]
          split
          · exact cellAt_below (by omega) h3
          · rfl
        · unfold cellAt; rw [if_neg (Ne.symm hjk), if_neg (Ne.symm hjk)]
      · unfold cellAt
        rw [cellAt_setCell_ne v hjk rest (some a) h3]

theorem undefSeed_append (k : Nat) : ∀ xs ys : List URange, undefSeed (xs ++ ys) k = (undefSeed xs k).or (undefSeed ys k)
  | [], ys => by simp [undefSeed]
  | x :: xs, ys => by
    simp only [List.cons_append, undefSeed]
    split
    · rfl
    · exact undefSeed_append k xs ys

theorem undefSeed_cut (lo hi j : Nat) : ∀ us : List URange,
    undefSeed (cutUndef us lo hi) j = if lo ≤ j ∧ j < hi then none else undefSeed us j
  | [] => by simp [cutUndef, undefSeed]
  | r :: rest => by
    have ih := undefSeed_cut lo hi j rest
    unfold cutUndef
    split
    · rename_i h
      simp only [Bool.or_eq_true, decide_eq_true_eq] at h
      simp only [undefSeed, ih, Bool.and_eq_true, decide_eq_true_eq]
      grind
    · rename_i h
      simp only [Bool.or_eq_true, decide_eq_true_eq, not_or] at h
      rw [undefSeed_append, undefSeed_append, ih]
      grind [undefSeed]

/-- Reading a byte that was written gives the value written. -/
theorem Store.byte_setByte_same {m : Store} (h : m.wf = true) (k : Nat) (v : Byte) : (m.setByte k v).byte k = v := by
  unfold Store.byte Store.setByte
  rw [undefSeed_cut, if_pos ⟨Nat.le_refl k, Nat.lt_succ_self k⟩]
  exact cellAt_setCell_same k v m.cells none h
/-- A write leaves every other byte alone. -/
theorem Store.byte_setByte_ne {m : Store} (h : m.wf = true) {j k : Nat} (v : Byte) (hjk : j ≠ k) : (m.setByte k v).byte j = m.byte j := by
  unfold Store.byte Store.setByte
  rw [undefSeed_cut, if_neg (by omega)]
  simp only [cellAt_setCell_ne v hjk m.cells none h]

/-- Writing bytes leaves the bytes outside them alone. -/
theorem Store.byte_setBytes_ne : ∀ (bs : List Byte) {m : Store} (_ : m.wf = true) {j k : Nat}, (j < k ∨ k + bs.length ≤ j) →
    (m.setBytes k bs).byte j = m.byte j
  | [], _, _, _, _, _ => rfl
  | b :: bs, m, h, j, k, hj => by
    simp only [List.length_cons] at hj
    unfold Store.setBytes
    rw [Store.byte_setBytes_ne bs (Store.setByte_wf h k b) (by omega), Store.byte_setByte_ne h b (by omega)]
/-- Reading the bytes that were written gives the bytes written. -/
theorem Store.bytes_setBytes : ∀ (bs : List Byte) {m : Store} (_ : m.wf = true) (k : Nat), (m.setBytes k bs).bytes k bs.length = bs
  | [], _, _, _ => rfl
  | b :: bs, m, h, k => by
    have h' := Store.setByte_wf h k b
    simp only [List.length_cons, Store.bytes, Store.setBytes]
    rw [Store.byte_setBytes_ne bs h' (by omega), Store.byte_setByte_same h, Store.bytes_setBytes bs h' (k + 1)]

end Sys2Proof.Machine
end

