-- ==== Sys2Proof/Laws/Kept.lean ====
section
/-! SUPPORT. The invariant State.Inv: what it means for each kind of result, and that the operations which put a thread, a unit,
a launch or a byte back keep it. -/

namespace Sys2Proof.Machine

/-! ## What the invariant means for each kind of result -/

def OutInv (o : Out) : Prop := ∀ s, o = .next s → s.Inv
def HubInv (h : Hub) : Prop := AMap.All Launch.Inv h.launches
def DescInv (d : Desc) : Prop := EvenAddr d.traph ∧ ∀ r ∈ d.roles, EvenAddr r.entry
def ResInv : Res → Prop
  | .seq s => s.Inv
  | .seqR s => s.Inv
  | .jump s target => s.Inv ∧ EvenAddr target
  | .trap s _ _ => s.Inv
  | .park s _ => s.Inv
  | .hold s => s.Inv
def PortReadInv : PortRead → Prop
  | .ok _ s => s.Inv
  | .trap _ _ => True
  | .wait s => s.Inv
def ReadsInv : Reads → Prop
  | .ok _ s => s.Inv
  | .trap _ _ => True
  | .wait s => s.Inv
def FetchInv : Fetch → Prop
  | .ok _ s => s.Inv
  | .trap _ s => s.Inv
  | .fault _ s => s.Inv
def FetchWordInv : FetchWord → Prop
  | .ok _ s => s.Inv
  | .trap _ s => s.Inv
  | .fault _ s => s.Inv
def IssueInv : Issue → Prop
  | .run _ s => s.Inv
  | .done s => s.Inv
def UniformInv : Uniform → Prop
  | .ok s => s.Inv
  | .mismatch s => s.Inv
  | .park => True
def JobGotInv {α : Type} : JobGot α → Prop
  | .ok _ s => s.Inv
  | .stop _ _ s => s.Inv
  | .wait s => s.Inv

theorem OutInv_next {s : State} (h : s.Inv) : OutInv (.next s) := by intro s' h'; cases h'; exact h
theorem OutInv_fault (r : Fault) : OutInv (.fault r) := by intro s' h'; cases h'
theorem OutInv_refused (r : Refusal) : OutInv (.refused r) := by intro s' h'; cases h'

theorem foldl_inv {α : Type} {f : State → α → State} (hf : ∀ s a, s.Inv → (f s a).Inv) :
    ∀ (xs : List α) (s : State), s.Inv → (xs.foldl f s).Inv
  | [], _, h => h
  | x :: xs, s, h => foldl_inv hf xs _ (hf s x h)

theorem State.ite_inv {c : Prop} [Decidable c] {a b : State} (ha : State.Inv a) (hb : State.Inv b) : State.Inv (if c then a else b) := by
  split
  · exact ha
  · exact hb

/-! ## Even addresses -/

theorem evenAddr_add {a b : Word} (ha : EvenAddr a) (hb : EvenAddr b) : EvenAddr (a + b) := by
  unfold EvenAddr at *; rw [BitVec.toNat_add]; omega
theorem evenAddr_ofN {n : Nat} (h : n % 2 = 0) : EvenAddr (Word.ofN n) := by
  unfold EvenAddr Word.ofN; rw [BitVec.toNat_ofNat]; omega
theorem evenAddr_two_mul (w : Word) : EvenAddr (w * 2) := by
  unfold EvenAddr; rw [BitVec.toNat_mul, show BitVec.toNat (2 : Word) = 2 from rfl]; omega

/-! ## Putting parts back -/

theorem State.thread?_inv {s : State} {tk : Nat} {t : Thread} (h : s.Inv) (ht : s.thread? tk = some t) : t.Inv := h.2.1.get? ht
theorem State.unit?_inv {s : State} {k : Nat} {u : TUnit} (h : s.Inv) (hu : s.unit? k = some u) : u.Inv := h.2.2.1.get? hu
theorem State.launch?_inv {s : State} {k : Nat} {l : Launch} (h : s.Inv) (hl : s.launch? k = some l) : l.Inv := h.2.2.2.get? hl
theorem State.launchOf_inv {s : State} {k : Nat} {l : Launch} (h : s.Inv) (hl : s.launchOf k = some l) : l.Inv := by
  unfold State.launchOf at hl
  cases hu : s.unit? k with
  | none => simp [hu] at hl
  | some u => rw [hu] at hl; exact State.launch?_inv h hl

theorem State.setThread_inv (s : State) (tk : Nat) (t : Thread) (h : s.Inv) (ht : t.Inv) : (s.setThread tk t).Inv :=
  ⟨h.1, h.2.1.set tk ht, h.2.2.1, h.2.2.2⟩
theorem State.modThread_inv (s : State) (tk : Nat) (f : Thread → Thread) (h : s.Inv) (hf : ∀ t, t.Inv → (f t).Inv) :
    (s.modThread tk f).Inv := by
  unfold State.modThread
  split
  · rename_i t ht; exact State.setThread_inv s tk _ h (hf t (State.thread?_inv h ht))
  · exact h
theorem State.setUnit_inv (s : State) (k : Nat) (u : TUnit) (h : s.Inv) (hu : u.Inv) : (s.setUnit k u).Inv :=
  ⟨h.1, h.2.1, h.2.2.1.set k hu, h.2.2.2⟩
theorem State.modUnit_inv (s : State) (k : Nat) (f : TUnit → TUnit) (h : s.Inv) (hf : ∀ u, u.Inv → (f u).Inv) :
    (s.modUnit k f).Inv := by
  unfold State.modUnit
  split
  · rename_i u hu; exact State.setUnit_inv s k _ h (hf u (State.unit?_inv h hu))
  · exact h
theorem State.setCore_inv (s : State) (k : Nat) (c : Core) (h : s.Inv) : (s.setCore k c).Inv := h
theorem State.modCore_inv (s : State) (k : Nat) (f : Core → Core) (h : s.Inv) : (s.modCore k f).Inv := h
theorem State.modCluster_inv (s : State) (k : Nat) (f : Cluster → Cluster) (h : s.Inv) : (s.modCluster k f).Inv := h
theorem State.modHub_inv (s : State) (f : Hub → Hub) (h : s.Inv) (hf : HubInv s.hub → HubInv (f s.hub)) : (s.modHub f).Inv :=
  ⟨h.1, h.2.1, h.2.2.1, hf h.2.2.2⟩
theorem State.modHub_keep (s : State) (f : Hub → Hub) (h : s.Inv) (hf : ∀ h, (f h).launches = h.launches) : (s.modHub f).Inv :=
  State.modHub_inv s f h (fun hh => by unfold HubInv; rw [hf]; exact hh)
theorem State.modLaunch_inv (s : State) (k : Nat) (f : Launch → Launch) (h : s.Inv) (hf : ∀ l, l.Inv → (f l).Inv) :
    (s.modLaunch k f).Inv := by
  unfold State.modLaunch
  split
  · rename_i l hl
    exact State.modHub_inv s _ h (fun hh => AMap.All.set k hh (hf l (State.launch?_inv h hl)))
  · exact h
theorem State.modJob_inv (s : State) (k : Nat) (f : HJob → HJob) (h : s.Inv) : (s.modJob k f).Inv := by
  unfold State.modJob
  split
  · exact State.modHub_inv s _ h (fun hh => hh)
  · exact h
theorem State.modThreadsOf_inv (s : State) (k : Nat) (f : Thread → Thread) (h : s.Inv) (hf : ∀ t, t.Inv → (f t).Inv) :
    (s.modThreadsOf k f).Inv := by
  refine ⟨h.1, h.2.1.map _ ?_, h.2.2.1, h.2.2.2⟩
  intro p hp
  split
  · exact hf _ hp
  · exact hp
theorem State.takeFresh_inv (s : State) (h : s.Inv) : s.takeFresh.2.Inv := h
theorem State.takeSeq_inv (s : State) (h : s.Inv) : s.takeSeq.2.Inv := h
theorem Gang.empty_inv : ({} : Gang).Inv := Store.empty_wf
theorem TUnit.gang_inv {u : TUnit} (h : u.Inv) (gg : Nat) : (u.gang gg).Inv := by
  unfold TUnit.gang AMap.get
  cases hg : AMap.get? u.gangs gg with
  | none => exact Gang.empty_inv
  | some g => exact h.2.2.get? hg
theorem TUnit.modGang_inv (u : TUnit) (gg : Nat) (f : Gang → Gang) (h : u.Inv) (hf : ∀ g, g.Inv → (f g).Inv) : (u.modGang gg f).Inv :=
  ⟨h.1, h.2.1, h.2.2.set gg (hf _ (TUnit.gang_inv h gg))⟩

theorem State.vector_inv (s : State) (n : Nat) (h : s.Inv) : (s.vector n).Inv := State.modHub_inv s _ h (fun hh => hh)
theorem State.logCore_inv (s : State) (ck : Nat) (e : LogEnt) (h : s.Inv) : (s.logCore ck e).Inv := by
  unfold State.logCore; dsimp only
  split
  · exact State.vector_inv _ _ (State.setCore_inv s _ _ h)
  · exact State.setCore_inv s _ _ h
theorem State.logMgmt_inv (s : State) (dpa cause kind who : Nat) (h : s.Inv) : (s.logMgmt dpa cause kind who).Inv := by
  unfold State.logMgmt; dsimp only
  split
  · exact State.vector_inv _ _ (State.modHub_inv s _ h (fun hh => hh))
  · exact State.modHub_inv s _ h (fun hh => hh)

/-- A new main memory in canonical form keeps the invariant. -/
theorem State.mem_inv {s s' : State} (h : s.Inv) (hm : s'.mem.wf = true) (ht : s'.threads = s.threads) (hu : s'.units = s.units)
    (hl : s'.hub.launches = s.hub.launches) : s'.Inv := by
  refine ⟨hm, ?_, ?_, ?_⟩
  · rw [ht]; exact h.2.1
  · rw [hu]; exact h.2.2.1
  · rw [hl]; exact h.2.2.2
/-- A state that differs only in parts the invariant does not speak of keeps it. -/
theorem State.congr_inv {s s' : State} (h : s.Inv) (hm : s'.mem = s.mem) (ht : s'.threads = s.threads) (hu : s'.units = s.units)
    (hl : s'.hub.launches = s.hub.launches) : s'.Inv := State.mem_inv h (hm ▸ h.1) ht hu hl

/-! ## The parts of the invariant, for records written out -/

theorem State.mk_inv (cur) (issueQ) (sched) (turn) (fresh) (seq) (threads) (units) (cores) (clusters) (mem) (bad) (far) (tags) (tlb) (slice) (offw) (hub) (h1 : Store.wf mem = true) (h2 : AMap.All Thread.Inv threads)
    (h3 : AMap.All TUnit.Inv units) (h4 : HubInv hub) :
    State.Inv (State.mk cur issueQ sched turn fresh seq threads units cores clusters mem bad far tags tlb slice offw hub) := ⟨h1, h2, h3, h4⟩
theorem State.Inv.mem {s : State} (h : s.Inv) : s.mem.wf = true := h.1
theorem State.Inv.threads {s : State} (h : s.Inv) : AMap.All Thread.Inv s.threads := h.2.1
theorem State.Inv.units {s : State} (h : s.Inv) : AMap.All TUnit.Inv s.units := h.2.2.1
theorem State.Inv.hub {s : State} (h : s.Inv) : HubInv s.hub := h.2.2.2
theorem Hub.mk_inv (tmr) (joined) (xinvAsn) (xinvVa) (xinvLen) (xinvRun) (xinvDone) (xinvBases) (fqBase) (fqSize) (fqHead) (fqTail) (fqLimit) (token) (faults) (refused) (chains) (nextChain) (nextLid) (jobs) (graphs) (launches) (cancels) (seqToks) (recs) (pkgid) (aperBase) (bar2) (bootDone) (bootStage) (meas) (images) (secret) (irq) (msix) (unsupported) (mb) (mlog) (mlost) (islUp) (ep) (epEvent) (links) (ptag) (route) (dmap) (rst) (spar) (monitors) (hostReads) (h : AMap.All Launch.Inv launches) :
    HubInv (Hub.mk tmr joined xinvAsn xinvVa xinvLen xinvRun xinvDone xinvBases fqBase fqSize fqHead fqTail fqLimit token faults refused chains nextChain nextLid jobs graphs launches cancels seqToks recs pkgid aperBase bar2 bootDone bootStage meas images secret irq msix unsupported mb mlog mlost islUp ep epEvent links ptag route dmap rst spar monitors hostReads) := h
theorem HubInv.launches {h : Hub} (hh : HubInv h) : AMap.All Launch.Inv h.launches := hh
theorem Gang.Inv.priv {g : Gang} (h : g.Inv) : g.priv.wf = true := h
theorem Gang.mk_inv (gpart) (seat) (home) (since) (insts) (utab) (ubase) (stepMask) (gfail) (priv) (h : Store.wf priv = true) :
    Gang.Inv (Gang.mk gpart seat home since insts utab ubase stepMask gfail priv) := h
theorem TUnit.mk_inv (lid) (idx) (stat) (ck) (slot) (esize) (g) (uni) (uwr) (scr) (scrSize) (scrHeld) (absent) (unfenced) (obuf) (obSize) (obHeld) (resv) (bars) (gangs) (f) (order) (exited) (smax) (sor) (cycles) (startClk) (dbg) (savedOps) (savedJobs) (save) (saveHit) (saveTok) (counted) (endMark) (lostBy) (h1 : Store.wf scr = true) (h2 : Store.wf obuf = true) (h3 : AMap.All Gang.Inv gangs) :
    TUnit.Inv (TUnit.mk lid idx stat ck slot esize g uni uwr scr scrSize scrHeld absent unfenced obuf obSize obHeld resv bars gangs f order exited smax sor cycles startClk dbg savedOps savedJobs save saveHit saveTok counted endMark lostBy) := ⟨h1, h2, h3⟩
theorem TUnit.Inv.scr {u : TUnit} (h : u.Inv) : u.scr.wf = true := h.1
theorem TUnit.Inv.obuf {u : TUnit} (h : u.Inv) : u.obuf.wf = true := h.2.1
theorem TUnit.Inv.gangs {u : TUnit} (h : u.Inv) : AMap.All Gang.Inv u.gangs := h.2.2
theorem Launch.mk_inv (gkey) (jid) (desc) (args) (wctr) (wval) (wlogged) (wok) (started) (done) (spec) (resolved) (cancelled) (complete) (preDbg) (h : DescInv desc) :
    Launch.Inv (Launch.mk gkey jid desc args wctr wval wlogged wok started done spec resolved cancelled complete preDbg) := h
theorem Launch.Inv.desc {l : Launch} (h : l.Inv) : DescInv l.desc := h
theorem Thread.mk_inv (uid) (tg) (nregs) (v) (p) (b) (ports) (loops) (cd) (rpc) (shadow) (pc) (pre) (tcause) (tloc) (ih) (hv) (hd) (cord) (uord) (arr) (arrDone) (live) (ending) (status) (park) (resume_) (mark) (loads) (nextIdx) (errs) (busy) (w) (yieldTo) (depriTo) (freeAt) (pbuf) (seatPt) (halted) (atBreak) (stepping) (skip) (ftok) (places) (offer) (held) (after) (h2 : EvenAddr pc) (h3 : EvenAddr rpc) (h4 : LoopsOk loops)
    (h5 : LoopsOk (Shadow.loops shadow)) (h6 : cd ≤ 65535) (h7 : hd ≤ 65535) (h8 : Shadow.cd shadow ≤ 65535) (h9 : Shadow.hd shadow ≤ 65535) :
    Thread.Inv (Thread.mk uid tg nregs v p b ports loops cd rpc shadow pc pre tcause tloc ih hv hd cord uord arr arrDone live ending status park resume_ mark loads nextIdx errs busy w yieldTo depriTo freeAt pbuf seatPt halted atBreak stepping skip ftok places offer held after) := ⟨h2, h3, h4, h5, h6, h7, h8, h9⟩
theorem Thread.Inv.pc {t : Thread} (h : t.Inv) : EvenAddr t.pc := h.1
theorem Thread.Inv.rpc {t : Thread} (h : t.Inv) : EvenAddr t.rpc := h.2.1
theorem Thread.Inv.loops {t : Thread} (h : t.Inv) : LoopsOk t.loops := h.2.2.1
theorem Thread.Inv.shadowLoops {t : Thread} (h : t.Inv) : LoopsOk t.shadow.loops := h.2.2.2.1
theorem Thread.Inv.cd {t : Thread} (h : t.Inv) : t.cd ≤ 65535 := h.2.2.2.2.1
theorem Thread.Inv.hd {t : Thread} (h : t.Inv) : t.hd ≤ 65535 := h.2.2.2.2.2.1
theorem Thread.Inv.shadowCd {t : Thread} (h : t.Inv) : t.shadow.cd ≤ 65535 := h.2.2.2.2.2.2.1
theorem Thread.Inv.shadowHd {t : Thread} (h : t.Inv) : t.shadow.hd ≤ 65535 := h.2.2.2.2.2.2.2
theorem Res.seq_inv {s : State} (h : s.Inv) : ResInv (.seq s) := h
theorem Res.seqR_inv {s : State} (h : s.Inv) : ResInv (.seqR s) := h
theorem Res.hold_inv {s : State} (h : s.Inv) : ResInv (.hold s) := h
theorem Res.park_inv {s : State} (p : Park) (h : s.Inv) : ResInv (.park s p) := h
theorem Res.trap_inv {s : State} (c k : Nat) (h : s.Inv) : ResInv (.trap s c k) := h
theorem Res.jump_inv {s : State} {a : Word} (h : s.Inv) (ha : EvenAddr a) : ResInv (.jump s a) := ⟨h, ha⟩
theorem PortRead.ok_inv {s : State} (v : Word) (h : s.Inv) : PortReadInv (.ok v s) := h
theorem PortRead.trap_inv (c k : Nat) : PortReadInv (.trap c k) := trivial
theorem PortRead.wait_inv {s : State} (h : s.Inv) : PortReadInv (.wait s) := h
theorem Reads.ok_inv {s : State} (v : List Word) (h : s.Inv) : ReadsInv (.ok v s) := h
theorem Reads.trap_inv (c k : Nat) : ReadsInv (.trap c k) := trivial
theorem Reads.wait_inv {s : State} (h : s.Inv) : ReadsInv (.wait s) := h
theorem Fetch.ok_inv {s : State} (p : Parcel) (h : s.Inv) : FetchInv (.ok p s) := h
theorem Fetch.trap_inv {s : State} (c : Nat) (h : s.Inv) : FetchInv (.trap c s) := h
theorem Fetch.fault_inv {s : State} (k : Option Nat) (h : s.Inv) : FetchInv (.fault k s) := h
theorem FetchWord.ok_inv {s : State} (p : List Parcel) (h : s.Inv) : FetchWordInv (.ok p s) := h
theorem FetchWord.trap_inv {s : State} (c : Nat) (h : s.Inv) : FetchWordInv (.trap c s) := h
theorem FetchWord.fault_inv {s : State} (k : Option Nat) (h : s.Inv) : FetchWordInv (.fault k s) := h
theorem Issue.run_inv {s : State} (i : Instr) (h : s.Inv) : IssueInv (.run i s) := h
theorem Issue.done_inv {s : State} (h : s.Inv) : IssueInv (.done s) := h
theorem Uniform.ok_inv {s : State} (h : s.Inv) : UniformInv (.ok s) := h
theorem Uniform.mismatch_inv {s : State} (h : s.Inv) : UniformInv (.mismatch s) := h
theorem Uniform.park_inv : UniformInv (.park) := trivial
theorem JobGot.ok_inv {α : Type} (x : α) {s : State} (h : s.Inv) : JobGotInv (.ok x s) := h
theorem JobGot.stop_inv {α : Type} (c k : Nat) {s : State} (h : s.Inv) : JobGotInv (.stop c k s : JobGot α) := h
theorem JobGot.wait_inv {α : Type} {s : State} (h : s.Inv) : JobGotInv (.wait s : JobGot α) := h
theorem PortReadInv.ok {s : State} {v : Word} (h : PortReadInv (.ok v s)) : s.Inv := h
theorem PortReadInv.wait {s : State} (h : PortReadInv (.wait s)) : s.Inv := h
theorem ReadsInv.ok {s : State} {v : List Word} (h : ReadsInv (.ok v s)) : s.Inv := h
theorem ReadsInv.wait {s : State} (h : ReadsInv (.wait s)) : s.Inv := h
theorem FetchInv.ok {s : State} {p : Parcel} (h : FetchInv (.ok p s)) : s.Inv := h
theorem FetchInv.trap {s : State} {c : Nat} (h : FetchInv (.trap c s)) : s.Inv := h
theorem FetchInv.fault {s : State} {k : Option Nat} (h : FetchInv (.fault k s)) : s.Inv := h
theorem FetchWordInv.ok {s : State} {p : List Parcel} (h : FetchWordInv (.ok p s)) : s.Inv := h
theorem FetchWordInv.trap {s : State} {c : Nat} (h : FetchWordInv (.trap c s)) : s.Inv := h
theorem FetchWordInv.fault {s : State} {k : Option Nat} (h : FetchWordInv (.fault k s)) : s.Inv := h
theorem IssueInv.run {s : State} {i : Instr} (h : IssueInv (.run i s)) : s.Inv := h
theorem IssueInv.done {s : State} (h : IssueInv (.done s)) : s.Inv := h
theorem UniformInv.ok {s : State} (h : UniformInv (.ok s)) : s.Inv := h
theorem UniformInv.mismatch {s : State} (h : UniformInv (.mismatch s)) : s.Inv := h
theorem JobGotInv.ok {α : Type} {x : α} {s : State} (h : JobGotInv (.ok x s)) : s.Inv := h
theorem JobGotInv.stop {α : Type} {c k : Nat} {s : State} (h : JobGotInv (.stop c k s : JobGot α)) : s.Inv := h
theorem JobGotInv.wait {α : Type} {s : State} (h : JobGotInv (.wait s : JobGot α)) : s.Inv := h
theorem ResInv.seq {s : State} (h : ResInv (.seq s)) : s.Inv := h
theorem ResInv.seqR {s : State} (h : ResInv (.seqR s)) : s.Inv := h
theorem ResInv.hold {s : State} (h : ResInv (.hold s)) : s.Inv := h
theorem ResInv.park {s : State} {p : Park} (h : ResInv (.park s p)) : s.Inv := h
theorem ResInv.trap {s : State} {c k : Nat} (h : ResInv (.trap s c k)) : s.Inv := h
theorem ResInv.jump {s : State} {a : Word} (h : ResInv (.jump s a)) : s.Inv ∧ EvenAddr a := h

end Sys2Proof.Machine
end

