-- ==== Sys2Proof/Laws/KeptMemSys.lean ====
section
/-! SUPPORT. That every operation of Machine/MemSys.lean keeps the invariant State.Inv. -/

namespace Sys2Proof.Machine

theorem State.putHome_inv (s : State) (d : Nat) (v : Byte) (h_s : State.Inv s) : State.Inv (State.putHome s d v) := by
  unfold State.putHome; grind [State.mk_inv, State.Inv.mem, State.Inv.threads, State.Inv.units, State.Inv.hub, Hub.mk_inv, HubInv.launches, TUnit.mk_inv, TUnit.Inv.scr, TUnit.Inv.obuf, TUnit.Inv.gangs, Launch.mk_inv, Launch.Inv.desc, OutInv_next, OutInv_fault, Store.setByte_wf, Store.setBytes_wf, AMap.All.filter]

theorem State.putHomes_inv (s : State) (d : Nat) (h_s : State.Inv s) : ∀ x0, State.Inv ((State.putHomes s d) x0) := by
  intro x0
  fun_induction State.putHomes s d x0 <;> grind [State.mk_inv, State.Inv.mem, State.Inv.threads, State.Inv.units, State.Inv.hub, Hub.mk_inv, HubInv.launches, TUnit.mk_inv, TUnit.Inv.scr, TUnit.Inv.obuf, TUnit.Inv.gangs, Launch.mk_inv, Launch.Inv.desc, OutInv_next, OutInv_fault, State.putHome_inv]

theorem State.specWrite_inv (s : State) (spec : Nat) (d : Nat) (v : Byte) (h_s : State.Inv s) : State.Inv (State.specWrite s spec d v) := by
  unfold State.specWrite; grind [State.mk_inv, State.Inv.mem, State.Inv.threads, State.Inv.units, State.Inv.hub, Hub.mk_inv, HubInv.launches, TUnit.mk_inv, TUnit.Inv.scr, TUnit.Inv.obuf, TUnit.Inv.gangs, Launch.mk_inv, Launch.Inv.desc, OutInv_next, OutInv_fault, State.launch?_inv, State.modLaunch_inv, AMap.All.set]

theorem State.writeByte_inv (s : State) (spec : Nat) (l : Loc) (v : Byte) (h_s : State.Inv s) : State.Inv (State.writeByte s spec l v) := by
  unfold State.writeByte; grind [State.mk_inv, State.Inv.mem, State.Inv.threads, State.Inv.units, State.Inv.hub, Hub.mk_inv, HubInv.launches, TUnit.mk_inv, TUnit.Inv.scr, TUnit.Inv.obuf, TUnit.Inv.gangs, Launch.mk_inv, Launch.Inv.desc, OutInv_next, OutInv_fault, State.modUnit_inv, State.putHome_inv, State.specWrite_inv, TUnit.modGang_inv, Gang.mk_inv, Gang.Inv.priv, Gang.empty_inv, TUnit.gang_inv, AMap.All.get?, Store.setByte_wf, Store.setBytes_wf, AMap.All.filter]

theorem State.writeAt_inv (s : State) (spec : Nat) (l : Loc) (h_s : State.Inv s) : ∀ x0, State.Inv ((State.writeAt s spec l) x0) := by
  intro x0
  fun_induction State.writeAt s spec l x0 <;> grind [State.mk_inv, State.Inv.mem, State.Inv.threads, State.Inv.units, State.Inv.hub, Hub.mk_inv, HubInv.launches, TUnit.mk_inv, TUnit.Inv.scr, TUnit.Inv.obuf, TUnit.Inv.gangs, Launch.mk_inv, Launch.Inv.desc, OutInv_next, OutInv_fault, State.writeByte_inv]

theorem State.forgetAt_inv (s : State) (l : Loc) (n : Nat) (h_s : State.Inv s) : State.Inv (State.forgetAt s l n) := by
  unfold State.forgetAt; grind [State.mk_inv, State.Inv.mem, State.Inv.threads, State.Inv.units, State.Inv.hub, Hub.mk_inv, HubInv.launches, TUnit.mk_inv, TUnit.Inv.scr, TUnit.Inv.obuf, TUnit.Inv.gangs, Launch.mk_inv, Launch.Inv.desc, OutInv_next, OutInv_fault, State.modUnit_inv, State.takeFresh_inv, TUnit.modGang_inv, Gang.mk_inv, Gang.Inv.priv, Gang.empty_inv, TUnit.gang_inv, AMap.All.get?, Store.forget_wf, foldl_inv]

theorem State.forgetAs_inv (s : State) (spec : Nat) (l : Loc) (n : Nat) (h_s : State.Inv s) : State.Inv (State.forgetAs s spec l n) := by
  unfold State.forgetAs; grind [State.mk_inv, State.Inv.mem, State.Inv.threads, State.Inv.units, State.Inv.hub, Hub.mk_inv, HubInv.launches, TUnit.mk_inv, TUnit.Inv.scr, TUnit.Inv.obuf, TUnit.Inv.gangs, Launch.mk_inv, Launch.Inv.desc, OutInv_next, OutInv_fault, State.forgetAt_inv, State.specWrite_inv, State.takeFresh_inv, Store.forget_wf, foldl_inv]

theorem State.l1Update_inv (s : State) (ck : Nat) (l : Loc) (h_s : State.Inv s) : ∀ x0, State.Inv ((State.l1Update s ck l) x0) := by
  intro x0
  fun_induction State.l1Update s ck l x0 <;> grind [State.mk_inv, State.Inv.mem, State.Inv.threads, State.Inv.units, State.Inv.hub, Hub.mk_inv, HubInv.launches, TUnit.mk_inv, TUnit.Inv.scr, TUnit.Inv.obuf, TUnit.Inv.gangs, Launch.mk_inv, Launch.Inv.desc, OutInv_next, OutInv_fault, State.modCore_inv]

theorem State.modLink_inv (s : State) (p : Nat) (f : Link → Link) (h_s : State.Inv s) : State.Inv (State.modLink s p f) := by
  unfold State.modLink; grind [State.mk_inv, State.Inv.mem, State.Inv.threads, State.Inv.units, State.Inv.hub, Hub.mk_inv, HubInv.launches, TUnit.mk_inv, TUnit.Inv.scr, TUnit.Inv.obuf, TUnit.Inv.gangs, Launch.mk_inv, Launch.Inv.desc, OutInv_next, OutInv_fault, State.modHub_inv]

theorem State.fillPort_inv (s : State) (p : Nat) (h_s : State.Inv s) : State.Inv (State.fillPort s p) := by
  unfold State.fillPort; grind [State.mk_inv, State.Inv.mem, State.Inv.threads, State.Inv.units, State.Inv.hub, Hub.mk_inv, HubInv.launches, TUnit.mk_inv, TUnit.Inv.scr, TUnit.Inv.obuf, TUnit.Inv.gangs, Launch.mk_inv, Launch.Inv.desc, OutInv_next, OutInv_fault, State.modLink_inv]

theorem State.sendPacket_inv (s : State) (x : Packet) (h_s : State.Inv s) : State.Inv (State.sendPacket s x) := by
  unfold State.sendPacket; grind [State.mk_inv, State.Inv.mem, State.Inv.threads, State.Inv.units, State.Inv.hub, Hub.mk_inv, HubInv.launches, TUnit.mk_inv, TUnit.Inv.scr, TUnit.Inv.obuf, TUnit.Inv.gangs, Launch.mk_inv, Launch.Inv.desc, OutInv_next, OutInv_fault, State.fillPort_inv, State.modLink_inv]

theorem State.keepOff_inv (s : State) (w : OffWrite) (h_s : State.Inv s) : State.Inv (State.keepOff s w) := by
  unfold State.keepOff; grind [State.mk_inv, State.Inv.mem, State.Inv.threads, State.Inv.units, State.Inv.hub, Hub.mk_inv, HubInv.launches, TUnit.mk_inv, TUnit.Inv.scr, TUnit.Inv.obuf, TUnit.Inv.gangs, Launch.mk_inv, Launch.Inv.desc, OutInv_next, OutInv_fault]

theorem State.offPiece_inv (s : State) (w : OffWrite) (d : Nat) (bs : List Byte) (h_s : State.Inv s) : State.Inv (State.offPiece s w d bs) := by
  unfold State.offPiece; grind [State.mk_inv, State.Inv.mem, State.Inv.threads, State.Inv.units, State.Inv.hub, Hub.mk_inv, HubInv.launches, TUnit.mk_inv, TUnit.Inv.scr, TUnit.Inv.obuf, TUnit.Inv.gangs, Launch.mk_inv, Launch.Inv.desc, OutInv_next, OutInv_fault, State.keepOff_inv, State.modHub_inv, State.sendPacket_inv]

theorem State.offWrite_inv (s : State) (seq : Nat) (tk : Nat) (tloc : Word) (d : Nat) (bs : List Byte) (eng : Option (Nat × Nat)) (op : Nat) (h_s : State.Inv s) : State.Inv (State.offWrite s seq tk tloc d bs eng op) := by
  unfold State.offWrite; grind [State.mk_inv, State.Inv.mem, State.Inv.threads, State.Inv.units, State.Inv.hub, Hub.mk_inv, HubInv.launches, TUnit.mk_inv, TUnit.Inv.scr, TUnit.Inv.obuf, TUnit.Inv.gangs, Launch.mk_inv, Launch.Inv.desc, OutInv_next, OutInv_fault, State.keepOff_inv, State.offPiece_inv, foldl_inv]

theorem State.translate_inv (s : State) (asn : Nat) (root : Word) (va : Word) (kind : Nat) (h_s : State.Inv s) : State.Inv ((State.translate s asn root va kind)).2 := by
  unfold State.translate; grind [State.mk_inv, State.Inv.mem, State.Inv.threads, State.Inv.units, State.Inv.hub, Hub.mk_inv, HubInv.launches, TUnit.mk_inv, TUnit.Inv.scr, TUnit.Inv.obuf, TUnit.Inv.gangs, Launch.mk_inv, Launch.Inv.desc, OutInv_next, OutInv_fault, AMap.All.filter]

theorem State.endFault_inv (s : State) (token : Nat) (refused : Bool) (h_s : State.Inv s) : State.Inv (State.endFault s token refused) := by
  unfold State.endFault; grind [State.mk_inv, State.Inv.mem, State.Inv.threads, State.Inv.units, State.Inv.hub, Hub.mk_inv, HubInv.launches, TUnit.mk_inv, TUnit.Inv.scr, TUnit.Inv.obuf, TUnit.Inv.gangs, Launch.mk_inv, Launch.Inv.desc, OutInv_next, OutInv_fault, State.modHub_inv, AMap.All.filter, AMap.All.map]

theorem State.appendFault_inv (s : State) (h_s : State.Inv s) : State.Inv (State.appendFault s) := by
  unfold State.appendFault; grind [State.mk_inv, State.Inv.mem, State.Inv.threads, State.Inv.units, State.Inv.hub, Hub.mk_inv, HubInv.launches, TUnit.mk_inv, TUnit.Inv.scr, TUnit.Inv.obuf, TUnit.Inv.gangs, Launch.mk_inv, Launch.Inv.desc, OutInv_next, OutInv_fault, State.endFault_inv, State.logCore_inv, State.logMgmt_inv, State.modHub_inv, State.putHomes_inv, State.vector_inv, AMap.All.filter, AMap.All.map]

theorem State.appendFaults_inv (s : State) (h_s : State.Inv s) : ∀ x0, State.Inv ((State.appendFaults s) x0) := by
  intro x0
  fun_induction State.appendFaults s x0 <;> grind [State.mk_inv, State.Inv.mem, State.Inv.threads, State.Inv.units, State.Inv.hub, Hub.mk_inv, HubInv.launches, TUnit.mk_inv, TUnit.Inv.scr, TUnit.Inv.obuf, TUnit.Inv.gangs, Launch.mk_inv, Launch.Inv.desc, OutInv_next, OutInv_fault, State.appendFault_inv]

theorem State.flushFaults_inv (s : State) (h_s : State.Inv s) : State.Inv (State.flushFaults s) := by
  unfold State.flushFaults; grind [State.mk_inv, State.Inv.mem, State.Inv.threads, State.Inv.units, State.Inv.hub, Hub.mk_inv, HubInv.launches, TUnit.mk_inv, TUnit.Inv.scr, TUnit.Inv.obuf, TUnit.Inv.gangs, Launch.mk_inv, Launch.Inv.desc, OutInv_next, OutInv_fault, State.appendFaults_inv]

theorem State.raiseFault_inv (s : State) (ck : Option Nat) (asn : Nat) (va : Word) (kind : Nat) (reason : Nat) (h_s : State.Inv s) : State.Inv ((State.raiseFault s ck asn va kind reason)).2 := by
  unfold State.raiseFault; grind [State.mk_inv, State.Inv.mem, State.Inv.threads, State.Inv.units, State.Inv.hub, Hub.mk_inv, HubInv.launches, TUnit.mk_inv, TUnit.Inv.scr, TUnit.Inv.obuf, TUnit.Inv.gangs, Launch.mk_inv, Launch.Inv.desc, OutInv_next, OutInv_fault, State.flushFaults_inv, State.modHub_inv, AMap.All.filter, AMap.All.map]

end Sys2Proof.Machine
end

