-- ==== Sys2Proof/Laws/KeptFlight.lean ====
section
/-! SUPPORT. That every operation of Machine/Flight.lean keeps the invariant State.Inv. -/

namespace Sys2Proof.Machine

theorem State.forgetRuns_inv (s : State) (spec : Nat) (k : Nat) (m : Nat) (h_s : State.Inv s) : ∀ x0, State.Inv ((State.forgetRuns s spec k m) x0) := by
  intro x0
  fun_induction State.forgetRuns s spec k m x0 <;> grind [State.mk_inv, State.Inv.mem, State.Inv.threads, State.Inv.units, State.Inv.hub, Hub.mk_inv, HubInv.launches, TUnit.mk_inv, TUnit.Inv.scr, TUnit.Inv.obuf, TUnit.Inv.gangs, Launch.mk_inv, Launch.Inv.desc, OutInv_next, OutInv_fault, State.forgetAs_inv, Store.forget_wf]

theorem State.mapOp_inv (s : State) (id : Nat) (f : CopyOp → CopyOp) (h_s : State.Inv s) : State.Inv (State.mapOp s id f) := by
  unfold State.mapOp; grind [State.mk_inv, State.Inv.mem, State.Inv.threads, State.Inv.units, State.Inv.hub, Hub.mk_inv, HubInv.launches, TUnit.mk_inv, TUnit.Inv.scr, TUnit.Inv.obuf, TUnit.Inv.gangs, Launch.mk_inv, Launch.Inv.desc, OutInv_next, OutInv_fault, AMap.All.map]

theorem State.mapJob_inv (s : State) (id : Nat) (f : Job → Job) (h_s : State.Inv s) : State.Inv (State.mapJob s id f) := by
  unfold State.mapJob; grind [State.mk_inv, State.Inv.mem, State.Inv.threads, State.Inv.units, State.Inv.hub, Hub.mk_inv, HubInv.launches, TUnit.mk_inv, TUnit.Inv.scr, TUnit.Inv.obuf, TUnit.Inv.gangs, Launch.mk_inv, Launch.Inv.desc, OutInv_next, OutInv_fault, AMap.All.map]

theorem State.closeWindow_inv (s : State) (q : Nat) (l : Loc) (v : Nat) (reach : Nat → Bool) (h_s : State.Inv s) : State.Inv (State.closeWindow s q l v reach) := by
  unfold State.closeWindow; grind [State.mk_inv, State.Inv.mem, State.Inv.threads, State.Inv.units, State.Inv.hub, Hub.mk_inv, HubInv.launches, TUnit.mk_inv, TUnit.Inv.scr, TUnit.Inv.obuf, TUnit.Inv.gangs, Launch.mk_inv, Launch.Inv.desc, OutInv_next, OutInv_fault, AMap.All.map]

theorem State.closeWindows_inv (s : State) (h_s : State.Inv s) : State.Inv (State.closeWindows s) := by
  unfold State.closeWindows; grind [State.mk_inv, State.Inv.mem, State.Inv.threads, State.Inv.units, State.Inv.hub, Hub.mk_inv, HubInv.launches, TUnit.mk_inv, TUnit.Inv.scr, TUnit.Inv.obuf, TUnit.Inv.gangs, Launch.mk_inv, Launch.Inv.desc, OutInv_next, OutInv_fault, AMap.All.map]

theorem State.spoilPieces_inv (s : State) (spec : Nat) (o : CopyOp) (l : Loc) (n : Nat) (h_s : State.Inv s) : State.Inv (State.spoilPieces s spec o l n) := by
  unfold State.spoilPieces; grind [State.mk_inv, State.Inv.mem, State.Inv.threads, State.Inv.units, State.Inv.hub, Hub.mk_inv, HubInv.launches, TUnit.mk_inv, TUnit.Inv.scr, TUnit.Inv.obuf, TUnit.Inv.gangs, Launch.mk_inv, Launch.Inv.desc, OutInv_next, OutInv_fault, State.forgetAs_inv, Store.forget_wf, AMap.All.filter, AMap.All.map, foldl_inv]

theorem State.spoilOp_inv (s : State) (o : CopyOp) (l : Loc) (n : Nat) (src : Bool) (h_s : State.Inv s) : State.Inv (State.spoilOp s o l n src) := by
  unfold State.spoilOp; try intros
  repeat' first
    | with_reducible assumption
    | (with_reducible refine foldl_inv ?_ _ _ ?_ <;> intros)
    | with_reducible apply OutInv_next
    | with_reducible apply OutInv_fault
    | with_reducible apply State.forgetAs_inv
    | with_reducible apply State.mapOp_inv
    | with_reducible apply State.spoilPieces_inv
    | split
    | (intro _)
    | dsimp only
    | grind [State.mk_inv, State.Inv.mem, State.Inv.threads, State.Inv.units, State.Inv.hub, Hub.mk_inv, HubInv.launches, TUnit.mk_inv, TUnit.Inv.scr, TUnit.Inv.obuf, TUnit.Inv.gangs, Launch.mk_inv, Launch.Inv.desc, OutInv_next, OutInv_fault, State.forgetAs_inv, State.mapOp_inv, State.spoilPieces_inv, Store.forget_wf, AMap.All.filter, AMap.All.map, foldl_inv]

theorem State.spoilJob_inv (s : State) (j : Job) (rows : List Nat) (cols : List Nat) (cells : List (Nat × Nat)) (h_s : State.Inv s) : State.Inv (State.spoilJob s j rows cols cells) := by
  unfold State.spoilJob; grind [State.mk_inv, State.Inv.mem, State.Inv.threads, State.Inv.units, State.Inv.hub, Hub.mk_inv, HubInv.launches, TUnit.mk_inv, TUnit.Inv.scr, TUnit.Inv.obuf, TUnit.Inv.gangs, Launch.mk_inv, Launch.Inv.desc, OutInv_next, OutInv_fault, State.forgetAs_inv, State.mapJob_inv, Store.forget_wf, AMap.All.map, foldl_inv]

theorem State.spoilSpec_inv (s : State) (l : Loc) (n : Nat) (h_s : State.Inv s) : State.Inv (State.spoilSpec s l n) := by
  unfold State.spoilSpec; grind [State.mk_inv, State.Inv.mem, State.Inv.threads, State.Inv.units, State.Inv.hub, Hub.mk_inv, HubInv.launches, TUnit.mk_inv, TUnit.Inv.scr, TUnit.Inv.obuf, TUnit.Inv.gangs, Launch.mk_inv, Launch.Inv.desc, OutInv_next, OutInv_fault, State.modLaunch_inv, State.takeFresh_inv, AMap.All.map, foldl_inv]

theorem State.hitSaves_inv (s : State) (l : Loc) (n : Nat) (h_s : State.Inv s) : State.Inv (State.hitSaves s l n) := by
  unfold State.hitSaves; grind [State.mk_inv, State.Inv.mem, State.Inv.threads, State.Inv.units, State.Inv.hub, Hub.mk_inv, HubInv.launches, TUnit.mk_inv, TUnit.Inv.scr, TUnit.Inv.obuf, TUnit.Inv.gangs, Launch.mk_inv, Launch.Inv.desc, OutInv_next, OutInv_fault, AMap.All.map]

theorem State.spoilSaves_inv (s : State) (l : Loc) (n : Nat) (h_s : State.Inv s) : State.Inv (State.spoilSaves s l n) := by
  unfold State.spoilSaves; grind [State.mk_inv, State.Inv.mem, State.Inv.threads, State.Inv.units, State.Inv.hub, Hub.mk_inv, HubInv.launches, TUnit.mk_inv, TUnit.Inv.scr, TUnit.Inv.obuf, TUnit.Inv.gangs, Launch.mk_inv, Launch.Inv.desc, OutInv_next, OutInv_fault, State.forgetAt_inv, State.hitSaves_inv, Store.forget_wf]

theorem State.loseKept_inv (s : State) (l : Loc) (n : Nat) (h_s : State.Inv s) : State.Inv (State.loseKept s l n) := by
  unfold State.loseKept; grind [State.mk_inv, State.Inv.mem, State.Inv.threads, State.Inv.units, State.Inv.hub, Hub.mk_inv, HubInv.launches, TUnit.mk_inv, TUnit.Inv.scr, TUnit.Inv.obuf, TUnit.Inv.gangs, Launch.mk_inv, Launch.Inv.desc, OutInv_next, OutInv_fault, State.hitSaves_inv, State.spoilSpec_inv]

theorem State.noteOps_inv (s : State) (w : Writer) (seq : Nat) (l : Loc) (n : Nat) (ops : List CopyOp) (h_s : State.Inv s) : State.Inv (State.noteOps s w seq l n ops) := by
  unfold State.noteOps; grind [State.mk_inv, State.Inv.mem, State.Inv.threads, State.Inv.units, State.Inv.hub, Hub.mk_inv, HubInv.launches, TUnit.mk_inv, TUnit.Inv.scr, TUnit.Inv.obuf, TUnit.Inv.gangs, Launch.mk_inv, Launch.Inv.desc, OutInv_next, OutInv_fault, State.spoilOp_inv, foldl_inv]

theorem State.noteJobs_inv (s : State) (w : Writer) (seq : Nat) (l : Loc) (n : Nat) (jobs : List Job) (h_s : State.Inv s) : State.Inv (State.noteJobs s w seq l n jobs) := by
  unfold State.noteJobs; grind [State.mk_inv, State.Inv.mem, State.Inv.threads, State.Inv.units, State.Inv.hub, Hub.mk_inv, HubInv.launches, TUnit.mk_inv, TUnit.Inv.scr, TUnit.Inv.obuf, TUnit.Inv.gangs, Launch.mk_inv, Launch.Inv.desc, OutInv_next, OutInv_fault, State.spoilJob_inv, foldl_inv]

theorem State.noteWrite_inv (s : State) (w : Writer) (seq : Nat) (l : Loc) (n : Nat) (h_s : State.Inv s) : State.Inv (State.noteWrite s w seq l n) := by
  unfold State.noteWrite; grind [State.mk_inv, State.Inv.mem, State.Inv.threads, State.Inv.units, State.Inv.hub, Hub.mk_inv, HubInv.launches, TUnit.mk_inv, TUnit.Inv.scr, TUnit.Inv.obuf, TUnit.Inv.gangs, Launch.mk_inv, Launch.Inv.desc, OutInv_next, OutInv_fault, State.noteJobs_inv, State.noteOps_inv, State.spoilSaves_inv, State.spoilSpec_inv]

theorem State.setPresent_inv (s : State) (uid : Nat) (lines : List Nat) (h_s : State.Inv s) : State.Inv (State.setPresent s uid lines) := by
  unfold State.setPresent; grind [State.mk_inv, State.Inv.mem, State.Inv.threads, State.Inv.units, State.Inv.hub, Hub.mk_inv, HubInv.launches, TUnit.mk_inv, TUnit.Inv.scr, TUnit.Inv.obuf, TUnit.Inv.gangs, Launch.mk_inv, Launch.Inv.desc, OutInv_next, OutInv_fault, State.modUnit_inv, AMap.All.filter, AMap.All.map]

theorem State.setAllPresent_inv (s : State) (ck : Nat) (id : Nat) (h_s : State.Inv s) : State.Inv (State.setAllPresent s ck id) := by
  unfold State.setAllPresent; grind [State.mk_inv, State.Inv.mem, State.Inv.threads, State.Inv.units, State.Inv.hub, Hub.mk_inv, HubInv.launches, TUnit.mk_inv, TUnit.Inv.scr, TUnit.Inv.obuf, TUnit.Inv.gangs, Launch.mk_inv, Launch.Inv.desc, OutInv_next, OutInv_fault, State.modCore_inv, State.setPresent_inv, AMap.All.map, foldl_inv]

end Sys2Proof.Machine
end

