-- ==== Sys2Proof/Laws/KeptPending.lean ====
section
/-! SUPPORT. That every operation of Machine/Pending.lean keeps the invariant State.Inv. -/

namespace Sys2Proof.Machine

theorem State.storeError_inv (s : State) (tk : Nat) (ck : Nat) (va : Word) (tloc : Word) (cause : Nat) (h_s : State.Inv s) : State.Inv (State.storeError s tk ck va tloc cause) := by
  unfold State.storeError; grind [State.mk_inv, State.Inv.mem, State.Inv.threads, State.Inv.units, State.Inv.hub, Hub.mk_inv, HubInv.launches, TUnit.mk_inv, TUnit.Inv.scr, TUnit.Inv.obuf, TUnit.Inv.gangs, Launch.mk_inv, Launch.Inv.desc, OutInv_next, OutInv_fault, State.logCore_inv, State.setThread_inv, State.thread?_inv, Thread.mk_inv, Thread.Inv.pc, Thread.Inv.rpc, Thread.Inv.loops, Thread.Inv.shadowLoops, Thread.Inv.cd, Thread.Inv.hd, Thread.Inv.shadowCd, Thread.Inv.shadowHd]

theorem TUnit.unfence_inv (u : TUnit) (off : Nat) (tk : Nat) (seq : Nat) (n : Nat) (h_u : TUnit.Inv u) : TUnit.Inv (TUnit.unfence u off tk seq n) := by
  unfold TUnit.unfence; grind [State.mk_inv, State.Inv.mem, State.Inv.threads, State.Inv.units, State.Inv.hub, Hub.mk_inv, HubInv.launches, TUnit.mk_inv, TUnit.Inv.scr, TUnit.Inv.obuf, TUnit.Inv.gangs, Launch.mk_inv, Launch.Inv.desc, OutInv_next, OutInv_fault, AMap.All.map]

theorem State.unfence_inv (s : State) (tk : Nat) (seq : Nat) (l : Loc) (n : Nat) (h_s : State.Inv s) : State.Inv (State.unfence s tk seq l n) := by
  unfold State.unfence; grind [State.mk_inv, State.Inv.mem, State.Inv.threads, State.Inv.units, State.Inv.hub, Hub.mk_inv, HubInv.launches, TUnit.mk_inv, TUnit.Inv.scr, TUnit.Inv.obuf, TUnit.Inv.gangs, Launch.mk_inv, Launch.Inv.desc, OutInv_next, OutInv_fault, State.modUnit_inv, TUnit.unfence_inv]

theorem State.perform_inv (s : State) (ck : Nat) (p : Pend) (h_s : State.Inv s) : State.Inv (State.perform s ck p) := by
  unfold State.perform; grind [State.mk_inv, State.Inv.mem, State.Inv.threads, State.Inv.units, State.Inv.hub, Hub.mk_inv, HubInv.launches, TUnit.mk_inv, TUnit.Inv.scr, TUnit.Inv.obuf, TUnit.Inv.gangs, Launch.mk_inv, Launch.Inv.desc, OutInv_next, OutInv_fault, State.l1Update_inv, State.noteWrite_inv, State.offWrite_inv, State.storeError_inv, State.unfence_inv, State.writeAt_inv, TUnit.unfence_inv, Thread.mk_inv, Thread.Inv.pc, Thread.Inv.rpc, Thread.Inv.loops, Thread.Inv.shadowLoops, Thread.Inv.cd, Thread.Inv.hd, Thread.Inv.shadowCd, Thread.Inv.shadowHd]

theorem State.performWhere_inv (s : State) (ck : Nat) (f : Pend → Bool) (h_s : State.Inv s) : State.Inv (State.performWhere s ck f) := by
  unfold State.performWhere; grind [State.mk_inv, State.Inv.mem, State.Inv.threads, State.Inv.units, State.Inv.hub, Hub.mk_inv, HubInv.launches, TUnit.mk_inv, TUnit.Inv.scr, TUnit.Inv.obuf, TUnit.Inv.gangs, Launch.mk_inv, Launch.Inv.desc, OutInv_next, OutInv_fault, State.perform_inv, State.setCore_inv, foldl_inv]

theorem State.performAll_inv (s : State) (ck : Nat) (h_s : State.Inv s) : State.Inv (State.performAll s ck) := by
  unfold State.performAll; grind [State.mk_inv, State.Inv.mem, State.Inv.threads, State.Inv.units, State.Inv.hub, Hub.mk_inv, HubInv.launches, TUnit.mk_inv, TUnit.Inv.scr, TUnit.Inv.obuf, TUnit.Inv.gangs, Launch.mk_inv, Launch.Inv.desc, OutInv_next, OutInv_fault, State.performWhere_inv]

theorem State.acquire_inv (s : State) (tk : Nat) (h_s : State.Inv s) : State.Inv (State.acquire s tk) := by
  unfold State.acquire; grind [State.mk_inv, State.Inv.mem, State.Inv.threads, State.Inv.units, State.Inv.hub, Hub.mk_inv, HubInv.launches, TUnit.mk_inv, TUnit.Inv.scr, TUnit.Inv.obuf, TUnit.Inv.gangs, Launch.mk_inv, Launch.Inv.desc, OutInv_next, OutInv_fault, State.modThread_inv, Thread.mk_inv, Thread.Inv.pc, Thread.Inv.rpc, Thread.Inv.loops, Thread.Inv.shadowLoops, Thread.Inv.cd, Thread.Inv.hd, Thread.Inv.shadowCd, Thread.Inv.shadowHd]

theorem State.refresh_inv (s : State) (ck : Nat) (h_s : State.Inv s) : State.Inv (State.refresh s ck) := by
  unfold State.refresh; grind [State.mk_inv, State.Inv.mem, State.Inv.threads, State.Inv.units, State.Inv.hub, Hub.mk_inv, HubInv.launches, TUnit.mk_inv, TUnit.Inv.scr, TUnit.Inv.obuf, TUnit.Inv.gangs, Launch.mk_inv, Launch.Inv.desc, OutInv_next, OutInv_fault, State.modCore_inv]

theorem State.markSeen_inv (s : State) (ck : Nat) (tk : Nat) (seq : Nat) (l : Loc) (n : Nat) (h_s : State.Inv s) : State.Inv (State.markSeen s ck tk seq l n) := by
  unfold State.markSeen; grind [State.mk_inv, State.Inv.mem, State.Inv.threads, State.Inv.units, State.Inv.hub, Hub.mk_inv, HubInv.launches, TUnit.mk_inv, TUnit.Inv.scr, TUnit.Inv.obuf, TUnit.Inv.gangs, Launch.mk_inv, Launch.Inv.desc, OutInv_next, OutInv_fault, State.modCore_inv, AMap.All.map]

theorem State.readEntry_inv (s : State) (ck : Nat) (tk : Nat) (t : Thread) (line : Loc) (err : Option Nat) (bs : List Byte) (h_t : Thread.Inv t) : Thread.Inv (State.readEntry s ck tk t line err bs) := by
  unfold State.readEntry; grind [State.mk_inv, State.Inv.mem, State.Inv.threads, State.Inv.units, State.Inv.hub, Hub.mk_inv, HubInv.launches, TUnit.mk_inv, TUnit.Inv.scr, TUnit.Inv.obuf, TUnit.Inv.gangs, Launch.mk_inv, Launch.Inv.desc, OutInv_next, OutInv_fault, Thread.mk_inv, Thread.Inv.pc, Thread.Inv.rpc, Thread.Inv.loops, Thread.Inv.shadowLoops, Thread.Inv.cd, Thread.Inv.hd, Thread.Inv.shadowCd, Thread.Inv.shadowHd, AMap.All.map]

theorem State.sendEntry_inv (s : State) (ck : Nat) (line : Loc) (h_s : State.Inv s) : State.Inv (State.sendEntry s ck line) := by
  unfold State.sendEntry; grind [State.mk_inv, State.Inv.mem, State.Inv.threads, State.Inv.units, State.Inv.hub, Hub.mk_inv, HubInv.launches, TUnit.mk_inv, TUnit.Inv.scr, TUnit.Inv.obuf, TUnit.Inv.gangs, Launch.mk_inv, Launch.Inv.desc, OutInv_next, OutInv_fault, State.markSeen_inv, State.readEntry_inv, State.setCore_inv, State.takeSeq_inv, Thread.mk_inv, Thread.Inv.pc, Thread.Inv.rpc, Thread.Inv.loops, Thread.Inv.shadowLoops, Thread.Inv.cd, Thread.Inv.hd, Thread.Inv.shadowCd, Thread.Inv.shadowHd, AMap.All.filter, AMap.All.map, foldl_inv]

theorem State.sendFor_inv (s : State) (ck : Nat) (tk : Nat) (h_s : State.Inv s) : State.Inv (State.sendFor s ck tk) := by
  unfold State.sendFor; grind [State.mk_inv, State.Inv.mem, State.Inv.threads, State.Inv.units, State.Inv.hub, Hub.mk_inv, HubInv.launches, TUnit.mk_inv, TUnit.Inv.scr, TUnit.Inv.obuf, TUnit.Inv.gangs, Launch.mk_inv, Launch.Inv.desc, OutInv_next, OutInv_fault, State.sendEntry_inv, State.thread?_inv, Thread.mk_inv, Thread.Inv.pc, Thread.Inv.rpc, Thread.Inv.loops, Thread.Inv.shadowLoops, Thread.Inv.cd, Thread.Inv.hd, Thread.Inv.shadowCd, Thread.Inv.shadowHd, AMap.All.filter, foldl_inv]

theorem State.settle_inv (s : State) (ck : Nat) (tk : Nat) (h_s : State.Inv s) : State.Inv (State.settle s ck tk) := by
  unfold State.settle; grind [State.mk_inv, State.Inv.mem, State.Inv.threads, State.Inv.units, State.Inv.hub, Hub.mk_inv, HubInv.launches, TUnit.mk_inv, TUnit.Inv.scr, TUnit.Inv.obuf, TUnit.Inv.gangs, Launch.mk_inv, Launch.Inv.desc, OutInv_next, OutInv_fault, State.performWhere_inv, State.sendFor_inv]

theorem State.orderAtHome_inv (s : State) (ck : Nat) (tk : Nat) (l : Loc) (n : Nat) (h_s : State.Inv s) : State.Inv (State.orderAtHome s ck tk l n) := by
  unfold State.orderAtHome; grind [State.mk_inv, State.Inv.mem, State.Inv.threads, State.Inv.units, State.Inv.hub, Hub.mk_inv, HubInv.launches, TUnit.mk_inv, TUnit.Inv.scr, TUnit.Inv.obuf, TUnit.Inv.gangs, Launch.mk_inv, Launch.Inv.desc, OutInv_next, OutInv_fault, State.performWhere_inv, State.sendEntry_inv]

theorem State.tagLine_inv (s : State) (ck : Nat) (h_s : State.Inv s) : ∀ x0, State.Inv ((State.tagLine s ck) x0) := by
  unfold State.tagLine; grind [State.mk_inv, State.Inv.mem, State.Inv.threads, State.Inv.units, State.Inv.hub, Hub.mk_inv, HubInv.launches, TUnit.mk_inv, TUnit.Inv.scr, TUnit.Inv.obuf, TUnit.Inv.gangs, Launch.mk_inv, Launch.Inv.desc, OutInv_next, OutInv_fault, AMap.All.set]

end Sys2Proof.Machine
end

