-- ==== Sys2Proof/Laws/KeptStreams.lean ====
section
/-! SUPPORT. That every operation of Machine/Streams.lean keeps the invariant State.Inv. -/

namespace Sys2Proof.Machine

theorem State.logThread_inv (s : State) (t : Thread) (va : Word) (cause : Nat) (kind : Nat) (h_s : State.Inv s) : State.Inv (State.logThread s t va cause kind) := by
  unfold State.logThread; grind [State.mk_inv, State.Inv.mem, State.Inv.threads, State.Inv.units, State.Inv.hub, Hub.mk_inv, HubInv.launches, TUnit.mk_inv, TUnit.Inv.scr, TUnit.Inv.obuf, TUnit.Inv.gangs, Launch.mk_inv, Launch.Inv.desc, OutInv_next, OutInv_fault, State.logCore_inv]

theorem State.threadXlate_inv (s : State) (t : Thread) (tok : Option Nat) (va : Word) (kind : Nat) (h_s : State.Inv s) : State.Inv ((State.threadXlate s t tok va kind)).2 := by
  unfold State.threadXlate; grind [State.mk_inv, State.Inv.mem, State.Inv.threads, State.Inv.units, State.Inv.hub, Hub.mk_inv, HubInv.launches, TUnit.mk_inv, TUnit.Inv.scr, TUnit.Inv.obuf, TUnit.Inv.gangs, Launch.mk_inv, Launch.Inv.desc, OutInv_next, OutInv_fault, State.logCore_inv, State.logThread_inv, State.raiseFault_inv, State.translate_inv, Thread.mk_inv, Thread.Inv.pc, Thread.Inv.rpc, Thread.Inv.loops, Thread.Inv.shadowLoops, Thread.Inv.cd, Thread.Inv.hd, Thread.Inv.shadowCd, Thread.Inv.shadowHd]

theorem State.access_inv (s : State) (tk : Nat) (t : Thread) (tok : Option Nat) (va : Word) (n : Nat) (al : Nat) (kind : Nat) (h_s : State.Inv s) : State.Inv ((State.access s tk t tok va n al kind)).2 := by
  unfold State.access; grind [State.mk_inv, State.Inv.mem, State.Inv.threads, State.Inv.units, State.Inv.hub, Hub.mk_inv, HubInv.launches, TUnit.mk_inv, TUnit.Inv.scr, TUnit.Inv.obuf, TUnit.Inv.gangs, Launch.mk_inv, Launch.Inv.desc, OutInv_next, OutInv_fault, State.threadXlate_inv, Thread.mk_inv, Thread.Inv.pc, Thread.Inv.rpc, Thread.Inv.loops, Thread.Inv.shadowLoops, Thread.Inv.cd, Thread.Inv.hd, Thread.Inv.shadowCd, Thread.Inv.shadowHd]

theorem State.joinEntry_inv (s : State) (ck : Nat) (l : Loc) (h_s : State.Inv s) : ∀ s', (State.joinEntry s ck l) = some s' → State.Inv s' := by
  unfold State.joinEntry; grind [State.mk_inv, State.Inv.mem, State.Inv.threads, State.Inv.units, State.Inv.hub, Hub.mk_inv, HubInv.launches, TUnit.mk_inv, TUnit.Inv.scr, TUnit.Inv.obuf, TUnit.Inv.gangs, Launch.mk_inv, Launch.Inv.desc, OutInv_next, OutInv_fault, State.setCore_inv]

theorem Thread.touched_inv (t : Thread) (l : Loc) (n : Nat) (h_t : Thread.Inv t) : Thread.Inv (Thread.touched t l n) := by
  unfold Thread.touched; grind [State.mk_inv, State.Inv.mem, State.Inv.threads, State.Inv.units, State.Inv.hub, Hub.mk_inv, HubInv.launches, TUnit.mk_inv, TUnit.Inv.scr, TUnit.Inv.obuf, TUnit.Inv.gangs, Launch.mk_inv, Launch.Inv.desc, OutInv_next, OutInv_fault, Thread.mk_inv, Thread.Inv.pc, Thread.Inv.rpc, Thread.Inv.loops, Thread.Inv.shadowLoops, Thread.Inv.cd, Thread.Inv.hd, Thread.Inv.shadowCd, Thread.Inv.shadowHd, AMap.All.map]

theorem Thread.dropPrefetched_inv (t : Thread) (h_t : Thread.Inv t) : Thread.Inv (Thread.dropPrefetched t) := by
  unfold Thread.dropPrefetched; grind [State.mk_inv, State.Inv.mem, State.Inv.threads, State.Inv.units, State.Inv.hub, Hub.mk_inv, HubInv.launches, TUnit.mk_inv, TUnit.Inv.scr, TUnit.Inv.obuf, TUnit.Inv.gangs, Launch.mk_inv, Launch.Inv.desc, OutInv_next, OutInv_fault, Thread.mk_inv, Thread.Inv.pc, Thread.Inv.rpc, Thread.Inv.loops, Thread.Inv.shadowLoops, Thread.Inv.cd, Thread.Inv.hd, Thread.Inv.shadowCd, Thread.Inv.shadowHd, AMap.All.map]

theorem State.issueWrite_inv (s : State) (tk : Nat) (t : Thread) (l : Loc) (bs : List Byte) (va : Word) (tloc : Word) (h_s : State.Inv s) : ∀ s', (State.issueWrite s tk t l bs va tloc) = some s' → State.Inv s' := by
  unfold State.issueWrite; grind [State.mk_inv, State.Inv.mem, State.Inv.threads, State.Inv.units, State.Inv.hub, Hub.mk_inv, HubInv.launches, TUnit.mk_inv, TUnit.Inv.scr, TUnit.Inv.obuf, TUnit.Inv.gangs, Launch.mk_inv, Launch.Inv.desc, OutInv_next, OutInv_fault, State.joinEntry_inv, State.modCore_inv, State.modThread_inv, State.takeSeq_inv, Thread.touched_inv, Thread.mk_inv, Thread.Inv.pc, Thread.Inv.rpc, Thread.Inv.loops, Thread.Inv.shadowLoops, Thread.Inv.cd, Thread.Inv.hd, Thread.Inv.shadowCd, Thread.Inv.shadowHd]

theorem State.drainOne_inv (s : State) (tk : Nat) (h_s : State.Inv s) : State.Inv ((State.drainOne s tk)).2 := by
  unfold State.drainOne; try intros
  repeat' first
    | with_reducible assumption
    | (with_reducible refine foldl_inv ?_ _ _ ?_ <;> intros)
    | with_reducible apply OutInv_next
    | with_reducible apply OutInv_fault
    | with_reducible apply State.setThread_inv
    | with_reducible apply Issue.run_inv
    | with_reducible apply Issue.done_inv
    | split
    | (intro _)
    | dsimp only
    | grind [State.mk_inv, State.Inv.mem, State.Inv.threads, State.Inv.units, State.Inv.hub, Hub.mk_inv, HubInv.launches, TUnit.mk_inv, TUnit.Inv.scr, TUnit.Inv.obuf, TUnit.Inv.gangs, Launch.mk_inv, Launch.Inv.desc, OutInv_next, OutInv_fault, State.access_inv, State.issueWrite_inv, State.setThread_inv, State.thread?_inv, Thread.mk_inv, Thread.Inv.pc, Thread.Inv.rpc, Thread.Inv.loops, Thread.Inv.shadowLoops, Thread.Inv.cd, Thread.Inv.hd, Thread.Inv.shadowCd, Thread.Inv.shadowHd, Issue.run_inv, Issue.done_inv, IssueInv.run, IssueInv.done]

theorem State.drainN_inv (s : State) (tk : Nat) (h_s : State.Inv s) : ∀ x0, State.Inv ((State.drainN s tk) x0) := by
  intro x0
  fun_induction State.drainN s tk x0 <;> grind [State.mk_inv, State.Inv.mem, State.Inv.threads, State.Inv.units, State.Inv.hub, Hub.mk_inv, HubInv.launches, TUnit.mk_inv, TUnit.Inv.scr, TUnit.Inv.obuf, TUnit.Inv.gangs, Launch.mk_inv, Launch.Inv.desc, OutInv_next, OutInv_fault, State.drainOne_inv]

theorem State.drainOut_inv (s : State) (tk : Nat) (h_s : State.Inv s) : State.Inv (State.drainOut s tk) := by
  unfold State.drainOut; grind [State.mk_inv, State.Inv.mem, State.Inv.threads, State.Inv.units, State.Inv.hub, Hub.mk_inv, HubInv.launches, TUnit.mk_inv, TUnit.Inv.scr, TUnit.Inv.obuf, TUnit.Inv.gangs, Launch.mk_inv, Launch.Inv.desc, OutInv_next, OutInv_fault, State.drainN_inv]

theorem State.outWrite_inv (s : State) (tk : Nat) (k : Nat) (v : Word) (tloc : Word) (h_s : State.Inv s) : State.Inv (State.outWrite s tk k v tloc) := by
  unfold State.outWrite; grind [State.mk_inv, State.Inv.mem, State.Inv.threads, State.Inv.units, State.Inv.hub, Hub.mk_inv, HubInv.launches, TUnit.mk_inv, TUnit.Inv.scr, TUnit.Inv.obuf, TUnit.Inv.gangs, Launch.mk_inv, Launch.Inv.desc, OutInv_next, OutInv_fault, State.setThread_inv, State.takeSeq_inv, State.thread?_inv, Thread.dropPrefetched_inv, Thread.mk_inv, Thread.Inv.pc, Thread.Inv.rpc, Thread.Inv.loops, Thread.Inv.shadowLoops, Thread.Inv.cd, Thread.Inv.hd, Thread.Inv.shadowCd, Thread.Inv.shadowHd, Fetch.ok_inv, Fetch.trap_inv, Fetch.fault_inv, FetchInv.ok, FetchInv.trap, FetchInv.fault, FetchWord.ok_inv, FetchWord.trap_inv, FetchWord.fault_inv, FetchWordInv.ok, FetchWordInv.trap, FetchWordInv.fault]

theorem State.drainCore_inv (s : State) (ck : Nat) (h_s : State.Inv s) : State.Inv (State.drainCore s ck) := by
  unfold State.drainCore; grind [State.mk_inv, State.Inv.mem, State.Inv.threads, State.Inv.units, State.Inv.hub, Hub.mk_inv, HubInv.launches, TUnit.mk_inv, TUnit.Inv.scr, TUnit.Inv.obuf, TUnit.Inv.gangs, Launch.mk_inv, Launch.Inv.desc, OutInv_next, OutInv_fault, State.drainOut_inv, foldl_inv]

theorem State.sendWrites_inv (s : State) (ck : Nat) (h_s : State.Inv s) : State.Inv (State.sendWrites s ck) := by
  unfold State.sendWrites; grind [State.mk_inv, State.Inv.mem, State.Inv.threads, State.Inv.units, State.Inv.hub, Hub.mk_inv, HubInv.launches, TUnit.mk_inv, TUnit.Inv.scr, TUnit.Inv.obuf, TUnit.Inv.gangs, Launch.mk_inv, Launch.Inv.desc, OutInv_next, OutInv_fault, State.sendEntry_inv, AMap.All.filter, foldl_inv]

theorem State.clearTags_inv (s : State) (ck : Nat) (h_s : State.Inv s) : State.Inv (State.clearTags s ck) := by
  unfold State.clearTags; grind [State.mk_inv, State.Inv.mem, State.Inv.threads, State.Inv.units, State.Inv.hub, Hub.mk_inv, HubInv.launches, TUnit.mk_inv, TUnit.Inv.scr, TUnit.Inv.obuf, TUnit.Inv.gangs, Launch.mk_inv, Launch.Inv.desc, OutInv_next, OutInv_fault, Thread.mk_inv, Thread.Inv.pc, Thread.Inv.rpc, Thread.Inv.loops, Thread.Inv.shadowLoops, Thread.Inv.cd, Thread.Inv.hd, Thread.Inv.shadowCd, Thread.Inv.shadowHd, AMap.All.filter, AMap.All.map]

theorem State.publish_inv (s : State) (ck : Nat) (h_s : State.Inv s) : State.Inv (State.publish s ck) := by
  unfold State.publish; grind [State.mk_inv, State.Inv.mem, State.Inv.threads, State.Inv.units, State.Inv.hub, Hub.mk_inv, HubInv.launches, TUnit.mk_inv, TUnit.Inv.scr, TUnit.Inv.obuf, TUnit.Inv.gangs, Launch.mk_inv, Launch.Inv.desc, OutInv_next, OutInv_fault, State.clearTags_inv, State.drainCore_inv, State.performAll_inv, State.sendWrites_inv]

theorem State.promote_inv (s : State) (ck : Nat) (l : Loc) (h_s : State.Inv s) : State.Inv (State.promote s ck l) := by
  unfold State.promote; grind [State.mk_inv, State.Inv.mem, State.Inv.threads, State.Inv.units, State.Inv.hub, Hub.mk_inv, HubInv.launches, TUnit.mk_inv, TUnit.Inv.scr, TUnit.Inv.obuf, TUnit.Inv.gangs, Launch.mk_inv, Launch.Inv.desc, OutInv_next, OutInv_fault, State.modCore_inv, State.publish_inv, AMap.All.del, AMap.All.filter]

theorem State.fetchElem_inv (s : State) (tk : Nat) (k : Nat) (pos : Nat) (h_s : State.Inv s) : State.Inv ((State.fetchElem s tk k pos)).2 := by
  unfold State.fetchElem; try intros
  repeat' first
    | with_reducible assumption
    | (with_reducible refine foldl_inv ?_ _ _ ?_ <;> intros)
    | with_reducible apply OutInv_next
    | with_reducible apply OutInv_fault
    | with_reducible apply State.drainOut_inv
    | with_reducible apply State.logThread_inv
    | with_reducible apply State.markSeen_inv
    | with_reducible apply State.modThread_inv
    | split
    | (intro _)
    | dsimp only
    | grind [State.mk_inv, State.Inv.mem, State.Inv.threads, State.Inv.units, State.Inv.hub, Hub.mk_inv, HubInv.launches, TUnit.mk_inv, TUnit.Inv.scr, TUnit.Inv.obuf, TUnit.Inv.gangs, Launch.mk_inv, Launch.Inv.desc, OutInv_next, OutInv_fault, State.access_inv, State.drainOut_inv, State.joinEntry_inv, State.logThread_inv, State.markSeen_inv, State.modThread_inv, State.takeSeq_inv, State.thread?_inv, Thread.mk_inv, Thread.Inv.pc, Thread.Inv.rpc, Thread.Inv.loops, Thread.Inv.shadowLoops, Thread.Inv.cd, Thread.Inv.hd, Thread.Inv.shadowCd, Thread.Inv.shadowHd]

theorem State.fetchNext_inv (s : State) (tk : Nat) (k : Nat) (h_s : State.Inv s) : State.Inv (State.fetchNext s tk k) := by
  unfold State.fetchNext; grind [State.mk_inv, State.Inv.mem, State.Inv.threads, State.Inv.units, State.Inv.hub, Hub.mk_inv, HubInv.launches, TUnit.mk_inv, TUnit.Inv.scr, TUnit.Inv.obuf, TUnit.Inv.gangs, Launch.mk_inv, Launch.Inv.desc, OutInv_next, OutInv_fault, State.fetchElem_inv, State.modThread_inv, State.thread?_inv, Thread.mk_inv, Thread.Inv.pc, Thread.Inv.rpc, Thread.Inv.loops, Thread.Inv.shadowLoops, Thread.Inv.cd, Thread.Inv.hd, Thread.Inv.shadowCd, Thread.Inv.shadowHd, Fetch.ok_inv, Fetch.trap_inv, Fetch.fault_inv, FetchInv.ok, FetchInv.trap, FetchInv.fault, FetchWord.ok_inv, FetchWord.trap_inv, FetchWord.fault_inv, FetchWordInv.ok, FetchWordInv.trap, FetchWordInv.fault]

theorem State.portRead_inv (s : State) (tk : Nat) (k : Nat) (n : Nat) (h_s : State.Inv s) : PortReadInv (State.portRead s tk k n) := by
  unfold State.portRead; try intros
  repeat' first
    | with_reducible assumption
    | (with_reducible refine foldl_inv ?_ _ _ ?_ <;> intros)
    | with_reducible apply OutInv_next
    | with_reducible apply OutInv_fault
    | with_reducible apply State.fetchNext_inv
    | with_reducible apply State.modThread_inv
    | with_reducible apply PortRead.ok_inv
    | with_reducible apply PortRead.trap_inv
    | with_reducible apply PortRead.wait_inv
    | with_reducible apply Fetch.ok_inv
    | with_reducible apply Fetch.trap_inv
    | with_reducible apply Fetch.fault_inv
    | with_reducible apply FetchWord.ok_inv
    | with_reducible apply FetchWord.trap_inv
    | with_reducible apply FetchWord.fault_inv
    | split
    | (intro _)
    | dsimp only
    | grind [State.mk_inv, State.Inv.mem, State.Inv.threads, State.Inv.units, State.Inv.hub, Hub.mk_inv, HubInv.launches, TUnit.mk_inv, TUnit.Inv.scr, TUnit.Inv.obuf, TUnit.Inv.gangs, Launch.mk_inv, Launch.Inv.desc, OutInv_next, OutInv_fault, State.fetchNext_inv, State.modThread_inv, State.thread?_inv, Thread.mk_inv, Thread.Inv.pc, Thread.Inv.rpc, Thread.Inv.loops, Thread.Inv.shadowLoops, Thread.Inv.cd, Thread.Inv.hd, Thread.Inv.shadowCd, Thread.Inv.shadowHd, foldl_inv, PortRead.ok_inv, PortRead.trap_inv, PortRead.wait_inv, PortReadInv.ok, PortReadInv.wait, Fetch.ok_inv, Fetch.trap_inv, Fetch.fault_inv, FetchInv.ok, FetchInv.trap, FetchInv.fault, FetchWord.ok_inv, FetchWord.trap_inv, FetchWord.fault_inv, FetchWordInv.ok, FetchWordInv.trap, FetchWordInv.fault]

end Sys2Proof.Machine
end

