-- ==== Sys2Proof/Laws/KeptOperands.lean ====
section
/-! SUPPORT. That every operation of Machine/Operands.lean keeps the invariant State.Inv. -/

namespace Sys2Proof.Machine

theorem State.readSrc_inv (s : State) (tk : Nat) (t : Thread) (p : Pos) (again : Nat) (h_s : State.Inv s) : ∀ x0, ReadsInv ((State.readSrc s tk t p again) x0) := by
  unfold State.readSrc; grind [State.mk_inv, State.Inv.mem, State.Inv.threads, State.Inv.units, State.Inv.hub, Hub.mk_inv, HubInv.launches, TUnit.mk_inv, TUnit.Inv.scr, TUnit.Inv.obuf, TUnit.Inv.gangs, Launch.mk_inv, Launch.Inv.desc, OutInv_next, OutInv_fault, State.portRead_inv, State.unit?_inv, PortRead.ok_inv, PortRead.trap_inv, PortRead.wait_inv, PortReadInv.ok, PortReadInv.wait, Reads.ok_inv, Reads.trap_inv, Reads.wait_inv, ReadsInv.ok, ReadsInv.wait]

theorem State.readSrcs_inv (s : State) (tk : Nat) (t : Thread) (h_s : State.Inv s) : ∀ x0, ReadsInv ((State.readSrcs s tk t) x0) := by
  intro x0
  fun_induction State.readSrcs s tk t x0 <;> grind [State.mk_inv, State.Inv.mem, State.Inv.threads, State.Inv.units, State.Inv.hub, Hub.mk_inv, HubInv.launches, TUnit.mk_inv, TUnit.Inv.scr, TUnit.Inv.obuf, TUnit.Inv.gangs, Launch.mk_inv, Launch.Inv.desc, OutInv_next, OutInv_fault, State.readSrc_inv, PortRead.ok_inv, PortRead.trap_inv, PortRead.wait_inv, PortReadInv.ok, PortReadInv.wait, Reads.ok_inv, Reads.trap_inv, Reads.wait_inv, ReadsInv.ok, ReadsInv.wait]

end Sys2Proof.Machine
end

