-- ==== Sys2Proof/Laws/KeptOps.lean ====
section
/-! SUPPORT. That every operation of Machine/Ops.lean keeps the invariant State.Inv. -/

namespace Sys2Proof.Machine

theorem loopsOk_nil : LoopsOk [] := ⟨by decide, by intro l h; cases h⟩
theorem loopsOk_tail {l : LoopLevel} {ls : List LoopLevel} (h : LoopsOk (l :: ls)) : LoopsOk ls :=
  ⟨by have := h.1; simp only [List.length_cons] at this; omega, fun x hx => h.2 x (List.mem_cons_of_mem _ hx)⟩
theorem loopsOk_replace {l l' : LoopLevel} {ls : List LoopLevel} (h : LoopsOk (l :: ls)) (hl : EvenAddr l'.s) : LoopsOk (l' :: ls) :=
  ⟨h.1, fun x hx => by rcases List.mem_cons.1 hx with rfl | hx; exact hl; exact h.2 x (List.mem_cons_of_mem _ hx)⟩
theorem loopsOk_head {l : LoopLevel} {ls : List LoopLevel} (h : LoopsOk (l :: ls)) : EvenAddr l.s := h.2 l List.mem_cons_self

theorem endCheck_inv (cd : Nat) (next : Word) (hn : EvenAddr next) : ∀ ls, LoopsOk ls →
    LoopsOk (endCheck cd next ls).1 ∧ EvenAddr (endCheck cd next ls).2
  | [], h => ⟨h, hn⟩
  | l :: ls, h => by
    unfold endCheck
    split
    · split
      · exact ⟨loopsOk_replace h (show EvenAddr l.s from loopsOk_head h), loopsOk_head h⟩
      · exact endCheck_inv cd next hn ls (loopsOk_tail h)
    · exact ⟨h, hn⟩
theorem exitCheck_inv (cd : Nat) (target : Word) : ∀ ls, LoopsOk ls → LoopsOk (exitCheck cd target ls)
  | [], h => h
  | l :: ls, h => by
    unfold exitCheck
    split
    · exact exitCheck_inv cd target ls (loopsOk_tail h)
    · exact h
theorem dropDeep_inv (cd : Nat) : ∀ ls, LoopsOk ls → LoopsOk (dropDeep cd ls)
  | [], h => h
  | l :: ls, h => by
    unfold dropDeep
    split
    · exact dropDeep_inv cd ls (loopsOk_tail h)
    · exact h
theorem evenAddr_two : EvenAddr (2 : Word) := rfl
theorem evenAddr_four : EvenAddr (4 : Word) := rfl
theorem Thread.pw_inv {t : Thread} (h : t.Inv) : EvenAddr t.pw := evenAddr_add h.pc (evenAddr_ofN (by omega))
theorem State.traph_inv {s : State} (h : s.Inv) (uid : Nat) : EvenAddr (s.traph uid) := by
  unfold State.traph
  cases hl : s.launchOf uid with
  | none => rfl
  | some l => exact (State.launchOf_inv h hl).1
theorem instrInfo_len_cases (i : Instr) : (instrInfo i).len = 4 ∨ (instrInfo i).len = 2 := by
  cases i <;> first | exact .inl rfl | exact .inr rfl
theorem instrInfo_len (i : Instr) : (instrInfo i).len % 2 = 0 := by have := instrInfo_len_cases i; omega

theorem Thread.startRegion_inv (t : Thread) (at_ : Word) (h_t : Thread.Inv t) (h_at : EvenAddr at_) : Thread.Inv (Thread.startRegion t at_) := by
  unfold Thread.startRegion; grind [State.mk_inv, State.Inv.mem, State.Inv.threads, State.Inv.units, State.Inv.hub, Hub.mk_inv, HubInv.launches, TUnit.mk_inv, TUnit.Inv.scr, TUnit.Inv.obuf, TUnit.Inv.gangs, Launch.mk_inv, Launch.Inv.desc, OutInv_next, OutInv_fault, Thread.mk_inv, Thread.Inv.pc, Thread.Inv.rpc, Thread.Inv.loops, Thread.Inv.shadowLoops, Thread.Inv.cd, Thread.Inv.hd, Thread.Inv.shadowCd, Thread.Inv.shadowHd, loopsOk_nil, Thread.pw_inv, evenAddr_add, evenAddr_ofN, evenAddr_two, evenAddr_four, AMap.All.map]

theorem Thread.stepped_inv (t : Thread) (h_t : Thread.Inv t) : Thread.Inv (Thread.stepped t) := by
  unfold Thread.stepped; grind [State.mk_inv, State.Inv.mem, State.Inv.threads, State.Inv.units, State.Inv.hub, Hub.mk_inv, HubInv.launches, TUnit.mk_inv, TUnit.Inv.scr, TUnit.Inv.obuf, TUnit.Inv.gangs, Launch.mk_inv, Launch.Inv.desc, OutInv_next, OutInv_fault, Thread.mk_inv, Thread.Inv.pc, Thread.Inv.rpc, Thread.Inv.loops, Thread.Inv.shadowLoops, Thread.Inv.cd, Thread.Inv.hd, Thread.Inv.shadowCd, Thread.Inv.shadowHd, loopsOk_nil, Thread.pw_inv, evenAddr_add, evenAddr_ofN, evenAddr_two, evenAddr_four]

theorem Thread.retire_inv (t : Thread) (seat : Bool) (h_t : Thread.Inv t) : Thread.Inv (Thread.retire t seat) := by
  unfold Thread.retire; grind [State.mk_inv, State.Inv.mem, State.Inv.threads, State.Inv.units, State.Inv.hub, Hub.mk_inv, HubInv.launches, TUnit.mk_inv, TUnit.Inv.scr, TUnit.Inv.obuf, TUnit.Inv.gangs, Launch.mk_inv, Launch.Inv.desc, OutInv_next, OutInv_fault, Thread.stepped_inv, Thread.mk_inv, Thread.Inv.pc, Thread.Inv.rpc, Thread.Inv.loops, Thread.Inv.shadowLoops, Thread.Inv.cd, Thread.Inv.hd, Thread.Inv.shadowCd, Thread.Inv.shadowHd, loopsOk_nil, Thread.pw_inv, evenAddr_add, evenAddr_ofN, evenAddr_two, evenAddr_four]

theorem Thread.continueAt_inv (t : Thread) (next : Word) (seat : Bool) (h_t : Thread.Inv t) (h_next : EvenAddr next) : Thread.Inv (Thread.continueAt t next seat) := by
  unfold Thread.continueAt; grind [State.mk_inv, State.Inv.mem, State.Inv.threads, State.Inv.units, State.Inv.hub, Hub.mk_inv, HubInv.launches, TUnit.mk_inv, TUnit.Inv.scr, TUnit.Inv.obuf, TUnit.Inv.gangs, Launch.mk_inv, Launch.Inv.desc, OutInv_next, OutInv_fault, Thread.retire_inv, endCheck_inv, Thread.mk_inv, Thread.Inv.pc, Thread.Inv.rpc, Thread.Inv.loops, Thread.Inv.shadowLoops, Thread.Inv.cd, Thread.Inv.hd, Thread.Inv.shadowCd, Thread.Inv.shadowHd, loopsOk_nil, Thread.pw_inv, evenAddr_add, evenAddr_ofN, evenAddr_two, evenAddr_four]

theorem Thread.startAfter_inv (t : Thread) (next : Word) (h_t : Thread.Inv t) (h_next : EvenAddr next) : Thread.Inv (Thread.startAfter t next) := by
  have h1 := Thread.continueAt_inv t next false h_t h_next
  have h2 := Thread.startRegion_inv (t.continueAt next false) (t.continueAt next false).pc h1 h1.pc
  unfold Thread.startAfter
  exact ⟨h_t.pc, h2.rpc, h_t.loops, h2.shadowLoops, h_t.cd, h_t.hd, h2.shadowCd, h2.shadowHd⟩

theorem Thread.jumpTo_inv (t : Thread) (target : Word) (h_t : Thread.Inv t) (h_target : EvenAddr target) : Thread.Inv (Thread.jumpTo t target) := by
  unfold Thread.jumpTo; grind [State.mk_inv, State.Inv.mem, State.Inv.threads, State.Inv.units, State.Inv.hub, Hub.mk_inv, HubInv.launches, TUnit.mk_inv, TUnit.Inv.scr, TUnit.Inv.obuf, TUnit.Inv.gangs, Launch.mk_inv, Launch.Inv.desc, OutInv_next, OutInv_fault, Thread.retire_inv, Thread.mk_inv, Thread.Inv.pc, Thread.Inv.rpc, Thread.Inv.loops, Thread.Inv.shadowLoops, Thread.Inv.cd, Thread.Inv.hd, Thread.Inv.shadowCd, Thread.Inv.shadowHd, loopsOk_nil, Thread.pw_inv, evenAddr_add, evenAddr_ofN, evenAddr_two, evenAddr_four]

theorem Thread.shift_inv (t : Thread) (r : Word) (done : Nat) (h_t : Thread.Inv t) : Thread.Inv (Thread.shift t r done) := by
  unfold Thread.shift; grind [State.mk_inv, State.Inv.mem, State.Inv.threads, State.Inv.units, State.Inv.hub, Hub.mk_inv, HubInv.launches, TUnit.mk_inv, TUnit.Inv.scr, TUnit.Inv.obuf, TUnit.Inv.gangs, Launch.mk_inv, Launch.Inv.desc, OutInv_next, OutInv_fault, Thread.mk_inv, Thread.Inv.pc, Thread.Inv.rpc, Thread.Inv.loops, Thread.Inv.shadowLoops, Thread.Inv.cd, Thread.Inv.hd, Thread.Inv.shadowCd, Thread.Inv.shadowHd, loopsOk_nil, Thread.pw_inv, evenAddr_add, evenAddr_ofN, evenAddr_two, evenAddr_four]

theorem Thread.setReg_inv (t : Thread) (n : Nat) (r : Word) (h_t : Thread.Inv t) : Thread.Inv (Thread.setReg t n r) := by
  unfold Thread.setReg; grind [State.mk_inv, State.Inv.mem, State.Inv.threads, State.Inv.units, State.Inv.hub, Hub.mk_inv, HubInv.launches, TUnit.mk_inv, TUnit.Inv.scr, TUnit.Inv.obuf, TUnit.Inv.gangs, Launch.mk_inv, Launch.Inv.desc, OutInv_next, OutInv_fault, Thread.mk_inv, Thread.Inv.pc, Thread.Inv.rpc, Thread.Inv.loops, Thread.Inv.shadowLoops, Thread.Inv.cd, Thread.Inv.hd, Thread.Inv.shadowCd, Thread.Inv.shadowHd, loopsOk_nil, Thread.pw_inv, evenAddr_add, evenAddr_ofN, evenAddr_two, evenAddr_four]

theorem Thread.mark__inv (t : Thread) (keys : List Nat) (now : Nat) (done : Nat) (h_t : Thread.Inv t) : Thread.Inv (Thread.mark_ t keys now done) := by
  unfold Thread.mark_; grind [State.mk_inv, State.Inv.mem, State.Inv.threads, State.Inv.units, State.Inv.hub, Hub.mk_inv, HubInv.launches, TUnit.mk_inv, TUnit.Inv.scr, TUnit.Inv.obuf, TUnit.Inv.gangs, Launch.mk_inv, Launch.Inv.desc, OutInv_next, OutInv_fault, Thread.mk_inv, Thread.Inv.pc, Thread.Inv.rpc, Thread.Inv.loops, Thread.Inv.shadowLoops, Thread.Inv.cd, Thread.Inv.hd, Thread.Inv.shadowCd, Thread.Inv.shadowHd, loopsOk_nil, Thread.pw_inv, evenAddr_add, evenAddr_ofN, evenAddr_two, evenAddr_four, AMap.All.filter, AMap.All.map]

theorem State.putDst_inv (s : State) (tk : Nat) (d : Dst) (r : Word) (h_s : State.Inv s) : State.Inv (State.putDst s tk d r) := by
  unfold State.putDst; grind [State.mk_inv, State.Inv.mem, State.Inv.threads, State.Inv.units, State.Inv.hub, Hub.mk_inv, HubInv.launches, TUnit.mk_inv, TUnit.Inv.scr, TUnit.Inv.obuf, TUnit.Inv.gangs, Launch.mk_inv, Launch.Inv.desc, OutInv_next, OutInv_fault, State.modThread_inv, State.outWrite_inv, State.thread?_inv, Thread.setReg_inv, Thread.mk_inv, Thread.Inv.pc, Thread.Inv.rpc, Thread.Inv.loops, Thread.Inv.shadowLoops, Thread.Inv.cd, Thread.Inv.hd, Thread.Inv.shadowCd, Thread.Inv.shadowHd, loopsOk_nil, Thread.pw_inv, evenAddr_add, evenAddr_ofN, evenAddr_two, evenAddr_four, AMap.All.map]

theorem Thread.setPred_inv (t : Thread) (p : Nat) (x : Bool) (h_t : Thread.Inv t) : Thread.Inv (Thread.setPred t p x) := by
  unfold Thread.setPred; grind [State.mk_inv, State.Inv.mem, State.Inv.threads, State.Inv.units, State.Inv.hub, Hub.mk_inv, HubInv.launches, TUnit.mk_inv, TUnit.Inv.scr, TUnit.Inv.obuf, TUnit.Inv.gangs, Launch.mk_inv, Launch.Inv.desc, OutInv_next, OutInv_fault, Thread.mk_inv, Thread.Inv.pc, Thread.Inv.rpc, Thread.Inv.loops, Thread.Inv.shadowLoops, Thread.Inv.cd, Thread.Inv.hd, Thread.Inv.shadowCd, Thread.Inv.shadowHd, loopsOk_nil, Thread.pw_inv, evenAddr_add, evenAddr_ofN, evenAddr_two, evenAddr_four]

theorem State.freeSeat_inv (s : State) (uid : Nat) (gg : Nat) (h_s : State.Inv s) : State.Inv (State.freeSeat s uid gg) := by
  unfold State.freeSeat; grind [State.mk_inv, State.Inv.mem, State.Inv.threads, State.Inv.units, State.Inv.hub, Hub.mk_inv, HubInv.launches, TUnit.mk_inv, TUnit.Inv.scr, TUnit.Inv.obuf, TUnit.Inv.gangs, Launch.mk_inv, Launch.Inv.desc, OutInv_next, OutInv_fault, State.modCore_inv, State.modUnit_inv, State.unit?_inv, TUnit.modGang_inv, Gang.mk_inv, Gang.Inv.priv, Gang.empty_inv, TUnit.gang_inv, AMap.All.get?, AMap.All.map]

theorem State.throttle_inv (s : State) (ck : Nat) (h_s : State.Inv s) : State.Inv (State.throttle s ck) := by
  unfold State.throttle; grind [State.mk_inv, State.Inv.mem, State.Inv.threads, State.Inv.units, State.Inv.hub, Hub.mk_inv, HubInv.launches, TUnit.mk_inv, TUnit.Inv.scr, TUnit.Inv.obuf, TUnit.Inv.gangs, Launch.mk_inv, Launch.Inv.desc, OutInv_next, OutInv_fault, State.modUnit_inv, foldl_inv]

theorem State.checkRound_inv (s : State) (uid : Nat) (slot : Nat) (h_s : State.Inv s) : State.Inv (State.checkRound s uid slot) := by
  unfold State.checkRound; grind [State.mk_inv, State.Inv.mem, State.Inv.threads, State.Inv.units, State.Inv.hub, Hub.mk_inv, HubInv.launches, TUnit.mk_inv, TUnit.Inv.scr, TUnit.Inv.obuf, TUnit.Inv.gangs, Launch.mk_inv, Launch.Inv.desc, OutInv_next, OutInv_fault, State.setUnit_inv, State.unit?_inv, Thread.mk_inv, Thread.Inv.pc, Thread.Inv.rpc, Thread.Inv.loops, Thread.Inv.shadowLoops, Thread.Inv.cd, Thread.Inv.hd, Thread.Inv.shadowCd, Thread.Inv.shadowHd, loopsOk_nil, Thread.pw_inv, evenAddr_add, evenAddr_ofN, evenAddr_two, evenAddr_four, AMap.All.filter]

theorem State.freeURecs_inv (s : State) (uid : Nat) (gg : Nat) (tile : Nat) (h_s : State.Inv s) : State.Inv (State.freeURecs s uid gg tile) := by
  unfold State.freeURecs; grind [State.mk_inv, State.Inv.mem, State.Inv.threads, State.Inv.units, State.Inv.hub, Hub.mk_inv, HubInv.launches, TUnit.mk_inv, TUnit.Inv.scr, TUnit.Inv.obuf, TUnit.Inv.gangs, Launch.mk_inv, Launch.Inv.desc, OutInv_next, OutInv_fault, State.modUnit_inv, TUnit.modGang_inv, Gang.mk_inv, Gang.Inv.priv, Gang.empty_inv, TUnit.gang_inv, AMap.All.get?, AMap.All.set]

theorem State.leaveInstance_inv (s : State) (tk : Nat) (a : Arrival) (r : Word) (ord : Nat → Nat) (h_s : State.Inv s) : State.Inv (State.leaveInstance s tk a r ord) := by
  unfold State.leaveInstance; grind [State.mk_inv, State.Inv.mem, State.Inv.threads, State.Inv.units, State.Inv.hub, Hub.mk_inv, HubInv.launches, TUnit.mk_inv, TUnit.Inv.scr, TUnit.Inv.obuf, TUnit.Inv.gangs, Launch.mk_inv, Launch.Inv.desc, OutInv_next, OutInv_fault, State.modThread_inv, State.putDst_inv, Thread.continueAt_inv, Thread.startRegion_inv, Thread.mk_inv, Thread.Inv.pc, Thread.Inv.rpc, Thread.Inv.loops, Thread.Inv.shadowLoops, Thread.Inv.cd, Thread.Inv.hd, Thread.Inv.shadowCd, Thread.Inv.shadowHd, loopsOk_nil, Thread.pw_inv, evenAddr_add, evenAddr_ofN, evenAddr_two, evenAddr_four]

theorem State.tryInstance_inv (s : State) (uid : Nat) (gg : Nat) (tile : Nat) (h_s : State.Inv s) : State.Inv (State.tryInstance s uid gg tile) := by
  unfold State.tryInstance; grind [State.mk_inv, State.Inv.mem, State.Inv.threads, State.Inv.units, State.Inv.hub, Hub.mk_inv, HubInv.launches, TUnit.mk_inv, TUnit.Inv.scr, TUnit.Inv.obuf, TUnit.Inv.gangs, Launch.mk_inv, Launch.Inv.desc, OutInv_next, OutInv_fault, State.leaveInstance_inv, State.setUnit_inv, State.unit?_inv, TUnit.gang_inv, TUnit.modGang_inv, Thread.mk_inv, Thread.Inv.pc, Thread.Inv.rpc, Thread.Inv.loops, Thread.Inv.shadowLoops, Thread.Inv.cd, Thread.Inv.hd, Thread.Inv.shadowCd, Thread.Inv.shadowHd, loopsOk_nil, Thread.pw_inv, evenAddr_add, evenAddr_ofN, evenAddr_two, evenAddr_four, Gang.mk_inv, Gang.Inv.priv, Gang.empty_inv, AMap.All.get?, AMap.All.del, foldl_inv]

theorem State.tryGpart_inv (s : State) (uid : Nat) (gg : Nat) (h_s : State.Inv s) : State.Inv (State.tryGpart s uid gg) := by
  unfold State.tryGpart; grind [State.mk_inv, State.Inv.mem, State.Inv.threads, State.Inv.units, State.Inv.hub, Hub.mk_inv, HubInv.launches, TUnit.mk_inv, TUnit.Inv.scr, TUnit.Inv.obuf, TUnit.Inv.gangs, Launch.mk_inv, Launch.Inv.desc, OutInv_next, OutInv_fault, State.leaveInstance_inv, State.modThread_inv, State.setUnit_inv, State.unit?_inv, TUnit.gang_inv, TUnit.modGang_inv, Thread.startRegion_inv, Thread.mk_inv, Thread.Inv.pc, Thread.Inv.rpc, Thread.Inv.loops, Thread.Inv.shadowLoops, Thread.Inv.cd, Thread.Inv.hd, Thread.Inv.shadowCd, Thread.Inv.shadowHd, loopsOk_nil, Thread.pw_inv, evenAddr_add, evenAddr_ofN, evenAddr_two, evenAddr_four, Gang.mk_inv, Gang.Inv.priv, Gang.empty_inv, AMap.All.get?, AMap.All.filter, AMap.All.map, foldl_inv]

theorem State.countUnit_inv (s : State) (uid : Nat) (h_s : State.Inv s) : State.Inv (State.countUnit s uid) := by
  unfold State.countUnit; grind [State.mk_inv, State.Inv.mem, State.Inv.threads, State.Inv.units, State.Inv.hub, Hub.mk_inv, HubInv.launches, TUnit.mk_inv, TUnit.Inv.scr, TUnit.Inv.obuf, TUnit.Inv.gangs, Launch.mk_inv, Launch.Inv.desc, OutInv_next, OutInv_fault, State.modLaunch_inv, State.setUnit_inv, State.unit?_inv]

theorem State.writeRecord_inv (s : State) (uid : Nat) (tk : Nat) (threads : Nat) (h_s : State.Inv s) : State.Inv (State.writeRecord s uid tk threads) := by
  unfold State.writeRecord; grind [State.mk_inv, State.Inv.mem, State.Inv.threads, State.Inv.units, State.Inv.hub, Hub.mk_inv, HubInv.launches, TUnit.mk_inv, TUnit.Inv.scr, TUnit.Inv.obuf, TUnit.Inv.gangs, Launch.mk_inv, Launch.Inv.desc, OutInv_next, OutInv_fault, State.countUnit_inv, State.launchOf_inv, State.logThread_inv, State.modThread_inv, State.noteWrite_inv, State.offWrite_inv, State.takeSeq_inv, State.thread?_inv, State.threadXlate_inv, State.unit?_inv, State.writeAt_inv, Thread.mk_inv, Thread.Inv.pc, Thread.Inv.rpc, Thread.Inv.loops, Thread.Inv.shadowLoops, Thread.Inv.cd, Thread.Inv.hd, Thread.Inv.shadowCd, Thread.Inv.shadowHd, loopsOk_nil, Thread.pw_inv, evenAddr_add, evenAddr_ofN, evenAddr_two, evenAddr_four]

theorem State.unitEnd_inv (s : State) (uid : Nat) (tk : Nat) (h_s : State.Inv s) : State.Inv (State.unitEnd s uid tk) := by
  unfold State.unitEnd; grind [State.mk_inv, State.Inv.mem, State.Inv.threads, State.Inv.units, State.Inv.hub, Hub.mk_inv, HubInv.launches, TUnit.mk_inv, TUnit.Inv.scr, TUnit.Inv.obuf, TUnit.Inv.gangs, Launch.mk_inv, Launch.Inv.desc, OutInv_next, OutInv_fault, State.modThread_inv, State.modUnit_inv, State.publish_inv, State.thread?_inv, State.throttle_inv, State.unit?_inv, State.writeRecord_inv, Thread.mk_inv, Thread.Inv.pc, Thread.Inv.rpc, Thread.Inv.loops, Thread.Inv.shadowLoops, Thread.Inv.cd, Thread.Inv.hd, Thread.Inv.shadowCd, Thread.Inv.shadowHd, loopsOk_nil, Thread.pw_inv, evenAddr_add, evenAddr_ofN, evenAddr_two, evenAddr_four, AMap.All.map, Res.seq_inv, Res.seqR_inv, Res.hold_inv, Res.park_inv, Res.trap_inv, Res.jump_inv, ResInv.seq, ResInv.seqR, ResInv.hold, ResInv.park, ResInv.trap, ResInv.jump]

theorem State.endThread_inv (s : State) (tk : Nat) (status : Nat) (h_s : State.Inv s) : State.Inv (State.endThread s tk status) := by
  unfold State.endThread; grind [State.mk_inv, State.Inv.mem, State.Inv.threads, State.Inv.units, State.Inv.hub, Hub.mk_inv, HubInv.launches, TUnit.mk_inv, TUnit.Inv.scr, TUnit.Inv.obuf, TUnit.Inv.gangs, Launch.mk_inv, Launch.Inv.desc, OutInv_next, OutInv_fault, State.checkRound_inv, State.freeSeat_inv, State.freeURecs_inv, State.setThread_inv, State.setUnit_inv, State.thread?_inv, State.tryGpart_inv, State.tryInstance_inv, State.unit?_inv, State.unitEnd_inv, TUnit.gang_inv, Thread.retire_inv, Thread.mk_inv, Thread.Inv.pc, Thread.Inv.rpc, Thread.Inv.loops, Thread.Inv.shadowLoops, Thread.Inv.cd, Thread.Inv.hd, Thread.Inv.shadowCd, Thread.Inv.shadowHd, loopsOk_nil, Thread.pw_inv, evenAddr_add, evenAddr_ofN, evenAddr_two, evenAddr_four, Gang.mk_inv, Gang.Inv.priv, Gang.empty_inv, AMap.All.get?, foldl_inv]

theorem State.tryEnding_inv (s : State) (tk : Nat) (h_s : State.Inv s) : State.Inv (State.tryEnding s tk) := by
  unfold State.tryEnding; grind [State.mk_inv, State.Inv.mem, State.Inv.threads, State.Inv.units, State.Inv.hub, Hub.mk_inv, HubInv.launches, TUnit.mk_inv, TUnit.Inv.scr, TUnit.Inv.obuf, TUnit.Inv.gangs, Launch.mk_inv, Launch.Inv.desc, OutInv_next, OutInv_fault, State.endThread_inv, State.thread?_inv, Thread.mk_inv, Thread.Inv.pc, Thread.Inv.rpc, Thread.Inv.loops, Thread.Inv.shadowLoops, Thread.Inv.cd, Thread.Inv.hd, Thread.Inv.shadowCd, Thread.Inv.shadowHd, loopsOk_nil, Thread.pw_inv, evenAddr_add, evenAddr_ofN, evenAddr_two, evenAddr_four]

theorem State.haltUnit_inv (s : State) (uid : Nat) (h_s : State.Inv s) : State.Inv (State.haltUnit s uid) := by
  unfold State.haltUnit; grind [State.mk_inv, State.Inv.mem, State.Inv.threads, State.Inv.units, State.Inv.hub, Hub.mk_inv, HubInv.launches, TUnit.mk_inv, TUnit.Inv.scr, TUnit.Inv.obuf, TUnit.Inv.gangs, Launch.mk_inv, Launch.Inv.desc, OutInv_next, OutInv_fault, State.modThreadsOf_inv, State.modUnit_inv, Thread.mk_inv, Thread.Inv.pc, Thread.Inv.rpc, Thread.Inv.loops, Thread.Inv.shadowLoops, Thread.Inv.cd, Thread.Inv.hd, Thread.Inv.shadowCd, Thread.Inv.shadowHd, loopsOk_nil, Thread.pw_inv, evenAddr_add, evenAddr_ofN, evenAddr_two, evenAddr_four]

theorem State.deliver_inv (s : State) (tk : Nat) (cause : Nat) (code : Nat) (tloc : Word) (cmp : Option Nat) (h_s : State.Inv s) : State.Inv (State.deliver s tk cause code tloc cmp) := by
  unfold State.deliver; grind [State.mk_inv, State.Inv.mem, State.Inv.threads, State.Inv.units, State.Inv.hub, Hub.mk_inv, HubInv.launches, TUnit.mk_inv, TUnit.Inv.scr, TUnit.Inv.obuf, TUnit.Inv.gangs, Launch.mk_inv, Launch.Inv.desc, OutInv_next, OutInv_fault, State.haltUnit_inv, State.setThread_inv, State.thread?_inv, State.tryEnding_inv, State.unit?_inv, Thread.dropPrefetched_inv, Thread.retire_inv, Thread.startRegion_inv, State.traph_inv, Thread.mk_inv, Thread.Inv.pc, Thread.Inv.rpc, Thread.Inv.loops, Thread.Inv.shadowLoops, Thread.Inv.cd, Thread.Inv.hd, Thread.Inv.shadowCd, Thread.Inv.shadowHd, loopsOk_nil, Thread.pw_inv, evenAddr_add, evenAddr_ofN, evenAddr_two, evenAddr_four, Fetch.ok_inv, Fetch.trap_inv, Fetch.fault_inv, FetchInv.ok, FetchInv.trap, FetchInv.fault, FetchWord.ok_inv, FetchWord.trap_inv, FetchWord.fault_inv, FetchWordInv.ok, FetchWordInv.trap, FetchWordInv.fault]

theorem Thread.return__inv (t : Thread) (h_t : Thread.Inv t) (h_ret : EvenAddr (t.reg 59)) : Thread.Inv (Thread.return_ t) := by
  unfold Thread.return_; grind [State.mk_inv, State.Inv.mem, State.Inv.threads, State.Inv.units, State.Inv.hub, Hub.mk_inv, HubInv.launches, TUnit.mk_inv, TUnit.Inv.scr, TUnit.Inv.obuf, TUnit.Inv.gangs, Launch.mk_inv, Launch.Inv.desc, OutInv_next, OutInv_fault, Thread.jumpTo_inv, Thread.setReg_inv, Thread.startRegion_inv, exitCheck_inv, dropDeep_inv, Thread.mk_inv, Thread.Inv.pc, Thread.Inv.rpc, Thread.Inv.loops, Thread.Inv.shadowLoops, Thread.Inv.cd, Thread.Inv.hd, Thread.Inv.shadowCd, Thread.Inv.shadowHd, loopsOk_nil, Thread.pw_inv, evenAddr_add, evenAddr_ofN, evenAddr_two, evenAddr_four]

theorem Thread.giveBack_inv (t : Thread) (port : Option Nat) (h_t : Thread.Inv t) : Thread.Inv (Thread.giveBack t port) := by
  unfold Thread.giveBack; grind [State.mk_inv, State.Inv.mem, State.Inv.threads, State.Inv.units, State.Inv.hub, Hub.mk_inv, HubInv.launches, TUnit.mk_inv, TUnit.Inv.scr, TUnit.Inv.obuf, TUnit.Inv.gangs, Launch.mk_inv, Launch.Inv.desc, OutInv_next, OutInv_fault, Thread.mk_inv, Thread.Inv.pc, Thread.Inv.rpc, Thread.Inv.loops, Thread.Inv.shadowLoops, Thread.Inv.cd, Thread.Inv.hd, Thread.Inv.shadowCd, Thread.Inv.shadowHd, loopsOk_nil, Thread.pw_inv, evenAddr_add, evenAddr_ofN, evenAddr_two, evenAddr_four, AMap.All.map]

theorem State.collTrap_inv (s : State) (uid : Nat) (gg : Nat) (a : Arrival) (h_s : State.Inv s) : State.Inv (State.collTrap s uid gg a) := by
  unfold State.collTrap; grind [State.mk_inv, State.Inv.mem, State.Inv.threads, State.Inv.units, State.Inv.hub, Hub.mk_inv, HubInv.launches, TUnit.mk_inv, TUnit.Inv.scr, TUnit.Inv.obuf, TUnit.Inv.gangs, Launch.mk_inv, Launch.Inv.desc, OutInv_next, OutInv_fault, State.deliver_inv, State.setThread_inv, State.thread?_inv, Thread.giveBack_inv, Thread.startRegion_inv, Thread.mk_inv, Thread.Inv.pc, Thread.Inv.rpc, Thread.Inv.loops, Thread.Inv.shadowLoops, Thread.Inv.cd, Thread.Inv.hd, Thread.Inv.shadowCd, Thread.Inv.shadowHd, loopsOk_nil, Thread.pw_inv, evenAddr_add, evenAddr_ofN, evenAddr_two, evenAddr_four]

theorem State.failInstance_inv (s : State) (uid : Nat) (gg : Nat) (tile : Nat) (a : Arrival) (h_s : State.Inv s) : State.Inv (State.failInstance s uid gg tile a) := by
  unfold State.failInstance; grind [State.mk_inv, State.Inv.mem, State.Inv.threads, State.Inv.units, State.Inv.hub, Hub.mk_inv, HubInv.launches, TUnit.mk_inv, TUnit.Inv.scr, TUnit.Inv.obuf, TUnit.Inv.gangs, Launch.mk_inv, Launch.Inv.desc, OutInv_next, OutInv_fault, State.collTrap_inv, State.setUnit_inv, State.tryGpart_inv, State.tryInstance_inv, State.unit?_inv, TUnit.gang_inv, TUnit.modGang_inv, Gang.mk_inv, Gang.Inv.priv, Gang.empty_inv, AMap.All.get?, AMap.All.set, AMap.All.map, foldl_inv]

theorem State.failGpart_inv (s : State) (uid : Nat) (gg : Nat) (h_s : State.Inv s) : State.Inv (State.failGpart s uid gg) := by
  unfold State.failGpart; grind [State.mk_inv, State.Inv.mem, State.Inv.threads, State.Inv.units, State.Inv.hub, Hub.mk_inv, HubInv.launches, TUnit.mk_inv, TUnit.Inv.scr, TUnit.Inv.obuf, TUnit.Inv.gangs, Launch.mk_inv, Launch.Inv.desc, OutInv_next, OutInv_fault, State.collTrap_inv, State.setUnit_inv, State.tryGpart_inv, State.unit?_inv, TUnit.gang_inv, TUnit.modGang_inv, Gang.mk_inv, Gang.Inv.priv, Gang.empty_inv, AMap.All.get?, AMap.All.filter, AMap.All.map, foldl_inv]

theorem State.restorePorts_inv (s : State) (tk : Nat) (old : List Port) (h_s : State.Inv s) : State.Inv (State.restorePorts s tk old) := by
  unfold State.restorePorts; grind [State.mk_inv, State.Inv.mem, State.Inv.threads, State.Inv.units, State.Inv.hub, Hub.mk_inv, HubInv.launches, TUnit.mk_inv, TUnit.Inv.scr, TUnit.Inv.obuf, TUnit.Inv.gangs, Launch.mk_inv, Launch.Inv.desc, OutInv_next, OutInv_fault, State.modThread_inv, Thread.mk_inv, Thread.Inv.pc, Thread.Inv.rpc, Thread.Inv.loops, Thread.Inv.shadowLoops, Thread.Inv.cd, Thread.Inv.hd, Thread.Inv.shadowCd, Thread.Inv.shadowHd, loopsOk_nil, Thread.pw_inv, evenAddr_add, evenAddr_ofN, evenAddr_two, evenAddr_four, AMap.All.map]

theorem finish_inv (tk : Nat) (i : Info) (h : Held) (h_len : i.len % 2 = 0) : ∀ x0, ResInv x0 → State.Inv ((finish tk i h) x0) := by
  unfold finish; grind [State.mk_inv, State.Inv.mem, State.Inv.threads, State.Inv.units, State.Inv.hub, Hub.mk_inv, HubInv.launches, TUnit.mk_inv, TUnit.Inv.scr, TUnit.Inv.obuf, TUnit.Inv.gangs, Launch.mk_inv, Launch.Inv.desc, OutInv_next, OutInv_fault, State.deliver_inv, State.modThread_inv, State.restorePorts_inv, State.thread?_inv, Thread.continueAt_inv, Thread.jumpTo_inv, Thread.startRegion_inv, Thread.stepped_inv, Thread.mk_inv, Thread.Inv.pc, Thread.Inv.rpc, Thread.Inv.loops, Thread.Inv.shadowLoops, Thread.Inv.cd, Thread.Inv.hd, Thread.Inv.shadowCd, Thread.Inv.shadowHd, loopsOk_nil, Thread.pw_inv, evenAddr_add, evenAddr_ofN, evenAddr_two, evenAddr_four, AMap.All.map, Res.seq_inv, Res.seqR_inv, Res.hold_inv, Res.park_inv, Res.trap_inv, Res.jump_inv, ResInv.seq, ResInv.seqR, ResInv.hold, ResInv.park, ResInv.trap, ResInv.jump]

theorem run_inv (i : Instr) (s : State) (body : Body) (onFalse : Nat → Thread → State → Res) (h_s : State.Inv s) (h_body : ∀ tk t vals s, Thread.Inv t → State.Inv s → ResInv (body tk t vals s)) (h_onFalse : ∀ x0 x1 x2, Thread.Inv x1 → State.Inv x2 → ResInv (onFalse x0 x1 x2)) : OutInv (run i s body onFalse) := by
  unfold run; try intros
  repeat' first
    | with_reducible assumption
    | (with_reducible refine foldl_inv ?_ _ _ ?_ <;> intros)
    | with_reducible apply OutInv_next
    | with_reducible apply OutInv_fault
    | with_reducible apply State.deliver_inv
    | with_reducible apply State.readSrcs_inv
    | with_reducible apply State.restorePorts_inv
    | with_reducible apply State.setThread_inv
    | with_reducible apply finish_inv
    | with_reducible apply Thread.pw_inv
    | with_reducible apply Res.seq_inv
    | with_reducible apply Res.seqR_inv
    | with_reducible apply Res.hold_inv
    | with_reducible apply Res.park_inv
    | with_reducible apply Res.trap_inv
    | with_reducible apply Res.jump_inv
    | with_reducible apply Reads.ok_inv
    | with_reducible apply Reads.trap_inv
    | with_reducible apply Reads.wait_inv
    | split
    | (intro _)
    | dsimp only
    | grind [State.mk_inv, State.Inv.mem, State.Inv.threads, State.Inv.units, State.Inv.hub, Hub.mk_inv, HubInv.launches, TUnit.mk_inv, TUnit.Inv.scr, TUnit.Inv.obuf, TUnit.Inv.gangs, Launch.mk_inv, Launch.Inv.desc, OutInv_next, OutInv_fault, State.deliver_inv, State.readSrcs_inv, State.restorePorts_inv, State.setThread_inv, State.thread?_inv, finish_inv, instrInfo_len, Thread.mk_inv, Thread.Inv.pc, Thread.Inv.rpc, Thread.Inv.loops, Thread.Inv.shadowLoops, Thread.Inv.cd, Thread.Inv.hd, Thread.Inv.shadowCd, Thread.Inv.shadowHd, loopsOk_nil, Thread.pw_inv, evenAddr_add, evenAddr_ofN, evenAddr_two, evenAddr_four, Res.seq_inv, Res.seqR_inv, Res.hold_inv, Res.park_inv, Res.trap_inv, Res.jump_inv, ResInv.seq, ResInv.seqR, ResInv.hold, ResInv.park, ResInv.trap, ResInv.jump, Reads.ok_inv, Reads.trap_inv, Reads.wait_inv, ReadsInv.ok, ReadsInv.wait]

theorem resultBody_inv (i : Info) (f : List Word → Word)  : ∀ tk t vals s, Thread.Inv t → State.Inv s → ResInv ((resultBody i f) tk t vals s) := by
  unfold resultBody; grind [State.mk_inv, State.Inv.mem, State.Inv.threads, State.Inv.units, State.Inv.hub, Hub.mk_inv, HubInv.launches, TUnit.mk_inv, TUnit.Inv.scr, TUnit.Inv.obuf, TUnit.Inv.gangs, Launch.mk_inv, Launch.Inv.desc, OutInv_next, OutInv_fault, State.modThread_inv, State.outWrite_inv, State.thread?_inv, Thread.mark__inv, Thread.setReg_inv, Thread.shift_inv, Thread.mk_inv, Thread.Inv.pc, Thread.Inv.rpc, Thread.Inv.loops, Thread.Inv.shadowLoops, Thread.Inv.cd, Thread.Inv.hd, Thread.Inv.shadowCd, Thread.Inv.shadowHd, loopsOk_nil, Thread.pw_inv, evenAddr_add, evenAddr_ofN, evenAddr_two, evenAddr_four, Res.seq_inv, Res.seqR_inv, Res.hold_inv, Res.park_inv, Res.trap_inv, Res.jump_inv, ResInv.seq, ResInv.seqR, ResInv.hold, ResInv.park, ResInv.trap, ResInv.jump]

theorem runResult_inv (i : Instr) (s : State) (f : List Word → Word) (h_s : State.Inv s) : OutInv (runResult i s f) := by
  unfold runResult; try intros
  repeat' first
    | with_reducible assumption
    | (with_reducible refine foldl_inv ?_ _ _ ?_ <;> intros)
    | with_reducible apply OutInv_next
    | with_reducible apply OutInv_fault
    | with_reducible apply resultBody_inv
    | with_reducible apply run_inv
    | with_reducible apply Res.seq_inv
    | with_reducible apply Res.seqR_inv
    | with_reducible apply Res.hold_inv
    | with_reducible apply Res.park_inv
    | with_reducible apply Res.trap_inv
    | with_reducible apply Res.jump_inv
    | split
    | (intro _)
    | dsimp only
    | grind [State.mk_inv, State.Inv.mem, State.Inv.threads, State.Inv.units, State.Inv.hub, Hub.mk_inv, HubInv.launches, TUnit.mk_inv, TUnit.Inv.scr, TUnit.Inv.obuf, TUnit.Inv.gangs, Launch.mk_inv, Launch.Inv.desc, OutInv_next, OutInv_fault, resultBody_inv, run_inv, instrInfo_len, Res.seq_inv, Res.seqR_inv, Res.hold_inv, Res.park_inv, Res.trap_inv, Res.jump_inv, ResInv.seq, ResInv.seqR, ResInv.hold, ResInv.park, ResInv.trap, ResInv.jump]

theorem run2_inv (i : Instr) (s : State) (f : Word → Word → Word) (h_s : State.Inv s) : OutInv (run2 i s f) := by
  unfold run2; grind [State.mk_inv, State.Inv.mem, State.Inv.threads, State.Inv.units, State.Inv.hub, Hub.mk_inv, HubInv.launches, TUnit.mk_inv, TUnit.Inv.scr, TUnit.Inv.obuf, TUnit.Inv.gangs, Launch.mk_inv, Launch.Inv.desc, OutInv_next, OutInv_fault, runResult_inv, Res.seq_inv, Res.seqR_inv, Res.hold_inv, Res.park_inv, Res.trap_inv, Res.jump_inv, ResInv.seq, ResInv.seqR, ResInv.hold, ResInv.park, ResInv.trap, ResInv.jump]

theorem run1_inv (i : Instr) (s : State) (f : Word → Word) (h_s : State.Inv s) : OutInv (run1 i s f) := by
  unfold run1; grind [State.mk_inv, State.Inv.mem, State.Inv.threads, State.Inv.units, State.Inv.hub, Hub.mk_inv, HubInv.launches, TUnit.mk_inv, TUnit.Inv.scr, TUnit.Inv.obuf, TUnit.Inv.gangs, Launch.mk_inv, Launch.Inv.desc, OutInv_next, OutInv_fault, runResult_inv, Res.seq_inv, Res.seqR_inv, Res.hold_inv, Res.park_inv, Res.trap_inv, Res.jump_inv, ResInv.seq, ResInv.seqR, ResInv.hold, ResInv.park, ResInv.trap, ResInv.jump]

theorem run3_inv (i : Instr) (s : State) (f : Word → Word → Word → Word) (h_s : State.Inv s) : OutInv (run3 i s f) := by
  unfold run3; grind [State.mk_inv, State.Inv.mem, State.Inv.threads, State.Inv.units, State.Inv.hub, Hub.mk_inv, HubInv.launches, TUnit.mk_inv, TUnit.Inv.scr, TUnit.Inv.obuf, TUnit.Inv.gangs, Launch.mk_inv, Launch.Inv.desc, OutInv_next, OutInv_fault, runResult_inv, Res.seq_inv, Res.seqR_inv, Res.hold_inv, Res.park_inv, Res.trap_inv, Res.jump_inv, ResInv.seq, ResInv.seqR, ResInv.hold, ResInv.park, ResInv.trap, ResInv.jump]

theorem Thread.setPreds_inv (t : Thread) (p : Nat) (x : Bool) (y : Bool) (h_t : Thread.Inv t) : Thread.Inv (Thread.setPreds t p x y) := by
  unfold Thread.setPreds; grind [State.mk_inv, State.Inv.mem, State.Inv.threads, State.Inv.units, State.Inv.hub, Hub.mk_inv, HubInv.launches, TUnit.mk_inv, TUnit.Inv.scr, TUnit.Inv.obuf, TUnit.Inv.gangs, Launch.mk_inv, Launch.Inv.desc, OutInv_next, OutInv_fault, Thread.setPred_inv]

theorem predBody_inv (p : Nat) (lat : Nat) (x : Bool) (tk : Nat) (s : State) (h_s : State.Inv s) : State.Inv (predBody p lat x tk s) := by
  unfold predBody; grind [State.mk_inv, State.Inv.mem, State.Inv.threads, State.Inv.units, State.Inv.hub, Hub.mk_inv, HubInv.launches, TUnit.mk_inv, TUnit.Inv.scr, TUnit.Inv.obuf, TUnit.Inv.gangs, Launch.mk_inv, Launch.Inv.desc, OutInv_next, OutInv_fault, State.modThread_inv, Thread.mark__inv, Thread.setPreds_inv, AMap.All.filter]

theorem runCompare_inv (i : Instr) (p : Fin 8) (s : State) (c : Word → Word → Bool) (h_s : State.Inv s) : OutInv (runCompare i p s c) := by
  unfold runCompare; grind [State.mk_inv, State.Inv.mem, State.Inv.threads, State.Inv.units, State.Inv.hub, Hub.mk_inv, HubInv.launches, TUnit.mk_inv, TUnit.Inv.scr, TUnit.Inv.obuf, TUnit.Inv.gangs, Launch.mk_inv, Launch.Inv.desc, OutInv_next, OutInv_fault, State.modThread_inv, Thread.setPreds_inv, predBody_inv, run_inv, instrInfo_len, Res.seq_inv, Res.seqR_inv, Res.hold_inv, Res.park_inv, Res.trap_inv, Res.jump_inv, ResInv.seq, ResInv.seqR, ResInv.hold, ResInv.park, ResInv.trap, ResInv.jump]

theorem State.reissue_inv (s : State) (tk : Nat) (h_s : State.Inv s) : State.Inv (State.reissue s tk) := by
  unfold State.reissue; grind [State.mk_inv, State.Inv.mem, State.Inv.threads, State.Inv.units, State.Inv.hub, Hub.mk_inv, HubInv.launches, TUnit.mk_inv, TUnit.Inv.scr, TUnit.Inv.obuf, TUnit.Inv.gangs, Launch.mk_inv, Launch.Inv.desc, OutInv_next, OutInv_fault, State.modThread_inv, Thread.mk_inv, Thread.Inv.pc, Thread.Inv.rpc, Thread.Inv.loops, Thread.Inv.shadowLoops, Thread.Inv.cd, Thread.Inv.hd, Thread.Inv.shadowCd, Thread.Inv.shadowHd, loopsOk_nil, Thread.pw_inv, evenAddr_add, evenAddr_ofN, evenAddr_two, evenAddr_four, Issue.run_inv, Issue.done_inv, IssueInv.run, IssueInv.done]

end Sys2Proof.Machine
end

