-- ==== Sys2Proof/Laws/KeptFetch.lean ====
section
/-! SUPPORT. That every operation of Machine/Fetch.lean keeps the invariant State.Inv. -/

namespace Sys2Proof.Machine

theorem State.fetchCode_inv (s : State) (t : Thread) (va : Word) (h_s : State.Inv s) : FetchInv (State.fetchCode s t va) := by
  unfold State.fetchCode; grind [State.mk_inv, State.Inv.mem, State.Inv.threads, State.Inv.units, State.Inv.hub, Hub.mk_inv, HubInv.launches, TUnit.mk_inv, TUnit.Inv.scr, TUnit.Inv.obuf, TUnit.Inv.gangs, Launch.mk_inv, Launch.Inv.desc, OutInv_next, OutInv_fault, State.logThread_inv, State.modCore_inv, State.threadXlate_inv, Thread.mk_inv, Thread.Inv.pc, Thread.Inv.rpc, Thread.Inv.loops, Thread.Inv.shadowLoops, Thread.Inv.cd, Thread.Inv.hd, Thread.Inv.shadowCd, Thread.Inv.shadowHd, loopsOk_nil, Thread.pw_inv, evenAddr_add, evenAddr_ofN, evenAddr_two, evenAddr_four, Res.seq_inv, Res.seqR_inv, Res.hold_inv, Res.park_inv, Res.trap_inv, Res.jump_inv, ResInv.seq, ResInv.seqR, ResInv.hold, ResInv.park, ResInv.trap, ResInv.jump, Fetch.ok_inv, Fetch.trap_inv, Fetch.fault_inv, FetchInv.ok, FetchInv.trap, FetchInv.fault, FetchWord.ok_inv, FetchWord.trap_inv, FetchWord.fault_inv, FetchWordInv.ok, FetchWordInv.trap, FetchWordInv.fault]

theorem State.fetchParcel_inv (s : State) (t : Thread) (va : Word) (h_s : State.Inv s) : FetchInv (State.fetchParcel s t va) := by
  unfold State.fetchParcel; grind [State.mk_inv, State.Inv.mem, State.Inv.threads, State.Inv.units, State.Inv.hub, Hub.mk_inv, HubInv.launches, TUnit.mk_inv, TUnit.Inv.scr, TUnit.Inv.obuf, TUnit.Inv.gangs, Launch.mk_inv, Launch.Inv.desc, OutInv_next, OutInv_fault, State.fetchCode_inv, Fetch.ok_inv, Fetch.trap_inv, Fetch.fault_inv, FetchInv.ok, FetchInv.trap, FetchInv.fault, FetchWord.ok_inv, FetchWord.trap_inv, FetchWord.fault_inv, FetchWordInv.ok, FetchWordInv.trap, FetchWordInv.fault]

theorem State.fetchWord_inv (s : State) (t : Thread) (va : Word) (h_s : State.Inv s) : FetchWordInv (State.fetchWord s t va) := by
  unfold State.fetchWord; grind [State.mk_inv, State.Inv.mem, State.Inv.threads, State.Inv.units, State.Inv.hub, Hub.mk_inv, HubInv.launches, TUnit.mk_inv, TUnit.Inv.scr, TUnit.Inv.obuf, TUnit.Inv.gangs, Launch.mk_inv, Launch.Inv.desc, OutInv_next, OutInv_fault, State.fetchParcel_inv, Res.seq_inv, Res.seqR_inv, Res.hold_inv, Res.park_inv, Res.trap_inv, Res.jump_inv, ResInv.seq, ResInv.seqR, ResInv.hold, ResInv.park, ResInv.trap, ResInv.jump, Fetch.ok_inv, Fetch.trap_inv, Fetch.fault_inv, FetchInv.ok, FetchInv.trap, FetchInv.fault, FetchWord.ok_inv, FetchWord.trap_inv, FetchWord.fault_inv, FetchWordInv.ok, FetchWordInv.trap, FetchWordInv.fault]

theorem State.fetchInstr_inv (s : State) (t : Thread) (h_s : State.Inv s) : ∀ x0 x1, FetchWordInv (((State.fetchInstr s t) x0 x1)).1 := by
  intro x0 x1
  fun_induction State.fetchInstr s t x0 x1 <;> grind [State.mk_inv, State.Inv.mem, State.Inv.threads, State.Inv.units, State.Inv.hub, Hub.mk_inv, HubInv.launches, TUnit.mk_inv, TUnit.Inv.scr, TUnit.Inv.obuf, TUnit.Inv.gangs, Launch.mk_inv, Launch.Inv.desc, OutInv_next, OutInv_fault, State.fetchWord_inv, AMap.All.map, Fetch.ok_inv, Fetch.trap_inv, Fetch.fault_inv, FetchInv.ok, FetchInv.trap, FetchInv.fault, FetchWord.ok_inv, FetchWord.trap_inv, FetchWord.fault_inv, FetchWordInv.ok, FetchWordInv.trap, FetchWordInv.fault]

theorem State.parkFetch_inv (s : State) (tk : Nat) (token : Option Nat) (h_s : State.Inv s) : State.Inv (State.parkFetch s tk token) := by
  unfold State.parkFetch; grind [State.mk_inv, State.Inv.mem, State.Inv.threads, State.Inv.units, State.Inv.hub, Hub.mk_inv, HubInv.launches, TUnit.mk_inv, TUnit.Inv.scr, TUnit.Inv.obuf, TUnit.Inv.gangs, Launch.mk_inv, Launch.Inv.desc, OutInv_next, OutInv_fault, State.modThread_inv, Thread.mk_inv, Thread.Inv.pc, Thread.Inv.rpc, Thread.Inv.loops, Thread.Inv.shadowLoops, Thread.Inv.cd, Thread.Inv.hd, Thread.Inv.shadowCd, Thread.Inv.shadowHd, loopsOk_nil, Thread.pw_inv, evenAddr_add, evenAddr_ofN, evenAddr_two, evenAddr_four, Res.seq_inv, Res.seqR_inv, Res.hold_inv, Res.park_inv, Res.trap_inv, Res.jump_inv, ResInv.seq, ResInv.seqR, ResInv.hold, ResInv.park, ResInv.trap, ResInv.jump]

theorem State.captureLoop_inv (s : State) (t : Thread) (ps : List (Word × Parcel)) (h_s : State.Inv s) : State.Inv (State.captureLoop s t ps) := by
  unfold State.captureLoop; grind [State.mk_inv, State.Inv.mem, State.Inv.threads, State.Inv.units, State.Inv.hub, Hub.mk_inv, HubInv.launches, TUnit.mk_inv, TUnit.Inv.scr, TUnit.Inv.obuf, TUnit.Inv.gangs, Launch.mk_inv, Launch.Inv.desc, OutInv_next, OutInv_fault, State.modCore_inv, Fetch.ok_inv, Fetch.trap_inv, Fetch.fault_inv, FetchInv.ok, FetchInv.trap, FetchInv.fault, FetchWord.ok_inv, FetchWord.trap_inv, FetchWord.fault_inv, FetchWordInv.ok, FetchWordInv.trap, FetchWordInv.fault]

theorem State.fillOne_inv (s : State) (tk : Nat) (h_s : State.Inv s) : State.Inv (State.fillOne s tk) := by
  unfold State.fillOne; grind [State.mk_inv, State.Inv.mem, State.Inv.threads, State.Inv.units, State.Inv.hub, Hub.mk_inv, HubInv.launches, TUnit.mk_inv, TUnit.Inv.scr, TUnit.Inv.obuf, TUnit.Inv.gangs, Launch.mk_inv, Launch.Inv.desc, OutInv_next, OutInv_fault, State.captureLoop_inv, State.deliver_inv, State.fetchInstr_inv, State.modThread_inv, State.parkFetch_inv, State.thread?_inv, Thread.mk_inv, Thread.Inv.pc, Thread.Inv.rpc, Thread.Inv.loops, Thread.Inv.shadowLoops, Thread.Inv.cd, Thread.Inv.hd, Thread.Inv.shadowCd, Thread.Inv.shadowHd, loopsOk_nil, Thread.pw_inv, evenAddr_add, evenAddr_ofN, evenAddr_two, evenAddr_four, Res.seq_inv, Res.seqR_inv, Res.hold_inv, Res.park_inv, Res.trap_inv, Res.jump_inv, ResInv.seq, ResInv.seqR, ResInv.hold, ResInv.park, ResInv.trap, ResInv.jump, Fetch.ok_inv, Fetch.trap_inv, Fetch.fault_inv, FetchInv.ok, FetchInv.trap, FetchInv.fault, FetchWord.ok_inv, FetchWord.trap_inv, FetchWord.fault_inv, FetchWordInv.ok, FetchWordInv.trap, FetchWordInv.fault]

theorem State.prefetch_inv (s : State) (tk : Nat) (h_s : State.Inv s) : State.Inv (State.prefetch s tk) := by
  unfold State.prefetch; grind [State.mk_inv, State.Inv.mem, State.Inv.threads, State.Inv.units, State.Inv.hub, Hub.mk_inv, HubInv.launches, TUnit.mk_inv, TUnit.Inv.scr, TUnit.Inv.obuf, TUnit.Inv.gangs, Launch.mk_inv, Launch.Inv.desc, OutInv_next, OutInv_fault, State.fillOne_inv, State.thread?_inv, Thread.mk_inv, Thread.Inv.pc, Thread.Inv.rpc, Thread.Inv.loops, Thread.Inv.shadowLoops, Thread.Inv.cd, Thread.Inv.hd, Thread.Inv.shadowCd, Thread.Inv.shadowHd, loopsOk_nil, Thread.pw_inv, evenAddr_add, evenAddr_ofN, evenAddr_two, evenAddr_four, foldl_inv]

theorem State.issue_inv (s : State) (tk : Nat) (h_s : State.Inv s) : IssueInv (State.issue s tk) := by
  unfold State.issue; grind [State.mk_inv, State.Inv.mem, State.Inv.threads, State.Inv.units, State.Inv.hub, Hub.mk_inv, HubInv.launches, TUnit.mk_inv, TUnit.Inv.scr, TUnit.Inv.obuf, TUnit.Inv.gangs, Launch.mk_inv, Launch.Inv.desc, OutInv_next, OutInv_fault, State.deliver_inv, State.fetchWord_inv, State.parkFetch_inv, State.thread?_inv, Thread.mk_inv, Thread.Inv.pc, Thread.Inv.rpc, Thread.Inv.loops, Thread.Inv.shadowLoops, Thread.Inv.cd, Thread.Inv.hd, Thread.Inv.shadowCd, Thread.Inv.shadowHd, loopsOk_nil, Thread.pw_inv, evenAddr_add, evenAddr_ofN, evenAddr_two, evenAddr_four, Res.seq_inv, Res.seqR_inv, Res.hold_inv, Res.park_inv, Res.trap_inv, Res.jump_inv, ResInv.seq, ResInv.seqR, ResInv.hold, ResInv.park, ResInv.trap, ResInv.jump, Fetch.ok_inv, Fetch.trap_inv, Fetch.fault_inv, FetchInv.ok, FetchInv.trap, FetchInv.fault, FetchWord.ok_inv, FetchWord.trap_inv, FetchWord.fault_inv, FetchWordInv.ok, FetchWordInv.trap, FetchWordInv.fault, Issue.run_inv, Issue.done_inv, IssueInv.run, IssueInv.done]

theorem State.bodyEnd_inv (s : State) (t : Thread) (h_s : State.Inv s) : ∀ x0 x1 x2, FetchInv (((State.bodyEnd s t) x0 x1 x2)).1 := by
  intro x0 x1 x2
  fun_induction State.bodyEnd s t x0 x1 x2 <;> grind [State.mk_inv, State.Inv.mem, State.Inv.threads, State.Inv.units, State.Inv.hub, Hub.mk_inv, HubInv.launches, TUnit.mk_inv, TUnit.Inv.scr, TUnit.Inv.obuf, TUnit.Inv.gangs, Launch.mk_inv, Launch.Inv.desc, OutInv_next, OutInv_fault, State.fetchParcel_inv, Fetch.ok_inv, Fetch.trap_inv, Fetch.fault_inv, FetchInv.ok, FetchInv.trap, FetchInv.fault, FetchWord.ok_inv, FetchWord.trap_inv, FetchWord.fault_inv, FetchWordInv.ok, FetchWordInv.trap, FetchWordInv.fault]

end Sys2Proof.Machine
end

