-- ==== Sys2Proof/Laws/KeptSeats.lean ====
section
/-! SUPPORT. That every operation of Machine/Seats.lean keeps the invariant State.Inv. -/

namespace Sys2Proof.Machine

theorem State.markDue_inv (s : State) (ck : Nat) (a : Nat) (seat : Nat) (h_s : State.Inv s) : State.Inv (State.markDue s ck a seat) := by
  unfold State.markDue; grind [State.mk_inv, State.Inv.mem, State.Inv.threads, State.Inv.units, State.Inv.hub, Hub.mk_inv, HubInv.launches, TUnit.mk_inv, TUnit.Inv.scr, TUnit.Inv.obuf, TUnit.Inv.gangs, Launch.mk_inv, Launch.Inv.desc, OutInv_next, OutInv_fault, State.modCore_inv, AMap.All.map]

theorem State.offerSeat_inv (s : State) (t : Thread) (h_s : State.Inv s) : State.Inv (State.offerSeat s t) := by
  unfold State.offerSeat; grind [State.mk_inv, State.Inv.mem, State.Inv.threads, State.Inv.units, State.Inv.hub, Hub.mk_inv, HubInv.launches, TUnit.mk_inv, TUnit.Inv.scr, TUnit.Inv.obuf, TUnit.Inv.gangs, Launch.mk_inv, Launch.Inv.desc, OutInv_next, OutInv_fault, State.markDue_inv, State.unit?_inv, TUnit.gang_inv, Gang.mk_inv, Gang.Inv.priv, Gang.empty_inv, AMap.All.get?]

end Sys2Proof.Machine
end

