-- ==== Sys2Proof/Laws/KeptControl.lean ====
section
/-! SUPPORT. That every operation of Machine/Control.lean keeps the invariant State.Inv. -/

namespace Sys2Proof.Machine

theorem branchTarget_inv {o : BrOp} {pw : Word} (h : EvenAddr pw) : EvenAddr (branchTarget o pw) :=
  evenAddr_add h (evenAddr_two_mul _)
theorem evenAddr_of_ne {w : Word} (h : ¬ w.toNat % 2 = 1) : EvenAddr w := by unfold EvenAddr; omega
theorem State.bodyEnd_even (t : Thread) : ∀ (fuel n : Nat) (va : Word) (s : State), EvenAddr va → EvenAddr (s.bodyEnd t fuel n va).2
  | 0, _, _, _, h => h
  | fuel + 1, n, va, s, h => by
    unfold State.bodyEnd
    split
    · exact h
    · split
      · split
        · exact State.bodyEnd_even t fuel _ _ _ (evenAddr_add h evenAddr_two)
        · split
          · exact State.bodyEnd_even t fuel _ _ _ (evenAddr_add h evenAddr_four)
          · exact State.bodyEnd_even t fuel _ _ _ (evenAddr_add h evenAddr_four)
      · exact h
theorem loopsOk_cons {l : LoopLevel} {ls : List LoopLevel} (h : LoopsOk ls) (hl : EvenAddr l.s) (hn : ¬ ls.length ≥ 3) : LoopsOk (l :: ls) :=
  ⟨by simp only [List.length_cons]; omega, fun x hx => by rcases List.mem_cons.1 hx with rfl | hx; exact hl; exact h.2 x hx⟩

theorem parkFault_inv (s : State) (tk : Nat) (token : Option Nat) (h_s : State.Inv s) : ResInv (parkFault s tk token) := by
  unfold parkFault; grind [State.mk_inv, State.Inv.mem, State.Inv.threads, State.Inv.units, State.Inv.hub, Hub.mk_inv, HubInv.launches, TUnit.mk_inv, TUnit.Inv.scr, TUnit.Inv.obuf, TUnit.Inv.gangs, Launch.mk_inv, Launch.Inv.desc, OutInv_next, OutInv_fault, State.modThread_inv, Thread.mk_inv, Thread.Inv.pc, Thread.Inv.rpc, Thread.Inv.loops, Thread.Inv.shadowLoops, Thread.Inv.cd, Thread.Inv.hd, Thread.Inv.shadowCd, Thread.Inv.shadowHd, loopsOk_nil, Thread.pw_inv, evenAddr_add, evenAddr_ofN, evenAddr_two, evenAddr_four, Res.seq_inv, Res.seqR_inv, Res.hold_inv, Res.park_inv, Res.trap_inv, Res.jump_inv, ResInv.seq, ResInv.seqR, ResInv.hold, ResInv.park, ResInv.trap, ResInv.jump]

theorem State.uniformCheck_inv (s : State) (tk : Nat) (t : Thread) (pw : Word) (g : Bool) (h_s : State.Inv s) : UniformInv (State.uniformCheck s tk t pw g) := by
  unfold State.uniformCheck; grind [State.mk_inv, State.Inv.mem, State.Inv.threads, State.Inv.units, State.Inv.hub, Hub.mk_inv, HubInv.launches, TUnit.mk_inv, TUnit.Inv.scr, TUnit.Inv.obuf, TUnit.Inv.gangs, Launch.mk_inv, Launch.Inv.desc, OutInv_next, OutInv_fault, State.freeURecs_inv, State.modThread_inv, State.modUnit_inv, State.unit?_inv, TUnit.gang_inv, TUnit.modGang_inv, Thread.mk_inv, Thread.Inv.pc, Thread.Inv.rpc, Thread.Inv.loops, Thread.Inv.shadowLoops, Thread.Inv.cd, Thread.Inv.hd, Thread.Inv.shadowCd, Thread.Inv.shadowHd, loopsOk_nil, Thread.pw_inv, evenAddr_add, evenAddr_ofN, evenAddr_two, evenAddr_four, Gang.mk_inv, Gang.Inv.priv, Gang.empty_inv, AMap.All.get?, AMap.All.set, AMap.All.map, Res.seq_inv, Res.seqR_inv, Res.hold_inv, Res.park_inv, Res.trap_inv, Res.jump_inv, ResInv.seq, ResInv.seqR, ResInv.hold, ResInv.park, ResInv.trap, ResInv.jump, Uniform.ok_inv, Uniform.mismatch_inv, Uniform.park_inv, UniformInv.ok, UniformInv.mismatch]

theorem checked_inv (u : Bool) (g : Bool) (tk : Nat) (t : Thread) (s : State) (k : State → Res) (h_s : State.Inv s) (h_k : ∀ x0, State.Inv x0 → ResInv (k x0)) : ResInv (checked u g tk t s k) := by
  unfold checked; grind [State.mk_inv, State.Inv.mem, State.Inv.threads, State.Inv.units, State.Inv.hub, Hub.mk_inv, HubInv.launches, TUnit.mk_inv, TUnit.Inv.scr, TUnit.Inv.obuf, TUnit.Inv.gangs, Launch.mk_inv, Launch.Inv.desc, OutInv_next, OutInv_fault, State.uniformCheck_inv, Res.seq_inv, Res.seqR_inv, Res.hold_inv, Res.park_inv, Res.trap_inv, Res.jump_inv, ResInv.seq, ResInv.seqR, ResInv.hold, ResInv.park, ResInv.trap, ResInv.jump, Uniform.ok_inv, Uniform.mismatch_inv, Uniform.park_inv, UniformInv.ok, UniformInv.mismatch]

theorem takeBranch_inv (tk : Nat) (target : Word) (s : State) (h_s : State.Inv s) (h_target : EvenAddr target) : ResInv (takeBranch tk target s) := by
  unfold takeBranch; grind [State.mk_inv, State.Inv.mem, State.Inv.threads, State.Inv.units, State.Inv.hub, Hub.mk_inv, HubInv.launches, TUnit.mk_inv, TUnit.Inv.scr, TUnit.Inv.obuf, TUnit.Inv.gangs, Launch.mk_inv, Launch.Inv.desc, OutInv_next, OutInv_fault, State.modThread_inv, exitCheck_inv, Thread.mk_inv, Thread.Inv.pc, Thread.Inv.rpc, Thread.Inv.loops, Thread.Inv.shadowLoops, Thread.Inv.cd, Thread.Inv.hd, Thread.Inv.shadowCd, Thread.Inv.shadowHd, loopsOk_nil, Thread.pw_inv, evenAddr_add, evenAddr_ofN, evenAddr_two, evenAddr_four, Res.seq_inv, Res.seqR_inv, Res.hold_inv, Res.park_inv, Res.trap_inv, Res.jump_inv, ResInv.seq, ResInv.seqR, ResInv.hold, ResInv.park, ResInv.trap, ResInv.jump]

theorem takeCall_inv (tk : Nat) (target : Word) (s : State) (h_s : State.Inv s) (h_target : EvenAddr target) : ResInv (takeCall tk target s) := by
  unfold takeCall; grind [State.mk_inv, State.Inv.mem, State.Inv.threads, State.Inv.units, State.Inv.hub, Hub.mk_inv, HubInv.launches, TUnit.mk_inv, TUnit.Inv.scr, TUnit.Inv.obuf, TUnit.Inv.gangs, Launch.mk_inv, Launch.Inv.desc, OutInv_next, OutInv_fault, State.setThread_inv, State.thread?_inv, Thread.setReg_inv, Thread.mk_inv, Thread.Inv.pc, Thread.Inv.rpc, Thread.Inv.loops, Thread.Inv.shadowLoops, Thread.Inv.cd, Thread.Inv.hd, Thread.Inv.shadowCd, Thread.Inv.shadowHd, loopsOk_nil, Thread.pw_inv, evenAddr_add, evenAddr_ofN, evenAddr_two, evenAddr_four, Res.seq_inv, Res.seqR_inv, Res.hold_inv, Res.park_inv, Res.trap_inv, Res.jump_inv, ResInv.seq, ResInv.seqR, ResInv.hold, ResInv.park, ResInv.trap, ResInv.jump]

theorem execBr_inv (o : BrOp) (s : State) (h_s : State.Inv s) : OutInv (execBr o s) := by
  unfold execBr; try intros
  repeat' first
    | with_reducible assumption
    | (with_reducible refine foldl_inv ?_ _ _ ?_ <;> intros)
    | with_reducible apply OutInv_next
    | with_reducible apply OutInv_fault
    | with_reducible apply checked_inv
    | with_reducible apply run_inv
    | with_reducible apply takeBranch_inv
    | with_reducible apply branchTarget_inv
    | with_reducible apply Thread.pw_inv
    | with_reducible apply Res.seq_inv
    | with_reducible apply Res.seqR_inv
    | with_reducible apply Res.hold_inv
    | with_reducible apply Res.park_inv
    | with_reducible apply Res.trap_inv
    | with_reducible apply Res.jump_inv
    | split
    | (intro _)
    | dsimp only
    | grind [State.mk_inv, State.Inv.mem, State.Inv.threads, State.Inv.units, State.Inv.hub, Hub.mk_inv, HubInv.launches, TUnit.mk_inv, TUnit.Inv.scr, TUnit.Inv.obuf, TUnit.Inv.gangs, Launch.mk_inv, Launch.Inv.desc, OutInv_next, OutInv_fault, checked_inv, run_inv, takeBranch_inv, branchTarget_inv, Thread.pw_inv, Res.seq_inv, Res.seqR_inv, Res.hold_inv, Res.park_inv, Res.trap_inv, Res.jump_inv, ResInv.seq, ResInv.seqR, ResInv.hold, ResInv.park, ResInv.trap, ResInv.jump]

theorem execCall_inv (o : BrOp) (s : State) (h_s : State.Inv s) : OutInv (execCall o s) := by
  unfold execCall; try intros
  repeat' first
    | with_reducible assumption
    | (with_reducible refine foldl_inv ?_ _ _ ?_ <;> intros)
    | with_reducible apply OutInv_next
    | with_reducible apply OutInv_fault
    | with_reducible apply checked_inv
    | with_reducible apply run_inv
    | with_reducible apply takeCall_inv
    | with_reducible apply branchTarget_inv
    | with_reducible apply Thread.pw_inv
    | with_reducible apply Res.seq_inv
    | with_reducible apply Res.seqR_inv
    | with_reducible apply Res.hold_inv
    | with_reducible apply Res.park_inv
    | with_reducible apply Res.trap_inv
    | with_reducible apply Res.jump_inv
    | split
    | (intro _)
    | dsimp only
    | grind [State.mk_inv, State.Inv.mem, State.Inv.threads, State.Inv.units, State.Inv.hub, Hub.mk_inv, HubInv.launches, TUnit.mk_inv, TUnit.Inv.scr, TUnit.Inv.obuf, TUnit.Inv.gangs, Launch.mk_inv, Launch.Inv.desc, OutInv_next, OutInv_fault, checked_inv, run_inv, takeCall_inv, branchTarget_inv, Thread.pw_inv, Res.seq_inv, Res.seqR_inv, Res.hold_inv, Res.park_inv, Res.trap_inv, Res.jump_inv, ResInv.seq, ResInv.seqR, ResInv.hold, ResInv.park, ResInv.trap, ResInv.jump]

theorem execJmpi_inv (o : OpA) (s : State) (h_s : State.Inv s) : OutInv (execJmpi o s) := by
  unfold execJmpi; try intros
  repeat' first
    | with_reducible assumption
    | (with_reducible refine foldl_inv ?_ _ _ ?_ <;> intros)
    | with_reducible apply OutInv_next
    | with_reducible apply OutInv_fault
    | with_reducible apply run_inv
    | with_reducible apply takeBranch_inv
    | with_reducible apply Res.seq_inv
    | with_reducible apply Res.seqR_inv
    | with_reducible apply Res.hold_inv
    | with_reducible apply Res.park_inv
    | with_reducible apply Res.trap_inv
    | with_reducible apply Res.jump_inv
    | split
    | (intro _)
    | dsimp only
    | grind [State.mk_inv, State.Inv.mem, State.Inv.threads, State.Inv.units, State.Inv.hub, Hub.mk_inv, HubInv.launches, TUnit.mk_inv, TUnit.Inv.scr, TUnit.Inv.obuf, TUnit.Inv.gangs, Launch.mk_inv, Launch.Inv.desc, OutInv_next, OutInv_fault, run_inv, takeBranch_inv, evenAddr_of_ne, Res.seq_inv, Res.seqR_inv, Res.hold_inv, Res.park_inv, Res.trap_inv, Res.jump_inv, ResInv.seq, ResInv.seqR, ResInv.hold, ResInv.park, ResInv.trap, ResInv.jump]

theorem execCalli_inv (o : OpA) (s : State) (h_s : State.Inv s) : OutInv (execCalli o s) := by
  unfold execCalli; try intros
  repeat' first
    | with_reducible assumption
    | (with_reducible refine foldl_inv ?_ _ _ ?_ <;> intros)
    | with_reducible apply OutInv_next
    | with_reducible apply OutInv_fault
    | with_reducible apply run_inv
    | with_reducible apply takeCall_inv
    | with_reducible apply Res.seq_inv
    | with_reducible apply Res.seqR_inv
    | with_reducible apply Res.hold_inv
    | with_reducible apply Res.park_inv
    | with_reducible apply Res.trap_inv
    | with_reducible apply Res.jump_inv
    | split
    | (intro _)
    | dsimp only
    | grind [State.mk_inv, State.Inv.mem, State.Inv.threads, State.Inv.units, State.Inv.hub, Hub.mk_inv, HubInv.launches, TUnit.mk_inv, TUnit.Inv.scr, TUnit.Inv.obuf, TUnit.Inv.gangs, Launch.mk_inv, Launch.Inv.desc, OutInv_next, OutInv_fault, run_inv, takeCall_inv, evenAddr_of_ne, Res.seq_inv, Res.seqR_inv, Res.hold_inv, Res.park_inv, Res.trap_inv, Res.jump_inv, ResInv.seq, ResInv.seqR, ResInv.hold, ResInv.park, ResInv.trap, ResInv.jump]

theorem execRet_inv (o : OpG) (s : State) (h_s : State.Inv s) : OutInv (execRet o s) := by
  unfold execRet; try intros
  repeat' first
    | with_reducible assumption
    | (with_reducible refine foldl_inv ?_ _ _ ?_ <;> intros)
    | with_reducible apply OutInv_next
    | with_reducible apply OutInv_fault
    | with_reducible apply State.setThread_inv
    | with_reducible apply Thread.return__inv
    | with_reducible apply run_inv
    | with_reducible apply Res.seq_inv
    | with_reducible apply Res.seqR_inv
    | with_reducible apply Res.hold_inv
    | with_reducible apply Res.park_inv
    | with_reducible apply Res.trap_inv
    | with_reducible apply Res.jump_inv
    | split
    | (intro _)
    | dsimp only
    | grind [State.mk_inv, State.Inv.mem, State.Inv.threads, State.Inv.units, State.Inv.hub, Hub.mk_inv, HubInv.launches, TUnit.mk_inv, TUnit.Inv.scr, TUnit.Inv.obuf, TUnit.Inv.gangs, Launch.mk_inv, Launch.Inv.desc, OutInv_next, OutInv_fault, State.setThread_inv, Thread.return__inv, run_inv, evenAddr_of_ne, Res.seq_inv, Res.seqR_inv, Res.hold_inv, Res.park_inv, Res.trap_inv, Res.jump_inv, ResInv.seq, ResInv.seqR, ResInv.hold, ResInv.park, ResInv.trap, ResInv.jump]

theorem withBody_inv (tk : Nat) (t : Thread) (len : Nat) (s : State) (k : State → Word → Res) (h_t : Thread.Inv t) (h_s : State.Inv s)
    (h_k : ∀ s e, State.Inv s → EvenAddr e → ResInv (k s e)) : ResInv (withBody tk t len s k) := by
  unfold withBody
  have he := State.bodyEnd_even t (2 ^ 57) len (t.pw + 4) s (evenAddr_add (Thread.pw_inv h_t) evenAddr_four)
  have hs := State.bodyEnd_inv s t h_s (2 ^ 57) len (t.pw + 4)
  generalize s.bodyEnd t (2 ^ 57) len (t.pw + 4) = r at he hs
  rcases r with ⟨(⟨p, s'⟩ | ⟨c, s'⟩ | ⟨c, s'⟩), e⟩
  · exact h_k _ _ hs he
  · exact hs
  · exact parkFault_inv _ _ _ hs

theorem skipBody_inv (tk : Nat) (s : State) (e : Word) (h_s : State.Inv s) (h_e : EvenAddr e) : ResInv (skipBody tk s e) := by
  unfold skipBody; grind [State.mk_inv, State.Inv.mem, State.Inv.threads, State.Inv.units, State.Inv.hub, Hub.mk_inv, HubInv.launches, TUnit.mk_inv, TUnit.Inv.scr, TUnit.Inv.obuf, TUnit.Inv.gangs, Launch.mk_inv, Launch.Inv.desc, OutInv_next, OutInv_fault, State.modThread_inv, Thread.continueAt_inv, Res.seq_inv, Res.seqR_inv, Res.hold_inv, Res.park_inv, Res.trap_inv, Res.jump_inv, ResInv.seq, ResInv.seqR, ResInv.hold, ResInv.park, ResInv.trap, ResInv.jump]

theorem execLoop_inv (o : LoopOp) (s : State) (h_s : State.Inv s) : OutInv (execLoop o s) := by
  unfold execLoop
  refine run_inv _ _ _ _ h_s ?_ ?_
  · intro tk t vals s ht hs
    dsimp only
    split
    · exact hs
    · refine withBody_inv _ _ _ _ _ ht hs ?_
      intro s e hs he
      split
      · exact skipBody_inv _ _ _ hs he
      · split
        · exact hs
        · rename_i hl
          have hp := evenAddr_add (Thread.pw_inv ht) evenAddr_four
          (repeat' split) <;> first
            | exact hs
            | (refine State.modThread_inv _ _ _ hs ?_
               intro x hx
               exact ⟨hx.1, hx.2.1, loopsOk_cons ht.loops hp hl, hx.2.2.2⟩)
  · intro tk t s ht hs
    exact withBody_inv _ _ _ _ _ ht hs (fun s e hs he => skipBody_inv _ _ _ hs he)

theorem onCurrent_inv (s : State) (f : Nat → Thread → State) (h_s : State.Inv s) (h_f : ∀ x0 x1, Thread.Inv x1 → State.Inv (f x0 x1)) : OutInv (onCurrent s f) := by
  unfold onCurrent; grind [State.mk_inv, State.Inv.mem, State.Inv.threads, State.Inv.units, State.Inv.hub, Hub.mk_inv, HubInv.launches, TUnit.mk_inv, TUnit.Inv.scr, TUnit.Inv.obuf, TUnit.Inv.gangs, Launch.mk_inv, Launch.Inv.desc, OutInv_next, OutInv_fault, State.thread?_inv, Thread.mk_inv, Thread.Inv.pc, Thread.Inv.rpc, Thread.Inv.loops, Thread.Inv.shadowLoops, Thread.Inv.cd, Thread.Inv.hd, Thread.Inv.shadowCd, Thread.Inv.shadowHd, loopsOk_nil, Thread.pw_inv, evenAddr_add, evenAddr_ofN, evenAddr_two, evenAddr_four]

theorem execImx_inv (o : BitVec 25) (s : State) (h_s : State.Inv s) : OutInv (execImx o s) := by
  unfold execImx; grind [State.mk_inv, State.Inv.mem, State.Inv.threads, State.Inv.units, State.Inv.hub, Hub.mk_inv, HubInv.launches, TUnit.mk_inv, TUnit.Inv.scr, TUnit.Inv.obuf, TUnit.Inv.gangs, Launch.mk_inv, Launch.Inv.desc, OutInv_next, OutInv_fault, State.deliver_inv, State.setThread_inv, onCurrent_inv, Thread.mk_inv, Thread.Inv.pc, Thread.Inv.rpc, Thread.Inv.loops, Thread.Inv.shadowLoops, Thread.Inv.cd, Thread.Inv.hd, Thread.Inv.shadowCd, Thread.Inv.shadowHd, loopsOk_nil, Thread.pw_inv, evenAddr_add, evenAddr_ofN, evenAddr_two, evenAddr_four, Issue.run_inv, Issue.done_inv, IssueInv.run, IssueInv.done]

theorem execIll_inv (s : State) (h_s : State.Inv s) : OutInv (execIll s) := by
  unfold execIll; grind [State.mk_inv, State.Inv.mem, State.Inv.threads, State.Inv.units, State.Inv.hub, Hub.mk_inv, HubInv.launches, TUnit.mk_inv, TUnit.Inv.scr, TUnit.Inv.obuf, TUnit.Inv.gangs, Launch.mk_inv, Launch.Inv.desc, OutInv_next, OutInv_fault, State.deliver_inv, onCurrent_inv]

theorem execIllParcel_inv (s : State) (h_s : State.Inv s) : OutInv (execIllParcel s) := by
  unfold execIllParcel; grind [State.mk_inv, State.Inv.mem, State.Inv.threads, State.Inv.units, State.Inv.hub, Hub.mk_inv, HubInv.launches, TUnit.mk_inv, TUnit.Inv.scr, TUnit.Inv.obuf, TUnit.Inv.gangs, Launch.mk_inv, Launch.Inv.desc, OutInv_next, OutInv_fault, State.deliver_inv, onCurrent_inv]

theorem execNop_inv (o : OpG) (s : State) (h_s : State.Inv s) : OutInv (execNop o s) := by
  unfold execNop; try intros
  repeat' first
    | with_reducible assumption
    | (with_reducible refine foldl_inv ?_ _ _ ?_ <;> intros)
    | with_reducible apply OutInv_next
    | with_reducible apply OutInv_fault
    | with_reducible apply run_inv
    | with_reducible apply Res.seq_inv
    | with_reducible apply Res.seqR_inv
    | with_reducible apply Res.hold_inv
    | with_reducible apply Res.park_inv
    | with_reducible apply Res.trap_inv
    | with_reducible apply Res.jump_inv
    | split
    | (intro _)
    | dsimp only
    | grind [State.mk_inv, State.Inv.mem, State.Inv.threads, State.Inv.units, State.Inv.hub, Hub.mk_inv, HubInv.launches, TUnit.mk_inv, TUnit.Inv.scr, TUnit.Inv.obuf, TUnit.Inv.gangs, Launch.mk_inv, Launch.Inv.desc, OutInv_next, OutInv_fault, run_inv, Res.seq_inv, Res.seqR_inv, Res.hold_inv, Res.park_inv, Res.trap_inv, Res.jump_inv, ResInv.seq, ResInv.seqR, ResInv.hold, ResInv.park, ResInv.trap, ResInv.jump]

theorem execYield_inv (o : OpG) (s : State) (h_s : State.Inv s) : OutInv (execYield o s) := by
  unfold execYield; try intros
  repeat' first
    | with_reducible assumption
    | (with_reducible refine foldl_inv ?_ _ _ ?_ <;> intros)
    | with_reducible apply OutInv_next
    | with_reducible apply OutInv_fault
    | with_reducible apply State.modThread_inv
    | with_reducible apply State.offerSeat_inv
    | with_reducible apply run_inv
    | with_reducible apply Thread.pw_inv
    | with_reducible apply Res.seq_inv
    | with_reducible apply Res.seqR_inv
    | with_reducible apply Res.hold_inv
    | with_reducible apply Res.park_inv
    | with_reducible apply Res.trap_inv
    | with_reducible apply Res.jump_inv
    | split
    | (intro _)
    | dsimp only
    | grind [State.mk_inv, State.Inv.mem, State.Inv.threads, State.Inv.units, State.Inv.hub, Hub.mk_inv, HubInv.launches, TUnit.mk_inv, TUnit.Inv.scr, TUnit.Inv.obuf, TUnit.Inv.gangs, Launch.mk_inv, Launch.Inv.desc, OutInv_next, OutInv_fault, State.modThread_inv, State.offerSeat_inv, run_inv, Thread.mk_inv, Thread.Inv.pc, Thread.Inv.rpc, Thread.Inv.loops, Thread.Inv.shadowLoops, Thread.Inv.cd, Thread.Inv.hd, Thread.Inv.shadowCd, Thread.Inv.shadowHd, loopsOk_nil, Thread.pw_inv, evenAddr_add, evenAddr_ofN, evenAddr_two, evenAddr_four, Res.seq_inv, Res.seqR_inv, Res.hold_inv, Res.park_inv, Res.trap_inv, Res.jump_inv, ResInv.seq, ResInv.seqR, ResInv.hold, ResInv.park, ResInv.trap, ResInv.jump]

theorem execRgn_inv (o : OpG) (s : State) (h_s : State.Inv s) : OutInv (execRgn o s) := by
  unfold execRgn; try intros
  repeat' first
    | with_reducible assumption
    | (with_reducible refine foldl_inv ?_ _ _ ?_ <;> intros)
    | with_reducible apply OutInv_next
    | with_reducible apply OutInv_fault
    | with_reducible apply run_inv
    | with_reducible apply Res.seq_inv
    | with_reducible apply Res.seqR_inv
    | with_reducible apply Res.hold_inv
    | with_reducible apply Res.park_inv
    | with_reducible apply Res.trap_inv
    | with_reducible apply Res.jump_inv
    | split
    | (intro _)
    | dsimp only
    | grind [State.mk_inv, State.Inv.mem, State.Inv.threads, State.Inv.units, State.Inv.hub, Hub.mk_inv, HubInv.launches, TUnit.mk_inv, TUnit.Inv.scr, TUnit.Inv.obuf, TUnit.Inv.gangs, Launch.mk_inv, Launch.Inv.desc, OutInv_next, OutInv_fault, run_inv, Res.seq_inv, Res.seqR_inv, Res.hold_inv, Res.park_inv, Res.trap_inv, Res.jump_inv, ResInv.seq, ResInv.seqR, ResInv.hold, ResInv.park, ResInv.trap, ResInv.jump]

theorem execBrk_inv (o : OpG) (s : State) (h_s : State.Inv s) : OutInv (execBrk o s) := by
  unfold execBrk; try intros
  repeat' first
    | with_reducible assumption
    | (with_reducible refine foldl_inv ?_ _ _ ?_ <;> intros)
    | with_reducible apply OutInv_next
    | with_reducible apply OutInv_fault
    | with_reducible apply run_inv
    | with_reducible apply Res.seq_inv
    | with_reducible apply Res.seqR_inv
    | with_reducible apply Res.hold_inv
    | with_reducible apply Res.park_inv
    | with_reducible apply Res.trap_inv
    | with_reducible apply Res.jump_inv
    | split
    | (intro _)
    | dsimp only
    | grind [State.mk_inv, State.Inv.mem, State.Inv.threads, State.Inv.units, State.Inv.hub, Hub.mk_inv, HubInv.launches, TUnit.mk_inv, TUnit.Inv.scr, TUnit.Inv.obuf, TUnit.Inv.gangs, Launch.mk_inv, Launch.Inv.desc, OutInv_next, OutInv_fault, run_inv, Res.seq_inv, Res.seqR_inv, Res.hold_inv, Res.park_inv, Res.trap_inv, Res.jump_inv, ResInv.seq, ResInv.seqR, ResInv.hold, ResInv.park, ResInv.trap, ResInv.jump]

theorem execTrap_inv (o : OpA) (s : State) (h_s : State.Inv s) : OutInv (execTrap o s) := by
  unfold execTrap; try intros
  repeat' first
    | with_reducible assumption
    | (with_reducible refine foldl_inv ?_ _ _ ?_ <;> intros)
    | with_reducible apply OutInv_next
    | with_reducible apply OutInv_fault
    | with_reducible apply run_inv
    | with_reducible apply Res.seq_inv
    | with_reducible apply Res.seqR_inv
    | with_reducible apply Res.hold_inv
    | with_reducible apply Res.park_inv
    | with_reducible apply Res.trap_inv
    | with_reducible apply Res.jump_inv
    | split
    | (intro _)
    | dsimp only
    | grind [State.mk_inv, State.Inv.mem, State.Inv.threads, State.Inv.units, State.Inv.hub, Hub.mk_inv, HubInv.launches, TUnit.mk_inv, TUnit.Inv.scr, TUnit.Inv.obuf, TUnit.Inv.gangs, Launch.mk_inv, Launch.Inv.desc, OutInv_next, OutInv_fault, run_inv, Res.seq_inv, Res.seqR_inv, Res.hold_inv, Res.park_inv, Res.trap_inv, Res.jump_inv, ResInv.seq, ResInv.seqR, ResInv.hold, ResInv.park, ResInv.trap, ResInv.jump]

theorem execExit_inv (o : OpA) (s : State) (h_s : State.Inv s) : OutInv (execExit o s) := by
  unfold execExit; try intros
  repeat' first
    | with_reducible assumption
    | (with_reducible refine foldl_inv ?_ _ _ ?_ <;> intros)
    | with_reducible apply OutInv_next
    | with_reducible apply OutInv_fault
    | with_reducible apply State.endThread_inv
    | with_reducible apply run_inv
    | with_reducible apply Res.seq_inv
    | with_reducible apply Res.seqR_inv
    | with_reducible apply Res.hold_inv
    | with_reducible apply Res.park_inv
    | with_reducible apply Res.trap_inv
    | with_reducible apply Res.jump_inv
    | split
    | (intro _)
    | dsimp only
    | grind [State.mk_inv, State.Inv.mem, State.Inv.threads, State.Inv.units, State.Inv.hub, Hub.mk_inv, HubInv.launches, TUnit.mk_inv, TUnit.Inv.scr, TUnit.Inv.obuf, TUnit.Inv.gangs, Launch.mk_inv, Launch.Inv.desc, OutInv_next, OutInv_fault, State.endThread_inv, run_inv, Res.seq_inv, Res.seqR_inv, Res.hold_inv, Res.park_inv, Res.trap_inv, Res.jump_inv, ResInv.seq, ResInv.seqR, ResInv.hold, ResInv.park, ResInv.trap, ResInv.jump]

end Sys2Proof.Machine
end

