-- ==== Sys2Proof/Laws/KeptLoadStore.lean ====
section
/-! SUPPORT. That every operation of Machine/LoadStore.lean keeps the invariant State.Inv. -/

namespace Sys2Proof.Machine

theorem afterOut_inv (tk : Nat) (t : Thread) (s : State) (k : State → Res) (h_s : State.Inv s) (h_k : ∀ x0, State.Inv x0 → ResInv (k x0)) : ResInv (afterOut tk t s k) := by
  unfold afterOut; grind [State.mk_inv, State.Inv.mem, State.Inv.threads, State.Inv.units, State.Inv.hub, Hub.mk_inv, HubInv.launches, TUnit.mk_inv, TUnit.Inv.scr, TUnit.Inv.obuf, TUnit.Inv.gangs, Launch.mk_inv, Launch.Inv.desc, OutInv_next, OutInv_fault, State.drainOut_inv, State.restorePorts_inv, State.thread?_inv, AMap.All.map, Res.seq_inv, Res.seqR_inv, Res.hold_inv, Res.park_inv, Res.trap_inv, Res.jump_inv, ResInv.seq, ResInv.seqR, ResInv.hold, ResInv.park, ResInv.trap, ResInv.jump]

theorem keepPlace_inv (tk : Nat) (va : Word) (l : Loc)  : ∀ x0, ResInv x0 → ResInv ((keepPlace tk va l) x0) := by
  unfold keepPlace; grind [State.mk_inv, State.Inv.mem, State.Inv.threads, State.Inv.units, State.Inv.hub, Hub.mk_inv, HubInv.launches, TUnit.mk_inv, TUnit.Inv.scr, TUnit.Inv.obuf, TUnit.Inv.gangs, Launch.mk_inv, Launch.Inv.desc, OutInv_next, OutInv_fault, State.modThread_inv, Thread.mk_inv, Thread.Inv.pc, Thread.Inv.rpc, Thread.Inv.loops, Thread.Inv.shadowLoops, Thread.Inv.cd, Thread.Inv.hd, Thread.Inv.shadowCd, Thread.Inv.shadowHd, loopsOk_nil, Thread.pw_inv, evenAddr_add, evenAddr_ofN, evenAddr_two, evenAddr_four, Res.seq_inv, Res.seqR_inv, Res.hold_inv, Res.park_inv, Res.trap_inv, Res.jump_inv, ResInv.seq, ResInv.seqR, ResInv.hold, ResInv.park, ResInv.trap, ResInv.jump]

theorem presentAccess_inv (l : Loc) (s : State) (k : Loc → State → Res) (h_s : State.Inv s) (h_k : ∀ x0 x1, State.Inv x1 → ResInv (k x0 x1)) : ResInv (presentAccess l s k) := by
  unfold presentAccess; grind [State.mk_inv, State.Inv.mem, State.Inv.threads, State.Inv.units, State.Inv.hub, Hub.mk_inv, HubInv.launches, TUnit.mk_inv, TUnit.Inv.scr, TUnit.Inv.obuf, TUnit.Inv.gangs, Launch.mk_inv, Launch.Inv.desc, OutInv_next, OutInv_fault, Res.seq_inv, Res.seqR_inv, Res.hold_inv, Res.park_inv, Res.trap_inv, Res.jump_inv, ResInv.seq, ResInv.seqR, ResInv.hold, ResInv.park, ResInv.trap, ResInv.jump]

theorem placeAccess_inv (tk : Nat) (t : Thread) (va : Word) (n : Nat) (kind : Nat) (s : State) (k : Loc → State → Res) (h_s : State.Inv s) (h_k : ∀ x0 x1, State.Inv x1 → ResInv (k x0 x1)) : ResInv (placeAccess tk t va n kind s k) := by
  unfold placeAccess; grind [State.mk_inv, State.Inv.mem, State.Inv.threads, State.Inv.units, State.Inv.hub, Hub.mk_inv, HubInv.launches, TUnit.mk_inv, TUnit.Inv.scr, TUnit.Inv.obuf, TUnit.Inv.gangs, Launch.mk_inv, Launch.Inv.desc, OutInv_next, OutInv_fault, State.access_inv, State.restorePorts_inv, keepPlace_inv, parkFault_inv, Res.seq_inv, Res.seqR_inv, Res.hold_inv, Res.park_inv, Res.trap_inv, Res.jump_inv, ResInv.seq, ResInv.seqR, ResInv.hold, ResInv.park, ResInv.trap, ResInv.jump]

theorem watchedAccess_inv (t : Thread) (l : Loc) (n : Nat) (rd : Bool) (wr : Bool) (s : State) (k : Loc → State → Res) (h_s : State.Inv s) (h_k : ∀ x0 x1, State.Inv x1 → ResInv (k x0 x1)) : ResInv (watchedAccess t l n rd wr s k) := by
  unfold watchedAccess; grind [State.mk_inv, State.Inv.mem, State.Inv.threads, State.Inv.units, State.Inv.hub, Hub.mk_inv, HubInv.launches, TUnit.mk_inv, TUnit.Inv.scr, TUnit.Inv.obuf, TUnit.Inv.gangs, Launch.mk_inv, Launch.Inv.desc, OutInv_next, OutInv_fault, presentAccess_inv, Res.seq_inv, Res.seqR_inv, Res.hold_inv, Res.park_inv, Res.trap_inv, Res.jump_inv, ResInv.seq, ResInv.seqR, ResInv.hold, ResInv.park, ResInv.trap, ResInv.jump]

theorem checkedAccess_inv (tk : Nat) (t : Thread) (va : Word) (n : Nat) (kind : Nat) (rd : Bool) (wr : Bool) (s : State) (k : Loc → State → Res) (h_s : State.Inv s) (h_k : ∀ x0 x1, State.Inv x1 → ResInv (k x0 x1)) : ResInv (checkedAccess tk t va n kind rd wr s k) := by
  unfold checkedAccess; try intros
  repeat' first
    | with_reducible assumption
    | (with_reducible refine foldl_inv ?_ _ _ ?_ <;> intros)
    | with_reducible apply OutInv_next
    | with_reducible apply OutInv_fault
    | with_reducible apply placeAccess_inv
    | with_reducible apply watchedAccess_inv
    | with_reducible apply Res.seq_inv
    | with_reducible apply Res.seqR_inv
    | with_reducible apply Res.hold_inv
    | with_reducible apply Res.park_inv
    | with_reducible apply Res.trap_inv
    | with_reducible apply Res.jump_inv
    | split
    | (intro _)
    | dsimp only
    | grind [State.mk_inv, State.Inv.mem, State.Inv.threads, State.Inv.units, State.Inv.hub, Hub.mk_inv, HubInv.launches, TUnit.mk_inv, TUnit.Inv.scr, TUnit.Inv.obuf, TUnit.Inv.gangs, Launch.mk_inv, Launch.Inv.desc, OutInv_next, OutInv_fault, placeAccess_inv, watchedAccess_inv, Res.seq_inv, Res.seqR_inv, Res.hold_inv, Res.park_inv, Res.trap_inv, Res.jump_inv, ResInv.seq, ResInv.seqR, ResInv.hold, ResInv.park, ResInv.trap, ResInv.jump]

theorem State.addLoad_inv (s : State) (tk : Nat) (r : LoadRec) (h_s : State.Inv s) : State.Inv (State.addLoad s tk r) := by
  unfold State.addLoad; grind [State.mk_inv, State.Inv.mem, State.Inv.threads, State.Inv.units, State.Inv.hub, Hub.mk_inv, HubInv.launches, TUnit.mk_inv, TUnit.Inv.scr, TUnit.Inv.obuf, TUnit.Inv.gangs, Launch.mk_inv, Launch.Inv.desc, OutInv_next, OutInv_fault, State.modThread_inv, Thread.mk_inv, Thread.Inv.pc, Thread.Inv.rpc, Thread.Inv.loops, Thread.Inv.shadowLoops, Thread.Inv.cd, Thread.Inv.hd, Thread.Inv.shadowCd, Thread.Inv.shadowHd, loopsOk_nil, Thread.pw_inv, evenAddr_add, evenAddr_ofN, evenAddr_two, evenAddr_four]

theorem loadAt_inv (n : Nat) (sgn : Bool) (d : Dst) (tk : Nat) (t : Thread) (va : Word) (l : Loc) (s : State) (h_s : State.Inv s) : ResInv (loadAt n sgn d tk t va l s) := by
  unfold loadAt; grind [State.mk_inv, State.Inv.mem, State.Inv.threads, State.Inv.units, State.Inv.hub, Hub.mk_inv, HubInv.launches, TUnit.mk_inv, TUnit.Inv.scr, TUnit.Inv.obuf, TUnit.Inv.gangs, Launch.mk_inv, Launch.Inv.desc, OutInv_next, OutInv_fault, State.addLoad_inv, State.joinEntry_inv, State.markSeen_inv, State.restorePorts_inv, State.takeSeq_inv, Res.seq_inv, Res.seqR_inv, Res.hold_inv, Res.park_inv, Res.trap_inv, Res.jump_inv, ResInv.seq, ResInv.seqR, ResInv.hold, ResInv.park, ResInv.trap, ResInv.jump]

theorem loadBody_inv (n : Nat) (sgn : Bool) (d : Dst)  : ∀ tk t vals s, Thread.Inv t → State.Inv s → ResInv ((loadBody n sgn d) tk t vals s) := by
  unfold loadBody; grind [State.mk_inv, State.Inv.mem, State.Inv.threads, State.Inv.units, State.Inv.hub, Hub.mk_inv, HubInv.launches, TUnit.mk_inv, TUnit.Inv.scr, TUnit.Inv.obuf, TUnit.Inv.gangs, Launch.mk_inv, Launch.Inv.desc, OutInv_next, OutInv_fault, afterOut_inv, checkedAccess_inv, loadAt_inv]

theorem execLd8_inv (o : MemOp) (s : State) (h_s : State.Inv s) : OutInv (execLd8 o s) :=
  run_inv _ s _ _ h_s (loadBody_inv _ _ _) (fun _ _ _ _ h => h)

theorem execLd16_inv (o : MemOp) (s : State) (h_s : State.Inv s) : OutInv (execLd16 o s) :=
  run_inv _ s _ _ h_s (loadBody_inv _ _ _) (fun _ _ _ _ h => h)

theorem execLd32_inv (o : MemOp) (s : State) (h_s : State.Inv s) : OutInv (execLd32 o s) :=
  run_inv _ s _ _ h_s (loadBody_inv _ _ _) (fun _ _ _ _ h => h)

theorem execLd64_inv (o : MemOp) (s : State) (h_s : State.Inv s) : OutInv (execLd64 o s) :=
  run_inv _ s _ _ h_s (loadBody_inv _ _ _) (fun _ _ _ _ h => h)

theorem execLd8S_inv (o : MemOp) (s : State) (h_s : State.Inv s) : OutInv (execLd8S o s) :=
  run_inv _ s _ _ h_s (loadBody_inv _ _ _) (fun _ _ _ _ h => h)

theorem execLd16S_inv (o : MemOp) (s : State) (h_s : State.Inv s) : OutInv (execLd16S o s) :=
  run_inv _ s _ _ h_s (loadBody_inv _ _ _) (fun _ _ _ _ h => h)

theorem execLd32S_inv (o : MemOp) (s : State) (h_s : State.Inv s) : OutInv (execLd32S o s) :=
  run_inv _ s _ _ h_s (loadBody_inv _ _ _) (fun _ _ _ _ h => h)

theorem storeBody_inv (n : Nat)  : ∀ tk t vals s, Thread.Inv t → State.Inv s → ResInv ((storeBody n) tk t vals s) := by
  unfold storeBody; grind [State.mk_inv, State.Inv.mem, State.Inv.threads, State.Inv.units, State.Inv.hub, Hub.mk_inv, HubInv.launches, TUnit.mk_inv, TUnit.Inv.scr, TUnit.Inv.obuf, TUnit.Inv.gangs, Launch.mk_inv, Launch.Inv.desc, OutInv_next, OutInv_fault, State.issueWrite_inv, State.restorePorts_inv, afterOut_inv, checkedAccess_inv, Res.seq_inv, Res.seqR_inv, Res.hold_inv, Res.park_inv, Res.trap_inv, Res.jump_inv, ResInv.seq, ResInv.seqR, ResInv.hold, ResInv.park, ResInv.trap, ResInv.jump, Issue.run_inv, Issue.done_inv, IssueInv.run, IssueInv.done]

theorem execSt8_inv (o : MemOp) (s : State) (h_s : State.Inv s) : OutInv (execSt8 o s) :=
  run_inv _ s _ _ h_s (storeBody_inv _) (fun _ _ _ _ h => h)

theorem execSt16_inv (o : MemOp) (s : State) (h_s : State.Inv s) : OutInv (execSt16 o s) :=
  run_inv _ s _ _ h_s (storeBody_inv _) (fun _ _ _ _ h => h)

theorem execSt32_inv (o : MemOp) (s : State) (h_s : State.Inv s) : OutInv (execSt32 o s) :=
  run_inv _ s _ _ h_s (storeBody_inv _) (fun _ _ _ _ h => h)

theorem execSt64_inv (o : MemOp) (s : State) (h_s : State.Inv s) : OutInv (execSt64 o s) :=
  run_inv _ s _ _ h_s (storeBody_inv _) (fun _ _ _ _ h => h)

theorem whenPerformed_inv (tk : Nat) (t : Thread) (sc : Scope) (clean : Bool) (s : State) (k : State → Res) (h_s : State.Inv s) (h_k : ∀ x0, State.Inv x0 → ResInv (k x0)) : ResInv (whenPerformed tk t sc clean s k) := by
  unfold whenPerformed; grind [State.mk_inv, State.Inv.mem, State.Inv.threads, State.Inv.units, State.Inv.hub, Hub.mk_inv, HubInv.launches, TUnit.mk_inv, TUnit.Inv.scr, TUnit.Inv.obuf, TUnit.Inv.gangs, Launch.mk_inv, Launch.Inv.desc, OutInv_next, OutInv_fault, State.drainCore_inv, State.drainOut_inv, State.thread?_inv, AMap.All.map, Res.seq_inv, Res.seqR_inv, Res.hold_inv, Res.park_inv, Res.trap_inv, Res.jump_inv, ResInv.seq, ResInv.seqR, ResInv.hold, ResInv.park, ResInv.trap, ResInv.jump]

theorem State.release_inv (s : State) (ck : Nat) (sc : Scope) (l : Loc) (h_s : State.Inv s) : State.Inv (State.release s ck sc l) := by
  unfold State.release; grind [State.mk_inv, State.Inv.mem, State.Inv.threads, State.Inv.units, State.Inv.hub, Hub.mk_inv, HubInv.launches, TUnit.mk_inv, TUnit.Inv.scr, TUnit.Inv.obuf, TUnit.Inv.gangs, Launch.mk_inv, Launch.Inv.desc, OutInv_next, OutInv_fault, State.publish_inv, State.tagLine_inv]

theorem State.landUwr_inv (s : State) (uid : Nat) (f : UwrRec → Bool) (h_s : State.Inv s) : State.Inv (State.landUwr s uid f) := by
  unfold State.landUwr; grind [State.mk_inv, State.Inv.mem, State.Inv.threads, State.Inv.units, State.Inv.hub, Hub.mk_inv, HubInv.launches, TUnit.mk_inv, TUnit.Inv.scr, TUnit.Inv.obuf, TUnit.Inv.gangs, Launch.mk_inv, Launch.Inv.desc, OutInv_next, OutInv_fault, State.modUnit_inv, AMap.All.filter, foldl_inv]

theorem State.acquireAt_inv (s : State) (tk : Nat) (t : Thread) (sc : Scope) (q : Nat) (l : Loc) (w : Nat) (v : Nat) (h_s : State.Inv s) : State.Inv (State.acquireAt s tk t sc q l w v) := by
  unfold State.acquireAt; grind [State.mk_inv, State.Inv.mem, State.Inv.threads, State.Inv.units, State.Inv.hub, Hub.mk_inv, HubInv.launches, TUnit.mk_inv, TUnit.Inv.scr, TUnit.Inv.obuf, TUnit.Inv.gangs, Launch.mk_inv, Launch.Inv.desc, OutInv_next, OutInv_fault, State.acquire_inv, State.closeWindow_inv]

theorem State.homeWrite_inv (s : State) (tk : Nat) (t : Thread) (l : Loc) (bs : List Byte) (va : Word) (h_s : State.Inv s) : State.Inv (State.homeWrite s tk t l bs va) := by
  unfold State.homeWrite; grind [State.mk_inv, State.Inv.mem, State.Inv.threads, State.Inv.units, State.Inv.hub, Hub.mk_inv, HubInv.launches, TUnit.mk_inv, TUnit.Inv.scr, TUnit.Inv.obuf, TUnit.Inv.gangs, Launch.mk_inv, Launch.Inv.desc, OutInv_next, OutInv_fault, State.modThread_inv, State.perform_inv, State.takeSeq_inv, Thread.touched_inv]

theorem execStrel_inv (o : RelOp) (s : State) (h_s : State.Inv s) : OutInv (execStrel o s) := by
  unfold execStrel; try intros
  repeat' first
    | with_reducible assumption
    | (with_reducible refine foldl_inv ?_ _ _ ?_ <;> intros)
    | with_reducible apply OutInv_next
    | with_reducible apply OutInv_fault
    | with_reducible apply State.homeWrite_inv
    | with_reducible apply State.release_inv
    | with_reducible apply checkedAccess_inv
    | with_reducible apply run_inv
    | with_reducible apply whenPerformed_inv
    | with_reducible apply Res.seq_inv
    | with_reducible apply Res.seqR_inv
    | with_reducible apply Res.hold_inv
    | with_reducible apply Res.park_inv
    | with_reducible apply Res.trap_inv
    | with_reducible apply Res.jump_inv
    | split
    | (intro _)
    | dsimp only
    | grind [State.mk_inv, State.Inv.mem, State.Inv.threads, State.Inv.units, State.Inv.hub, Hub.mk_inv, HubInv.launches, TUnit.mk_inv, TUnit.Inv.scr, TUnit.Inv.obuf, TUnit.Inv.gangs, Launch.mk_inv, Launch.Inv.desc, OutInv_next, OutInv_fault, State.homeWrite_inv, State.release_inv, checkedAccess_inv, run_inv, whenPerformed_inv, Res.seq_inv, Res.seqR_inv, Res.hold_inv, Res.park_inv, Res.trap_inv, Res.jump_inv, ResInv.seq, ResInv.seqR, ResInv.hold, ResInv.park, ResInv.trap, ResInv.jump]

theorem promoted_inv (pr : Bool) (tk : Nat) (t : Thread) (l : Loc) (s : State) (k : State → Res) (h_s : State.Inv s) (h_k : ∀ x0, State.Inv x0 → ResInv (k x0)) : ResInv (promoted pr tk t l s k) := by
  unfold promoted; grind [State.mk_inv, State.Inv.mem, State.Inv.threads, State.Inv.units, State.Inv.hub, Hub.mk_inv, HubInv.launches, TUnit.mk_inv, TUnit.Inv.scr, TUnit.Inv.obuf, TUnit.Inv.gangs, Launch.mk_inv, Launch.Inv.desc, OutInv_next, OutInv_fault, State.promote_inv, State.restorePorts_inv, Res.seq_inv, Res.seqR_inv, Res.hold_inv, Res.park_inv, Res.trap_inv, Res.jump_inv, ResInv.seq, ResInv.seqR, ResInv.hold, ResInv.park, ResInv.trap, ResInv.jump]

theorem execLdacq_inv (o : AcqOp) (s : State) (h_s : State.Inv s) : OutInv (execLdacq o s) := by
  unfold execLdacq; try intros
  repeat' first
    | with_reducible assumption
    | (with_reducible refine foldl_inv ?_ _ _ ?_ <;> intros)
    | with_reducible apply OutInv_next
    | with_reducible apply OutInv_fault
    | with_reducible apply State.acquireAt_inv
    | with_reducible apply State.addLoad_inv
    | with_reducible apply State.l1Update_inv
    | with_reducible apply State.orderAtHome_inv
    | with_reducible apply afterOut_inv
    | with_reducible apply checkedAccess_inv
    | with_reducible apply promoted_inv
    | with_reducible apply run_inv
    | with_reducible apply Res.seq_inv
    | with_reducible apply Res.seqR_inv
    | with_reducible apply Res.hold_inv
    | with_reducible apply Res.park_inv
    | with_reducible apply Res.trap_inv
    | with_reducible apply Res.jump_inv
    | split
    | (intro _)
    | dsimp only
    | grind [State.mk_inv, State.Inv.mem, State.Inv.threads, State.Inv.units, State.Inv.hub, Hub.mk_inv, HubInv.launches, TUnit.mk_inv, TUnit.Inv.scr, TUnit.Inv.obuf, TUnit.Inv.gangs, Launch.mk_inv, Launch.Inv.desc, OutInv_next, OutInv_fault, State.acquireAt_inv, State.addLoad_inv, State.l1Update_inv, State.orderAtHome_inv, State.takeSeq_inv, afterOut_inv, checkedAccess_inv, promoted_inv, run_inv, Res.seq_inv, Res.seqR_inv, Res.hold_inv, Res.park_inv, Res.trap_inv, Res.jump_inv, ResInv.seq, ResInv.seqR, ResInv.hold, ResInv.park, ResInv.trap, ResInv.jump]

theorem State.atomAt_inv (s : State) (ck : Nat) (tk : Nat) (l : Loc) (w : Nat) (f : Nat → Nat) (h_s : State.Inv s) : State.Inv ((State.atomAt s ck tk l w f)).2 := by
  unfold State.atomAt; grind [State.mk_inv, State.Inv.mem, State.Inv.threads, State.Inv.units, State.Inv.hub, Hub.mk_inv, HubInv.launches, TUnit.mk_inv, TUnit.Inv.scr, TUnit.Inv.obuf, TUnit.Inv.gangs, Launch.mk_inv, Launch.Inv.desc, OutInv_next, OutInv_fault, State.l1Update_inv, State.noteWrite_inv, State.offWrite_inv, State.orderAtHome_inv, State.takeSeq_inv, State.unfence_inv, State.writeAt_inv, TUnit.unfence_inv, Thread.mk_inv, Thread.Inv.pc, Thread.Inv.rpc, Thread.Inv.loops, Thread.Inv.shadowLoops, Thread.Inv.cd, Thread.Inv.hd, Thread.Inv.shadowCd, Thread.Inv.shadowHd, loopsOk_nil, Thread.pw_inv, evenAddr_add, evenAddr_ofN, evenAddr_two, evenAddr_four, AMap.All.map]

theorem atomRelease_inv (ar : Bool) (sc : Scope) (tk : Nat) (t : Thread) (l : Loc) (s : State) (k : State → Res) (h_s : State.Inv s) (h_k : ∀ x0, State.Inv x0 → ResInv (k x0)) : ResInv (atomRelease ar sc tk t l s k) := by
  unfold atomRelease; grind [State.mk_inv, State.Inv.mem, State.Inv.threads, State.Inv.units, State.Inv.hub, Hub.mk_inv, HubInv.launches, TUnit.mk_inv, TUnit.Inv.scr, TUnit.Inv.obuf, TUnit.Inv.gangs, Launch.mk_inv, Launch.Inv.desc, OutInv_next, OutInv_fault, State.release_inv, whenPerformed_inv, Res.seq_inv, Res.seqR_inv, Res.hold_inv, Res.park_inv, Res.trap_inv, Res.jump_inv, ResInv.seq, ResInv.seqR, ResInv.hold, ResInv.park, ResInv.trap, ResInv.jump]

theorem atomBody_inv (o : AtomOp) (promote : Bool) (pair : Bool) (f : AtomFn)  : ∀ tk t vals s, Thread.Inv t → State.Inv s → ResInv ((atomBody o promote pair f) tk t vals s) := by
  unfold atomBody; grind [State.mk_inv, State.Inv.mem, State.Inv.threads, State.Inv.units, State.Inv.hub, Hub.mk_inv, HubInv.launches, TUnit.mk_inv, TUnit.Inv.scr, TUnit.Inv.obuf, TUnit.Inv.gangs, Launch.mk_inv, Launch.Inv.desc, OutInv_next, OutInv_fault, State.acquireAt_inv, State.addLoad_inv, State.atomAt_inv, State.modThread_inv, Thread.touched_inv, afterOut_inv, atomRelease_inv, checkedAccess_inv, promoted_inv, Thread.mk_inv, Thread.Inv.pc, Thread.Inv.rpc, Thread.Inv.loops, Thread.Inv.shadowLoops, Thread.Inv.cd, Thread.Inv.hd, Thread.Inv.shadowCd, Thread.Inv.shadowHd, loopsOk_nil, Thread.pw_inv, evenAddr_add, evenAddr_ofN, evenAddr_two, evenAddr_four, Res.seq_inv, Res.seqR_inv, Res.hold_inv, Res.park_inv, Res.trap_inv, Res.jump_inv, ResInv.seq, ResInv.seqR, ResInv.hold, ResInv.park, ResInv.trap, ResInv.jump]

theorem casBody_inv (o : AtomOp) (promote : Bool)  : ∀ tk t vals s, Thread.Inv t → State.Inv s → ResInv ((casBody o promote) tk t vals s) := by
  unfold casBody; grind [State.mk_inv, State.Inv.mem, State.Inv.threads, State.Inv.units, State.Inv.hub, Hub.mk_inv, HubInv.launches, TUnit.mk_inv, TUnit.Inv.scr, TUnit.Inv.obuf, TUnit.Inv.gangs, Launch.mk_inv, Launch.Inv.desc, OutInv_next, OutInv_fault, atomBody_inv]

theorem execAtomAdd_inv (o : AtomOp) (s : State) (h_s : State.Inv s) : OutInv (execAtomAdd o s) := by
  unfold execAtomAdd; try intros
  repeat' first
    | with_reducible assumption
    | (with_reducible refine foldl_inv ?_ _ _ ?_ <;> intros)
    | with_reducible apply OutInv_next
    | with_reducible apply OutInv_fault
    | with_reducible apply atomBody_inv
    | with_reducible apply run_inv
    | with_reducible apply Res.seq_inv
    | with_reducible apply Res.seqR_inv
    | with_reducible apply Res.hold_inv
    | with_reducible apply Res.park_inv
    | with_reducible apply Res.trap_inv
    | with_reducible apply Res.jump_inv
    | split
    | (intro _)
    | dsimp only
    | grind [State.mk_inv, State.Inv.mem, State.Inv.threads, State.Inv.units, State.Inv.hub, Hub.mk_inv, HubInv.launches, TUnit.mk_inv, TUnit.Inv.scr, TUnit.Inv.obuf, TUnit.Inv.gangs, Launch.mk_inv, Launch.Inv.desc, OutInv_next, OutInv_fault, atomBody_inv, run_inv, Res.seq_inv, Res.seqR_inv, Res.hold_inv, Res.park_inv, Res.trap_inv, Res.jump_inv, ResInv.seq, ResInv.seqR, ResInv.hold, ResInv.park, ResInv.trap, ResInv.jump]

theorem execAtomAnd_inv (o : AtomOp) (s : State) (h_s : State.Inv s) : OutInv (execAtomAnd o s) := by
  unfold execAtomAnd; try intros
  repeat' first
    | with_reducible assumption
    | (with_reducible refine foldl_inv ?_ _ _ ?_ <;> intros)
    | with_reducible apply OutInv_next
    | with_reducible apply OutInv_fault
    | with_reducible apply atomBody_inv
    | with_reducible apply run_inv
    | with_reducible apply Res.seq_inv
    | with_reducible apply Res.seqR_inv
    | with_reducible apply Res.hold_inv
    | with_reducible apply Res.park_inv
    | with_reducible apply Res.trap_inv
    | with_reducible apply Res.jump_inv
    | split
    | (intro _)
    | dsimp only
    | grind [State.mk_inv, State.Inv.mem, State.Inv.threads, State.Inv.units, State.Inv.hub, Hub.mk_inv, HubInv.launches, TUnit.mk_inv, TUnit.Inv.scr, TUnit.Inv.obuf, TUnit.Inv.gangs, Launch.mk_inv, Launch.Inv.desc, OutInv_next, OutInv_fault, atomBody_inv, run_inv, Res.seq_inv, Res.seqR_inv, Res.hold_inv, Res.park_inv, Res.trap_inv, Res.jump_inv, ResInv.seq, ResInv.seqR, ResInv.hold, ResInv.park, ResInv.trap, ResInv.jump]

theorem execAtomOr_inv (o : AtomOp) (s : State) (h_s : State.Inv s) : OutInv (execAtomOr o s) := by
  unfold execAtomOr; try intros
  repeat' first
    | with_reducible assumption
    | (with_reducible refine foldl_inv ?_ _ _ ?_ <;> intros)
    | with_reducible apply OutInv_next
    | with_reducible apply OutInv_fault
    | with_reducible apply atomBody_inv
    | with_reducible apply run_inv
    | with_reducible apply Res.seq_inv
    | with_reducible apply Res.seqR_inv
    | with_reducible apply Res.hold_inv
    | with_reducible apply Res.park_inv
    | with_reducible apply Res.trap_inv
    | with_reducible apply Res.jump_inv
    | split
    | (intro _)
    | dsimp only
    | grind [State.mk_inv, State.Inv.mem, State.Inv.threads, State.Inv.units, State.Inv.hub, Hub.mk_inv, HubInv.launches, TUnit.mk_inv, TUnit.Inv.scr, TUnit.Inv.obuf, TUnit.Inv.gangs, Launch.mk_inv, Launch.Inv.desc, OutInv_next, OutInv_fault, atomBody_inv, run_inv, Res.seq_inv, Res.seqR_inv, Res.hold_inv, Res.park_inv, Res.trap_inv, Res.jump_inv, ResInv.seq, ResInv.seqR, ResInv.hold, ResInv.park, ResInv.trap, ResInv.jump]

theorem execAtomXor_inv (o : AtomOp) (s : State) (h_s : State.Inv s) : OutInv (execAtomXor o s) := by
  unfold execAtomXor; try intros
  repeat' first
    | with_reducible assumption
    | (with_reducible refine foldl_inv ?_ _ _ ?_ <;> intros)
    | with_reducible apply OutInv_next
    | with_reducible apply OutInv_fault
    | with_reducible apply atomBody_inv
    | with_reducible apply run_inv
    | with_reducible apply Res.seq_inv
    | with_reducible apply Res.seqR_inv
    | with_reducible apply Res.hold_inv
    | with_reducible apply Res.park_inv
    | with_reducible apply Res.trap_inv
    | with_reducible apply Res.jump_inv
    | split
    | (intro _)
    | dsimp only
    | grind [State.mk_inv, State.Inv.mem, State.Inv.threads, State.Inv.units, State.Inv.hub, Hub.mk_inv, HubInv.launches, TUnit.mk_inv, TUnit.Inv.scr, TUnit.Inv.obuf, TUnit.Inv.gangs, Launch.mk_inv, Launch.Inv.desc, OutInv_next, OutInv_fault, atomBody_inv, run_inv, Res.seq_inv, Res.seqR_inv, Res.hold_inv, Res.park_inv, Res.trap_inv, Res.jump_inv, ResInv.seq, ResInv.seqR, ResInv.hold, ResInv.park, ResInv.trap, ResInv.jump]

theorem execAtomMinS_inv (o : AtomOp) (s : State) (h_s : State.Inv s) : OutInv (execAtomMinS o s) := by
  unfold execAtomMinS; try intros
  repeat' first
    | with_reducible assumption
    | (with_reducible refine foldl_inv ?_ _ _ ?_ <;> intros)
    | with_reducible apply OutInv_next
    | with_reducible apply OutInv_fault
    | with_reducible apply atomBody_inv
    | with_reducible apply run_inv
    | with_reducible apply Res.seq_inv
    | with_reducible apply Res.seqR_inv
    | with_reducible apply Res.hold_inv
    | with_reducible apply Res.park_inv
    | with_reducible apply Res.trap_inv
    | with_reducible apply Res.jump_inv
    | split
    | (intro _)
    | dsimp only
    | grind [State.mk_inv, State.Inv.mem, State.Inv.threads, State.Inv.units, State.Inv.hub, Hub.mk_inv, HubInv.launches, TUnit.mk_inv, TUnit.Inv.scr, TUnit.Inv.obuf, TUnit.Inv.gangs, Launch.mk_inv, Launch.Inv.desc, OutInv_next, OutInv_fault, atomBody_inv, run_inv, Res.seq_inv, Res.seqR_inv, Res.hold_inv, Res.park_inv, Res.trap_inv, Res.jump_inv, ResInv.seq, ResInv.seqR, ResInv.hold, ResInv.park, ResInv.trap, ResInv.jump]

theorem execAtomMaxS_inv (o : AtomOp) (s : State) (h_s : State.Inv s) : OutInv (execAtomMaxS o s) := by
  unfold execAtomMaxS; try intros
  repeat' first
    | with_reducible assumption
    | (with_reducible refine foldl_inv ?_ _ _ ?_ <;> intros)
    | with_reducible apply OutInv_next
    | with_reducible apply OutInv_fault
    | with_reducible apply atomBody_inv
    | with_reducible apply run_inv
    | with_reducible apply Res.seq_inv
    | with_reducible apply Res.seqR_inv
    | with_reducible apply Res.hold_inv
    | with_reducible apply Res.park_inv
    | with_reducible apply Res.trap_inv
    | with_reducible apply Res.jump_inv
    | split
    | (intro _)
    | dsimp only
    | grind [State.mk_inv, State.Inv.mem, State.Inv.threads, State.Inv.units, State.Inv.hub, Hub.mk_inv, HubInv.launches, TUnit.mk_inv, TUnit.Inv.scr, TUnit.Inv.obuf, TUnit.Inv.gangs, Launch.mk_inv, Launch.Inv.desc, OutInv_next, OutInv_fault, atomBody_inv, run_inv, Res.seq_inv, Res.seqR_inv, Res.hold_inv, Res.park_inv, Res.trap_inv, Res.jump_inv, ResInv.seq, ResInv.seqR, ResInv.hold, ResInv.park, ResInv.trap, ResInv.jump]

theorem execAtomMinN_inv (o : AtomOp) (s : State) (h_s : State.Inv s) : OutInv (execAtomMinN o s) := by
  unfold execAtomMinN; try intros
  repeat' first
    | with_reducible assumption
    | (with_reducible refine foldl_inv ?_ _ _ ?_ <;> intros)
    | with_reducible apply OutInv_next
    | with_reducible apply OutInv_fault
    | with_reducible apply atomBody_inv
    | with_reducible apply run_inv
    | with_reducible apply Res.seq_inv
    | with_reducible apply Res.seqR_inv
    | with_reducible apply Res.hold_inv
    | with_reducible apply Res.park_inv
    | with_reducible apply Res.trap_inv
    | with_reducible apply Res.jump_inv
    | split
    | (intro _)
    | dsimp only
    | grind [State.mk_inv, State.Inv.mem, State.Inv.threads, State.Inv.units, State.Inv.hub, Hub.mk_inv, HubInv.launches, TUnit.mk_inv, TUnit.Inv.scr, TUnit.Inv.obuf, TUnit.Inv.gangs, Launch.mk_inv, Launch.Inv.desc, OutInv_next, OutInv_fault, atomBody_inv, run_inv, Res.seq_inv, Res.seqR_inv, Res.hold_inv, Res.park_inv, Res.trap_inv, Res.jump_inv, ResInv.seq, ResInv.seqR, ResInv.hold, ResInv.park, ResInv.trap, ResInv.jump]

theorem execAtomMaxN_inv (o : AtomOp) (s : State) (h_s : State.Inv s) : OutInv (execAtomMaxN o s) := by
  unfold execAtomMaxN; try intros
  repeat' first
    | with_reducible assumption
    | (with_reducible refine foldl_inv ?_ _ _ ?_ <;> intros)
    | with_reducible apply OutInv_next
    | with_reducible apply OutInv_fault
    | with_reducible apply atomBody_inv
    | with_reducible apply run_inv
    | with_reducible apply Res.seq_inv
    | with_reducible apply Res.seqR_inv
    | with_reducible apply Res.hold_inv
    | with_reducible apply Res.park_inv
    | with_reducible apply Res.trap_inv
    | with_reducible apply Res.jump_inv
    | split
    | (intro _)
    | dsimp only
    | grind [State.mk_inv, State.Inv.mem, State.Inv.threads, State.Inv.units, State.Inv.hub, Hub.mk_inv, HubInv.launches, TUnit.mk_inv, TUnit.Inv.scr, TUnit.Inv.obuf, TUnit.Inv.gangs, Launch.mk_inv, Launch.Inv.desc, OutInv_next, OutInv_fault, atomBody_inv, run_inv, Res.seq_inv, Res.seqR_inv, Res.hold_inv, Res.park_inv, Res.trap_inv, Res.jump_inv, ResInv.seq, ResInv.seqR, ResInv.hold, ResInv.park, ResInv.trap, ResInv.jump]

theorem execAtomXchg_inv (o : AtomOp) (s : State) (h_s : State.Inv s) : OutInv (execAtomXchg o s) := by
  unfold execAtomXchg; try intros
  repeat' first
    | with_reducible assumption
    | (with_reducible refine foldl_inv ?_ _ _ ?_ <;> intros)
    | with_reducible apply OutInv_next
    | with_reducible apply OutInv_fault
    | with_reducible apply atomBody_inv
    | with_reducible apply run_inv
    | with_reducible apply Res.seq_inv
    | with_reducible apply Res.seqR_inv
    | with_reducible apply Res.hold_inv
    | with_reducible apply Res.park_inv
    | with_reducible apply Res.trap_inv
    | with_reducible apply Res.jump_inv
    | split
    | (intro _)
    | dsimp only
    | grind [State.mk_inv, State.Inv.mem, State.Inv.threads, State.Inv.units, State.Inv.hub, Hub.mk_inv, HubInv.launches, TUnit.mk_inv, TUnit.Inv.scr, TUnit.Inv.obuf, TUnit.Inv.gangs, Launch.mk_inv, Launch.Inv.desc, OutInv_next, OutInv_fault, atomBody_inv, run_inv, Res.seq_inv, Res.seqR_inv, Res.hold_inv, Res.park_inv, Res.trap_inv, Res.jump_inv, ResInv.seq, ResInv.seqR, ResInv.hold, ResInv.park, ResInv.trap, ResInv.jump]

theorem execAtomCas_inv (o : AtomOp) (s : State) (h_s : State.Inv s) : OutInv (execAtomCas o s) :=
  run_inv _ s _ _ h_s (casBody_inv _ _) (fun _ _ _ _ h => h)

theorem execAtomFadd_inv (o : AtomOp) (s : State) (h_s : State.Inv s) : OutInv (execAtomFadd o s) := by
  unfold execAtomFadd; try intros
  repeat' first
    | with_reducible assumption
    | (with_reducible refine foldl_inv ?_ _ _ ?_ <;> intros)
    | with_reducible apply OutInv_next
    | with_reducible apply OutInv_fault
    | with_reducible apply atomBody_inv
    | with_reducible apply run_inv
    | with_reducible apply Res.seq_inv
    | with_reducible apply Res.seqR_inv
    | with_reducible apply Res.hold_inv
    | with_reducible apply Res.park_inv
    | with_reducible apply Res.trap_inv
    | with_reducible apply Res.jump_inv
    | split
    | (intro _)
    | dsimp only
    | grind [State.mk_inv, State.Inv.mem, State.Inv.threads, State.Inv.units, State.Inv.hub, Hub.mk_inv, HubInv.launches, TUnit.mk_inv, TUnit.Inv.scr, TUnit.Inv.obuf, TUnit.Inv.gangs, Launch.mk_inv, Launch.Inv.desc, OutInv_next, OutInv_fault, atomBody_inv, run_inv, Res.seq_inv, Res.seqR_inv, Res.hold_inv, Res.park_inv, Res.trap_inv, Res.jump_inv, ResInv.seq, ResInv.seqR, ResInv.hold, ResInv.park, ResInv.trap, ResInv.jump]

theorem execAtomIncw_inv (o : AtomOp) (s : State) (h_s : State.Inv s) : OutInv (execAtomIncw o s) := by
  unfold execAtomIncw; try intros
  repeat' first
    | with_reducible assumption
    | (with_reducible refine foldl_inv ?_ _ _ ?_ <;> intros)
    | with_reducible apply OutInv_next
    | with_reducible apply OutInv_fault
    | with_reducible apply atomBody_inv
    | with_reducible apply run_inv
    | with_reducible apply Res.seq_inv
    | with_reducible apply Res.seqR_inv
    | with_reducible apply Res.hold_inv
    | with_reducible apply Res.park_inv
    | with_reducible apply Res.trap_inv
    | with_reducible apply Res.jump_inv
    | split
    | (intro _)
    | dsimp only
    | grind [State.mk_inv, State.Inv.mem, State.Inv.threads, State.Inv.units, State.Inv.hub, Hub.mk_inv, HubInv.launches, TUnit.mk_inv, TUnit.Inv.scr, TUnit.Inv.obuf, TUnit.Inv.gangs, Launch.mk_inv, Launch.Inv.desc, OutInv_next, OutInv_fault, atomBody_inv, run_inv, Res.seq_inv, Res.seqR_inv, Res.hold_inv, Res.park_inv, Res.trap_inv, Res.jump_inv, ResInv.seq, ResInv.seqR, ResInv.hold, ResInv.park, ResInv.trap, ResInv.jump]

theorem execAtomCasPromote_inv (o : AtomOp) (s : State) (h_s : State.Inv s) : OutInv (execAtomCasPromote o s) :=
  run_inv _ s _ _ h_s (casBody_inv _ _) (fun _ _ _ _ h => h)

theorem State.forgetEntries_inv (s : State) (uid : Nat) (offs : List Nat) (h_s : State.Inv s) : State.Inv (State.forgetEntries s uid offs) := by
  unfold State.forgetEntries; grind [State.mk_inv, State.Inv.mem, State.Inv.threads, State.Inv.units, State.Inv.hub, Hub.mk_inv, HubInv.launches, TUnit.mk_inv, TUnit.Inv.scr, TUnit.Inv.obuf, TUnit.Inv.gangs, Launch.mk_inv, Launch.Inv.desc, OutInv_next, OutInv_fault, State.forgetAt_inv, Store.forget_wf, foldl_inv]

theorem State.tableRaces_inv (s : State) (ck : Nat) (tk : Nat) (uid : Nat) (base : Nat) (cap : Nat) (h_s : State.Inv s) : State.Inv (State.tableRaces s ck tk uid base cap) := by
  unfold State.tableRaces; grind [State.mk_inv, State.Inv.mem, State.Inv.threads, State.Inv.units, State.Inv.hub, Hub.mk_inv, HubInv.launches, TUnit.mk_inv, TUnit.Inv.scr, TUnit.Inv.obuf, TUnit.Inv.gangs, Launch.mk_inv, Launch.Inv.desc, OutInv_next, OutInv_fault, State.forgetEntries_inv, State.performWhere_inv, Store.forget_wf, foldl_inv]

theorem haccDone_inv (o : HaccOp) (tk : Nat) (l : Loc) (va : Word) (status : Nat) (v : Option Word) (s : State) (h_s : State.Inv s) : ResInv (haccDone o tk l va status v s) := by
  unfold haccDone; grind [State.mk_inv, State.Inv.mem, State.Inv.threads, State.Inv.units, State.Inv.hub, Hub.mk_inv, HubInv.launches, TUnit.mk_inv, TUnit.Inv.scr, TUnit.Inv.obuf, TUnit.Inv.gangs, Launch.mk_inv, Launch.Inv.desc, OutInv_next, OutInv_fault, State.acquire_inv, State.addLoad_inv, Res.seq_inv, Res.seqR_inv, Res.hold_inv, Res.park_inv, Res.trap_inv, Res.jump_inv, ResInv.seq, ResInv.seqR, ResInv.hold, ResInv.park, ResInv.trap, ResInv.jump]

theorem State.tableWrite_inv (s : State) (tk : Nat) (uid : Nat) (off : Nat) (key : Option Nat) (v : Word) (h_s : State.Inv s) : State.Inv (State.tableWrite s tk uid off key v) := by
  unfold State.tableWrite; grind [State.mk_inv, State.Inv.mem, State.Inv.threads, State.Inv.units, State.Inv.hub, Hub.mk_inv, HubInv.launches, TUnit.mk_inv, TUnit.Inv.scr, TUnit.Inv.obuf, TUnit.Inv.gangs, Launch.mk_inv, Launch.Inv.desc, OutInv_next, OutInv_fault, State.modThread_inv, State.noteWrite_inv, State.unfence_inv, State.writeAt_inv, TUnit.unfence_inv, Thread.touched_inv, Thread.mk_inv, Thread.Inv.pc, Thread.Inv.rpc, Thread.Inv.loops, Thread.Inv.shadowLoops, Thread.Inv.cd, Thread.Inv.hd, Thread.Inv.shadowCd, Thread.Inv.shadowHd, loopsOk_nil, Thread.pw_inv, evenAddr_add, evenAddr_ofN, evenAddr_two, evenAddr_four, Res.seq_inv, Res.seqR_inv, Res.hold_inv, Res.park_inv, Res.trap_inv, Res.jump_inv, ResInv.seq, ResInv.seqR, ResInv.hold, ResInv.park, ResInv.trap, ResInv.jump]

theorem haccTable_inv (o : HaccOp) (tk : Nat) (t : Thread) (k : Nat) (l : Loc) (m : Loc) (va : Word) (uid : Nat) (s : State) (h_s : State.Inv s) : ResInv (haccTable o tk t k l m va uid s) := by
  unfold haccTable; grind [State.mk_inv, State.Inv.mem, State.Inv.threads, State.Inv.units, State.Inv.hub, Hub.mk_inv, HubInv.launches, TUnit.mk_inv, TUnit.Inv.scr, TUnit.Inv.obuf, TUnit.Inv.gangs, Launch.mk_inv, Launch.Inv.desc, OutInv_next, OutInv_fault, State.forgetEntries_inv, State.orderAtHome_inv, State.tableRaces_inv, State.tableWrite_inv, State.unit?_inv, haccDone_inv, Store.forget_wf, AMap.All.map, Res.seq_inv, Res.seqR_inv, Res.hold_inv, Res.park_inv, Res.trap_inv, Res.jump_inv, ResInv.seq, ResInv.seqR, ResInv.hold, ResInv.park, ResInv.trap, ResInv.jump]

theorem haccWatched_inv (t : Thread) (l : Loc) (m : Loc) (s : State) (k : State → Res) (h_s : State.Inv s) (h_k : ∀ x0, State.Inv x0 → ResInv (k x0)) : ResInv (haccWatched t l m s k) := by
  unfold haccWatched; grind [State.mk_inv, State.Inv.mem, State.Inv.threads, State.Inv.units, State.Inv.hub, Hub.mk_inv, HubInv.launches, TUnit.mk_inv, TUnit.Inv.scr, TUnit.Inv.obuf, TUnit.Inv.gangs, Launch.mk_inv, Launch.Inv.desc, OutInv_next, OutInv_fault, presentAccess_inv, foldl_inv, Res.seq_inv, Res.seqR_inv, Res.hold_inv, Res.park_inv, Res.trap_inv, Res.jump_inv, ResInv.seq, ResInv.seqR, ResInv.hold, ResInv.park, ResInv.trap, ResInv.jump]

theorem haccPlaced_inv (o : HaccOp) (tk : Nat) (t : Thread) (vals : List Word) (l : Loc) (m : Loc) (s : State) (h_s : State.Inv s) : ResInv (haccPlaced o tk t vals l m s) := by
  unfold haccPlaced
  dsimp only
  split
  · exact Res.trap_inv _ _ h_s
  · refine haccWatched_inv _ _ _ _ _ h_s ?_
    intro x hx
    refine atomRelease_inv _ _ _ _ _ _ _ hx ?_
    intro y hy
    with_reducible exact haccTable_inv o tk t _ l m _ _ y hy

theorem execAtomHacc_inv (o : HaccOp) (s : State) (h_s : State.Inv s) : OutInv (execAtomHacc o s) := by
  unfold execAtomHacc; try intros
  repeat' first
    | with_reducible assumption
    | (with_reducible refine foldl_inv ?_ _ _ ?_ <;> intros)
    | with_reducible apply OutInv_next
    | with_reducible apply OutInv_fault
    | with_reducible apply afterOut_inv
    | with_reducible apply haccPlaced_inv
    | with_reducible apply placeAccess_inv
    | with_reducible apply run_inv
    | with_reducible apply Res.seq_inv
    | with_reducible apply Res.seqR_inv
    | with_reducible apply Res.hold_inv
    | with_reducible apply Res.park_inv
    | with_reducible apply Res.trap_inv
    | with_reducible apply Res.jump_inv
    | split
    | (intro _)
    | dsimp only
    | grind [State.mk_inv, State.Inv.mem, State.Inv.threads, State.Inv.units, State.Inv.hub, Hub.mk_inv, HubInv.launches, TUnit.mk_inv, TUnit.Inv.scr, TUnit.Inv.obuf, TUnit.Inv.gangs, Launch.mk_inv, Launch.Inv.desc, OutInv_next, OutInv_fault, afterOut_inv, haccPlaced_inv, placeAccess_inv, run_inv, Res.seq_inv, Res.seqR_inv, Res.hold_inv, Res.park_inv, Res.trap_inv, Res.jump_inv, ResInv.seq, ResInv.seqR, ResInv.hold, ResInv.park, ResInv.trap, ResInv.jump]

theorem fenceBody_inv (sc : Scope)  : ∀ tk t vals s, Thread.Inv t → State.Inv s → ResInv ((fenceBody sc) tk t vals s) := by
  unfold fenceBody; grind [State.mk_inv, State.Inv.mem, State.Inv.threads, State.Inv.units, State.Inv.hub, Hub.mk_inv, HubInv.launches, TUnit.mk_inv, TUnit.Inv.scr, TUnit.Inv.obuf, TUnit.Inv.gangs, Launch.mk_inv, Launch.Inv.desc, OutInv_next, OutInv_fault, State.acquire_inv, State.modThread_inv, State.publish_inv, State.refresh_inv, Thread.dropPrefetched_inv, whenPerformed_inv, Res.seq_inv, Res.seqR_inv, Res.hold_inv, Res.park_inv, Res.trap_inv, Res.jump_inv, ResInv.seq, ResInv.seqR, ResInv.hold, ResInv.park, ResInv.trap, ResInv.jump, Fetch.ok_inv, Fetch.trap_inv, Fetch.fault_inv, FetchInv.ok, FetchInv.trap, FetchInv.fault, FetchWord.ok_inv, FetchWord.trap_inv, FetchWord.fault_inv, FetchWordInv.ok, FetchWordInv.trap, FetchWordInv.fault]

theorem execFenceGrp_inv (o : OpG) (s : State) (h_s : State.Inv s) : OutInv (execFenceGrp o s) :=
  run_inv _ s _ _ h_s (fenceBody_inv _) (fun _ _ _ _ h => h)

theorem execFenceCore_inv (o : OpG) (s : State) (h_s : State.Inv s) : OutInv (execFenceCore o s) :=
  run_inv _ s _ _ h_s (fenceBody_inv _) (fun _ _ _ _ h => h)

theorem execFenceDie_inv (o : OpG) (s : State) (h_s : State.Inv s) : OutInv (execFenceDie o s) :=
  run_inv _ s _ _ h_s (fenceBody_inv _) (fun _ _ _ _ h => h)

theorem execFenceDev_inv (o : OpG) (s : State) (h_s : State.Inv s) : OutInv (execFenceDev o s) :=
  run_inv _ s _ _ h_s (fenceBody_inv _) (fun _ _ _ _ h => h)

theorem execFenceSys_inv (o : OpG) (s : State) (h_s : State.Inv s) : OutInv (execFenceSys o s) :=
  run_inv _ s _ _ h_s (fenceBody_inv _) (fun _ _ _ _ h => h)

theorem execBnd_inv (o : OpG) (s : State) (h_s : State.Inv s) : OutInv (execBnd o s) := by
  unfold execBnd; try intros
  repeat' first
    | with_reducible assumption
    | (with_reducible refine foldl_inv ?_ _ _ ?_ <;> intros)
    | with_reducible apply OutInv_next
    | with_reducible apply OutInv_fault
    | with_reducible apply State.acquire_inv
    | with_reducible apply State.modThread_inv
    | with_reducible apply State.publish_inv
    | with_reducible apply State.refresh_inv
    | with_reducible apply Thread.dropPrefetched_inv
    | with_reducible apply run_inv
    | with_reducible apply whenPerformed_inv
    | with_reducible apply Res.seq_inv
    | with_reducible apply Res.seqR_inv
    | with_reducible apply Res.hold_inv
    | with_reducible apply Res.park_inv
    | with_reducible apply Res.trap_inv
    | with_reducible apply Res.jump_inv
    | with_reducible apply Fetch.ok_inv
    | with_reducible apply Fetch.trap_inv
    | with_reducible apply Fetch.fault_inv
    | with_reducible apply FetchWord.ok_inv
    | with_reducible apply FetchWord.trap_inv
    | with_reducible apply FetchWord.fault_inv
    | split
    | (intro _)
    | dsimp only
    | grind [State.mk_inv, State.Inv.mem, State.Inv.threads, State.Inv.units, State.Inv.hub, Hub.mk_inv, HubInv.launches, TUnit.mk_inv, TUnit.Inv.scr, TUnit.Inv.obuf, TUnit.Inv.gangs, Launch.mk_inv, Launch.Inv.desc, OutInv_next, OutInv_fault, State.acquire_inv, State.modThread_inv, State.publish_inv, State.refresh_inv, Thread.dropPrefetched_inv, run_inv, whenPerformed_inv, Res.seq_inv, Res.seqR_inv, Res.hold_inv, Res.park_inv, Res.trap_inv, Res.jump_inv, ResInv.seq, ResInv.seqR, ResInv.hold, ResInv.park, ResInv.trap, ResInv.jump, Fetch.ok_inv, Fetch.trap_inv, Fetch.fault_inv, FetchInv.ok, FetchInv.trap, FetchInv.fault, FetchWord.ok_inv, FetchWord.trap_inv, FetchWord.fault_inv, FetchWordInv.ok, FetchWordInv.trap, FetchWordInv.fault]

end Sys2Proof.Machine
end

