-- ==== Sys2Proof/Laws/KeptCensus.lean ====
section
/-! SUPPORT. That every operation of Machine/Census.lean keeps the invariant State.Inv. -/

namespace Sys2Proof.Machine

theorem State.divergence_inv (s : State) (now : Nat) (tks : List Nat) (h_s : State.Inv s) : State.Inv (State.divergence s now tks) := by
  unfold State.divergence; grind [State.mk_inv, State.Inv.mem, State.Inv.threads, State.Inv.units, State.Inv.hub, Hub.mk_inv, HubInv.launches, TUnit.mk_inv, TUnit.Inv.scr, TUnit.Inv.obuf, TUnit.Inv.gangs, Launch.mk_inv, Launch.Inv.desc, OutInv_next, OutInv_fault, State.modThread_inv, State.thread?_inv, Thread.mk_inv, Thread.Inv.pc, Thread.Inv.rpc, Thread.Inv.loops, Thread.Inv.shadowLoops, Thread.Inv.cd, Thread.Inv.hd, Thread.Inv.shadowCd, Thread.Inv.shadowHd, loopsOk_nil, Thread.pw_inv, evenAddr_add, evenAddr_ofN, evenAddr_two, evenAddr_four, AMap.All.filter, AMap.All.map, foldl_inv]

theorem State.tick_inv (s : State) (n : Nat) (h_s : State.Inv s) : State.Inv (State.tick s n) := by
  unfold State.tick; grind [State.mk_inv, State.Inv.mem, State.Inv.threads, State.Inv.units, State.Inv.hub, Hub.mk_inv, HubInv.launches, TUnit.mk_inv, TUnit.Inv.scr, TUnit.Inv.obuf, TUnit.Inv.gangs, Launch.mk_inv, Launch.Inv.desc, OutInv_next, OutInv_fault, State.landUwr_inv, State.modCluster_inv, foldl_inv]

theorem execGangSeat_inv (ck : Nat) (a : Nat) (s : State) (h_s : State.Inv s) : OutInv (execGangSeat ck a s) := by
  unfold execGangSeat; grind [State.mk_inv, State.Inv.mem, State.Inv.threads, State.Inv.units, State.Inv.hub, Hub.mk_inv, HubInv.launches, TUnit.mk_inv, TUnit.Inv.scr, TUnit.Inv.obuf, TUnit.Inv.gangs, Launch.mk_inv, Launch.Inv.desc, OutInv_next, OutInv_fault, State.modCore_inv, State.modThread_inv, State.modUnit_inv, TUnit.modGang_inv, Thread.mk_inv, Thread.Inv.pc, Thread.Inv.rpc, Thread.Inv.loops, Thread.Inv.shadowLoops, Thread.Inv.cd, Thread.Inv.hd, Thread.Inv.shadowCd, Thread.Inv.shadowHd, loopsOk_nil, Thread.pw_inv, evenAddr_add, evenAddr_ofN, evenAddr_two, evenAddr_four, Gang.mk_inv, Gang.Inv.priv, Gang.empty_inv, TUnit.gang_inv, AMap.All.get?, foldl_inv]

theorem State.unseat_inv (s : State) (ck : Nat) (seat : Seat) (h_s : State.Inv s) : State.Inv (State.unseat s ck seat) := by
  unfold State.unseat; grind [State.mk_inv, State.Inv.mem, State.Inv.threads, State.Inv.units, State.Inv.hub, Hub.mk_inv, HubInv.launches, TUnit.mk_inv, TUnit.Inv.scr, TUnit.Inv.obuf, TUnit.Inv.gangs, Launch.mk_inv, Launch.Inv.desc, OutInv_next, OutInv_fault, State.freeSeat_inv, State.modUnit_inv, TUnit.modGang_inv, Gang.mk_inv, Gang.Inv.priv, Gang.empty_inv, TUnit.gang_inv, AMap.All.get?]

theorem execGangUnseat_inv (ck : Nat) (a : Nat) (seat : Nat) (s : State) (h_s : State.Inv s) : OutInv (execGangUnseat ck a seat s) := by
  unfold execGangUnseat; grind [State.mk_inv, State.Inv.mem, State.Inv.threads, State.Inv.units, State.Inv.hub, Hub.mk_inv, HubInv.launches, TUnit.mk_inv, TUnit.Inv.scr, TUnit.Inv.obuf, TUnit.Inv.gangs, Launch.mk_inv, Launch.Inv.desc, OutInv_next, OutInv_fault, State.unseat_inv]

theorem execQuantumDue_inv (ck : Nat) (a : Nat) (seat : Nat) (s : State) (h_s : State.Inv s) : OutInv (execQuantumDue ck a seat s) := by
  unfold execQuantumDue; grind [State.mk_inv, State.Inv.mem, State.Inv.threads, State.Inv.units, State.Inv.hub, Hub.mk_inv, HubInv.launches, TUnit.mk_inv, TUnit.Inv.scr, TUnit.Inv.obuf, TUnit.Inv.gangs, Launch.mk_inv, Launch.Inv.desc, OutInv_next, OutInv_fault, State.markDue_inv]

theorem execCensusRound_inv (ck : Nat) (a : Nat) (s : State) (h_s : State.Inv s) : OutInv (execCensusRound ck a s) := by
  unfold execCensusRound; grind [State.mk_inv, State.Inv.mem, State.Inv.threads, State.Inv.units, State.Inv.hub, Hub.mk_inv, HubInv.launches, TUnit.mk_inv, TUnit.Inv.scr, TUnit.Inv.obuf, TUnit.Inv.gangs, Launch.mk_inv, Launch.Inv.desc, OutInv_next, OutInv_fault, State.divergence_inv, State.modCore_inv, State.modThread_inv, State.tick_inv, Thread.mk_inv, Thread.Inv.pc, Thread.Inv.rpc, Thread.Inv.loops, Thread.Inv.shadowLoops, Thread.Inv.cd, Thread.Inv.hd, Thread.Inv.shadowCd, Thread.Inv.shadowHd, loopsOk_nil, Thread.pw_inv, evenAddr_add, evenAddr_ofN, evenAddr_two, evenAddr_four, Gang.mk_inv, Gang.Inv.priv, Gang.empty_inv, TUnit.gang_inv, AMap.All.get?, AMap.All.filter, AMap.All.map, foldl_inv, Issue.run_inv, Issue.done_inv, IssueInv.run, IssueInv.done]

theorem execYieldHoldEnd_inv (tk : Nat) (s : State) (h_s : State.Inv s) : OutInv (execYieldHoldEnd tk s) := by
  unfold execYieldHoldEnd; grind [State.mk_inv, State.Inv.mem, State.Inv.threads, State.Inv.units, State.Inv.hub, Hub.mk_inv, HubInv.launches, TUnit.mk_inv, TUnit.Inv.scr, TUnit.Inv.obuf, TUnit.Inv.gangs, Launch.mk_inv, Launch.Inv.desc, OutInv_next, OutInv_fault, State.modThread_inv, Thread.mk_inv, Thread.Inv.pc, Thread.Inv.rpc, Thread.Inv.loops, Thread.Inv.shadowLoops, Thread.Inv.cd, Thread.Inv.hd, Thread.Inv.shadowCd, Thread.Inv.shadowHd, loopsOk_nil, Thread.pw_inv, evenAddr_add, evenAddr_ofN, evenAddr_two, evenAddr_four]

theorem execDeprioritisationEnd_inv (tk : Nat) (s : State) (h_s : State.Inv s) : OutInv (execDeprioritisationEnd tk s) := by
  unfold execDeprioritisationEnd; grind [State.mk_inv, State.Inv.mem, State.Inv.threads, State.Inv.units, State.Inv.hub, Hub.mk_inv, HubInv.launches, TUnit.mk_inv, TUnit.Inv.scr, TUnit.Inv.obuf, TUnit.Inv.gangs, Launch.mk_inv, Launch.Inv.desc, OutInv_next, OutInv_fault, State.modThread_inv, Thread.mk_inv, Thread.Inv.pc, Thread.Inv.rpc, Thread.Inv.loops, Thread.Inv.shadowLoops, Thread.Inv.cd, Thread.Inv.hd, Thread.Inv.shadowCd, Thread.Inv.shadowHd, loopsOk_nil, Thread.pw_inv, evenAddr_add, evenAddr_ofN, evenAddr_two, evenAddr_four]

theorem execPrefetchFill_inv (tk : Nat) (s : State) (h_s : State.Inv s) : OutInv (execPrefetchFill tk s) := by
  unfold execPrefetchFill; grind [State.mk_inv, State.Inv.mem, State.Inv.threads, State.Inv.units, State.Inv.hub, Hub.mk_inv, HubInv.launches, TUnit.mk_inv, TUnit.Inv.scr, TUnit.Inv.obuf, TUnit.Inv.gangs, Launch.mk_inv, Launch.Inv.desc, OutInv_next, OutInv_fault, State.prefetch_inv, Fetch.ok_inv, Fetch.trap_inv, Fetch.fault_inv, FetchInv.ok, FetchInv.trap, FetchInv.fault, FetchWord.ok_inv, FetchWord.trap_inv, FetchWord.fault_inv, FetchWordInv.ok, FetchWordInv.trap, FetchWordInv.fault]

end Sys2Proof.Machine
end

