-- ==== Sys2Proof/Laws/KeptCollective.lean ====
section
/-! SUPPORT. That every operation of Machine/Collective.lean keeps the invariant State.Inv. -/

namespace Sys2Proof.Machine

theorem State.joinRecord_inv (s : State) (uid : Nat) (gg : Nat) (tile : Nat) (tk : Nat) (a : Arrival) (r : InstRec) (h_s : State.Inv s) : State.Inv (State.joinRecord s uid gg tile tk a r) := by
  unfold State.joinRecord; grind [State.mk_inv, State.Inv.mem, State.Inv.threads, State.Inv.units, State.Inv.hub, Hub.mk_inv, HubInv.launches, TUnit.mk_inv, TUnit.Inv.scr, TUnit.Inv.obuf, TUnit.Inv.gangs, Launch.mk_inv, Launch.Inv.desc, OutInv_next, OutInv_fault, State.modThread_inv, State.modUnit_inv, TUnit.modGang_inv, Thread.stepped_inv, Thread.mk_inv, Thread.Inv.pc, Thread.Inv.rpc, Thread.Inv.loops, Thread.Inv.shadowLoops, Thread.Inv.cd, Thread.Inv.hd, Thread.Inv.shadowCd, Thread.Inv.shadowHd, loopsOk_nil, Thread.pw_inv, evenAddr_add, evenAddr_ofN, evenAddr_two, evenAddr_four, Gang.mk_inv, Gang.Inv.priv, Gang.empty_inv, TUnit.gang_inv, AMap.All.get?, AMap.All.set]

theorem arrive_inv (fn : CollFn) (size : Nat) (a : Arrival) (tk : Nat) (t : Thread) (s : State) (h_s : State.Inv s) : ResInv (arrive fn size a tk t s) := by
  unfold arrive; grind [State.mk_inv, State.Inv.mem, State.Inv.threads, State.Inv.units, State.Inv.hub, Hub.mk_inv, HubInv.launches, TUnit.mk_inv, TUnit.Inv.scr, TUnit.Inv.obuf, TUnit.Inv.gangs, Launch.mk_inv, Launch.Inv.desc, OutInv_next, OutInv_fault, State.failGpart_inv, State.failInstance_inv, State.joinRecord_inv, State.tryGpart_inv, State.tryInstance_inv, State.unit?_inv, TUnit.gang_inv, Gang.mk_inv, Gang.Inv.priv, Gang.empty_inv, AMap.All.get?, Res.seq_inv, Res.seqR_inv, Res.hold_inv, Res.park_inv, Res.trap_inv, Res.jump_inv, ResInv.seq, ResInv.seqR, ResInv.hold, ResInv.park, ResInv.trap, ResInv.jump]

theorem collBody_inv (fn : CollFn) (src : Option Src) (dst : Dst)  : ∀ tk t vals s, Thread.Inv t → State.Inv s → ResInv ((collBody fn src dst) tk t vals s) := by
  unfold collBody; grind [State.mk_inv, State.Inv.mem, State.Inv.threads, State.Inv.units, State.Inv.hub, Hub.mk_inv, HubInv.launches, TUnit.mk_inv, TUnit.Inv.scr, TUnit.Inv.obuf, TUnit.Inv.gangs, Launch.mk_inv, Launch.Inv.desc, OutInv_next, OutInv_fault, State.thread?_inv, arrive_inv, Thread.mk_inv, Thread.Inv.pc, Thread.Inv.rpc, Thread.Inv.loops, Thread.Inv.shadowLoops, Thread.Inv.cd, Thread.Inv.hd, Thread.Inv.shadowCd, Thread.Inv.shadowHd, loopsOk_nil, Thread.pw_inv, evenAddr_add, evenAddr_ofN, evenAddr_two, evenAddr_four, Res.seq_inv, Res.seqR_inv, Res.hold_inv, Res.park_inv, Res.trap_inv, Res.jump_inv, ResInv.seq, ResInv.seqR, ResInv.hold, ResInv.park, ResInv.trap, ResInv.jump]

theorem execElect_inv (o : OpD) (s : State) (h_s : State.Inv s) : OutInv (execElect o s) :=
  run_inv _ s _ _ h_s (collBody_inv _ _ _) (fun _ _ _ _ h => h)

theorem execVany_inv (o : OpX) (s : State) (h_s : State.Inv s) : OutInv (execVany o s) := by
  unfold execVany; try intros
  repeat' first
    | with_reducible assumption
    | (with_reducible refine foldl_inv ?_ _ _ ?_ <;> intros)
    | with_reducible apply OutInv_next
    | with_reducible apply OutInv_fault
    | with_reducible apply collBody_inv
    | with_reducible apply run_inv
    | with_reducible apply Res.seq_inv
    | with_reducible apply Res.seqR_inv
    | with_reducible apply Res.hold_inv
    | with_reducible apply Res.park_inv
    | with_reducible apply Res.trap_inv
    | with_reducible apply Res.jump_inv
    | split
    | (intro _)
    | dsimp only
    | grind [State.mk_inv, State.Inv.mem, State.Inv.threads, State.Inv.units, State.Inv.hub, Hub.mk_inv, HubInv.launches, TUnit.mk_inv, TUnit.Inv.scr, TUnit.Inv.obuf, TUnit.Inv.gangs, Launch.mk_inv, Launch.Inv.desc, OutInv_next, OutInv_fault, collBody_inv, run_inv, Res.seq_inv, Res.seqR_inv, Res.hold_inv, Res.park_inv, Res.trap_inv, Res.jump_inv, ResInv.seq, ResInv.seqR, ResInv.hold, ResInv.park, ResInv.trap, ResInv.jump]

theorem execVall_inv (o : OpX) (s : State) (h_s : State.Inv s) : OutInv (execVall o s) := by
  unfold execVall; try intros
  repeat' first
    | with_reducible assumption
    | (with_reducible refine foldl_inv ?_ _ _ ?_ <;> intros)
    | with_reducible apply OutInv_next
    | with_reducible apply OutInv_fault
    | with_reducible apply collBody_inv
    | with_reducible apply run_inv
    | with_reducible apply Res.seq_inv
    | with_reducible apply Res.seqR_inv
    | with_reducible apply Res.hold_inv
    | with_reducible apply Res.park_inv
    | with_reducible apply Res.trap_inv
    | with_reducible apply Res.jump_inv
    | split
    | (intro _)
    | dsimp only
    | grind [State.mk_inv, State.Inv.mem, State.Inv.threads, State.Inv.units, State.Inv.hub, Hub.mk_inv, HubInv.launches, TUnit.mk_inv, TUnit.Inv.scr, TUnit.Inv.obuf, TUnit.Inv.gangs, Launch.mk_inv, Launch.Inv.desc, OutInv_next, OutInv_fault, collBody_inv, run_inv, Res.seq_inv, Res.seqR_inv, Res.hold_inv, Res.park_inv, Res.trap_inv, Res.jump_inv, ResInv.seq, ResInv.seqR, ResInv.hold, ResInv.park, ResInv.trap, ResInv.jump]

theorem execVbal_inv (o : OpX) (s : State) (h_s : State.Inv s) : OutInv (execVbal o s) := by
  unfold execVbal; try intros
  repeat' first
    | with_reducible assumption
    | (with_reducible refine foldl_inv ?_ _ _ ?_ <;> intros)
    | with_reducible apply OutInv_next
    | with_reducible apply OutInv_fault
    | with_reducible apply collBody_inv
    | with_reducible apply run_inv
    | with_reducible apply Res.seq_inv
    | with_reducible apply Res.seqR_inv
    | with_reducible apply Res.hold_inv
    | with_reducible apply Res.park_inv
    | with_reducible apply Res.trap_inv
    | with_reducible apply Res.jump_inv
    | split
    | (intro _)
    | dsimp only
    | grind [State.mk_inv, State.Inv.mem, State.Inv.threads, State.Inv.units, State.Inv.hub, Hub.mk_inv, HubInv.launches, TUnit.mk_inv, TUnit.Inv.scr, TUnit.Inv.obuf, TUnit.Inv.gangs, Launch.mk_inv, Launch.Inv.desc, OutInv_next, OutInv_fault, collBody_inv, run_inv, Res.seq_inv, Res.seqR_inv, Res.hold_inv, Res.park_inv, Res.trap_inv, Res.jump_inv, ResInv.seq, ResInv.seqR, ResInv.hold, ResInv.park, ResInv.trap, ResInv.jump]

theorem execShfi_inv (o : OpX) (s : State) (h_s : State.Inv s) : OutInv (execShfi o s) := by
  unfold execShfi; try intros
  repeat' first
    | with_reducible assumption
    | (with_reducible refine foldl_inv ?_ _ _ ?_ <;> intros)
    | with_reducible apply OutInv_next
    | with_reducible apply OutInv_fault
    | with_reducible apply collBody_inv
    | with_reducible apply run_inv
    | with_reducible apply Res.seq_inv
    | with_reducible apply Res.seqR_inv
    | with_reducible apply Res.hold_inv
    | with_reducible apply Res.park_inv
    | with_reducible apply Res.trap_inv
    | with_reducible apply Res.jump_inv
    | split
    | (intro _)
    | dsimp only
    | grind [State.mk_inv, State.Inv.mem, State.Inv.threads, State.Inv.units, State.Inv.hub, Hub.mk_inv, HubInv.launches, TUnit.mk_inv, TUnit.Inv.scr, TUnit.Inv.obuf, TUnit.Inv.gangs, Launch.mk_inv, Launch.Inv.desc, OutInv_next, OutInv_fault, collBody_inv, run_inv, Res.seq_inv, Res.seqR_inv, Res.hold_inv, Res.park_inv, Res.trap_inv, Res.jump_inv, ResInv.seq, ResInv.seqR, ResInv.hold, ResInv.park, ResInv.trap, ResInv.jump]

theorem execShfa_inv (o : OpX) (s : State) (h_s : State.Inv s) : OutInv (execShfa o s) := by
  unfold execShfa; try intros
  repeat' first
    | with_reducible assumption
    | (with_reducible refine foldl_inv ?_ _ _ ?_ <;> intros)
    | with_reducible apply OutInv_next
    | with_reducible apply OutInv_fault
    | with_reducible apply collBody_inv
    | with_reducible apply run_inv
    | with_reducible apply Res.seq_inv
    | with_reducible apply Res.seqR_inv
    | with_reducible apply Res.hold_inv
    | with_reducible apply Res.park_inv
    | with_reducible apply Res.trap_inv
    | with_reducible apply Res.jump_inv
    | split
    | (intro _)
    | dsimp only
    | grind [State.mk_inv, State.Inv.mem, State.Inv.threads, State.Inv.units, State.Inv.hub, Hub.mk_inv, HubInv.launches, TUnit.mk_inv, TUnit.Inv.scr, TUnit.Inv.obuf, TUnit.Inv.gangs, Launch.mk_inv, Launch.Inv.desc, OutInv_next, OutInv_fault, collBody_inv, run_inv, Res.seq_inv, Res.seqR_inv, Res.hold_inv, Res.park_inv, Res.trap_inv, Res.jump_inv, ResInv.seq, ResInv.seqR, ResInv.hold, ResInv.park, ResInv.trap, ResInv.jump]

theorem execShfb_inv (o : OpX) (s : State) (h_s : State.Inv s) : OutInv (execShfb o s) := by
  unfold execShfb; try intros
  repeat' first
    | with_reducible assumption
    | (with_reducible refine foldl_inv ?_ _ _ ?_ <;> intros)
    | with_reducible apply OutInv_next
    | with_reducible apply OutInv_fault
    | with_reducible apply collBody_inv
    | with_reducible apply run_inv
    | with_reducible apply Res.seq_inv
    | with_reducible apply Res.seqR_inv
    | with_reducible apply Res.hold_inv
    | with_reducible apply Res.park_inv
    | with_reducible apply Res.trap_inv
    | with_reducible apply Res.jump_inv
    | split
    | (intro _)
    | dsimp only
    | grind [State.mk_inv, State.Inv.mem, State.Inv.threads, State.Inv.units, State.Inv.hub, Hub.mk_inv, HubInv.launches, TUnit.mk_inv, TUnit.Inv.scr, TUnit.Inv.obuf, TUnit.Inv.gangs, Launch.mk_inv, Launch.Inv.desc, OutInv_next, OutInv_fault, collBody_inv, run_inv, Res.seq_inv, Res.seqR_inv, Res.hold_inv, Res.park_inv, Res.trap_inv, Res.jump_inv, ResInv.seq, ResInv.seqR, ResInv.hold, ResInv.park, ResInv.trap, ResInv.jump]

theorem execShfx_inv (o : OpX) (s : State) (h_s : State.Inv s) : OutInv (execShfx o s) := by
  unfold execShfx; try intros
  repeat' first
    | with_reducible assumption
    | (with_reducible refine foldl_inv ?_ _ _ ?_ <;> intros)
    | with_reducible apply OutInv_next
    | with_reducible apply OutInv_fault
    | with_reducible apply collBody_inv
    | with_reducible apply run_inv
    | with_reducible apply Res.seq_inv
    | with_reducible apply Res.seqR_inv
    | with_reducible apply Res.hold_inv
    | with_reducible apply Res.park_inv
    | with_reducible apply Res.trap_inv
    | with_reducible apply Res.jump_inv
    | split
    | (intro _)
    | dsimp only
    | grind [State.mk_inv, State.Inv.mem, State.Inv.threads, State.Inv.units, State.Inv.hub, Hub.mk_inv, HubInv.launches, TUnit.mk_inv, TUnit.Inv.scr, TUnit.Inv.obuf, TUnit.Inv.gangs, Launch.mk_inv, Launch.Inv.desc, OutInv_next, OutInv_fault, collBody_inv, run_inv, Res.seq_inv, Res.seqR_inv, Res.hold_inv, Res.park_inv, Res.trap_inv, Res.jump_inv, ResInv.seq, ResInv.seqR, ResInv.hold, ResInv.park, ResInv.trap, ResInv.jump]

theorem execRadd_inv (o : OpX) (s : State) (h_s : State.Inv s) : OutInv (execRadd o s) := by
  unfold execRadd; try intros
  repeat' first
    | with_reducible assumption
    | (with_reducible refine foldl_inv ?_ _ _ ?_ <;> intros)
    | with_reducible apply OutInv_next
    | with_reducible apply OutInv_fault
    | with_reducible apply collBody_inv
    | with_reducible apply run_inv
    | with_reducible apply Res.seq_inv
    | with_reducible apply Res.seqR_inv
    | with_reducible apply Res.hold_inv
    | with_reducible apply Res.park_inv
    | with_reducible apply Res.trap_inv
    | with_reducible apply Res.jump_inv
    | split
    | (intro _)
    | dsimp only
    | grind [State.mk_inv, State.Inv.mem, State.Inv.threads, State.Inv.units, State.Inv.hub, Hub.mk_inv, HubInv.launches, TUnit.mk_inv, TUnit.Inv.scr, TUnit.Inv.obuf, TUnit.Inv.gangs, Launch.mk_inv, Launch.Inv.desc, OutInv_next, OutInv_fault, collBody_inv, run_inv, Res.seq_inv, Res.seqR_inv, Res.hold_inv, Res.park_inv, Res.trap_inv, Res.jump_inv, ResInv.seq, ResInv.seqR, ResInv.hold, ResInv.park, ResInv.trap, ResInv.jump]

theorem execRminS_inv (o : OpX) (s : State) (h_s : State.Inv s) : OutInv (execRminS o s) := by
  unfold execRminS; try intros
  repeat' first
    | with_reducible assumption
    | (with_reducible refine foldl_inv ?_ _ _ ?_ <;> intros)
    | with_reducible apply OutInv_next
    | with_reducible apply OutInv_fault
    | with_reducible apply collBody_inv
    | with_reducible apply run_inv
    | with_reducible apply Res.seq_inv
    | with_reducible apply Res.seqR_inv
    | with_reducible apply Res.hold_inv
    | with_reducible apply Res.park_inv
    | with_reducible apply Res.trap_inv
    | with_reducible apply Res.jump_inv
    | split
    | (intro _)
    | dsimp only
    | grind [State.mk_inv, State.Inv.mem, State.Inv.threads, State.Inv.units, State.Inv.hub, Hub.mk_inv, HubInv.launches, TUnit.mk_inv, TUnit.Inv.scr, TUnit.Inv.obuf, TUnit.Inv.gangs, Launch.mk_inv, Launch.Inv.desc, OutInv_next, OutInv_fault, collBody_inv, run_inv, Res.seq_inv, Res.seqR_inv, Res.hold_inv, Res.park_inv, Res.trap_inv, Res.jump_inv, ResInv.seq, ResInv.seqR, ResInv.hold, ResInv.park, ResInv.trap, ResInv.jump]

theorem execRmaxS_inv (o : OpX) (s : State) (h_s : State.Inv s) : OutInv (execRmaxS o s) := by
  unfold execRmaxS; try intros
  repeat' first
    | with_reducible assumption
    | (with_reducible refine foldl_inv ?_ _ _ ?_ <;> intros)
    | with_reducible apply OutInv_next
    | with_reducible apply OutInv_fault
    | with_reducible apply collBody_inv
    | with_reducible apply run_inv
    | with_reducible apply Res.seq_inv
    | with_reducible apply Res.seqR_inv
    | with_reducible apply Res.hold_inv
    | with_reducible apply Res.park_inv
    | with_reducible apply Res.trap_inv
    | with_reducible apply Res.jump_inv
    | split
    | (intro _)
    | dsimp only
    | grind [State.mk_inv, State.Inv.mem, State.Inv.threads, State.Inv.units, State.Inv.hub, Hub.mk_inv, HubInv.launches, TUnit.mk_inv, TUnit.Inv.scr, TUnit.Inv.obuf, TUnit.Inv.gangs, Launch.mk_inv, Launch.Inv.desc, OutInv_next, OutInv_fault, collBody_inv, run_inv, Res.seq_inv, Res.seqR_inv, Res.hold_inv, Res.park_inv, Res.trap_inv, Res.jump_inv, ResInv.seq, ResInv.seqR, ResInv.hold, ResInv.park, ResInv.trap, ResInv.jump]

theorem execRfadd_inv (o : OpX) (s : State) (h_s : State.Inv s) : OutInv (execRfadd o s) := by
  unfold execRfadd; try intros
  repeat' first
    | with_reducible assumption
    | (with_reducible refine foldl_inv ?_ _ _ ?_ <;> intros)
    | with_reducible apply OutInv_next
    | with_reducible apply OutInv_fault
    | with_reducible apply collBody_inv
    | with_reducible apply run_inv
    | with_reducible apply Res.seq_inv
    | with_reducible apply Res.seqR_inv
    | with_reducible apply Res.hold_inv
    | with_reducible apply Res.park_inv
    | with_reducible apply Res.trap_inv
    | with_reducible apply Res.jump_inv
    | split
    | (intro _)
    | dsimp only
    | grind [State.mk_inv, State.Inv.mem, State.Inv.threads, State.Inv.units, State.Inv.hub, Hub.mk_inv, HubInv.launches, TUnit.mk_inv, TUnit.Inv.scr, TUnit.Inv.obuf, TUnit.Inv.gangs, Launch.mk_inv, Launch.Inv.desc, OutInv_next, OutInv_fault, collBody_inv, run_inv, Res.seq_inv, Res.seqR_inv, Res.hold_inv, Res.park_inv, Res.trap_inv, Res.jump_inv, ResInv.seq, ResInv.seqR, ResInv.hold, ResInv.park, ResInv.trap, ResInv.jump]

theorem execRdadd_inv (o : OpX) (s : State) (h_s : State.Inv s) : OutInv (execRdadd o s) := by
  unfold execRdadd; try intros
  repeat' first
    | with_reducible assumption
    | (with_reducible refine foldl_inv ?_ _ _ ?_ <;> intros)
    | with_reducible apply OutInv_next
    | with_reducible apply OutInv_fault
    | with_reducible apply collBody_inv
    | with_reducible apply run_inv
    | with_reducible apply Res.seq_inv
    | with_reducible apply Res.seqR_inv
    | with_reducible apply Res.hold_inv
    | with_reducible apply Res.park_inv
    | with_reducible apply Res.trap_inv
    | with_reducible apply Res.jump_inv
    | split
    | (intro _)
    | dsimp only
    | grind [State.mk_inv, State.Inv.mem, State.Inv.threads, State.Inv.units, State.Inv.hub, Hub.mk_inv, HubInv.launches, TUnit.mk_inv, TUnit.Inv.scr, TUnit.Inv.obuf, TUnit.Inv.gangs, Launch.mk_inv, Launch.Inv.desc, OutInv_next, OutInv_fault, collBody_inv, run_inv, Res.seq_inv, Res.seqR_inv, Res.hold_inv, Res.park_inv, Res.trap_inv, Res.jump_inv, ResInv.seq, ResInv.seqR, ResInv.hold, ResInv.park, ResInv.trap, ResInv.jump]

theorem execScan_inv (o : OpX) (s : State) (h_s : State.Inv s) : OutInv (execScan o s) := by
  unfold execScan; try intros
  repeat' first
    | with_reducible assumption
    | (with_reducible refine foldl_inv ?_ _ _ ?_ <;> intros)
    | with_reducible apply OutInv_next
    | with_reducible apply OutInv_fault
    | with_reducible apply collBody_inv
    | with_reducible apply run_inv
    | with_reducible apply Res.seq_inv
    | with_reducible apply Res.seqR_inv
    | with_reducible apply Res.hold_inv
    | with_reducible apply Res.park_inv
    | with_reducible apply Res.trap_inv
    | with_reducible apply Res.jump_inv
    | split
    | (intro _)
    | dsimp only
    | grind [State.mk_inv, State.Inv.mem, State.Inv.threads, State.Inv.units, State.Inv.hub, Hub.mk_inv, HubInv.launches, TUnit.mk_inv, TUnit.Inv.scr, TUnit.Inv.obuf, TUnit.Inv.gangs, Launch.mk_inv, Launch.Inv.desc, OutInv_next, OutInv_fault, collBody_inv, run_inv, Res.seq_inv, Res.seqR_inv, Res.hold_inv, Res.park_inv, Res.trap_inv, Res.jump_inv, ResInv.seq, ResInv.seqR, ResInv.hold, ResInv.park, ResInv.trap, ResInv.jump]

theorem execMatchOp_inv (o : OpX) (s : State) (h_s : State.Inv s) : OutInv (execMatchOp o s) := by
  unfold execMatchOp; try intros
  repeat' first
    | with_reducible assumption
    | (with_reducible refine foldl_inv ?_ _ _ ?_ <;> intros)
    | with_reducible apply OutInv_next
    | with_reducible apply OutInv_fault
    | with_reducible apply collBody_inv
    | with_reducible apply run_inv
    | with_reducible apply Res.seq_inv
    | with_reducible apply Res.seqR_inv
    | with_reducible apply Res.hold_inv
    | with_reducible apply Res.park_inv
    | with_reducible apply Res.trap_inv
    | with_reducible apply Res.jump_inv
    | split
    | (intro _)
    | dsimp only
    | grind [State.mk_inv, State.Inv.mem, State.Inv.threads, State.Inv.units, State.Inv.hub, Hub.mk_inv, HubInv.launches, TUnit.mk_inv, TUnit.Inv.scr, TUnit.Inv.obuf, TUnit.Inv.gangs, Launch.mk_inv, Launch.Inv.desc, OutInv_next, OutInv_fault, collBody_inv, run_inv, Res.seq_inv, Res.seqR_inv, Res.hold_inv, Res.park_inv, Res.trap_inv, Res.jump_inv, ResInv.seq, ResInv.seqR, ResInv.hold, ResInv.park, ResInv.trap, ResInv.jump]

theorem execGpart_inv (o : OpA) (s : State) (h_s : State.Inv s) : OutInv (execGpart o s) := by
  unfold execGpart; try intros
  repeat' first
    | with_reducible assumption
    | (with_reducible refine foldl_inv ?_ _ _ ?_ <;> intros)
    | with_reducible apply OutInv_next
    | with_reducible apply OutInv_fault
    | with_reducible apply arrive_inv
    | with_reducible apply run_inv
    | with_reducible apply Res.seq_inv
    | with_reducible apply Res.seqR_inv
    | with_reducible apply Res.hold_inv
    | with_reducible apply Res.park_inv
    | with_reducible apply Res.trap_inv
    | with_reducible apply Res.jump_inv
    | split
    | (intro _)
    | dsimp only
    | grind [State.mk_inv, State.Inv.mem, State.Inv.threads, State.Inv.units, State.Inv.hub, Hub.mk_inv, HubInv.launches, TUnit.mk_inv, TUnit.Inv.scr, TUnit.Inv.obuf, TUnit.Inv.gangs, Launch.mk_inv, Launch.Inv.desc, OutInv_next, OutInv_fault, arrive_inv, run_inv, Res.seq_inv, Res.seqR_inv, Res.hold_inv, Res.park_inv, Res.trap_inv, Res.jump_inv, ResInv.seq, ResInv.seqR, ResInv.hold, ResInv.park, ResInv.trap, ResInv.jump]

theorem State.grpRelease_inv (s : State) (tk : Nat) (t : Thread) (h_s : State.Inv s) : State.Inv (State.grpRelease s tk t) := by
  unfold State.grpRelease; grind [State.mk_inv, State.Inv.mem, State.Inv.threads, State.Inv.units, State.Inv.hub, Hub.mk_inv, HubInv.launches, TUnit.mk_inv, TUnit.Inv.scr, TUnit.Inv.obuf, TUnit.Inv.gangs, Launch.mk_inv, Launch.Inv.desc, OutInv_next, OutInv_fault, State.settle_inv]

theorem barArrive_inv (slot : Nat) (tk : Nat) (t : Thread) (s : State) (k : State → Res) (h_s : State.Inv s) (h_k : ∀ x0, State.Inv x0 → ResInv (k x0)) : ResInv (barArrive slot tk t s k) := by
  unfold barArrive; grind [State.mk_inv, State.Inv.mem, State.Inv.threads, State.Inv.units, State.Inv.hub, Hub.mk_inv, HubInv.launches, TUnit.mk_inv, TUnit.Inv.scr, TUnit.Inv.obuf, TUnit.Inv.gangs, Launch.mk_inv, Launch.Inv.desc, OutInv_next, OutInv_fault, State.checkRound_inv, State.grpRelease_inv, State.modThread_inv, State.modUnit_inv, afterOut_inv, Thread.mk_inv, Thread.Inv.pc, Thread.Inv.rpc, Thread.Inv.loops, Thread.Inv.shadowLoops, Thread.Inv.cd, Thread.Inv.hd, Thread.Inv.shadowCd, Thread.Inv.shadowHd, loopsOk_nil, Thread.pw_inv, evenAddr_add, evenAddr_ofN, evenAddr_two, evenAddr_four, Res.seq_inv, Res.seqR_inv, Res.hold_inv, Res.park_inv, Res.trap_inv, Res.jump_inv, ResInv.seq, ResInv.seqR, ResInv.hold, ResInv.park, ResInv.trap, ResInv.jump]

theorem barWait_inv (slot : Nat) (tk : Nat) (s : State) (k : State → Res) (h_s : State.Inv s) (h_k : ∀ x0, State.Inv x0 → ResInv (k x0)) : ResInv (barWait slot tk s k) := by
  unfold barWait; grind [State.mk_inv, State.Inv.mem, State.Inv.threads, State.Inv.units, State.Inv.hub, Hub.mk_inv, HubInv.launches, TUnit.mk_inv, TUnit.Inv.scr, TUnit.Inv.obuf, TUnit.Inv.gangs, Launch.mk_inv, Launch.Inv.desc, OutInv_next, OutInv_fault, State.acquire_inv, State.modThread_inv, State.thread?_inv, Thread.dropPrefetched_inv, Thread.mk_inv, Thread.Inv.pc, Thread.Inv.rpc, Thread.Inv.loops, Thread.Inv.shadowLoops, Thread.Inv.cd, Thread.Inv.hd, Thread.Inv.shadowCd, Thread.Inv.shadowHd, loopsOk_nil, Thread.pw_inv, evenAddr_add, evenAddr_ofN, evenAddr_two, evenAddr_four, Res.seq_inv, Res.seqR_inv, Res.hold_inv, Res.park_inv, Res.trap_inv, Res.jump_inv, ResInv.seq, ResInv.seqR, ResInv.hold, ResInv.park, ResInv.trap, ResInv.jump, Fetch.ok_inv, Fetch.trap_inv, Fetch.fault_inv, FetchInv.ok, FetchInv.trap, FetchInv.fault, FetchWord.ok_inv, FetchWord.trap_inv, FetchWord.fault_inv, FetchWordInv.ok, FetchWordInv.trap, FetchWordInv.fault]

theorem execBarInit_inv (o : OpI 16) (s : State) (h_s : State.Inv s) : OutInv (execBarInit o s) := by
  unfold execBarInit; try intros
  repeat' first
    | with_reducible assumption
    | (with_reducible refine foldl_inv ?_ _ _ ?_ <;> intros)
    | with_reducible apply OutInv_next
    | with_reducible apply OutInv_fault
    | with_reducible apply State.checkRound_inv
    | with_reducible apply State.setUnit_inv
    | with_reducible apply run_inv
    | with_reducible apply Res.seq_inv
    | with_reducible apply Res.seqR_inv
    | with_reducible apply Res.hold_inv
    | with_reducible apply Res.park_inv
    | with_reducible apply Res.trap_inv
    | with_reducible apply Res.jump_inv
    | split
    | (intro _)
    | dsimp only
    | grind [State.mk_inv, State.Inv.mem, State.Inv.threads, State.Inv.units, State.Inv.hub, Hub.mk_inv, HubInv.launches, TUnit.mk_inv, TUnit.Inv.scr, TUnit.Inv.obuf, TUnit.Inv.gangs, Launch.mk_inv, Launch.Inv.desc, OutInv_next, OutInv_fault, State.checkRound_inv, State.setUnit_inv, State.unit?_inv, run_inv, Res.seq_inv, Res.seqR_inv, Res.hold_inv, Res.park_inv, Res.trap_inv, Res.jump_inv, ResInv.seq, ResInv.seqR, ResInv.hold, ResInv.park, ResInv.trap, ResInv.jump]

theorem execBarArr_inv (o : OpS 16) (s : State) (h_s : State.Inv s) : OutInv (execBarArr o s) := by
  unfold execBarArr; try intros
  repeat' first
    | with_reducible assumption
    | (with_reducible refine foldl_inv ?_ _ _ ?_ <;> intros)
    | with_reducible apply OutInv_next
    | with_reducible apply OutInv_fault
    | with_reducible apply barArrive_inv
    | with_reducible apply run_inv
    | with_reducible apply Res.seq_inv
    | with_reducible apply Res.seqR_inv
    | with_reducible apply Res.hold_inv
    | with_reducible apply Res.park_inv
    | with_reducible apply Res.trap_inv
    | with_reducible apply Res.jump_inv
    | split
    | (intro _)
    | dsimp only
    | grind [State.mk_inv, State.Inv.mem, State.Inv.threads, State.Inv.units, State.Inv.hub, Hub.mk_inv, HubInv.launches, TUnit.mk_inv, TUnit.Inv.scr, TUnit.Inv.obuf, TUnit.Inv.gangs, Launch.mk_inv, Launch.Inv.desc, OutInv_next, OutInv_fault, barArrive_inv, run_inv, Res.seq_inv, Res.seqR_inv, Res.hold_inv, Res.park_inv, Res.trap_inv, Res.jump_inv, ResInv.seq, ResInv.seqR, ResInv.hold, ResInv.park, ResInv.trap, ResInv.jump]

theorem execBarWait_inv (o : OpS 16) (s : State) (h_s : State.Inv s) : OutInv (execBarWait o s) := by
  unfold execBarWait; try intros
  repeat' first
    | with_reducible assumption
    | (with_reducible refine foldl_inv ?_ _ _ ?_ <;> intros)
    | with_reducible apply OutInv_next
    | with_reducible apply OutInv_fault
    | with_reducible apply barWait_inv
    | with_reducible apply run_inv
    | with_reducible apply Res.seq_inv
    | with_reducible apply Res.seqR_inv
    | with_reducible apply Res.hold_inv
    | with_reducible apply Res.park_inv
    | with_reducible apply Res.trap_inv
    | with_reducible apply Res.jump_inv
    | split
    | (intro _)
    | dsimp only
    | grind [State.mk_inv, State.Inv.mem, State.Inv.threads, State.Inv.units, State.Inv.hub, Hub.mk_inv, HubInv.launches, TUnit.mk_inv, TUnit.Inv.scr, TUnit.Inv.obuf, TUnit.Inv.gangs, Launch.mk_inv, Launch.Inv.desc, OutInv_next, OutInv_fault, barWait_inv, run_inv, Res.seq_inv, Res.seqR_inv, Res.hold_inv, Res.park_inv, Res.trap_inv, Res.jump_inv, ResInv.seq, ResInv.seqR, ResInv.hold, ResInv.park, ResInv.trap, ResInv.jump]

theorem execBarSync_inv (o : OpS 16) (s : State) (h_s : State.Inv s) : OutInv (execBarSync o s) := by
  unfold execBarSync; try intros
  repeat' first
    | with_reducible assumption
    | (with_reducible refine foldl_inv ?_ _ _ ?_ <;> intros)
    | with_reducible apply OutInv_next
    | with_reducible apply OutInv_fault
    | with_reducible apply State.modThread_inv
    | with_reducible apply Thread.startRegion_inv
    | with_reducible apply barArrive_inv
    | with_reducible apply barWait_inv
    | with_reducible apply run_inv
    | with_reducible apply Thread.pw_inv
    | with_reducible apply Res.seq_inv
    | with_reducible apply Res.seqR_inv
    | with_reducible apply Res.hold_inv
    | with_reducible apply Res.park_inv
    | with_reducible apply Res.trap_inv
    | with_reducible apply Res.jump_inv
    | split
    | (intro _)
    | dsimp only
    | grind [State.mk_inv, State.Inv.mem, State.Inv.threads, State.Inv.units, State.Inv.hub, Hub.mk_inv, HubInv.launches, TUnit.mk_inv, TUnit.Inv.scr, TUnit.Inv.obuf, TUnit.Inv.gangs, Launch.mk_inv, Launch.Inv.desc, OutInv_next, OutInv_fault, State.modThread_inv, Thread.startRegion_inv, barArrive_inv, barWait_inv, run_inv, Thread.mk_inv, Thread.Inv.pc, Thread.Inv.rpc, Thread.Inv.loops, Thread.Inv.shadowLoops, Thread.Inv.cd, Thread.Inv.hd, Thread.Inv.shadowCd, Thread.Inv.shadowHd, loopsOk_nil, Thread.pw_inv, evenAddr_add, evenAddr_ofN, evenAddr_two, evenAddr_four, Res.seq_inv, Res.seqR_inv, Res.hold_inv, Res.park_inv, Res.trap_inv, Res.jump_inv, ResInv.seq, ResInv.seqR, ResInv.hold, ResInv.park, ResInv.trap, ResInv.jump]

end Sys2Proof.Machine
end

