-- ==== Sys2Proof/Laws/KeptCards.lean ====
section
/-! SUPPORT. That every operation of Machine/Cards.lean keeps the invariant State.Inv. -/

namespace Sys2Proof.Machine

theorem State.fillLine_inv (s : State) (ck : Nat) (line : Loc) (bs : List Byte) (h_s : State.Inv s) : State.Inv (State.fillLine s ck line bs) := by
  unfold State.fillLine; grind [State.mk_inv, State.Inv.mem, State.Inv.threads, State.Inv.units, State.Inv.hub, Hub.mk_inv, HubInv.launches, TUnit.mk_inv, TUnit.Inv.scr, TUnit.Inv.obuf, TUnit.Inv.gangs, Launch.mk_inv, Launch.Inv.desc, OutInv_next, OutInv_fault, State.modCore_inv, AMap.All.filter]

theorem State.readNow_inv (s : State) (tk : Nat) (t : Thread) (l : Loc) (n : Nat) (h_s : State.Inv s) : State.Inv ((State.readNow s tk t l n)).2 := by
  unfold State.readNow; grind [State.mk_inv, State.Inv.mem, State.Inv.threads, State.Inv.units, State.Inv.hub, Hub.mk_inv, HubInv.launches, TUnit.mk_inv, TUnit.Inv.scr, TUnit.Inv.obuf, TUnit.Inv.gangs, Launch.mk_inv, Launch.Inv.desc, OutInv_next, OutInv_fault, State.fillLine_inv, State.markSeen_inv, State.sendEntry_inv, State.takeSeq_inv]

theorem readLocs_inv (tk : Nat) (t : Thread)  : ∀ x0 x1 x2 x3, State.Inv x2 → (∀ x0 x1, State.Inv x1 → ResInv (x3 x0 x1)) → ResInv ((readLocs tk t) x0 x1 x2 x3) := by
  intro x0 x1 x2 x3 h_x2 h_x3
  fun_induction readLocs tk t x0 x1 x2 x3 <;> grind [State.mk_inv, State.Inv.mem, State.Inv.threads, State.Inv.units, State.Inv.hub, Hub.mk_inv, HubInv.launches, TUnit.mk_inv, TUnit.Inv.scr, TUnit.Inv.obuf, TUnit.Inv.gangs, Launch.mk_inv, Launch.Inv.desc, OutInv_next, OutInv_fault, State.logThread_inv, State.readNow_inv, Thread.mk_inv, Thread.Inv.pc, Thread.Inv.rpc, Thread.Inv.loops, Thread.Inv.shadowLoops, Thread.Inv.cd, Thread.Inv.hd, Thread.Inv.shadowCd, Thread.Inv.shadowHd, loopsOk_nil, Thread.pw_inv, evenAddr_add, evenAddr_ofN, evenAddr_two, evenAddr_four, Res.seq_inv, Res.seqR_inv, Res.hold_inv, Res.park_inv, Res.trap_inv, Res.jump_inv, ResInv.seq, ResInv.seqR, ResInv.hold, ResInv.park, ResInv.trap, ResInv.jump]

theorem checkWords_inv (tk : Nat) (t : Thread)  : ∀ x0 x1 x2 x3 x4, State.Inv x3 → (∀ x0 x1, State.Inv x1 → ResInv (x4 x0 x1)) → ResInv ((checkWords tk t) x0 x1 x2 x3 x4) := by
  intro x0 x1 x2 x3 x4 h_x3 h_x4
  fun_induction checkWords tk t x0 x1 x2 x3 x4 <;> grind [State.mk_inv, State.Inv.mem, State.Inv.threads, State.Inv.units, State.Inv.hub, Hub.mk_inv, HubInv.launches, TUnit.mk_inv, TUnit.Inv.scr, TUnit.Inv.obuf, TUnit.Inv.gangs, Launch.mk_inv, Launch.Inv.desc, OutInv_next, OutInv_fault, placeAccess_inv, Res.seq_inv, Res.seqR_inv, Res.hold_inv, Res.park_inv, Res.trap_inv, Res.jump_inv, ResInv.seq, ResInv.seqR, ResInv.hold, ResInv.park, ResInv.trap, ResInv.jump]

theorem watchWords_inv (t : Thread)  : ∀ x0 x1 x2, State.Inv x1 → (∀ x0, State.Inv x0 → ResInv (x2 x0)) → ResInv ((watchWords t) x0 x1 x2) := by
  intro x0 x1 x2 h_x1 h_x2
  fun_induction watchWords t x0 x1 x2 <;> grind [State.mk_inv, State.Inv.mem, State.Inv.threads, State.Inv.units, State.Inv.hub, Hub.mk_inv, HubInv.launches, TUnit.mk_inv, TUnit.Inv.scr, TUnit.Inv.obuf, TUnit.Inv.gangs, Launch.mk_inv, Launch.Inv.desc, OutInv_next, OutInv_fault, watchedAccess_inv, Res.seq_inv, Res.seqR_inv, Res.hold_inv, Res.park_inv, Res.trap_inv, Res.jump_inv, ResInv.seq, ResInv.seqR, ResInv.hold, ResInv.park, ResInv.trap, ResInv.jump]

theorem readWords_inv (tk : Nat) (t : Thread) (n : Nat) (va : Word) (bs : List Byte) (s : State) (k : List Byte → State → Res) (h_s : State.Inv s) (h_k : ∀ x0 x1, State.Inv x1 → ResInv (k x0 x1)) : ResInv (readWords tk t n va bs s k) := by
  unfold readWords; try intros
  repeat' first
    | with_reducible assumption
    | (with_reducible refine foldl_inv ?_ _ _ ?_ <;> intros)
    | with_reducible apply OutInv_next
    | with_reducible apply OutInv_fault
    | with_reducible apply checkWords_inv
    | with_reducible apply readLocs_inv
    | with_reducible apply watchWords_inv
    | with_reducible apply Res.seq_inv
    | with_reducible apply Res.seqR_inv
    | with_reducible apply Res.hold_inv
    | with_reducible apply Res.park_inv
    | with_reducible apply Res.trap_inv
    | with_reducible apply Res.jump_inv
    | split
    | (intro _)
    | dsimp only
    | grind [State.mk_inv, State.Inv.mem, State.Inv.threads, State.Inv.units, State.Inv.hub, Hub.mk_inv, HubInv.launches, TUnit.mk_inv, TUnit.Inv.scr, TUnit.Inv.obuf, TUnit.Inv.gangs, Launch.mk_inv, Launch.Inv.desc, OutInv_next, OutInv_fault, checkWords_inv, readLocs_inv, watchWords_inv, Res.seq_inv, Res.seqR_inv, Res.hold_inv, Res.park_inv, Res.trap_inv, Res.jump_inv, ResInv.seq, ResInv.seqR, ResInv.hold, ResInv.park, ResInv.trap, ResInv.jump]

theorem readCard_inv (tk : Nat) (t : Thread) (n : Nat) (va : Word) (s : State) (k : List Byte → State → Res) (h_s : State.Inv s) (h_k : ∀ x0 x1, State.Inv x1 → ResInv (k x0 x1)) : ResInv (readCard tk t n va s k) := by
  unfold readCard; grind [State.mk_inv, State.Inv.mem, State.Inv.threads, State.Inv.units, State.Inv.hub, Hub.mk_inv, HubInv.launches, TUnit.mk_inv, TUnit.Inv.scr, TUnit.Inv.obuf, TUnit.Inv.gangs, Launch.mk_inv, Launch.Inv.desc, OutInv_next, OutInv_fault, afterOut_inv, readWords_inv, Res.seq_inv, Res.seqR_inv, Res.hold_inv, Res.park_inv, Res.trap_inv, Res.jump_inv, ResInv.seq, ResInv.seqR, ResInv.hold, ResInv.park, ResInv.trap, ResInv.jump]

theorem plainStore_inv (tk : Nat) (t : Thread) (va : Word) (bs : List Byte) (s : State) (k : State → Res) (h_s : State.Inv s) (h_k : ∀ x0, State.Inv x0 → ResInv (k x0)) : ResInv (plainStore tk t va bs s k) := by
  unfold plainStore; grind [State.mk_inv, State.Inv.mem, State.Inv.threads, State.Inv.units, State.Inv.hub, Hub.mk_inv, HubInv.launches, TUnit.mk_inv, TUnit.Inv.scr, TUnit.Inv.obuf, TUnit.Inv.gangs, Launch.mk_inv, Launch.Inv.desc, OutInv_next, OutInv_fault, State.issueWrite_inv, State.restorePorts_inv, checkedAccess_inv, Res.seq_inv, Res.seqR_inv, Res.hold_inv, Res.park_inv, Res.trap_inv, Res.jump_inv, ResInv.seq, ResInv.seqR, ResInv.hold, ResInv.park, ResInv.trap, ResInv.jump, Issue.run_inv, Issue.done_inv, IssueInv.run, IssueInv.done]

theorem writeBack_inv (tk : Nat) (t : Thread) (b : Option PortBind) (s : State) (k : State → Res) (h_s : State.Inv s) (h_k : ∀ x0, State.Inv x0 → ResInv (k x0)) : ResInv (writeBack tk t b s k) := by
  unfold writeBack; grind [State.mk_inv, State.Inv.mem, State.Inv.threads, State.Inv.units, State.Inv.hub, Hub.mk_inv, HubInv.launches, TUnit.mk_inv, TUnit.Inv.scr, TUnit.Inv.obuf, TUnit.Inv.gangs, Launch.mk_inv, Launch.Inv.desc, OutInv_next, OutInv_fault, plainStore_inv, Res.seq_inv, Res.seqR_inv, Res.hold_inv, Res.park_inv, Res.trap_inv, Res.jump_inv, ResInv.seq, ResInv.seqR, ResInv.hold, ResInv.park, ResInv.trap, ResInv.jump]

theorem State.bindPort_inv (s : State) (tk : Nat) (k : Nat) (b : Option PortBind) (h_s : State.Inv s) : State.Inv (State.bindPort s tk k b) := by
  unfold State.bindPort; grind [State.mk_inv, State.Inv.mem, State.Inv.threads, State.Inv.units, State.Inv.hub, Hub.mk_inv, HubInv.launches, TUnit.mk_inv, TUnit.Inv.scr, TUnit.Inv.obuf, TUnit.Inv.gangs, Launch.mk_inv, Launch.Inv.desc, OutInv_next, OutInv_fault, State.modThread_inv, Thread.mk_inv, Thread.Inv.pc, Thread.Inv.rpc, Thread.Inv.loops, Thread.Inv.shadowLoops, Thread.Inv.cd, Thread.Inv.hd, Thread.Inv.shadowCd, Thread.Inv.shadowHd, loopsOk_nil, Thread.pw_inv, evenAddr_add, evenAddr_ofN, evenAddr_two, evenAddr_four]

theorem execStrm_inv (o : OpI 4) (s : State) (h_s : State.Inv s) : OutInv (execStrm o s) := by
  unfold execStrm; try intros
  repeat' first
    | with_reducible assumption
    | (with_reducible refine foldl_inv ?_ _ _ ?_ <;> intros)
    | with_reducible apply OutInv_next
    | with_reducible apply OutInv_fault
    | with_reducible apply State.bindPort_inv
    | with_reducible apply afterOut_inv
    | with_reducible apply readCard_inv
    | with_reducible apply run_inv
    | with_reducible apply writeBack_inv
    | with_reducible apply Res.seq_inv
    | with_reducible apply Res.seqR_inv
    | with_reducible apply Res.hold_inv
    | with_reducible apply Res.park_inv
    | with_reducible apply Res.trap_inv
    | with_reducible apply Res.jump_inv
    | split
    | (intro _)
    | dsimp only
    | grind [State.mk_inv, State.Inv.mem, State.Inv.threads, State.Inv.units, State.Inv.hub, Hub.mk_inv, HubInv.launches, TUnit.mk_inv, TUnit.Inv.scr, TUnit.Inv.obuf, TUnit.Inv.gangs, Launch.mk_inv, Launch.Inv.desc, OutInv_next, OutInv_fault, State.bindPort_inv, State.thread?_inv, afterOut_inv, readCard_inv, run_inv, writeBack_inv, Res.seq_inv, Res.seqR_inv, Res.hold_inv, Res.park_inv, Res.trap_inv, Res.jump_inv, ResInv.seq, ResInv.seqR, ResInv.hold, ResInv.park, ResInv.trap, ResInv.jump]

theorem checkDst_inv (tk : Nat) (d : Dst) (s : State) (k : State → Res) (h_s : State.Inv s) (h_k : ∀ x0, State.Inv x0 → ResInv (k x0)) : ResInv (checkDst tk d s k) := by
  unfold checkDst; grind [State.mk_inv, State.Inv.mem, State.Inv.threads, State.Inv.units, State.Inv.hub, Hub.mk_inv, HubInv.launches, TUnit.mk_inv, TUnit.Inv.scr, TUnit.Inv.obuf, TUnit.Inv.gangs, Launch.mk_inv, Launch.Inv.desc, OutInv_next, OutInv_fault, State.thread?_inv, Thread.mk_inv, Thread.Inv.pc, Thread.Inv.rpc, Thread.Inv.loops, Thread.Inv.shadowLoops, Thread.Inv.cd, Thread.Inv.hd, Thread.Inv.shadowCd, Thread.Inv.shadowHd, loopsOk_nil, Thread.pw_inv, evenAddr_add, evenAddr_ofN, evenAddr_two, evenAddr_four, Res.seq_inv, Res.seqR_inv, Res.hold_inv, Res.park_inv, Res.trap_inv, Res.jump_inv, ResInv.seq, ResInv.seqR, ResInv.hold, ResInv.park, ResInv.trap, ResInv.jump]

theorem execOres_inv (o : OpX) (s : State) (h_s : State.Inv s) : OutInv (execOres o s) := by
  unfold execOres; try intros
  repeat' first
    | with_reducible assumption
    | (with_reducible refine foldl_inv ?_ _ _ ?_ <;> intros)
    | with_reducible apply OutInv_next
    | with_reducible apply OutInv_fault
    | with_reducible apply State.forgetAt_inv
    | with_reducible apply State.putDst_inv
    | with_reducible apply State.setUnit_inv
    | with_reducible apply checkDst_inv
    | with_reducible apply readCard_inv
    | with_reducible apply run_inv
    | with_reducible apply Gang.empty_inv
    | with_reducible apply TUnit.gang_inv
    | with_reducible apply Res.seq_inv
    | with_reducible apply Res.seqR_inv
    | with_reducible apply Res.hold_inv
    | with_reducible apply Res.park_inv
    | with_reducible apply Res.trap_inv
    | with_reducible apply Res.jump_inv
    | split
    | (intro _)
    | dsimp only
    | grind [State.mk_inv, State.Inv.mem, State.Inv.threads, State.Inv.units, State.Inv.hub, Hub.mk_inv, HubInv.launches, TUnit.mk_inv, TUnit.Inv.scr, TUnit.Inv.obuf, TUnit.Inv.gangs, Launch.mk_inv, Launch.Inv.desc, OutInv_next, OutInv_fault, State.forgetAt_inv, State.putDst_inv, State.setUnit_inv, State.unit?_inv, checkDst_inv, readCard_inv, run_inv, Gang.mk_inv, Gang.Inv.priv, Gang.empty_inv, TUnit.gang_inv, AMap.All.get?, Store.forget_wf, AMap.All.set, Res.seq_inv, Res.seqR_inv, Res.hold_inv, Res.park_inv, Res.trap_inv, Res.jump_inv, ResInv.seq, ResInv.seqR, ResInv.hold, ResInv.park, ResInv.trap, ResInv.jump]

theorem State.returnHandle_inv (s : State) (uid : Nat) (h : Nat) (h_s : State.Inv s) : State.Inv (State.returnHandle s uid h) := by
  unfold State.returnHandle; grind [State.mk_inv, State.Inv.mem, State.Inv.threads, State.Inv.units, State.Inv.hub, Hub.mk_inv, HubInv.launches, TUnit.mk_inv, TUnit.Inv.scr, TUnit.Inv.obuf, TUnit.Inv.gangs, Launch.mk_inv, Launch.Inv.desc, OutInv_next, OutInv_fault, State.modUnit_inv, State.unit?_inv, AMap.All.del]

theorem State.spoilHandle_inv (s : State) (uid : Nat) (h : Nat) (r : Resv) (h_s : State.Inv s) : State.Inv (State.spoilHandle s uid h r) := by
  unfold State.spoilHandle; grind [State.mk_inv, State.Inv.mem, State.Inv.threads, State.Inv.units, State.Inv.hub, Hub.mk_inv, HubInv.launches, TUnit.mk_inv, TUnit.Inv.scr, TUnit.Inv.obuf, TUnit.Inv.gangs, Launch.mk_inv, Launch.Inv.desc, OutInv_next, OutInv_fault, State.forgetAs_inv, State.forgetAt_inv, State.mapJob_inv, State.mapOp_inv, Store.forget_wf, AMap.All.map, foldl_inv]

theorem execOrls_inv (o : OpA) (s : State) (h_s : State.Inv s) : OutInv (execOrls o s) := by
  unfold execOrls; try intros
  repeat' first
    | with_reducible assumption
    | (with_reducible refine foldl_inv ?_ _ _ ?_ <;> intros)
    | with_reducible apply OutInv_next
    | with_reducible apply OutInv_fault
    | with_reducible apply State.modUnit_inv
    | with_reducible apply State.returnHandle_inv
    | with_reducible apply State.spoilHandle_inv
    | with_reducible apply run_inv
    | with_reducible apply Res.seq_inv
    | with_reducible apply Res.seqR_inv
    | with_reducible apply Res.hold_inv
    | with_reducible apply Res.park_inv
    | with_reducible apply Res.trap_inv
    | with_reducible apply Res.jump_inv
    | split
    | (intro _)
    | dsimp only
    | grind [State.mk_inv, State.Inv.mem, State.Inv.threads, State.Inv.units, State.Inv.hub, Hub.mk_inv, HubInv.launches, TUnit.mk_inv, TUnit.Inv.scr, TUnit.Inv.obuf, TUnit.Inv.gangs, Launch.mk_inv, Launch.Inv.desc, OutInv_next, OutInv_fault, State.modUnit_inv, State.returnHandle_inv, State.spoilHandle_inv, State.unit?_inv, run_inv, AMap.All.set, Res.seq_inv, Res.seqR_inv, Res.hold_inv, Res.park_inv, Res.trap_inv, Res.jump_inv, ResInv.seq, ResInv.seqR, ResInv.hold, ResInv.park, ResInv.trap, ResInv.jump]

theorem execOfence_inv (o : OpG) (s : State) (h_s : State.Inv s) : OutInv (execOfence o s) := by
  unfold execOfence; try intros
  repeat' first
    | with_reducible assumption
    | (with_reducible refine foldl_inv ?_ _ _ ?_ <;> intros)
    | with_reducible apply OutInv_next
    | with_reducible apply OutInv_fault
    | with_reducible apply State.drainOut_inv
    | with_reducible apply State.modThread_inv
    | with_reducible apply State.performWhere_inv
    | with_reducible apply run_inv
    | with_reducible apply Thread.pw_inv
    | with_reducible apply Res.seq_inv
    | with_reducible apply Res.seqR_inv
    | with_reducible apply Res.hold_inv
    | with_reducible apply Res.park_inv
    | with_reducible apply Res.trap_inv
    | with_reducible apply Res.jump_inv
    | split
    | (intro _)
    | dsimp only
    | grind [State.mk_inv, State.Inv.mem, State.Inv.threads, State.Inv.units, State.Inv.hub, Hub.mk_inv, HubInv.launches, TUnit.mk_inv, TUnit.Inv.scr, TUnit.Inv.obuf, TUnit.Inv.gangs, Launch.mk_inv, Launch.Inv.desc, OutInv_next, OutInv_fault, State.drainOut_inv, State.modThread_inv, State.performWhere_inv, run_inv, Thread.mk_inv, Thread.Inv.pc, Thread.Inv.rpc, Thread.Inv.loops, Thread.Inv.shadowLoops, Thread.Inv.cd, Thread.Inv.hd, Thread.Inv.shadowCd, Thread.Inv.shadowHd, loopsOk_nil, Thread.pw_inv, evenAddr_add, evenAddr_ofN, evenAddr_two, evenAddr_four, foldl_inv, Res.seq_inv, Res.seqR_inv, Res.hold_inv, Res.park_inv, Res.trap_inv, Res.jump_inv, ResInv.seq, ResInv.seqR, ResInv.hold, ResInv.park, ResInv.trap, ResInv.jump]

theorem execWait_inv (o : OpX) (s : State) (h_s : State.Inv s) : OutInv (execWait o s) := by
  unfold execWait; try intros
  repeat' first
    | with_reducible assumption
    | (with_reducible refine foldl_inv ?_ _ _ ?_ <;> intros)
    | with_reducible apply OutInv_next
    | with_reducible apply OutInv_fault
    | with_reducible apply State.acquireAt_inv
    | with_reducible apply State.logThread_inv
    | with_reducible apply State.modThread_inv
    | with_reducible apply State.orderAtHome_inv
    | with_reducible apply State.refresh_inv
    | with_reducible apply Thread.dropPrefetched_inv
    | with_reducible apply afterOut_inv
    | with_reducible apply checkedAccess_inv
    | with_reducible apply run_inv
    | with_reducible apply Thread.pw_inv
    | with_reducible apply Res.seq_inv
    | with_reducible apply Res.seqR_inv
    | with_reducible apply Res.hold_inv
    | with_reducible apply Res.park_inv
    | with_reducible apply Res.trap_inv
    | with_reducible apply Res.jump_inv
    | with_reducible apply Fetch.ok_inv
    | with_reducible apply Fetch.trap_inv
    | with_reducible apply Fetch.fault_inv
    | with_reducible apply FetchWord.ok_inv
    | with_reducible apply FetchWord.trap_inv
    | with_reducible apply FetchWord.fault_inv
    | split
    | (intro _)
    | dsimp only
    | grind [State.mk_inv, State.Inv.mem, State.Inv.threads, State.Inv.units, State.Inv.hub, Hub.mk_inv, HubInv.launches, TUnit.mk_inv, TUnit.Inv.scr, TUnit.Inv.obuf, TUnit.Inv.gangs, Launch.mk_inv, Launch.Inv.desc, OutInv_next, OutInv_fault, State.acquireAt_inv, State.logThread_inv, State.modThread_inv, State.orderAtHome_inv, State.refresh_inv, State.takeSeq_inv, Thread.dropPrefetched_inv, afterOut_inv, checkedAccess_inv, run_inv, Thread.mk_inv, Thread.Inv.pc, Thread.Inv.rpc, Thread.Inv.loops, Thread.Inv.shadowLoops, Thread.Inv.cd, Thread.Inv.hd, Thread.Inv.shadowCd, Thread.Inv.shadowHd, loopsOk_nil, Thread.pw_inv, evenAddr_add, evenAddr_ofN, evenAddr_two, evenAddr_four, Res.seq_inv, Res.seqR_inv, Res.hold_inv, Res.park_inv, Res.trap_inv, Res.jump_inv, ResInv.seq, ResInv.seqR, ResInv.hold, ResInv.park, ResInv.trap, ResInv.jump, Fetch.ok_inv, Fetch.trap_inv, Fetch.fault_inv, FetchInv.ok, FetchInv.trap, FetchInv.fault, FetchWord.ok_inv, FetchWord.trap_inv, FetchWord.fault_inv, FetchWordInv.ok, FetchWordInv.trap, FetchWordInv.fault]

theorem Thread.dropCode_inv (t : Thread) (start : Nat) (len : Nat) (h_t : Thread.Inv t) : Thread.Inv (Thread.dropCode t start len) := by
  unfold Thread.dropCode; grind [State.mk_inv, State.Inv.mem, State.Inv.threads, State.Inv.units, State.Inv.hub, Hub.mk_inv, HubInv.launches, TUnit.mk_inv, TUnit.Inv.scr, TUnit.Inv.obuf, TUnit.Inv.gangs, Launch.mk_inv, Launch.Inv.desc, OutInv_next, OutInv_fault, Thread.mk_inv, Thread.Inv.pc, Thread.Inv.rpc, Thread.Inv.loops, Thread.Inv.shadowLoops, Thread.Inv.cd, Thread.Inv.hd, Thread.Inv.shadowCd, Thread.Inv.shadowHd, loopsOk_nil, Thread.pw_inv, evenAddr_add, evenAddr_ofN, evenAddr_two, evenAddr_four, Gang.mk_inv, Gang.Inv.priv, Gang.empty_inv, TUnit.gang_inv, AMap.All.get?, AMap.All.filter]

theorem State.dropCode_inv (s : State) (asn : Nat) (start : Nat) (len : Nat) (h_s : State.Inv s) : State.Inv (State.dropCode s asn start len) := by
  unfold State.dropCode; grind [State.mk_inv, State.Inv.mem, State.Inv.threads, State.Inv.units, State.Inv.hub, Hub.mk_inv, HubInv.launches, TUnit.mk_inv, TUnit.Inv.scr, TUnit.Inv.obuf, TUnit.Inv.gangs, Launch.mk_inv, Launch.Inv.desc, OutInv_next, OutInv_fault, Thread.dropCode_inv, Thread.mk_inv, Thread.Inv.pc, Thread.Inv.rpc, Thread.Inv.loops, Thread.Inv.shadowLoops, Thread.Inv.cd, Thread.Inv.hd, Thread.Inv.shadowCd, Thread.Inv.shadowHd, loopsOk_nil, Thread.pw_inv, evenAddr_add, evenAddr_ofN, evenAddr_two, evenAddr_four, AMap.All.map, Res.seq_inv, Res.seqR_inv, Res.hold_inv, Res.park_inv, Res.trap_inv, Res.jump_inv, ResInv.seq, ResInv.seqR, ResInv.hold, ResInv.park, ResInv.trap, ResInv.jump, Issue.run_inv, Issue.done_inv, IssueInv.run, IssueInv.done]

theorem execIcinv_inv (o : OpX) (s : State) (h_s : State.Inv s) : OutInv (execIcinv o s) := by
  unfold execIcinv; try intros
  repeat' first
    | with_reducible assumption
    | (with_reducible refine foldl_inv ?_ _ _ ?_ <;> intros)
    | with_reducible apply OutInv_next
    | with_reducible apply OutInv_fault
    | with_reducible apply State.drainOut_inv
    | with_reducible apply State.dropCode_inv
    | with_reducible apply Thread.dropCode_inv
    | with_reducible apply run_inv
    | with_reducible apply Res.seq_inv
    | with_reducible apply Res.seqR_inv
    | with_reducible apply Res.hold_inv
    | with_reducible apply Res.park_inv
    | with_reducible apply Res.trap_inv
    | with_reducible apply Res.jump_inv
    | split
    | (intro _)
    | dsimp only
    | grind [State.mk_inv, State.Inv.mem, State.Inv.threads, State.Inv.units, State.Inv.hub, Hub.mk_inv, HubInv.launches, TUnit.mk_inv, TUnit.Inv.scr, TUnit.Inv.obuf, TUnit.Inv.gangs, Launch.mk_inv, Launch.Inv.desc, OutInv_next, OutInv_fault, State.drainOut_inv, State.dropCode_inv, Thread.dropCode_inv, run_inv, Res.seq_inv, Res.seqR_inv, Res.hold_inv, Res.park_inv, Res.trap_inv, Res.jump_inv, ResInv.seq, ResInv.seqR, ResInv.hold, ResInv.park, ResInv.trap, ResInv.jump]

end Sys2Proof.Machine
end

