-- ==== Sys2Proof/Laws/KeptEngine.lean ====
section
/-! SUPPORT. That every operation of Machine/Engine.lean keeps the invariant State.Inv. -/

namespace Sys2Proof.Machine

theorem State.logEng_inv (s : State) (a : Agent) (va : Word) (cause : Nat) (h_s : State.Inv s) : State.Inv (State.logEng s a va cause) := by
  unfold State.logEng; grind [State.mk_inv, State.Inv.mem, State.Inv.threads, State.Inv.units, State.Inv.hub, Hub.mk_inv, HubInv.launches, TUnit.mk_inv, TUnit.Inv.scr, TUnit.Inv.obuf, TUnit.Inv.gangs, Launch.mk_inv, Launch.Inv.desc, OutInv_next, OutInv_fault, State.logCore_inv]

theorem State.engXlate_inv (s : State) (a : Agent) (tok : Option Nat) (va : Word) (write : Bool) (h_s : State.Inv s) : State.Inv ((State.engXlate s a tok va write)).2 := by
  unfold State.engXlate; grind [State.mk_inv, State.Inv.mem, State.Inv.threads, State.Inv.units, State.Inv.hub, Hub.mk_inv, HubInv.launches, TUnit.mk_inv, TUnit.Inv.scr, TUnit.Inv.obuf, TUnit.Inv.gangs, Launch.mk_inv, Launch.Inv.desc, OutInv_next, OutInv_fault, State.logCore_inv, State.logEng_inv, State.raiseFault_inv, State.translate_inv]

theorem State.engGlobal_inv (s : State) (a : Agent) (tok : Option Nat) (va : Word) (n : Nat) (write : Bool) (h_s : State.Inv s) : State.Inv ((State.engGlobal s a tok va n write)).2 := by
  unfold State.engGlobal; grind [State.mk_inv, State.Inv.mem, State.Inv.threads, State.Inv.units, State.Inv.hub, Hub.mk_inv, HubInv.launches, TUnit.mk_inv, TUnit.Inv.scr, TUnit.Inv.obuf, TUnit.Inv.gangs, Launch.mk_inv, Launch.Inv.desc, OutInv_next, OutInv_fault, State.engXlate_inv, State.logEng_inv]

theorem State.engAccess_inv (s : State) (a : Agent) (tok : Option Nat) (va : Word) (n : Nat) (write : Bool) (h_s : State.Inv s) : State.Inv ((State.engAccess s a tok va n write)).2 := by
  unfold State.engAccess; grind [State.mk_inv, State.Inv.mem, State.Inv.threads, State.Inv.units, State.Inv.hub, Hub.mk_inv, HubInv.launches, TUnit.mk_inv, TUnit.Inv.scr, TUnit.Inv.obuf, TUnit.Inv.gangs, Launch.mk_inv, Launch.Inv.desc, OutInv_next, OutInv_fault, State.engGlobal_inv, State.logEng_inv]

theorem State.engRuns_inv (s : State) (a : Agent) (tok : Option Nat) (write : Bool) (h_s : State.Inv s) : ∀ x0 x1 x2, State.Inv (((State.engRuns s a tok write) x0 x1 x2)).2 := by
  intro x0 x1 x2
  fun_induction State.engRuns s a tok write x0 x1 x2 <;> grind [State.mk_inv, State.Inv.mem, State.Inv.threads, State.Inv.units, State.Inv.hub, Hub.mk_inv, HubInv.launches, TUnit.mk_inv, TUnit.Inv.scr, TUnit.Inv.obuf, TUnit.Inv.gangs, Launch.mk_inv, Launch.Inv.desc, OutInv_next, OutInv_fault, State.engAccess_inv]

theorem State.refence_inv (s : State) (l : Loc) (n : Nat) (h_s : State.Inv s) : State.Inv (State.refence s l n) := by
  unfold State.refence; grind [State.mk_inv, State.Inv.mem, State.Inv.threads, State.Inv.units, State.Inv.hub, Hub.mk_inv, HubInv.launches, TUnit.mk_inv, TUnit.Inv.scr, TUnit.Inv.obuf, TUnit.Inv.gangs, Launch.mk_inv, Launch.Inv.desc, OutInv_next, OutInv_fault, State.modUnit_inv, AMap.All.filter]

theorem State.engWrite_inv (s : State) (a : Agent) (w : Writer) (l : Loc) (bs : List Byte) (h_s : State.Inv s) : State.Inv ((State.engWrite s a w l bs)).2 := by
  unfold State.engWrite; grind [State.mk_inv, State.Inv.mem, State.Inv.threads, State.Inv.units, State.Inv.hub, Hub.mk_inv, HubInv.launches, TUnit.mk_inv, TUnit.Inv.scr, TUnit.Inv.obuf, TUnit.Inv.gangs, Launch.mk_inv, Launch.Inv.desc, OutInv_next, OutInv_fault, State.noteWrite_inv, State.offWrite_inv, State.refence_inv, State.takeSeq_inv, State.writeAt_inv, Res.seq_inv, Res.seqR_inv, Res.hold_inv, Res.park_inv, Res.trap_inv, Res.jump_inv, ResInv.seq, ResInv.seqR, ResInv.hold, ResInv.park, ResInv.trap, ResInv.jump]

theorem State.engWriteRuns_inv (s : State) (a : Agent) (w : Writer) (h_s : State.Inv s) : ∀ x0 x1, State.Inv (((State.engWriteRuns s a w) x0 x1)).2 := by
  intro x0 x1
  fun_induction State.engWriteRuns s a w x0 x1 <;> grind [State.mk_inv, State.Inv.mem, State.Inv.threads, State.Inv.units, State.Inv.hub, Hub.mk_inv, HubInv.launches, TUnit.mk_inv, TUnit.Inv.scr, TUnit.Inv.obuf, TUnit.Inv.gangs, Launch.mk_inv, Launch.Inv.desc, OutInv_next, OutInv_fault, State.engWrite_inv]

theorem State.counterAdd_inv (s : State) (a : Agent) (va : Word) (l : Loc) (inc : Nat) (csc : Nat) (h_s : State.Inv s) : State.Inv (State.counterAdd s a va l inc csc) := by
  unfold State.counterAdd; grind [State.mk_inv, State.Inv.mem, State.Inv.threads, State.Inv.units, State.Inv.hub, Hub.mk_inv, HubInv.launches, TUnit.mk_inv, TUnit.Inv.scr, TUnit.Inv.obuf, TUnit.Inv.gangs, Launch.mk_inv, Launch.Inv.desc, OutInv_next, OutInv_fault, State.engWrite_inv, State.logEng_inv, State.tagLine_inv, Res.seq_inv, Res.seqR_inv, Res.hold_inv, Res.park_inv, Res.trap_inv, Res.jump_inv, ResInv.seq, ResInv.seqR, ResInv.hold, ResInv.park, ResInv.trap, ResInv.jump]

theorem readFields_inv (tk : Nat) (t : Thread) (va : Word) (known : Nat → Bool) (used : Nat → Bool)  : ∀ x0 x1 x2 x3 x4 x5, State.Inv x4 → (∀ x0 x1, State.Inv x1 → ResInv (x5 x0 x1)) → ResInv ((readFields tk t va known used) x0 x1 x2 x3 x4 x5) := by
  intro x0 x1 x2 x3 x4 x5 h_x4 h_x5
  fun_induction readFields tk t va known used x0 x1 x2 x3 x4 x5 <;> grind [State.mk_inv, State.Inv.mem, State.Inv.threads, State.Inv.units, State.Inv.hub, Hub.mk_inv, HubInv.launches, TUnit.mk_inv, TUnit.Inv.scr, TUnit.Inv.obuf, TUnit.Inv.gangs, Launch.mk_inv, Launch.Inv.desc, OutInv_next, OutInv_fault, readWords_inv, Res.seq_inv, Res.seqR_inv, Res.hold_inv, Res.park_inv, Res.trap_inv, Res.jump_inv, ResInv.seq, ResInv.seqR, ResInv.hold, ResInv.park, ResInv.trap, ResInv.jump]

end Sys2Proof.Machine
end

