-- ==== Sys2Proof/Laws/KeptCopy.lean ====
section
/-! SUPPORT. That every operation of Machine/Copy.lean keeps the invariant State.Inv. -/

namespace Sys2Proof.Machine

theorem State.modOp_inv (s : State) (ck : Nat) (id : Nat) (f : CopyOp → CopyOp) (h_s : State.Inv s) : State.Inv (State.modOp s ck id f) := by
  unfold State.modOp; grind [State.mk_inv, State.Inv.mem, State.Inv.threads, State.Inv.units, State.Inv.hub, Hub.mk_inv, HubInv.launches, TUnit.mk_inv, TUnit.Inv.scr, TUnit.Inv.obuf, TUnit.Inv.gangs, Launch.mk_inv, Launch.Inv.desc, OutInv_next, OutInv_fault, State.modCore_inv, AMap.All.map]

theorem State.openOp_inv (s : State) (ck : Nat) (o : CopyOp) (h_s : State.Inv s) : State.Inv (State.openOp s ck o) := by
  unfold State.openOp; grind [State.mk_inv, State.Inv.mem, State.Inv.threads, State.Inv.units, State.Inv.hub, Hub.mk_inv, HubInv.launches, TUnit.mk_inv, TUnit.Inv.scr, TUnit.Inv.obuf, TUnit.Inv.gangs, Launch.mk_inv, Launch.Inv.desc, OutInv_next, OutInv_fault, State.modOp_inv]

theorem State.opSettle_inv (s : State) (ck : Nat) (id : Nat) (h_s : State.Inv s) : State.Inv (State.opSettle s ck id) := by
  unfold State.opSettle; grind [State.mk_inv, State.Inv.mem, State.Inv.threads, State.Inv.units, State.Inv.hub, Hub.mk_inv, HubInv.launches, TUnit.mk_inv, TUnit.Inv.scr, TUnit.Inv.obuf, TUnit.Inv.gangs, Launch.mk_inv, Launch.Inv.desc, OutInv_next, OutInv_fault, State.modOp_inv, State.setAllPresent_inv]

theorem State.opStop_inv (s : State) (ck : Nat) (id : Nat) (code : Nat) (cause : Nat) (h_s : State.Inv s) : State.Inv (State.opStop s ck id code cause) := by
  unfold State.opStop; grind [State.mk_inv, State.Inv.mem, State.Inv.threads, State.Inv.units, State.Inv.hub, Hub.mk_inv, HubInv.launches, TUnit.mk_inv, TUnit.Inv.scr, TUnit.Inv.obuf, TUnit.Inv.gangs, Launch.mk_inv, Launch.Inv.desc, OutInv_next, OutInv_fault, State.forgetAs_inv, State.modOp_inv, State.setAllPresent_inv, Store.forget_wf, foldl_inv, Res.seq_inv, Res.seqR_inv, Res.hold_inv, Res.park_inv, Res.trap_inv, Res.jump_inv, ResInv.seq, ResInv.seqR, ResInv.hold, ResInv.park, ResInv.trap, ResInv.jump]

theorem State.opFull_inv (s : State) (ck : Nat) (o : CopyOp) (va : Word) (h_s : State.Inv s) : State.Inv (State.opFull s ck o va) := by
  unfold State.opFull; grind [State.mk_inv, State.Inv.mem, State.Inv.threads, State.Inv.units, State.Inv.hub, Hub.mk_inv, HubInv.launches, TUnit.mk_inv, TUnit.Inv.scr, TUnit.Inv.obuf, TUnit.Inv.gangs, Launch.mk_inv, Launch.Inv.desc, OutInv_next, OutInv_fault, State.logEng_inv, State.modOp_inv, State.opStop_inv]

theorem State.opToken_inv (s : State) (ck : Nat) (id : Nat) (key : Nat) (tok : Option Nat) (h_s : State.Inv s) : State.Inv (State.opToken s ck id key tok) := by
  unfold State.opToken; grind [State.mk_inv, State.Inv.mem, State.Inv.threads, State.Inv.units, State.Inv.hub, Hub.mk_inv, HubInv.launches, TUnit.mk_inv, TUnit.Inv.scr, TUnit.Inv.obuf, TUnit.Inv.gangs, Launch.mk_inv, Launch.Inv.desc, OutInv_next, OutInv_fault, State.modOp_inv, AMap.All.set, AMap.All.del]

theorem State.opWait_inv (s : State) (ck : Nat) (id : Nat) (key : Nat) (line : Nat × Nat) (h_s : State.Inv s) : State.Inv (State.opWait s ck id key line) := by
  unfold State.opWait; grind [State.mk_inv, State.Inv.mem, State.Inv.threads, State.Inv.units, State.Inv.hub, Hub.mk_inv, HubInv.launches, TUnit.mk_inv, TUnit.Inv.scr, TUnit.Inv.obuf, TUnit.Inv.gangs, Launch.mk_inv, Launch.Inv.desc, OutInv_next, OutInv_fault, State.modOp_inv, AMap.All.filter]

theorem State.clearLines_inv (s : State) (lines : List (Nat × Nat)) (h_s : State.Inv s) : State.Inv (State.clearLines s lines) := by
  unfold State.clearLines; grind [State.mk_inv, State.Inv.mem, State.Inv.threads, State.Inv.units, State.Inv.hub, Hub.mk_inv, HubInv.launches, TUnit.mk_inv, TUnit.Inv.scr, TUnit.Inv.obuf, TUnit.Inv.gangs, Launch.mk_inv, Launch.Inv.desc, OutInv_next, OutInv_fault, State.modUnit_inv, foldl_inv]

theorem State.opOutside_inv (s : State) (ck : Nat) (o : CopyOp) (h_s : State.Inv s) : State.Inv (State.opOutside s ck o) := by
  unfold State.opOutside; grind [State.mk_inv, State.Inv.mem, State.Inv.threads, State.Inv.units, State.Inv.hub, Hub.mk_inv, HubInv.launches, TUnit.mk_inv, TUnit.Inv.scr, TUnit.Inv.obuf, TUnit.Inv.gangs, Launch.mk_inv, Launch.Inv.desc, OutInv_next, OutInv_fault, State.logEng_inv, State.modOp_inv, AMap.All.filter, foldl_inv]

theorem State.acceptOp_inv (s : State) (ck : Nat) (o : CopyOp) (err : Option Nat) (h_s : State.Inv s) : State.Inv (State.acceptOp s ck o err) := by
  unfold State.acceptOp; grind [State.mk_inv, State.Inv.mem, State.Inv.threads, State.Inv.units, State.Inv.hub, Hub.mk_inv, HubInv.launches, TUnit.mk_inv, TUnit.Inv.scr, TUnit.Inv.obuf, TUnit.Inv.gangs, Launch.mk_inv, Launch.Inv.desc, OutInv_next, OutInv_fault, State.clearLines_inv, State.modCore_inv, State.opOutside_inv, State.opSettle_inv, State.opStop_inv, State.spoilOp_inv, State.takeSeq_inv, AMap.All.filter, AMap.All.map, foldl_inv]

theorem State.leaveQueue_inv (s : State) (ck : Nat) (ch : Nat) (tk : Nat) (h_s : State.Inv s) : State.Inv ((State.leaveQueue s ck ch tk)).2 := by
  unfold State.leaveQueue; grind [State.mk_inv, State.Inv.mem, State.Inv.threads, State.Inv.units, State.Inv.hub, Hub.mk_inv, HubInv.launches, TUnit.mk_inv, TUnit.Inv.scr, TUnit.Inv.obuf, TUnit.Inv.gangs, Launch.mk_inv, Launch.Inv.desc, OutInv_next, OutInv_fault, State.modCore_inv, AMap.All.filter]

theorem State.holdPlace_inv (s : State) (ck : Nat) (ch : Nat) (tk : Nat) (h_s : State.Inv s) : State.Inv (State.holdPlace s ck ch tk) := by
  unfold State.holdPlace; grind [State.mk_inv, State.Inv.mem, State.Inv.threads, State.Inv.units, State.Inv.hub, Hub.mk_inv, HubInv.launches, TUnit.mk_inv, TUnit.Inv.scr, TUnit.Inv.obuf, TUnit.Inv.gangs, Launch.mk_inv, Launch.Inv.desc, OutInv_next, OutInv_fault, State.modCore_inv, AMap.All.filter]

theorem State.setOffer_inv (s : State) (tk : Nat) (x : Offer) (h_s : State.Inv s) : State.Inv (State.setOffer s tk x) := by
  unfold State.setOffer; grind [State.mk_inv, State.Inv.mem, State.Inv.threads, State.Inv.units, State.Inv.hub, Hub.mk_inv, HubInv.launches, TUnit.mk_inv, TUnit.Inv.scr, TUnit.Inv.obuf, TUnit.Inv.gangs, Launch.mk_inv, Launch.Inv.desc, OutInv_next, OutInv_fault, State.modThread_inv, Thread.mk_inv, Thread.Inv.pc, Thread.Inv.rpc, Thread.Inv.loops, Thread.Inv.shadowLoops, Thread.Inv.cd, Thread.Inv.hd, Thread.Inv.shadowCd, Thread.Inv.shadowHd, loopsOk_nil, Thread.pw_inv, evenAddr_add, evenAddr_ofN, evenAddr_two, evenAddr_four]

theorem withPlace_inv (ck : Nat) (ch : Nat) (tk : Nat) (used : Nat) (first : Bool) (p : Park) (x : Offer) (s : State) (k : State → Res) (h_s : State.Inv s) (h_k : ∀ x0, State.Inv x0 → ResInv (k x0)) : ResInv (withPlace ck ch tk used first p x s k) := by
  unfold withPlace; grind [State.mk_inv, State.Inv.mem, State.Inv.threads, State.Inv.units, State.Inv.hub, Hub.mk_inv, HubInv.launches, TUnit.mk_inv, TUnit.Inv.scr, TUnit.Inv.obuf, TUnit.Inv.gangs, Launch.mk_inv, Launch.Inv.desc, OutInv_next, OutInv_fault, State.modCore_inv, State.setOffer_inv, Res.seq_inv, Res.seqR_inv, Res.hold_inv, Res.park_inv, Res.trap_inv, Res.jump_inv, ResInv.seq, ResInv.seqR, ResInv.hold, ResInv.park, ResInv.trap, ResInv.jump]

theorem State.readProg_inv (s : State) (a : Agent) (tok : Option Nat) (c : CopyCard) (h_s : State.Inv s) : State.Inv ((State.readProg s a tok c)).2 := by
  unfold State.readProg; grind [State.mk_inv, State.Inv.mem, State.Inv.threads, State.Inv.units, State.Inv.hub, Hub.mk_inv, HubInv.launches, TUnit.mk_inv, TUnit.Inv.scr, TUnit.Inv.obuf, TUnit.Inv.gangs, Launch.mk_inv, Launch.Inv.desc, OutInv_next, OutInv_fault, State.engAccess_inv]

theorem State.settleFor_inv (s : State) (ck : Nat) (tk : Nat) (h_s : State.Inv s) : State.Inv (State.settleFor s ck tk) := by
  unfold State.settleFor; grind [State.mk_inv, State.Inv.mem, State.Inv.threads, State.Inv.units, State.Inv.hub, Hub.mk_inv, HubInv.launches, TUnit.mk_inv, TUnit.Inv.scr, TUnit.Inv.obuf, TUnit.Inv.gangs, Launch.mk_inv, Launch.Inv.desc, OutInv_next, OutInv_fault, State.performWhere_inv, State.settle_inv]

theorem acceptCard_inv (ck : Nat) (tk : Nat) (t : Thread) (ch : Nat) (card : Card) (first : Bool) (s : State) (h_s : State.Inv s) : ResInv (acceptCard ck tk t ch card first s) := by
  unfold acceptCard; grind [State.mk_inv, State.Inv.mem, State.Inv.threads, State.Inv.units, State.Inv.hub, Hub.mk_inv, HubInv.launches, TUnit.mk_inv, TUnit.Inv.scr, TUnit.Inv.obuf, TUnit.Inv.gangs, Launch.mk_inv, Launch.Inv.desc, OutInv_next, OutInv_fault, State.acceptOp_inv, State.holdPlace_inv, State.readProg_inv, State.setOffer_inv, State.settleFor_inv, parkFault_inv, withPlace_inv, Res.seq_inv, Res.seqR_inv, Res.hold_inv, Res.park_inv, Res.trap_inv, Res.jump_inv, ResInv.seq, ResInv.seqR, ResInv.hold, ResInv.park, ResInv.trap, ResInv.jump]

theorem declsReady_inv (tk : Nat) (t : Thread) (s : State) (k : Res) (h_s : State.Inv s) (h_k : ResInv k) : ResInv (declsReady tk t s k) := by
  unfold declsReady; grind [State.mk_inv, State.Inv.mem, State.Inv.threads, State.Inv.units, State.Inv.hub, Hub.mk_inv, HubInv.launches, TUnit.mk_inv, TUnit.Inv.scr, TUnit.Inv.obuf, TUnit.Inv.gangs, Launch.mk_inv, Launch.Inv.desc, OutInv_next, OutInv_fault, State.restorePorts_inv, Res.seq_inv, Res.seqR_inv, Res.hold_inv, Res.park_inv, Res.trap_inv, Res.jump_inv, ResInv.seq, ResInv.seqR, ResInv.hold, ResInv.park, ResInv.trap, ResInv.jump]

theorem execCpy_inv (o : OpI 8) (s : State) (h_s : State.Inv s) : OutInv (execCpy o s) := by
  unfold execCpy; try intros
  repeat' first
    | with_reducible assumption
    | (with_reducible refine foldl_inv ?_ _ _ ?_ <;> intros)
    | with_reducible apply OutInv_next
    | with_reducible apply OutInv_fault
    | with_reducible apply acceptCard_inv
    | with_reducible apply declsReady_inv
    | with_reducible apply readCard_inv
    | with_reducible apply readFields_inv
    | with_reducible apply run_inv
    | with_reducible apply Res.seq_inv
    | with_reducible apply Res.seqR_inv
    | with_reducible apply Res.hold_inv
    | with_reducible apply Res.park_inv
    | with_reducible apply Res.trap_inv
    | with_reducible apply Res.jump_inv
    | split
    | (intro _)
    | dsimp only
    | grind [State.mk_inv, State.Inv.mem, State.Inv.threads, State.Inv.units, State.Inv.hub, Hub.mk_inv, HubInv.launches, TUnit.mk_inv, TUnit.Inv.scr, TUnit.Inv.obuf, TUnit.Inv.gangs, Launch.mk_inv, Launch.Inv.desc, OutInv_next, OutInv_fault, State.leaveQueue_inv, acceptCard_inv, declsReady_inv, readCard_inv, readFields_inv, run_inv, Res.seq_inv, Res.seqR_inv, Res.hold_inv, Res.park_inv, Res.trap_inv, Res.jump_inv, ResInv.seq, ResInv.seqR, ResInv.hold, ResInv.park, ResInv.trap, ResInv.jump]

theorem execGath_inv (o : OpI 8) (s : State) (h_s : State.Inv s) : OutInv (execGath o s) := by
  unfold execGath; try intros
  repeat' first
    | with_reducible assumption
    | (with_reducible refine foldl_inv ?_ _ _ ?_ <;> intros)
    | with_reducible apply OutInv_next
    | with_reducible apply OutInv_fault
    | with_reducible apply acceptCard_inv
    | with_reducible apply declsReady_inv
    | with_reducible apply readCard_inv
    | with_reducible apply run_inv
    | with_reducible apply Res.seq_inv
    | with_reducible apply Res.seqR_inv
    | with_reducible apply Res.hold_inv
    | with_reducible apply Res.park_inv
    | with_reducible apply Res.trap_inv
    | with_reducible apply Res.jump_inv
    | split
    | (intro _)
    | dsimp only
    | grind [State.mk_inv, State.Inv.mem, State.Inv.threads, State.Inv.units, State.Inv.hub, Hub.mk_inv, HubInv.launches, TUnit.mk_inv, TUnit.Inv.scr, TUnit.Inv.obuf, TUnit.Inv.gangs, Launch.mk_inv, Launch.Inv.desc, OutInv_next, OutInv_fault, State.leaveQueue_inv, acceptCard_inv, declsReady_inv, readCard_inv, run_inv, Res.seq_inv, Res.seqR_inv, Res.hold_inv, Res.park_inv, Res.trap_inv, Res.jump_inv, ResInv.seq, ResInv.seqR, ResInv.hold, ResInv.park, ResInv.trap, ResInv.jump]

theorem execEngineQueueAccept_inv (ck : Nat) (ch : Nat) (s : State) (h_s : State.Inv s) : OutInv (execEngineQueueAccept ck ch s) := by
  unfold execEngineQueueAccept; grind [State.mk_inv, State.Inv.mem, State.Inv.threads, State.Inv.units, State.Inv.hub, Hub.mk_inv, HubInv.launches, TUnit.mk_inv, TUnit.Inv.scr, TUnit.Inv.obuf, TUnit.Inv.gangs, Launch.mk_inv, Launch.Inv.desc, OutInv_next, OutInv_fault, State.reissue_inv]

theorem State.opLanded_inv (s : State) (ck : Nat) (id : Nat) (row : Nat) (new : List Piece) (h_s : State.Inv s) : State.Inv (State.opLanded s ck id row new) := by
  unfold State.opLanded; grind [State.mk_inv, State.Inv.mem, State.Inv.threads, State.Inv.units, State.Inv.hub, Hub.mk_inv, HubInv.launches, TUnit.mk_inv, TUnit.Inv.scr, TUnit.Inv.obuf, TUnit.Inv.gangs, Launch.mk_inv, Launch.Inv.desc, OutInv_next, OutInv_fault, State.forgetAs_inv, State.modOp_inv, State.opSettle_inv, State.setPresent_inv, Store.forget_wf, AMap.All.filter, AMap.All.map, foldl_inv]

theorem State.deliveries_inv (s : State) (a : Agent) (tok : Option Nat) (n : Nat) (h_s : State.Inv s) : ∀ x0 x1, State.Inv (((State.deliveries s a tok n) x0 x1)).2 := by
  intro x0 x1
  fun_induction State.deliveries s a tok n x0 x1 <;> grind [State.mk_inv, State.Inv.mem, State.Inv.threads, State.Inv.units, State.Inv.hub, Hub.mk_inv, HubInv.launches, TUnit.mk_inv, TUnit.Inv.scr, TUnit.Inv.obuf, TUnit.Inv.gangs, Launch.mk_inv, Launch.Inv.desc, OutInv_next, OutInv_fault, State.engRuns_inv, State.logEng_inv, Res.seq_inv, Res.seqR_inv, Res.hold_inv, Res.park_inv, Res.trap_inv, Res.jump_inv, ResInv.seq, ResInv.seqR, ResInv.hold, ResInv.park, ResInv.trap, ResInv.jump]

theorem State.writeAll_inv (s : State) (a : Agent) (w : Writer) (bs : List Byte) (h_s : State.Inv s) : ∀ x0, State.Inv (((State.writeAll s a w bs) x0)).2 := by
  intro x0
  fun_induction State.writeAll s a w bs x0 <;> grind [State.mk_inv, State.Inv.mem, State.Inv.threads, State.Inv.units, State.Inv.hub, Hub.mk_inv, HubInv.launches, TUnit.mk_inv, TUnit.Inv.scr, TUnit.Inv.obuf, TUnit.Inv.gangs, Launch.mk_inv, Launch.Inv.desc, OutInv_next, OutInv_fault, State.engWriteRuns_inv]

theorem State.opSource_inv (s : State) (ck : Nat) (o : CopyOp) (key : Nat) (va : Word) (n : Nat) (h_s : State.Inv s) : State.Inv ((State.opSource s ck o key va n)).2 := by
  unfold State.opSource; grind [State.mk_inv, State.Inv.mem, State.Inv.threads, State.Inv.units, State.Inv.hub, Hub.mk_inv, HubInv.launches, TUnit.mk_inv, TUnit.Inv.scr, TUnit.Inv.obuf, TUnit.Inv.gangs, Launch.mk_inv, Launch.Inv.desc, OutInv_next, OutInv_fault, State.engRuns_inv, State.logEng_inv, State.opToken_inv, State.opWait_inv]

theorem execCopyRowTransfer_inv (ck : Nat) (id : Nat) (row : Nat) (s : State) (h_s : State.Inv s) : OutInv (execCopyRowTransfer ck id row s) := by
  unfold execCopyRowTransfer; try intros
  repeat' first
    | with_reducible assumption
    | (with_reducible refine foldl_inv ?_ _ _ ?_ <;> intros)
    | with_reducible apply OutInv_next
    | with_reducible apply OutInv_fault
    | with_reducible apply State.modOp_inv
    | with_reducible apply State.opFull_inv
    | with_reducible apply State.opLanded_inv
    | with_reducible apply State.opStop_inv
    | with_reducible apply State.opToken_inv
    | with_reducible apply State.openOp_inv
    | with_reducible apply Res.seq_inv
    | with_reducible apply Res.seqR_inv
    | with_reducible apply Res.hold_inv
    | with_reducible apply Res.park_inv
    | with_reducible apply Res.trap_inv
    | with_reducible apply Res.jump_inv
    | split
    | (intro _)
    | dsimp only
    | grind [State.mk_inv, State.Inv.mem, State.Inv.threads, State.Inv.units, State.Inv.hub, Hub.mk_inv, HubInv.launches, TUnit.mk_inv, TUnit.Inv.scr, TUnit.Inv.obuf, TUnit.Inv.gangs, Launch.mk_inv, Launch.Inv.desc, OutInv_next, OutInv_fault, State.deliveries_inv, State.modOp_inv, State.opFull_inv, State.opLanded_inv, State.opSource_inv, State.opStop_inv, State.opToken_inv, State.openOp_inv, State.writeAll_inv, AMap.All.map, foldl_inv, Res.seq_inv, Res.seqR_inv, Res.hold_inv, Res.park_inv, Res.trap_inv, Res.jump_inv, ResInv.seq, ResInv.seqR, ResInv.hold, ResInv.park, ResInv.trap, ResInv.jump]

theorem State.maskRuns_inv (s : State) (ck : Nat) (o : CopyOp) (c : GathCard) (off : Nat) (n : Nat) (write : Bool) (h_s : State.Inv s) : State.Inv ((State.maskRuns s ck o c off n write)).2 := by
  unfold State.maskRuns; grind [State.mk_inv, State.Inv.mem, State.Inv.threads, State.Inv.units, State.Inv.hub, Hub.mk_inv, HubInv.launches, TUnit.mk_inv, TUnit.Inv.scr, TUnit.Inv.obuf, TUnit.Inv.gangs, Launch.mk_inv, Launch.Inv.desc, OutInv_next, OutInv_fault, State.engRuns_inv, State.opToken_inv]

theorem State.maskWrite_inv (s : State) (ck : Nat) (o : CopyOp) (rs : List Run) (bs : List Byte) (dep : List Run) (h_s : State.Inv s) : State.Inv ((State.maskWrite s ck o rs bs dep)).2 := by
  unfold State.maskWrite; grind [State.mk_inv, State.Inv.mem, State.Inv.threads, State.Inv.units, State.Inv.hub, Hub.mk_inv, HubInv.launches, TUnit.mk_inv, TUnit.Inv.scr, TUnit.Inv.obuf, TUnit.Inv.gangs, Launch.mk_inv, Launch.Inv.desc, OutInv_next, OutInv_fault, State.engWriteRuns_inv, State.forgetAs_inv, Store.forget_wf, foldl_inv]

theorem State.maskRead_inv (s : State) (ck : Nat) (o : CopyOp) (c : GathCard) (rs : List Run) (old : List Byte) (h_s : State.Inv s) : State.Inv (State.maskRead s ck o c rs old) := by
  unfold State.maskRead; grind [State.mk_inv, State.Inv.mem, State.Inv.threads, State.Inv.units, State.Inv.hub, Hub.mk_inv, HubInv.launches, TUnit.mk_inv, TUnit.Inv.scr, TUnit.Inv.obuf, TUnit.Inv.gangs, Launch.mk_inv, Launch.Inv.desc, OutInv_next, OutInv_fault, State.forgetAs_inv, State.modOp_inv, Store.forget_wf, AMap.All.filter, foldl_inv, Res.seq_inv, Res.seqR_inv, Res.hold_inv, Res.park_inv, Res.trap_inv, Res.jump_inv, ResInv.seq, ResInv.seqR, ResInv.hold, ResInv.park, ResInv.trap, ResInv.jump]

theorem State.gatherBegin_inv (s : State) (ck : Nat) (o : CopyOp) (c : GathCard) (h_s : State.Inv s) : State.Inv (State.gatherBegin s ck o c) := by
  unfold State.gatherBegin; grind [State.mk_inv, State.Inv.mem, State.Inv.threads, State.Inv.units, State.Inv.hub, Hub.mk_inv, HubInv.launches, TUnit.mk_inv, TUnit.Inv.scr, TUnit.Inv.obuf, TUnit.Inv.gangs, Launch.mk_inv, Launch.Inv.desc, OutInv_next, OutInv_fault, State.maskRead_inv, State.maskRuns_inv, State.maskWrite_inv, State.modOp_inv, State.opFull_inv, State.opStop_inv, State.opWait_inv, foldl_inv]

theorem State.elementFails_inv (s : State) (ck : Nat) (id : Nat) (el : Nat) (cause : Nat) (h_s : State.Inv s) : State.Inv (State.elementFails s ck id el cause) := by
  unfold State.elementFails; grind [State.mk_inv, State.Inv.mem, State.Inv.threads, State.Inv.units, State.Inv.hub, Hub.mk_inv, HubInv.launches, TUnit.mk_inv, TUnit.Inv.scr, TUnit.Inv.obuf, TUnit.Inv.gangs, Launch.mk_inv, Launch.Inv.desc, OutInv_next, OutInv_fault, State.modOp_inv, State.opSettle_inv]

theorem State.gatherCopy_inv (s : State) (ck : Nat) (o : CopyOp) (c : GathCard) (el : Nat) (x : Nat) (h_s : State.Inv s) : State.Inv (State.gatherCopy s ck o c el x) := by
  unfold State.gatherCopy; try intros
  repeat' first
    | with_reducible assumption
    | (with_reducible refine foldl_inv ?_ _ _ ?_ <;> intros)
    | with_reducible apply OutInv_next
    | with_reducible apply OutInv_fault
    | with_reducible apply State.elementFails_inv
    | with_reducible apply State.opFull_inv
    | with_reducible apply State.opLanded_inv
    | with_reducible apply State.opStop_inv
    | with_reducible apply State.opToken_inv
    | with_reducible apply State.opWait_inv
    | with_reducible apply Res.seq_inv
    | with_reducible apply Res.seqR_inv
    | with_reducible apply Res.hold_inv
    | with_reducible apply Res.park_inv
    | with_reducible apply Res.trap_inv
    | with_reducible apply Res.jump_inv
    | split
    | (intro _)
    | dsimp only
    | grind [State.mk_inv, State.Inv.mem, State.Inv.threads, State.Inv.units, State.Inv.hub, Hub.mk_inv, HubInv.launches, TUnit.mk_inv, TUnit.Inv.scr, TUnit.Inv.obuf, TUnit.Inv.gangs, Launch.mk_inv, Launch.Inv.desc, OutInv_next, OutInv_fault, State.deliveries_inv, State.elementFails_inv, State.maskRuns_inv, State.maskWrite_inv, State.opFull_inv, State.opLanded_inv, State.opSource_inv, State.opStop_inv, State.opToken_inv, State.opWait_inv, State.writeAll_inv, Res.seq_inv, Res.seqR_inv, Res.hold_inv, Res.park_inv, Res.trap_inv, Res.jump_inv, ResInv.seq, ResInv.seqR, ResInv.hold, ResInv.park, ResInv.trap, ResInv.jump]

theorem execGatherElement_inv (ck : Nat) (id : Nat) (el : Nat) (s : State) (h_s : State.Inv s) : OutInv (execGatherElement ck id el s) := by
  unfold execGatherElement; try intros
  repeat' first
    | with_reducible assumption
    | (with_reducible refine foldl_inv ?_ _ _ ?_ <;> intros)
    | with_reducible apply OutInv_next
    | with_reducible apply OutInv_fault
    | with_reducible apply State.gatherBegin_inv
    | with_reducible apply State.gatherCopy_inv
    | with_reducible apply State.modOp_inv
    | with_reducible apply State.opSettle_inv
    | with_reducible apply State.opStop_inv
    | with_reducible apply State.openOp_inv
    | split
    | (intro _)
    | dsimp only
    | grind [State.mk_inv, State.Inv.mem, State.Inv.threads, State.Inv.units, State.Inv.hub, Hub.mk_inv, HubInv.launches, TUnit.mk_inv, TUnit.Inv.scr, TUnit.Inv.obuf, TUnit.Inv.gangs, Launch.mk_inv, Launch.Inv.desc, OutInv_next, OutInv_fault, State.gatherBegin_inv, State.gatherCopy_inv, State.modOp_inv, State.opSettle_inv, State.opSource_inv, State.opStop_inv, State.openOp_inv, AMap.All.filter]

theorem State.pinAll_inv (s : State) (ck : Nat) (id : Nat) (h_s : State.Inv s) : ∀ x0, State.Inv (((State.pinAll s ck id) x0)).2 := by
  intro x0
  fun_induction State.pinAll s ck id x0 <;> grind [State.mk_inv, State.Inv.mem, State.Inv.threads, State.Inv.units, State.Inv.hub, Hub.mk_inv, HubInv.launches, TUnit.mk_inv, TUnit.Inv.scr, TUnit.Inv.obuf, TUnit.Inv.gangs, Launch.mk_inv, Launch.Inv.desc, OutInv_next, OutInv_fault, State.engXlate_inv, State.modOp_inv, State.opToken_inv, AMap.All.set]

theorem State.pinPages_inv (s : State) (ck : Nat) (id : Nat) (all : List (Word × Bool)) (h_s : State.Inv s) : State.Inv (State.pinPages s ck id all) := by
  unfold State.pinPages; grind [State.mk_inv, State.Inv.mem, State.Inv.threads, State.Inv.units, State.Inv.hub, Hub.mk_inv, HubInv.launches, TUnit.mk_inv, TUnit.Inv.scr, TUnit.Inv.obuf, TUnit.Inv.gangs, Launch.mk_inv, Launch.Inv.desc, OutInv_next, OutInv_fault, State.modOp_inv, State.opSettle_inv, State.opStop_inv, State.pinAll_inv]

theorem execProbePass_inv (ck : Nat) (id : Nat) (s : State) (h_s : State.Inv s) : OutInv (execProbePass ck id s) := by
  unfold execProbePass; try intros
  repeat' first
    | with_reducible assumption
    | (with_reducible refine foldl_inv ?_ _ _ ?_ <;> intros)
    | with_reducible apply OutInv_next
    | with_reducible apply OutInv_fault
    | with_reducible apply State.opStop_inv
    | with_reducible apply State.openOp_inv
    | with_reducible apply State.pinPages_inv
    | split
    | (intro _)
    | dsimp only
    | grind [State.mk_inv, State.Inv.mem, State.Inv.threads, State.Inv.units, State.Inv.hub, Hub.mk_inv, HubInv.launches, TUnit.mk_inv, TUnit.Inv.scr, TUnit.Inv.obuf, TUnit.Inv.gangs, Launch.mk_inv, Launch.Inv.desc, OutInv_next, OutInv_fault, State.opSource_inv, State.opStop_inv, State.openOp_inv, State.pinPages_inv, AMap.All.map]

theorem State.counterLoc_inv (s : State) (a : Agent) (tok : Option Nat) (va : Word) (h_s : State.Inv s) : State.Inv ((State.counterLoc s a tok va)).2 := by
  unfold State.counterLoc; grind [State.mk_inv, State.Inv.mem, State.Inv.threads, State.Inv.units, State.Inv.hub, Hub.mk_inv, HubInv.launches, TUnit.mk_inv, TUnit.Inv.scr, TUnit.Inv.obuf, TUnit.Inv.gangs, Launch.mk_inv, Launch.Inv.desc, OutInv_next, OutInv_fault, State.engXlate_inv, State.logEng_inv]

theorem State.keepOp_inv (s : State) (ck : Nat) (o : CopyOp) (ctr : Option Loc) (h_s : State.Inv s) : State.Inv (State.keepOp s ck o ctr) := by
  unfold State.keepOp; grind [State.mk_inv, State.Inv.mem, State.Inv.threads, State.Inv.units, State.Inv.hub, Hub.mk_inv, HubInv.launches, TUnit.mk_inv, TUnit.Inv.scr, TUnit.Inv.obuf, TUnit.Inv.gangs, Launch.mk_inv, Launch.Inv.desc, OutInv_next, OutInv_fault, State.modCore_inv, AMap.All.map]

theorem State.opLeave_inv (s : State) (ck : Nat) (o : CopyOp) (ctr : Option Loc) (h_s : State.Inv s) : State.Inv (State.opLeave s ck o ctr) := by
  unfold State.opLeave; grind [State.mk_inv, State.Inv.mem, State.Inv.threads, State.Inv.units, State.Inv.hub, Hub.mk_inv, HubInv.launches, TUnit.mk_inv, TUnit.Inv.scr, TUnit.Inv.obuf, TUnit.Inv.gangs, Launch.mk_inv, Launch.Inv.desc, OutInv_next, OutInv_fault, State.counterAdd_inv, State.keepOp_inv, State.modCore_inv, State.returnHandle_inv, AMap.All.filter, AMap.All.map]

theorem State.opFinish_inv (s : State) (ck : Nat) (o : CopyOp) (ctr : Option Loc) (h_s : State.Inv s) : State.Inv (State.opFinish s ck o ctr) := by
  unfold State.opFinish; grind [State.mk_inv, State.Inv.mem, State.Inv.threads, State.Inv.units, State.Inv.hub, Hub.mk_inv, HubInv.launches, TUnit.mk_inv, TUnit.Inv.scr, TUnit.Inv.obuf, TUnit.Inv.gangs, Launch.mk_inv, Launch.Inv.desc, OutInv_next, OutInv_fault, State.engRuns_inv, State.engWriteRuns_inv, State.forgetRuns_inv, State.logEng_inv, State.modOp_inv, State.opLeave_inv, State.opToken_inv, Store.forget_wf]

theorem State.opEnd_inv (s : State) (ck : Nat) (o : CopyOp) (c : CtrAt) (h_s : State.Inv s) : State.Inv (State.opEnd s ck o c) := by
  unfold State.opEnd; grind [State.mk_inv, State.Inv.mem, State.Inv.threads, State.Inv.units, State.Inv.hub, Hub.mk_inv, HubInv.launches, TUnit.mk_inv, TUnit.Inv.scr, TUnit.Inv.obuf, TUnit.Inv.gangs, Launch.mk_inv, Launch.Inv.desc, OutInv_next, OutInv_fault, State.opFinish_inv, State.opWait_inv]

theorem execEngineOpEnd_inv (ck : Nat) (id : Nat) (s : State) (h_s : State.Inv s) : OutInv (execEngineOpEnd ck id s) := by
  unfold execEngineOpEnd; grind [State.mk_inv, State.Inv.mem, State.Inv.threads, State.Inv.units, State.Inv.hub, Hub.mk_inv, HubInv.launches, TUnit.mk_inv, TUnit.Inv.scr, TUnit.Inv.obuf, TUnit.Inv.gangs, Launch.mk_inv, Launch.Inv.desc, OutInv_next, OutInv_fault, State.counterLoc_inv, State.modOp_inv, State.opEnd_inv, State.opToken_inv, AMap.All.map]

end Sys2Proof.Machine
end

