-- ==== Sys2Proof/Laws/KeptMatrix.lean ====
section
/-! SUPPORT. That every operation of Machine/Matrix.lean keeps the invariant State.Inv. -/

namespace Sys2Proof.Machine

theorem State.modMjob_inv (s : State) (ck : Nat) (id : Nat) (f : Job → Job) (h_s : State.Inv s) : State.Inv (State.modMjob s ck id f) := by
  unfold State.modMjob; grind [State.mk_inv, State.Inv.mem, State.Inv.threads, State.Inv.units, State.Inv.hub, Hub.mk_inv, HubInv.launches, TUnit.mk_inv, TUnit.Inv.scr, TUnit.Inv.obuf, TUnit.Inv.gangs, Launch.mk_inv, Launch.Inv.desc, OutInv_next, OutInv_fault, State.modCore_inv, AMap.All.map, JobGot.ok_inv, JobGot.stop_inv, JobGot.wait_inv, JobGotInv.ok, JobGotInv.stop, JobGotInv.wait]

theorem State.jobStop_inv (s : State) (ck : Nat) (id : Nat) (code : Nat) (cause : Nat) (h_s : State.Inv s) : State.Inv (State.jobStop s ck id code cause) := by
  unfold State.jobStop; grind [State.mk_inv, State.Inv.mem, State.Inv.threads, State.Inv.units, State.Inv.hub, Hub.mk_inv, HubInv.launches, TUnit.mk_inv, TUnit.Inv.scr, TUnit.Inv.obuf, TUnit.Inv.gangs, Launch.mk_inv, Launch.Inv.desc, OutInv_next, OutInv_fault, State.modMjob_inv, JobGot.ok_inv, JobGot.stop_inv, JobGot.wait_inv, JobGotInv.ok, JobGotInv.stop, JobGotInv.wait]

theorem State.jobWait_inv (s : State) (ck : Nat) (id : Nat) (line : Nat × Nat) (h_s : State.Inv s) : State.Inv (State.jobWait s ck id line) := by
  unfold State.jobWait; grind [State.mk_inv, State.Inv.mem, State.Inv.threads, State.Inv.units, State.Inv.hub, Hub.mk_inv, HubInv.launches, TUnit.mk_inv, TUnit.Inv.scr, TUnit.Inv.obuf, TUnit.Inv.gangs, Launch.mk_inv, Launch.Inv.desc, OutInv_next, OutInv_fault, State.modMjob_inv, JobGot.ok_inv, JobGot.stop_inv, JobGot.wait_inv, JobGotInv.ok, JobGotInv.stop, JobGotInv.wait]

theorem State.jobRead_inv (s : State) (ck : Nat) (j : Job) (va : Word) (n : Nat) (h_s : State.Inv s) : JobGotInv (State.jobRead s ck j va n) := by
  unfold State.jobRead; grind [State.mk_inv, State.Inv.mem, State.Inv.threads, State.Inv.units, State.Inv.hub, Hub.mk_inv, HubInv.launches, TUnit.mk_inv, TUnit.Inv.scr, TUnit.Inv.obuf, TUnit.Inv.gangs, Launch.mk_inv, Launch.Inv.desc, OutInv_next, OutInv_fault, State.engRuns_inv, State.jobWait_inv, State.modMjob_inv, AMap.All.set, JobGot.ok_inv, JobGot.stop_inv, JobGot.wait_inv, JobGotInv.ok, JobGotInv.stop, JobGotInv.wait]

theorem State.jobReads_inv (s : State) (ck : Nat) (j : Job) (h_s : State.Inv s) : ∀ x0, JobGotInv ((State.jobReads s ck j) x0) := by
  intro x0
  fun_induction State.jobReads s ck j x0 <;> grind [State.mk_inv, State.Inv.mem, State.Inv.threads, State.Inv.units, State.Inv.hub, Hub.mk_inv, HubInv.launches, TUnit.mk_inv, TUnit.Inv.scr, TUnit.Inv.obuf, TUnit.Inv.gangs, Launch.mk_inv, Launch.Inv.desc, OutInv_next, OutInv_fault, State.jobRead_inv, JobGot.ok_inv, JobGot.stop_inv, JobGot.wait_inv, JobGotInv.ok, JobGotInv.stop, JobGotInv.wait]

theorem gotAll_inv {α β : Type} (f : α → State → JobGot β) (h_f : ∀ x0 x1, State.Inv x1 → JobGotInv (f x0 x1)) : ∀ x0 x1, State.Inv x1 → JobGotInv ((gotAll f) x0 x1) := by
  intro x0 x1 h_x1
  fun_induction gotAll f x0 x1 <;> grind [State.mk_inv, State.Inv.mem, State.Inv.threads, State.Inv.units, State.Inv.hub, Hub.mk_inv, HubInv.launches, TUnit.mk_inv, TUnit.Inv.scr, TUnit.Inv.obuf, TUnit.Inv.gangs, Launch.mk_inv, Launch.Inv.desc, OutInv_next, OutInv_fault, JobGot.ok_inv, JobGot.stop_inv, JobGot.wait_inv, JobGotInv.ok, JobGotInv.stop, JobGotInv.wait]

theorem State.resvRead_inv (s : State) (ck : Nat) (j : Job) (off : Nat) (n : Nat) (h_s : State.Inv s) : JobGotInv (State.resvRead s ck j off n) := by
  unfold State.resvRead; grind [State.mk_inv, State.Inv.mem, State.Inv.threads, State.Inv.units, State.Inv.hub, Hub.mk_inv, HubInv.launches, TUnit.mk_inv, TUnit.Inv.scr, TUnit.Inv.obuf, TUnit.Inv.gangs, Launch.mk_inv, Launch.Inv.desc, OutInv_next, OutInv_fault, State.logEng_inv, State.unit?_inv, JobGot.ok_inv, JobGot.stop_inv, JobGot.wait_inv, JobGotInv.ok, JobGotInv.stop, JobGotInv.wait]

theorem State.aRow_inv (s : State) (ck : Nat) (j : Job) (t : Nat) (k : Nat) (il : Nat) (h_s : State.Inv s) : JobGotInv (State.aRow s ck j t k il) := by
  unfold State.aRow; grind [State.mk_inv, State.Inv.mem, State.Inv.threads, State.Inv.units, State.Inv.hub, Hub.mk_inv, HubInv.launches, TUnit.mk_inv, TUnit.Inv.scr, TUnit.Inv.obuf, TUnit.Inv.gangs, Launch.mk_inv, Launch.Inv.desc, OutInv_next, OutInv_fault, State.jobRead_inv, State.jobReads_inv, AMap.All.map, JobGot.ok_inv, JobGot.stop_inv, JobGot.wait_inv, JobGotInv.ok, JobGotInv.stop, JobGotInv.wait]

theorem State.sparseGroup_inv (s : State) (ck : Nat) (j : Job) (r : Resv) (t : Nat) (k : Nat) (jl : Nat) (g : Nat) (h_s : State.Inv s) : JobGotInv (State.sparseGroup s ck j r t k jl g) := by
  unfold State.sparseGroup; grind [State.mk_inv, State.Inv.mem, State.Inv.threads, State.Inv.units, State.Inv.hub, Hub.mk_inv, HubInv.launches, TUnit.mk_inv, TUnit.Inv.scr, TUnit.Inv.obuf, TUnit.Inv.gangs, Launch.mk_inv, Launch.Inv.desc, OutInv_next, OutInv_fault, State.logEng_inv, State.resvRead_inv, gotAll_inv, AMap.All.filter, JobGot.ok_inv, JobGot.stop_inv, JobGot.wait_inv, JobGotInv.ok, JobGotInv.stop, JobGotInv.wait]

theorem State.bCol_inv (s : State) (ck : Nat) (j : Job) (r : Resv) (t : Nat) (k : Nat) (jl : Nat) (h_s : State.Inv s) : JobGotInv (State.bCol s ck j r t k jl) := by
  unfold State.bCol; grind [State.mk_inv, State.Inv.mem, State.Inv.threads, State.Inv.units, State.Inv.hub, Hub.mk_inv, HubInv.launches, TUnit.mk_inv, TUnit.Inv.scr, TUnit.Inv.obuf, TUnit.Inv.gangs, Launch.mk_inv, Launch.Inv.desc, OutInv_next, OutInv_fault, State.resvRead_inv, State.sparseGroup_inv, gotAll_inv, AMap.All.filter, AMap.All.map, JobGot.ok_inv, JobGot.stop_inv, JobGot.wait_inv, JobGotInv.ok, JobGotInv.stop, JobGotInv.wait]

theorem State.startAcc_inv (s : State) (ck : Nat) (j : Job) (t : Nat) (h_s : State.Inv s) : JobGotInv (State.startAcc s ck j t) := by
  unfold State.startAcc; grind [State.mk_inv, State.Inv.mem, State.Inv.threads, State.Inv.units, State.Inv.hub, Hub.mk_inv, HubInv.launches, TUnit.mk_inv, TUnit.Inv.scr, TUnit.Inv.obuf, TUnit.Inv.gangs, Launch.mk_inv, Launch.Inv.desc, OutInv_next, OutInv_fault, State.jobReads_inv, AMap.All.map, JobGot.ok_inv, JobGot.stop_inv, JobGot.wait_inv, JobGotInv.ok, JobGotInv.stop, JobGotInv.wait]

theorem State.forgetTile_inv (s : State) (j : Job) (t : Nat) (h_s : State.Inv s) : State.Inv (State.forgetTile s j t) := by
  unfold State.forgetTile; grind [State.mk_inv, State.Inv.mem, State.Inv.threads, State.Inv.units, State.Inv.hub, Hub.mk_inv, HubInv.launches, TUnit.mk_inv, TUnit.Inv.scr, TUnit.Inv.obuf, TUnit.Inv.gangs, Launch.mk_inv, Launch.Inv.desc, OutInv_next, OutInv_fault, State.forgetAs_inv, Store.forget_wf, AMap.All.map, foldl_inv, JobGot.ok_inv, JobGot.stop_inv, JobGot.wait_inv, JobGotInv.ok, JobGotInv.stop, JobGotInv.wait]

theorem State.tileLocs_inv (s : State) (ck : Nat) (j : Job) (t : Nat) (h_s : State.Inv s) : JobGotInv (State.tileLocs s ck j t) := by
  unfold State.tileLocs; grind [State.mk_inv, State.Inv.mem, State.Inv.threads, State.Inv.units, State.Inv.hub, Hub.mk_inv, HubInv.launches, TUnit.mk_inv, TUnit.Inv.scr, TUnit.Inv.obuf, TUnit.Inv.gangs, Launch.mk_inv, Launch.Inv.desc, OutInv_next, OutInv_fault, State.engAccess_inv, State.modMjob_inv, gotAll_inv, AMap.All.set, AMap.All.map, JobGot.ok_inv, JobGot.stop_inv, JobGot.wait_inv, JobGotInv.ok, JobGotInv.stop, JobGotInv.wait]

theorem State.writeTile_inv (s : State) (ck : Nat) (j : Job) (t : Nat) (acc : List (Option Word)) (h_s : State.Inv s) : ∀ x0, State.Inv (((State.writeTile s ck j t acc) x0)).2 := by
  intro x0
  fun_induction State.writeTile s ck j t acc x0 <;> grind [State.mk_inv, State.Inv.mem, State.Inv.threads, State.Inv.units, State.Inv.hub, Hub.mk_inv, HubInv.launches, TUnit.mk_inv, TUnit.Inv.scr, TUnit.Inv.obuf, TUnit.Inv.gangs, Launch.mk_inv, Launch.Inv.desc, OutInv_next, OutInv_fault, State.engWrite_inv, State.forgetAs_inv, State.modMjob_inv, Store.forget_wf, JobGot.ok_inv, JobGot.stop_inv, JobGot.wait_inv, JobGotInv.ok, JobGotInv.stop, JobGotInv.wait]

theorem State.jobSegment_inv (s : State) (ck : Nat) (j : Job) (h_s : State.Inv s) : JobGotInv (State.jobSegment s ck j) := by
  unfold State.jobSegment; try intros
  repeat' first
    | with_reducible assumption
    | (with_reducible refine foldl_inv ?_ _ _ ?_ <;> intros)
    | with_reducible apply OutInv_next
    | with_reducible apply OutInv_fault
    | with_reducible apply State.aRow_inv
    | with_reducible apply State.bCol_inv
    | with_reducible apply State.logEng_inv
    | with_reducible apply State.startAcc_inv
    | with_reducible apply gotAll_inv
    | with_reducible apply JobGot.ok_inv
    | with_reducible apply JobGot.stop_inv
    | with_reducible apply JobGot.wait_inv
    | split
    | (intro _)
    | dsimp only
    | grind [State.mk_inv, State.Inv.mem, State.Inv.threads, State.Inv.units, State.Inv.hub, Hub.mk_inv, HubInv.launches, TUnit.mk_inv, TUnit.Inv.scr, TUnit.Inv.obuf, TUnit.Inv.gangs, Launch.mk_inv, Launch.Inv.desc, OutInv_next, OutInv_fault, State.aRow_inv, State.bCol_inv, State.logEng_inv, State.startAcc_inv, State.unit?_inv, gotAll_inv, JobGot.ok_inv, JobGot.stop_inv, JobGot.wait_inv, JobGotInv.ok, JobGotInv.stop, JobGotInv.wait]

theorem State.keepFell_inv (s : State) (ck : Nat) (id : Nat) (fell : Bool) (h_s : State.Inv s) : State.Inv (State.keepFell s ck id fell) := by
  unfold State.keepFell; grind [State.mk_inv, State.Inv.mem, State.Inv.threads, State.Inv.units, State.Inv.hub, Hub.mk_inv, HubInv.launches, TUnit.mk_inv, TUnit.Inv.scr, TUnit.Inv.obuf, TUnit.Inv.gangs, Launch.mk_inv, Launch.Inv.desc, OutInv_next, OutInv_fault, State.modMjob_inv, JobGot.ok_inv, JobGot.stop_inv, JobGot.wait_inv, JobGotInv.ok, JobGotInv.stop, JobGotInv.wait]

theorem State.jobUndelivered_inv (s : State) (id : Nat) (d : Nat) (h_s : State.Inv s) : State.Inv (State.jobUndelivered s id d) := by
  unfold State.jobUndelivered; grind [State.mk_inv, State.Inv.mem, State.Inv.threads, State.Inv.units, State.Inv.hub, Hub.mk_inv, HubInv.launches, TUnit.mk_inv, TUnit.Inv.scr, TUnit.Inv.obuf, TUnit.Inv.gangs, Launch.mk_inv, Launch.Inv.desc, OutInv_next, OutInv_fault, State.forgetTile_inv, State.mapJob_inv, Store.forget_wf, AMap.All.filter, AMap.All.map, foldl_inv, JobGot.ok_inv, JobGot.stop_inv, JobGot.wait_inv, JobGotInv.ok, JobGotInv.stop, JobGotInv.wait]

theorem State.jobStep_inv (s : State) (ck : Nat) (j : Job) (h_s : State.Inv s) : State.Inv ((State.jobStep s ck j)).2 := by
  unfold State.jobStep; grind [State.mk_inv, State.Inv.mem, State.Inv.threads, State.Inv.units, State.Inv.hub, Hub.mk_inv, HubInv.launches, TUnit.mk_inv, TUnit.Inv.scr, TUnit.Inv.obuf, TUnit.Inv.gangs, Launch.mk_inv, Launch.Inv.desc, OutInv_next, OutInv_fault, State.forgetTile_inv, State.jobSegment_inv, State.jobStop_inv, State.keepFell_inv, State.logEng_inv, State.modMjob_inv, State.tileLocs_inv, State.writeTile_inv, Store.forget_wf, JobGot.ok_inv, JobGot.stop_inv, JobGot.wait_inv, JobGotInv.ok, JobGotInv.stop, JobGotInv.wait]

theorem State.tryJobs_inv (s : State) (ck : Nat) (h_s : State.Inv s) : ∀ x0, State.Inv ((State.tryJobs s ck) x0) := by
  intro x0
  fun_induction State.tryJobs s ck x0 <;> grind [State.mk_inv, State.Inv.mem, State.Inv.threads, State.Inv.units, State.Inv.hub, Hub.mk_inv, HubInv.launches, TUnit.mk_inv, TUnit.Inv.scr, TUnit.Inv.obuf, TUnit.Inv.gangs, Launch.mk_inv, Launch.Inv.desc, OutInv_next, OutInv_fault, State.jobStep_inv, State.modCore_inv, run_inv, Res.seq_inv, Res.seqR_inv, Res.hold_inv, Res.park_inv, Res.trap_inv, Res.jump_inv, ResInv.seq, ResInv.seqR, ResInv.hold, ResInv.park, ResInv.trap, ResInv.jump, JobGot.ok_inv, JobGot.stop_inv, JobGot.wait_inv, JobGotInv.ok, JobGotInv.stop, JobGotInv.wait]

theorem execBlockStep_inv (ck : Nat) (s : State) (h_s : State.Inv s) : OutInv (execBlockStep ck s) := by
  unfold execBlockStep; grind [State.mk_inv, State.Inv.mem, State.Inv.threads, State.Inv.units, State.Inv.hub, Hub.mk_inv, HubInv.launches, TUnit.mk_inv, TUnit.Inv.scr, TUnit.Inv.obuf, TUnit.Inv.gangs, Launch.mk_inv, Launch.Inv.desc, OutInv_next, OutInv_fault, State.tryJobs_inv, Gang.mk_inv, Gang.Inv.priv, Gang.empty_inv, TUnit.gang_inv, AMap.All.get?, AMap.All.filter, Res.seq_inv, Res.seqR_inv, Res.hold_inv, Res.park_inv, Res.trap_inv, Res.jump_inv, ResInv.seq, ResInv.seqR, ResInv.hold, ResInv.park, ResInv.trap, ResInv.jump, JobGot.ok_inv, JobGot.stop_inv, JobGot.wait_inv, JobGotInv.ok, JobGotInv.stop, JobGotInv.wait]

theorem execJobEnterContext_inv (ck : Nat) (s : State) (h_s : State.Inv s) : OutInv (execJobEnterContext ck s) := by
  unfold execJobEnterContext; grind [State.mk_inv, State.Inv.mem, State.Inv.threads, State.Inv.units, State.Inv.hub, Hub.mk_inv, HubInv.launches, TUnit.mk_inv, TUnit.Inv.scr, TUnit.Inv.obuf, TUnit.Inv.gangs, Launch.mk_inv, Launch.Inv.desc, OutInv_next, OutInv_fault, State.modMjob_inv, AMap.All.filter, JobGot.ok_inv, JobGot.stop_inv, JobGot.wait_inv, JobGotInv.ok, JobGotInv.stop, JobGotInv.wait]

theorem State.acceptJob_inv (s : State) (ck : Nat) (tk : Nat) (t : Thread) (c : JobCard) (lock : Bool) (st : Option (List Byte)) (h_s : State.Inv s) : State.Inv ((State.acceptJob s ck tk t c lock st)).2 := by
  unfold State.acceptJob; grind [State.mk_inv, State.Inv.mem, State.Inv.threads, State.Inv.units, State.Inv.hub, Hub.mk_inv, HubInv.launches, TUnit.mk_inv, TUnit.Inv.scr, TUnit.Inv.obuf, TUnit.Inv.gangs, Launch.mk_inv, Launch.Inv.desc, OutInv_next, OutInv_fault, State.modCore_inv, State.takeSeq_inv, JobGot.ok_inv, JobGot.stop_inv, JobGot.wait_inv, JobGotInv.ok, JobGotInv.stop, JobGotInv.wait]

theorem execMxl_inv (o : OpX) (s : State) (h_s : State.Inv s) : OutInv (execMxl o s) := by
  unfold execMxl; try intros
  repeat' first
    | with_reducible assumption
    | (with_reducible refine foldl_inv ?_ _ _ ?_ <;> intros)
    | with_reducible apply OutInv_next
    | with_reducible apply OutInv_fault
    | with_reducible apply State.putDst_inv
    | with_reducible apply State.settleFor_inv
    | with_reducible apply checkDst_inv
    | with_reducible apply declsReady_inv
    | with_reducible apply readCard_inv
    | with_reducible apply readFields_inv
    | with_reducible apply readWords_inv
    | with_reducible apply run_inv
    | with_reducible apply withPlace_inv
    | with_reducible apply Res.seq_inv
    | with_reducible apply Res.seqR_inv
    | with_reducible apply Res.hold_inv
    | with_reducible apply Res.park_inv
    | with_reducible apply Res.trap_inv
    | with_reducible apply Res.jump_inv
    | with_reducible apply JobGot.ok_inv
    | with_reducible apply JobGot.stop_inv
    | with_reducible apply JobGot.wait_inv
    | split
    | (intro _)
    | dsimp only
    | grind [State.mk_inv, State.Inv.mem, State.Inv.threads, State.Inv.units, State.Inv.hub, Hub.mk_inv, HubInv.launches, TUnit.mk_inv, TUnit.Inv.scr, TUnit.Inv.obuf, TUnit.Inv.gangs, Launch.mk_inv, Launch.Inv.desc, OutInv_next, OutInv_fault, State.acceptJob_inv, State.leaveQueue_inv, State.putDst_inv, State.settleFor_inv, checkDst_inv, declsReady_inv, readCard_inv, readFields_inv, readWords_inv, run_inv, withPlace_inv, AMap.All.map, Res.seq_inv, Res.seqR_inv, Res.hold_inv, Res.park_inv, Res.trap_inv, Res.jump_inv, ResInv.seq, ResInv.seqR, ResInv.hold, ResInv.park, ResInv.trap, ResInv.jump, JobGot.ok_inv, JobGot.stop_inv, JobGot.wait_inv, JobGotInv.ok, JobGotInv.stop, JobGotInv.wait]

theorem execMatrixQueueAccept_inv (ck : Nat) (s : State) (h_s : State.Inv s) : OutInv (execMatrixQueueAccept ck s) := by
  unfold execMatrixQueueAccept; grind [State.mk_inv, State.Inv.mem, State.Inv.threads, State.Inv.units, State.Inv.hub, Hub.mk_inv, HubInv.launches, TUnit.mk_inv, TUnit.Inv.scr, TUnit.Inv.obuf, TUnit.Inv.gangs, Launch.mk_inv, Launch.Inv.desc, OutInv_next, OutInv_fault, State.reissue_inv, JobGot.ok_inv, JobGot.stop_inv, JobGot.wait_inv, JobGotInv.ok, JobGotInv.stop, JobGotInv.wait]

theorem State.keepJob_inv (s : State) (ck : Nat) (j : Job) (ctr : Option Loc) (h_s : State.Inv s) : State.Inv (State.keepJob s ck j ctr) := by
  unfold State.keepJob; grind [State.mk_inv, State.Inv.mem, State.Inv.threads, State.Inv.units, State.Inv.hub, Hub.mk_inv, HubInv.launches, TUnit.mk_inv, TUnit.Inv.scr, TUnit.Inv.obuf, TUnit.Inv.gangs, Launch.mk_inv, Launch.Inv.desc, OutInv_next, OutInv_fault, State.modCore_inv, AMap.All.map, JobGot.ok_inv, JobGot.stop_inv, JobGot.wait_inv, JobGotInv.ok, JobGotInv.stop, JobGotInv.wait]

theorem State.jobLeave_inv (s : State) (ck : Nat) (j : Job) (ctr : Option Loc) (h_s : State.Inv s) : State.Inv (State.jobLeave s ck j ctr) := by
  unfold State.jobLeave; grind [State.mk_inv, State.Inv.mem, State.Inv.threads, State.Inv.units, State.Inv.hub, Hub.mk_inv, HubInv.launches, TUnit.mk_inv, TUnit.Inv.scr, TUnit.Inv.obuf, TUnit.Inv.gangs, Launch.mk_inv, Launch.Inv.desc, OutInv_next, OutInv_fault, State.counterAdd_inv, State.keepJob_inv, State.modCore_inv, State.returnHandle_inv, run_inv, AMap.All.filter, Res.seq_inv, Res.seqR_inv, Res.hold_inv, Res.park_inv, Res.trap_inv, Res.jump_inv, ResInv.seq, ResInv.seqR, ResInv.hold, ResInv.park, ResInv.trap, ResInv.jump, JobGot.ok_inv, JobGot.stop_inv, JobGot.wait_inv, JobGotInv.ok, JobGotInv.stop, JobGotInv.wait]

theorem State.jobToken_inv (s : State) (ck : Nat) (id : Nat) (key : Nat) (tok : Option Nat) (h_s : State.Inv s) : State.Inv (State.jobToken s ck id key tok) := by
  unfold State.jobToken; grind [State.mk_inv, State.Inv.mem, State.Inv.threads, State.Inv.units, State.Inv.hub, Hub.mk_inv, HubInv.launches, TUnit.mk_inv, TUnit.Inv.scr, TUnit.Inv.obuf, TUnit.Inv.gangs, Launch.mk_inv, Launch.Inv.desc, OutInv_next, OutInv_fault, State.modMjob_inv, AMap.All.set, JobGot.ok_inv, JobGot.stop_inv, JobGot.wait_inv, JobGotInv.ok, JobGotInv.stop, JobGotInv.wait]

theorem State.jobFinish_inv (s : State) (ck : Nat) (j : Job) (ctr : Option Loc) (h_s : State.Inv s) : State.Inv (State.jobFinish s ck j ctr) := by
  unfold State.jobFinish; grind [State.mk_inv, State.Inv.mem, State.Inv.threads, State.Inv.units, State.Inv.hub, Hub.mk_inv, HubInv.launches, TUnit.mk_inv, TUnit.Inv.scr, TUnit.Inv.obuf, TUnit.Inv.gangs, Launch.mk_inv, Launch.Inv.desc, OutInv_next, OutInv_fault, State.engRuns_inv, State.engWriteRuns_inv, State.jobLeave_inv, State.jobToken_inv, State.logEng_inv, State.modMjob_inv, JobGot.ok_inv, JobGot.stop_inv, JobGot.wait_inv, JobGotInv.ok, JobGotInv.stop, JobGotInv.wait]

theorem State.jobEnd_inv (s : State) (ck : Nat) (j : Job) (c : CtrAt) (h_s : State.Inv s) : State.Inv (State.jobEnd s ck j c) := by
  unfold State.jobEnd; grind [State.mk_inv, State.Inv.mem, State.Inv.threads, State.Inv.units, State.Inv.hub, Hub.mk_inv, HubInv.launches, TUnit.mk_inv, TUnit.Inv.scr, TUnit.Inv.obuf, TUnit.Inv.gangs, Launch.mk_inv, Launch.Inv.desc, OutInv_next, OutInv_fault, State.jobFinish_inv, State.jobWait_inv, JobGot.ok_inv, JobGot.stop_inv, JobGot.wait_inv, JobGotInv.ok, JobGotInv.stop, JobGotInv.wait]

theorem execJobEnd_inv (ck : Nat) (id : Nat) (s : State) (h_s : State.Inv s) : OutInv (execJobEnd ck id s) := by
  unfold execJobEnd; grind [State.mk_inv, State.Inv.mem, State.Inv.threads, State.Inv.units, State.Inv.hub, Hub.mk_inv, HubInv.launches, TUnit.mk_inv, TUnit.Inv.scr, TUnit.Inv.obuf, TUnit.Inv.gangs, Launch.mk_inv, Launch.Inv.desc, OutInv_next, OutInv_fault, State.counterLoc_inv, State.jobEnd_inv, State.jobToken_inv, State.modMjob_inv, JobGot.ok_inv, JobGot.stop_inv, JobGot.wait_inv, JobGotInv.ok, JobGotInv.stop, JobGotInv.wait]

theorem execWatchdogTimeout_inv (ck : Nat) (id : Nat) (s : State) (h_s : State.Inv s) : OutInv (execWatchdogTimeout ck id s) := by
  unfold execWatchdogTimeout; grind [State.mk_inv, State.Inv.mem, State.Inv.threads, State.Inv.units, State.Inv.hub, Hub.mk_inv, HubInv.launches, TUnit.mk_inv, TUnit.Inv.scr, TUnit.Inv.obuf, TUnit.Inv.gangs, Launch.mk_inv, Launch.Inv.desc, OutInv_next, OutInv_fault, State.jobStop_inv, State.logEng_inv, State.modMjob_inv, State.modOp_inv, State.opStop_inv, JobGot.ok_inv, JobGot.stop_inv, JobGot.wait_inv, JobGotInv.ok, JobGotInv.stop, JobGotInv.wait]

theorem execHandleReturn_inv (uid : Nat) (h : Nat) (s : State) (h_s : State.Inv s) : OutInv (execHandleReturn uid h s) := by
  unfold execHandleReturn; grind [State.mk_inv, State.Inv.mem, State.Inv.threads, State.Inv.units, State.Inv.hub, Hub.mk_inv, HubInv.launches, TUnit.mk_inv, TUnit.Inv.scr, TUnit.Inv.obuf, TUnit.Inv.gangs, Launch.mk_inv, Launch.Inv.desc, OutInv_next, OutInv_fault, State.returnHandle_inv, JobGot.ok_inv, JobGot.stop_inv, JobGot.wait_inv, JobGotInv.ok, JobGotInv.stop, JobGotInv.wait]

theorem execAllocationRelease_inv (uid : Nat) (s : State) (h_s : State.Inv s) : OutInv (execAllocationRelease uid s) := by
  unfold execAllocationRelease; grind [State.mk_inv, State.Inv.mem, State.Inv.threads, State.Inv.units, State.Inv.hub, Hub.mk_inv, HubInv.launches, TUnit.mk_inv, TUnit.Inv.scr, TUnit.Inv.obuf, TUnit.Inv.gangs, Launch.mk_inv, Launch.Inv.desc, OutInv_next, OutInv_fault, State.modUnit_inv, State.unit?_inv, AMap.All.filter, JobGot.ok_inv, JobGot.stop_inv, JobGot.wait_inv, JobGotInv.ok, JobGotInv.stop, JobGotInv.wait]

end Sys2Proof.Machine
end

