-- ==== Sys2Proof/Laws/KeptSequencer.lean ====
section
/-! SUPPORT. That every operation of Machine/Sequencer.lean keeps the invariant State.Inv. -/

namespace Sys2Proof.Machine

theorem evenAddr_of_bne {w : Word} (h : (w.toNat % 2 == 1) = false) : EvenAddr w := by
  unfold EvenAddr; simp only [beq_eq_false_iff_ne, ne_eq] at h; omega
/-- A descriptor that R323 does not refuse has even entry and handler addresses. -/
theorem mem_takeWhile {α : Type} (p : α → Bool) {a : α} : ∀ {xs : List α}, a ∈ xs.takeWhile p → p a = true
  | [], h => by cases h
  | x :: xs, h => by
    by_cases hx : p x = true
    · rw [List.takeWhile_cons_of_pos hx] at h
      rcases List.mem_cons.1 h with rfl | h
      · exact hx
      · exact mem_takeWhile p h
    · rw [List.takeWhile_cons_of_neg hx] at h; cases h
theorem rolesOf_even {bs : List Byte} (h : (upFrom 0 4).any (entryOdd bs) = false) : ∀ r ∈ rolesOf bs, EvenAddr r.entry := by
  intro r hr
  unfold rolesOf at hr
  have hg := mem_takeWhile _ hr
  obtain ⟨k, hk, rfl⟩ := List.mem_map.1 ((List.takeWhile_sublist _).subset hr)
  rw [List.any_eq_false] at h
  have ho := h k hk
  unfold entryOdd at ho
  simp only [Bool.and_eq_true, not_and] at ho
  have ho := ho hg
  simp only [beq_iff_eq] at ho
  unfold EvenAddr Word.ofN
  rw [BitVec.toNat_add]
  split at ho <;> simp_all only [if_true, if_false, BitVec.toNat_ofNat] <;> omega
theorem descOf_inv {bs : List Byte} {spec : Option (List Byte)} (h : descBad bs spec = false) : DescInv (descOf bs) := by
  unfold descBad at h
  simp only [Bool.or_eq_false_iff] at h
  exact ⟨evenAddr_of_bne h.1.1.1.1.1.1.2, rolesOf_even h.1.1.1.1.1.2⟩
theorem lowest_fold (b : List Nat) : ∀ m, 0 < m → 0 < b.foldl (fun m r => if m = 0 || r < m then r else m) m ∨ 0 ∈ b := by
  induction b with
  | nil => intro m hm; exact .inl hm
  | cons r rs ih =>
    intro m hm
    simp only [List.foldl_cons]
    split
    · by_cases hr : r = 0
      · exact .inr (by simp [hr])
      · rcases ih r (Nat.pos_of_ne_zero hr) with h | h
        · exact .inl h
        · exact .inr (List.mem_cons_of_mem _ h)
    · rcases ih m hm with h | h
      · exact .inl h
      · exact .inr (List.mem_cons_of_mem _ h)
theorem refusal_desc {s : State} {jid : Nat} {bs : List Byte} {args : Bool} {spec : Option (List Byte)}
    (h : s.refusal jid bs args spec = 0) : DescInv (descOf bs) := by
  cases hb : descBad bs spec with
  | false => exact descOf_inv hb
  | true =>
    exfalso
    unfold State.refusal lowest at h
    rw [hb] at h
    simp only [List.filter_cons_of_pos, List.map_cons, List.foldl_cons] at h
    have hp := lowest_fold ((List.filter (fun x => x.2) [(0x21, rolesBad bs), (0x22, !rolesBad bs && s.neverFits jid (descOf bs)), (0x23, !args)]).map (·.1)) 0x20 (by decide)
    rcases hp with hp | hp
    · simp only [decide_true, Bool.true_or, if_true] at h; omega
    · simp only [List.mem_map, List.mem_filter, List.mem_cons, List.not_mem_nil, or_false] at hp
      rcases hp with ⟨x, ⟨hx, _⟩, h0⟩
      rcases hx with rfl | rfl | rfl <;> cases h0
theorem upFrom_all {P : Nat × Thread → Prop} {f : Nat → Nat × Thread} (h : ∀ k, P (f k)) (xs : List Nat) : ∀ p ∈ xs.map f, P p := by
  intro p hp
  rcases List.mem_map.1 hp with ⟨k, _, rfl⟩
  exact h k

theorem State.modChain_inv (s : State) (n : Nat) (f : Chain → Chain) (h_s : State.Inv s) : State.Inv (State.modChain s n f) := by
  unfold State.modChain; grind [State.mk_inv, State.Inv.mem, State.Inv.threads, State.Inv.units, State.Inv.hub, Hub.mk_inv, HubInv.launches, TUnit.mk_inv, TUnit.Inv.scr, TUnit.Inv.obuf, TUnit.Inv.gangs, Launch.mk_inv, Launch.Inv.desc, OutInv_next, OutInv_fault, State.modHub_inv]

theorem State.modGraph_inv (s : State) (key : Nat) (f : Graph → Graph) (h_s : State.Inv s) : State.Inv (State.modGraph s key f) := by
  unfold State.modGraph; grind [State.mk_inv, State.Inv.mem, State.Inv.threads, State.Inv.units, State.Inv.hub, Hub.mk_inv, HubInv.launches, TUnit.mk_inv, TUnit.Inv.scr, TUnit.Inv.obuf, TUnit.Inv.gangs, Launch.mk_inv, Launch.Inv.desc, OutInv_next, OutInv_fault, State.modHub_inv, AMap.All.map]

theorem State.logSeq_inv (s : State) (dpa : Option Nat) (cause : Nat) (h_s : State.Inv s) : State.Inv (State.logSeq s dpa cause) := by
  unfold State.logSeq; grind [State.mk_inv, State.Inv.mem, State.Inv.threads, State.Inv.units, State.Inv.hub, Hub.mk_inv, HubInv.launches, TUnit.mk_inv, TUnit.Inv.scr, TUnit.Inv.obuf, TUnit.Inv.gangs, Launch.mk_inv, Launch.Inv.desc, OutInv_next, OutInv_fault, State.logMgmt_inv, State.takeFresh_inv]

theorem State.seqDone_inv (s : State) (key : Nat) (h_s : State.Inv s) : State.Inv (State.seqDone s key) := by
  unfold State.seqDone; grind [State.mk_inv, State.Inv.mem, State.Inv.threads, State.Inv.units, State.Inv.hub, Hub.mk_inv, HubInv.launches, TUnit.mk_inv, TUnit.Inv.scr, TUnit.Inv.obuf, TUnit.Inv.gangs, Launch.mk_inv, Launch.Inv.desc, OutInv_next, OutInv_fault, State.modHub_inv, AMap.All.del]

theorem State.seqXlate_inv (s : State) (key : Nat) (j : HJob) (va : Word) (n : Nat) (write : Bool) (h_s : State.Inv s) : State.Inv ((State.seqXlate s key j va n write)).2 := by
  unfold State.seqXlate; grind [State.mk_inv, State.Inv.mem, State.Inv.threads, State.Inv.units, State.Inv.hub, Hub.mk_inv, HubInv.launches, TUnit.mk_inv, TUnit.Inv.scr, TUnit.Inv.obuf, TUnit.Inv.gangs, Launch.mk_inv, Launch.Inv.desc, OutInv_next, OutInv_fault, State.modHub_inv, State.raiseFault_inv, State.seqDone_inv, State.translate_inv, AMap.All.set]

theorem State.seqRead_inv (s : State) (key : Nat) (j : HJob) (h_s : State.Inv s) : ∀ x0 x1 x2, State.Inv (((State.seqRead s key j) x0 x1 x2)).2 := by
  intro x0 x1 x2
  fun_induction State.seqRead s key j x0 x1 x2 <;> grind [State.mk_inv, State.Inv.mem, State.Inv.threads, State.Inv.units, State.Inv.hub, Hub.mk_inv, HubInv.launches, TUnit.mk_inv, TUnit.Inv.scr, TUnit.Inv.obuf, TUnit.Inv.gangs, Launch.mk_inv, Launch.Inv.desc, OutInv_next, OutInv_fault, State.seqXlate_inv]

theorem State.seqStore_inv (s : State) (d : Nat) (bs : List Byte) (lid : Nat) (h_s : State.Inv s) : State.Inv (State.seqStore s d bs lid) := by
  unfold State.seqStore; grind [State.mk_inv, State.Inv.mem, State.Inv.threads, State.Inv.units, State.Inv.hub, Hub.mk_inv, HubInv.launches, TUnit.mk_inv, TUnit.Inv.scr, TUnit.Inv.obuf, TUnit.Inv.gangs, Launch.mk_inv, Launch.Inv.desc, OutInv_next, OutInv_fault, State.noteWrite_inv, State.offWrite_inv, State.takeSeq_inv, State.writeAt_inv]

theorem State.seqWrite_inv (s : State) (key : Nat) (j : HJob) (va : Word) (bs : List Byte) (h_s : State.Inv s) : State.Inv ((State.seqWrite s key j va bs)).2 := by
  unfold State.seqWrite; grind [State.mk_inv, State.Inv.mem, State.Inv.threads, State.Inv.units, State.Inv.hub, Hub.mk_inv, HubInv.launches, TUnit.mk_inv, TUnit.Inv.scr, TUnit.Inv.obuf, TUnit.Inv.gangs, Launch.mk_inv, Launch.Inv.desc, OutInv_next, OutInv_fault, State.logSeq_inv, State.seqDone_inv, State.seqStore_inv, State.seqXlate_inv]

theorem State.bump_inv (s : State) (key : Nat) (j : HJob) (va : Word) (h_s : State.Inv s) : State.Inv ((State.bump s key j va)).2 := by
  unfold State.bump; grind [State.mk_inv, State.Inv.mem, State.Inv.threads, State.Inv.units, State.Inv.hub, Hub.mk_inv, HubInv.launches, TUnit.mk_inv, TUnit.Inv.scr, TUnit.Inv.obuf, TUnit.Inv.gangs, Launch.mk_inv, Launch.Inv.desc, OutInv_next, OutInv_fault, State.logSeq_inv, State.seqDone_inv, State.seqStore_inv, State.seqXlate_inv]

theorem State.seqCounter_inv (s : State) (key : Nat) (j : HJob) (va : Word) (h_s : State.Inv s) : State.Inv ((State.seqCounter s key j va)).2 := by
  unfold State.seqCounter; grind [State.mk_inv, State.Inv.mem, State.Inv.threads, State.Inv.units, State.Inv.hub, Hub.mk_inv, HubInv.launches, TUnit.mk_inv, TUnit.Inv.scr, TUnit.Inv.obuf, TUnit.Inv.gangs, Launch.mk_inv, Launch.Inv.desc, OutInv_next, OutInv_fault, State.seqDone_inv, State.seqXlate_inv]

theorem State.acceptLaunch_inv (s : State) (jid : Nat) (gkey : Nat) (bs : List Byte) (args : List Byte) (spec : Option (Nat × List Byte)) (wctr : Word) (wval : Word) (h_s : State.Inv s) (h_bs : DescInv (descOf bs)) : State.Inv ((State.acceptLaunch s jid gkey bs args spec wctr wval)).2 := by
  unfold State.acceptLaunch; grind [State.mk_inv, State.Inv.mem, State.Inv.threads, State.Inv.units, State.Inv.hub, Hub.mk_inv, HubInv.launches, TUnit.mk_inv, TUnit.Inv.scr, TUnit.Inv.obuf, TUnit.Inv.gangs, Launch.mk_inv, Launch.Inv.desc, OutInv_next, OutInv_fault, State.modHub_inv, descOf_inv, AMap.All.set, AMap.All.map]

theorem newThread_inv (uid tg : Nat) (r : Role) (pvb : Nat) (h_r : EvenAddr r.entry) : Thread.Inv (newThread uid tg r pvb) :=
  Thread.startRegion_inv _ _ ⟨h_r, h_r, loopsOk_nil, loopsOk_nil, Nat.zero_le _, Nat.zero_le _, Nat.zero_le _, Nat.zero_le _⟩ h_r
theorem threadsFrom_inv (uid pvb : Nat) : ∀ (tg : Nat) (rs : List Role), (∀ r ∈ rs, EvenAddr r.entry) → AMap.All Thread.Inv (threadsFrom uid pvb tg rs)
  | _, [], _ => by intro p hp; cases hp
  | tg, r :: rs, h => by
    unfold threadsFrom
    refine AMap.All.append ?_ (threadsFrom_inv uid pvb _ rs fun x hx => h x (List.mem_cons_of_mem _ hx))
    exact upFrom_all (P := fun p => p.2.Inv) (fun k => newThread_inv uid k r pvb (h r List.mem_cons_self)) _

theorem mem_map_zip {α β γ : Type} {P : γ → Prop} {f : α × β → γ} (h : ∀ x, P (f x)) (xs : List (α × β)) : ∀ p ∈ xs.map f, P p := by
  intro p hp
  rcases List.mem_map.1 hp with ⟨x, _, rfl⟩
  exact h x
theorem State.startUnit_inv (s : State) (lid : Nat) (idx : Nat) (ck : Nat) (l : Launch) (h_s : State.Inv s) (h_l : Launch.Inv l) : State.Inv (State.startUnit s lid idx ck l) := by
  unfold State.startUnit
  have hq := State.takeSeq_inv s h_s
  generalize s.takeSeq = r at hq
  rcases r with ⟨q, s1⟩
  dsimp only at hq ⊢
  refine State.throttle_inv _ _ (State.refresh_inv _ _ (State.modLaunch_inv _ _ _ ?_ (fun x hx => hx)))
  have hf := foldl_inv (f := fun s r => s.forgetAt r.loc r.n) (fun a r ha => State.forgetAt_inv a r.loc r.n ha)
    (if l.desc.save = 0 then [] else s1.quietPages l.jid (l.desc.saveAt idx) l.desc.saveSize)
    { s1 with fresh := s1.fresh + 1 + l.desc.threads / 32 } (State.congr_inv hq rfl rfl rfl rfl)
  refine ⟨hf.mem, AMap.All.append (AMap.All.filter _ hq.threads) (AMap.All.map _ ?_ (threadsFrom_inv _ _ _ _ h_l.2)),
    AMap.All.set _ hf.units ⟨Store.empty_wf, Store.forget_wf Store.empty_wf _ _ _, ?_⟩, hf.hub⟩
  · intro p hp; exact hp
  · refine mem_map_zip (P := fun p : Nat × Gang => p.2.Inv) ?_ _
    intro x; exact Store.forget_wf Store.empty_wf _ _ _

end Sys2Proof.Machine
end

