-- ==== Sys2Proof/Laws/KeptUnits.lean ====
section
/-! SUPPORT. That every operation of Machine/Units.lean keeps the invariant State.Inv. -/

namespace Sys2Proof.Machine

theorem foldl_keeps {α β : Type} {P : α → Prop} {f : α → β → α} (hf : ∀ a b, P a → P (f a b)) : ∀ (xs : List β) (a : α), P a → P (xs.foldl f a)
  | [], _, h => h
  | x :: xs, a, h => foldl_keeps hf xs _ (hf a x h)
theorem foldl_pair_inv {α β : Type} {f : β × State → α → β × State} (hf : ∀ r a, r.2.Inv → (f r a).2.Inv) (xs : List α) (b : β) (s : State)
    (h : s.Inv) : (xs.foldl f (b, s)).2.Inv := foldl_keeps (P := fun r : β × State => r.2.Inv) hf xs (b, s) h
theorem foldl_thread_inv (t : Thread) (h : t.Inv) (xs : List LoadRec) : (xs.foldl Thread.loadDone t).Inv :=
  foldl_keeps (fun a b ha => Thread.loadDone_inv a b ha) xs t h
theorem mem_setAt {α : Type} {y z : α} : ∀ {xs : List α} {i : Nat}, z ∈ setAt xs i y → z = y ∨ z ∈ xs
  | [], _, h => by cases h
  | x :: xs, 0, h => by
    rcases List.mem_cons.1 h with h | h
    · exact .inl h
    · exact .inr (List.mem_cons_of_mem _ h)
  | x :: xs, i + 1, h => by
    rcases List.mem_cons.1 h with h | h
    · exact .inr (h ▸ List.mem_cons_self)
    · rcases mem_setAt h with h | h
      · exact .inl h
      · exact .inr (List.mem_cons_of_mem _ h)
theorem length_setAt {α : Type} (y : α) : ∀ (xs : List α) (i : Nat), (setAt xs i y).length = xs.length
  | [], _ => rfl
  | _ :: _, 0 => rfl
  | _ :: xs, i + 1 => congrArg (· + 1) (length_setAt y xs i)
theorem loopsOk_setAt {ls : List LoopLevel} {l : LoopLevel} (i : Nat) (h : LoopsOk ls) (hl : EvenAddr l.s) : LoopsOk (setAt ls i l) :=
  ⟨by rw [length_setAt]; exact h.1, fun x hx => by rcases mem_setAt hx with rfl | hx; exact hl; exact h.2 x hx⟩
theorem loopLevel_spoil_even {l : LoopLevel} (k : Nat) (w : Word) (h : EvenAddr l.s) : EvenAddr (l.spoil k w).s := by
  unfold LoopLevel.spoil; split
  · exact h
  · exact evenAddr_two_mul _
  · exact h
  · exact h
/-- A region shadow of which one item is undefined keeps what a thread's invariant says of it. -/
theorem shadow_spoil_keeps {x : Shadow} (k : Nat) (w : Word) (h : LoopsOk x.loops) (hc : x.cd ≤ 65535) (hd : x.hd ≤ 65535) :
    LoopsOk (x.spoil k w).loops ∧ (x.spoil k w).cd ≤ 65535 ∧ (x.spoil k w).hd ≤ 65535 := by
  have hw : ∀ n : Nat, n % 65536 ≤ 65535 := fun n => by omega
  unfold Shadow.spoil
  split
  · exact ⟨h, hc, hd⟩
  · split
    · refine ⟨?_, hc, hd⟩
      dsimp only
      split
      · rename_i l hl
        exact loopsOk_setAt _ h (loopLevel_spoil_even _ _ (h.2 l (List.mem_of_getElem? hl)))
      · exact h
    · split
      · exact ⟨h, hw _, hd⟩
      · exact ⟨h, hc, hd⟩
      · exact ⟨h, hc, hd⟩
      · exact ⟨h, hc, hd⟩
      · exact ⟨h, hc, hd⟩
      · exact ⟨h, hc, hw _⟩
theorem State.threadsOf_inv {s : State} {uid i : Nat} {p : Nat × Thread} (h : s.Inv) (hp : (s.threadsOf uid)[i]? = some p) : p.2.Inv :=
  h.threads p (List.mem_filter.1 (List.mem_of_getElem? hp)).1
theorem State.putRec_inv (s : State) (k : Nat) (bs : List Byte) (h : s.Inv) : State.Inv (s.modHub fun h => { h with recs := AMap.set h.recs k bs }) :=
  State.modHub_inv s _ h (fun h => h)
theorem TUnit.gangsMap_inv {u : TUnit} (f : Nat × Gang → Nat × Gang) (hf : ∀ p, (f p).2.priv = p.2.priv) (h : u.Inv) :
    AMap.All Gang.Inv (u.gangs.map f) := by
  refine AMap.All.map f ?_ h.2.2
  intro p hp
  unfold Gang.Inv
  rw [hf]
  exact hp
theorem TUnit.gangsZip_inv {α : Type} {u : TUnit} (f : (Nat × Gang) × α → Nat × Gang) (hf : ∀ x, (f x).2.priv = x.1.2.priv) (h : u.Inv) (xs : List α) :
    AMap.All Gang.Inv ((u.gangs.zip xs).map f) := by
  intro p hp
  obtain ⟨x, hx, rfl⟩ := List.mem_map.1 hp
  unfold Gang.Inv
  rw [hf]
  exact h.2.2 x.1 (List.of_mem_zip hx).1

theorem State.forgetDst_inv (s : State) (o : CopyOp) (h_s : State.Inv s) : State.Inv (State.forgetDst s o) := by
  unfold State.forgetDst; grind [State.mk_inv, State.Inv.mem, State.Inv.threads, State.Inv.units, State.Inv.hub, Hub.mk_inv, HubInv.launches, TUnit.mk_inv, TUnit.Inv.scr, TUnit.Inv.obuf, TUnit.Inv.gangs, Launch.mk_inv, Launch.Inv.desc, OutInv_next, OutInv_fault, State.forgetAs_inv, Store.forget_wf, foldl_inv]

theorem State.dropOps_inv (s : State) (uid : Nat) (undef : Bool) (h_s : State.Inv s) : State.Inv (State.dropOps s uid undef) := by
  unfold State.dropOps; grind [State.mk_inv, State.Inv.mem, State.Inv.threads, State.Inv.units, State.Inv.hub, Hub.mk_inv, HubInv.launches, TUnit.mk_inv, TUnit.Inv.scr, TUnit.Inv.obuf, TUnit.Inv.gangs, Launch.mk_inv, Launch.Inv.desc, OutInv_next, OutInv_fault, State.forgetDst_inv, State.setAllPresent_inv, run_inv, Store.forget_wf, AMap.All.filter, AMap.All.map, foldl_inv, Res.seq_inv, Res.seqR_inv, Res.hold_inv, Res.park_inv, Res.trap_inv, Res.jump_inv, ResInv.seq, ResInv.seqR, ResInv.hold, ResInv.park, ResInv.trap, ResInv.jump]

theorem State.unseatUnit_inv (s : State) (uid : Nat) (h_s : State.Inv s) : State.Inv (State.unseatUnit s uid) := by
  unfold State.unseatUnit; grind [State.mk_inv, State.Inv.mem, State.Inv.threads, State.Inv.units, State.Inv.hub, Hub.mk_inv, HubInv.launches, TUnit.mk_inv, TUnit.Inv.scr, TUnit.Inv.obuf, TUnit.Inv.gangs, Launch.mk_inv, Launch.Inv.desc, OutInv_next, OutInv_fault, State.freeSeat_inv, State.unit?_inv, Gang.mk_inv, Gang.Inv.priv, Gang.empty_inv, TUnit.gang_inv, AMap.All.get?, AMap.All.filter, AMap.All.map, foldl_inv, Issue.run_inv, Issue.done_inv, IssueInv.run, IssueInv.done]

theorem State.releaseHandles_inv (s : State) (uid : Nat) (h_s : State.Inv s) : State.Inv (State.releaseHandles s uid) := by
  unfold State.releaseHandles; grind [State.mk_inv, State.Inv.mem, State.Inv.threads, State.Inv.units, State.Inv.hub, Hub.mk_inv, HubInv.launches, TUnit.mk_inv, TUnit.Inv.scr, TUnit.Inv.obuf, TUnit.Inv.gangs, Launch.mk_inv, Launch.Inv.desc, OutInv_next, OutInv_fault, State.modUnit_inv, State.returnHandle_inv, State.unit?_inv, AMap.All.map, foldl_inv]

theorem State.recDone_inv (s : State) (uid : Nat) (h_s : State.Inv s) : State.Inv (State.recDone s uid) := by
  unfold State.recDone; grind [State.mk_inv, State.Inv.mem, State.Inv.threads, State.Inv.units, State.Inv.hub, Hub.mk_inv, HubInv.launches, TUnit.mk_inv, TUnit.Inv.scr, TUnit.Inv.obuf, TUnit.Inv.gangs, Launch.mk_inv, Launch.Inv.desc, OutInv_next, OutInv_fault, State.modHub_inv, State.modLaunch_inv, State.modUnit_inv, AMap.All.del]

theorem State.tryRecord_inv (s : State) (uid : Nat) (h_s : State.Inv s) : State.Inv (State.tryRecord s uid) := by
  unfold State.tryRecord; grind [State.mk_inv, State.Inv.mem, State.Inv.threads, State.Inv.units, State.Inv.hub, Hub.mk_inv, HubInv.launches, TUnit.mk_inv, TUnit.Inv.scr, TUnit.Inv.obuf, TUnit.Inv.gangs, Launch.mk_inv, Launch.Inv.desc, OutInv_next, OutInv_fault, State.launch?_inv, State.recDone_inv, State.seqWrite_inv, State.unit?_inv, Thread.mk_inv, Thread.Inv.pc, Thread.Inv.rpc, Thread.Inv.loops, Thread.Inv.shadowLoops, Thread.Inv.cd, Thread.Inv.hd, Thread.Inv.shadowCd, Thread.Inv.shadowHd, loopsOk_nil, Thread.pw_inv, evenAddr_add, evenAddr_ofN, evenAddr_two, evenAddr_four]

theorem Thread.dead_inv (t : Thread) (h_t : Thread.Inv t) : Thread.Inv (Thread.dead t) := by
  unfold Thread.dead; grind [State.mk_inv, State.Inv.mem, State.Inv.threads, State.Inv.units, State.Inv.hub, Hub.mk_inv, HubInv.launches, TUnit.mk_inv, TUnit.Inv.scr, TUnit.Inv.obuf, TUnit.Inv.gangs, Launch.mk_inv, Launch.Inv.desc, OutInv_next, OutInv_fault, Thread.mk_inv, Thread.Inv.pc, Thread.Inv.rpc, Thread.Inv.loops, Thread.Inv.shadowLoops, Thread.Inv.cd, Thread.Inv.hd, Thread.Inv.shadowCd, Thread.Inv.shadowHd, loopsOk_nil, Thread.pw_inv, evenAddr_add, evenAddr_ofN, evenAddr_two, evenAddr_four, AMap.All.map]

theorem State.cancelUnit_inv (s : State) (lid : Nat) (idx : Nat) (h_s : State.Inv s) : State.Inv (State.cancelUnit s lid idx) := by
  unfold State.cancelUnit
  dsimp only
  split
  · exact h_s
  · split
    · exact h_s
    · split
      · exact State.tryRecord_inv _ _ (State.putRec_inv _ _ _ h_s)
      · split
        · exact h_s
        · with_reducible refine State.tryRecord_inv _ _ (State.putRec_inv _ _ _ (State.throttle_inv _ _ (State.releaseHandles_inv _ _
            (State.modUnit_inv _ _ _ (State.modThreadsOf_inv _ _ _ (State.unseatUnit_inv _ _ (State.dropOps_inv _ _ _
              (foldl_inv (fun a o ha => State.forgetDst_inv a o ha) _ _ ?_))) ?_) ?_))))
          · split
            · exact State.publish_inv s _ h_s
            · exact foldl_inv (fun a p ha => State.drainOut_inv a p.1 ha) _ _ h_s
          · intro t ht
            split
            · exact Thread.dead_inv t ht
            · exact ht
          · intro x hx
            exact ⟨hx.scr, hx.obuf, TUnit.gangsMap_inv _ (fun _ => rfl) hx⟩

theorem State.dropBuffer_inv (s : State) (lid : Nat) (h_s : State.Inv s) : State.Inv (State.dropBuffer s lid) := by
  unfold State.dropBuffer; grind [State.mk_inv, State.Inv.mem, State.Inv.threads, State.Inv.units, State.Inv.hub, Hub.mk_inv, HubInv.launches, TUnit.mk_inv, TUnit.Inv.scr, TUnit.Inv.obuf, TUnit.Inv.gangs, Launch.mk_inv, Launch.Inv.desc, OutInv_next, OutInv_fault, State.launch?_inv, State.modLaunch_inv, State.offWrite_inv, State.putHomes_inv, State.takeSeq_inv, Thread.mk_inv, Thread.Inv.pc, Thread.Inv.rpc, Thread.Inv.loops, Thread.Inv.shadowLoops, Thread.Inv.cd, Thread.Inv.hd, Thread.Inv.shadowCd, Thread.Inv.shadowHd, loopsOk_nil, Thread.pw_inv, evenAddr_add, evenAddr_ofN, evenAddr_two, evenAddr_four]

theorem State.cancelLaunch_inv (s : State) (lid : Nat) (h_s : State.Inv s) : State.Inv (State.cancelLaunch s lid) := by
  unfold State.cancelLaunch; grind [State.mk_inv, State.Inv.mem, State.Inv.threads, State.Inv.units, State.Inv.hub, Hub.mk_inv, HubInv.launches, TUnit.mk_inv, TUnit.Inv.scr, TUnit.Inv.obuf, TUnit.Inv.gangs, Launch.mk_inv, Launch.Inv.desc, OutInv_next, OutInv_fault, State.cancelUnit_inv, State.dropBuffer_inv, State.launch?_inv, State.modLaunch_inv, foldl_inv]

theorem State.cancelGraph_inv (s : State) (key : Nat) (h_s : State.Inv s) : State.Inv (State.cancelGraph s key) := by
  unfold State.cancelGraph; grind [State.mk_inv, State.Inv.mem, State.Inv.threads, State.Inv.units, State.Inv.hub, Hub.mk_inv, HubInv.launches, TUnit.mk_inv, TUnit.Inv.scr, TUnit.Inv.obuf, TUnit.Inv.gangs, Launch.mk_inv, Launch.Inv.desc, OutInv_next, OutInv_fault, State.cancelLaunch_inv, State.modGraph_inv, State.modJob_inv, foldl_inv]

theorem State.cancelPhase_inv (s : State) (jid : Nat) (ph : Nat) (h_s : State.Inv s) : State.Inv (State.cancelPhase s jid ph) := by
  unfold State.cancelPhase; grind [State.mk_inv, State.Inv.mem, State.Inv.threads, State.Inv.units, State.Inv.hub, Hub.mk_inv, HubInv.launches, TUnit.mk_inv, TUnit.Inv.scr, TUnit.Inv.obuf, TUnit.Inv.gangs, Launch.mk_inv, Launch.Inv.desc, OutInv_next, OutInv_fault, State.cancelGraph_inv, State.modJob_inv, AMap.All.filter, foldl_inv]

theorem State.cancelJob_inv (s : State) (jid : Nat) (h_s : State.Inv s) : State.Inv (State.cancelJob s jid) := by
  unfold State.cancelJob; grind [State.mk_inv, State.Inv.mem, State.Inv.threads, State.Inv.units, State.Inv.hub, Hub.mk_inv, HubInv.launches, TUnit.mk_inv, TUnit.Inv.scr, TUnit.Inv.obuf, TUnit.Inv.gangs, Launch.mk_inv, Launch.Inv.desc, OutInv_next, OutInv_fault, State.cancelGraph_inv, State.modChain_inv, State.modGraph_inv, State.modJob_inv, foldl_inv, Fetch.ok_inv, Fetch.trap_inv, Fetch.fault_inv, FetchInv.ok, FetchInv.trap, FetchInv.fault, FetchWord.ok_inv, FetchWord.trap_inv, FetchWord.fault_inv, FetchWordInv.ok, FetchWordInv.trap, FetchWordInv.fault]

theorem execCancellationTakesEffect_inv (idx : Nat) (s : State) (h_s : State.Inv s) : OutInv (execCancellationTakesEffect idx s) := by
  unfold execCancellationTakesEffect; grind [State.mk_inv, State.Inv.mem, State.Inv.threads, State.Inv.units, State.Inv.hub, Hub.mk_inv, HubInv.launches, TUnit.mk_inv, TUnit.Inv.scr, TUnit.Inv.obuf, TUnit.Inv.gangs, Launch.mk_inv, Launch.Inv.desc, OutInv_next, OutInv_fault, State.cancelGraph_inv, State.cancelJob_inv, State.cancelLaunch_inv, State.cancelPhase_inv, State.cancelUnit_inv, State.modHub_inv]

theorem Thread.restart_inv (t : Thread) (h_t : Thread.Inv t) : Thread.Inv (Thread.restart t) := by
  unfold Thread.restart; grind [State.mk_inv, State.Inv.mem, State.Inv.threads, State.Inv.units, State.Inv.hub, Hub.mk_inv, HubInv.launches, TUnit.mk_inv, TUnit.Inv.scr, TUnit.Inv.obuf, TUnit.Inv.gangs, Launch.mk_inv, Launch.Inv.desc, OutInv_next, OutInv_fault, Thread.mk_inv, Thread.Inv.pc, Thread.Inv.rpc, Thread.Inv.loops, Thread.Inv.shadowLoops, Thread.Inv.cd, Thread.Inv.hd, Thread.Inv.shadowCd, Thread.Inv.shadowHd, loopsOk_nil, Thread.pw_inv, evenAddr_add, evenAddr_ofN, evenAddr_two, evenAddr_four, AMap.All.map]

theorem State.dropRecords_inv (s : State) (uid : Nat) (gg : Nat) (g : Gang) (h_g : Gang.Inv g) : Gang.Inv (State.dropRecords s uid gg g) := by
  unfold State.dropRecords; grind [State.mk_inv, State.Inv.mem, State.Inv.threads, State.Inv.units, State.Inv.hub, Hub.mk_inv, HubInv.launches, TUnit.mk_inv, TUnit.Inv.scr, TUnit.Inv.obuf, TUnit.Inv.gangs, Launch.mk_inv, Launch.Inv.desc, OutInv_next, OutInv_fault, Gang.mk_inv, Gang.Inv.priv, Gang.empty_inv, TUnit.gang_inv, AMap.All.get?, AMap.All.filter, AMap.All.map, foldl_inv]

theorem State.saveRuns_inv (s : State) (ck : Nat) (uid : Nat) (tok : Option Nat) (write : Bool) (h_s : State.Inv s) : ∀ x0 x1 x2, State.Inv (((State.saveRuns s ck uid tok write) x0 x1 x2)).2 := by
  intro x0 x1 x2
  fun_induction State.saveRuns s ck uid tok write x0 x1 x2 <;> grind [State.mk_inv, State.Inv.mem, State.Inv.threads, State.Inv.units, State.Inv.hub, Hub.mk_inv, HubInv.launches, TUnit.mk_inv, TUnit.Inv.scr, TUnit.Inv.obuf, TUnit.Inv.gangs, Launch.mk_inv, Launch.Inv.desc, OutInv_next, OutInv_fault, State.raiseFault_inv, State.translate_inv]

theorem State.saveFails_inv (s : State) (uid : Nat) (u : TUnit) (va : Word) (cause : Nat) (dpa : Option Nat) (h_s : State.Inv s) : State.Inv (State.saveFails s uid u va cause dpa) := by
  unfold State.saveFails; grind [State.mk_inv, State.Inv.mem, State.Inv.threads, State.Inv.units, State.Inv.hub, Hub.mk_inv, HubInv.launches, TUnit.mk_inv, TUnit.Inv.scr, TUnit.Inv.obuf, TUnit.Inv.gangs, Launch.mk_inv, Launch.Inv.desc, OutInv_next, OutInv_fault, State.cancelUnit_inv, State.logCore_inv, State.logSeq_inv]

theorem State.finishLoads_inv (s : State) (uid : Nat) (h_s : State.Inv s) : State.Inv (State.finishLoads s uid) := by
  unfold State.finishLoads; grind [State.mk_inv, State.Inv.mem, State.Inv.threads, State.Inv.units, State.Inv.hub, Hub.mk_inv, HubInv.launches, TUnit.mk_inv, TUnit.Inv.scr, TUnit.Inv.obuf, TUnit.Inv.gangs, Launch.mk_inv, Launch.Inv.desc, OutInv_next, OutInv_fault, State.logThread_inv, State.modThread_inv, Thread.loadDone_inv, foldl_thread_inv, Thread.mk_inv, Thread.Inv.pc, Thread.Inv.rpc, Thread.Inv.loops, Thread.Inv.shadowLoops, Thread.Inv.cd, Thread.Inv.hd, Thread.Inv.shadowCd, Thread.Inv.shadowHd, loopsOk_nil, Thread.pw_inv, evenAddr_add, evenAddr_ofN, evenAddr_two, evenAddr_four, foldl_inv]

theorem State.stopUnit_inv (s : State) (uid : Nat) (h_s : State.Inv s) : State.Inv (State.stopUnit s uid) := by
  unfold State.stopUnit; grind [State.mk_inv, State.Inv.mem, State.Inv.threads, State.Inv.units, State.Inv.hub, Hub.mk_inv, HubInv.launches, TUnit.mk_inv, TUnit.Inv.scr, TUnit.Inv.obuf, TUnit.Inv.gangs, Launch.mk_inv, Launch.Inv.desc, OutInv_next, OutInv_fault, State.drainOut_inv, State.dropOps_inv, State.dropRecords_inv, State.finishLoads_inv, State.landUwr_inv, State.modThreadsOf_inv, State.modUnit_inv, State.refresh_inv, State.settle_inv, State.unit?_inv, State.unseatUnit_inv, Thread.restart_inv, Thread.mk_inv, Thread.Inv.pc, Thread.Inv.rpc, Thread.Inv.loops, Thread.Inv.shadowLoops, Thread.Inv.cd, Thread.Inv.hd, Thread.Inv.shadowCd, Thread.Inv.shadowHd, loopsOk_nil, Thread.pw_inv, evenAddr_add, evenAddr_ofN, evenAddr_two, evenAddr_four, Gang.mk_inv, Gang.Inv.priv, Gang.empty_inv, TUnit.gang_inv, AMap.All.get?, AMap.All.map, foldl_inv]

theorem State.writeBlock_inv (s : State) (uid : Nat) (rs : List Run) (h_s : State.Inv s) : State.Inv (State.writeBlock s uid rs) := by
  unfold State.writeBlock; grind [State.mk_inv, State.Inv.mem, State.Inv.threads, State.Inv.units, State.Inv.hub, Hub.mk_inv, HubInv.launches, TUnit.mk_inv, TUnit.Inv.scr, TUnit.Inv.obuf, TUnit.Inv.gangs, Launch.mk_inv, Launch.Inv.desc, OutInv_next, OutInv_fault, State.forgetAt_inv, State.modUnit_inv, State.offWrite_inv, State.takeSeq_inv, Thread.mk_inv, Thread.Inv.pc, Thread.Inv.rpc, Thread.Inv.loops, Thread.Inv.shadowLoops, Thread.Inv.cd, Thread.Inv.hd, Thread.Inv.shadowCd, Thread.Inv.shadowHd, loopsOk_nil, Thread.pw_inv, evenAddr_add, evenAddr_ofN, evenAddr_two, evenAddr_four, Store.forget_wf, foldl_inv]

theorem State.releaseSaved_inv (s : State) (uid : Nat) (h_s : State.Inv s) : State.Inv (State.releaseSaved s uid) := by
  unfold State.releaseSaved; grind [State.mk_inv, State.Inv.mem, State.Inv.threads, State.Inv.units, State.Inv.hub, Hub.mk_inv, HubInv.launches, TUnit.mk_inv, TUnit.Inv.scr, TUnit.Inv.obuf, TUnit.Inv.gangs, Launch.mk_inv, Launch.Inv.desc, OutInv_next, OutInv_fault, State.setUnit_inv, State.throttle_inv, State.unit?_inv]

theorem State.saveUnit_inv (s : State) (uid : Nat) (h_s : State.Inv s) : State.Inv (State.saveUnit s uid) := by
  unfold State.saveUnit; grind [State.mk_inv, State.Inv.mem, State.Inv.threads, State.Inv.units, State.Inv.hub, Hub.mk_inv, HubInv.launches, TUnit.mk_inv, TUnit.Inv.scr, TUnit.Inv.obuf, TUnit.Inv.gangs, Launch.mk_inv, Launch.Inv.desc, OutInv_next, OutInv_fault, State.launchOf_inv, State.modUnit_inv, State.releaseSaved_inv, State.saveFails_inv, State.saveRuns_inv, State.unit?_inv, State.writeBlock_inv, Thread.mk_inv, Thread.Inv.pc, Thread.Inv.rpc, Thread.Inv.loops, Thread.Inv.shadowLoops, Thread.Inv.cd, Thread.Inv.hd, Thread.Inv.shadowCd, Thread.Inv.shadowHd, loopsOk_nil, Thread.pw_inv, evenAddr_add, evenAddr_ofN, evenAddr_two, evenAddr_four]

theorem Thread.spoil_inv (t : Thread) (k : Nat) (w : Word) (h_t : Thread.Inv t) : Thread.Inv (Thread.spoil t k w) := by
  obtain ⟨h1, h2, h3⟩ := shadow_spoil_keeps (k - 8 * t.nregs - 28) w h_t.shadowLoops h_t.shadowCd h_t.shadowHd
  have he : EvenAddr (evenOf (spoilWord t.rpc w)) := evenAddr_two_mul _
  unfold Thread.spoil
  dsimp only
  split
  · exact h_t
  · split
    · exact h_t
    · split
      · exact h_t
      · split
        · exact h_t
        · exact h_t
        · exact ⟨he, he, h_t.2.2⟩
        · exact h_t
        · exact h_t
        · exact ⟨h_t.pc, h_t.rpc, h1, h1, h2, h3, h2, h3⟩

theorem TUnit.spoil_inv (u : TUnit) (region : Nat) (item : Nat) (seed : Nat) (w : Word) (h_u : TUnit.Inv u) : TUnit.Inv (TUnit.spoil u region item seed w) := by
  unfold TUnit.spoil; grind [State.mk_inv, State.Inv.mem, State.Inv.threads, State.Inv.units, State.Inv.hub, Hub.mk_inv, HubInv.launches, TUnit.mk_inv, TUnit.Inv.scr, TUnit.Inv.obuf, TUnit.Inv.gangs, Launch.mk_inv, Launch.Inv.desc, OutInv_next, OutInv_fault, TUnit.modGang_inv, Thread.spoil_inv, Gang.mk_inv, Gang.Inv.priv, Gang.empty_inv, TUnit.gang_inv, AMap.All.get?, Store.forget_wf, AMap.All.set]

theorem State.spoilByte_inv (s : State) (uid : Nat) (off : Nat) (h_s : State.Inv s) : State.Inv (State.spoilByte s uid off) := by
  unfold State.spoilByte
  have hq := State.takeFresh_inv s h_s
  generalize s.takeFresh = r at hq
  rcases r with ⟨q, s1⟩
  dsimp only at hq ⊢
  split
  · exact hq
  · rename_i u hu
    split
    · exact State.setUnit_inv _ _ _ hq (TUnit.spoil_inv _ _ _ _ _ (State.unit?_inv hq hu))
    · split
      · exact State.modLaunch_inv _ _ _ hq fun l hl => hl
      · split
        · rename_i t ht
          exact State.setThread_inv _ _ _ hq (Thread.spoil_inv _ _ _ (State.threadsOf_inv hq ht))
        · exact hq

theorem State.spoilUnit_inv (s : State) (uid : Nat) (h_s : State.Inv s) : State.Inv (State.spoilUnit s uid) := by
  unfold State.spoilUnit; grind [State.mk_inv, State.Inv.mem, State.Inv.threads, State.Inv.units, State.Inv.hub, Hub.mk_inv, HubInv.launches, TUnit.mk_inv, TUnit.Inv.scr, TUnit.Inv.obuf, TUnit.Inv.gangs, Launch.mk_inv, Launch.Inv.desc, OutInv_next, OutInv_fault, State.modUnit_inv, State.spoilByte_inv, State.unit?_inv, foldl_inv]

theorem State.readBlocks_inv (s : State) (uids : List Nat) (h_s : State.Inv s) : State.Inv (State.readBlocks s uids).2 := by
  unfold State.readBlocks
  refine foldl_pair_inv ?_ _ _ _ h_s
  intro r uid hr
  dsimp only
  split
  · have h := State.saveRuns_inv r.2
    split <;> grind [State.modUnit_inv, State.saveFails_inv, TUnit.mk_inv, TUnit.Inv.scr, TUnit.Inv.obuf, TUnit.Inv.gangs]
  · exact hr

theorem State.reacceptOp_inv (s : State) (ck : Nat) (o : CopyOp) (h_s : State.Inv s) : State.Inv (State.reacceptOp s ck o) := by
  unfold State.reacceptOp; grind [State.mk_inv, State.Inv.mem, State.Inv.threads, State.Inv.units, State.Inv.hub, Hub.mk_inv, HubInv.launches, TUnit.mk_inv, TUnit.Inv.scr, TUnit.Inv.obuf, TUnit.Inv.gangs, Launch.mk_inv, Launch.Inv.desc, OutInv_next, OutInv_fault, State.acceptOp_inv]

theorem State.reacceptJob_inv (s : State) (ck : Nat) (j : Job) (h_s : State.Inv s) : State.Inv (State.reacceptJob s ck j) := by
  unfold State.reacceptJob; grind [State.mk_inv, State.Inv.mem, State.Inv.threads, State.Inv.units, State.Inv.hub, Hub.mk_inv, HubInv.launches, TUnit.mk_inv, TUnit.Inv.scr, TUnit.Inv.obuf, TUnit.Inv.gangs, Launch.mk_inv, Launch.Inv.desc, OutInv_next, OutInv_fault, State.modCore_inv, State.takeSeq_inv]

theorem State.reacceptAll_inv (s : State) (ck : Nat) (h_s : State.Inv s) : ∀ x0 x1 x2, State.Inv ((State.reacceptAll s ck) x0 x1 x2) := by
  intro x0 x1 x2
  fun_induction State.reacceptAll s ck x0 x1 x2 <;> grind [State.mk_inv, State.Inv.mem, State.Inv.threads, State.Inv.units, State.Inv.hub, Hub.mk_inv, HubInv.launches, TUnit.mk_inv, TUnit.Inv.scr, TUnit.Inv.obuf, TUnit.Inv.gangs, Launch.mk_inv, Launch.Inv.desc, OutInv_next, OutInv_fault, State.reacceptJob_inv, State.reacceptOp_inv]

theorem State.restoreUnit_inv (s : State) (uid : Nat) (ck : Nat) (h_s : State.Inv s) : State.Inv (State.restoreUnit s uid ck) := by
  unfold State.restoreUnit; grind [State.mk_inv, State.Inv.mem, State.Inv.threads, State.Inv.units, State.Inv.hub, Hub.mk_inv, HubInv.launches, TUnit.mk_inv, TUnit.Inv.scr, TUnit.Inv.obuf, TUnit.Inv.gangs, Launch.mk_inv, Launch.Inv.desc, OutInv_next, OutInv_fault, State.modThreadsOf_inv, State.modUnit_inv, State.refresh_inv, State.spoilUnit_inv, State.takeSeq_inv, State.throttle_inv, State.unit?_inv, TUnit.gangsZip_inv, Thread.mk_inv, Thread.Inv.pc, Thread.Inv.rpc, Thread.Inv.loops, Thread.Inv.shadowLoops, Thread.Inv.cd, Thread.Inv.hd, Thread.Inv.shadowCd, Thread.Inv.shadowHd, loopsOk_nil, Thread.pw_inv, evenAddr_add, evenAddr_ofN, evenAddr_two, evenAddr_four, Gang.mk_inv, Gang.Inv.priv, Gang.empty_inv, TUnit.gang_inv, AMap.All.get?, AMap.All.map]

theorem State.reacceptUnit_inv (s : State) (uid : Nat) (h_s : State.Inv s) : State.Inv (State.reacceptUnit s uid) := by
  unfold State.reacceptUnit; grind [State.mk_inv, State.Inv.mem, State.Inv.threads, State.Inv.units, State.Inv.hub, Hub.mk_inv, HubInv.launches, TUnit.mk_inv, TUnit.Inv.scr, TUnit.Inv.obuf, TUnit.Inv.gangs, Launch.mk_inv, Launch.Inv.desc, OutInv_next, OutInv_fault, State.reacceptAll_inv, State.setUnit_inv, State.unit?_inv]

theorem State.placeUnit_inv (s : State) (lid : Nat) (idx : Nat) (ck : Nat) (l : Launch) (h_s : State.Inv s) (h_l : Launch.Inv l) : State.Inv (State.placeUnit s lid idx ck l) := by
  unfold State.placeUnit; grind [State.mk_inv, State.Inv.mem, State.Inv.threads, State.Inv.units, State.Inv.hub, Hub.mk_inv, HubInv.launches, TUnit.mk_inv, TUnit.Inv.scr, TUnit.Inv.obuf, TUnit.Inv.gangs, Launch.mk_inv, Launch.Inv.desc, OutInv_next, OutInv_fault, State.restoreUnit_inv, State.startUnit_inv, State.unit?_inv]

theorem State.placeGroup_inv (s : State) (lid : Nat) (l : Launch) (idxs : List Nat) (h_s : State.Inv s) (h_l : Launch.Inv l) :
    ∀ s', State.placeGroup s lid l idxs = some s' → State.Inv s' := by
  intro s' h
  unfold State.placeGroup at h
  obtain ⟨sites, _, rfl⟩ := Option.map_eq_some_iff.1 h
  refine foldl_inv (fun a i ha => State.reacceptUnit_inv a _ ha) _ _ (foldl_inv (fun a x ha => State.placeUnit_inv a lid x.1 x.2.ck l ha h_l) _ _ h_s)

theorem State.placeAll_inv (s : State) (lid : Nat) (l : Launch) (h_s : State.Inv s) (h_l : Launch.Inv l) : ∀ x0, ∀ s', ((State.placeAll s lid l) x0) = some s' → State.Inv s' := by
  intro x0
  fun_induction State.placeAll s lid l x0 <;> grind [State.mk_inv, State.Inv.mem, State.Inv.threads, State.Inv.units, State.Inv.hub, Hub.mk_inv, HubInv.launches, TUnit.mk_inv, TUnit.Inv.scr, TUnit.Inv.obuf, TUnit.Inv.gangs, Launch.mk_inv, Launch.Inv.desc, OutInv_next, OutInv_fault, State.placeGroup_inv]

theorem State.place_inv (s : State) (lid : Nat) (l : Launch) (g : List Nat) (h_s : State.Inv s) (h_l : Launch.Inv l) : ∀ s', (State.place s lid l g) = some s' → State.Inv s' := by
  unfold State.place; grind [State.mk_inv, State.Inv.mem, State.Inv.threads, State.Inv.units, State.Inv.hub, Hub.mk_inv, HubInv.launches, TUnit.mk_inv, TUnit.Inv.scr, TUnit.Inv.obuf, TUnit.Inv.gangs, Launch.mk_inv, Launch.Inv.desc, OutInv_next, OutInv_fault, State.placeAll_inv, State.placeGroup_inv]

theorem State.without_inv (s : State) (us : List Nat) (h_s : State.Inv s) : State.Inv (State.without s us) := by
  unfold State.without; grind [State.mk_inv, State.Inv.mem, State.Inv.threads, State.Inv.units, State.Inv.hub, Hub.mk_inv, HubInv.launches, TUnit.mk_inv, TUnit.Inv.scr, TUnit.Inv.obuf, TUnit.Inv.gangs, Launch.mk_inv, Launch.Inv.desc, OutInv_next, OutInv_fault, AMap.All.map]

theorem State.takeIn_inv (s : State) (lid : Nat) (idx : Nat) (back : Bool) (h_s : State.Inv s) : ∀ s', (State.takeIn s lid idx back) = some s' → State.Inv s' := by
  unfold State.takeIn; grind [State.mk_inv, State.Inv.mem, State.Inv.threads, State.Inv.units, State.Inv.hub, Hub.mk_inv, HubInv.launches, TUnit.mk_inv, TUnit.Inv.scr, TUnit.Inv.obuf, TUnit.Inv.gangs, Launch.mk_inv, Launch.Inv.desc, OutInv_next, OutInv_fault, State.launch?_inv, State.place_inv]

theorem execUnitStart_inv (lid : Nat) (idx : Nat) (s : State) (h_s : State.Inv s) : OutInv (execUnitStart lid idx s) := by
  unfold execUnitStart; grind [State.mk_inv, State.Inv.mem, State.Inv.threads, State.Inv.units, State.Inv.hub, Hub.mk_inv, HubInv.launches, TUnit.mk_inv, TUnit.Inv.scr, TUnit.Inv.obuf, TUnit.Inv.gangs, Launch.mk_inv, Launch.Inv.desc, OutInv_next, OutInv_fault, State.takeIn_inv]

theorem execResumption_inv (uid : Nat) (s : State) (h_s : State.Inv s) : OutInv (execResumption uid s) := by
  unfold execResumption; grind [State.mk_inv, State.Inv.mem, State.Inv.threads, State.Inv.units, State.Inv.hub, Hub.mk_inv, HubInv.launches, TUnit.mk_inv, TUnit.Inv.scr, TUnit.Inv.obuf, TUnit.Inv.gangs, Launch.mk_inv, Launch.Inv.desc, OutInv_next, OutInv_fault, State.launchOf_inv, State.readBlocks_inv, State.takeIn_inv, State.unit?_inv, AMap.All.filter, AMap.All.map]

theorem execLostUnitRerun_inv (uid : Nat) (s : State) (h_s : State.Inv s) : OutInv (execLostUnitRerun uid s) := by
  unfold execLostUnitRerun; grind [State.mk_inv, State.Inv.mem, State.Inv.threads, State.Inv.units, State.Inv.hub, Hub.mk_inv, HubInv.launches, TUnit.mk_inv, TUnit.Inv.scr, TUnit.Inv.obuf, TUnit.Inv.gangs, Launch.mk_inv, Launch.Inv.desc, OutInv_next, OutInv_fault, State.modHub_inv, State.takeIn_inv, State.unit?_inv]

theorem execPreemption_inv (uid : Nat) (s : State) (h_s : State.Inv s) : OutInv (execPreemption uid s) := by
  unfold execPreemption; grind [State.mk_inv, State.Inv.mem, State.Inv.threads, State.Inv.units, State.Inv.hub, Hub.mk_inv, HubInv.launches, TUnit.mk_inv, TUnit.Inv.scr, TUnit.Inv.obuf, TUnit.Inv.gangs, Launch.mk_inv, Launch.Inv.desc, OutInv_next, OutInv_fault, State.launchOf_inv, State.saveUnit_inv, State.stopUnit_inv, State.unit?_inv, State.without_inv, AMap.All.filter, AMap.All.map, foldl_inv]

end Sys2Proof.Machine
end

