-- ==== Sys2Proof/Laws/KeptChains.lean ====
section
/-! SUPPORT. That every operation of Machine/Chains.lean keeps the invariant State.Inv. -/

namespace Sys2Proof.Machine

theorem refusalOf_desc {s : State} {jid : Nat} {bs : List Byte} {r : LaunchReads} (h : s.refusalOf jid bs r = 0) : DescInv (descOf bs) := by
  unfold State.refusalOf at h
  split at h <;> exact refusal_desc h
theorem refusalIf_desc {c : Prop} [Decidable c] {s : State} {jid : Nat} {bs : List Byte} {r : LaunchReads}
    (h : (if c then 32 else s.refusalOf jid bs r) = 0) : DescInv (descOf bs) := by
  split at h
  · cases h
  · exact refusalOf_desc h

theorem execChTailWrite_inv (n : Nat) (v : Word) (s : State) (h_s : State.Inv s) : OutInv (execChTailWrite n v s) := by
  unfold execChTailWrite; grind [State.mk_inv, State.Inv.mem, State.Inv.threads, State.Inv.units, State.Inv.hub, Hub.mk_inv, HubInv.launches, TUnit.mk_inv, TUnit.Inv.scr, TUnit.Inv.obuf, TUnit.Inv.gangs, Launch.mk_inv, Launch.Inv.desc, OutInv_next, OutInv_fault, State.modChain_inv]

theorem execChCtlRestart_inv (n : Nat) (v : Word) (s : State) (h_s : State.Inv s) : OutInv (execChCtlRestart n v s) := by
  unfold execChCtlRestart; grind [State.mk_inv, State.Inv.mem, State.Inv.threads, State.Inv.units, State.Inv.hub, Hub.mk_inv, HubInv.launches, TUnit.mk_inv, TUnit.Inv.scr, TUnit.Inv.obuf, TUnit.Inv.gangs, Launch.mk_inv, Launch.Inv.desc, OutInv_next, OutInv_fault, State.modChain_inv, Fetch.ok_inv, Fetch.trap_inv, Fetch.fault_inv, FetchInv.ok, FetchInv.trap, FetchInv.fault, FetchWord.ok_inv, FetchWord.trap_inv, FetchWord.fault_inv, FetchWordInv.ok, FetchWordInv.trap, FetchWordInv.fault]

theorem State.stopChain_inv (s : State) (n : Nat) (reason : Nat) (ereason : Nat) (h_s : State.Inv s) : State.Inv (State.stopChain s n reason ereason) := by
  unfold State.stopChain; grind [State.mk_inv, State.Inv.mem, State.Inv.threads, State.Inv.units, State.Inv.hub, Hub.mk_inv, HubInv.launches, TUnit.mk_inv, TUnit.Inv.scr, TUnit.Inv.obuf, TUnit.Inv.gangs, Launch.mk_inv, Launch.Inv.desc, OutInv_next, OutInv_fault, State.modChain_inv, State.seqDone_inv, State.vector_inv, Fetch.ok_inv, Fetch.trap_inv, Fetch.fault_inv, FetchInv.ok, FetchInv.trap, FetchInv.fault, FetchWord.ok_inv, FetchWord.trap_inv, FetchWord.fault_inv, FetchWordInv.ok, FetchWordInv.trap, FetchWordInv.fault]

theorem State.passTurn_inv (s : State) (n : Nat) (h_s : State.Inv s) : State.Inv (State.passTurn s n) := by
  unfold State.passTurn; grind [State.mk_inv, State.Inv.mem, State.Inv.threads, State.Inv.units, State.Inv.hub, Hub.mk_inv, HubInv.launches, TUnit.mk_inv, TUnit.Inv.scr, TUnit.Inv.obuf, TUnit.Inv.gangs, Launch.mk_inv, Launch.Inv.desc, OutInv_next, OutInv_fault, State.modHub_inv]

theorem State.takeEntry_inv (s : State) (n : Nat) (ty : Nat) (k : List Byte → State → State) (h_s : State.Inv s) (h_k : ∀ x0 x1, State.Inv x1 → State.Inv (k x0 x1)) : State.Inv (State.takeEntry s n ty k) := by
  unfold State.takeEntry; try intros
  repeat' first
    | with_reducible assumption
    | (with_reducible refine foldl_inv ?_ _ _ ?_ <;> intros)
    | with_reducible apply OutInv_next
    | with_reducible apply OutInv_fault
    | with_reducible apply State.modChain_inv
    | with_reducible apply State.passTurn_inv
    | with_reducible apply State.stopChain_inv
    | split
    | (intro _)
    | dsimp only
    | grind [State.mk_inv, State.Inv.mem, State.Inv.threads, State.Inv.units, State.Inv.hub, Hub.mk_inv, HubInv.launches, TUnit.mk_inv, TUnit.Inv.scr, TUnit.Inv.obuf, TUnit.Inv.gangs, Launch.mk_inv, Launch.Inv.desc, OutInv_next, OutInv_fault, State.modChain_inv, State.passTurn_inv, State.stopChain_inv]

theorem State.retire_inv (s : State) (n : Nat) (h_s : State.Inv s) : State.Inv (State.retire s n) := by
  unfold State.retire; grind [State.mk_inv, State.Inv.mem, State.Inv.threads, State.Inv.units, State.Inv.hub, Hub.mk_inv, HubInv.launches, TUnit.mk_inv, TUnit.Inv.scr, TUnit.Inv.obuf, TUnit.Inv.gangs, Launch.mk_inv, Launch.Inv.desc, OutInv_next, OutInv_fault, State.modChain_inv]

theorem execChainEntryRetire_inv (n : Nat) (s : State) (h_s : State.Inv s) : OutInv (execChainEntryRetire n s) := by
  unfold execChainEntryRetire; grind [State.mk_inv, State.Inv.mem, State.Inv.threads, State.Inv.units, State.Inv.hub, Hub.mk_inv, HubInv.launches, TUnit.mk_inv, TUnit.Inv.scr, TUnit.Inv.obuf, TUnit.Inv.gangs, Launch.mk_inv, Launch.Inv.desc, OutInv_next, OutInv_fault, State.modChain_inv, State.seqStore_inv, State.stopChain_inv, Fetch.ok_inv, Fetch.trap_inv, Fetch.fault_inv, FetchInv.ok, FetchInv.trap, FetchInv.fault, FetchWord.ok_inv, FetchWord.trap_inv, FetchWord.fault_inv, FetchWordInv.ok, FetchWordInv.trap, FetchWordInv.fault]

theorem State.seal_inv (s : State) (jid : Nat) (h_s : State.Inv s) : State.Inv (State.seal s jid) := by
  unfold State.seal; grind [State.mk_inv, State.Inv.mem, State.Inv.threads, State.Inv.units, State.Inv.hub, Hub.mk_inv, HubInv.launches, TUnit.mk_inv, TUnit.Inv.scr, TUnit.Inv.obuf, TUnit.Inv.gangs, Launch.mk_inv, Launch.Inv.desc, OutInv_next, OutInv_fault, State.modGraph_inv, State.modJob_inv]

theorem execJobEntry_inv (n : Nat) (s : State) (h_s : State.Inv s) : OutInv (execJobEntry n s) := by
  unfold execJobEntry; grind [State.mk_inv, State.Inv.mem, State.Inv.threads, State.Inv.units, State.Inv.hub, Hub.mk_inv, HubInv.launches, TUnit.mk_inv, TUnit.Inv.scr, TUnit.Inv.obuf, TUnit.Inv.gangs, Launch.mk_inv, Launch.Inv.desc, OutInv_next, OutInv_fault, State.modChain_inv, State.modHub_inv, State.retire_inv, State.stopChain_inv, State.takeEntry_inv, Thread.retire_inv, AMap.All.set, AMap.All.map]

theorem execGraphEntry_inv (n : Nat) (s : State) (h_s : State.Inv s) : OutInv (execGraphEntry n s) := by
  unfold execGraphEntry; grind [State.mk_inv, State.Inv.mem, State.Inv.threads, State.Inv.units, State.Inv.hub, Hub.mk_inv, HubInv.launches, TUnit.mk_inv, TUnit.Inv.scr, TUnit.Inv.obuf, TUnit.Inv.gangs, Launch.mk_inv, Launch.Inv.desc, OutInv_next, OutInv_fault, State.modHub_inv, State.modJob_inv, State.retire_inv, State.seal_inv, State.stopChain_inv, State.takeEntry_inv, State.takeSeq_inv, Thread.retire_inv]

theorem execPhaseEntry_inv (n : Nat) (s : State) (h_s : State.Inv s) : OutInv (execPhaseEntry n s) := by
  unfold execPhaseEntry; grind [State.mk_inv, State.Inv.mem, State.Inv.threads, State.Inv.units, State.Inv.hub, Hub.mk_inv, HubInv.launches, TUnit.mk_inv, TUnit.Inv.scr, TUnit.Inv.obuf, TUnit.Inv.gangs, Launch.mk_inv, Launch.Inv.desc, OutInv_next, OutInv_fault, State.seal_inv, State.takeEntry_inv]

theorem State.launchReads_inv (s : State) (key : Nat) (j : HJob) (bs : List Byte) (h_s : State.Inv s) : State.Inv ((State.launchReads s key j bs)).2 := by
  unfold State.launchReads; grind [State.mk_inv, State.Inv.mem, State.Inv.threads, State.Inv.units, State.Inv.hub, Hub.mk_inv, HubInv.launches, TUnit.mk_inv, TUnit.Inv.scr, TUnit.Inv.obuf, TUnit.Inv.gangs, Launch.mk_inv, Launch.Inv.desc, OutInv_next, OutInv_fault, State.seqRead_inv, State.seqXlate_inv, descOf_inv, Reads.ok_inv, Reads.trap_inv, Reads.wait_inv, ReadsInv.ok, ReadsInv.wait]

theorem State.writeLidp_inv (s : State) (n : Nat) (j : HJob) (bs : List Byte) (lid : Nat) (h_s : State.Inv s) : State.Inv (State.writeLidp s n j bs lid) := by
  unfold State.writeLidp; grind [State.mk_inv, State.Inv.mem, State.Inv.threads, State.Inv.units, State.Inv.hub, Hub.mk_inv, HubInv.launches, TUnit.mk_inv, TUnit.Inv.scr, TUnit.Inv.obuf, TUnit.Inv.gangs, Launch.mk_inv, Launch.Inv.desc, OutInv_next, OutInv_fault, State.retire_inv, State.seqWrite_inv, Thread.retire_inv]

theorem State.claimBuffer_inv (s : State) (j : HJob) (lid : Nat) (h_s : State.Inv s) : ∀ x0 x1 x2, State.Inv ((State.claimBuffer s j lid) x0 x1 x2) := by
  intro x0 x1 x2
  fun_induction State.claimBuffer s j lid x0 x1 x2 <;> grind [State.mk_inv, State.Inv.mem, State.Inv.threads, State.Inv.units, State.Inv.hub, Hub.mk_inv, HubInv.launches, TUnit.mk_inv, TUnit.Inv.scr, TUnit.Inv.obuf, TUnit.Inv.gangs, Launch.mk_inv, Launch.Inv.desc, OutInv_next, OutInv_fault, State.forgetAt_inv, State.modLaunch_inv, State.translate_inv, Store.forget_wf, AMap.All.map]

theorem State.levelWrites_inv (s : State) (f : Nat → Bool) (h_s : State.Inv s) : State.Inv ((State.levelWrites s f)).2 := by
  unfold State.levelWrites; grind [State.mk_inv, State.Inv.mem, State.Inv.threads, State.Inv.units, State.Inv.hub, Hub.mk_inv, HubInv.launches, TUnit.mk_inv, TUnit.Inv.scr, TUnit.Inv.obuf, TUnit.Inv.gangs, Launch.mk_inv, Launch.Inv.desc, OutInv_next, OutInv_fault, State.performWhere_inv, AMap.All.map, foldl_inv]

theorem State.commitLine_inv (s : State) (lid : Nat) (b : SpecBuf) (h_s : State.Inv s) : State.Inv (State.commitLine s lid b) := by
  unfold State.commitLine; grind [State.mk_inv, State.Inv.mem, State.Inv.threads, State.Inv.units, State.Inv.hub, Hub.mk_inv, HubInv.launches, TUnit.mk_inv, TUnit.Inv.scr, TUnit.Inv.obuf, TUnit.Inv.gangs, Launch.mk_inv, Launch.Inv.desc, OutInv_next, OutInv_fault, State.dropBuffer_inv, State.modLaunch_inv, State.seqStore_inv, AMap.All.map, foldl_inv]

theorem State.completeLaunch_inv (s : State) (lid : Nat) (h_s : State.Inv s) : State.Inv (State.completeLaunch s lid) := by
  unfold State.completeLaunch; try intros
  repeat' first
    | with_reducible assumption
    | (with_reducible refine foldl_inv ?_ _ _ ?_ <;> intros)
    | with_reducible apply OutInv_next
    | with_reducible apply OutInv_fault
    | with_reducible apply State.commitLine_inv
    | with_reducible apply State.modLaunch_inv
    | split
    | (intro _)
    | dsimp only
    | grind [State.mk_inv, State.Inv.mem, State.Inv.threads, State.Inv.units, State.Inv.hub, Hub.mk_inv, HubInv.launches, TUnit.mk_inv, TUnit.Inv.scr, TUnit.Inv.obuf, TUnit.Inv.gangs, Launch.mk_inv, Launch.Inv.desc, OutInv_next, OutInv_fault, State.bump_inv, State.commitLine_inv, State.launch?_inv, State.levelWrites_inv, State.modLaunch_inv]

theorem State.joinGraph_inv (s : State) (jid : Nat) (gkey : Nat) (bs : List Byte) (args : List Byte) (spec : Option (Nat × List Byte)) (wctr : Word) (wval : Word) (h_s : State.Inv s) (h_bs : DescInv (descOf bs)) : State.Inv ((State.joinGraph s jid gkey bs args spec wctr wval)).2 := by
  unfold State.joinGraph; grind [State.mk_inv, State.Inv.mem, State.Inv.threads, State.Inv.units, State.Inv.hub, Hub.mk_inv, HubInv.launches, TUnit.mk_inv, TUnit.Inv.scr, TUnit.Inv.obuf, TUnit.Inv.gangs, Launch.mk_inv, Launch.Inv.desc, OutInv_next, OutInv_fault, State.acceptLaunch_inv, State.cancelLaunch_inv, State.claimBuffer_inv, State.completeLaunch_inv, descOf_inv]

theorem execLaunchEntry_inv (n : Nat) (s : State) (h_s : State.Inv s) : OutInv (execLaunchEntry n s) := by
  unfold execLaunchEntry; try intros
  repeat' first
    | with_reducible assumption
    | (with_reducible refine foldl_inv ?_ _ _ ?_ <;> intros)
    | with_reducible apply OutInv_next
    | with_reducible apply OutInv_fault
    | with_reducible apply State.modChain_inv
    | with_reducible apply State.seqDone_inv
    | with_reducible apply State.stopChain_inv
    | with_reducible apply State.takeEntry_inv
    | with_reducible apply State.writeLidp_inv
    | with_reducible apply descOf_inv
    | refine State.joinGraph_inv _ _ _ _ _ _ _ _ ?_ (refusalIf_desc (by assumption))
    | split
    | (intro _)
    | dsimp only
    | grind [State.mk_inv, State.Inv.mem, State.Inv.threads, State.Inv.units, State.Inv.hub, Hub.mk_inv, HubInv.launches, TUnit.mk_inv, TUnit.Inv.scr, TUnit.Inv.obuf, TUnit.Inv.gangs, Launch.mk_inv, Launch.Inv.desc, OutInv_next, OutInv_fault, State.joinGraph_inv, State.launchReads_inv, State.modChain_inv, State.seqDone_inv, State.seqRead_inv, State.stopChain_inv, State.takeEntry_inv, State.writeLidp_inv, descOf_inv, AMap.All.map]

theorem State.waitc_inv (s : State) (n : Nat) (bs : List Byte) (h_s : State.Inv s) : State.Inv (State.waitc s n bs) := by
  unfold State.waitc; grind [State.mk_inv, State.Inv.mem, State.Inv.threads, State.Inv.units, State.Inv.hub, Hub.mk_inv, HubInv.launches, TUnit.mk_inv, TUnit.Inv.scr, TUnit.Inv.obuf, TUnit.Inv.gangs, Launch.mk_inv, Launch.Inv.desc, OutInv_next, OutInv_fault, State.retire_inv, State.seqCounter_inv, State.stopChain_inv, Thread.retire_inv]

theorem execWaitcEntry_inv (n : Nat) (s : State) (h_s : State.Inv s) : OutInv (execWaitcEntry n s) := by
  unfold execWaitcEntry; grind [State.mk_inv, State.Inv.mem, State.Inv.threads, State.Inv.units, State.Inv.hub, Hub.mk_inv, HubInv.launches, TUnit.mk_inv, TUnit.Inv.scr, TUnit.Inv.obuf, TUnit.Inv.gangs, Launch.mk_inv, Launch.Inv.desc, OutInv_next, OutInv_fault, State.takeEntry_inv, State.waitc_inv]

theorem execSequencerCounterReread_inv (idx : Nat) (s : State) (h_s : State.Inv s) : OutInv (execSequencerCounterReread idx s) := by
  unfold execSequencerCounterReread; grind [State.mk_inv, State.Inv.mem, State.Inv.threads, State.Inv.units, State.Inv.hub, Hub.mk_inv, HubInv.launches, TUnit.mk_inv, TUnit.Inv.scr, TUnit.Inv.obuf, TUnit.Inv.gangs, Launch.mk_inv, Launch.Inv.desc, OutInv_next, OutInv_fault, State.launch?_inv, State.logSeq_inv, State.modLaunch_inv, State.seqCounter_inv, State.waitc_inv]

theorem State.commit_inv (s : State) (lid : Nat) (h_s : State.Inv s) : State.Inv ((State.commit s lid)).2 := by
  unfold State.commit; grind [State.mk_inv, State.Inv.mem, State.Inv.threads, State.Inv.units, State.Inv.hub, Hub.mk_inv, HubInv.launches, TUnit.mk_inv, TUnit.Inv.scr, TUnit.Inv.obuf, TUnit.Inv.gangs, Launch.mk_inv, Launch.Inv.desc, OutInv_next, OutInv_fault, State.modLaunch_inv, State.performWhere_inv, foldl_inv]

theorem State.specLaunch_inv (s : State) (jid : Nat) (lid : Nat) (h_s : State.Inv s) : ∀ s', (State.specLaunch s jid lid) = some s' → Launch.Inv s' := by
  unfold State.specLaunch; grind [State.mk_inv, State.Inv.mem, State.Inv.threads, State.Inv.units, State.Inv.hub, Hub.mk_inv, HubInv.launches, TUnit.mk_inv, TUnit.Inv.scr, TUnit.Inv.obuf, TUnit.Inv.gangs, Launch.mk_inv, Launch.Inv.desc, OutInv_next, OutInv_fault, State.launch?_inv]

theorem State.specRetire_inv (s : State) (n : Nat) (lid : Nat) (h_s : State.Inv s) : State.Inv (State.specRetire s n lid) := by
  unfold State.specRetire; grind [State.mk_inv, State.Inv.mem, State.Inv.threads, State.Inv.units, State.Inv.hub, Hub.mk_inv, HubInv.launches, TUnit.mk_inv, TUnit.Inv.scr, TUnit.Inv.obuf, TUnit.Inv.gangs, Launch.mk_inv, Launch.Inv.desc, OutInv_next, OutInv_fault, State.launch?_inv, State.retire_inv, Thread.retire_inv]

theorem specEntry_inv (n : Nat) (discard : Bool) (s : State) (h_s : State.Inv s) : State.Inv (specEntry n discard s) := by
  unfold specEntry; grind [State.mk_inv, State.Inv.mem, State.Inv.threads, State.Inv.units, State.Inv.hub, Hub.mk_inv, HubInv.launches, TUnit.mk_inv, TUnit.Inv.scr, TUnit.Inv.obuf, TUnit.Inv.gangs, Launch.mk_inv, Launch.Inv.desc, OutInv_next, OutInv_fault, State.cancelLaunch_inv, State.commit_inv, State.completeLaunch_inv, State.modChain_inv, State.retire_inv, State.specLaunch_inv, State.specRetire_inv, State.stopChain_inv, State.takeEntry_inv, Thread.retire_inv]

theorem execSpecEntryCommit_inv (n : Nat) (s : State) (h_s : State.Inv s) : OutInv (execSpecEntryCommit n s) := by
  unfold execSpecEntryCommit; grind [State.mk_inv, State.Inv.mem, State.Inv.threads, State.Inv.units, State.Inv.hub, Hub.mk_inv, HubInv.launches, TUnit.mk_inv, TUnit.Inv.scr, TUnit.Inv.obuf, TUnit.Inv.gangs, Launch.mk_inv, Launch.Inv.desc, OutInv_next, OutInv_fault, specEntry_inv]

theorem execSpecEntryDiscard_inv (n : Nat) (s : State) (h_s : State.Inv s) : OutInv (execSpecEntryDiscard n s) := by
  unfold execSpecEntryDiscard; grind [State.mk_inv, State.Inv.mem, State.Inv.threads, State.Inv.units, State.Inv.hub, Hub.mk_inv, HubInv.launches, TUnit.mk_inv, TUnit.Inv.scr, TUnit.Inv.obuf, TUnit.Inv.gangs, Launch.mk_inv, Launch.Inv.desc, OutInv_next, OutInv_fault, specEntry_inv]

theorem execEndEntry_inv (n : Nat) (s : State) (h_s : State.Inv s) : OutInv (execEndEntry n s) := by
  unfold execEndEntry; grind [State.mk_inv, State.Inv.mem, State.Inv.threads, State.Inv.units, State.Inv.hub, Hub.mk_inv, HubInv.launches, TUnit.mk_inv, TUnit.Inv.scr, TUnit.Inv.obuf, TUnit.Inv.gangs, Launch.mk_inv, Launch.Inv.desc, OutInv_next, OutInv_fault, State.cancelLaunch_inv, State.seal_inv, State.takeEntry_inv, foldl_inv]

theorem State.phaseBoundary_inv (s : State) (jid : Nat) (h_s : State.Inv s) : State.Inv ((State.phaseBoundary s jid)).2 := by
  unfold State.phaseBoundary; grind [State.mk_inv, State.Inv.mem, State.Inv.threads, State.Inv.units, State.Inv.hub, Hub.mk_inv, HubInv.launches, TUnit.mk_inv, TUnit.Inv.scr, TUnit.Inv.obuf, TUnit.Inv.gangs, Launch.mk_inv, Launch.Inv.desc, OutInv_next, OutInv_fault, State.closeWindows_inv, State.modJob_inv, State.publish_inv, State.refresh_inv, AMap.All.filter, AMap.All.map, foldl_inv, Res.seq_inv, Res.seqR_inv, Res.hold_inv, Res.park_inv, Res.trap_inv, Res.jump_inv, ResInv.seq, ResInv.seqR, ResInv.hold, ResInv.park, ResInv.trap, ResInv.jump]

theorem State.completeGraph_inv (s : State) (gid : Nat) (h_s : State.Inv s) : State.Inv (State.completeGraph s gid) := by
  unfold State.completeGraph; grind [State.mk_inv, State.Inv.mem, State.Inv.threads, State.Inv.units, State.Inv.hub, Hub.mk_inv, HubInv.launches, TUnit.mk_inv, TUnit.Inv.scr, TUnit.Inv.obuf, TUnit.Inv.gangs, Launch.mk_inv, Launch.Inv.desc, OutInv_next, OutInv_fault, State.bump_inv, State.levelWrites_inv, State.modGraph_inv]

theorem State.phaseMirror_inv (s : State) (jid : Nat) (j : HJob) (h_s : State.Inv s) : State.Inv ((State.phaseMirror s jid j)).2 := by
  unfold State.phaseMirror; grind [State.mk_inv, State.Inv.mem, State.Inv.threads, State.Inv.units, State.Inv.hub, Hub.mk_inv, HubInv.launches, TUnit.mk_inv, TUnit.Inv.scr, TUnit.Inv.obuf, TUnit.Inv.gangs, Launch.mk_inv, Launch.Inv.desc, OutInv_next, OutInv_fault, State.bump_inv]

theorem State.completePhase_inv (s : State) (jid : Nat) (h_s : State.Inv s) : State.Inv (State.completePhase s jid) := by
  unfold State.completePhase; try intros
  repeat' first
    | with_reducible assumption
    | (with_reducible refine foldl_inv ?_ _ _ ?_ <;> intros)
    | with_reducible apply OutInv_next
    | with_reducible apply OutInv_fault
    | with_reducible apply State.modJob_inv
    | with_reducible apply State.retire_inv
    | with_reducible apply Thread.retire_inv
    | split
    | (intro _)
    | dsimp only
    | grind [State.mk_inv, State.Inv.mem, State.Inv.threads, State.Inv.units, State.Inv.hub, Hub.mk_inv, HubInv.launches, TUnit.mk_inv, TUnit.Inv.scr, TUnit.Inv.obuf, TUnit.Inv.gangs, Launch.mk_inv, Launch.Inv.desc, OutInv_next, OutInv_fault, State.launch?_inv, State.levelWrites_inv, State.modJob_inv, State.phaseBoundary_inv, State.phaseMirror_inv, State.retire_inv, Thread.retire_inv, AMap.All.map]

theorem State.closeJob_inv (s : State) (jid : Nat) (h_s : State.Inv s) : State.Inv (State.closeJob s jid) := by
  unfold State.closeJob; grind [State.mk_inv, State.Inv.mem, State.Inv.threads, State.Inv.units, State.Inv.hub, Hub.mk_inv, HubInv.launches, TUnit.mk_inv, TUnit.Inv.scr, TUnit.Inv.obuf, TUnit.Inv.gangs, Launch.mk_inv, Launch.Inv.desc, OutInv_next, OutInv_fault, State.modHub_inv, Thread.mk_inv, Thread.Inv.pc, Thread.Inv.rpc, Thread.Inv.loops, Thread.Inv.shadowLoops, Thread.Inv.cd, Thread.Inv.hd, Thread.Inv.shadowCd, Thread.Inv.shadowHd, loopsOk_nil, Thread.pw_inv, evenAddr_add, evenAddr_ofN, evenAddr_two, evenAddr_four, AMap.All.del, AMap.All.filter, AMap.All.map, Issue.run_inv, Issue.done_inv, IssueInv.run, IssueInv.done]

theorem State.completeJob_inv (s : State) (jid : Nat) (h_s : State.Inv s) : State.Inv (State.completeJob s jid) := by
  unfold State.completeJob; grind [State.mk_inv, State.Inv.mem, State.Inv.threads, State.Inv.units, State.Inv.hub, Hub.mk_inv, HubInv.launches, TUnit.mk_inv, TUnit.Inv.scr, TUnit.Inv.obuf, TUnit.Inv.gangs, Launch.mk_inv, Launch.Inv.desc, OutInv_next, OutInv_fault, State.bump_inv, State.closeJob_inv, State.launch?_inv, State.levelWrites_inv, State.retire_inv, Thread.retire_inv, AMap.All.map]

theorem execLevelComplete_inv (level : Nat) (id : Nat) (s : State) (h_s : State.Inv s) : OutInv (execLevelComplete level id s) := by
  unfold execLevelComplete; grind [State.mk_inv, State.Inv.mem, State.Inv.threads, State.Inv.units, State.Inv.hub, Hub.mk_inv, HubInv.launches, TUnit.mk_inv, TUnit.Inv.scr, TUnit.Inv.obuf, TUnit.Inv.gangs, Launch.mk_inv, Launch.Inv.desc, OutInv_next, OutInv_fault, State.completeGraph_inv, State.completeJob_inv, State.completeLaunch_inv, State.completePhase_inv, State.tryRecord_inv]

end Sys2Proof.Machine
end

