-- ==== Sys2Proof/Laws/KeptIsland.lean ====
section
/-! SUPPORT. That every operation of Machine/Island.lean keeps the invariant State.Inv. -/

namespace Sys2Proof.Machine

theorem State.outsideWrite_inv (s : State) (d : Nat) (bs : List Byte) (kind : Nat) (who : Nat) (h_s : State.Inv s) : State.Inv (State.outsideWrite s d bs kind who) := by
  unfold State.outsideWrite; grind [State.mk_inv, State.Inv.mem, State.Inv.threads, State.Inv.units, State.Inv.hub, Hub.mk_inv, HubInv.launches, TUnit.mk_inv, TUnit.Inv.scr, TUnit.Inv.obuf, TUnit.Inv.gangs, Launch.mk_inv, Launch.Inv.desc, OutInv_next, OutInv_fault, State.logMgmt_inv, State.noteWrite_inv, State.takeSeq_inv, State.writeAt_inv]

theorem execHostApertureWrite_inv (off : Nat) (bytes : List Byte) (s : State) (h_s : State.Inv s) : OutInv (execHostApertureWrite off bytes s) := by
  unfold execHostApertureWrite; grind [State.mk_inv, State.Inv.mem, State.Inv.threads, State.Inv.units, State.Inv.hub, Hub.mk_inv, HubInv.launches, TUnit.mk_inv, TUnit.Inv.scr, TUnit.Inv.obuf, TUnit.Inv.gangs, Launch.mk_inv, Launch.Inv.desc, OutInv_next, OutInv_fault, State.logMgmt_inv, State.outsideWrite_inv]

theorem execHostApertureRead_inv (off : Nat) (len : Nat) (s : State) (h_s : State.Inv s) : OutInv (execHostApertureRead off len s) := by
  unfold execHostApertureRead; grind [State.mk_inv, State.Inv.mem, State.Inv.threads, State.Inv.units, State.Inv.hub, Hub.mk_inv, HubInv.launches, TUnit.mk_inv, TUnit.Inv.scr, TUnit.Inv.obuf, TUnit.Inv.gangs, Launch.mk_inv, Launch.Inv.desc, OutInv_next, OutInv_fault, State.logMgmt_inv, State.modHub_inv]

theorem State.engUndelivered_inv (s : State) (ck : Nat) (ch : Nat) (id : Nat) (d : Nat) (h_s : State.Inv s) : State.Inv (State.engUndelivered s ck ch id d) := by
  unfold State.engUndelivered; grind [State.mk_inv, State.Inv.mem, State.Inv.threads, State.Inv.units, State.Inv.hub, Hub.mk_inv, HubInv.launches, TUnit.mk_inv, TUnit.Inv.scr, TUnit.Inv.obuf, TUnit.Inv.gangs, Launch.mk_inv, Launch.Inv.desc, OutInv_next, OutInv_fault, State.jobUndelivered_inv, State.modOp_inv, State.setAllPresent_inv]

theorem State.failWaiters_inv (s : State) (w : OffWrite) (h_s : State.Inv s) : State.Inv (State.failWaiters s w) := by
  unfold State.failWaiters; grind [State.mk_inv, State.Inv.mem, State.Inv.threads, State.Inv.units, State.Inv.hub, Hub.mk_inv, HubInv.launches, TUnit.mk_inv, TUnit.Inv.scr, TUnit.Inv.obuf, TUnit.Inv.gangs, Launch.mk_inv, Launch.Inv.desc, OutInv_next, OutInv_fault, State.modThread_inv, Thread.mk_inv, Thread.Inv.pc, Thread.Inv.rpc, Thread.Inv.loops, Thread.Inv.shadowLoops, Thread.Inv.cd, Thread.Inv.hd, Thread.Inv.shadowCd, Thread.Inv.shadowHd, loopsOk_nil, Thread.pw_inv, evenAddr_add, evenAddr_ofN, evenAddr_two, evenAddr_four, foldl_inv, Res.seq_inv, Res.seqR_inv, Res.hold_inv, Res.park_inv, Res.trap_inv, Res.jump_inv, ResInv.seq, ResInv.seqR, ResInv.hold, ResInv.park, ResInv.trap, ResInv.jump]

theorem State.failWrite_inv (s : State) (w : OffWrite) (h_s : State.Inv s) : State.Inv (State.failWrite s w) := by
  unfold State.failWrite; grind [State.mk_inv, State.Inv.mem, State.Inv.threads, State.Inv.units, State.Inv.hub, Hub.mk_inv, HubInv.launches, TUnit.mk_inv, TUnit.Inv.scr, TUnit.Inv.obuf, TUnit.Inv.gangs, Launch.mk_inv, Launch.Inv.desc, OutInv_next, OutInv_fault, State.engUndelivered_inv, State.failWaiters_inv, State.logCore_inv, State.logSeq_inv, State.storeError_inv]

theorem State.failWrites_inv (s : State) (f : OffWrite → Bool) (h_s : State.Inv s) : State.Inv (State.failWrites s f) := by
  unfold State.failWrites; grind [State.mk_inv, State.Inv.mem, State.Inv.threads, State.Inv.units, State.Inv.hub, Hub.mk_inv, HubInv.launches, TUnit.mk_inv, TUnit.Inv.scr, TUnit.Inv.obuf, TUnit.Inv.gangs, Launch.mk_inv, Launch.Inv.desc, OutInv_next, OutInv_fault, State.failWrite_inv, AMap.All.filter, foldl_inv]

theorem State.reply_inv (s : State) (dst : Nat) (ty : Nat) (tag : Nat) (addr : Nat) (data : List Byte) (h_s : State.Inv s) : State.Inv (State.reply s dst ty tag addr data) := by
  unfold State.reply; grind [State.mk_inv, State.Inv.mem, State.Inv.threads, State.Inv.units, State.Inv.hub, Hub.mk_inv, HubInv.launches, TUnit.mk_inv, TUnit.Inv.scr, TUnit.Inv.obuf, TUnit.Inv.gangs, Launch.mk_inv, Launch.Inv.desc, OutInv_next, OutInv_fault, State.sendPacket_inv]

theorem State.refuse_inv (s : State) (src : Nat) (tag : Nat) (addr : Nat) (cause : Nat) (h_s : State.Inv s) : State.Inv (State.refuse s src tag addr cause) := by
  unfold State.refuse; grind [State.mk_inv, State.Inv.mem, State.Inv.threads, State.Inv.units, State.Inv.hub, Hub.mk_inv, HubInv.launches, TUnit.mk_inv, TUnit.Inv.scr, TUnit.Inv.obuf, TUnit.Inv.gangs, Launch.mk_inv, Launch.Inv.desc, OutInv_next, OutInv_fault, State.logMgmt_inv, State.reply_inv]

theorem State.losePacket_inv (s : State) (x : Packet) (h_s : State.Inv s) : State.Inv (State.losePacket s x) := by
  unfold State.losePacket; grind [State.mk_inv, State.Inv.mem, State.Inv.threads, State.Inv.units, State.Inv.hub, Hub.mk_inv, HubInv.launches, TUnit.mk_inv, TUnit.Inv.scr, TUnit.Inv.obuf, TUnit.Inv.gangs, Launch.mk_inv, Launch.Inv.desc, OutInv_next, OutInv_fault, State.failWrites_inv, State.refuse_inv]

theorem State.movePackets_inv (s : State) (p : Nat) (h_s : State.Inv s) : State.Inv (State.movePackets s p) := by
  unfold State.movePackets; grind [State.mk_inv, State.Inv.mem, State.Inv.threads, State.Inv.units, State.Inv.hub, Hub.mk_inv, HubInv.launches, TUnit.mk_inv, TUnit.Inv.scr, TUnit.Inv.obuf, TUnit.Inv.gangs, Launch.mk_inv, Launch.Inv.desc, OutInv_next, OutInv_fault, State.fillPort_inv, State.losePacket_inv, State.modLink_inv, State.sendPacket_inv, AMap.All.filter, foldl_inv]

theorem State.rebucket_inv (s : State) (h_s : State.Inv s) : State.Inv (State.rebucket s) := by
  unfold State.rebucket; grind [State.mk_inv, State.Inv.mem, State.Inv.threads, State.Inv.units, State.Inv.hub, Hub.mk_inv, HubInv.launches, TUnit.mk_inv, TUnit.Inv.scr, TUnit.Inv.obuf, TUnit.Inv.gangs, Launch.mk_inv, Launch.Inv.desc, OutInv_next, OutInv_fault, State.movePackets_inv, foldl_inv]

theorem State.reroute_inv (s : State) (p : Nat) (h_s : State.Inv s) : State.Inv (State.reroute s p) := by
  unfold State.reroute; grind [State.mk_inv, State.Inv.mem, State.Inv.threads, State.Inv.units, State.Inv.hub, Hub.mk_inv, HubInv.launches, TUnit.mk_inv, TUnit.Inv.scr, TUnit.Inv.obuf, TUnit.Inv.gangs, Launch.mk_inv, Launch.Inv.desc, OutInv_next, OutInv_fault, State.modLink_inv, State.rebucket_inv]

theorem execZeroLengthReadCompletion_inv (s : State) (h_s : State.Inv s) : OutInv (execZeroLengthReadCompletion s) := by
  unfold execZeroLengthReadCompletion; grind [State.mk_inv, State.Inv.mem, State.Inv.threads, State.Inv.units, State.Inv.hub, Hub.mk_inv, HubInv.launches, TUnit.mk_inv, TUnit.Inv.scr, TUnit.Inv.obuf, TUnit.Inv.gangs, Launch.mk_inv, Launch.Inv.desc, OutInv_next, OutInv_fault, AMap.All.filter]

theorem State.modLoad_inv (s : State) (tk : Nat) (idx : Nat) (f : LoadRec → LoadRec) (h_s : State.Inv s) : State.Inv (State.modLoad s tk idx f) := by
  unfold State.modLoad; grind [State.mk_inv, State.Inv.mem, State.Inv.threads, State.Inv.units, State.Inv.hub, Hub.mk_inv, HubInv.launches, TUnit.mk_inv, TUnit.Inv.scr, TUnit.Inv.obuf, TUnit.Inv.gangs, Launch.mk_inv, Launch.Inv.desc, OutInv_next, OutInv_fault, State.modThread_inv, Thread.mk_inv, Thread.Inv.pc, Thread.Inv.rpc, Thread.Inv.loops, Thread.Inv.shadowLoops, Thread.Inv.cd, Thread.Inv.hd, Thread.Inv.shadowCd, Thread.Inv.shadowHd, loopsOk_nil, Thread.pw_inv, evenAddr_add, evenAddr_ofN, evenAddr_two, evenAddr_four, AMap.All.map]

theorem State.addBad_inv (s : State) (l : Loc) (cause : Nat) (wr : Bool) (h_s : State.Inv s) : State.Inv (State.addBad s l cause wr) := by
  unfold State.addBad; grind [State.mk_inv, State.Inv.mem, State.Inv.threads, State.Inv.units, State.Inv.hub, Hub.mk_inv, HubInv.launches, TUnit.mk_inv, TUnit.Inv.scr, TUnit.Inv.obuf, TUnit.Inv.gangs, Launch.mk_inv, Launch.Inv.desc, OutInv_next, OutInv_fault, AMap.All.filter]

theorem execErrorResponse_inv (rq : ErrReq) (cause : Nat) (s : State) (h_s : State.Inv s) : OutInv (execErrorResponse rq cause s) := by
  unfold execErrorResponse; grind [State.mk_inv, State.Inv.mem, State.Inv.threads, State.Inv.units, State.Inv.hub, Hub.mk_inv, HubInv.launches, TUnit.mk_inv, TUnit.Inv.scr, TUnit.Inv.obuf, TUnit.Inv.gangs, Launch.mk_inv, Launch.Inv.desc, OutInv_next, OutInv_fault, State.addBad_inv, State.failWrites_inv, State.logMgmt_inv, State.modCore_inv, State.modLoad_inv, State.storeError_inv, State.tryEnding_inv, Res.seq_inv, Res.seqR_inv, Res.hold_inv, Res.park_inv, Res.trap_inv, Res.jump_inv, ResInv.seq, ResInv.seqR, ResInv.hold, ResInv.park, ResInv.trap, ResInv.jump]

theorem State.retrain_inv (s : State) (p : Nat) (h_s : State.Inv s) : State.Inv (State.retrain s p) := by
  unfold State.retrain; grind [State.mk_inv, State.Inv.mem, State.Inv.threads, State.Inv.units, State.Inv.hub, Hub.mk_inv, HubInv.launches, TUnit.mk_inv, TUnit.Inv.scr, TUnit.Inv.obuf, TUnit.Inv.gangs, Launch.mk_inv, Launch.Inv.desc, OutInv_next, OutInv_fault, State.modLink_inv, State.reroute_inv]

theorem State.ackFlit_inv (s : State) (p : Nat) (n : Nat) (h_s : State.Inv s) : State.Inv (State.ackFlit s p n) := by
  unfold State.ackFlit; grind [State.mk_inv, State.Inv.mem, State.Inv.threads, State.Inv.units, State.Inv.hub, Hub.mk_inv, HubInv.launches, TUnit.mk_inv, TUnit.Inv.scr, TUnit.Inv.obuf, TUnit.Inv.gangs, Launch.mk_inv, Launch.Inv.desc, OutInv_next, OutInv_fault, State.fillPort_inv, State.modLink_inv]

theorem State.peerPart_inv (s : State) (d : Nat) (bs : List Byte) (src : Nat) (bad : Bool) (h_s : State.Inv s) : State.Inv (State.peerPart s d bs src bad) := by
  unfold State.peerPart; grind [State.mk_inv, State.Inv.mem, State.Inv.threads, State.Inv.units, State.Inv.hub, Hub.mk_inv, HubInv.launches, TUnit.mk_inv, TUnit.Inv.scr, TUnit.Inv.obuf, TUnit.Inv.gangs, Launch.mk_inv, Launch.Inv.desc, OutInv_next, OutInv_fault, State.outsideWrite_inv]

theorem State.serveFlit_inv (s : State) (p : Nat) (flit : List Byte) (h_s : State.Inv s) : State.Inv (State.serveFlit s p flit) := by
  unfold State.serveFlit; grind [State.mk_inv, State.Inv.mem, State.Inv.threads, State.Inv.units, State.Inv.hub, Hub.mk_inv, HubInv.launches, TUnit.mk_inv, TUnit.Inv.scr, TUnit.Inv.obuf, TUnit.Inv.gangs, Launch.mk_inv, Launch.Inv.desc, OutInv_next, OutInv_fault, State.failWrites_inv, State.forgetAt_inv, State.modLink_inv, State.noteWrite_inv, State.outsideWrite_inv, State.refuse_inv, State.reply_inv, State.takeSeq_inv, Store.forget_wf, AMap.All.filter]

theorem State.forward_inv (s : State) (flits : List (List Byte)) (h_s : State.Inv s) : State.Inv (State.forward s flits) := by
  unfold State.forward; grind [State.mk_inv, State.Inv.mem, State.Inv.threads, State.Inv.units, State.Inv.hub, Hub.mk_inv, HubInv.launches, TUnit.mk_inv, TUnit.Inv.scr, TUnit.Inv.obuf, TUnit.Inv.gangs, Launch.mk_inv, Launch.Inv.desc, OutInv_next, OutInv_fault, State.losePacket_inv, State.sendPacket_inv]

theorem State.forwardFlit_inv (s : State) (p : Nat) (flit : List Byte) (h_s : State.Inv s) : State.Inv (State.forwardFlit s p flit) := by
  unfold State.forwardFlit; grind [State.mk_inv, State.Inv.mem, State.Inv.threads, State.Inv.units, State.Inv.hub, Hub.mk_inv, HubInv.launches, TUnit.mk_inv, TUnit.Inv.scr, TUnit.Inv.obuf, TUnit.Inv.gangs, Launch.mk_inv, Launch.Inv.desc, OutInv_next, OutInv_fault, State.forward_inv, State.modLink_inv]

theorem State.dataFlit_inv (s : State) (p : Nat) (c : FlitCont) (flit : List Byte) (h_s : State.Inv s) : State.Inv (State.dataFlit s p c flit) := by
  unfold State.dataFlit; grind [State.mk_inv, State.Inv.mem, State.Inv.threads, State.Inv.units, State.Inv.hub, Hub.mk_inv, HubInv.launches, TUnit.mk_inv, TUnit.Inv.scr, TUnit.Inv.obuf, TUnit.Inv.gangs, Launch.mk_inv, Launch.Inv.desc, OutInv_next, OutInv_fault, State.forward_inv, State.modLink_inv, State.peerPart_inv, State.reply_inv]

theorem execFlitReceive_inv (port : Nat) (flit : List Byte) (s : State) (h_s : State.Inv s) : OutInv (execFlitReceive port flit s) := by
  unfold execFlitReceive; grind [State.mk_inv, State.Inv.mem, State.Inv.threads, State.Inv.units, State.Inv.hub, Hub.mk_inv, HubInv.launches, TUnit.mk_inv, TUnit.Inv.scr, TUnit.Inv.obuf, TUnit.Inv.gangs, Launch.mk_inv, Launch.Inv.desc, OutInv_next, OutInv_fault, State.ackFlit_inv, State.dataFlit_inv, State.forwardFlit_inv, State.modLink_inv, State.retrain_inv, State.serveFlit_inv]

theorem execLinkAckTimeout_inv (port : Nat) (s : State) (h_s : State.Inv s) : OutInv (execLinkAckTimeout port s) := by
  unfold execLinkAckTimeout; grind [State.mk_inv, State.Inv.mem, State.Inv.threads, State.Inv.units, State.Inv.hub, Hub.mk_inv, HubInv.launches, TUnit.mk_inv, TUnit.Inv.scr, TUnit.Inv.obuf, TUnit.Inv.gangs, Launch.mk_inv, Launch.Inv.desc, OutInv_next, OutInv_fault, State.retrain_inv]

theorem execLinkTrainingDone_inv (port : Nat) (lanes : Nat) (peer : Nat) (s : State) (h_s : State.Inv s) : OutInv (execLinkTrainingDone port lanes peer s) := by
  unfold execLinkTrainingDone; grind [State.mk_inv, State.Inv.mem, State.Inv.threads, State.Inv.units, State.Inv.hub, Hub.mk_inv, HubInv.launches, TUnit.mk_inv, TUnit.Inv.scr, TUnit.Inv.obuf, TUnit.Inv.gangs, Launch.mk_inv, Launch.Inv.desc, OutInv_next, OutInv_fault, State.modLink_inv, State.rebucket_inv]

theorem execLinkTakeDown_inv (port : Nat) (s : State) (h_s : State.Inv s) : OutInv (execLinkTakeDown port s) := by
  unfold execLinkTakeDown; grind [State.mk_inv, State.Inv.mem, State.Inv.threads, State.Inv.units, State.Inv.hub, Hub.mk_inv, HubInv.launches, TUnit.mk_inv, TUnit.Inv.scr, TUnit.Inv.obuf, TUnit.Inv.gangs, Launch.mk_inv, Launch.Inv.desc, OutInv_next, OutInv_fault, State.modLink_inv, State.reroute_inv]

theorem execLinkAllowTrain_inv (port : Nat) (s : State) (h_s : State.Inv s) : OutInv (execLinkAllowTrain port s) := by
  unfold execLinkAllowTrain; grind [State.mk_inv, State.Inv.mem, State.Inv.threads, State.Inv.units, State.Inv.hub, Hub.mk_inv, HubInv.launches, TUnit.mk_inv, TUnit.Inv.scr, TUnit.Inv.obuf, TUnit.Inv.gangs, Launch.mk_inv, Launch.Inv.desc, OutInv_next, OutInv_fault, State.modLink_inv]

theorem execRouteWrite_inv (m : Nat) (v : Word) (s : State) (h_s : State.Inv s) : OutInv (execRouteWrite m v s) := by
  unfold execRouteWrite; grind [State.mk_inv, State.Inv.mem, State.Inv.threads, State.Inv.units, State.Inv.hub, Hub.mk_inv, HubInv.launches, TUnit.mk_inv, TUnit.Inv.scr, TUnit.Inv.obuf, TUnit.Inv.gangs, Launch.mk_inv, Launch.Inv.desc, OutInv_next, OutInv_fault, State.modHub_inv, State.rebucket_inv, AMap.All.set]

theorem State.setEp_inv (s : State) (n : Nat) (st : Nat) (h_s : State.Inv s) : State.Inv (State.setEp s n st) := by
  unfold State.setEp; grind [State.mk_inv, State.Inv.mem, State.Inv.threads, State.Inv.units, State.Inv.hub, Hub.mk_inv, HubInv.launches, TUnit.mk_inv, TUnit.Inv.scr, TUnit.Inv.obuf, TUnit.Inv.gangs, Launch.mk_inv, Launch.Inv.desc, OutInv_next, OutInv_fault, State.modHub_inv, State.vector_inv]

theorem execEpEventClear_inv (v : Word) (s : State) (h_s : State.Inv s) : OutInv (execEpEventClear v s) := by
  unfold execEpEventClear; grind [State.mk_inv, State.Inv.mem, State.Inv.threads, State.Inv.units, State.Inv.hub, Hub.mk_inv, HubInv.launches, TUnit.mk_inv, TUnit.Inv.scr, TUnit.Inv.obuf, TUnit.Inv.gangs, Launch.mk_inv, Launch.Inv.desc, OutInv_next, OutInv_fault, State.modHub_inv, AMap.All.map]

theorem execIslandReset_inv (v : Word) (s : State) (h_s : State.Inv s) : OutInv (execIslandReset v s) := by
  unfold execIslandReset; grind [State.mk_inv, State.Inv.mem, State.Inv.threads, State.Inv.units, State.Inv.hub, Hub.mk_inv, HubInv.launches, TUnit.mk_inv, TUnit.Inv.scr, TUnit.Inv.obuf, TUnit.Inv.gangs, Launch.mk_inv, Launch.Inv.desc, OutInv_next, OutInv_fault, State.failWrites_inv, State.modHub_inv, AMap.All.map]

theorem State.islandUp_inv (s : State) (h_s : State.Inv s) : State.Inv (State.islandUp s) := by
  unfold State.islandUp; grind [State.mk_inv, State.Inv.mem, State.Inv.threads, State.Inv.units, State.Inv.hub, Hub.mk_inv, HubInv.launches, TUnit.mk_inv, TUnit.Inv.scr, TUnit.Inv.obuf, TUnit.Inv.gangs, Launch.mk_inv, Launch.Inv.desc, OutInv_next, OutInv_fault, State.modHub_inv, AMap.All.map]

end Sys2Proof.Machine
end

