-- ==== Sys2Proof/Laws/KeptResets.lean ====
section
/-! SUPPORT. That every operation of Machine/Resets.lean keeps the invariant State.Inv. -/

namespace Sys2Proof.Machine

theorem setBytes_foldl_wf (xs : List (Nat × List Byte)) : ∀ m : Store, m.wf = true → (xs.foldl (fun m e => m.setBytes (128 * e.1) e.2) m).wf = true := by
  induction xs with
  | nil => intro m h; exact h
  | cons x xs ih => intro m h; exact ih _ (Store.setBytes_wf _ h _)

theorem State.loseUnit_inv (s : State) (uid : Nat) (h_s : State.Inv s) : State.Inv (State.loseUnit s uid) := by
  unfold State.loseUnit; grind [State.mk_inv, State.Inv.mem, State.Inv.threads, State.Inv.units, State.Inv.hub, Hub.mk_inv, HubInv.launches, TUnit.mk_inv, TUnit.Inv.scr, TUnit.Inv.obuf, TUnit.Inv.gangs, Launch.mk_inv, Launch.Inv.desc, OutInv_next, OutInv_fault, State.dropOps_inv, State.modUnit_inv, State.throttle_inv, State.unseatUnit_inv, Thread.mk_inv, Thread.Inv.pc, Thread.Inv.rpc, Thread.Inv.loops, Thread.Inv.shadowLoops, Thread.Inv.cd, Thread.Inv.hd, Thread.Inv.shadowCd, Thread.Inv.shadowHd, loopsOk_nil, Thread.pw_inv, evenAddr_add, evenAddr_ofN, evenAddr_two, evenAddr_four, AMap.All.filter]

theorem State.loseDie_inv (s : State) (p : Nat) (h_s : State.Inv s) : State.Inv (State.loseDie s p) := by
  unfold State.loseDie; grind [State.mk_inv, State.Inv.mem, State.Inv.threads, State.Inv.units, State.Inv.hub, Hub.mk_inv, HubInv.launches, TUnit.mk_inv, TUnit.Inv.scr, TUnit.Inv.obuf, TUnit.Inv.gangs, Launch.mk_inv, Launch.Inv.desc, OutInv_next, OutInv_fault, State.endFault_inv, State.loseUnit_inv, AMap.All.filter, AMap.All.map, foldl_inv]

theorem State.bootFrom_inv (s : State) (h_s : State.Inv s) : ∀ x0, State.Inv ((State.bootFrom s) x0) := by
  intro x0
  fun_induction State.bootFrom s x0 <;> grind [State.mk_inv, State.Inv.mem, State.Inv.threads, State.Inv.units, State.Inv.hub, Hub.mk_inv, HubInv.launches, TUnit.mk_inv, TUnit.Inv.scr, TUnit.Inv.obuf, TUnit.Inv.gangs, Launch.mk_inv, Launch.Inv.desc, OutInv_next, OutInv_fault, State.modHub_inv, State.takeFresh_inv]

theorem State.boot_inv (s : State) (h_s : State.Inv s) : State.Inv (State.boot s) := by
  unfold State.boot; grind [State.mk_inv, State.Inv.mem, State.Inv.threads, State.Inv.units, State.Inv.hub, Hub.mk_inv, HubInv.launches, TUnit.mk_inv, TUnit.Inv.scr, TUnit.Inv.obuf, TUnit.Inv.gangs, Launch.mk_inv, Launch.Inv.desc, OutInv_next, OutInv_fault, State.bootFrom_inv, State.modHub_inv]

theorem State.setEps_inv (s : State) (ns : List Nat) (st : Nat) (h_s : State.Inv s) : State.Inv (State.setEps s ns st) := by
  unfold State.setEps; grind [State.mk_inv, State.Inv.mem, State.Inv.threads, State.Inv.units, State.Inv.hub, Hub.mk_inv, HubInv.launches, TUnit.mk_inv, TUnit.Inv.scr, TUnit.Inv.obuf, TUnit.Inv.gangs, Launch.mk_inv, Launch.Inv.desc, OutInv_next, OutInv_fault, State.setEp_inv, foldl_inv]

theorem State.failVaultWrites_inv (s : State) (d : Nat) (h_s : State.Inv s) : State.Inv (State.failVaultWrites s d) := by
  unfold State.failVaultWrites; grind [State.mk_inv, State.Inv.mem, State.Inv.threads, State.Inv.units, State.Inv.hub, Hub.mk_inv, HubInv.launches, TUnit.mk_inv, TUnit.Inv.scr, TUnit.Inv.obuf, TUnit.Inv.gangs, Launch.mk_inv, Launch.Inv.desc, OutInv_next, OutInv_fault, State.storeError_inv, AMap.All.filter, AMap.All.map, foldl_inv]

theorem State.clearVaults_inv (s : State) (d : Nat) (h_s : State.Inv s) : State.Inv (State.clearVaults s d) := by
  unfold State.clearVaults; grind [State.mk_inv, State.Inv.mem, State.Inv.threads, State.Inv.units, State.Inv.hub, Hub.mk_inv, HubInv.launches, TUnit.mk_inv, TUnit.Inv.scr, TUnit.Inv.obuf, TUnit.Inv.gangs, Launch.mk_inv, Launch.Inv.desc, OutInv_next, OutInv_fault, State.loseKept_inv, Store.zero_wf, AMap.All.filter]

theorem State.loseFar_inv (s : State) (d : Nat) (h_s : State.Inv s) : State.Inv (State.loseFar s d) := by
  unfold State.loseFar; grind [State.mk_inv, State.Inv.mem, State.Inv.threads, State.Inv.units, State.Inv.hub, Hub.mk_inv, HubInv.launches, TUnit.mk_inv, TUnit.Inv.scr, TUnit.Inv.obuf, TUnit.Inv.gangs, Launch.mk_inv, Launch.Inv.desc, OutInv_next, OutInv_fault, State.loseKept_inv, State.takeFresh_inv, setBytes_foldl_wf, Store.setByte_wf, Store.setBytes_wf, AMap.All.filter, foldl_inv]

theorem State.dropJobs_inv (s : State) (h_s : State.Inv s) : State.Inv (State.dropJobs s) := by
  unfold State.dropJobs; try intros
  repeat' first
    | with_reducible assumption
    | (with_reducible refine foldl_inv ?_ _ _ ?_ <;> intros)
    | with_reducible apply OutInv_next
    | with_reducible apply OutInv_fault
    | with_reducible apply State.cancelJob_inv
    | with_reducible apply State.modHub_inv
    | split
    | (intro _)
    | dsimp only
    | grind [State.mk_inv, State.Inv.mem, State.Inv.threads, State.Inv.units, State.Inv.hub, Hub.mk_inv, HubInv.launches, TUnit.mk_inv, TUnit.Inv.scr, TUnit.Inv.obuf, TUnit.Inv.gangs, Launch.mk_inv, Launch.Inv.desc, OutInv_next, OutInv_fault, State.cancelJob_inv, State.modHub_inv, AMap.All.map, foldl_inv]

theorem State.startReset_inv (s : State) (dom : Nat) (die : Nat) (spare : Bool) (h_s : State.Inv s) : State.Inv (State.startReset s dom die spare) := by
  unfold State.startReset
  extract_lets s0 s1 s2
  have h0 : s0.Inv := State.modHub_keep s _ h_s (fun _ => rfl)
  have h1 : s1.Inv := State.dropJobs_inv _ (State.setEps_inv _ [8, 9] 1 h0)
  have h2 : s2.Inv := State.ite_inv (c := dom < 2) h0 ⟨h1.mem, AMap.All.nil, AMap.All.nil, h1.hub⟩
  exact State.setEps_inv _ _ _ h2

theorem State.resetProper_inv (s : State) (h_s : State.Inv s) : State.Inv (State.resetProper s) := by
  unfold State.resetProper; grind [State.mk_inv, State.Inv.mem, State.Inv.threads, State.Inv.units, State.Inv.hub, Hub.mk_inv, HubInv.launches, TUnit.mk_inv, TUnit.Inv.scr, TUnit.Inv.obuf, TUnit.Inv.gangs, Launch.mk_inv, Launch.Inv.desc, OutInv_next, OutInv_fault, State.clearVaults_inv, State.failVaultWrites_inv, State.loseDie_inv, State.loseFar_inv, State.modHub_inv, State.setEps_inv, foldl_inv]

theorem State.mgmtReset_inv (s : State) (dom : Nat) (v : Word) (h_s : State.Inv s) : State.Inv (State.mgmtReset s dom v) := by
  unfold State.mgmtReset; grind [State.mk_inv, State.Inv.mem, State.Inv.threads, State.Inv.units, State.Inv.hub, Hub.mk_inv, HubInv.launches, TUnit.mk_inv, TUnit.Inv.scr, TUnit.Inv.obuf, TUnit.Inv.gangs, Launch.mk_inv, Launch.Inv.desc, OutInv_next, OutInv_fault, State.modHub_inv, State.startReset_inv]

theorem execMgmtResetComputeDie_inv (v : Word) (s : State) (h_s : State.Inv s) : OutInv (execMgmtResetComputeDie v s) := by
  unfold execMgmtResetComputeDie; grind [State.mk_inv, State.Inv.mem, State.Inv.threads, State.Inv.units, State.Inv.hub, Hub.mk_inv, HubInv.launches, TUnit.mk_inv, TUnit.Inv.scr, TUnit.Inv.obuf, TUnit.Inv.gangs, Launch.mk_inv, Launch.Inv.desc, OutInv_next, OutInv_fault, State.mgmtReset_inv]

theorem execMgmtResetBaseDie_inv (v : Word) (s : State) (h_s : State.Inv s) : OutInv (execMgmtResetBaseDie v s) := by
  unfold execMgmtResetBaseDie; grind [State.mk_inv, State.Inv.mem, State.Inv.threads, State.Inv.units, State.Inv.hub, Hub.mk_inv, HubInv.launches, TUnit.mk_inv, TUnit.Inv.scr, TUnit.Inv.obuf, TUnit.Inv.gangs, Launch.mk_inv, Launch.Inv.desc, OutInv_next, OutInv_fault, State.mgmtReset_inv]

theorem execMgmtResetHub_inv (v : Word) (s : State) (h_s : State.Inv s) : OutInv (execMgmtResetHub v s) := by
  unfold execMgmtResetHub; grind [State.mk_inv, State.Inv.mem, State.Inv.threads, State.Inv.units, State.Inv.hub, Hub.mk_inv, HubInv.launches, TUnit.mk_inv, TUnit.Inv.scr, TUnit.Inv.obuf, TUnit.Inv.gangs, Launch.mk_inv, Launch.Inv.desc, OutInv_next, OutInv_fault, State.mgmtReset_inv]

theorem State.hubReset_inv (s : State) (h_s : State.Inv s) : State.Inv (State.hubReset s) := by
  unfold State.hubReset
  extract_lets s0 s1 s2
  have h0 : s0.Inv := foldl_inv (fun a f ha => State.endFault_inv a f.token false ha) _ _ h_s
  clear_value s0
  have h1 : s1.Inv := State.modHub_inv s0 _ h0 (fun _ => AMap.All.nil)
  have h2 : s2.Inv := h1
  exact State.setEps_inv _ _ _ (State.setEps_inv _ _ _ (State.boot_inv _ h2))

theorem State.nextReset_inv (s : State) (h_s : State.Inv s) : State.Inv (State.nextReset s) := by
  unfold State.nextReset; grind [State.mk_inv, State.Inv.mem, State.Inv.threads, State.Inv.units, State.Inv.hub, Hub.mk_inv, HubInv.launches, TUnit.mk_inv, TUnit.Inv.scr, TUnit.Inv.obuf, TUnit.Inv.gangs, Launch.mk_inv, Launch.Inv.desc, OutInv_next, OutInv_fault, State.modHub_inv, State.startReset_inv]

theorem execDmapWrite_inv (v : Word) (s : State) (h_s : State.Inv s) : OutInv (execDmapWrite v s) := by
  unfold execDmapWrite; grind [State.mk_inv, State.Inv.mem, State.Inv.threads, State.Inv.units, State.Inv.hub, Hub.mk_inv, HubInv.launches, TUnit.mk_inv, TUnit.Inv.scr, TUnit.Inv.obuf, TUnit.Inv.gangs, Launch.mk_inv, Launch.Inv.desc, OutInv_next, OutInv_fault, State.modHub_inv, State.setEps_inv, foldl_inv]

theorem State.sparingStep5_inv (s : State) (p : Nat) (taken : Option Nat) (h_s : State.Inv s) : State.Inv (State.sparingStep5 s p taken) := by
  unfold State.sparingStep5; grind [State.mk_inv, State.Inv.mem, State.Inv.threads, State.Inv.units, State.Inv.hub, Hub.mk_inv, HubInv.launches, TUnit.mk_inv, TUnit.Inv.scr, TUnit.Inv.obuf, TUnit.Inv.gangs, Launch.mk_inv, Launch.Inv.desc, OutInv_next, OutInv_fault, State.modHub_inv, State.nextReset_inv, State.vector_inv]

theorem State.sparingStep3_inv (s : State) (p : Nat) (h_s : State.Inv s) : State.Inv (State.sparingStep3 s p) := by
  unfold State.sparingStep3; grind [State.mk_inv, State.Inv.mem, State.Inv.threads, State.Inv.units, State.Inv.hub, Hub.mk_inv, HubInv.launches, TUnit.mk_inv, TUnit.Inv.scr, TUnit.Inv.obuf, TUnit.Inv.gangs, Launch.mk_inv, Launch.Inv.desc, OutInv_next, OutInv_fault, State.modHub_inv, State.sparingStep5_inv]

theorem State.startSparing_inv (s : State) (p : Nat) (cause : Nat) (h_s : State.Inv s) : State.Inv (State.startSparing s p cause) := by
  unfold State.startSparing; grind [State.mk_inv, State.Inv.mem, State.Inv.threads, State.Inv.units, State.Inv.hub, Hub.mk_inv, HubInv.launches, TUnit.mk_inv, TUnit.Inv.scr, TUnit.Inv.obuf, TUnit.Inv.gangs, Launch.mk_inv, Launch.Inv.desc, OutInv_next, OutInv_fault, State.loseDie_inv, State.modHub_inv, State.setEps_inv, State.sparingStep3_inv, AMap.All.map]

theorem State.dieFails_inv (s : State) (p : Nat) (cause : Nat) (h_s : State.Inv s) : State.Inv (State.dieFails s p cause) := by
  unfold State.dieFails; grind [State.mk_inv, State.Inv.mem, State.Inv.threads, State.Inv.units, State.Inv.hub, Hub.mk_inv, HubInv.launches, TUnit.mk_inv, TUnit.Inv.scr, TUnit.Inv.obuf, TUnit.Inv.gangs, Launch.mk_inv, Launch.Inv.desc, OutInv_next, OutInv_fault, State.modHub_inv, State.startSparing_inv]

theorem execDieHeartbeatMiss_inv (p : Nat) (s : State) (h_s : State.Inv s) : OutInv (execDieHeartbeatMiss p s) := by
  unfold execDieHeartbeatMiss; grind [State.mk_inv, State.Inv.mem, State.Inv.threads, State.Inv.units, State.Inv.hub, Hub.mk_inv, HubInv.launches, TUnit.mk_inv, TUnit.Inv.scr, TUnit.Inv.obuf, TUnit.Inv.gangs, Launch.mk_inv, Launch.Inv.desc, OutInv_next, OutInv_fault, State.dieFails_inv]

theorem execDieInternalError_inv (p : Nat) (s : State) (h_s : State.Inv s) : OutInv (execDieInternalError p s) := by
  unfold execDieInternalError; grind [State.mk_inv, State.Inv.mem, State.Inv.threads, State.Inv.units, State.Inv.hub, Hub.mk_inv, HubInv.launches, TUnit.mk_inv, TUnit.Inv.scr, TUnit.Inv.obuf, TUnit.Inv.gangs, Launch.mk_inv, Launch.Inv.desc, OutInv_next, OutInv_fault, State.dieFails_inv]

theorem State.nextSparing_inv (s : State) (h_s : State.Inv s) : State.Inv (State.nextSparing s) := by
  unfold State.nextSparing; grind [State.mk_inv, State.Inv.mem, State.Inv.threads, State.Inv.units, State.Inv.hub, Hub.mk_inv, HubInv.launches, TUnit.mk_inv, TUnit.Inv.scr, TUnit.Inv.obuf, TUnit.Inv.gangs, Launch.mk_inv, Launch.Inv.desc, OutInv_next, OutInv_fault, State.dieFails_inv, State.modHub_inv]

theorem execSpareSelfTestDone_inv (ok : Bool) (s : State) (h_s : State.Inv s) : OutInv (execSpareSelfTestDone ok s) := by
  unfold execSpareSelfTestDone; grind [State.mk_inv, State.Inv.mem, State.Inv.threads, State.Inv.units, State.Inv.hub, Hub.mk_inv, HubInv.launches, TUnit.mk_inv, TUnit.Inv.scr, TUnit.Inv.obuf, TUnit.Inv.gangs, Launch.mk_inv, Launch.Inv.desc, OutInv_next, OutInv_fault, State.modHub_inv, State.nextSparing_inv, State.setEps_inv, State.sparingStep3_inv, State.sparingStep5_inv]

theorem State.becomeSpare_inv (s : State) (p : Nat) (h_s : State.Inv s) : State.Inv (State.becomeSpare s p) := by
  unfold State.becomeSpare; grind [State.mk_inv, State.Inv.mem, State.Inv.threads, State.Inv.units, State.Inv.hub, Hub.mk_inv, HubInv.launches, TUnit.mk_inv, TUnit.Inv.scr, TUnit.Inv.obuf, TUnit.Inv.gangs, Launch.mk_inv, Launch.Inv.desc, OutInv_next, OutInv_fault, State.modHub_inv, State.nextSparing_inv]

theorem State.sparingStep6_inv (s : State) (p : Nat) (h_s : State.Inv s) : State.Inv (State.sparingStep6 s p) := by
  unfold State.sparingStep6; grind [State.mk_inv, State.Inv.mem, State.Inv.threads, State.Inv.units, State.Inv.hub, Hub.mk_inv, HubInv.launches, TUnit.mk_inv, TUnit.Inv.scr, TUnit.Inv.obuf, TUnit.Inv.gangs, Launch.mk_inv, Launch.Inv.desc, OutInv_next, OutInv_fault, State.becomeSpare_inv, State.setEps_inv, State.takeFresh_inv]

theorem State.dieUp_inv (s : State) (p : Nat) (h_s : State.Inv s) : State.Inv (State.dieUp s p) := by
  unfold State.dieUp; grind [State.mk_inv, State.Inv.mem, State.Inv.threads, State.Inv.units, State.Inv.hub, Hub.mk_inv, HubInv.launches, TUnit.mk_inv, TUnit.Inv.scr, TUnit.Inv.obuf, TUnit.Inv.gangs, Launch.mk_inv, Launch.Inv.desc, OutInv_next, OutInv_fault, State.modHub_inv, State.setEps_inv, AMap.All.filter]

theorem execResetSequenceComplete_inv (s : State) (h_s : State.Inv s) : OutInv (execResetSequenceComplete s) := by
  unfold execResetSequenceComplete; grind [State.mk_inv, State.Inv.mem, State.Inv.threads, State.Inv.units, State.Inv.hub, Hub.mk_inv, HubInv.launches, TUnit.mk_inv, TUnit.Inv.scr, TUnit.Inv.obuf, TUnit.Inv.gangs, Launch.mk_inv, Launch.Inv.desc, OutInv_next, OutInv_fault, State.dieUp_inv, State.hubReset_inv, State.islandUp_inv, State.modHub_inv, State.nextReset_inv, State.resetProper_inv, State.setEps_inv, State.sparingStep6_inv]

end Sys2Proof.Machine
end

