-- ==== Sys2Proof/Laws/KeptTranslation.lean ====
section
/-! SUPPORT. That every operation of Machine/Translation.lean keeps the invariant State.Inv. -/

namespace Sys2Proof.Machine

theorem foldl_mem_inv {α : Type} {P : α → Prop} {f : State → α → State} (hf : ∀ s a, P a → s.Inv → (f s a).Inv) :
    ∀ (xs : List α) (s : State), (∀ x ∈ xs, P x) → s.Inv → (xs.foldl f s).Inv
  | [], _, _, h => h
  | x :: xs, s, hp, h => foldl_mem_inv hf xs _ (fun y hy => hp y (List.mem_cons_of_mem _ hy)) (hf s x (hp x List.mem_cons_self) h)

theorem execFqTailWrite_inv (v : Word) (s : State) (h_s : State.Inv s) : OutInv (execFqTailWrite v s) := by
  unfold execFqTailWrite; grind [State.mk_inv, State.Inv.mem, State.Inv.threads, State.Inv.units, State.Inv.hub, Hub.mk_inv, HubInv.launches, TUnit.mk_inv, TUnit.Inv.scr, TUnit.Inv.obuf, TUnit.Inv.gangs, Launch.mk_inv, Launch.Inv.desc, OutInv_next, OutInv_fault, State.flushFaults_inv, State.modHub_inv]

theorem execFqBaseWrite_inv (v : Word) (s : State) (h_s : State.Inv s) : OutInv (execFqBaseWrite v s) := by
  unfold execFqBaseWrite; grind [State.mk_inv, State.Inv.mem, State.Inv.threads, State.Inv.units, State.Inv.hub, Hub.mk_inv, HubInv.launches, TUnit.mk_inv, TUnit.Inv.scr, TUnit.Inv.obuf, TUnit.Inv.gangs, Launch.mk_inv, Launch.Inv.desc, OutInv_next, OutInv_fault, State.flushFaults_inv, State.modHub_inv]

theorem execFqSizeWrite_inv (v : Word) (s : State) (h_s : State.Inv s) : OutInv (execFqSizeWrite v s) := by
  unfold execFqSizeWrite; grind [State.mk_inv, State.Inv.mem, State.Inv.threads, State.Inv.units, State.Inv.hub, Hub.mk_inv, HubInv.launches, TUnit.mk_inv, TUnit.Inv.scr, TUnit.Inv.obuf, TUnit.Inv.gangs, Launch.mk_inv, Launch.Inv.desc, OutInv_next, OutInv_fault, State.flushFaults_inv, State.modHub_inv]

theorem execFqReplyResolve_inv (token : Nat) (s : State) (h_s : State.Inv s) : OutInv (execFqReplyResolve token s) := by
  unfold execFqReplyResolve; grind [State.mk_inv, State.Inv.mem, State.Inv.threads, State.Inv.units, State.Inv.hub, Hub.mk_inv, HubInv.launches, TUnit.mk_inv, TUnit.Inv.scr, TUnit.Inv.obuf, TUnit.Inv.gangs, Launch.mk_inv, Launch.Inv.desc, OutInv_next, OutInv_fault, State.endFault_inv]

theorem execFqReplyRefuse_inv (token : Nat) (s : State) (h_s : State.Inv s) : OutInv (execFqReplyRefuse token s) := by
  unfold execFqReplyRefuse; grind [State.mk_inv, State.Inv.mem, State.Inv.threads, State.Inv.units, State.Inv.hub, Hub.mk_inv, HubInv.launches, TUnit.mk_inv, TUnit.Inv.scr, TUnit.Inv.obuf, TUnit.Inv.gangs, Launch.mk_inv, Launch.Inv.desc, OutInv_next, OutInv_fault, State.endFault_inv]

theorem execFqLimitExpiry_inv (token : Nat) (s : State) (h_s : State.Inv s) : OutInv (execFqLimitExpiry token s) := by
  unfold execFqLimitExpiry; grind [State.mk_inv, State.Inv.mem, State.Inv.threads, State.Inv.units, State.Inv.hub, Hub.mk_inv, HubInv.launches, TUnit.mk_inv, TUnit.Inv.scr, TUnit.Inv.obuf, TUnit.Inv.gangs, Launch.mk_inv, Launch.Inv.desc, OutInv_next, OutInv_fault, State.endFault_inv]

theorem execXinvStart_inv (v : Word) (s : State) (h_s : State.Inv s) : OutInv (execXinvStart v s) := by
  unfold execXinvStart; grind [State.mk_inv, State.Inv.mem, State.Inv.threads, State.Inv.units, State.Inv.hub, Hub.mk_inv, HubInv.launches, TUnit.mk_inv, TUnit.Inv.scr, TUnit.Inv.obuf, TUnit.Inv.gangs, Launch.mk_inv, Launch.Inv.desc, OutInv_next, OutInv_fault, State.modHub_inv, AMap.All.filter, AMap.All.map]

theorem State.xinvThread_inv (s : State) (tk : Nat) (t : Thread) (h_s : State.Inv s) (h_t : Thread.Inv t) : State.Inv (State.xinvThread s tk t) := by
  unfold State.xinvThread; grind [State.mk_inv, State.Inv.mem, State.Inv.threads, State.Inv.units, State.Inv.hub, Hub.mk_inv, HubInv.launches, TUnit.mk_inv, TUnit.Inv.scr, TUnit.Inv.obuf, TUnit.Inv.gangs, Launch.mk_inv, Launch.Inv.desc, OutInv_next, OutInv_fault, State.reissue_inv, State.setThread_inv, Thread.mk_inv, Thread.Inv.pc, Thread.Inv.rpc, Thread.Inv.loops, Thread.Inv.shadowLoops, Thread.Inv.cd, Thread.Inv.hd, Thread.Inv.shadowCd, Thread.Inv.shadowHd, loopsOk_nil, Thread.pw_inv, evenAddr_add, evenAddr_ofN, evenAddr_two, evenAddr_four, AMap.All.filter, Res.seq_inv, Res.seqR_inv, Res.hold_inv, Res.park_inv, Res.trap_inv, Res.jump_inv, ResInv.seq, ResInv.seqR, ResInv.hold, ResInv.park, ResInv.trap, ResInv.jump]

theorem execXinvDone_inv (s : State) (h_s : State.Inv s) : OutInv (execXinvDone s) := by
  unfold execXinvDone
  split
  · exact OutInv_next h_s
  · have h := foldl_mem_inv (P := fun p : Nat × Thread => p.2.Inv) (f := fun s p => s.xinvThread p.1 p.2)
      (fun a p hp ha => State.xinvThread_inv a p.1 p.2 ha hp) s.threads s h_s.threads h_s
    extract_lets s1
    exact OutInv_next (State.modHub_keep _ _ (State.congr_inv (s := s1) h rfl rfl rfl rfl) (fun _ => rfl))

theorem execSliceSizeChange_inv (bdie : Nat) (size : Nat) (s : State) (h_s : State.Inv s) : OutInv (execSliceSizeChange bdie size s) := by
  unfold execSliceSizeChange; grind [State.mk_inv, State.Inv.mem, State.Inv.threads, State.Inv.units, State.Inv.hub, Hub.mk_inv, HubInv.launches, TUnit.mk_inv, TUnit.Inv.scr, TUnit.Inv.obuf, TUnit.Inv.gangs, Launch.mk_inv, Launch.Inv.desc, OutInv_next, OutInv_fault, State.takeFresh_inv, Store.forget_wf, AMap.All.filter, foldl_inv]

end Sys2Proof.Machine
end

