-- ==== Sys2Proof/Laws/KeptBoard.lean ====
section
/-! SUPPORT. That every operation of Machine/Board.lean keeps the invariant State.Inv. -/

namespace Sys2Proof.Machine

theorem HubInv_ite {c : Prop} [Decidable c] {a b : Hub} (ha : HubInv a) (hb : HubInv b) : HubInv (if c then a else b) := by
  split
  · exact ha
  · exact hb

theorem State.observe_inv (s : State) (src : Nat) (sel : Nat) (sample : Nat) (h_s : State.Inv s) : State.Inv (State.observe s src sel sample) := by
  unfold State.observe; grind [State.mk_inv, State.Inv.mem, State.Inv.threads, State.Inv.units, State.Inv.hub, Hub.mk_inv, HubInv.launches, TUnit.mk_inv, TUnit.Inv.scr, TUnit.Inv.obuf, TUnit.Inv.gangs, Launch.mk_inv, Launch.Inv.desc, OutInv_next, OutInv_fault, State.modHub_inv, AMap.All.map]

theorem execPwrClWrite_inv (n : Nat) (v : Word) (s : State) (h_s : State.Inv s) : OutInv (execPwrClWrite n v s) := by
  unfold execPwrClWrite; grind [State.mk_inv, State.Inv.mem, State.Inv.threads, State.Inv.units, State.Inv.hub, Hub.mk_inv, HubInv.launches, TUnit.mk_inv, TUnit.Inv.scr, TUnit.Inv.obuf, TUnit.Inv.gangs, Launch.mk_inv, Launch.Inv.desc, OutInv_next, OutInv_fault, State.modCluster_inv]

theorem execRatioChangeComplete_inv (n : Nat) (s : State) (h_s : State.Inv s) : OutInv (execRatioChangeComplete n s) := by
  unfold execRatioChangeComplete; grind [State.mk_inv, State.Inv.mem, State.Inv.threads, State.Inv.units, State.Inv.hub, Hub.mk_inv, HubInv.launches, TUnit.mk_inv, TUnit.Inv.scr, TUnit.Inv.obuf, TUnit.Inv.gangs, Launch.mk_inv, Launch.Inv.desc, OutInv_next, OutInv_fault, State.modCluster_inv]

theorem execPowerLimitStep_inv (n : Nat) (step : Nat) (s : State) (h_s : State.Inv s) : OutInv (execPowerLimitStep n step s) := by
  unfold execPowerLimitStep; grind [State.mk_inv, State.Inv.mem, State.Inv.threads, State.Inv.units, State.Inv.hub, Hub.mk_inv, HubInv.launches, TUnit.mk_inv, TUnit.Inv.scr, TUnit.Inv.obuf, TUnit.Inv.gangs, Launch.mk_inv, Launch.Inv.desc, OutInv_next, OutInv_fault, State.modCluster_inv]

theorem execDroopDetect_inv (n : Nat) (s : State) (h_s : State.Inv s) : OutInv (execDroopDetect n s) := by
  unfold execDroopDetect; grind [State.mk_inv, State.Inv.mem, State.Inv.threads, State.Inv.units, State.Inv.hub, Hub.mk_inv, HubInv.launches, TUnit.mk_inv, TUnit.Inv.scr, TUnit.Inv.obuf, TUnit.Inv.gangs, Launch.mk_inv, Launch.Inv.desc, OutInv_next, OutInv_fault, State.modCluster_inv]

theorem execDroopRecover_inv (n : Nat) (s : State) (h_s : State.Inv s) : OutInv (execDroopRecover n s) := by
  unfold execDroopRecover; grind [State.mk_inv, State.Inv.mem, State.Inv.threads, State.Inv.units, State.Inv.hub, Hub.mk_inv, HubInv.launches, TUnit.mk_inv, TUnit.Inv.scr, TUnit.Inv.obuf, TUnit.Inv.gangs, Launch.mk_inv, Launch.Inv.desc, OutInv_next, OutInv_fault, State.modCluster_inv, State.observe_inv]

theorem execHoldStart_inv (n : Nat) (s : State) (h_s : State.Inv s) : OutInv (execHoldStart n s) := by
  unfold execHoldStart; grind [State.mk_inv, State.Inv.mem, State.Inv.threads, State.Inv.units, State.Inv.hub, Hub.mk_inv, HubInv.launches, TUnit.mk_inv, TUnit.Inv.scr, TUnit.Inv.obuf, TUnit.Inv.gangs, Launch.mk_inv, Launch.Inv.desc, OutInv_next, OutInv_fault, State.modCluster_inv, Res.seq_inv, Res.seqR_inv, Res.hold_inv, Res.park_inv, Res.trap_inv, Res.jump_inv, ResInv.seq, ResInv.seqR, ResInv.hold, ResInv.park, ResInv.trap, ResInv.jump]

theorem execHoldEnd_inv (n : Nat) (s : State) (h_s : State.Inv s) : OutInv (execHoldEnd n s) := by
  unfold execHoldEnd; grind [State.mk_inv, State.Inv.mem, State.Inv.threads, State.Inv.units, State.Inv.hub, Hub.mk_inv, HubInv.launches, TUnit.mk_inv, TUnit.Inv.scr, TUnit.Inv.obuf, TUnit.Inv.gangs, Launch.mk_inv, Launch.Inv.desc, OutInv_next, OutInv_fault, State.modCluster_inv, State.observe_inv, Res.seq_inv, Res.seqR_inv, Res.hold_inv, Res.park_inv, Res.trap_inv, Res.jump_inv, ResInv.seq, ResInv.seqR, ResInv.hold, ResInv.park, ResInv.trap, ResInv.jump]

theorem execTmrAlign_inv (forward : Nat) (s : State) (h_s : State.Inv s) : OutInv (execTmrAlign forward s) := by
  unfold execTmrAlign; grind [State.mk_inv, State.Inv.mem, State.Inv.threads, State.Inv.units, State.Inv.hub, Hub.mk_inv, HubInv.launches, TUnit.mk_inv, TUnit.Inv.scr, TUnit.Inv.obuf, TUnit.Inv.gangs, Launch.mk_inv, Launch.Inv.desc, OutInv_next, OutInv_fault, State.modHub_inv]

theorem execPowerOnReset_inv (s : State) : OutInv (execPowerOnReset s) :=
  OutInv_next (State.boot_inv _ (State.mk_inv _ _ _ _ _ _ _ _ _ _ _ _ _ _ _ _ _ _ Store.empty_wf AMap.All.nil AMap.All.nil AMap.All.nil))

theorem execMonitorSample_inv (i : Nat) (sample : Nat) (s : State) (h_s : State.Inv s) : OutInv (execMonitorSample i sample s) := by
  unfold execMonitorSample; grind [State.mk_inv, State.Inv.mem, State.Inv.threads, State.Inv.units, State.Inv.hub, Hub.mk_inv, HubInv.launches, TUnit.mk_inv, TUnit.Inv.scr, TUnit.Inv.obuf, TUnit.Inv.gangs, Launch.mk_inv, Launch.Inv.desc, OutInv_next, OutInv_fault, State.modHub_inv, AMap.All.set]

theorem execMonitorClr_inv (i : Nat) (s : State) (h_s : State.Inv s) : OutInv (execMonitorClr i s) := by
  unfold execMonitorClr; grind [State.mk_inv, State.Inv.mem, State.Inv.threads, State.Inv.units, State.Inv.hub, Hub.mk_inv, HubInv.launches, TUnit.mk_inv, TUnit.Inv.scr, TUnit.Inv.obuf, TUnit.Inv.gangs, Launch.mk_inv, Launch.Inv.desc, OutInv_next, OutInv_fault, State.modHub_inv, AMap.All.set]

theorem execErrorLogClear_inv (ck : Nat) (s : State) (h_s : State.Inv s) : OutInv (execErrorLogClear ck s) := by
  unfold execErrorLogClear; grind [State.mk_inv, State.Inv.mem, State.Inv.threads, State.Inv.units, State.Inv.hub, Hub.mk_inv, HubInv.launches, TUnit.mk_inv, TUnit.Inv.scr, TUnit.Inv.obuf, TUnit.Inv.gangs, Launch.mk_inv, Launch.Inv.desc, OutInv_next, OutInv_fault, State.modCore_inv]

theorem execManagementLogClear_inv (s : State) (h_s : State.Inv s) : OutInv (execManagementLogClear s) := by
  unfold execManagementLogClear; grind [State.mk_inv, State.Inv.mem, State.Inv.threads, State.Inv.units, State.Inv.hub, Hub.mk_inv, HubInv.launches, TUnit.mk_inv, TUnit.Inv.scr, TUnit.Inv.obuf, TUnit.Inv.gangs, Launch.mk_inv, Launch.Inv.desc, OutInv_next, OutInv_fault, State.modHub_inv]

theorem execAperBaseWrite_inv (v : Word) (s : State) (h_s : State.Inv s) : OutInv (execAperBaseWrite v s) := by
  unfold execAperBaseWrite; grind [State.mk_inv, State.Inv.mem, State.Inv.threads, State.Inv.units, State.Inv.hub, Hub.mk_inv, HubInv.launches, TUnit.mk_inv, TUnit.Inv.scr, TUnit.Inv.obuf, TUnit.Inv.gangs, Launch.mk_inv, Launch.Inv.desc, OutInv_next, OutInv_fault, State.modHub_inv]

theorem execBar2Resize_inv (size : Nat) (s : State) (h_s : State.Inv s) : OutInv (execBar2Resize size s) := by
  unfold execBar2Resize; grind [State.mk_inv, State.Inv.mem, State.Inv.threads, State.Inv.units, State.Inv.hub, Hub.mk_inv, HubInv.launches, TUnit.mk_inv, TUnit.Inv.scr, TUnit.Inv.obuf, TUnit.Inv.gangs, Launch.mk_inv, Launch.Inv.desc, OutInv_next, OutInv_fault, State.modHub_inv]

theorem execBar0BadAccess_inv (off : Nat) (s : State) (h_s : State.Inv s) : OutInv (execBar0BadAccess off s) :=
  OutInv_next (State.modHub_inv s _ h_s (fun h => h))

theorem Hub.putRegister_inv (h : Hub) (off len : Nat) (v : Word) (h_h : HubInv h) : HubInv (h.putRegister off len v) := by
  unfold Hub.putRegister
  repeat' (first | with_reducible apply HubInv_ite | exact h_h)

theorem routeWrites_inv (m len : Nat) (v : Word) (s : State) (h_s : State.Inv s) : OutInv (routeWrites m len v s) := by
  unfold routeWrites
  have h := execRouteWrite_inv m (Word.ofN (bits v.toNat 31 0)) s h_s
  split
  · rename_i s2 he
    have h2 := h s2 he
    split
    · exact execRouteWrite_inv _ _ _ h2
    · exact OutInv_next h2
  · exact h

theorem execRegisterWrite_inv (off : Nat) (len : Nat) (v : Word) (s : State) (h_s : State.Inv s) : OutInv (execRegisterWrite off len v s) := by
  unfold execRegisterWrite
  split
  · exact execBar0BadAccess_inv off s h_s
  split
  · exact OutInv_next h_s
  split
  · exact execFqTailWrite_inv _ s h_s
  split
  · exact routeWrites_inv _ len v s h_s
  · exact OutInv_next (State.modHub_inv s _ h_s (fun h => Hub.putRegister_inv _ off len v h))

theorem State.mbStart_inv (s : State) (code : Nat) (len : Nat) (tag : Nat) (h_s : State.Inv s) : State.Inv (State.mbStart s code len tag) := by
  unfold State.mbStart; grind [State.mk_inv, State.Inv.mem, State.Inv.threads, State.Inv.units, State.Inv.hub, Hub.mk_inv, HubInv.launches, TUnit.mk_inv, TUnit.Inv.scr, TUnit.Inv.obuf, TUnit.Inv.gangs, Launch.mk_inv, Launch.Inv.desc, OutInv_next, OutInv_fault, State.modHub_inv]

theorem execAttest_inv (len : Nat) (tag : Nat) (s : State) (h_s : State.Inv s) : OutInv (execAttest len tag s) := by
  unfold execAttest; grind [State.mk_inv, State.Inv.mem, State.Inv.threads, State.Inv.units, State.Inv.hub, Hub.mk_inv, HubInv.launches, TUnit.mk_inv, TUnit.Inv.scr, TUnit.Inv.obuf, TUnit.Inv.gangs, Launch.mk_inv, Launch.Inv.desc, OutInv_next, OutInv_fault, State.mbStart_inv]

theorem execLoadImage_inv (len : Nat) (tag : Nat) (s : State) (h_s : State.Inv s) : OutInv (execLoadImage len tag s) := by
  unfold execLoadImage; grind [State.mk_inv, State.Inv.mem, State.Inv.threads, State.Inv.units, State.Inv.hub, Hub.mk_inv, HubInv.launches, TUnit.mk_inv, TUnit.Inv.scr, TUnit.Inv.obuf, TUnit.Inv.gangs, Launch.mk_inv, Launch.Inv.desc, OutInv_next, OutInv_fault, State.mbStart_inv]

theorem execReadMeas_inv (len : Nat) (tag : Nat) (s : State) (h_s : State.Inv s) : OutInv (execReadMeas len tag s) := by
  unfold execReadMeas; grind [State.mk_inv, State.Inv.mem, State.Inv.threads, State.Inv.units, State.Inv.hub, Hub.mk_inv, HubInv.launches, TUnit.mk_inv, TUnit.Inv.scr, TUnit.Inv.obuf, TUnit.Inv.gangs, Launch.mk_inv, Launch.Inv.desc, OutInv_next, OutInv_fault, State.mbStart_inv]

theorem execUnknownCommandCode_inv (code : Nat) (tag : Nat) (s : State) (h_s : State.Inv s) : OutInv (execUnknownCommandCode code tag s) := by
  unfold execUnknownCommandCode; grind [State.mk_inv, State.Inv.mem, State.Inv.threads, State.Inv.units, State.Inv.hub, Hub.mk_inv, HubInv.launches, TUnit.mk_inv, TUnit.Inv.scr, TUnit.Inv.obuf, TUnit.Inv.gangs, Launch.mk_inv, Launch.Inv.desc, OutInv_next, OutInv_fault, State.mbStart_inv]

theorem MbDone.ite_inv {c : Prop} [Decidable c] {a b : MbDone} (ha : State.Inv a.st) (hb : State.Inv b.st) : State.Inv (if c then a else b).st := by
  split
  · exact ha
  · exact hb
theorem State.loadChunk_inv (s : State) (len : Nat) (h_s : State.Inv s) : State.Inv (s.loadChunk len).st := by
  unfold State.loadChunk
  repeat' (first
    | exact h_s
    | with_reducible apply MbDone.ite_inv
    | with_reducible apply State.ite_inv
    | with_reducible apply State.boot_inv
    | (with_reducible apply State.modHub_inv; rotate_left; · exact fun h => h)
    | dsimp only)
theorem State.mbRun_inv (s : State) (h_s : State.Inv s) : State.Inv s.mbRun.st := by
  unfold State.mbRun
  dsimp only
  repeat' (first | exact h_s | exact State.loadChunk_inv s _ h_s | split)
theorem execMailboxCompletion_inv (s : State) (h_s : State.Inv s) : OutInv (execMailboxCompletion s) := by
  unfold execMailboxCompletion
  split
  · exact OutInv_next h_s
  · exact OutInv_next (State.vector_inv _ _ (State.modHub_inv _ _ (State.mbRun_inv s h_s) (fun h => h)))

end Sys2Proof.Machine
end

