-- ==== Sys2Proof/Laws/KeptInteger.lean ====
section
/-! SUPPORT. That every operation of Machine/Integer.lean keeps the invariant State.Inv. -/

namespace Sys2Proof.Machine

theorem execIadd_inv (o : Op3) (s : State) (h_s : State.Inv s) : OutInv (execIadd o s) :=
  run2_inv _ s _ h_s

theorem execIsub_inv (o : Op3) (s : State) (h_s : State.Inv s) : OutInv (execIsub o s) :=
  run2_inv _ s _ h_s

theorem execImul_inv (o : Op3) (s : State) (h_s : State.Inv s) : OutInv (execImul o s) :=
  run2_inv _ s _ h_s

theorem execImac_inv (o : Op3) (s : State) (h_s : State.Inv s) : OutInv (execImac o s) :=
  run3_inv _ s _ h_s

theorem execIadd32_inv (o : Op3) (s : State) (h_s : State.Inv s) : OutInv (execIadd32 o s) :=
  run2_inv _ s _ h_s

theorem execIsub32_inv (o : Op3) (s : State) (h_s : State.Inv s) : OutInv (execIsub32 o s) :=
  run2_inv _ s _ h_s

theorem execImul32_inv (o : Op3) (s : State) (h_s : State.Inv s) : OutInv (execImul32 o s) :=
  run2_inv _ s _ h_s

theorem execImac32_inv (o : Op3) (s : State) (h_s : State.Inv s) : OutInv (execImac32 o s) :=
  run3_inv _ s _ h_s

theorem execImulhS_inv (o : Op3) (s : State) (h_s : State.Inv s) : OutInv (execImulhS o s) :=
  run2_inv _ s _ h_s

theorem execImulhN_inv (o : Op3) (s : State) (h_s : State.Inv s) : OutInv (execImulhN o s) :=
  run2_inv _ s _ h_s

theorem execAndOp_inv (o : Op3) (s : State) (h_s : State.Inv s) : OutInv (execAndOp o s) :=
  run2_inv _ s _ h_s

theorem execOrOp_inv (o : Op3) (s : State) (h_s : State.Inv s) : OutInv (execOrOp o s) :=
  run2_inv _ s _ h_s

theorem execXorOp_inv (o : Op3) (s : State) (h_s : State.Inv s) : OutInv (execXorOp o s) :=
  run2_inv _ s _ h_s

theorem execAndn_inv (o : Op3) (s : State) (h_s : State.Inv s) : OutInv (execAndn o s) :=
  run2_inv _ s _ h_s

theorem execShl_inv (o : Op3) (s : State) (h_s : State.Inv s) : OutInv (execShl o s) :=
  run2_inv _ s _ h_s

theorem execShr_inv (o : Op3) (s : State) (h_s : State.Inv s) : OutInv (execShr o s) :=
  run2_inv _ s _ h_s

theorem execAsr_inv (o : Op3) (s : State) (h_s : State.Inv s) : OutInv (execAsr o s) :=
  run2_inv _ s _ h_s

theorem execIminS_inv (o : Op3) (s : State) (h_s : State.Inv s) : OutInv (execIminS o s) :=
  run2_inv _ s _ h_s

theorem execImaxS_inv (o : Op3) (s : State) (h_s : State.Inv s) : OutInv (execImaxS o s) :=
  run2_inv _ s _ h_s

theorem execIminN_inv (o : Op3) (s : State) (h_s : State.Inv s) : OutInv (execIminN o s) :=
  run2_inv _ s _ h_s

theorem execImaxN_inv (o : Op3) (s : State) (h_s : State.Inv s) : OutInv (execImaxN o s) :=
  run2_inv _ s _ h_s

theorem execMov_inv (o : Op2) (s : State) (h_s : State.Inv s) : OutInv (execMov o s) :=
  run1_inv _ s _ h_s

theorem execNotOp_inv (o : Op2) (s : State) (h_s : State.Inv s) : OutInv (execNotOp o s) :=
  run1_inv _ s _ h_s

theorem execNegOp_inv (o : Op2) (s : State) (h_s : State.Inv s) : OutInv (execNegOp o s) :=
  run1_inv _ s _ h_s

theorem execAbsOp_inv (o : Op2) (s : State) (h_s : State.Inv s) : OutInv (execAbsOp o s) :=
  run1_inv _ s _ h_s

theorem execPopc_inv (o : Op2) (s : State) (h_s : State.Inv s) : OutInv (execPopc o s) :=
  run1_inv _ s _ h_s

theorem execClz_inv (o : Op2) (s : State) (h_s : State.Inv s) : OutInv (execClz o s) :=
  run1_inv _ s _ h_s

theorem execCtz_inv (o : Op2) (s : State) (h_s : State.Inv s) : OutInv (execCtz o s) :=
  run1_inv _ s _ h_s

theorem execBrev_inv (o : Op2) (s : State) (h_s : State.Inv s) : OutInv (execBrev o s) :=
  run1_inv _ s _ h_s

theorem execBswap_inv (o : Op2) (s : State) (h_s : State.Inv s) : OutInv (execBswap o s) :=
  run1_inv _ s _ h_s

theorem execSx8_inv (o : Op2) (s : State) (h_s : State.Inv s) : OutInv (execSx8 o s) :=
  run1_inv _ s _ h_s

theorem execSx16_inv (o : Op2) (s : State) (h_s : State.Inv s) : OutInv (execSx16 o s) :=
  run1_inv _ s _ h_s

theorem execSx32_inv (o : Op2) (s : State) (h_s : State.Inv s) : OutInv (execSx32 o s) :=
  run1_inv _ s _ h_s

theorem execZx8_inv (o : Op2) (s : State) (h_s : State.Inv s) : OutInv (execZx8 o s) :=
  run1_inv _ s _ h_s

theorem execZx16_inv (o : Op2) (s : State) (h_s : State.Inv s) : OutInv (execZx16 o s) :=
  run1_inv _ s _ h_s

theorem execZx32_inv (o : Op2) (s : State) (h_s : State.Inv s) : OutInv (execZx32 o s) :=
  run1_inv _ s _ h_s

theorem execMovs_inv (o : MovsOp) (s : State) (h_s : State.Inv s) : OutInv (execMovs o s) := by
  unfold execMovs; try intros
  repeat' first
    | with_reducible assumption
    | (with_reducible refine foldl_inv ?_ _ _ ?_ <;> intros)
    | with_reducible apply OutInv_next
    | with_reducible apply OutInv_fault
    | with_reducible apply resultBody_inv
    | with_reducible apply run_inv
    | with_reducible apply Res.seq_inv
    | with_reducible apply Res.seqR_inv
    | with_reducible apply Res.hold_inv
    | with_reducible apply Res.park_inv
    | with_reducible apply Res.trap_inv
    | with_reducible apply Res.jump_inv
    | split
    | (intro _)
    | dsimp only
    | grind [State.mk_inv, State.Inv.mem, State.Inv.threads, State.Inv.units, State.Inv.hub, Hub.mk_inv, HubInv.launches, TUnit.mk_inv, TUnit.Inv.scr, TUnit.Inv.obuf, TUnit.Inv.gangs, Launch.mk_inv, Launch.Inv.desc, OutInv_next, OutInv_fault, resultBody_inv, run_inv, Res.seq_inv, Res.seqR_inv, Res.hold_inv, Res.park_inv, Res.trap_inv, Res.jump_inv, ResInv.seq, ResInv.seqR, ResInv.hold, ResInv.park, ResInv.trap, ResInv.jump]

theorem execUrd_inv (o : Op2) (s : State) (h_s : State.Inv s) : OutInv (execUrd o s) := by
  unfold execUrd; try intros
  repeat' first
    | with_reducible assumption
    | (with_reducible refine foldl_inv ?_ _ _ ?_ <;> intros)
    | with_reducible apply OutInv_next
    | with_reducible apply OutInv_fault
    | with_reducible apply State.restorePorts_inv
    | with_reducible apply resultBody_inv
    | with_reducible apply run_inv
    | with_reducible apply Res.seq_inv
    | with_reducible apply Res.seqR_inv
    | with_reducible apply Res.hold_inv
    | with_reducible apply Res.park_inv
    | with_reducible apply Res.trap_inv
    | with_reducible apply Res.jump_inv
    | split
    | (intro _)
    | dsimp only
    | grind [State.mk_inv, State.Inv.mem, State.Inv.threads, State.Inv.units, State.Inv.hub, Hub.mk_inv, HubInv.launches, TUnit.mk_inv, TUnit.Inv.scr, TUnit.Inv.obuf, TUnit.Inv.gangs, Launch.mk_inv, Launch.Inv.desc, OutInv_next, OutInv_fault, State.restorePorts_inv, State.unit?_inv, resultBody_inv, run_inv, Res.seq_inv, Res.seqR_inv, Res.hold_inv, Res.park_inv, Res.trap_inv, Res.jump_inv, ResInv.seq, ResInv.seqR, ResInv.hold, ResInv.park, ResInv.trap, ResInv.jump]

theorem execUwr_inv (o : OpX) (s : State) (h_s : State.Inv s) : OutInv (execUwr o s) := by
  unfold execUwr; try intros
  repeat' first
    | with_reducible assumption
    | (with_reducible refine foldl_inv ?_ _ _ ?_ <;> intros)
    | with_reducible apply OutInv_next
    | with_reducible apply OutInv_fault
    | with_reducible apply State.modUnit_inv
    | with_reducible apply TUnit.gang_inv
    | with_reducible apply run_inv
    | with_reducible apply Gang.empty_inv
    | with_reducible apply TUnit.gang_inv
    | with_reducible apply Res.seq_inv
    | with_reducible apply Res.seqR_inv
    | with_reducible apply Res.hold_inv
    | with_reducible apply Res.park_inv
    | with_reducible apply Res.trap_inv
    | with_reducible apply Res.jump_inv
    | split
    | (intro _)
    | dsimp only
    | grind [State.mk_inv, State.Inv.mem, State.Inv.threads, State.Inv.units, State.Inv.hub, Hub.mk_inv, HubInv.launches, TUnit.mk_inv, TUnit.Inv.scr, TUnit.Inv.obuf, TUnit.Inv.gangs, Launch.mk_inv, Launch.Inv.desc, OutInv_next, OutInv_fault, State.modUnit_inv, TUnit.gang_inv, run_inv, Gang.mk_inv, Gang.Inv.priv, Gang.empty_inv, AMap.All.get?, Res.seq_inv, Res.seqR_inv, Res.hold_inv, Res.park_inv, Res.trap_inv, Res.jump_inv, ResInv.seq, ResInv.seqR, ResInv.hold, ResInv.park, ResInv.trap, ResInv.jump]

theorem execIcmpS_inv (o : ICmp) (s : State) (h_s : State.Inv s) : OutInv (execIcmpS o s) :=
  runCompare_inv _ _ s _ h_s

theorem execIcmpN_inv (o : ICmp) (s : State) (h_s : State.Inv s) : OutInv (execIcmpN o s) :=
  runCompare_inv _ _ s _ h_s

theorem execSel_inv (o : Op3) (s : State) (h_s : State.Inv s) : OutInv (execSel o s) := by
  unfold execSel; try intros
  repeat' first
    | with_reducible assumption
    | (with_reducible refine foldl_inv ?_ _ _ ?_ <;> intros)
    | with_reducible apply OutInv_next
    | with_reducible apply OutInv_fault
    | with_reducible apply resultBody_inv
    | with_reducible apply run_inv
    | with_reducible apply Res.seq_inv
    | with_reducible apply Res.seqR_inv
    | with_reducible apply Res.hold_inv
    | with_reducible apply Res.park_inv
    | with_reducible apply Res.trap_inv
    | with_reducible apply Res.jump_inv
    | split
    | (intro _)
    | dsimp only
    | grind [State.mk_inv, State.Inv.mem, State.Inv.threads, State.Inv.units, State.Inv.hub, Hub.mk_inv, HubInv.launches, TUnit.mk_inv, TUnit.Inv.scr, TUnit.Inv.obuf, TUnit.Inv.gangs, Launch.mk_inv, Launch.Inv.desc, OutInv_next, OutInv_fault, resultBody_inv, run_inv, Res.seq_inv, Res.seqR_inv, Res.hold_inv, Res.park_inv, Res.trap_inv, Res.jump_inv, ResInv.seq, ResInv.seqR, ResInv.hold, ResInv.park, ResInv.trap, ResInv.jump]

theorem execMovCompact_inv (o : C16) (s : State) (h_s : State.Inv s) : OutInv (execMovCompact o s) :=
  run1_inv _ s _ h_s

theorem execIaddCompact_inv (o : C16) (s : State) (h_s : State.Inv s) : OutInv (execIaddCompact o s) :=
  run2_inv _ s _ h_s

theorem execIsubCompact_inv (o : C16) (s : State) (h_s : State.Inv s) : OutInv (execIsubCompact o s) :=
  run2_inv _ s _ h_s

theorem execIadd32Compact_inv (o : C16) (s : State) (h_s : State.Inv s) : OutInv (execIadd32Compact o s) :=
  run2_inv _ s _ h_s

theorem execAndCompact_inv (o : C16) (s : State) (h_s : State.Inv s) : OutInv (execAndCompact o s) :=
  run2_inv _ s _ h_s

theorem execOrCompact_inv (o : C16) (s : State) (h_s : State.Inv s) : OutInv (execOrCompact o s) :=
  run2_inv _ s _ h_s

theorem execXorCompact_inv (o : C16) (s : State) (h_s : State.Inv s) : OutInv (execXorCompact o s) :=
  run2_inv _ s _ h_s

theorem execIaddi_inv (o : C16I) (s : State) (h_s : State.Inv s) : OutInv (execIaddi o s) :=
  run1_inv _ s _ h_s

theorem execShli_inv (o : C16I) (s : State) (h_s : State.Inv s) : OutInv (execShli o s) :=
  run1_inv _ s _ h_s

theorem execShri_inv (o : C16I) (s : State) (h_s : State.Inv s) : OutInv (execShri o s) :=
  run1_inv _ s _ h_s

end Sys2Proof.Machine
end

