-- ==== Sys2Proof/Laws/KeptDebug.lean ====
section
/-! SUPPORT. That every operation of Machine/Debug.lean keeps the invariant State.Inv. -/

namespace Sys2Proof.Machine

theorem State.setDbg_inv (s : State) (x : Target) (d : UnitDbg) (h_s : State.Inv s) : State.Inv (State.setDbg s x d) := by
  unfold State.setDbg; grind [State.mk_inv, State.Inv.mem, State.Inv.threads, State.Inv.units, State.Inv.hub, Hub.mk_inv, HubInv.launches, TUnit.mk_inv, TUnit.Inv.scr, TUnit.Inv.obuf, TUnit.Inv.gangs, Launch.mk_inv, Launch.Inv.desc, OutInv_next, OutInv_fault, State.modLaunch_inv, State.modUnit_inv, AMap.All.set]

theorem State.dbgApply_inv (s : State) (op : DbgOp) (x : Target) (arg : Nat) (h_s : State.Inv s) : State.Inv ((State.dbgApply s op x arg)).2 := by
  unfold State.dbgApply; grind [State.mk_inv, State.Inv.mem, State.Inv.threads, State.Inv.units, State.Inv.hub, Hub.mk_inv, HubInv.launches, TUnit.mk_inv, TUnit.Inv.scr, TUnit.Inv.obuf, TUnit.Inv.gangs, Launch.mk_inv, Launch.Inv.desc, OutInv_next, OutInv_fault, State.modThreadsOf_inv, State.modUnit_inv, State.setDbg_inv, TUnit.gang_inv, TUnit.modGang_inv, Thread.mk_inv, Thread.Inv.pc, Thread.Inv.rpc, Thread.Inv.loops, Thread.Inv.shadowLoops, Thread.Inv.cd, Thread.Inv.hd, Thread.Inv.shadowCd, Thread.Inv.shadowHd, loopsOk_nil, Thread.pw_inv, evenAddr_add, evenAddr_ofN, evenAddr_two, evenAddr_four, Gang.mk_inv, Gang.Inv.priv, Gang.empty_inv, AMap.All.get?, AMap.All.map]

theorem State.outRuns_inv (s : State) (tk : Nat) (t : Thread) (h_s : State.Inv s) : ∀ x0 x1 x2, State.Inv (((State.outRuns s tk t) x0 x1 x2)).2 := by
  intro x0 x1 x2
  fun_induction State.outRuns s tk t x0 x1 x2 <;> grind [State.mk_inv, State.Inv.mem, State.Inv.threads, State.Inv.units, State.Inv.hub, Hub.mk_inv, HubInv.launches, TUnit.mk_inv, TUnit.Inv.scr, TUnit.Inv.obuf, TUnit.Inv.gangs, Launch.mk_inv, Launch.Inv.desc, OutInv_next, OutInv_fault, State.access_inv, State.logThread_inv, Thread.mk_inv, Thread.Inv.pc, Thread.Inv.rpc, Thread.Inv.loops, Thread.Inv.shadowLoops, Thread.Inv.cd, Thread.Inv.hd, Thread.Inv.shadowCd, Thread.Inv.shadowHd, loopsOk_nil, Thread.pw_inv, evenAddr_add, evenAddr_ofN, evenAddr_two, evenAddr_four, Res.seq_inv, Res.seqR_inv, Res.hold_inv, Res.park_inv, Res.trap_inv, Res.jump_inv, ResInv.seq, ResInv.seqR, ResInv.hold, ResInv.park, ResInv.trap, ResInv.jump]

theorem State.outWrites_inv (s : State) (tk : Nat) (t : Thread) (va : Word) (h_s : State.Inv s) : ∀ x0 x1, State.Inv ((State.outWrites s tk t va) x0 x1) := by
  intro x0 x1
  fun_induction State.outWrites s tk t va x0 x1 <;> grind [State.mk_inv, State.Inv.mem, State.Inv.threads, State.Inv.units, State.Inv.hub, Hub.mk_inv, HubInv.launches, TUnit.mk_inv, TUnit.Inv.scr, TUnit.Inv.obuf, TUnit.Inv.gangs, Launch.mk_inv, Launch.Inv.desc, OutInv_next, OutInv_fault, State.homeWrite_inv]

theorem dbgBody_inv (op : DbgOp)  : ∀ tk t vals s, Thread.Inv t → State.Inv s → ResInv ((dbgBody op) tk t vals s) := by
  unfold dbgBody; grind [State.mk_inv, State.Inv.mem, State.Inv.threads, State.Inv.units, State.Inv.hub, Hub.mk_inv, HubInv.launches, TUnit.mk_inv, TUnit.Inv.scr, TUnit.Inv.obuf, TUnit.Inv.gangs, Launch.mk_inv, Launch.Inv.desc, OutInv_next, OutInv_fault, State.acquire_inv, State.dbgApply_inv, State.forgetAs_inv, State.launchOf_inv, State.modThread_inv, State.outRuns_inv, State.outWrites_inv, State.refresh_inv, State.restorePorts_inv, State.settle_inv, Thread.dropPrefetched_inv, parkFault_inv, readCard_inv, Thread.mk_inv, Thread.Inv.pc, Thread.Inv.rpc, Thread.Inv.loops, Thread.Inv.shadowLoops, Thread.Inv.cd, Thread.Inv.hd, Thread.Inv.shadowCd, Thread.Inv.shadowHd, loopsOk_nil, Thread.pw_inv, evenAddr_add, evenAddr_ofN, evenAddr_two, evenAddr_four, Store.forget_wf, AMap.All.map, foldl_inv, Res.seq_inv, Res.seqR_inv, Res.hold_inv, Res.park_inv, Res.trap_inv, Res.jump_inv, ResInv.seq, ResInv.seqR, ResInv.hold, ResInv.park, ResInv.trap, ResInv.jump, Fetch.ok_inv, Fetch.trap_inv, Fetch.fault_inv, FetchInv.ok, FetchInv.trap, FetchInv.fault, FetchWord.ok_inv, FetchWord.trap_inv, FetchWord.fault_inv, FetchWordInv.ok, FetchWordInv.trap, FetchWordInv.fault, Issue.run_inv, Issue.done_inv, IssueInv.run, IssueInv.done]

theorem execDbgHalt_inv (o : OpA) (s : State) (h_s : State.Inv s) : OutInv (execDbgHalt o s) :=
  run_inv _ s _ _ h_s (dbgBody_inv _) (fun _ _ _ _ h => h)

theorem execDbgResume_inv (o : OpA) (s : State) (h_s : State.Inv s) : OutInv (execDbgResume o s) :=
  run_inv _ s _ _ h_s (dbgBody_inv _) (fun _ _ _ _ h => h)

theorem execDbgStep_inv (o : OpA) (s : State) (h_s : State.Inv s) : OutInv (execDbgStep o s) :=
  run_inv _ s _ _ h_s (dbgBody_inv _) (fun _ _ _ _ h => h)

theorem execDbgSetmask_inv (o : OpA) (s : State) (h_s : State.Inv s) : OutInv (execDbgSetmask o s) :=
  run_inv _ s _ _ h_s (dbgBody_inv _) (fun _ _ _ _ h => h)

theorem execDbgWset_inv (o : OpA) (s : State) (h_s : State.Inv s) : OutInv (execDbgWset o s) :=
  run_inv _ s _ _ h_s (dbgBody_inv _) (fun _ _ _ _ h => h)

theorem execDbgWclr_inv (o : OpA) (s : State) (h_s : State.Inv s) : OutInv (execDbgWclr o s) :=
  run_inv _ s _ _ h_s (dbgBody_inv _) (fun _ _ _ _ h => h)

theorem execDbgStatus_inv (o : OpA) (s : State) (h_s : State.Inv s) : OutInv (execDbgStatus o s) :=
  run_inv _ s _ _ h_s (dbgBody_inv _) (fun _ _ _ _ h => h)

theorem execDbgReadreg_inv (o : OpA) (s : State) (h_s : State.Inv s) : OutInv (execDbgReadreg o s) :=
  run_inv _ s _ _ h_s (dbgBody_inv _) (fun _ _ _ _ h => h)

theorem execDbgBpset_inv (o : OpA) (s : State) (h_s : State.Inv s) : OutInv (execDbgBpset o s) :=
  run_inv _ s _ _ h_s (dbgBody_inv _) (fun _ _ _ _ h => h)

theorem execDbgBpclr_inv (o : OpA) (s : State) (h_s : State.Inv s) : OutInv (execDbgBpclr o s) :=
  run_inv _ s _ _ h_s (dbgBody_inv _) (fun _ _ _ _ h => h)

end Sys2Proof.Machine
end

