-- ==== Sys2Proof/Laws/KeptFloating.lean ====
section
/-! SUPPORT. That every operation of Machine/Floating.lean keeps the invariant State.Inv. -/

namespace Sys2Proof.Machine

theorem execFadd_inv (o : Op3) (s : State) (h_s : State.Inv s) : OutInv (execFadd o s) :=
  run2_inv _ s _ h_s

theorem execFsub_inv (o : Op3) (s : State) (h_s : State.Inv s) : OutInv (execFsub o s) :=
  run2_inv _ s _ h_s

theorem execFmul_inv (o : Op3) (s : State) (h_s : State.Inv s) : OutInv (execFmul o s) :=
  run2_inv _ s _ h_s

theorem execFfma_inv (o : Op3) (s : State) (h_s : State.Inv s) : OutInv (execFfma o s) :=
  run3_inv _ s _ h_s

theorem execFmin_inv (o : Op3) (s : State) (h_s : State.Inv s) : OutInv (execFmin o s) :=
  run2_inv _ s _ h_s

theorem execFmax_inv (o : Op3) (s : State) (h_s : State.Inv s) : OutInv (execFmax o s) :=
  run2_inv _ s _ h_s

theorem execDadd_inv (o : Op3) (s : State) (h_s : State.Inv s) : OutInv (execDadd o s) :=
  run2_inv _ s _ h_s

theorem execDsub_inv (o : Op3) (s : State) (h_s : State.Inv s) : OutInv (execDsub o s) :=
  run2_inv _ s _ h_s

theorem execDmul_inv (o : Op3) (s : State) (h_s : State.Inv s) : OutInv (execDmul o s) :=
  run2_inv _ s _ h_s

theorem execDfma_inv (o : Op3) (s : State) (h_s : State.Inv s) : OutInv (execDfma o s) :=
  run3_inv _ s _ h_s

theorem execDmin_inv (o : Op3) (s : State) (h_s : State.Inv s) : OutInv (execDmin o s) :=
  run2_inv _ s _ h_s

theorem execDmax_inv (o : Op3) (s : State) (h_s : State.Inv s) : OutInv (execDmax o s) :=
  run2_inv _ s _ h_s

theorem execHadd_inv (o : Op3) (s : State) (h_s : State.Inv s) : OutInv (execHadd o s) :=
  run2_inv _ s _ h_s

theorem execHmul_inv (o : Op3) (s : State) (h_s : State.Inv s) : OutInv (execHmul o s) :=
  run2_inv _ s _ h_s

theorem execHfma_inv (o : Op3) (s : State) (h_s : State.Inv s) : OutInv (execHfma o s) :=
  run3_inv _ s _ h_s

theorem execBadd_inv (o : Op3) (s : State) (h_s : State.Inv s) : OutInv (execBadd o s) :=
  run2_inv _ s _ h_s

theorem execBmul_inv (o : Op3) (s : State) (h_s : State.Inv s) : OutInv (execBmul o s) :=
  run2_inv _ s _ h_s

theorem execBfma_inv (o : Op3) (s : State) (h_s : State.Inv s) : OutInv (execBfma o s) :=
  run3_inv _ s _ h_s

theorem execFcmp_inv (o : FCmp) (s : State) (h_s : State.Inv s) : OutInv (execFcmp o s) :=
  runCompare_inv _ _ s _ h_s

theorem execDcmp_inv (o : FCmp) (s : State) (h_s : State.Inv s) : OutInv (execDcmp o s) :=
  runCompare_inv _ _ s _ h_s

theorem execFneg_inv (o : Op2) (s : State) (h_s : State.Inv s) : OutInv (execFneg o s) :=
  run1_inv _ s _ h_s

theorem execFabs_inv (o : Op2) (s : State) (h_s : State.Inv s) : OutInv (execFabs o s) :=
  run1_inv _ s _ h_s

theorem execDneg_inv (o : Op2) (s : State) (h_s : State.Inv s) : OutInv (execDneg o s) :=
  run1_inv _ s _ h_s

theorem execDabs_inv (o : Op2) (s : State) (h_s : State.Inv s) : OutInv (execDabs o s) :=
  run1_inv _ s _ h_s

theorem execFrcp_inv (o : Op2) (s : State) (h_s : State.Inv s) : OutInv (execFrcp o s) :=
  run1_inv _ s _ h_s

theorem execFrsq_inv (o : Op2) (s : State) (h_s : State.Inv s) : OutInv (execFrsq o s) :=
  run1_inv _ s _ h_s

theorem execFsqrt_inv (o : Op2) (s : State) (h_s : State.Inv s) : OutInv (execFsqrt o s) :=
  run1_inv _ s _ h_s

theorem execFex2_inv (o : Op2) (s : State) (h_s : State.Inv s) : OutInv (execFex2 o s) :=
  run1_inv _ s _ h_s

theorem execFlg2_inv (o : Op2) (s : State) (h_s : State.Inv s) : OutInv (execFlg2 o s) :=
  run1_inv _ s _ h_s

theorem execDrcp_inv (o : Op2) (s : State) (h_s : State.Inv s) : OutInv (execDrcp o s) :=
  run1_inv _ s _ h_s

theorem execDsqrt_inv (o : Op2) (s : State) (h_s : State.Inv s) : OutInv (execDsqrt o s) :=
  run1_inv _ s _ h_s

theorem execDrsq_inv (o : Op2) (s : State) (h_s : State.Inv s) : OutInv (execDrsq o s) :=
  run1_inv _ s _ h_s

theorem execFscale_inv (o : Op2) (s : State) (h_s : State.Inv s) : OutInv (execFscale o s) :=
  run2_inv _ s _ h_s

theorem execDscale_inv (o : Op2) (s : State) (h_s : State.Inv s) : OutInv (execDscale o s) :=
  run2_inv _ s _ h_s

theorem execFxpn_inv (o : Op2) (s : State) (h_s : State.Inv s) : OutInv (execFxpn o s) :=
  run1_inv _ s _ h_s

theorem execDxpn_inv (o : Op2) (s : State) (h_s : State.Inv s) : OutInv (execDxpn o s) :=
  run1_inv _ s _ h_s

theorem execEx2s_inv (o : Op2) (s : State) (h_s : State.Inv s) : OutInv (execEx2s o s) := by
  unfold execEx2s; try intros
  repeat' first
    | with_reducible assumption
    | (with_reducible refine foldl_inv ?_ _ _ ?_ <;> intros)
    | with_reducible apply OutInv_next
    | with_reducible apply OutInv_fault
    | with_reducible apply State.modThread_inv
    | with_reducible apply Thread.mark__inv
    | with_reducible apply Thread.setReg_inv
    | with_reducible apply Thread.shift_inv
    | with_reducible apply run_inv
    | with_reducible apply Thread.pw_inv
    | with_reducible apply Res.seq_inv
    | with_reducible apply Res.seqR_inv
    | with_reducible apply Res.hold_inv
    | with_reducible apply Res.park_inv
    | with_reducible apply Res.trap_inv
    | with_reducible apply Res.jump_inv
    | split
    | (intro _)
    | dsimp only
    | grind [State.mk_inv, State.Inv.mem, State.Inv.threads, State.Inv.units, State.Inv.hub, Hub.mk_inv, HubInv.launches, TUnit.mk_inv, TUnit.Inv.scr, TUnit.Inv.obuf, TUnit.Inv.gangs, Launch.mk_inv, Launch.Inv.desc, OutInv_next, OutInv_fault, State.modThread_inv, Thread.mark__inv, Thread.setReg_inv, Thread.shift_inv, run_inv, Thread.mk_inv, Thread.Inv.pc, Thread.Inv.rpc, Thread.Inv.loops, Thread.Inv.shadowLoops, Thread.Inv.cd, Thread.Inv.hd, Thread.Inv.shadowCd, Thread.Inv.shadowHd, loopsOk_nil, Thread.pw_inv, evenAddr_add, evenAddr_ofN, evenAddr_two, evenAddr_four, Res.seq_inv, Res.seqR_inv, Res.hold_inv, Res.park_inv, Res.trap_inv, Res.jump_inv, ResInv.seq, ResInv.seqR, ResInv.hold, ResInv.park, ResInv.trap, ResInv.jump]

theorem execFrintRn_inv (o : Op2) (s : State) (h_s : State.Inv s) : OutInv (execFrintRn o s) :=
  run1_inv _ s _ h_s

theorem execFrintRz_inv (o : Op2) (s : State) (h_s : State.Inv s) : OutInv (execFrintRz o s) :=
  run1_inv _ s _ h_s

theorem execFrintRm_inv (o : Op2) (s : State) (h_s : State.Inv s) : OutInv (execFrintRm o s) :=
  run1_inv _ s _ h_s

theorem execFrintRp_inv (o : Op2) (s : State) (h_s : State.Inv s) : OutInv (execFrintRp o s) :=
  run1_inv _ s _ h_s

theorem execDrintRn_inv (o : Op2) (s : State) (h_s : State.Inv s) : OutInv (execDrintRn o s) :=
  run1_inv _ s _ h_s

theorem execDrintRz_inv (o : Op2) (s : State) (h_s : State.Inv s) : OutInv (execDrintRz o s) :=
  run1_inv _ s _ h_s

theorem execDrintRm_inv (o : Op2) (s : State) (h_s : State.Inv s) : OutInv (execDrintRm o s) :=
  run1_inv _ s _ h_s

theorem execDrintRp_inv (o : Op2) (s : State) (h_s : State.Inv s) : OutInv (execDrintRp o s) :=
  run1_inv _ s _ h_s

theorem execCvtF64F32_inv (o : Op2) (s : State) (h_s : State.Inv s) : OutInv (execCvtF64F32 o s) :=
  run1_inv _ s _ h_s

theorem execCvtF32F64_inv (o : Op2) (s : State) (h_s : State.Inv s) : OutInv (execCvtF32F64 o s) :=
  run1_inv _ s _ h_s

theorem execCvtF16F32_inv (o : Op2) (s : State) (h_s : State.Inv s) : OutInv (execCvtF16F32 o s) :=
  run1_inv _ s _ h_s

theorem execCvtBf16F32_inv (o : Op2) (s : State) (h_s : State.Inv s) : OutInv (execCvtBf16F32 o s) :=
  run1_inv _ s _ h_s

theorem execCvtF32F16_inv (o : Op2) (s : State) (h_s : State.Inv s) : OutInv (execCvtF32F16 o s) :=
  run1_inv _ s _ h_s

theorem execCvtF32Bf16_inv (o : Op2) (s : State) (h_s : State.Inv s) : OutInv (execCvtF32Bf16 o s) :=
  run1_inv _ s _ h_s

theorem execCvtF32S64_inv (o : Op2) (s : State) (h_s : State.Inv s) : OutInv (execCvtF32S64 o s) :=
  run1_inv _ s _ h_s

theorem execCvtF32N64_inv (o : Op2) (s : State) (h_s : State.Inv s) : OutInv (execCvtF32N64 o s) :=
  run1_inv _ s _ h_s

theorem execCvtF64S64_inv (o : Op2) (s : State) (h_s : State.Inv s) : OutInv (execCvtF64S64 o s) :=
  run1_inv _ s _ h_s

theorem execCvtF64N64_inv (o : Op2) (s : State) (h_s : State.Inv s) : OutInv (execCvtF64N64 o s) :=
  run1_inv _ s _ h_s

theorem execCvtS32F32_inv (o : Op2) (s : State) (h_s : State.Inv s) : OutInv (execCvtS32F32 o s) :=
  run1_inv _ s _ h_s

theorem execCvtN32F32_inv (o : Op2) (s : State) (h_s : State.Inv s) : OutInv (execCvtN32F32 o s) :=
  run1_inv _ s _ h_s

theorem execCvtS64F32_inv (o : Op2) (s : State) (h_s : State.Inv s) : OutInv (execCvtS64F32 o s) :=
  run1_inv _ s _ h_s

theorem execCvtN64F32_inv (o : Op2) (s : State) (h_s : State.Inv s) : OutInv (execCvtN64F32 o s) :=
  run1_inv _ s _ h_s

theorem execCvtS32F64_inv (o : Op2) (s : State) (h_s : State.Inv s) : OutInv (execCvtS32F64 o s) :=
  run1_inv _ s _ h_s

theorem execCvtN32F64_inv (o : Op2) (s : State) (h_s : State.Inv s) : OutInv (execCvtN32F64 o s) :=
  run1_inv _ s _ h_s

theorem execCvtS64F64_inv (o : Op2) (s : State) (h_s : State.Inv s) : OutInv (execCvtS64F64 o s) :=
  run1_inv _ s _ h_s

theorem execCvtN64F64_inv (o : Op2) (s : State) (h_s : State.Inv s) : OutInv (execCvtN64F64 o s) :=
  run1_inv _ s _ h_s

theorem execFaddCompact_inv (o : C16) (s : State) (h_s : State.Inv s) : OutInv (execFaddCompact o s) :=
  run2_inv _ s _ h_s

theorem execFsubCompact_inv (o : C16) (s : State) (h_s : State.Inv s) : OutInv (execFsubCompact o s) :=
  run2_inv _ s _ h_s

theorem execFmulCompact_inv (o : C16) (s : State) (h_s : State.Inv s) : OutInv (execFmulCompact o s) :=
  run2_inv _ s _ h_s

theorem execFmaxCompact_inv (o : C16) (s : State) (h_s : State.Inv s) : OutInv (execFmaxCompact o s) :=
  run2_inv _ s _ h_s

theorem execDaddCompact_inv (o : C16) (s : State) (h_s : State.Inv s) : OutInv (execDaddCompact o s) :=
  run2_inv _ s _ h_s

theorem execDmulCompact_inv (o : C16) (s : State) (h_s : State.Inv s) : OutInv (execDmulCompact o s) :=
  run2_inv _ s _ h_s

end Sys2Proof.Machine
end

