-- ==== Sys2Proof/Laws/KeptLaunching.lean ====
section
/-! SUPPORT. That every operation of Machine/Launching.lean keeps the invariant State.Inv. -/

namespace Sys2Proof.Machine

theorem execLaunch_inv (o : OpX) (s : State) (h_s : State.Inv s) : OutInv (execLaunch o s) := by
  refine run_inv _ _ _ _ h_s (fun tk t vals s _ hs => ?_) (fun _ _ _ _ h => h)
  dsimp only
  split
  · exact hs
  · refine checkDst_inv _ _ _ _ hs fun s hs => readCard_inv _ _ _ _ _ _ hs fun bs s hs => ?_
    split
    · rename_i l j _ _
      split
      · exact hs
      · have h := State.launchReads_inv s (keyThread tk) j bs hs
        split
        · rename_i heq; rw [heq] at h; exact h
        · rename_i r s' _ heq
          rw [heq] at h
          have h := State.seqDone_inv _ (keyThread tk) h
          split
          · rename_i hw
            refine whenPerformed_inv _ _ _ _ _ _ h fun s hs => ?_
            have hp := State.publish_inv s (s.ckOf t.uid) hs
            split
            · exact hp
            · exact State.putDst_inv _ _ _ _ (State.joinGraph_inv _ _ _ _ _ _ _ _ hp (refusalOf_desc hw))
          · exact h
    · exact hs

theorem State.sendCancel_inv (s : State) (c : Option Cancellation) (h_s : State.Inv s) : State.Inv (State.sendCancel s c) := by
  unfold State.sendCancel; grind [State.mk_inv, State.Inv.mem, State.Inv.threads, State.Inv.units, State.Inv.hub, Hub.mk_inv, HubInv.launches, TUnit.mk_inv, TUnit.Inv.scr, TUnit.Inv.obuf, TUnit.Inv.gangs, Launch.mk_inv, Launch.Inv.desc, OutInv_next, OutInv_fault, State.modHub_inv]

theorem execCancel_inv (o : OpI 5) (s : State) (h_s : State.Inv s) : OutInv (execCancel o s) := by
  unfold execCancel; try intros
  repeat' first
    | with_reducible assumption
    | (with_reducible refine foldl_inv ?_ _ _ ?_ <;> intros)
    | with_reducible apply OutInv_next
    | with_reducible apply OutInv_fault
    | with_reducible apply State.sendCancel_inv
    | with_reducible apply run_inv
    | with_reducible apply Res.seq_inv
    | with_reducible apply Res.seqR_inv
    | with_reducible apply Res.hold_inv
    | with_reducible apply Res.park_inv
    | with_reducible apply Res.trap_inv
    | with_reducible apply Res.jump_inv
    | split
    | (intro _)
    | dsimp only
    | grind [State.mk_inv, State.Inv.mem, State.Inv.threads, State.Inv.units, State.Inv.hub, Hub.mk_inv, HubInv.launches, TUnit.mk_inv, TUnit.Inv.scr, TUnit.Inv.obuf, TUnit.Inv.gangs, Launch.mk_inv, Launch.Inv.desc, OutInv_next, OutInv_fault, State.sendCancel_inv, run_inv, Res.seq_inv, Res.seqR_inv, Res.hold_inv, Res.park_inv, Res.trap_inv, Res.jump_inv, ResInv.seq, ResInv.seqR, ResInv.hold, ResInv.park, ResInv.trap, ResInv.jump]

theorem specChecked_inv (t : Thread) (a : Nat) (s : State) (k : Launch → State → Res) (h_s : State.Inv s) (h_k : ∀ x0 x1, Launch.Inv x0 → State.Inv x1 → ResInv (k x0 x1)) : ResInv (specChecked t a s k) := by
  unfold specChecked; grind [State.mk_inv, State.Inv.mem, State.Inv.threads, State.Inv.units, State.Inv.hub, Hub.mk_inv, HubInv.launches, TUnit.mk_inv, TUnit.Inv.scr, TUnit.Inv.obuf, TUnit.Inv.gangs, Launch.mk_inv, Launch.Inv.desc, OutInv_next, OutInv_fault, State.launch?_inv, Res.seq_inv, Res.seqR_inv, Res.hold_inv, Res.park_inv, Res.trap_inv, Res.jump_inv, ResInv.seq, ResInv.seqR, ResInv.hold, ResInv.park, ResInv.trap, ResInv.jump]

theorem specDone_inv (tk : Nat) (t : Thread) (a : Nat) (s : State) (h_s : State.Inv s) : ResInv (specDone tk t a s) := by
  unfold specDone
  dsimp only
  have h := State.completeLaunch_inv _ a (State.publish_inv s (s.ckOf t.uid) h_s)
  split
  · exact h
  · exact State.modThread_inv _ _ _ h (fun t ht => Thread.startAfter_inv t _ ht (evenAddr_add (Thread.pw_inv ht) evenAddr_four))

theorem execSpecCommit_inv (o : OpA) (s : State) (h_s : State.Inv s) : OutInv (execSpecCommit o s) := by
  refine run_inv _ _ _ _ h_s (fun tk t vals s _ hs => specChecked_inv _ _ _ _ hs fun l s _ hs => ?_) (fun _ _ _ _ h => h)
  split
  · split
    · exact specDone_inv _ _ _ _ hs
    · exact hs
  · split
    · exact hs
    · have h := State.commit_inv s (vals.getD 0 0).toNat hs
      split
      · rename_i heq; rw [heq] at h; exact h
      · rename_i heq; rw [heq] at h; exact specDone_inv _ _ _ _ h

theorem execSpecDiscard_inv (o : OpA) (s : State) (h_s : State.Inv s) : OutInv (execSpecDiscard o s) := by
  refine run_inv _ _ _ _ h_s (fun tk t vals s _ hs => specChecked_inv _ _ _ _ hs fun l s _ hs => ?_) (fun _ _ _ _ h => h)
  split
  · split
    · exact specDone_inv _ _ _ _ hs
    · exact hs
  · have h := State.cancelLaunch_inv s (vals.getD 0 0).toNat hs
    exact specDone_inv _ t (vals.getD 0 0).toNat _ h

end Sys2Proof.Machine
end

