-- ==== Sys2Proof/Laws/KeptDispatch.lean ====
section
/-! SUPPORT. That every instruction keeps the invariant State.Inv. -/

namespace Sys2Proof.Machine

theorem exec_inv (i : Instr) (s : State) (hs : State.Inv s) : OutInv (exec i s) := by
  cases i with
  | iadd o => exact execIadd_inv o s hs
  | isub o => exact execIsub_inv o s hs
  | imul o => exact execImul_inv o s hs
  | imac o => exact execImac_inv o s hs
  | iadd32 o => exact execIadd32_inv o s hs
  | isub32 o => exact execIsub32_inv o s hs
  | imul32 o => exact execImul32_inv o s hs
  | imac32 o => exact execImac32_inv o s hs
  | imulhS o => exact execImulhS_inv o s hs
  | imulhN o => exact execImulhN_inv o s hs
  | andOp o => exact execAndOp_inv o s hs
  | orOp o => exact execOrOp_inv o s hs
  | xorOp o => exact execXorOp_inv o s hs
  | andn o => exact execAndn_inv o s hs
  | shl o => exact execShl_inv o s hs
  | shr o => exact execShr_inv o s hs
  | asr o => exact execAsr_inv o s hs
  | loop o => exact execLoop_inv o s hs
  | iminS o => exact execIminS_inv o s hs
  | imaxS o => exact execImaxS_inv o s hs
  | iminN o => exact execIminN_inv o s hs
  | imaxN o => exact execImaxN_inv o s hs
  | fadd o => exact execFadd_inv o s hs
  | fsub o => exact execFsub_inv o s hs
  | fmul o => exact execFmul_inv o s hs
  | ffma o => exact execFfma_inv o s hs
  | fmin o => exact execFmin_inv o s hs
  | fmax o => exact execFmax_inv o s hs
  | dadd o => exact execDadd_inv o s hs
  | dsub o => exact execDsub_inv o s hs
  | dmul o => exact execDmul_inv o s hs
  | dfma o => exact execDfma_inv o s hs
  | dmin o => exact execDmin_inv o s hs
  | dmax o => exact execDmax_inv o s hs
  | hadd o => exact execHadd_inv o s hs
  | hmul o => exact execHmul_inv o s hs
  | hfma o => exact execHfma_inv o s hs
  | badd o => exact execBadd_inv o s hs
  | bmul o => exact execBmul_inv o s hs
  | bfma o => exact execBfma_inv o s hs
  | icmpS o => exact execIcmpS_inv o s hs
  | icmpN o => exact execIcmpN_inv o s hs
  | fcmp o => exact execFcmp_inv o s hs
  | dcmp o => exact execDcmp_inv o s hs
  | sel o => exact execSel_inv o s hs
  | ld8 o => exact execLd8_inv o s hs
  | ld16 o => exact execLd16_inv o s hs
  | ld32 o => exact execLd32_inv o s hs
  | ld64 o => exact execLd64_inv o s hs
  | ld8S o => exact execLd8S_inv o s hs
  | ld16S o => exact execLd16S_inv o s hs
  | ld32S o => exact execLd32S_inv o s hs
  | st8 o => exact execSt8_inv o s hs
  | st16 o => exact execSt16_inv o s hs
  | st32 o => exact execSt32_inv o s hs
  | st64 o => exact execSt64_inv o s hs
  | ldacq o => exact execLdacq_inv o s hs
  | strel o => exact execStrel_inv o s hs
  | atomAdd o => exact execAtomAdd_inv o s hs
  | atomAnd o => exact execAtomAnd_inv o s hs
  | atomOr o => exact execAtomOr_inv o s hs
  | atomXor o => exact execAtomXor_inv o s hs
  | atomMinS o => exact execAtomMinS_inv o s hs
  | atomMaxS o => exact execAtomMaxS_inv o s hs
  | atomMinN o => exact execAtomMinN_inv o s hs
  | atomMaxN o => exact execAtomMaxN_inv o s hs
  | atomXchg o => exact execAtomXchg_inv o s hs
  | atomCas o => exact execAtomCas_inv o s hs
  | atomFadd o => exact execAtomFadd_inv o s hs
  | atomIncw o => exact execAtomIncw_inv o s hs
  | atomCasPromote o => exact execAtomCasPromote_inv o s hs
  | atomHacc o => exact execAtomHacc_inv o s hs
  | br o => exact execBr_inv o s hs
  | call o => exact execCall_inv o s hs
  | imx o => exact execImx_inv o s hs
  | ill => exact execIll_inv s hs
  | illParcel => exact execIllParcel_inv s hs
  | mov o => exact execMov_inv o s hs
  | notOp o => exact execNotOp_inv o s hs
  | negOp o => exact execNegOp_inv o s hs
  | absOp o => exact execAbsOp_inv o s hs
  | popc o => exact execPopc_inv o s hs
  | clz o => exact execClz_inv o s hs
  | ctz o => exact execCtz_inv o s hs
  | brev o => exact execBrev_inv o s hs
  | bswap o => exact execBswap_inv o s hs
  | sx8 o => exact execSx8_inv o s hs
  | sx16 o => exact execSx16_inv o s hs
  | sx32 o => exact execSx32_inv o s hs
  | zx8 o => exact execZx8_inv o s hs
  | zx16 o => exact execZx16_inv o s hs
  | zx32 o => exact execZx32_inv o s hs
  | movs o => exact execMovs_inv o s hs
  | urd o => exact execUrd_inv o s hs
  | uwr o => exact execUwr_inv o s hs
  | fneg o => exact execFneg_inv o s hs
  | fabs o => exact execFabs_inv o s hs
  | dneg o => exact execDneg_inv o s hs
  | dabs o => exact execDabs_inv o s hs
  | frcp o => exact execFrcp_inv o s hs
  | frsq o => exact execFrsq_inv o s hs
  | fsqrt o => exact execFsqrt_inv o s hs
  | fex2 o => exact execFex2_inv o s hs
  | flg2 o => exact execFlg2_inv o s hs
  | drcp o => exact execDrcp_inv o s hs
  | dsqrt o => exact execDsqrt_inv o s hs
  | drsq o => exact execDrsq_inv o s hs
  | fscale o => exact execFscale_inv o s hs
  | dscale o => exact execDscale_inv o s hs
  | fxpn o => exact execFxpn_inv o s hs
  | dxpn o => exact execDxpn_inv o s hs
  | ex2s o => exact execEx2s_inv o s hs
  | frintRn o => exact execFrintRn_inv o s hs
  | frintRz o => exact execFrintRz_inv o s hs
  | frintRm o => exact execFrintRm_inv o s hs
  | frintRp o => exact execFrintRp_inv o s hs
  | drintRn o => exact execDrintRn_inv o s hs
  | drintRz o => exact execDrintRz_inv o s hs
  | drintRm o => exact execDrintRm_inv o s hs
  | drintRp o => exact execDrintRp_inv o s hs
  | cvtF64F32 o => exact execCvtF64F32_inv o s hs
  | cvtF32F64 o => exact execCvtF32F64_inv o s hs
  | cvtF16F32 o => exact execCvtF16F32_inv o s hs
  | cvtBf16F32 o => exact execCvtBf16F32_inv o s hs
  | cvtF32F16 o => exact execCvtF32F16_inv o s hs
  | cvtF32Bf16 o => exact execCvtF32Bf16_inv o s hs
  | cvtF32S64 o => exact execCvtF32S64_inv o s hs
  | cvtF32N64 o => exact execCvtF32N64_inv o s hs
  | cvtF64S64 o => exact execCvtF64S64_inv o s hs
  | cvtF64N64 o => exact execCvtF64N64_inv o s hs
  | cvtS32F32 o => exact execCvtS32F32_inv o s hs
  | cvtN32F32 o => exact execCvtN32F32_inv o s hs
  | cvtS64F32 o => exact execCvtS64F32_inv o s hs
  | cvtN64F32 o => exact execCvtN64F32_inv o s hs
  | cvtS32F64 o => exact execCvtS32F64_inv o s hs
  | cvtN32F64 o => exact execCvtN32F64_inv o s hs
  | cvtS64F64 o => exact execCvtS64F64_inv o s hs
  | cvtN64F64 o => exact execCvtN64F64_inv o s hs
  | elect o => exact execElect_inv o s hs
  | vany o => exact execVany_inv o s hs
  | vall o => exact execVall_inv o s hs
  | vbal o => exact execVbal_inv o s hs
  | shfi o => exact execShfi_inv o s hs
  | shfa o => exact execShfa_inv o s hs
  | shfb o => exact execShfb_inv o s hs
  | shfx o => exact execShfx_inv o s hs
  | radd o => exact execRadd_inv o s hs
  | rminS o => exact execRminS_inv o s hs
  | rmaxS o => exact execRmaxS_inv o s hs
  | rfadd o => exact execRfadd_inv o s hs
  | rdadd o => exact execRdadd_inv o s hs
  | scan o => exact execScan_inv o s hs
  | matchOp o => exact execMatchOp_inv o s hs
  | gpart o => exact execGpart_inv o s hs
  | nop o => exact execNop_inv o s hs
  | exit o => exact execExit_inv o s hs
  | brk o => exact execBrk_inv o s hs
  | trap o => exact execTrap_inv o s hs
  | yield o => exact execYield_inv o s hs
  | rgn o => exact execRgn_inv o s hs
  | bnd o => exact execBnd_inv o s hs
  | fenceGrp o => exact execFenceGrp_inv o s hs
  | fenceCore o => exact execFenceCore_inv o s hs
  | fenceDie o => exact execFenceDie_inv o s hs
  | fenceDev o => exact execFenceDev_inv o s hs
  | fenceSys o => exact execFenceSys_inv o s hs
  | ofence o => exact execOfence_inv o s hs
  | barArr o => exact execBarArr_inv o s hs
  | barWait o => exact execBarWait_inv o s hs
  | barSync o => exact execBarSync_inv o s hs
  | barInit o => exact execBarInit_inv o s hs
  | wait o => exact execWait_inv o s hs
  | cpy o => exact execCpy_inv o s hs
  | gath o => exact execGath_inv o s hs
  | mxl o => exact execMxl_inv o s hs
  | ores o => exact execOres_inv o s hs
  | orls o => exact execOrls_inv o s hs
  | strm o => exact execStrm_inv o s hs
  | jmpi o => exact execJmpi_inv o s hs
  | calli o => exact execCalli_inv o s hs
  | ret o => exact execRet_inv o s hs
  | icinv o => exact execIcinv_inv o s hs
  | launch o => exact execLaunch_inv o s hs
  | cancel o => exact execCancel_inv o s hs
  | specCommit o => exact execSpecCommit_inv o s hs
  | specDiscard o => exact execSpecDiscard_inv o s hs
  | dbgHalt o => exact execDbgHalt_inv o s hs
  | dbgResume o => exact execDbgResume_inv o s hs
  | dbgStep o => exact execDbgStep_inv o s hs
  | dbgSetmask o => exact execDbgSetmask_inv o s hs
  | dbgWset o => exact execDbgWset_inv o s hs
  | dbgWclr o => exact execDbgWclr_inv o s hs
  | dbgStatus o => exact execDbgStatus_inv o s hs
  | dbgReadreg o => exact execDbgReadreg_inv o s hs
  | dbgBpset o => exact execDbgBpset_inv o s hs
  | dbgBpclr o => exact execDbgBpclr_inv o s hs
  | movCompact o => exact execMovCompact_inv o s hs
  | iaddCompact o => exact execIaddCompact_inv o s hs
  | isubCompact o => exact execIsubCompact_inv o s hs
  | iadd32Compact o => exact execIadd32Compact_inv o s hs
  | iaddi o => exact execIaddi_inv o s hs
  | andCompact o => exact execAndCompact_inv o s hs
  | orCompact o => exact execOrCompact_inv o s hs
  | xorCompact o => exact execXorCompact_inv o s hs
  | shli o => exact execShli_inv o s hs
  | shri o => exact execShri_inv o s hs
  | faddCompact o => exact execFaddCompact_inv o s hs
  | fsubCompact o => exact execFsubCompact_inv o s hs
  | fmulCompact o => exact execFmulCompact_inv o s hs
  | fmaxCompact o => exact execFmaxCompact_inv o s hs
  | daddCompact o => exact execDaddCompact_inv o s hs
  | dmulCompact o => exact execDmulCompact_inv o s hs
  | censusRound ck a => exact execCensusRound_inv ck a s hs
  | gangSeat ck a => exact execGangSeat_inv ck a s hs
  | gangUnseat ck a seat => exact execGangUnseat_inv ck a seat s hs
  | quantumDue ck a seat => exact execQuantumDue_inv ck a seat s hs
  | yieldHoldEnd tk => exact execYieldHoldEnd_inv tk s hs
  | deprioritisationEnd tk => exact execDeprioritisationEnd_inv tk s hs
  | prefetchFill tk => exact execPrefetchFill_inv tk s hs
  | parkConditionHolds tk => exact execParkConditionHolds_inv tk s hs
  | loadReply tk idx => exact execLoadReply_inv tk idx s hs
  | storePerform ck idx => exact execStorePerform_inv ck idx s hs
  | collectorSend ck idx => exact execCollectorSend_inv ck idx s hs
  | errorResponse rq cause => exact execErrorResponse_inv rq cause s hs
  | waitRecheck tk => exact execWaitRecheck_inv tk s hs
  | streamPrefetch tk port => exact execStreamPrefetch_inv tk port s hs
  | streamOutDrain tk port => exact execStreamOutDrain_inv tk port s hs
  | engineQueueAccept ck ch => exact execEngineQueueAccept_inv ck ch s hs
  | copyRowTransfer ck op row => exact execCopyRowTransfer_inv ck op row s hs
  | gatherElement ck op el => exact execGatherElement_inv ck op el s hs
  | probePass ck op => exact execProbePass_inv ck op s hs
  | engineOpEnd ck op => exact execEngineOpEnd_inv ck op s hs
  | watchdogTimeout ck op => exact execWatchdogTimeout_inv ck op s hs
  | matrixQueueAccept ck => exact execMatrixQueueAccept_inv ck s hs
  | jobEnterContext ck => exact execJobEnterContext_inv ck s hs
  | blockStep ck => exact execBlockStep_inv ck s hs
  | jobEnd ck job => exact execJobEnd_inv ck job s hs
  | handleReturn uid h => exact execHandleReturn_inv uid h s hs
  | allocationRelease uid => exact execAllocationRelease_inv uid s hs
  | fqReplyResolve token => exact execFqReplyResolve_inv token s hs
  | fqReplyRefuse token => exact execFqReplyRefuse_inv token s hs
  | fqLimitExpiry token => exact execFqLimitExpiry_inv token s hs
  | fqTailWrite v => exact execFqTailWrite_inv v s hs
  | fqBaseWrite v => exact execFqBaseWrite_inv v s hs
  | fqSizeWrite v => exact execFqSizeWrite_inv v s hs
  | xinvStart v => exact execXinvStart_inv v s hs
  | xinvDone => exact execXinvDone_inv s hs
  | sliceSizeChange bdie size => exact execSliceSizeChange_inv bdie size s hs
  | chTailWrite n v => exact execChTailWrite_inv n v s hs
  | chCtlRestart n v => exact execChCtlRestart_inv n v s hs
  | jobEntry n => exact execJobEntry_inv n s hs
  | graphEntry n => exact execGraphEntry_inv n s hs
  | launchEntry n => exact execLaunchEntry_inv n s hs
  | phaseEntry n => exact execPhaseEntry_inv n s hs
  | waitcEntry n => exact execWaitcEntry_inv n s hs
  | endEntry n => exact execEndEntry_inv n s hs
  | specEntryCommit n => exact execSpecEntryCommit_inv n s hs
  | specEntryDiscard n => exact execSpecEntryDiscard_inv n s hs
  | chainEntryRetire n => exact execChainEntryRetire_inv n s hs
  | unitStart lid idx => exact execUnitStart_inv lid idx s hs
  | levelComplete level id => exact execLevelComplete_inv level id s hs
  | preemption uid => exact execPreemption_inv uid s hs
  | resumption uid => exact execResumption_inv uid s hs
  | hostApertureWrite off bytes => exact execHostApertureWrite_inv off bytes s hs
  | hostApertureRead off len => exact execHostApertureRead_inv off len s hs
  | flitReceive port flit => exact execFlitReceive_inv port flit s hs
  | linkAckTimeout port => exact execLinkAckTimeout_inv port s hs
  | linkTrainingDone port lanes peer => exact execLinkTrainingDone_inv port lanes peer s hs
  | linkTakeDown port => exact execLinkTakeDown_inv port s hs
  | linkAllowTrain port => exact execLinkAllowTrain_inv port s hs
  | routeWrite m v => exact execRouteWrite_inv m v s hs
  | epEventClear v => exact execEpEventClear_inv v s hs
  | islandReset v => exact execIslandReset_inv v s hs
  | mgmtResetComputeDie v => exact execMgmtResetComputeDie_inv v s hs
  | mgmtResetBaseDie v => exact execMgmtResetBaseDie_inv v s hs
  | mgmtResetHub v => exact execMgmtResetHub_inv v s hs
  | resetSequenceComplete => exact execResetSequenceComplete_inv s hs
  | dmapWrite v => exact execDmapWrite_inv v s hs
  | dieHeartbeatMiss p => exact execDieHeartbeatMiss_inv p s hs
  | dieInternalError p => exact execDieInternalError_inv p s hs
  | spareSelfTestDone ok => exact execSpareSelfTestDone_inv ok s hs
  | lostUnitRerun uid => exact execLostUnitRerun_inv uid s hs
  | aperBaseWrite v => exact execAperBaseWrite_inv v s hs
  | pwrClWrite n v => exact execPwrClWrite_inv n v s hs
  | ratioChangeComplete n => exact execRatioChangeComplete_inv n s hs
  | powerLimitStep n step => exact execPowerLimitStep_inv n step s hs
  | droopDetect n => exact execDroopDetect_inv n s hs
  | droopRecover n => exact execDroopRecover_inv n s hs
  | holdStart n => exact execHoldStart_inv n s hs
  | holdEnd n => exact execHoldEnd_inv n s hs
  | tmrAlign forward => exact execTmrAlign_inv forward s hs
  | powerOnReset => exact execPowerOnReset_inv s
  | monitorSample n sample => exact execMonitorSample_inv n sample s hs
  | monitorClr n => exact execMonitorClr_inv n s hs
  | errorLogClear ck => exact execErrorLogClear_inv ck s hs
  | managementLogClear => exact execManagementLogClear_inv s hs
  | attest len tag => exact execAttest_inv len tag s hs
  | loadImage len tag => exact execLoadImage_inv len tag s hs
  | readMeas len tag => exact execReadMeas_inv len tag s hs
  | mailboxCompletion => exact execMailboxCompletion_inv s hs
  | bar0BadAccess off => exact execBar0BadAccess_inv off s hs
  | registerWrite off len v => exact execRegisterWrite_inv off len v s hs
  | cancellationTakesEffect idx => exact execCancellationTakesEffect_inv idx s hs
  | sequencerCounterReread idx => exact execSequencerCounterReread_inv idx s hs
  | zeroLengthReadCompletion => exact execZeroLengthReadCompletion_inv s hs
  | bar2Resize size => exact execBar2Resize_inv size s hs
  | unknownCommandCode code tag => exact execUnknownCommandCode_inv code tag s hs

end Sys2Proof.Machine
end

