-- ==== Sys2Proof/Laws/KeptAuto.lean ====
section
/-! SUPPORT. That every operation of Machine/Auto.lean keeps the invariant State.Inv. -/

namespace Sys2Proof.Machine

/-- A step that the device takes of itself is the meaning of its constructor of Instr. -/
theorem OwnStep.run_eq {o : OwnStep} {i : Instr} (h : o.Is i) (s : State) : o.run s = exec i s := by
  cases o <;> cases h <;> rfl
/-- The constructor of Instr of a step that the device takes of itself. -/
theorem OwnStep.is_some (o : OwnStep) : ∃ i, o.Is i := by
  cases o <;> exact ⟨_, rfl⟩

theorem OwnStep.run_inv (i : OwnStep) (s : State) (h_s : State.Inv s) : OutInv (OwnStep.run i s) := by
  unfold OwnStep.run; grind [State.mk_inv, State.Inv.mem, State.Inv.threads, State.Inv.units, State.Inv.hub, Hub.mk_inv, HubInv.launches, TUnit.mk_inv, TUnit.Inv.scr, TUnit.Inv.obuf, TUnit.Inv.gangs, Launch.mk_inv, Launch.Inv.desc, OutInv_next, OutInv_fault, State.jobEnd_inv, execAllocationRelease_inv, execBlockStep_inv, execCancellationTakesEffect_inv, execCensusRound_inv, execChainEntryRetire_inv, execCollectorSend_inv, execCopyRowTransfer_inv, execDeprioritisationEnd_inv, execDroopRecover_inv, execEndEntry_inv, execEngineOpEnd_inv, execEngineQueueAccept_inv, execFqLimitExpiry_inv, execGangSeat_inv, execGangUnseat_inv, execGatherElement_inv, execGraphEntry_inv, execHandleReturn_inv, execHoldEnd_inv, execJobEnd_inv, execJobEnterContext_inv, execJobEntry_inv, execLaunchEntry_inv, execLevelComplete_inv, execLoadReply_inv, execLostUnitRerun_inv, execMailboxCompletion_inv, execMatrixQueueAccept_inv, execParkConditionHolds_inv, execPhaseEntry_inv, execPreemption_inv, execPrefetchFill_inv, execProbePass_inv, execQuantumDue_inv, execRatioChangeComplete_inv, execResetSequenceComplete_inv, execResumption_inv, execSequencerCounterReread_inv, execSliceSizeChange_inv, execSpecEntryCommit_inv, execSpecEntryDiscard_inv, execStorePerform_inv, execStreamOutDrain_inv, execStreamPrefetch_inv, execUnitStart_inv, execWaitRecheck_inv, execWaitcEntry_inv, execWatchdogTimeout_inv, execXinvDone_inv, execYieldHoldEnd_inv, Gang.mk_inv, Gang.Inv.priv, Gang.empty_inv, TUnit.gang_inv, AMap.All.get?, Fetch.ok_inv, Fetch.trap_inv, Fetch.fault_inv, FetchInv.ok, FetchInv.trap, FetchInv.fault, FetchWord.ok_inv, FetchWord.trap_inv, FetchWord.fault_inv, FetchWordInv.ok, FetchWordInv.trap, FetchWordInv.fault]

theorem State.outsideChanges_inv (s : State) (cells : List Host.Cell) (h_s : State.Inv s) : State.Inv (State.outsideChanges s cells) := by
  unfold State.outsideChanges
  refine foldl_inv ?_ _ _ h_s
  intro a c ha
  have h := State.takeSeq_inv a ha
  generalize a.takeSeq = r at h
  exact State.noteWrite_inv _ _ _ _ _ (State.writeAt_inv _ _ _ h _)

theorem State.writeBacks_inv (s : State) (lines : List Nat) (h_s : State.Inv s) : State.Inv (State.writeBacks s lines) := by
  unfold State.writeBacks; grind [State.mk_inv, State.Inv.mem, State.Inv.threads, State.Inv.units, State.Inv.hub, Hub.mk_inv, HubInv.launches, TUnit.mk_inv, TUnit.Inv.scr, TUnit.Inv.obuf, TUnit.Inv.gangs, Launch.mk_inv, Launch.Inv.desc, OutInv_next, OutInv_fault, AMap.All.del, foldl_inv]

theorem State.meanwhile_inv (s : State) (dt : Nat) (out : List Host.Cell) (back : List Nat) (h_s : State.Inv s) : State.Inv (State.meanwhile s dt out back) := by
  unfold State.meanwhile; grind [State.mk_inv, State.Inv.mem, State.Inv.threads, State.Inv.units, State.Inv.hub, Hub.mk_inv, HubInv.launches, TUnit.mk_inv, TUnit.Inv.scr, TUnit.Inv.obuf, TUnit.Inv.gangs, Launch.mk_inv, Launch.Inv.desc, OutInv_next, OutInv_fault, State.outsideChanges_inv, State.writeBacks_inv, Gang.mk_inv, Gang.Inv.priv, Gang.empty_inv, TUnit.gang_inv, AMap.All.get?]

theorem State.advance_inv (s : State) (h_s : State.Inv s) : OutInv (State.advance s) := by
  unfold State.advance
  split
  · rename_i t rest _
    have h1 := State.meanwhile_inv { s with sched := rest } t.dt t.out t.back (State.congr_inv h_s rfl rfl rfl rfl)
    dsimp only
    split
    · exact exec_inv _ _ h1
    · exact OutInv_next h1
  · have h1 := State.meanwhile_inv { s with turn := s.turn + 1 } (Config.elapse s.turn) (Config.outside s.turn)
      ((s.far.map (·.1)).filter (Config.writeBack s.turn)) (State.congr_inv h_s rfl rfl rfl rfl)
    dsimp only
    split
    · exact OutInv_next h1
    · exact OwnStep.run_inv _ _ h1

end Sys2Proof.Machine
end

