-- ==== Sys2Proof/Laws/Places.lean ====
section
/-! SUPPORT. What writes at a place change and what they leave. -/

namespace Sys2Proof.Machine

/-- A byte after a write: one of those written, or the one that was there. -/
theorem Store.byte_setBytes {m : Store} (h : m.wf = true) : ∀ (bs : List Byte) (d a), (m.setBytes d bs).byte a = if d ≤ a ∧ a < d + bs.length then bs.getD (a - d) 0 else m.byte a := by
  intro bs
  induction bs generalizing m with
  | nil => intro d a; simp [Store.setBytes] <;> omega
  | cons b bs ih =>
    intro d a
    unfold Store.setBytes
    rw [ih (Store.setByte_wf h _ _)]
    by_cases h1 : a = d
    · subst h1
      rw [if_neg (by omega), if_pos (by simp), Store.byte_setByte_same h]; simp
    · by_cases h2 : d + 1 ≤ a ∧ a < d + 1 + bs.length
      · rw [if_pos h2, if_pos (by simp; omega)]
        have : a - d = (a - (d + 1)) + 1 := by omega
        rw [this]; simp
      · rw [if_neg h2, if_neg (by simp; omega), Store.byte_setByte_ne h _ h1]

/-- Cutting a range out of a list of cells leaves those below it. -/
theorem cellAt_cutCells_below (lo hi : Nat) : ∀ (cs : List Host.Cell) (b : Option Nat), cellsWf b cs = true → ∀ d, d < lo → cellAt (cutCells cs lo hi) d = cellAt cs d
  | [], _, _, d, _ => rfl
  | (a, v) :: rest, b, h, d, hd => by
    have h3 : cellsWf (some a) rest = true := by simp only [cellsWf, Bool.and_eq_true] at h; exact h.2
    unfold cutCells
    split
    · rename_i hc
      have hc : lo ≤ a ∧ a < hi := by simpa using hc
      rw [cellAt_cutCells_below lo hi rest (some a) h3 d hd]
      conv => rhs; unfold cellAt
      rw [if_neg (by omega), if_pos (by omega), cellAt_below (by omega) h3]
    · unfold cellAt
      rw [cellAt_cutCells_below lo hi rest (some a) h3 d hd]

/-- Making a range undefined leaves the bytes below it. -/
theorem Store.byte_forget_below {m : Store} (h : m.wf = true) (lo hi seed d : Nat) (hd : d < lo) : (m.forget lo hi seed).byte d = m.byte d := by
  unfold Store.forget
  split
  · unfold Store.byte
    dsimp only
    have e : undefSeed ({ lo := lo, hi := hi, seed := seed } :: cutUndef m.undef lo hi) d = undefSeed m.undef d := by
      rw [undefSeed, if_neg (by simp; omega), undefSeed_cut, if_neg (by omega)]
    rw [e, cellAt_cutCells_below lo hi m.cells none h d hd]
  · rfl

/-- A write that spoils speculation buffers leaves memory and the cores. -/
theorem State.spoilSpec_keeps (s : State) (l n) : (s.spoilSpec l n).mem = s.mem ∧ (s.spoilSpec l n).cores = s.cores := by
  unfold State.spoilSpec
  generalize s.hub.launches = ls
  suffices ∀ (f : State → Nat × Launch → State), (∀ s p, (f s p).mem = s.mem ∧ (f s p).cores = s.cores) → ∀ s, (ls.foldl f s).mem = s.mem ∧ (ls.foldl f s).cores = s.cores by
    apply this
    intro s p
    dsimp only
    split
    · split
      · unfold State.modLaunch; dsimp only [State.takeFresh]; split <;> exact ⟨rfl, rfl⟩
      · exact ⟨rfl, rfl⟩
    · exact ⟨rfl, rfl⟩
  intro f hf
  induction ls with
  | nil => intro s; exact ⟨rfl, rfl⟩
  | cons p ls ih => intro s; rw [List.foldl_cons]; have := ih (f s p); have h2 := hf s p; exact ⟨this.1.trans h2.1, this.2.trans h2.2⟩

/-- Where no unit has a save block, a write spoils none. -/
theorem State.spoilSaves_none {s : State} (h : ∀ p ∈ s.units, p.2.save = []) (l n) : s.spoilSaves l n = s := by
  unfold State.spoilSaves
  rw [if_neg]
  simp only [List.any_eq_true, not_exists, not_and]
  intro p hp
  have e : p.2.saveHits l n = [] := by unfold TUnit.saveHits; rw [h p hp]; split <;> rfl
  simp [e]

/-- A write that spoils speculation buffers leaves the units. -/
theorem State.spoilSpec_units (s : State) (l n) : (s.spoilSpec l n).units = s.units := by
  unfold State.spoilSpec
  generalize s.hub.launches = ls
  induction ls generalizing s with
  | nil => rfl
  | cons p ls ih =>
    rw [List.foldl_cons, ih]
    dsimp only
    split
    · split
      · unfold State.modLaunch; dsimp only [State.takeFresh]; split <;> rfl
      · rfl
    · rfl

/-- An idle state has no op whose window is open. -/
theorem State.Idle.ops {s : State} (h : s.Idle) : s.windowOps = [] := by
  unfold State.windowOps
  rw [List.append_eq_nil_iff, List.flatMap_eq_nil_iff, List.flatMap_eq_nil_iff]
  exact ⟨fun c hc => by obtain ⟨h1, h2, _, _⟩ := h.1 c hc; rw [h1, h2]; rfl, fun p hp => (h.2 p hp).2.1⟩
/-- An idle state has no job whose window is open. -/
theorem State.Idle.jobs {s : State} (h : s.Idle) : s.windowJobs = [] := by
  unfold State.windowJobs
  rw [List.append_eq_nil_iff, List.flatMap_eq_nil_iff, List.flatMap_eq_nil_iff]
  exact ⟨fun c hc => by obtain ⟨_, _, h3, h4⟩ := h.1 c hc; rw [h3, h4]; rfl, fun p hp => (h.2 p hp).2.2⟩
/-- In an idle state, noting a write only spoils speculation buffers. -/
theorem State.noteWrite_idle (s : State) (w q l n) (h : s.Idle) : s.noteWrite w q l n = s.spoilSpec l n := by
  have hu := State.spoilSpec_units s l n
  have hi : (s.spoilSpec l n).Idle := by unfold State.Idle; rw [hu, (State.spoilSpec_keeps s l n).2]; exact h
  unfold State.noteWrite
  rw [State.spoilSaves_none (fun p hp => (hi.2 p hp).1)]
  dsimp only
  rw [hi.ops, hi.jobs]
  rfl

/-- In an idle state, noting a write leaves memory. -/
theorem State.noteWrite_mem (s : State) (w q l n) (h : s.Idle) : (s.noteWrite w q l n).mem = s.mem := by
  rw [State.noteWrite_idle s w q l n h]
  exact (State.spoilSpec_keeps s l n).1

/-- Where no launch holds a speculation buffer, a write spoils none. -/
theorem State.spoilSpec_none {s : State} (h : s.NoSpec) (l n) : s.spoilSpec l n = s := by
  unfold State.spoilSpec
  unfold State.NoSpec at h
  generalize s.hub.launches = ls at h
  induction ls with
  | nil => rfl
  | cons p ls ih =>
    rw [List.foldl_cons, h p (by simp)]
    exact ih (fun q hq => h q (List.mem_cons_of_mem _ hq))

/-- No launch holds a speculation buffer, and an idle state. -/
def State.Quiet (s : State) : Prop := s.NoSpec ∧ s.Idle

theorem State.Quiet.idle {s : State} (h : s.Quiet) : s.Idle := h.2

/-- Noting a write of a quiet state changes nothing. -/
theorem State.noteWrite_quiet {s : State} (h : State.Quiet s) (w q l n) : s.noteWrite w q l n = s := by
  rw [State.noteWrite_idle s w q l n h.2, State.spoilSpec_none h.1]

/-- No place is in flight in an idle state. -/
theorem State.inFlight_idle {s : State} (h : s.Idle) (tk q l) : s.inFlight tk q l = false := by
  unfold State.inFlight State.openDst
  rw [h.ops, h.jobs]
  rfl

/-- A write at home changes the bytes of memory and no core, hub register or thread. -/
theorem State.writeAt_home : ∀ (bs : List Byte) (s : State) (d : Nat), (s.writeAt 0 (.home d) bs).mem = s.mem.setBytes d bs ∧ (s.writeAt 0 (.home d) bs).cores = s.cores ∧ (s.writeAt 0 (.home d) bs).hub = s.hub ∧ (s.writeAt 0 (.home d) bs).threads = s.threads ∧
    (s.writeAt 0 (.home d) bs).units = s.units
  | [], s, d => ⟨rfl, rfl, rfl, rfl, rfl⟩
  | b :: bs, s, d => by
    have := State.writeAt_home bs (s.writeByte 0 (.home d) b) (d + 1)
    unfold State.writeAt Store.setBytes
    exact this

/-- Updating the L1 copies leaves memory, threads and pending writes. -/
theorem State.l1Update_keeps : ∀ (bs : List Byte) (s : State) ck l, (s.l1Update ck l bs).mem = s.mem ∧ (s.l1Update ck l bs).threads = s.threads ∧ ((s.l1Update ck l bs).core ck).pend = (s.core ck).pend
  | [], s, ck, l => ⟨rfl, rfl, rfl⟩
  | b :: bs, s, ck, l => by
    have := State.l1Update_keeps bs (s.modCore ck fun c => { c with l1 := l1Write c.l1 l b }) ck (l.add 1)
    unfold State.l1Update
    refine ⟨this.1, this.2.1, this.2.2.trans ?_⟩
    unfold State.modCore State.setCore State.core
    simp [AMap.get, AMap.get?_set_same]

/-- A packet that a port accepts leaves memory, cores and threads. -/
theorem State.sendPacket_keeps (s : State) (x) : (s.sendPacket x).mem = s.mem ∧ (s.sendPacket x).cores = s.cores ∧ (s.sendPacket x).threads = s.threads := by
  unfold State.sendPacket
  split
  · exact ⟨rfl, rfl, rfl⟩
  · unfold State.fillPort State.modLink; simp only [State.modHub_mem, State.modHub_cores, State.modHub_threads, and_self]

/-- A packet of a write to a peer leaves memory, cores and threads. -/
theorem State.offPiece_keeps (s : State) (w d bs) : (s.offPiece w d bs).mem = s.mem ∧ (s.offPiece w d bs).cores = s.cores ∧ (s.offPiece w d bs).threads = s.threads := by
  unfold State.offPiece
  split
  · unfold State.keepOff
    dsimp only
    exact State.sendPacket_keeps (s.modHub _) _
  · exact ⟨rfl, rfl, rfl⟩

/-- A write that goes off the package leaves memory, cores and threads. -/
theorem State.offWrite_keeps (s : State) (q tk tl d bs e) : (s.offWrite q tk tl d bs e).mem = s.mem ∧ (s.offWrite q tk tl d bs e).cores = s.cores ∧ (s.offWrite q tk tl d bs e).threads = s.threads := by
  unfold State.offWrite
  dsimp only
  split
  · exact ⟨rfl, rfl, rfl⟩
  · generalize linePieces bs.length d bs = xs
    induction xs generalizing s with
    | nil => exact ⟨rfl, rfl, rfl⟩
    | cons x xs ih =>
      rw [List.foldl_cons]
      have h1 := ih (s.offPiece { seq := q, tk := tk, tloc := tl, dpa := d, eng := e } x.1 x.2)
      have h2 := s.offPiece_keeps { seq := q, tk := tk, tloc := tl, dpa := d, eng := e } x.1 x.2
      exact ⟨h1.1.trans h2.1, h1.2.1.trans h2.2.1, h1.2.2.trans h2.2.2⟩
  · exact ⟨rfl, rfl, rfl⟩

/-- What a write from outside the cores does to memory, with no engine op in flight. -/
theorem State.outsideWrite_mem (s : State) (d bs k w) (h : s.targetErr d bs.length false = none) (hq : s.Idle) :
    (s.outsideWrite d bs k w).mem = s.mem.setBytes d bs := by
  unfold State.outsideWrite
  rw [h]
  dsimp only [State.takeSeq]
  have hw2 := State.writeAt_home bs { s with seq := s.seq + 1 } d
  rw [State.noteWrite_mem _ _ _ _ _ (by unfold State.Idle; rw [hw2.2.1, hw2.2.2.2.2]; exact hq), hw2.1]

end Sys2Proof.Machine
end

