-- ==== Sys2Proof/Laws/Words.lean ====
section
/-! SUPPORT. Words and bytes: the operations on them as arithmetic on numbers. -/

namespace Sys2Proof.Machine

/-- A function may be replaced by an equal one. -/
theorem Gives3.congr {mk : Op3 → Instr} {f g : Word → Word → Word} (h : Gives3 mk f) (e : ∀ x y, f x y = g x y) : Gives3 mk g := by
  have : f = g := by funext x y; exact e x y
  exact this ▸ h

/-- The same where it accumulates. -/
theorem GivesAcc.congr {mk : Op3 → Instr} {f g : Word → Word → Word → Word} (h : GivesAcc mk f) (e : ∀ x y z, f x y z = g x y z) : GivesAcc mk g := by
  have : f = g := by funext x y z; exact e x y z
  exact this ▸ h

/-- The same for one source. -/
theorem Gives2.congr {mk : Op2 → Instr} {f g : Word → Word} (h : Gives2 mk f) (e : ∀ x, f x = g x) : Gives2 mk g := by
  have : f = g := by funext x; exact e x
  exact this ▸ h

/-- The same for a 16-bit form. -/
theorem GivesC.congr {mk : C16 → Instr} {f g : Word → Word → Word} (h : GivesC mk f) (e : ∀ x y, f x y = g x y) : GivesC mk g := by
  have : f = g := by funext x y; exact e x y
  exact this ▸ h

/-- The same for an immediate form. -/
theorem GivesI.congr {mk : C16I → Instr} {f g : BitVec 5 → Word → Word} (h : GivesI mk f) (e : ∀ x y, f x y = g x y) : GivesI mk g := by
  have : f = g := by funext x y; exact e x y
  exact this ▸ h

/-- Sign extension from 32 bits sees the low half alone. -/
theorem sextN_32_congr {x y : Word} (h : x.toNat % 2 ^ 32 = y.toNat % 2 ^ 32) : sextN x 32 = sextN y 32 := by
  unfold sextN
  congr 1
  apply BitVec.eq_of_toNat_eq
  simpa using h

/-- A sum of words is the sum modulo 2^64 (R5). -/
theorem Word.add_ofN (x y : Word) : x + y = Word.ofN (x.toNat + y.toNat) := by
  apply BitVec.eq_of_toNat_eq; simp [Word.ofN]

/-- A difference of words. -/
theorem Word.sub_ofInt (x y : Word) : x - y = BitVec.ofInt 64 ((x.toNat : Int) - y.toNat) := by
  apply BitVec.eq_of_toNat_eq; rw [BitVec.toNat_ofInt, BitVec.toNat_sub]; omega

/-- A left shift multiplies. -/
theorem Word.shl_ofN (x : Word) (n : Nat) : x <<< n = Word.ofN (x.toNat * 2 ^ n) := by
  apply BitVec.eq_of_toNat_eq; simp [Word.ofN, Nat.shiftLeft_eq]

/-- A logical right shift divides. -/
theorem Word.shr_ofN (x : Word) (n : Nat) : x >>> n = Word.ofN (x.toNat / 2 ^ n) := by
  apply BitVec.eq_of_toNat_eq; simp [Word.ofN, Nat.shiftRight_eq_div_pow]
  rw [Nat.mod_eq_of_lt (Nat.lt_of_le_of_lt (Nat.div_le_self _ _) x.isLt)]

/-- A quotient by a positive number stays in range. -/
theorem ediv_bounds (x : Int) (k : Int) (hk : 1 ≤ k) (h1 : x < 2^63) (h2 : -2^63 ≤ x) : -2^63 ≤ x / k ∧ x / k < 2^63 := by
  constructor
  · apply Int.le_ediv_of_mul_le (by omega)
    norm_num at *; nlinarith
  · apply Int.ediv_lt_of_lt_mul (by omega)
    norm_num at *; nlinarith

/-- An arithmetic right shift is a floor division. -/
theorem Word.sshiftRight_ofInt (x : Word) (n : Nat) : x.sshiftRight n = BitVec.ofInt 64 (x.toInt / 2 ^ n) := by
  apply BitVec.eq_of_toInt_eq
  rw [BitVec.toInt_sshiftRight, Int.shiftRight_eq_div_pow, BitVec.toInt_ofInt]
  have h1 := x.toInt_lt; have h2 := x.le_toInt
  have hb := ediv_bounds x.toInt (2^n) (by exact_mod_cast Nat.one_le_two_pow) (by simpa using h1) (by simpa using h2)
  symm
  push_cast
  apply Int.bmod_eq_of_le <;> norm_num at * <;> omega

/-- The numbers from k. -/
theorem upFrom_eq (k : Nat) : ∀ n, upFrom k n = List.range' k n
  | 0 => rfl
  | n+1 => by simp [upFrom, upFrom_eq (k+1) n, List.range'_succ]

/-- Sign extension as a signed number. -/
theorem sextN_ofInt (n : Nat) (a : Word) : sextN a n = BitVec.ofInt 64 (BitVec.ofNat n a.toNat).toInt := by
  unfold sextN
  have : (BitVec.setWidth n a) = BitVec.ofNat n a.toNat := by apply BitVec.eq_of_toNat_eq; simp
  rw [this]; rfl

/-- Zero extension is a remainder. -/
theorem zextN_ofN (n : Nat) (a : Word) : zextN a n = Word.ofN (a.toNat % 2^n) := by
  unfold zextN
  apply BitVec.eq_of_toNat_eq; simp [Word.ofN]

/-- The positions of the ones of a word. -/
theorem mem_oneBits (a : Word) (i : Nat) : i ∈ oneBits a ↔ i < 64 ∧ a.getLsbD i = true := by
  simp [oneBits, upFrom_eq]

/-- A nonzero word has a one. -/
theorem oneBits_ne_nil (a : Word) (h : a ≠ 0) : oneBits a ≠ [] := by
  intro he
  apply h
  apply BitVec.eq_of_getLsbD_eq
  intro i hi
  have := mem_oneBits a i
  rw [he] at this
  simp at this
  simp [this hi]

/-- The positions come in rising order. -/
theorem oneBits_sorted (a : Word) : (oneBits a).Pairwise (· < ·) := by
  unfold oneBits; rw [upFrom_eq]; exact (List.pairwise_lt_range' ..).filter _

/-- A bit of a little-endian value (R3). -/
theorem testBit_leVal : ∀ (bs : List Byte) (i : Nat), (leVal bs).testBit i = (bs.getD (i / 8) 0).getLsbD (i % 8)
  | [], i => by simp [leVal]
  | b :: bs, i => by
    unfold leVal
    rw [show b.toNat + 256 * leVal bs = 2 ^ 8 * leVal bs + b.toNat by omega, Nat.testBit_two_pow_mul_add _ b.isLt]
    split
    · rename_i h
      rw [Nat.div_eq_of_lt h, Nat.mod_eq_of_lt h]; rfl
    · rename_i h
      rw [testBit_leVal bs (i - 8)]
      have : i / 8 = (i - 8) / 8 + 1 := by omega
      rw [this, show (i - 8) % 8 = i % 8 by omega]; rfl

/-- A byte of a number. -/
theorem getD_leBytes : ∀ (n x k : Nat), k < n → (leBytes n x).getD k 0 = BitVec.ofNat 8 (x / 256 ^ k)
  | 0, _, _, h => by cases h
  | n + 1, x, 0, _ => by simp [leBytes]
  | n + 1, x, k + 1, h => by
    have := getD_leBytes n (x / 256) k (by omega)
    simp only [leBytes, List.getD_cons_succ, this, Nat.div_div_eq_div_mul]
    congr 2
    rw [Nat.pow_succ]; ring

/-- A number written in n bytes has n bytes. -/
theorem leBytes_length : ∀ (n x : Nat), (leBytes n x).length = n
  | 0, _ => rfl
  | n + 1, x => by simp [leBytes, leBytes_length n]

end Sys2Proof.Machine
end

