-- ==== Sys2Proof/Machine/Loader.lean ====
section
/-! DEFINITION. Code objects, and what the loader places or refuses (R393 to R395). -/

namespace Sys2Proof.Machine

/-- A section of a code object (R393). -/
structure PcoSection where
  kind : Nat
  mu   : Bool
  zero : Bool
  off  : Nat
  size : Nat
  load : Word
  deriving DecidableEq, Repr

/-- The section that an entry of the section table describes. -/
def pcoSection (file : List Byte) (at_ : Nat) : PcoSection :=
  let ty := field file at_ 4
  { kind := bits ty 30 0, mu := bits ty 31 31 == 1, zero := zeroField file (at_ + 4) 4, off := field file (at_ + 8) 8,
    size := field file (at_ + 16) 8, load := Word.ofN (field file (at_ + 24) 8) }
/-- The sections of a code object, in the order of its table. -/
def pcoSections (file : List Byte) : List PcoSection :=
  (upFrom 0 (field file 6 2)).map fun k => pcoSection file (field file 8 8 + 32 * k)

/-- Whether a section is one of CODE. -/
def PcoSection.isCode (x : PcoSection) : Bool := x.kind == 1
/-- Whether a section is placed: CODE and DATA are (R393). -/
def PcoSection.placed (x : PcoSection) : Bool := x.kind == 1 || x.kind == 2
/-- Whether the kind of a section is one that R393 lists. -/
def PcoSection.known (x : PcoSection) : Bool := 1 ≤ x.kind && x.kind ≤ 4
/-- Whether two placed sections share a byte of LOAD (R395). -/
def PcoSection.overlaps (x y : PcoSection) : Bool := max x.load.toNat y.load.toNat < min (x.load.toNat + x.size) (y.load.toNat + y.size)
/-- The bytes of a section in its file. -/
def PcoSection.bytes (x : PcoSection) (file : List Byte) : List Byte := (file.drop x.off).take x.size

/-- Whether a list holds two overlapping sections. -/
def overlapping : List PcoSection → Bool
  | [] => false
  | x :: xs => xs.any x.overlaps || overlapping xs

/-- Whether the header or an entry of the section table breaks R393. -/
def pcoHeaderBad (file : List Byte) : Bool :=
  field file 0 4 != 0x1A4F4350 || field file 4 2 != 1 || field file 6 2 == 0 || field file 6 2 > 1024 || field file 8 8 % 8 != 0 ||
  !zeroField file 16 16 || (pcoSections file).any fun x => !x.zero
/-- Whether the version note is missing, repeated or malformed (R394). -/
def pcoNoteBad (file : List Byte) : Bool :=
  match (pcoSections file).filter fun x => x.kind == 3 with
  | [n] => n.size != 16 || !zeroField (n.bytes file) 4 12
  | _ => true
/-- The semantic level that a code object requires, 0 where it names none (R394). -/
def pcoSem (file : List Byte) : Nat :=
  match (pcoSections file).find? fun x => x.kind == 3 with
  | some n => field (n.bytes file) 0 2
  | none => 0

/-- The code with which the loader refuses an object, 0 where it loads it (R395). A table that reaches past the end of the file counts as
a section that does (DESIGN CHOICE; log 79). -/
def loadRefusal (file : List Byte) : Nat :=
  let xs := pcoSections file
  let ps := xs.filter (·.placed)
  lowest
    [(1, pcoHeaderBad file), (2, pcoNoteBad file), (3, pcoSem file == 0 || pcoSem file > (bits (Hub.deviceBlock {} 0).toNat 7 0)),
     (4, xs.any fun x => !x.known && x.mu),
     (5, field file 8 8 + 32 * field file 6 2 > file.length || (xs.any fun x => x.known && x.off + x.size > file.length) ||
       overlapping ps || ps.any fun x => x.isCode && (x.load.toNat % 2 == 1 || x.size % 2 == 1))]

/-- What the loader places of an object at a code base: every CODE and DATA section, unchanged, or nothing (R393, R395). -/
def loadPlaces (file : List Byte) (base : Word) : List (Word × List Byte) :=
  if loadRefusal file ≠ 0 then []
  else ((pcoSections file).filter (·.placed)).map fun x => (base + x.load, x.bytes file)

end Sys2Proof.Machine
end

