-- ==== Sys2Proof/Tests/Slice0.lean ====
section
/-! SUPPORT. Tests of the model: ill-formed instructions, words of every encoding written out from the tables of the spec, single
steps with results worked out from the rules, and, for each statement, a state that meets its hypotheses. -/

namespace Sys2Proof.Tests

set_option Elab.async false

open Sys2Proof Sys2Proof.Machine

/-! ## A small machine

One unit of one gang on core 0, whose thread 0 is current: v1 holds 0x300000, v2 holds 8, v3 holds -5. -/

def uid0 : Nat := unitKey 1 0
def tk0 : Nat := threadKey uid0 0
/-- The thread of the small machine. -/
def thr (s : State) : Thread := (s.thread? tk0).getD { uid := 0, tg := 0, nregs := 0, v := [], rpc := 0, pc := 0 }
/-- The small machine with changes to its thread. -/
def with_ (f : Thread → Thread) : State :=
  { State.reset.placed.modThread tk0 fun t => f (((t.setReg 1 0x300000).setReg 2 8).setReg 3 (-5)) with cur := some tk0, issueQ := [] }
def w0 : State := with_ id

/-! ## Hypotheses as checks -/

/-- That the current thread is ready for an instruction whose sources, none of them a port, read vals. -/
def readyV (i : Instr) (s : State) (vals : List Word) : Bool :=
  s.cur == some tk0 && (s.thread? tk0).isSome && operandOk i (thr s).nregs (thr s).pre && ((instrInfo i).dueError (thr s)).isNone &&
  !(thr s).loads.any (·.block) && ((thr s).guard (instrInfo i).guard || (instrInfo i).mode == .sel) && (thr s).held.isNone && (instrInfo i).loadsReady (thr s) &&
  !s.dstHeld tk0 (thr s) (instrInfo i) && ((instrInfo i).allSrcs.all fun x => match x.2 with | .m _ => false | _ => true) &&
  match s.readSrcs tk0 (thr s) (instrInfo i).allSrcs with | .ok v _ => v == vals | _ => false

theorem readSrcs_same (s : State) (tk : Nat) (t : Thread) (srcs : List (Pos × Src)) : ∀ vals s',
    (srcs.all fun x => match x.2 with | .m _ => false | _ => true) = true → s.readSrcs tk t srcs = .ok vals s' → s' = s := by
  induction srcs with
  | nil => intro vals s' _ h; unfold State.readSrcs at h; cases h; rfl
  | cons x xs ih =>
    intro vals s' hp h
    obtain ⟨p, x⟩ := x
    rw [List.all_cons, Bool.and_eq_true] at hp
    have key : ∀ n v s2, s.readSrc tk t p n x = .ok v s2 → s2 = s := by
      intro n v s2 h
      have hx := hp.1
      unfold State.readSrc at h
      dsimp only at h hx
      split at h
      all_goals first
        | (cases h; rfl)
        | exact (Bool.false_ne_true hx).elim
        | (repeat' split at h) <;> first | (cases h; rfl) | cases h
    unfold State.readSrcs at h
    split at h
    · rename_i v s2 e1
      obtain rfl := key _ _ _ e1
      split at h
      · rename_i vs s3 e2
        cases h
        exact ih _ _ hp.2 e2
      · rename_i hn
        exact absurd h (by intro h; exact hn _ _ h)
    · rename_i hn
      exact absurd h (by intro h; exact hn _ _ h)

theorem ready_of {i : Instr} {s : State} {vals : List Word} (h : readyV i s vals = true) : Ready i s tk0 (thr s) vals s := by
  unfold readyV at h
  simp only [Bool.and_eq_true] at h
  obtain ⟨⟨⟨⟨⟨⟨⟨⟨⟨⟨h1, h2⟩, h3⟩, h4⟩, h5⟩, h6⟩, hd⟩, h7⟩, hf⟩, h8⟩, h9⟩ := h
  have ht : s.thread? tk0 = some (thr s) := by
    unfold thr
    cases hh : s.thread? tk0 with
    | none => rw [hh] at h2; cases h2
    | some t => rfl
  refine ⟨eq_of_beq h1, ht, h3, by simpa using h4, by simpa using h5, ?_, .inl ⟨by simpa using hd, h7, by simpa using hf, ?_⟩⟩
  · rcases Bool.or_eq_true _ _ |>.mp h6 with h | h
    · exact .inl h
    · exact .inr (eq_of_beq h)
  · split at h9
    · rename_i v s' e
      rw [e, readSrcs_same _ _ _ _ _ _ h8 e, eq_of_beq h9]
    · cases h9

/-- That the guard of an instruction is false. -/
def skipsV (i : Instr) (s : State) : Bool :=
  s.cur == some tk0 && (s.thread? tk0).isSome && operandOk i (thr s).nregs (thr s).pre && ((instrInfo i).dueError (thr s)).isNone &&
  !(thr s).loads.any (·.block) && !(thr s).guard (instrInfo i).guard && (instrInfo i).mode != .sel

theorem skipped_of {i : Instr} {s : State} (h : skipsV i s = true) : Skipped i s tk0 (thr s) := by
  unfold skipsV at h
  simp only [Bool.and_eq_true] at h
  obtain ⟨⟨⟨⟨⟨⟨h1, h2⟩, h3⟩, h4⟩, h5⟩, h6⟩, h7⟩ := h
  have ht : s.thread? tk0 = some (thr s) := by
    unfold thr
    cases hh : s.thread? tk0 with
    | none => rw [hh] at h2; cases h2
    | some t => rfl
  exact ⟨eq_of_beq h1, ht, h3, by simpa using h4, by simpa using h5, by simpa using h6, by simpa using h7⟩

/-- That an access reaches a place. -/
def reachesV (s : State) (va : Word) (n kind : Nat) (rd wr : Bool) (l : Loc) : Bool :=
  (thr s).places.isEmpty && decide ((s.access tk0 (thr s) (thr s).ftok va n n kind).1 = .ok l) &&
  ((s.access tk0 (thr s) (thr s).ftok va n n kind).2.watchHit (thr s) l n rd wr).isNone &&
  !(s.access tk0 (thr s) (thr s).ftok va n n kind).2.isAbsent l

theorem reaches_of {s : State} {va : Word} {n kind : Nat} {rd wr : Bool} {l : Loc} (h : reachesV s va n kind rd wr l = true) :
    Reaches s tk0 (thr s) va n kind rd wr l (s.access tk0 (thr s) (thr s).ftok va n n kind).2 := by
  unfold reachesV at h
  simp only [Bool.and_eq_true, decide_eq_true_eq] at h
  exact ⟨.inl ⟨by rw [List.isEmpty_iff.mp h.1.1.1]; rfl, Prod.ext h.1.1.2 rfl⟩, by simpa using h.1.2, by simpa using h.2⟩

/-- The place that an access names. -/
def placeV (s : State) (va : Word) (n kind : Nat) (t : Thread) : Option (Loc × State) :=
  if !t.places.isEmpty then none else match s.access tk0 t t.ftok va n n kind with | (.ok l, s) => some (l, s) | _ => none
theorem place_of {s : State} {va : Word} {n kind : Nat} {t : Thread} {r : Loc × State} (h : placeV s va n kind t = some r) :
    Placed s tk0 t va n kind r.1 r.2 := by
  unfold placeV at h
  split at h
  · cases h
  · rename_i hp
    split at h
    · rename_i l s2 e
      cases h
      refine .inl ⟨?_, e⟩
      have hp : t.places.isEmpty = true := by simpa using hp
      rw [List.isEmpty_iff.mp hp]; rfl
    · cases h
/-- That the current thread's own out-port elements have gone out, with no other change to it. -/
def wentV (s : State) : Bool := (((s.drainOut tk0).thread? tk0).map Thread.outEmpty).getD true && thr (s.drainOut tk0) == thr s
theorem wentOut_of {s : State} (h : wentV s = true) : WentOut s tk0 (s.drainOut tk0) := by
  unfold wentV at h
  rw [Bool.and_eq_true] at h
  exact ⟨rfl, h.1⟩
/-- That it then reaches a place. -/
def goesV (s : State) (va : Word) (n kind : Nat) (rd wr : Bool) (l : Loc) : Bool := wentV s && reachesV (s.drainOut tk0) va n kind rd wr l
/-- The state that it is then in. -/
def gone (s : State) (va : Word) (n kind : Nat) : State :=
  ((s.drainOut tk0).access tk0 (thr (s.drainOut tk0)) (thr (s.drainOut tk0)).ftok va n n kind).2
theorem goes_of {s : State} {va : Word} {n kind : Nat} {rd wr : Bool} {l : Loc} (h : goesV s va n kind rd wr l = true) :
    WentOut s tk0 (s.drainOut tk0) ∧ Reaches (s.drainOut tk0) tk0 (thr s) va n kind rd wr l (gone s va n kind) := by
  unfold goesV at h
  rw [Bool.and_eq_true] at h
  have h1 := h.1
  unfold wentV at h1
  rw [Bool.and_eq_true] at h1
  refine ⟨wentOut_of h.1, ?_⟩
  have := reaches_of h.2
  unfold gone
  rw [eq_of_beq h1.2] at this ⊢
  exact this

/-- The state after the elements that an order waits for have gone out. -/
def outState (s : State) (sc : Scope) : State := if isWide sc then (s.drainOut tk0).drainCore (s.ckOf (thr s).uid) else s.drainOut tk0
def performedV (s : State) (sc : Scope) : Bool :=
  (((outState s sc).thread? tk0).map (·.errs.isEmpty)).getD true && !(outState s sc).uwrOpen tk0 && (outState s sc).ownPerformed (s.ckOf (thr s).uid) tk0 &&
  (!isWide sc || (outState s sc).corePerformed (s.ckOf (thr s).uid) ((thr s).mark.getD s.seq)) &&
  (sc != .sys || (outState s sc).coreDelivered (s.ckOf (thr s).uid) ((thr s).mark.getD s.seq) (thr s).after.acq)

theorem performed_of {s : State} {sc : Scope} {clean : Bool} (h : performedV s sc = true) : Performed s tk0 (thr s) sc (outState s sc) clean := by
  unfold performedV at h
  simp only [Bool.and_eq_true] at h
  obtain ⟨⟨⟨⟨h1, hu⟩, h2⟩, h3⟩, h4⟩ := h
  refine ⟨rfl, fun _ => h1, by simpa using hu, h2, fun hw => by simpa [hw] using h3, fun hs => ?_⟩
  subst hs
  simpa using h4


/-! ## Words of the encodings

Each word is written out, bit by bit, from the layouts of R26, R40 to R47 and the codes of R49 and R50. -/

/-- IADD, ISUB, IMUL, IMAC, IADD_32, ISUB_32, IMUL_32, IMAC_32, IMULH_S, IMULH_N, AND, OR, XOR, ANDN (R26, R40 to R50). -/
theorem test_decode_1 :
    decodeTableWord 32 0b10101101000001000101000001110101 = some (.iadd ⟨⟨true, 2⟩, true, .v 5, .b 1, .imm 13⟩) ∧
    decodeTableWord 32 0b10101101000001000101000010110101 = some (.isub ⟨⟨true, 2⟩, true, .v 5, .b 1, .imm 13⟩) ∧
    decodeTableWord 32 0b10101101000001000101000011110101 = some (.imul ⟨⟨true, 2⟩, true, .v 5, .b 1, .imm 13⟩) ∧
    decodeTableWord 32 0b10101101000001000101000100110101 = some (.imac ⟨⟨true, 2⟩, true, .v 5, .b 1, .imm 13⟩) ∧
    decodeTableWord 32 0b10101101000001000101000101110101 = some (.iadd32 ⟨⟨true, 2⟩, true, .v 5, .b 1, .imm 13⟩) ∧
    decodeTableWord 32 0b10101101000001000101000110110101 = some (.isub32 ⟨⟨true, 2⟩, true, .v 5, .b 1, .imm 13⟩) ∧
    decodeTableWord 32 0b10101101000001000101000111110101 = some (.imul32 ⟨⟨true, 2⟩, true, .v 5, .b 1, .imm 13⟩) ∧
    decodeTableWord 32 0b10101101000001000101001000110101 = some (.imac32 ⟨⟨true, 2⟩, true, .v 5, .b 1, .imm 13⟩) ∧
    decodeTableWord 32 0b10101101000001000101001001110101 = some (.imulhS ⟨⟨true, 2⟩, true, .v 5, .b 1, .imm 13⟩) ∧
    decodeTableWord 32 0b10101101000001000101001010110101 = some (.imulhN ⟨⟨true, 2⟩, true, .v 5, .b 1, .imm 13⟩) ∧
    decodeTableWord 32 0b10101101000001000101001011110101 = some (.andOp ⟨⟨true, 2⟩, true, .v 5, .b 1, .imm 13⟩) ∧
    decodeTableWord 32 0b10101101000001000101001100110101 = some (.orOp ⟨⟨true, 2⟩, true, .v 5, .b 1, .imm 13⟩) ∧
    decodeTableWord 32 0b10101101000001000101001101110101 = some (.xorOp ⟨⟨true, 2⟩, true, .v 5, .b 1, .imm 13⟩) ∧
    decodeTableWord 32 0b10101101000001000101001110110101 = some (.andn ⟨⟨true, 2⟩, true, .v 5, .b 1, .imm 13⟩) := by decide +kernel

/-- SHL, SHR, ASR, LOOP, IMIN_S, IMAX_S, IMIN_N, IMAX_N, FADD, FSUB, FMUL, FFMA, FMIN, FMAX (R26, R40 to R50). -/
theorem test_decode_2 :
    decodeTableWord 32 0b10101101000001000101001111110101 = some (.shl ⟨⟨true, 2⟩, true, .v 5, .b 1, .imm 13⟩) ∧
    decodeTableWord 32 0b10101101000001000101010000110101 = some (.shr ⟨⟨true, 2⟩, true, .v 5, .b 1, .imm 13⟩) ∧
    decodeTableWord 32 0b10101101000001000101010001110101 = some (.asr ⟨⟨true, 2⟩, true, .v 5, .b 1, .imm 13⟩) ∧
    decodeTableWord 32 0b10000000000000000101010010010101 = some (.loop ⟨⟨true, 2⟩, .v 0, 133⟩) ∧
    decodeTableWord 32 0b10101101000001000101010011110101 = some (.iminS ⟨⟨true, 2⟩, true, .v 5, .b 1, .imm 13⟩) ∧
    decodeTableWord 32 0b10101101000001000101010100110101 = some (.imaxS ⟨⟨true, 2⟩, true, .v 5, .b 1, .imm 13⟩) ∧
    decodeTableWord 32 0b10101101000001000101010101110101 = some (.iminN ⟨⟨true, 2⟩, true, .v 5, .b 1, .imm 13⟩) ∧
    decodeTableWord 32 0b10101101000001000101010110110101 = some (.imaxN ⟨⟨true, 2⟩, true, .v 5, .b 1, .imm 13⟩) ∧
    decodeTableWord 32 0b10101101000001000101010111110101 = some (.fadd ⟨⟨true, 2⟩, true, .v 5, .b 1, .imm 13⟩) ∧
    decodeTableWord 32 0b10101101000001000101011000110101 = some (.fsub ⟨⟨true, 2⟩, true, .v 5, .b 1, .imm 13⟩) ∧
    decodeTableWord 32 0b10101101000001000101011001110101 = some (.fmul ⟨⟨true, 2⟩, true, .v 5, .b 1, .imm 13⟩) ∧
    decodeTableWord 32 0b10101101000001000101011010110101 = some (.ffma ⟨⟨true, 2⟩, true, .v 5, .b 1, .imm 13⟩) ∧
    decodeTableWord 32 0b10101101000001000101011011110101 = some (.fmin ⟨⟨true, 2⟩, true, .v 5, .b 1, .imm 13⟩) ∧
    decodeTableWord 32 0b10101101000001000101011100110101 = some (.fmax ⟨⟨true, 2⟩, true, .v 5, .b 1, .imm 13⟩) := by decide +kernel

/-- DADD, DSUB, DMUL, DFMA, DMIN, DMAX, HADD, HMUL, HFMA, BADD, BMUL, BFMA, ICMP_S, ICMP_N (R26, R40 to R50). -/
theorem test_decode_3 :
    decodeTableWord 32 0b10101101000001000101011101110101 = some (.dadd ⟨⟨true, 2⟩, true, .v 5, .b 1, .imm 13⟩) ∧
    decodeTableWord 32 0b10101101000001000101011110110101 = some (.dsub ⟨⟨true, 2⟩, true, .v 5, .b 1, .imm 13⟩) ∧
    decodeTableWord 32 0b10101101000001000101011111110101 = some (.dmul ⟨⟨true, 2⟩, true, .v 5, .b 1, .imm 13⟩) ∧
    decodeTableWord 32 0b10101101000001000101100000110101 = some (.dfma ⟨⟨true, 2⟩, true, .v 5, .b 1, .imm 13⟩) ∧
    decodeTableWord 32 0b10101101000001000101100001110101 = some (.dmin ⟨⟨true, 2⟩, true, .v 5, .b 1, .imm 13⟩) ∧
    decodeTableWord 32 0b10101101000001000101100010110101 = some (.dmax ⟨⟨true, 2⟩, true, .v 5, .b 1, .imm 13⟩) ∧
    decodeTableWord 32 0b10101101000001000101100011110101 = some (.hadd ⟨⟨true, 2⟩, true, .v 5, .b 1, .imm 13⟩) ∧
    decodeTableWord 32 0b10101101000001000101100100110101 = some (.hmul ⟨⟨true, 2⟩, true, .v 5, .b 1, .imm 13⟩) ∧
    decodeTableWord 32 0b10101101000001000101100101110101 = some (.hfma ⟨⟨true, 2⟩, true, .v 5, .b 1, .imm 13⟩) ∧
    decodeTableWord 32 0b10101101000001000101100110110101 = some (.badd ⟨⟨true, 2⟩, true, .v 5, .b 1, .imm 13⟩) ∧
    decodeTableWord 32 0b10101101000001000101100111110101 = some (.bmul ⟨⟨true, 2⟩, true, .v 5, .b 1, .imm 13⟩) ∧
    decodeTableWord 32 0b10101101000001000101101000110101 = some (.bfma ⟨⟨true, 2⟩, true, .v 5, .b 1, .imm 13⟩) ∧
    decodeTableWord 32 0b10010010111100101011101001010101 = some (.icmpS ⟨⟨true, 2⟩, .ge, 3, .m 0, .imm 0⟩) ∧
    decodeTableWord 32 0b10010010111100101011101010010101 = some (.icmpN ⟨⟨true, 2⟩, .ge, 3, .m 0, .imm 0⟩) := by decide +kernel

/-- FCMP, DCMP, SEL, LD8, LD16, LD32, LD64, LD8_S, LD16_S, LD32_S, ST8, ST16, ST32, ST64 (R26, R40 to R50). -/
theorem test_decode_4 :
    decodeTableWord 32 0b10010010111100101011101011010101 = some (.fcmp ⟨⟨true, 2⟩, .ge, 3, .m 0, .imm 0⟩) ∧
    decodeTableWord 32 0b10010010111100101011101100010101 = some (.dcmp ⟨⟨true, 2⟩, .ge, 3, .m 0, .imm 0⟩) ∧
    decodeTableWord 32 0b10101101000001000101101101110101 = some (.sel ⟨⟨true, 2⟩, true, .v 5, .b 1, .imm 13⟩) ∧
    decodeTableWord 32 0b10111111100000111010101110110101 = some (.ld8 ⟨⟨true, 2⟩, true, .v 58, .s 0, .imm 22⟩) ∧
    decodeTableWord 32 0b10111111100000111010101111110101 = some (.ld16 ⟨⟨true, 2⟩, true, .v 58, .s 0, .imm 22⟩) ∧
    decodeTableWord 32 0b10111111100000111010110000110101 = some (.ld32 ⟨⟨true, 2⟩, true, .v 58, .s 0, .imm 22⟩) ∧
    decodeTableWord 32 0b10111111100000111010110001110101 = some (.ld64 ⟨⟨true, 2⟩, true, .v 58, .s 0, .imm 22⟩) ∧
    decodeTableWord 32 0b10111111100000111010110010110101 = some (.ld8S ⟨⟨true, 2⟩, true, .v 58, .s 0, .imm 22⟩) ∧
    decodeTableWord 32 0b10111111100000111010110011110101 = some (.ld16S ⟨⟨true, 2⟩, true, .v 58, .s 0, .imm 22⟩) ∧
    decodeTableWord 32 0b10111111100000111010110100110101 = some (.ld32S ⟨⟨true, 2⟩, true, .v 58, .s 0, .imm 22⟩) ∧
    decodeTableWord 32 0b10111111100000111010110101110101 = some (.st8 ⟨⟨true, 2⟩, true, .v 58, .s 0, .imm 22⟩) ∧
    decodeTableWord 32 0b10111111100000111010110110110101 = some (.st16 ⟨⟨true, 2⟩, true, .v 58, .s 0, .imm 22⟩) ∧
    decodeTableWord 32 0b10111111100000111010110111110101 = some (.st32 ⟨⟨true, 2⟩, true, .v 58, .s 0, .imm 22⟩) ∧
    decodeTableWord 32 0b10111111100000111010111000110101 = some (.st64 ⟨⟨true, 2⟩, true, .v 58, .s 0, .imm 22⟩) := by decide +kernel

/-- LDACQ, STREL, ATOM_ADD, ATOM_AND, ATOM_OR, ATOM_XOR, ATOM_MIN_S, ATOM_MAX_S, ATOM_MIN_N, ATOM_MAX_N, ATOM_XCHG, ATOM_CAS, ATOM_FADD, ATOM_INCW (R26, R40 to R50). -/
theorem test_decode_5 :
    decodeTableWord 32 0b01011011000111001001111001010101 = some (.ldacq ⟨⟨true, 2⟩, false, .v 9, .gg, true, .dev, true⟩) ∧
    decodeTableWord 32 0b00100001000110001001111010110101 = some (.strel ⟨⟨true, 2⟩, true, .v 9, .tg, .sys, false⟩) ∧
    decodeTableWord 32 0b10100001000101001010111011110101 = some (.atomAdd ⟨⟨true, 2⟩, true, .v 10, .ln, .dev, true⟩) ∧
    decodeTableWord 32 0b10100011000101001010111011110101 = some (.atomAnd ⟨⟨true, 2⟩, true, .v 10, .ln, .dev, true⟩) ∧
    decodeTableWord 32 0b10100101000101001010111011110101 = some (.atomOr ⟨⟨true, 2⟩, true, .v 10, .ln, .dev, true⟩) ∧
    decodeTableWord 32 0b10100111000101001010111011110101 = some (.atomXor ⟨⟨true, 2⟩, true, .v 10, .ln, .dev, true⟩) ∧
    decodeTableWord 32 0b10101001000101001010111011110101 = some (.atomMinS ⟨⟨true, 2⟩, true, .v 10, .ln, .dev, true⟩) ∧
    decodeTableWord 32 0b10101011000101001010111011110101 = some (.atomMaxS ⟨⟨true, 2⟩, true, .v 10, .ln, .dev, true⟩) ∧
    decodeTableWord 32 0b10101101000101001010111011110101 = some (.atomMinN ⟨⟨true, 2⟩, true, .v 10, .ln, .dev, true⟩) ∧
    decodeTableWord 32 0b10101111000101001010111011110101 = some (.atomMaxN ⟨⟨true, 2⟩, true, .v 10, .ln, .dev, true⟩) ∧
    decodeTableWord 32 0b10110001000101001010111011110101 = some (.atomXchg ⟨⟨true, 2⟩, true, .v 10, .ln, .dev, true⟩) ∧
    decodeTableWord 32 0b10110011000101001010111011110101 = some (.atomCas ⟨⟨true, 2⟩, true, .v 10, .ln, .dev, true⟩) ∧
    decodeTableWord 32 0b10110101000101001010111011110101 = some (.atomFadd ⟨⟨true, 2⟩, true, .v 10, .ln, .dev, true⟩) ∧
    decodeTableWord 32 0b10110111000101001010111011110101 = some (.atomIncw ⟨⟨true, 2⟩, true, .v 10, .ln, .dev, true⟩) := by decide +kernel

/-- ATOM_CAS_PROMOTE, ATOM_HACC, BR, CALL, IMX, ILL, ILL_PARCEL, MOV, NOT, NEG, ABS, POPC, CLZ, CTZ (R26, R40 to R50). -/
theorem test_decode_6 :
    decodeTableWord 32 0b10111001000101001010111011110101 = some (.atomCasPromote ⟨⟨true, 2⟩, true, .v 10, .ln, .dev, true⟩) ∧
    decodeTableWord 32 0b00111011000101001010111011010101 = some (.atomHacc ⟨⟨true, 2⟩, false, .v 10, .ln⟩) ∧
    decodeTableWord 32 0b11111111111111110110111100110101 = some (.br ⟨⟨true, 2⟩, true, false, true, 0x3FFFD#18⟩) ∧
    decodeTableWord 32 0b11111111111111110110111101110101 = some (.call ⟨⟨true, 2⟩, true, false, true, 0x3FFFD#18⟩) ∧
    decodeTableWord 32 0b10000000000000000001111111100101 = some (.imx (0x1000032#25)) ∧
    decodeTableWord 32 0b00000000000000000000000000000001 = some .ill ∧
    decodeTableWord 16 0b0000000000000000 = some .illParcel ∧
    decodeTableWord 32 0b00000001111111111110111110110101 = some (.mov ⟨⟨true, 2⟩, true, .m 2, .s 31⟩) ∧
    decodeTableWord 32 0b00000011111111111110111110110101 = some (.notOp ⟨⟨true, 2⟩, true, .m 2, .s 31⟩) ∧
    decodeTableWord 32 0b00000101111111111110111110110101 = some (.negOp ⟨⟨true, 2⟩, true, .m 2, .s 31⟩) ∧
    decodeTableWord 32 0b00000111111111111110111110110101 = some (.absOp ⟨⟨true, 2⟩, true, .m 2, .s 31⟩) ∧
    decodeTableWord 32 0b00001001111111111110111110110101 = some (.popc ⟨⟨true, 2⟩, true, .m 2, .s 31⟩) ∧
    decodeTableWord 32 0b00001011111111111110111110110101 = some (.clz ⟨⟨true, 2⟩, true, .m 2, .s 31⟩) ∧
    decodeTableWord 32 0b00001101111111111110111110110101 = some (.ctz ⟨⟨true, 2⟩, true, .m 2, .s 31⟩) := by decide +kernel

/-- BREV, BSWAP, SX8, SX16, SX32, ZX8, ZX16, ZX32, MOVS, URD, UWR, FNEG, FABS, DNEG (R26, R40 to R50). -/
theorem test_decode_7 :
    decodeTableWord 32 0b00001111111111111110111110110101 = some (.brev ⟨⟨true, 2⟩, true, .m 2, .s 31⟩) ∧
    decodeTableWord 32 0b00010001111111111110111110110101 = some (.bswap ⟨⟨true, 2⟩, true, .m 2, .s 31⟩) ∧
    decodeTableWord 32 0b00010011111111111110111110110101 = some (.sx8 ⟨⟨true, 2⟩, true, .m 2, .s 31⟩) ∧
    decodeTableWord 32 0b00010101111111111110111110110101 = some (.sx16 ⟨⟨true, 2⟩, true, .m 2, .s 31⟩) ∧
    decodeTableWord 32 0b00010111111111111110111110110101 = some (.sx32 ⟨⟨true, 2⟩, true, .m 2, .s 31⟩) ∧
    decodeTableWord 32 0b00011001111111111110111110110101 = some (.zx8 ⟨⟨true, 2⟩, true, .m 2, .s 31⟩) ∧
    decodeTableWord 32 0b00011011111111111110111110110101 = some (.zx16 ⟨⟨true, 2⟩, true, .m 2, .s 31⟩) ∧
    decodeTableWord 32 0b00011101111111111110111110110101 = some (.zx32 ⟨⟨true, 2⟩, true, .m 2, .s 31⟩) ∧
    decodeTableWord 32 0b00111010000000000111111110010101 = some (.movs ⟨⟨true, 2⟩, false, .v 7, 13⟩) ∧
    decodeTableWord 32 0b00111101111111111110111110110101 = some (.urd ⟨⟨true, 2⟩, true, .m 2, .s 31⟩) ∧
    decodeTableWord 32 0b00111111000100111011111110010101 = some (.uwr ⟨⟨true, 2⟩, .v 59, .z⟩) ∧
    decodeTableWord 32 0b01000001111111111110111110110101 = some (.fneg ⟨⟨true, 2⟩, true, .m 2, .s 31⟩) ∧
    decodeTableWord 32 0b01000011111111111110111110110101 = some (.fabs ⟨⟨true, 2⟩, true, .m 2, .s 31⟩) ∧
    decodeTableWord 32 0b01000101111111111110111110110101 = some (.dneg ⟨⟨true, 2⟩, true, .m 2, .s 31⟩) := by decide +kernel

/-- DABS, FRCP, FRSQ, FSQRT, FEX2, FLG2, DRCP, DSQRT, DRSQ, FSCALE, DSCALE, FXPN, DXPN, EX2S (R26, R40 to R50). -/
theorem test_decode_8 :
    decodeTableWord 32 0b01000111111111111110111110110101 = some (.dabs ⟨⟨true, 2⟩, true, .m 2, .s 31⟩) ∧
    decodeTableWord 32 0b01001001111111111110111110110101 = some (.frcp ⟨⟨true, 2⟩, true, .m 2, .s 31⟩) ∧
    decodeTableWord 32 0b01001011111111111110111110110101 = some (.frsq ⟨⟨true, 2⟩, true, .m 2, .s 31⟩) ∧
    decodeTableWord 32 0b01001101111111111110111110110101 = some (.fsqrt ⟨⟨true, 2⟩, true, .m 2, .s 31⟩) ∧
    decodeTableWord 32 0b01001111111111111110111110110101 = some (.fex2 ⟨⟨true, 2⟩, true, .m 2, .s 31⟩) ∧
    decodeTableWord 32 0b01010001111111111110111110110101 = some (.flg2 ⟨⟨true, 2⟩, true, .m 2, .s 31⟩) ∧
    decodeTableWord 32 0b01010011111111111110111110110101 = some (.drcp ⟨⟨true, 2⟩, true, .m 2, .s 31⟩) ∧
    decodeTableWord 32 0b01010101111111111110111110110101 = some (.dsqrt ⟨⟨true, 2⟩, true, .m 2, .s 31⟩) ∧
    decodeTableWord 32 0b01010111111111111110111110110101 = some (.drsq ⟨⟨true, 2⟩, true, .m 2, .s 31⟩) ∧
    decodeTableWord 32 0b01011001111111111110111110110101 = some (.fscale ⟨⟨true, 2⟩, true, .m 2, .s 31⟩) ∧
    decodeTableWord 32 0b01011011111111111110111110110101 = some (.dscale ⟨⟨true, 2⟩, true, .m 2, .s 31⟩) ∧
    decodeTableWord 32 0b01011101111111111110111110110101 = some (.fxpn ⟨⟨true, 2⟩, true, .m 2, .s 31⟩) ∧
    decodeTableWord 32 0b01011111111111111110111110110101 = some (.dxpn ⟨⟨true, 2⟩, true, .m 2, .s 31⟩) ∧
    decodeTableWord 32 0b01100001111111111110111110110101 = some (.ex2s ⟨⟨true, 2⟩, true, .m 2, .s 31⟩) := by decide +kernel

/-- FRINT_RN, FRINT_RZ, FRINT_RM, FRINT_RP, DRINT_RN, DRINT_RZ, DRINT_RM, DRINT_RP, CVT_F64_F32, CVT_F32_F64, CVT_F16_F32, CVT_BF16_F32, CVT_F32_F16, CVT_F32_BF16 (R26, R40 to R50). -/
theorem test_decode_9 :
    decodeTableWord 32 0b01100011111111111110111110110101 = some (.frintRn ⟨⟨true, 2⟩, true, .m 2, .s 31⟩) ∧
    decodeTableWord 32 0b01100101111111111110111110110101 = some (.frintRz ⟨⟨true, 2⟩, true, .m 2, .s 31⟩) ∧
    decodeTableWord 32 0b01100111111111111110111110110101 = some (.frintRm ⟨⟨true, 2⟩, true, .m 2, .s 31⟩) ∧
    decodeTableWord 32 0b01101001111111111110111110110101 = some (.frintRp ⟨⟨true, 2⟩, true, .m 2, .s 31⟩) ∧
    decodeTableWord 32 0b01101011111111111110111110110101 = some (.drintRn ⟨⟨true, 2⟩, true, .m 2, .s 31⟩) ∧
    decodeTableWord 32 0b01101101111111111110111110110101 = some (.drintRz ⟨⟨true, 2⟩, true, .m 2, .s 31⟩) ∧
    decodeTableWord 32 0b01101111111111111110111110110101 = some (.drintRm ⟨⟨true, 2⟩, true, .m 2, .s 31⟩) ∧
    decodeTableWord 32 0b01110001111111111110111110110101 = some (.drintRp ⟨⟨true, 2⟩, true, .m 2, .s 31⟩) ∧
    decodeTableWord 32 0b01110011111111111110111110110101 = some (.cvtF64F32 ⟨⟨true, 2⟩, true, .m 2, .s 31⟩) ∧
    decodeTableWord 32 0b01110101111111111110111110110101 = some (.cvtF32F64 ⟨⟨true, 2⟩, true, .m 2, .s 31⟩) ∧
    decodeTableWord 32 0b01110111111111111110111110110101 = some (.cvtF16F32 ⟨⟨true, 2⟩, true, .m 2, .s 31⟩) ∧
    decodeTableWord 32 0b01111001111111111110111110110101 = some (.cvtBf16F32 ⟨⟨true, 2⟩, true, .m 2, .s 31⟩) ∧
    decodeTableWord 32 0b01111011111111111110111110110101 = some (.cvtF32F16 ⟨⟨true, 2⟩, true, .m 2, .s 31⟩) ∧
    decodeTableWord 32 0b01111101111111111110111110110101 = some (.cvtF32Bf16 ⟨⟨true, 2⟩, true, .m 2, .s 31⟩) := by decide +kernel

/-- CVT_F32_S64, CVT_F32_N64, CVT_F64_S64, CVT_F64_N64, CVT_S32_F32, CVT_N32_F32, CVT_S64_F32, CVT_N64_F32, CVT_S32_F64, CVT_N32_F64, CVT_S64_F64, CVT_N64_F64, ELECT, VANY (R26, R40 to R50). -/
theorem test_decode_10 :
    decodeTableWord 32 0b01111111111111111110111110110101 = some (.cvtF32S64 ⟨⟨true, 2⟩, true, .m 2, .s 31⟩) ∧
    decodeTableWord 32 0b10000001111111111110111110110101 = some (.cvtF32N64 ⟨⟨true, 2⟩, true, .m 2, .s 31⟩) ∧
    decodeTableWord 32 0b10000011111111111110111110110101 = some (.cvtF64S64 ⟨⟨true, 2⟩, true, .m 2, .s 31⟩) ∧
    decodeTableWord 32 0b10000101111111111110111110110101 = some (.cvtF64N64 ⟨⟨true, 2⟩, true, .m 2, .s 31⟩) ∧
    decodeTableWord 32 0b10000111111111111110111110110101 = some (.cvtS32F32 ⟨⟨true, 2⟩, true, .m 2, .s 31⟩) ∧
    decodeTableWord 32 0b10001001111111111110111110110101 = some (.cvtN32F32 ⟨⟨true, 2⟩, true, .m 2, .s 31⟩) ∧
    decodeTableWord 32 0b10001011111111111110111110110101 = some (.cvtS64F32 ⟨⟨true, 2⟩, true, .m 2, .s 31⟩) ∧
    decodeTableWord 32 0b10001101111111111110111110110101 = some (.cvtN64F32 ⟨⟨true, 2⟩, true, .m 2, .s 31⟩) ∧
    decodeTableWord 32 0b10001111111111111110111110110101 = some (.cvtS32F64 ⟨⟨true, 2⟩, true, .m 2, .s 31⟩) ∧
    decodeTableWord 32 0b10010001111111111110111110110101 = some (.cvtN32F64 ⟨⟨true, 2⟩, true, .m 2, .s 31⟩) ∧
    decodeTableWord 32 0b10010011111111111110111110110101 = some (.cvtS64F64 ⟨⟨true, 2⟩, true, .m 2, .s 31⟩) ∧
    decodeTableWord 32 0b10010101111111111110111110110101 = some (.cvtN64F64 ⟨⟨true, 2⟩, true, .m 2, .s 31⟩) ∧
    decodeTableWord 32 0b10100000000000111101111110010101 = some (.elect ⟨⟨true, 2⟩, .m 1⟩) ∧
    decodeTableWord 32 0b10100011000100111011111110010101 = some (.vany ⟨⟨true, 2⟩, .v 59, .z⟩) := by decide +kernel

/-- VALL, VBAL, SHFI, SHFA, SHFB, SHFX, RADD, RMIN_S, RMAX_S, RFADD, RDADD, SCAN, MATCH, GPART (R26, R40 to R50). -/
theorem test_decode_11 :
    decodeTableWord 32 0b10100101000100111011111110010101 = some (.vall ⟨⟨true, 2⟩, .v 59, .z⟩) ∧
    decodeTableWord 32 0b10100111000100111011111110010101 = some (.vbal ⟨⟨true, 2⟩, .v 59, .z⟩) ∧
    decodeTableWord 32 0b10101001000100111011111110010101 = some (.shfi ⟨⟨true, 2⟩, .v 59, .z⟩) ∧
    decodeTableWord 32 0b10101011000100111011111110010101 = some (.shfa ⟨⟨true, 2⟩, .v 59, .z⟩) ∧
    decodeTableWord 32 0b10101101000100111011111110010101 = some (.shfb ⟨⟨true, 2⟩, .v 59, .z⟩) ∧
    decodeTableWord 32 0b10101111000100111011111110010101 = some (.shfx ⟨⟨true, 2⟩, .v 59, .z⟩) ∧
    decodeTableWord 32 0b10110001000100111011111110010101 = some (.radd ⟨⟨true, 2⟩, .v 59, .z⟩) ∧
    decodeTableWord 32 0b10110011000100111011111110010101 = some (.rminS ⟨⟨true, 2⟩, .v 59, .z⟩) ∧
    decodeTableWord 32 0b10110101000100111011111110010101 = some (.rmaxS ⟨⟨true, 2⟩, .v 59, .z⟩) ∧
    decodeTableWord 32 0b10110111000100111011111110010101 = some (.rfadd ⟨⟨true, 2⟩, .v 59, .z⟩) ∧
    decodeTableWord 32 0b10111001000100111011111110010101 = some (.rdadd ⟨⟨true, 2⟩, .v 59, .z⟩) ∧
    decodeTableWord 32 0b10111011000100111011111110010101 = some (.scan ⟨⟨true, 2⟩, .v 59, .z⟩) ∧
    decodeTableWord 32 0b10111101000100111011111110010101 = some (.matchOp ⟨⟨true, 2⟩, .v 59, .z⟩) ∧
    decodeTableWord 32 0b10111110111011000000111110010101 = some (.gpart ⟨⟨true, 2⟩, .v 59⟩) := by decide +kernel

/-- NOP, EXIT, BRK, TRAP, YIELD, RGN, BND, FENCE_GRP, FENCE_CORE, FENCE_DIE, FENCE_DEV, FENCE_SYS, OFENCE, BAR_ARR (R26, R40 to R50). -/
theorem test_decode_12 :
    decodeTableWord 32 0b11000000000000000000111110010101 = some (.nop ⟨⟨true, 2⟩⟩) ∧
    decodeTableWord 32 0b11000010111011000000111110010101 = some (.exit ⟨⟨true, 2⟩, .v 59⟩) ∧
    decodeTableWord 32 0b11000100000000000000111110010101 = some (.brk ⟨⟨true, 2⟩⟩) ∧
    decodeTableWord 32 0b11000110111011000000111110010101 = some (.trap ⟨⟨true, 2⟩, .v 59⟩) ∧
    decodeTableWord 32 0b11001000000000000000111110010101 = some (.yield ⟨⟨true, 2⟩⟩) ∧
    decodeTableWord 32 0b11001010000000000000111110010101 = some (.rgn ⟨⟨true, 2⟩⟩) ∧
    decodeTableWord 32 0b11001100000000000000111110010101 = some (.bnd ⟨⟨true, 2⟩⟩) ∧
    decodeTableWord 32 0b11001110000000000000111110010101 = some (.fenceGrp ⟨⟨true, 2⟩⟩) ∧
    decodeTableWord 32 0b11010000000000000000111110010101 = some (.fenceCore ⟨⟨true, 2⟩⟩) ∧
    decodeTableWord 32 0b11010010000000000000111110010101 = some (.fenceDie ⟨⟨true, 2⟩⟩) ∧
    decodeTableWord 32 0b11010100000000000000111110010101 = some (.fenceDev ⟨⟨true, 2⟩⟩) ∧
    decodeTableWord 32 0b11010110000000000000111110010101 = some (.fenceSys ⟨⟨true, 2⟩⟩) ∧
    decodeTableWord 32 0b11011000000000000000111110010101 = some (.ofence ⟨⟨true, 2⟩⟩) ∧
    decodeTableWord 32 0b11011010000000001111111110010101 = some (.barArr ⟨⟨true, 2⟩, 15⟩) := by decide +kernel

/-- BAR_WAIT, BAR_SYNC, BAR_INIT, WAIT, CPY, GATH, MXL, ORES, ORLS, STRM, JMPI, CALLI, RET, ICINV (R26, R40 to R50). -/
theorem test_decode_13 :
    decodeTableWord 32 0b11011100000000001111111110010101 = some (.barWait ⟨⟨true, 2⟩, 15⟩) ∧
    decodeTableWord 32 0b11011110000000001111111110010101 = some (.barSync ⟨⟨true, 2⟩, 15⟩) ∧
    decodeTableWord 32 0b11100001001000001111111110010101 = some (.barInit ⟨⟨true, 2⟩, 15, .xi⟩) ∧
    decodeTableWord 32 0b11100011000100111011111110010101 = some (.wait ⟨⟨true, 2⟩, .v 59, .z⟩) ∧
    decodeTableWord 32 0b11100101001000000111111110010101 = some (.cpy ⟨⟨true, 2⟩, 7, .xi⟩) ∧
    decodeTableWord 32 0b11100111001000000111111110010101 = some (.gath ⟨⟨true, 2⟩, 7, .xi⟩) ∧
    decodeTableWord 32 0b11101001000100111011111110010101 = some (.mxl ⟨⟨true, 2⟩, .v 59, .z⟩) ∧
    decodeTableWord 32 0b11101011000100111011111110010101 = some (.ores ⟨⟨true, 2⟩, .v 59, .z⟩) ∧
    decodeTableWord 32 0b11101100111011000000111110010101 = some (.orls ⟨⟨true, 2⟩, .v 59⟩) ∧
    decodeTableWord 32 0b11101111001000000011111110010101 = some (.strm ⟨⟨true, 2⟩, 3, .xi⟩) ∧
    decodeTableWord 32 0b11110000111011000000111110010101 = some (.jmpi ⟨⟨true, 2⟩, .v 59⟩) ∧
    decodeTableWord 32 0b11110010111011000000111110010101 = some (.calli ⟨⟨true, 2⟩, .v 59⟩) ∧
    decodeTableWord 32 0b11110100000000000000111110010101 = some (.ret ⟨⟨true, 2⟩⟩) ∧
    decodeTableWord 32 0b11110111000100111011111110010101 = some (.icinv ⟨⟨true, 2⟩, .v 59, .z⟩) := by decide +kernel

/-- LAUNCH, CANCEL, SPEC_COMMIT, SPEC_DISCARD, DBG_HALT, DBG_RESUME, DBG_STEP, DBG_SETMASK, DBG_WSET, DBG_WCLR, DBG_STATUS, DBG_READREG, DBG_BPSET, DBG_BPCLR (R26, R40 to R50). -/
theorem test_decode_14 :
    decodeTableWord 32 0b11111001000100111011111110010101 = some (.launch ⟨⟨true, 2⟩, .v 59, .z⟩) ∧
    decodeTableWord 32 0b11111011001000000100111110010101 = some (.cancel ⟨⟨true, 2⟩, 4, .xi⟩) ∧
    decodeTableWord 32 0b11111100111011000000111110010101 = some (.specCommit ⟨⟨true, 2⟩, .v 59⟩) ∧
    decodeTableWord 32 0b11111100111011000001111110010101 = some (.specDiscard ⟨⟨true, 2⟩, .v 59⟩) ∧
    decodeTableWord 32 0b11111110111011000000111110010101 = some (.dbgHalt ⟨⟨true, 2⟩, .v 59⟩) ∧
    decodeTableWord 32 0b11111110111011000001111110010101 = some (.dbgResume ⟨⟨true, 2⟩, .v 59⟩) ∧
    decodeTableWord 32 0b11111110111011000010111110010101 = some (.dbgStep ⟨⟨true, 2⟩, .v 59⟩) ∧
    decodeTableWord 32 0b11111110111011000011111110010101 = some (.dbgSetmask ⟨⟨true, 2⟩, .v 59⟩) ∧
    decodeTableWord 32 0b11111110111011000100111110010101 = some (.dbgWset ⟨⟨true, 2⟩, .v 59⟩) ∧
    decodeTableWord 32 0b11111110111011000101111110010101 = some (.dbgWclr ⟨⟨true, 2⟩, .v 59⟩) ∧
    decodeTableWord 32 0b11111110111011000110111110010101 = some (.dbgStatus ⟨⟨true, 2⟩, .v 59⟩) ∧
    decodeTableWord 32 0b11111110111011000111111110010101 = some (.dbgReadreg ⟨⟨true, 2⟩, .v 59⟩) ∧
    decodeTableWord 32 0b11111110111011001000111110010101 = some (.dbgBpset ⟨⟨true, 2⟩, .v 59⟩) ∧
    decodeTableWord 32 0b11111110111011001001111110010101 = some (.dbgBpclr ⟨⟨true, 2⟩, .v 59⟩) := by decide +kernel

/-- MOV_COMPACT, IADD_COMPACT, ISUB_COMPACT, IADD_32_COMPACT, IADDI, AND_COMPACT, OR_COMPACT, XOR_COMPACT, SHLI, SHRI, FADD_COMPACT, FSUB_COMPACT, FMUL_COMPACT, FMAX_COMPACT (R26, R40 to R50). -/
theorem test_decode_15 :
    decodeTableWord 16 0b1100101011100000 = some (.movCompact ⟨.v 23, .b 1⟩) ∧
    decodeTableWord 16 0b1100101011100010 = some (.iaddCompact ⟨.v 23, .b 1⟩) ∧
    decodeTableWord 16 0b1100101011100100 = some (.isubCompact ⟨.v 23, .b 1⟩) ∧
    decodeTableWord 16 0b1100101011100110 = some (.iadd32Compact ⟨.v 23, .b 1⟩) ∧
    decodeTableWord 16 0b1111000011101000 = some (.iaddi ⟨.v 7, 0x1E#5⟩) ∧
    decodeTableWord 16 0b1100101011101010 = some (.andCompact ⟨.v 23, .b 1⟩) ∧
    decodeTableWord 16 0b1100101011101100 = some (.orCompact ⟨.v 23, .b 1⟩) ∧
    decodeTableWord 16 0b1100101011101110 = some (.xorCompact ⟨.v 23, .b 1⟩) ∧
    decodeTableWord 16 0b1111000011110000 = some (.shli ⟨.v 7, 0x1E#5⟩) ∧
    decodeTableWord 16 0b1111000011110010 = some (.shri ⟨.v 7, 0x1E#5⟩) ∧
    decodeTableWord 16 0b1100101011110100 = some (.faddCompact ⟨.v 23, .b 1⟩) ∧
    decodeTableWord 16 0b1100101011110110 = some (.fsubCompact ⟨.v 23, .b 1⟩) ∧
    decodeTableWord 16 0b1100101011111000 = some (.fmulCompact ⟨.v 23, .b 1⟩) ∧
    decodeTableWord 16 0b1100101011111010 = some (.fmaxCompact ⟨.v 23, .b 1⟩) := by decide +kernel

/-- DADD_COMPACT, DMUL_COMPACT (R26, R40 to R50). -/
theorem test_decode_16 :
    decodeTableWord 16 0b1100101011111100 = some (.daddCompact ⟨.v 23, .b 1⟩) ∧
    decodeTableWord 16 0b1100101011111110 = some (.dmulCompact ⟨.v 23, .b 1⟩) := by decide +kernel

/-! ## Words that decode refuses, by name -/

def refusal (ps : List Parcel) : Option DecodeError := match decodeParcels ps with | .error e => some e | .ok _ => none
def accepted (ps : List Parcel) : Option Instr := match decodeParcels ps with | .ok i => some i | .error _ => none

/-- XOP FN 0x0F has no function (R50, R51). -/
theorem test_refuse_function : refusal (parcels32 0x1E000F8F) = some .xopFunction := by decide +kernel
/-- ICMP.s with C = 7 (R40, R51). -/
theorem test_refuse_compare : refusal (parcels32 0x00038A4F) = some .compareCode := by decide +kernel
/-- LOOP with bit 5 set (R45, R51). -/
theorem test_refuse_loop : refusal (parcels32 0x000004AF) = some .loopReserved := by decide +kernel
/-- ATOM with the code 14 (R43, R51). -/
theorem test_refuse_atom : refusal (parcels32 0x1C000ECF) = some .atomCode := by decide +kernel
/-- NOP with D nonzero (R46, R51). -/
theorem test_refuse_unused : refusal (parcels32 0xC0001F8F) = some .xopUnused := by decide +kernel
/-- The first parcel of a 32-bit instruction without the second (R23). -/
theorem test_refuse_short : refusal [0x0001] = some .short := by decide +kernel
/-- The parcel 0x0000, and a word with MAJ 0, decode to the instructions that trap with ILL (R48, R49). -/
theorem test_ill : accepted [0] = some .illParcel ∧ accepted (parcels32 0x0000000F) = some .ill := by decide +kernel

/-! ## Ill-formed instructions (R35, R36, R37, R48, R51) -/

/-- A guard that is always true. -/
abbrev g7 : Guard := ⟨false, 7⟩

/-- A small integer stands in the A position. -/
theorem test_illformed_a : ([.iadd ⟨g7, false, .v 4, .imm 12, .v 2⟩, .ld32 ⟨g7, false, .v 4, .imm 12, .v 2⟩, .mov ⟨g7, false, .v 4, .imm 12⟩,
    .icmpS ⟨g7, .eq, 0, .imm 12, .v 2⟩, .loop ⟨g7, .imm 12, 3⟩, .exit ⟨g7, .imm 12⟩, .cpy ⟨g7, 0, .imm 12⟩, .radd ⟨g7, .v 4, .imm 12⟩,
    .atomAdd ⟨g7, false, .v 4, .imm 12, .core, true⟩] : List Instr).all (fun i => !WellFormed i) = true := by decide +kernel
/-- A stream port stands in D where it may not: an accumulator, a load, a store, a shuffle, a 16-bit form. -/
theorem test_illformed_port : ([.imac ⟨g7, false, .m 0, .v 1, .v 2⟩, .ld64 ⟨g7, false, .m 0, .v 1, .v 2⟩, .st8 ⟨g7, false, .m 0, .v 1, .v 2⟩,
    .shfi ⟨g7, .m 0, .v 1⟩, .iaddCompact ⟨.m 0, .v 1⟩, .iaddi ⟨.m 0, 1⟩, .fscale ⟨g7, false, .m 0, .v 1⟩, .wait ⟨g7, .m 0, .v 1⟩] : List Instr).all
    (fun i => !WellFormed i) = true := by decide +kernel
/-- A compare and swap with an odd D, and with a port. -/
theorem test_illformed_even : ([.atomCas ⟨g7, false, .v 5, .v 1, .core, true⟩, .atomCasPromote ⟨g7, false, .m 1, .v 1, .core, true⟩,
    .atomHacc ⟨g7, false, .v 7, .v 1⟩] : List Instr).all (fun i => !WellFormed i) = true := by decide +kernel
/-- EX2S whose D + 1 is no register. -/
theorem test_illformed_pair : ([.ex2s ⟨g7, false, .v 59, .v 1⟩, .ex2s ⟨g7, false, .m 0, .v 1⟩] : List Instr).all (fun i => !WellFormed i) = true := by
  decide +kernel
/-- The 16-bit MOV that would be the parcel 0x0000, the encodings of ILL, and a step of the device. -/
theorem test_illformed_word : ([.movCompact ⟨.v 0, .v 0⟩, .ill, .illParcel, .powerOnReset] : List Instr).all (fun i => !WellFormed i) = true := by decide +kernel
/-- The same forms with operands that the rules allow are well formed, which is what RoundTrip asks. -/
theorem test_wellformed : ([.iadd ⟨g7, false, .m 3, .v 1, .imm 0⟩, .imac ⟨g7, false, .v 59, .xi, .s 15⟩, .atomCas ⟨g7, true, .v 4, .v 1, .dev, false⟩,
    .ex2s ⟨g7, false, .v 58, .v 1⟩, .ex2s ⟨g7, true, .m 0, .v 1⟩, .movCompact ⟨.v 0, .v 1⟩, .movCompact ⟨.m 2, .v 0⟩, .imx 0x1FFFFFF] : List Instr).all
    WellFormed = true := by decide +kernel


/-! ## States that meet the hypotheses of the statements

Each theorem below names the statement; a check readyV, skipsV, reachesV or performedV stands for the hypothesis Ready, Skipped, Reaches or
Performed that the lemma of its name gives. -/

/-- The small machine with bytes at an address of main memory. -/
def putMem (s : State) (d : Nat) (bs : List Byte) : State := { s with mem := s.mem.setBytes d bs }
/-- The small machine with its unit changed. -/
def modU (f : TUnit → TUnit) (s : State) : State := s.modUnit uid0 f
/-- The parcels that the placed thread fetches. -/
def fetches (s : State) : Option (List Parcel) :=
  match s.fetchWord (thr s) (thr s).pw with | .ok ps _ => some ps | _ => none
def parcelAt (s : State) (va : Word) : Option Parcel := match s.fetchParcel (thr s) va with | .ok p _ => some p | _ => none

/-- RoundTrip: a well-formed instruction with parcels after it. -/
theorem test_meets_roundTrip : WellFormed (.iadd ⟨g7, false, .v 4, .v 1, .imm 0⟩) = true ∧
    accepted (encode (.iadd ⟨g7, false, .v 4, .v 1, .imm 0⟩) ++ [0xFFFF]) = some (.iadd ⟨g7, false, .v 4, .v 1, .imm 0⟩) := by decide +kernel

/-- StepRunsDecoded, first clause: a thread at the head of the queue whose parcels decode, and one whose parcels do not. -/
theorem test_meets_step : [0x04082106F, 0x1E000F8F].all (fun w =>
    let s := State.reset.withFetchWord 32 w
    let r : State := { s with issueQ := [] }
    s.issueQ == [tk0] && (s.thread? tk0).isSome && (thr s).live && (thr s).park.isNone && (r.bpHit (thr s)).isNone && (fetches r).isSome &&
      ((fetches r).map fun ps => (accepted ps).isSome) == some (w != 0x1E000F8F)) = true := by decide +kernel
/-- StepRunsDecoded: a parked thread in the queue; a thread at an armed comparator; an event in the schedule and no thread. -/
theorem test_meets_step_other :
    (let s : State := { with_ (fun t => { t with park := some .utable }) with issueQ := [tk0] }
     (s.thread? tk0).isSome = true ∧ (thr s).park.isSome = true ∧ (thr s).resume_ = false) ∧
    (let s := modU (fun u => { u with dbg := { u.dbg with bps := [some 0x200000] } }) w0
     (thr s).live = true ∧ (thr s).park = none ∧ s.bpHit (thr s) = some 0) ∧
    (let s : State := { State.reset with sched := [{ dt := 3, ev := .powerOnReset }] }
     s.issueQ = [] ∧ s.sched.length = 1 ∧ isEvent .powerOnReset = true) := by decide +kernel
/-- StepRunsDecoded, the fetch: an even and an odd first parcel; a parcel in the buffer; one in the loop buffer; one in a cached line; one at home. -/
theorem test_meets_fetch :
    (let s := State.reset.withFetchWord 32 0x4082106F
     parcelAt s 0x200000 = some 0x106F ∧ parcelAt s 0x200002 = some 0x4082 ∧ parcelAt s 0x200004 = some 0) ∧
    (let s := with_ fun t => { t with pbuf := [(0x200000, 0x12)] }
     pbufGet (thr s).pbuf 0x200000 = some 0x12) ∧
    (let s := w0.modCore 0 fun c => { c with arrays := setAt c.arrays 0 { (c.arrays.getD 0 {}) with loopBuf := [{ tag := w0.fetchTag (thr w0), ps := [(0x200000, 0x12)] }] } }
     pbufGet (thr s).pbuf 0x200000 = none ∧ loopGet (s.arrayAt (thr s)).loopBuf (s.fetchTag (thr s)) 0x200000 = some 0x12) ∧
    (let s := w0.modCore 0 fun c => { c with ic := [{ asn := 1, line := 0x200000 / 128, bytes := List.replicate 128 7 }] }
     pbufGet (thr s).pbuf 0x200000 = none ∧ loopGet (s.arrayAt (thr s)).loopBuf (s.fetchTag (thr s)) 0x200000 = none ∧ tagGlobal 0x200000 = true ∧
       ((s.core (s.ckOf (thr s).uid)).ic.find? fun l => l.asn == s.fetchTag (thr s) && l.line == 0x200000 / 128).isSome = true) ∧
    ((w0.core (w0.ckOf (thr w0).uid)).ic = [] ∧ (w0.threadXlate (thr w0) (thr w0).ftok 0x200000 3).1 = .ok (.home 0x200000) ∧
      (w0.threadXlate (thr w0) (thr w0).ftok 0x200000 3).2.targetErr 0x200000 2 true = none) := by decide +kernel

/-- StepKeepsInv and MemoryReadAfterWrite: the state after reset, and the small machine, meet the invariant. -/
theorem reset_inv : State.reset.Inv := by
  refine ⟨rfl, ?_, ?_, ?_⟩ <;> intro p hp <;> cases hp
theorem w0_inv : w0.Inv := by
  refine ⟨by decide +kernel, ?_, ?_, ?_⟩
  · have h : w0.threads = [(tk0, thr w0)] := by decide +kernel
    intro p hp
    rw [h, List.mem_singleton] at hp
    subst hp
    refine ⟨by unfold EvenAddr; decide +kernel, by unfold EvenAddr; decide +kernel, ⟨by decide +kernel, ?_⟩, ⟨by decide +kernel, ?_⟩,
      by decide +kernel, by decide +kernel, by decide +kernel, by decide +kernel⟩
    · intro l hl; rw [show (thr w0).loops = [] by decide +kernel] at hl; cases hl
    · intro l hl; rw [show (thr w0).shadow.loops = [] by decide +kernel] at hl; cases hl
  · have h : w0.units.map (fun p => (p.2.scr, p.2.obuf, p.2.gangs.map (·.2.priv))) = [({}, {}, [{}])] := by decide +kernel
    intro p hp
    have := List.mem_map_of_mem (f := fun p : Nat × TUnit => (p.2.scr, p.2.obuf, p.2.gangs.map (·.2.priv))) hp
    rw [h, List.mem_singleton] at this
    injection this with h1 h2
    injection h2 with h2 h3
    refine ⟨by rw [h1]; rfl, by rw [h2]; rfl, fun g hg => ?_⟩
    have hm := List.mem_map_of_mem (f := fun q : Nat × Gang => q.2.priv) hg
    rw [h3, List.mem_singleton] at hm
    unfold Gang.Inv
    rw [hm]; rfl
  · have h : w0.hub.launches.all (fun p => p.2.desc.traph.toNat % 2 == 0 && p.2.desc.roles.all fun r => r.entry.toNat % 2 == 0) = true := by decide +kernel
    intro p hp
    rw [List.all_eq_true] at h
    have := h p hp
    rw [Bool.and_eq_true, List.all_eq_true] at this
    exact ⟨eq_of_beq this.1, fun r hr => eq_of_beq (this.2 r hr)⟩
/-- MemoryReadAfterWrite: a scratchpad, an operand buffer and the own windows of a gang are there. -/
theorem test_meets_memory : (w0.unit? uid0).isSome = true ∧ (w0.unit? (32 * uid0 / 32)).isSome = true := by decide +kernel

/-- SourceValues: a valid and a void latch, a near uniform with no write in flight, payloads of one and of two IMX words, sources without a port. -/
theorem test_meets_sources :
    (let s := with_ fun t => t.shift 7 0
     ((thr s).b.getD 0 {}).valid = true ∧ ((thr s).b.getD 3 {}).valid = false) ∧
    (w0.unit? (thr w0).uid).isSome = true ∧ ((w0.unit? (thr w0).uid).map fun u => u.uwrFlight tk0 31) = some false ∧
    xiWord .int [0x1FFFFFF] = some (-1) ∧ (xiWord .f32 [0, 1]).isSome = false ∧ xiWord .f32 [0x1FFFFFF, 0] = some 0xFFFFFF80 ∧
    readyV (.iadd ⟨g7, false, .v 4, .v 1, .imm 22⟩) w0 [0x300000, 11] = true := by decide +kernel
/-- A thread with an in-port bound to two words of 8 bytes, whose first element is there. -/
def portIn : State := with_ fun t => { t with ports := setAt t.ports 1 ⟨some ⟨0x300000, 8, 2, 0, 3, 0x300100⟩, [{ val := 42 }], [], none, none⟩ }
theorem test_meets_port : (portIn.thread? tk0).isSome = true ∧
    (((thr portIn).ports.getD 1 {}).bind.map fun b => (b.isOut, decide (b.pos + 1 ≤ b.count))) = some (false, true) ∧ finReady 1 ((thr portIn).ports.getD 1 {}).fin = true ∧
    (((thr portIn).ports.getD 1 {}).fin.map fun e => (e.val, e.err, e.loc)) = [(42, none, none)] := by decide +kernel

/-- A three-operand form of every instruction of that shape. -/
def forms3 (d : Dst) (a b : Src) : List Instr :=
  [Instr.iadd, .isub, .imul, .iadd32, .isub32, .imul32, .imulhS, .imulhN, .andOp, .orOp, .xorOp, .andn, .shl, .shr, .asr, .iminS, .imaxS, .iminN,
   .imaxN, .fadd, .fsub, .fmul, .fmin, .fmax, .dadd, .dsub, .dmul, .dmin, .dmax, .hadd, .hmul, .badd, .bmul, .sel].map fun mk => mk ⟨g7, false, d, a, b⟩
def formsAcc : List Instr := [Instr.imac, .imac32, .ffma, .dfma, .hfma, .bfma].map fun mk => mk ⟨g7, false, .v 3, .v 1, .v 2⟩
def forms2 : List Instr :=
  [Instr.mov, .notOp, .negOp, .absOp, .popc, .clz, .ctz, .brev, .bswap, .sx8, .sx16, .sx32, .zx8, .zx16, .zx32, .fneg, .fabs, .dneg, .dabs, .frcp, .frsq,
   .fsqrt, .fex2, .flg2, .drcp, .dsqrt, .drsq, .fxpn, .dxpn, .ex2s, .frintRn, .frintRz, .frintRm, .frintRp, .drintRn, .drintRz, .drintRm, .drintRp,
   .cvtF64F32, .cvtF32F64, .cvtF16F32, .cvtBf16F32, .cvtF32F16, .cvtF32Bf16, .cvtF32S64, .cvtF32N64, .cvtF64S64, .cvtF64N64, .cvtS32F32, .cvtN32F32,
   .cvtS64F32, .cvtN64F32, .cvtS32F64, .cvtN32F64, .cvtS64F64, .cvtN64F64].map fun mk => mk ⟨g7, false, .v 4, .v 2⟩
def formsC : List Instr :=
  [Instr.iaddCompact, .isubCompact, .iadd32Compact, .andCompact, .orCompact, .xorCompact, .faddCompact, .fsubCompact, .fmulCompact, .fmaxCompact,
   .daddCompact, .dmulCompact].map fun mk => mk ⟨.v 1, .v 2⟩

/-- IntegerResults, FloatResults and SelectAndSpecialReads: each three-operand form is ready, with its two sources. -/
theorem test_meets_three : (forms3 (.v 4) (.v 1) (.v 2)).all (fun i => readyV i w0 [0x300000, 8]) = true := by decide +kernel
theorem test_meets_accumulate : formsAcc.all (fun i => readyV i w0 [0x300000, 8, -5]) = true := by decide +kernel
/-- IntegerUnaryResults, FloatUnaryResults, ConversionResults and SelectAndSpecialReads: each form of one source is ready; FSCALE and DSCALE read D. -/
theorem test_meets_two : forms2.all (fun i => readyV i w0 [8]) = true := by decide +kernel
theorem test_meets_scale : readyV (.fscale ⟨g7, false, .v 1, .v 2⟩) w0 [8, 0x300000] = true ∧ readyV (.dscale ⟨g7, false, .v 1, .v 2⟩) w0 [8, 0x300000] = true := by
  decide +kernel
/-- CompactResults. -/
theorem test_meets_compact : formsC.all (fun i => readyV i w0 [0x300000, 8]) = true ∧ readyV (.movCompact ⟨.v 1, .v 2⟩) w0 [8] = true ∧
    [Instr.iaddi, .shli, .shri].all (fun mk => readyV (mk ⟨.v 1, 31⟩) w0 [0x300000]) = true := by decide +kernel
/-- The clauses of IntegerUnaryResults, FloatResults, FloatUnaryResults and ConversionResults about functions: nonzero words, lanes of 16 bits, a NaN, a range. -/
theorem test_meets_functions : (1 : Word) ≠ 0 ∧ (∀ x y z : Nat, (x + y + z) % 2 ^ 16 < 2 ^ 16) ∧ f32.isNan (0x7FC00000 % 2 ^ f32.width) = true ∧
    (-(2 : Int) ^ 31 ≤ 0 ∧ (0 : Int) ≤ 2 ^ 31 - 1) := ⟨by decide, fun _ _ _ => Nat.mod_lt _ (by decide), by decide +kernel, by decide⟩
/-- ConversionResults: the two sides of the bound above which f32 rounds to an infinity, and a tie at it. -/
theorem test_meets_bound :
    (let bound : ℚ := (2 - (2 : ℚ) ^ (-(f32.p + 1 : Int))) * (2 : ℚ) ^ f32.emax
     bound ≤ |(1 : ℚ) * (2 ^ 25 - 1 : ℕ) * (2 : ℚ) ^ (103 : Int)| ∧ |(-1 : ℚ) * (2 ^ 26 - 3 : ℕ) * (2 : ℚ) ^ (102 : Int)| < bound) ∧
    f32.rne (.fin false (2 ^ 25 - 1) 103) = 0x7F800000 ∧ f32.rne (.fin true (2 ^ 26 - 3) 102) = 0xFF7FFFFF := by
  refine ⟨⟨?_, ?_⟩, ?_, ?_⟩
  · norm_num [f32, Fmt.emax]
  · norm_num [f32, Fmt.emax, abs_of_nonneg]
  · decide +kernel
  · decide +kernel
/-- A result to an out-port whose next element may be written (Delivers, ResultFrame, DstFree). -/
def portOut : State := with_ fun t => { t with ports := setAt t.ports 2 ⟨some ⟨0x300000, 8, 2, 0, 11, 0x300100⟩, [], [], none, none⟩ }
theorem test_meets_outPort : (forms3 (.m 2) (.v 1) (.v 2)).all (fun i => readyV i portOut [0x300000, 8]) = true ∧
    portOut.outCheck tk0 (thr portOut) 2 = none := by decide +kernel
/-- ResultFrame: forms of classes 0 to 5 in each shape, MOVS, the compares and the 16-bit forms among them. -/
theorem test_meets_frame : (forms3 (.v 4) (.v 1) (.v 2) ++ formsAcc ++ forms2 ++ formsC ++ [Instr.movs ⟨g7, false, .v 4, 13⟩, Instr.icmpS ⟨g7, .lt, 6, .v 1, .v 2⟩,
    Instr.fcmp ⟨g7, .eq, 0, .v 1, .v 2⟩]).all (fun i => (instrInfo i).cls ≤ 5) = true := by decide +kernel

/-- CompareResults: each compare ready, and with a false guard. -/
theorem test_meets_compare :
    [Instr.icmpS, .icmpN].all (fun mk => readyV (mk ⟨g7, .ge, 6, .v 1, .v 2⟩) w0 [0x300000, 8] && skipsV (mk ⟨⟨true, 7⟩, .ge, 6, .v 1, .v 2⟩) w0) = true ∧
    [Instr.fcmp, .dcmp].all (fun mk => readyV (mk ⟨g7, .unord, 7, .v 1, .v 2⟩) w0 [0x300000, 8] && skipsV (mk ⟨⟨false, 0⟩, .unord, 7, .v 1, .v 2⟩) w0) = true := by
  decide +kernel
/-- SelectAndSpecialReads: SEL under either guard, MOVS of every id, URD of the last uniform, EX2S to a register. -/
theorem test_meets_special : readyV (.sel ⟨⟨true, 7⟩, false, .v 4, .v 1, .v 2⟩) w0 [0x300000, 8] = true ∧
    ((List.finRange 14).all fun k => readyV (.movs ⟨g7, false, .v 4, k⟩) w0 [0]) = true ∧
    (let s := with_ fun t => t.setReg 2 159
     readyV (.urd ⟨g7, false, .v 4, .v 2⟩) s [159] = true ∧ ((s.unit? (thr s).uid).map fun u => u.uwrFlight tk0 159) = some false) ∧
    readyV (.ex2s ⟨g7, false, .v 58, .v 2⟩) w0 [8] = true := by decide +kernel
/-- UniformWrite: a write of the last uniform; one write in flight. -/
theorem test_meets_uwr :
    (let s := with_ fun t => t.setReg 3 159
     readyV (.uwr ⟨g7, .v 3, .v 2⟩) s [8, 159] = true ∧ (s.unit? (thr s).uid).isSome = true) ∧
    (let r : UwrRec := { n := 255, val := 9, tk := tk0, arr := 0, seat := 0, done := 2 }
     ((modU (fun u => { u with uwr := [r] }) w0).unit? uid0).map (fun u => (u.uwr, decide (r.n < u.uni.length))) = some ([r], true)) := by decide +kernel
/-- FalseGuardSkips: false guards of each family. -/
theorem test_meets_skip : ([.iadd ⟨⟨true, 7⟩, false, .v 4, .v 1, .v 2⟩, .st64 ⟨⟨true, 7⟩, false, .v 4, .v 1, .v 2⟩, .exit ⟨⟨true, 7⟩, .v 1⟩,
    .radd ⟨⟨false, 3⟩, .v 4, .v 1⟩, .jmpi ⟨⟨false, 3⟩, .v 1⟩, .ret ⟨⟨false, 3⟩⟩, .cpy ⟨⟨false, 0⟩, 7, .v 1⟩] : List Instr).all
    (fun i => skipsV i w0 && !isEvent i && (instrInfo i).mode == .normal) = true := by decide +kernel
/-- OperandTrap: a small integer in A, a register beyond the role, xi without an IMX. -/
theorem test_meets_operand : w0.cur = some tk0 ∧ (w0.thread? tk0).isSome = true ∧
    ([.iadd ⟨g7, false, .v 4, .imm 12, .v 2⟩, .iadd ⟨⟨true, 7⟩, false, .v 4, .xi, .v 2⟩] : List Instr).all (fun i => !operandOk i 60 []) = true ∧
    operandOk (.iadd ⟨g7, false, .v 32, .v 1, .v 2⟩) 32 [] = false := by decide +kernel
/-- OperandTrap: each form that R33 and R35 to R39 refuse, in a role of 60 and of 32 registers. -/
theorem test_meets_refused :
    ((([(.iadd ⟨g7, false, .v 4, .imm 0, .v 2⟩, 60, []), (.iadd ⟨g7, false, .v 4, .v 1, .v 32⟩, 32, []), (.call ⟨g7, false, false, false, 0⟩, 59, []), (.calli ⟨g7, .v 1⟩, 8, []),
      (.ex2s ⟨g7, false, .v 59, .v 2⟩, 60, []), (.ex2s ⟨g7, false, .m 0, .v 2⟩, 60, []), (.ld64 ⟨g7, false, .m 3, .v 1, .v 2⟩, 60, []),
      (.st8 ⟨g7, false, .m 3, .v 1, .v 2⟩, 60, []), (.ldacq ⟨g7, false, .m 3, .v 1, false, .core, true⟩, 60, []), (.imac ⟨g7, false, .m 3, .v 1, .v 2⟩, 60, []),
      (.fscale ⟨g7, false, .m 3, .v 2⟩, 60, []), (.uwr ⟨g7, .m 3, .v 2⟩, 60, []), (.atomCas ⟨g7, false, .v 5, .v 1, .core, true⟩, 60, []),
      (.atomHacc ⟨g7, false, .v 30, .v 1⟩, 31, []), (.iadd ⟨g7, false, .v 4, .v 1, .xi⟩, 60, []),
      (.fadd ⟨g7, false, .v 4, .v 1, .xi⟩, 60, [0, 1]), (.hadd ⟨g7, false, .v 4, .v 1, .xi⟩, 60, [0, 0]), (.hadd ⟨g7, false, .v 4, .v 1, .xi⟩, 60, [1])] :
      List (Instr × Nat × List (BitVec 25))).all fun x => !operandOk x.1 x.2.1 x.2.2) = true) ∧
    (operandOk (.iadd ⟨g7, false, .v 4, .v 1, .xi⟩) 60 [5] = true ∧ operandOk (.iadd ⟨g7, false, .v 31, .v 1, .imm 22⟩) 32 [] = true) := by decide +kernel
/-- PendingErrorTrap: an error of a load of v1 waits, and the instruction reads v1. -/
theorem test_meets_pending :
    let s := with_ fun t => { t with errs := [{ regs := [1], cause := cMEMERR, tloc := 0x200010 }] }
    s.cur = some tk0 ∧ (s.thread? tk0).isSome = true ∧ operandOk (.iadd ⟨g7, false, .v 4, .v 1, .v 2⟩) 60 [] = true ∧
      ((instrInfo (.iadd ⟨g7, false, .v 4, .v 1, .v 2⟩)).dueError (thr s)).isSome = true := by decide +kernel


/-- The memory instructions in their forms of one shape. -/
def loads : List (Instr × Nat) := ([(Instr.ld8, 1), (.ld16, 2), (.ld32, 4), (.ld64, 8), (.ld8S, 1), (.ld16S, 2), (.ld32S, 4)] : List ((MemOp → Instr) × Nat)).map
  fun x => (x.1 ⟨g7, false, .v 4, .v 1, .v 2⟩, x.2)
def stores : List (Instr × Nat) := ([(Instr.st8, 1), (.st16, 2), (.st32, 4), (.st64, 8)] : List ((MemOp → Instr) × Nat)).map
  fun x => (x.1 ⟨g7, false, .v 3, .v 1, .v 2⟩, x.2)
def atoms (ar wide : Bool) : List Instr := ([Instr.atomAdd, .atomAnd, .atomOr, .atomXor, .atomMinS, .atomMaxS, .atomMinN, .atomMaxN, .atomXchg, .atomFadd,
  .atomIncw, .atomCas, .atomCasPromote] : List (AtomOp → Instr)).map fun mk => mk ⟨g7, ar, .v 2, .v 1, .dev, wide⟩
/-- The small machine with 512 bytes of scratchpad; v1 is the first address of it. -/
def scr0 : State := modU (fun u => { u with scrSize := 512 }) (with_ fun t => t.setReg 1 0xF000000000000000)
/-- The small machine with the line of 0x300000 in the L1 of its core. -/
def l1Hit : State := w0.modCore 0 fun c => { c with l1 := [(.home 0x300000, List.replicate 128 9)] }

/-- LoadsIssue: outside the collector path, in the L1, and into a collector entry. -/
theorem test_meets_loads :
    (loads.all fun x => readyV x.1 scr0 [0xF000000000000000, 8] && goesV scr0 0xF000000000000008 x.2 0 true false (.scratch uid0 8)) = true ∧
    (Loc.scratch uid0 8).collected = false ∧
    (loads.all fun x => readyV x.1 l1Hit [0x300000, 8] && goesV l1Hit 0x300008 x.2 0 true false (.home 0x300008) &&
      ((gone l1Hit 0x300008 x.2 0).core 0).l1.any (fun e => e.1 == Loc.line (.home 0x300008))) = true ∧ (Loc.home 0x300008).collected = true ∧
    (loads.all fun x => readyV x.1 w0 [0x300000, 8] && goesV w0 0x300008 x.2 0 true false (.home 0x300008) &&
      ((gone w0 0x300008 x.2 0).core 0).l1.isEmpty && (State.joinEntry { gone w0 0x300008 x.2 0 with seq := 1 } 0 (.home 0x300008)).isSome) = true := by decide +kernel
/-- StoresIssue: at home and in the scratchpad. -/
theorem test_meets_stores :
    (stores.all fun x => readyV x.1 w0 [0x300000, 8, -5] && goesV w0 0x300008 x.2 1 false true (.home 0x300008) &&
      (gone w0 0x300008 x.2 1).specFits 0 (.home 0x300008) && ((gone w0 0x300008 x.2 1).joinEntry 0 (.home 0x300008)).isSome) = true ∧
    (stores.all fun x => readyV x.1 scr0 [0xF000000000000000, 8, -5] && goesV scr0 0xF000000000000008 x.2 1 false true (.scratch uid0 8) &&
      (gone scr0 0xF000000000000008 x.2 1).specFits 0 (.scratch uid0 8) && ((gone scr0 0xF000000000000008 x.2 1).joinEntry 0 (.scratch uid0 8)).isSome) = true := by
  decide +kernel
/-- AcquireAndRelease: at each scope, on a word at home. -/
theorem test_meets_acquire : ([Scope.grp, .core, .die, .dev, .sys].all fun sc =>
    readyV (.ldacq ⟨g7, false, .v 4, .v 1, true, sc, true⟩) w0 [0x300000] && goesV w0 0x300000 8 0 true false (.home 0x300000) &&
    ((gone w0 0x300000 8 0).locErr (.home 0x300000) 8 true).isNone &&
    readyV (.strel ⟨g7, false, .v 2, .v 1, sc, false⟩) w0 [0x300000, 8] && !w0.speculative (thr w0).uid && reachesV w0 0x300000 4 1 false true (.home 0x300000) &&
    performedV (w0.access tk0 (thr w0) (thr w0).ftok 0x300000 4 4 1).2 sc &&
    (outState (w0.access tk0 (thr w0) (thr w0).ftok 0x300000 4 4 1).2 sc).specFits 0 (.home 0x300000)) = true := by decide +kernel
/-- AtomicsComplete: without and with the release bit, on 4 and 8 bytes, at home and in the scratchpad. -/
theorem test_meets_atomics : ([false, true].all fun ar => [false, true].all fun wide => (atoms ar wide).all fun i =>
    let n := if wide then 8 else 4
    readyV i w0 [0x300000, 8] && !w0.speculative (thr w0).uid && goesV w0 0x300000 n 2 true true (.home 0x300000) && performedV (gone w0 0x300000 n 2) .dev &&
    decide (((gone w0 0x300000 n 2).atomAt 0 tk0 (.home 0x300000) n (fun x => x)).1 = .inl 0) &&
    readyV i scr0 [0xF000000000000000, 8] && goesV scr0 0xF000000000000000 n 2 true true (.scratch uid0 0) &&
    decide (((gone scr0 0xF000000000000000 n 2).atomAt 0 tk0 (.scratch uid0 0) n (fun x => x)).1 = .inl 0)) = true := by decide +kernel
/-- That no engine op is in flight or waited for, and no unit has a save block. -/
def idleV (s : State) : Bool := (s.cores.all fun c => c.2.chans.flatten.isEmpty && c.2.doneOps.isEmpty && c.2.jobs.isEmpty && c.2.doneJobs.isEmpty) &&
  s.units.all fun p => p.2.save.isEmpty && p.2.savedOps.isEmpty && p.2.savedJobs.isEmpty
theorem idle_of {s : State} (h : idleV s = true) : s.Idle := by
  unfold idleV at h
  simp only [Bool.and_eq_true, List.all_eq_true, List.isEmpty_iff] at h
  exact ⟨fun c hc => ⟨(h.1 c hc).1.1.1, (h.1 c hc).1.1.2, (h.1 c hc).1.2, (h.1 c hc).2⟩, fun p hp => ⟨(h.2 p hp).1.1, (h.2 p hp).1.2, (h.2 p hp).2⟩⟩
/-- That no launch holds a speculation buffer. -/
theorem noSpec_of {s : State} (h : (s.hub.launches.all fun p => p.2.spec.isNone) = true) : s.NoSpec := fun p hp => by
  simpa using List.all_eq_true.mp h p hp
/-- AtomicAtHome: the small machine, which runs a launch. -/
theorem test_meets_atomicHome : w0.mem.wf = true ∧ (∀ x : Nat, (x + 1) % 2 ^ (8 * 4) < 2 ^ (8 * 4)) ∧ w0.targetErr 0x300000 4 true = none ∧
    (w0.core 0).coll = [] ∧ (w0.core 0).pend = [] ∧ w0.hub.launches ≠ [] ∧ w0.NoSpec ∧ w0.Idle :=
  ⟨by decide +kernel, fun _ => Nat.mod_lt _ (by decide), by decide +kernel, by decide +kernel, by decide +kernel, by decide +kernel, noSpec_of (by decide +kernel),
    idle_of (by decide +kernel)⟩

/-- The scratchpad with a table of eight entries of which the first n hold the keys 1 to n; v2 is a key and v3 an operand. -/
def table (n key : Nat) : State :=
  modU (fun u => { u with scr := (u.scr.setBytes 0 (leBytes 4 16 ++ [3, 0])).setBytes 16 ((List.range n).flatMap fun k => leBytes 8 (k + 1) ++ leBytes 8 7) })
    (scr0.modThread tk0 fun t => t.setReg 2 (Word.ofN key))
/-- The state in which HACC reads its descriptor at an address, with the places of its two words. -/
def haccV (ar : Bool) (s : State) (key : Nat) : Option (Loc × Loc × State) :=
  if readyV (.atomHacc ⟨g7, ar, .v 2, .v 1⟩) s [0xF000000000000000, Word.ofN key] && !s.speculative (thr s).uid && wentV s then
    (placeV (s.drainOut tk0) 0xF000000000000000 8 2 (thr s)).bind fun x => (placeV x.2 0xF000000000000008 8 2 (thr s)).bind fun y =>
      let clear (l : Loc) := (y.2.watchHit (thr s) l 8 true false).isNone && !y.2.isAbsent l
      if clear x.1 && clear y.1 && (!ar || performedV y.2 .core) then
        let s4 := if ar then (outState y.2 .core).release 0 .core x.1 else y.2
        some (x.1, y.1, (s4.orderAtHome 0 tk0 x.1 8).orderAtHome 0 tk0 y.1 8)
      else none
  else none
/-- The checks of HashAccumulate that hold of each of these tables. -/
def tableV (ar : Bool) (s : State) (key : Nat) : Bool :=
  (haccV ar s key).any fun (l, m, s5) =>
    let desc := s5.seen 0 tk0 s5.seq 0 l 8 none ++ s5.seen 0 tk0 s5.seq 0 m 8 none
    field desc 0 4 == 16 && field desc 4 1 == 3 && field desc 5 1 == 0 && zeroField desc 6 10 && decide (16 + 16 * 8 ≤ ((s5.unit? uid0).map (·.scrSize)).getD 0) &&
    ((s5.tableRaces 0 tk0 uid0 16 8).unit? uid0).map (fun u => u.absent.isEmpty && u.dbg.wps.all (· == none)) == some true
/-- The key of the entry that a probe of a key comes to. -/
def keyAt (s : State) (key j : Nat) : Nat :=
  leVal ((match haccV false s key with | some x => x.2.2.tableRaces 0 tk0 uid0 16 8 | none => s).tableWord (thr s) tk0 uid0
    (16 + 16 * ((key * 0x9E3779B97F4A7C15 % 2 ^ 64 / 2 ^ 61 + j) % 8)))
/-- HashAccumulate: a zero key; a full table without the key; a key that is there; an empty entry. -/
theorem test_meets_hash : tableV false (table 8 0) 0 = true ∧
    tableV true (table 8 9) 9 = true ∧ (∀ j < 8, keyAt (table 8 9) 9 j ≠ 9 ∧ keyAt (table 8 9) 9 j ≠ 0) ∧
    tableV false (table 8 5) 5 = true ∧ (∃ j < 8, keyAt (table 8 5) 5 j = 5 ∧ ∀ i < j, keyAt (table 8 5) 5 i ≠ 5 ∧ keyAt (table 8 5) 5 i ≠ 0) ∧
    tableV false (table 0 5) 5 = true ∧ keyAt (table 0 5) 5 0 = 0 ∧ ((table 0 5).core ((table 0 5).ckOf (thr (table 0 5)).uid)).pend = [] ∧ idleV (table 0 5) = true := by
  decide +kernel
/-- No comparator, no match (the last hypothesis of HashAccumulate). -/
theorem watch_none {s : State} {t : Thread} {l n rd wr} (h : ∀ u, s.unit? t.uid = some u → u.dbg.wps.all (· == none) = true) : s.watchHit t l n rd wr = none := by
  unfold State.watchHit
  split
  · split
    · rfl
    · rename_i u o hu
      have hu : u = t.uid := by simpa using hu
      subst hu
      cases hx : s.unit? t.uid with
      | none => rfl
      | some x =>
        dsimp only
        rw [List.find?_eq_none]
        intro k _
        have hk : x.dbg.wps.getD k none = none := by
          rw [List.getD_eq_getElem?_getD]
          cases hg : x.dbg.wps[k]? with
          | none => rfl
          | some w => exact eq_of_beq (List.all_eq_true.mp (h x hx) w (List.mem_of_getElem? hg))
        rw [hk]; simp
  · rfl

/-- FencesComplete and the orders of the other statements: each fence, with nothing left to perform. -/
theorem test_meets_fences : ([(Instr.fenceGrp, Scope.grp), (.fenceCore, .core), (.fenceDie, .die), (.fenceDev, .dev), (.fenceSys, .sys), (.bnd, .dev)].all
    fun x => readyV (x.1 ⟨g7⟩) w0 [] && performedV w0 x.2) = true := by decide +kernel
/-- What holds of each place of a list holds wherever it is split. -/
theorem splits_of {α : Type} {P : List α → α → Prop} {ps : List α} (h : ∀ i (hi : i < ps.length), P (ps.take i) ps[i]) :
    ∀ a q b, ps = a ++ q :: b → P a q := by
  intro a q b e
  subst e
  simpa using h a.length (by simp)
/-- WritesPerformAndLoadsReply: a write that may perform, and at home; two of one collector entry; one that waits in its entry, one that an older
write of its bytes holds back, and none of that number. -/
theorem test_meets_performs :
    let p (q ent a : Nat) : Pend := { tk := 5, seq := q, ent := ent, loc := .home a, bytes := [1, 2], va := Word.ofN a, tloc := 0 }
    let ps := [p 1 0 0x300000, p 2 7 0x300010, p 3 7 0x300011, { p 4 0 0x300020 with inColl := true }, p 5 0 0x300001]
    let s := w0.modCore 0 fun c => { c with pend := ps }
    (s.core 0).pend = ps ∧ (s.core 0).pend[0]? = some (p 1 0 0x300000) ∧ (s.core 0).pend[1]? = some (p 2 7 0x300010) ∧
    ((∀ a q b, ps = a ++ q :: b → (p 2 7 0x300010).with_ q = true → ∀ x ∈ a, x.loc.overlap x.bytes.length q.loc q.bytes.length = true → (p 2 7 0x300010).with_ x = true) ∧
    (∀ j < 5, j ≠ 0 → ps[j]?.all (fun q => !(p 1 0 0x300000).with_ q) = true)) ∧
    s.mem.wf = true ∧ s.targetErr 0x300000 2 false (some 1) = none ∧ s.NoSpec ∧ s.Idle ∧ s.thread? 5 = none ∧
    ((p 5 0 0x300001).with_ (p 5 0 0x300001) = true ∧ (p 1 0 0x300000).loc.overlap 2 (p 5 0 0x300001).loc 2 = true ∧ (p 5 0 0x300001).with_ (p 1 0 0x300000) = false) ∧
    (s.core 0).pend[5]? = none :=
  ⟨by decide +kernel, by decide +kernel, by decide +kernel, ⟨splits_of (P := fun a q => _ = true → ∀ x ∈ a, _ = true → _ = true) (by decide +kernel), by decide +kernel⟩,
    by decide +kernel, by decide +kernel, noSpec_of (by decide +kernel), idle_of (by decide +kernel), by decide +kernel, by decide +kernel, by decide +kernel⟩
/-- WritesPerformAndLoadsReply: a load with its value, a pair with both, an acquire with its value, one with an error, one that still waits, one
of a thread saved away, and none of that index. -/
theorem test_meets_replies :
    let r : LoadRec := { idx := 2, d := 4, size := 8, loc := .home 0x300000, va := 0x300000, tloc := 0, seq := 0 }
    (([{ r with res := some 7 }, { r with res := some 0, pair := true, res2 := some 9, block := true }, { r with err := some cMEMERR }] : List LoadRec).all fun x =>
      let s := with_ fun t => { t with loads := [x] }
      (s.thread? tk0).isSome && !(thr s).ending && !s.away (thr s) && (thr s).loads == [x] && !x.acq && (x.err.isSome || x.res.isSome)) = true ∧
    (let s := with_ fun t => { t with loads := [{ r with res := some 7, block := true, acq := true }, { r with idx := 3 }] }
     (s.thread? tk0).isSome = true ∧ s.away (thr s) = false ∧ (((thr s).loads.find? fun r => r.idx == 2).bind (·.res)) = some 7 ∧
       (((thr s).loads.find? fun r => r.idx == 3).map fun r => (r.res, r.err)) = some (none, none)) ∧
    (let s := modU (fun u => { u with stat := .preempted }) (with_ fun t => { t with loads := [{ r with res := some 7 }] })
     (s.thread? tk0).isSome = true ∧ s.away (thr s) = true) ∧
    ((thr w0).loads.find? fun r => r.idx == 2) = none := by decide +kernel

/-! ## Control -/

def checkedV (u g : Bool) (s : State) : Bool := !u || match s.uniformCheck tk0 (thr s) (thr s).pw g with | .ok _ => true | _ => false
theorem checked_of {u g : Bool} {s : State} (h : checkedV u g s = true) : ∃ s', Checked u g s tk0 (thr s) s' := by
  unfold checkedV at h
  unfold Checked
  cases u with
  | false => exact ⟨s, rfl⟩
  | true =>
    simp only [Bool.not_true, Bool.false_or] at h
    split at h
    · rename_i s' e; exact ⟨s', e⟩
    · cases h
/-- TransfersComplete: taken and untaken branches with and without the assertion; even and odd targets; a full and an emptier call depth. -/
theorem test_meets_transfers :
    ([false, true].all fun u => ([Instr.br, .call] : List (BrOp → Instr)).all fun mk =>
      readyV (mk ⟨g7, u, false, false, 0x3FFFF⟩) w0 [] && checkedV u true w0 && skipsV (mk ⟨⟨true, 7⟩, u, false, false, 0x20000⟩) w0 && checkedV u false w0) = true ∧
    (thr w0).cd < 65535 ∧ (let t := thr (with_ fun t => { t with cd := 65535 })
      t.cd = 65535 ∧ t.loops = []) ∧
    (([Instr.jmpi, .calli] : List (OpA → Instr)).all fun mk => readyV (mk ⟨g7, .v 1⟩) w0 [0x300000] && readyV (mk ⟨g7, .v 3⟩) w0 [-5]) = true ∧
    (let s := with_ fun t => t.setReg 59 0x200001
     readyV (.ret ⟨g7⟩) s [] = true ∧ (thr s).reg 59 = 0x200001) := by decide +kernel
/-- ReturnCompletes: outside a handler, in one at another depth, and the handler's own return. -/
theorem test_meets_return :
    ([(false, 0, 0), (true, 3, 0), (true, 3, 2), (true, 0, 0)].all fun x =>
      readyV (.ret ⟨g7⟩) (with_ fun t => { t.setReg 59 0x200100 with ih := x.1, cd := x.2.1, hd := x.2.2, hv := 7 }) []) = true := by decide +kernel
/-- The end of a body of n instructions. -/
def endOf (s : State) (n : Nat) : Option Word := match s.bodyEnd (thr s) (2 ^ 57) n ((thr s).pw + 4) with | (.ok _ _, e) => some e | _ => none
def lvl (s e : Word) (d : Nat) : LoopLevel := { lc := 2, s := s, e := e, depth := d }
/-- LoopStarts: counts of 1 and 2^32 - 1, of 0; no free level; an innermost level that ends inside the body; a false guard. -/
theorem test_meets_loop :
    (([1, 0xFFFFFFFF, 0] : List Word).all fun n => readyV (.loop ⟨g7, .v 2, 3⟩) (with_ fun t => t.setReg 2 n) [n] && endOf (with_ fun t => t.setReg 2 n) 4 == some 0x20000C) = true ∧
    (let s := with_ fun t => { t with loops := [lvl 0x200000 0x20000C 0, lvl 0x200000 0x200100 0, lvl 0x200000 0x200100 0] }
     readyV (.loop ⟨g7, .v 2, 3⟩) s [8] = true ∧ endOf s 4 = some 0x20000C) ∧
    (let s := with_ fun t => { t with loops := [lvl 0x200000 0x20000A 0] }
     readyV (.loop ⟨g7, .v 2, 3⟩) s [8] = true ∧ endOf s 4 = some 0x20000C ∧ (thr s).loops.map (fun l => decide (l.depth = (thr s).cd ∧ l.e.toNat < 0x20000C)) = [true]) ∧
    (let s := with_ fun t => { t with loops := [lvl 0x200000 0x20000C 0] }
     readyV (.loop ⟨g7, .v 2, 3⟩) s [8] = true ∧ endOf s 4 = some 0x20000C) ∧
    skipsV (.loop ⟨⟨true, 7⟩, .v 2, 255⟩) w0 = true ∧ (endOf w0 256).isSome = true := by decide +kernel
/-- LoopRuns and LoopLevelsLeft: counts at the ends of the range; a level that stays. -/
theorem test_meets_levels : (0 < 1 ∧ 1 < 2 ^ 32 ∧ 1 ≤ 1) ∧ (0 < 2 ^ 32 - 1 ∧ 2 ^ 32 - 1 < 2 ^ 32) ∧
    exitCheck 0 0x200008 [lvl 0x200100 0x200200 0, lvl 0x200000 0x200100 0] = [lvl 0x200000 0x200100 0] ∧
    dropDeep 0 [lvl 0x200100 0x200200 1, lvl 0x200000 0x200100 0] = [lvl 0x200000 0x200100 0] := by decide +kernel
/-- PlainControlCompletes and SoftwareTraps. -/
theorem test_meets_plain :
    (([Instr.nop, .rgn, .yield, .brk] : List (OpG → Instr)).all fun mk => readyV (mk ⟨g7⟩) w0 []) = true ∧
    (([Instr.exit, .trap] : List (OpA → Instr)).all fun mk => readyV (mk ⟨g7, .v 3⟩) w0 [-5]) = true ∧ w0.exitReady tk0 = true ∧
    w0.cur = some tk0 ∧ (w0.thread? tk0).isSome = true ∧ (thr w0).pre.length < 2 ∧
    2 ≤ (thr (with_ fun t => { t with pre := [1, 2] })).pre.length := by decide +kernel
/-- The small machine whose launch has a handler. -/
def handler (f : Thread → Thread) : State := (with_ f).modLaunch 1 fun l => { l with desc := { l.desc with traph := 0x200400 } }
def underDebug (s : State) : State := modU (fun u => { u with dbg := { u.dbg with under := true } }) s
theorem handles_of {s : State} {cause : Nat} (h1 : s.traph (thr s).uid ≠ 0) (h2 : (thr s).ih = false) (h3 : (thr s).cd < 65535 ∨ (thr s).loops = [])
    (h4 : (s.unit? (thr s).uid).map (·.dbg.under) = some false ∨ (cause ≠ cBRK ∧ cause ≠ cWATCH)) : Handles s (thr s) cause := by
  refine ⟨h1, h2, h3, ?_⟩
  rcases h4 with h | h
  · exact .inl fun u hu => by rw [hu] at h; exact Option.some.inj h
  · exact .inr h
/-- TrapDelivery: a handler at the outermost depth, at the full depth, and of a unit under debug. -/
theorem test_meets_delivery : Handles (handler id) (thr (handler id)) 255 ∧ Handles (handler fun t => { t with cd := 65535 }) (thr (handler fun t => { t with cd := 65535 })) cTRAP ∧
    Handles (underDebug (handler id)) (thr (underDebug (handler id))) cADDR ∧ ((handler id).thread? tk0).isSome = true :=
  ⟨handles_of (by decide +kernel) (by decide +kernel) (by decide +kernel) (by decide +kernel),
   handles_of (by decide +kernel) (by decide +kernel) (by decide +kernel) (by decide +kernel),
   handles_of (by decide +kernel) (by decide +kernel) (by decide +kernel) (by decide +kernel), by decide +kernel⟩
/-- TrapWithoutHandler: no handler, in the handler, a full depth within a loop, and a unit under debug. -/
theorem test_meets_noHandler :
    (w0.traph (thr w0).uid = 0 ∧ ((w0.unit? (thr w0).uid).map (·.dbg.under)) = some false) ∧
    (thr (handler fun t => { t with ih := true })).ih = true ∧
    (let t := thr (handler fun t => { t with cd := 65535, loops := [lvl 0x200000 0x200100 65535] })
     t.cd = 65535 ∧ t.loops ≠ []) ∧
    ((underDebug w0).unit? (thr (underDebug w0)).uid).map (·.dbg.under) = some true := by decide +kernel

/-! ## Collectives and barriers -/

/-- The small machine with a second live thread. -/
def two : State := { w0 with threads := AMap.set w0.threads (threadKey uid0 1) { thr w0 with tg := 1 } }
/-- What Gathers asks of the record of a tile. -/
def gathersV (s : State) (fn : CollFn) : Bool :=
  match s.unit? (thr s).uid with
  | none => false
  | some u =>
    let g := u.gang (thr s).gg
    let r := (AMap.get? g.insts (g.tile (thr s).ln)).getD { ord := (thr s).cord, fn := fn }
    g.gfail.isNone && !r.failed && decide (r.fn = fn)
def tileOf (s : State) : List Nat := match s.unit? (thr s).uid with | none => [] | some u => s.liveTile (thr s).uid (thr s).gg ((u.gang (thr s).gg).tile (thr s).ln)
def colls : List (OpX → Instr) := [.vany, .vall, .vbal, .radd, .rminS, .rmaxS, .rfadd, .rdadd, .scan, .matchOp]
def shuffles : List (OpX → Instr) := [.shfi, .shfa, .shfb, .shfx]
/-- CollectivesComplete: each collective ready, to a register and to an out-port; the last live lane of its tile, and a lane that is not. -/
theorem test_meets_collectives :
    readyV (.elect ⟨g7, .v 4⟩) w0 [] = true ∧ (colls.all fun mk => readyV (mk ⟨g7, .v 4, .v 1⟩) w0 [0x300000] && readyV (mk ⟨g7, .m 2, .v 1⟩) portOut [0x300000]) = true ∧
    (shuffles.all fun mk => readyV (mk ⟨g7, .v 2, .v 1⟩) w0 [0x300000, 8]) = true ∧ portOut.outCheck tk0 (thr portOut) 2 = none ∧
    ([CollFn.elect, .vany, .vall, .vbal, .shfi, .shfa, .shfb, .shfx, .radd, .rmin, .rmax, .rfadd, .rdadd, .scan, .cmatch].all fun fn => gathersV w0 fn && gathersV two fn) = true ∧
    tileOf w0 = [0] ∧ (thr w0).ln = 0 ∧ tileOf two = [0, 1] := by decide +kernel
/-- The sums of the nodes of R188's tree over the lanes of a tile. -/
def nodeOf (f : Fmt) (ps : List Arrival) (t : Nat) : Nat → Nat → Option FVal
  | 0, k => (ps.find? fun w => w.ln % t == k).map fun w => f.val (w.a.toNat % 2 ^ f.width)
  | lv + 1, k => match nodeOf f ps t lv (2 * k), nodeOf f ps t lv (2 * k + 1) with
    | none, y => y
    | x, none => x
    | some x, some y => some (f.round .rn false (x.add y))
theorem test_meets_nodes :
    let ps : List Arrival := [⟨8, 0x3F800000, 0, none, none⟩, ⟨11, 0x40000000, 2, none, none⟩, ⟨15, 0x40400000, 9, none, none⟩]
    (ps.all fun w => nodeOf f32 ps 8 0 (w.ln % 8) == some (f32.val (w.a.toNat % 2 ^ f32.width))) = true ∧ nodeOf f32 ps 8 0 1 = none ∧
      (nodeOf f32 ps 8 5 0).map f32.rne = some 0x40C00000 ∧ (nodeOf f64 [] 8 3 0) = none := by decide +kernel
/-- CollectiveValues: three lanes of one tile of eight. -/
theorem test_meets_values :
    let ps : List Arrival := [⟨8, 1, 0, none, none⟩, ⟨11, 0, 2, none, none⟩, ⟨15, -1, 9, none, none⟩]
    0 < 8 ∧ 8 ≤ 32 ∧ (ps.map fun w => w.ln % 8).Nodup ∧ (∀ w ∈ ps, w.ln / 8 = 1) := by decide +kernel
/-- PartitionCompletes: each size, from the last live lane. -/
theorem test_meets_partition : ([2, 4, 8, 16, 32].all fun n =>
    let s := with_ fun t => t.setReg 2 (Word.ofN n)
    readyV (.gpart ⟨g7, .v 2⟩) s [Word.ofN n] && sizeOk n &&
    (match s.unit? (thr s).uid with
      | none => false
      | some u =>
        let g := u.gang (thr s).gg
        let s1 := s.joinRecord (thr s).uid (thr s).gg (g.tile (thr s).ln) tk0 { ln := (thr s).ln, a := Word.ofN n, d := 0, dst := none, port := none }
          { ord := (thr s).cord, fn := .gpart, size := n }
        g.gfail.isNone && g.insts.isEmpty && (s1.unit? (thr s).uid).isSome && s1.liveLanes (thr s).uid (thr s).gg == [0] && (thr s).ln == 0)) = true := by
  decide +kernel
/-- The small machine whose barrier 15 counts one arrival. -/
def bar1 (f : Thread → Thread) : State := modU (fun u => { u with bars := setAt u.bars 15 { u.bars.getD 15 { c := 0 } with c := 1 } }) (with_ f)
/-- BarriersComplete: an arrival, a wait after a round, both in one, a count at either end of its range. -/
theorem test_meets_barriers :
    (([Instr.barArr, .barWait, .barSync] : List (OpS 16 → Instr)).all fun mk => readyV (mk ⟨g7, 15⟩) (bar1 id) [] && !(bar1 id).openArrival (thr (bar1 id)) 15) = true ∧
    (bar1 id).uwrOpen tk0 = false ∧ wentV (bar1 id) = true ∧ (thr (bar1 id)).arrDone = false ∧
    (let s1 := (bar1 id).drainOut tk0
     let t := thr (bar1 id)
     let s2 := ((((s1.settle (s1.ckOf t.uid) tk0).modThread tk0 fun u => { u with arr := setAt u.arr 15 (s1.roundOf t.uid 15) }).modUnit t.uid
       fun u => { u with bars := match u.bars[15]? with | some b => setAt u.bars 15 { b with n := b.n + 1 } | none => u.bars }).checkRound t.uid 15).modThread tk0
         fun u => { u with arrDone := true }.startRegion u.pc
     (s2.thread? tk0).map (s2.openArrival · 15) = some false) ∧
    (let s := bar1 fun t => { t with arrDone := true }
     readyV (.barSync ⟨g7, 0⟩) s [] = true ∧ (thr s).arrDone = true ∧ s.openArrival (thr s) 0 = false) ∧
    ([1, 32].all fun c => readyV (.barInit ⟨g7, 0, .v 2⟩) (with_ fun t => t.setReg 2 (Word.ofN c)) [Word.ofN c]) = true ∧
    ((w0.unit? (thr w0).uid).map fun u => (u.g, (u.bars[0]?).isSome, (u.bars[15]?).isSome)) = some (32, true, true) := by decide +kernel


/-! ## Reading of cards, as checks -/

def accV (s : State) (va : Word) (n kind : Nat) (rd wr : Bool) (t : Thread) : Option (Loc × State) :=
  if !t.places.isEmpty then none
  else
    match s.access tk0 t t.ftok va n n kind with
    | (.ok l, s) => if (s.watchHit t l n rd wr).isNone && !s.isAbsent l then some (l, s) else none
    | _ => none
theorem acc_of {s : State} {va : Word} {n kind : Nat} {rd wr : Bool} {t : Thread} {r : Loc × State} (h : accV s va n kind rd wr t = some r) (k : Loc → State → Res)
    (hk : (k r.1 r.2).GoesOn) : checkedAccess tk0 t va n kind rd wr s k = k r.1 r.2 := by
  refine checkedAccess_ready ?_ k hk
  unfold accV at h
  split at h
  · cases h
  · rename_i hp
    split at h
    · rename_i l s2 e
      split at h
      · rename_i hh
        cases h
        rw [Bool.and_eq_true] at hh
        refine ⟨.inl ⟨?_, e⟩, by simpa using hh.1, by simpa using hh.2⟩
        have hp : t.places.isEmpty = true := by simpa using hp
        rw [List.isEmpty_iff.mp hp]; rfl
      · cases h
    · cases h
def checksV (t : Thread) : Nat → Word → List (Word × Loc) → State → Option (List (Word × Loc) × State)
  | 0, _, ls, s => some (ls, s)
  | n + 1, va, ls, s => match placeV s va 8 0 t with
    | none => none
    | some (l, s) => checksV t n (va + 8) (ls ++ [(va, l)]) s
theorem checks_of {t : Thread} : ∀ {n : Nat} {va : Word} {ls : List (Word × Loc)} {s : State} {r : List (Word × Loc) × State}, checksV t n va ls s = some r →
    ∀ k : List (Word × Loc) → State → Res, (k r.1 r.2).GoesOn → checkWords tk0 t n va ls s k = k r.1 r.2
  | 0, _, _, _, _, h, _, _ => by cases h; rfl
  | n + 1, va, ls, s, r, h, k, hk => by
    unfold checksV at h
    unfold checkWords
    split at h
    · cases h
    · rename_i l s2 e
      have := checks_of h k hk
      rw [placeAccess_ready (place_of e)]
      · exact this
      · exact this ▸ hk
/-- That no comparator matches at the words, and their lines are present. -/
def clearV (t : Thread) (ls : List (Word × Loc)) (s : State) : Bool := ls.all fun x => (s.watchHit t x.2 8 true false).isNone && !s.isAbsent x.2
theorem clear_of {t : Thread} : ∀ {ls : List (Word × Loc)} {s : State}, clearV t ls s = true → ∀ k : State → Res, watchWords t ls s k = k s
  | [], _, _, _ => rfl
  | (va, l) :: ls, s, h, k => by
    unfold clearV at h
    rw [List.all_cons, Bool.and_eq_true, Bool.and_eq_true] at h
    unfold watchWords
    rw [watchedAccess_ready (by simpa using h.1.1) (by simpa using h.1.2)]
    exact clear_of h.2 k
def locsV (t : Thread) : List (Word × Loc) → List Byte → State → Option (List Byte × State)
  | [], bs, s => some (bs, s)
  | (_, l) :: ls, bs, s => match s.readNow tk0 t l 8 with
    | (.inl _, _) => none
    | (.inr w, s) => locsV t ls (bs ++ w) s
theorem locs_of {t : Thread} : ∀ {ls : List (Word × Loc)} {bs : List Byte} {s : State} {r : List Byte × State}, locsV t ls bs s = some r →
    ∀ k : List Byte → State → Res, readLocs tk0 t ls bs s k = k r.1 r.2
  | [], _, _, _, h, _ => by cases h; rfl
  | (va, l) :: ls, bs, s, r, h, k => by
    unfold locsV at h
    unfold readLocs
    split at h
    · cases h
    · rename_i w s2 e
      first
        | (rw [e]; exact locs_of h k)
        | exact locs_of h k
def wordsV (t : Thread) (n : Nat) (va : Word) (bs : List Byte) (s : State) : Option (List Byte × State) :=
  match checksV t n va [] s with
  | none => none
  | some (ls, s) => if clearV t ls s then locsV t ls bs s else none
theorem words_of {t : Thread} {n : Nat} {va : Word} {bs : List Byte} {s : State} {r : List Byte × State} (h : wordsV t n va bs s = some r)
    (k : List Byte → State → Res) (hk : (k r.1 r.2).GoesOn) : readWords tk0 t n va bs s k = k r.1 r.2 := by
  unfold wordsV at h
  unfold readWords
  split at h
  · cases h
  · rename_i ls s2 e
    split at h
    · rename_i hw
      have := locs_of h k
      rw [checks_of e, clear_of hw]
      · exact this
      · rw [clear_of hw]; exact this ▸ hk
    · cases h
theorem words_then {t : Thread} {n : Nat} {va : Word} {bs : List Byte} {s : State} {r : List Byte × State} (h : wordsV t n va bs s = some r)
    (f : List Byte → State → Res) {x : Res} (hf : f r.1 r.2 = x) (hx : x.GoesOn) : readWords tk0 t n va bs s f = x := by
  rw [words_of h f (hf ▸ hx), hf]
def cardV (t : Thread) (n : Nat) (va : Word) (s : State) : Option (List Byte × State) :=
  if (((s.drainOut tk0).thread? tk0).map Thread.outEmpty).getD true then wordsV t n va [] (s.drainOut tk0) else none
theorem card_of {t : Thread} {n : Nat} {va : Word} {s : State} {r : List Byte × State} (h : cardV t n va s = some r) : Through (readCard tk0 t n va s) r.1 r.2 := by
  intro k hk
  unfold cardV at h
  unfold readCard afterOut
  split at h
  · rename_i hh
    rw [if_pos hh]
    exact words_of h k hk
  · cases h
def fieldsV (t : Thread) (va : Word) (known used : Nat → Bool) : Nat → Nat → List (Nat × List Byte) → List Nat → State → Option (Machine.Fields × State)
  | 0, _, fs, _, s => some (.ok fs, s)
  | n + 1, off, fs, ids, s =>
    if off + 8 > 2048 then some (.bad, s)
    else
      match wordsV t 1 (va + Word.ofN off) [] s with
      | none => none
      | some (hd, s) =>
        let h := field hd 0 8
        let id := bits h 15 0
        let len := bits h 23 17
        if off + 8 + 8 * len > 2048 then some (.bad, s)
        else if ids.contains id || (bits h 16 16 = 1 && !known id) then some (.bad, s)
        else
          match wordsV t (if used id then len else 0) (va + Word.ofN (off + 8)) [] s with
          | none => none
          | some (body, s) => fieldsV t va known used n (off + 8 + 8 * len) (if used id then fs ++ [(id, body)] else fs) (ids ++ [id]) s
theorem fields_of {t : Thread} {va : Word} {known used : Nat → Bool} : ∀ {n off : Nat} {fs : List (Nat × List Byte)} {ids : List Nat} {s : State} {r : Machine.Fields × State},
    fieldsV t va known used n off fs ids s = some r → Through (readFields tk0 t va known used n off fs ids s) r.1 r.2
  | 0, _, _, _, _, _, h => by cases h; exact fun _ _ => rfl
  | n + 1, off, fs, ids, s, r, h => by
    intro k hk
    unfold fieldsV at h
    unfold readFields
    split at h
    · cases h; rename_i hh; rw [if_pos hh]
    · rename_i hh
      rw [if_neg hh]
      split at h
      · cases h
      · rename_i hd s2 e
        refine words_then e _ ?_ hk
        dsimp only at h ⊢
        split at h
        · cases h; rename_i h2; rw [if_pos h2]
        · rename_i h2
          rw [if_neg h2]
          split at h
          · cases h; rename_i h3; rw [if_pos h3]
          · rename_i h3
            rw [if_neg h3]
            split at h
            · cases h
            · rename_i body s3 e3
              exact words_then e3 _ (fields_of h k hk) hk
/-- A position written back. -/
def backV (t : Thread) (b : Option PortBind) (s : State) : Option State :=
  match b with
  | none => some s
  | some b =>
    match accV s (b.desc + 20) 4 1 false true t with
    | none => none
    | some (l, s) => if s.specFits (s.specOf t.uid) l then s.issueWrite tk0 t l (leBytes 4 b.pos) (b.desc + 20) t.pc else none
theorem back_of {t : Thread} {b : Option PortBind} {s r : State} (h : backV t b s = some r) : Passes (writeBack tk0 t b s) r := by
  intro k hk
  unfold backV at h
  unfold writeBack
  split at h
  · cases h; rfl
  · rename_i b
    try dsimp only
    unfold plainStore
    have hl : (leBytes 4 b.pos).length = 4 := rfl
    rw [hl]
    split at h
    · cases h
    · rename_i l s2 e
      split at h
      · rename_i hf
        rw [acc_of e]
        all_goals simp only [hf, Bool.not_true, Bool.false_eq_true, if_false, h]
        exact hk
      · cases h

/-! ## Cards, engines and work -/

/-- The small machine with bytes at 0x300000, where v1 points. -/
def carded (bs : List Byte) (f : Thread → Thread := id) : State := (with_ f).writeAt 0 (.home 0x300000) bs
/-- A card of n words is read, and what follows holds. -/
def onCard (s : State) (n : Nat) (f : List Byte → State → Bool) : Bool := (cardV (thr s) n 0x300000 s).any fun r => f r.1 r.2
/-- The port descriptor of R123: base, stride, count, position, code. -/
def strmDesc (code pos : Nat) : List Byte := leBytes 8 0x300100 ++ leBytes 8 8 ++ leBytes 4 10 ++ leBytes 4 pos ++ leBytes 8 code
def strmV (code pos : Nat) (old : Thread → Thread) : Bool :=
  let s := carded (strmDesc code pos) old
  readyV (.strm ⟨g7, 2, .v 1⟩) s [0x300000] && onCard s 4 fun bs s1 =>
    let base := Word.ofN (field bs 0 8)
    let code := field bs 24 1
    code < 16 && zeroField bs 25 7 && tagKnown base && bits base.toNat 63 56 != 0xF4 && base.toNat % 2 ^ (code % 4) == 0 &&
      field bs 8 8 % 2 ^ (code % 4) == 0 && field bs 20 4 ≤ field bs 16 4 && (backV (thr s) (((s.thread? tk0).getD (thr s)).ports.getD 2 {}).bind s1).isSome
def bound (t : Thread) : Thread := { t with ports := setAt t.ports 2 ⟨some ⟨0x300000, 8, 2, 1, 7, 0x300100⟩, [], [], none, none⟩ }
/-- StreamsAndCountersComplete: binding with and without an old binding, at the last position; unbinding; a counter reached and not; OFENCE; ICINV. -/
theorem test_meets_streams :
    (strmV 0 0 id && strmV 15 10 bound) = true ∧ thr (with_ bound) ≠ thr w0 ∧
    readyV (.strm ⟨g7, 2, .z⟩) (with_ bound) [0] = true ∧ wentV (with_ bound) = true ∧
      (backV (thr (with_ bound)) ((thr (with_ bound)).ports.getD 2 {}).bind ((with_ bound).drainOut tk0)).isSome = true ∧
    ([(0x300000 : Word), 0xF000000000000000].all fun va => ([0, 8] : List Word).all fun v =>
      let s := modU (fun u => { u with scrSize := 512 }) (with_ fun t => (t.setReg 1 va).setReg 2 v)
      let l : Loc := if va = 0x300000 then .home 0x300000 else .scratch uid0 0
      readyV (.wait ⟨g7, .v 2, .v 1⟩) s [va, v] && goesV s va 8 0 true false l &&
        (let s3 := (gone s va 8 0).orderAtHome 0 tk0 l 8
         (s3.locErr l 8 true).isNone && decide ((s3.counterAt uid0 l < v.toNat) = (v = 8)))) = true ∧
    readyV (.ofence ⟨g7⟩) w0 [] = true ∧
    (let s1 := (w0.threadsOf (thr w0).uid).foldl (fun x p => x.drainOut p.1) w0
     (s1.performWhere (s1.ckOf (thr w0).uid) fun p => p.tk / 1024 == (thr w0).uid && p.loc.isScratch).groupWaits (thr w0).uid ((thr w0).mark.getD w0.seq)) = false ∧
    readyV (.icinv ⟨g7, .v 2, .v 1⟩) w0 [0x300000, 8] = true ∧ tagGlobal 0x300000 = true ∧ (w0.drainOut tk0).ownPerformed 0 tk0 = true := by decide +kernel

/-- The unit with 1024 bytes of operand buffer, of which handle 1 holds the first 256. -/
def held (s : State) : State := modU (fun u => { u with obSize := 1024, resv := [(1, { off := 0, size := 256, fmt := 1, blk := 0, spm := false, bso := 0, gso := 0, mdo := 0, auxp := 0 })] }) s
def resvV (n f : Nat) (free : Bool) : Bool :=
  let s := held (carded (leBytes 4 n ++ leBytes 1 f ++ leBytes 1 (fmtBlock f) ++ List.replicate 26 0))
  readyV (.ores ⟨g7, .v 4, .v 1⟩) s [0x300000] && onCard s 4 fun bs s1 => (resvOf bs).any fun r => (s1.unit? uid0).any fun u =>
    u.freeHandle == some 2 && (u.freeRange r.size == if free then some 256 else none)
/-- ReservationsComplete: the largest size that is free, one that is not; a handle that is held. -/
theorem test_meets_reservations : (resvV 768 1 true && resvV 769 9 false) = true ∧ (w0.thread? tk0).isSome = true ∧
    (let s := held (with_ fun t => t.setReg 1 1)
     readyV (.orls ⟨g7, .v 1⟩) s [1] && ((s.unit? uid0).bind fun u => AMap.get? u.resv 1).any fun r => !r.releasing) = true := by decide +kernel

/-- A copy card of R83 of 2 rows of 16 bytes, with nf optional fields. -/
def copyCard (flags nf : Nat) : List Byte :=
  leBytes 8 0x300200 ++ leBytes 8 0x300400 ++ leBytes 4 16 ++ leBytes 4 2 ++ leBytes 4 1 ++ leBytes 4 flags ++ leBytes 4 16 ++ leBytes 4 0 ++ leBytes 4 32 ++
    leBytes 4 0 ++ leBytes 8 0 ++ leBytes 4 0 ++ [0, 0] ++ leBytes 1 nf ++ [1]
/-- The STATUS field of R87. -/
def statField : List Byte := leBytes 2 1 ++ [3, 0] ++ List.replicate 4 0 ++ leBytes 8 0x300800
def cpyV (card : List Byte) (ch : Fin 8) (start : Nat ⊕ Nat) : Bool :=
  let s := (carded card).writeAt 0 (.home 0x300804) (leBytes 4 1)
  let s := match start with | .inl _ => s | .inr c => s.addBad (.home 0x300804) c true
  let q := s.leaveQueue 0 ch.1 tk0
  readyV (.cpy ⟨g7, ch, .v 1⟩) s [0x300000] && (thr s).offer.isNone && !s.declsInFlight tk0 uid0 && q.2.channelOk uid0 ch.1 && onCard q.2 8 fun bs s2 =>
    (fieldsV (thr s) 0x300000 (· == 1) (· == 1) (field bs 62 1) 64 [] [] s2).any fun r =>
      let c := copyCardOf bs r.1.stat
      r.2.copyReason uid0 bs r.1 c == 0 && ((r.2.core 0).chans.getD ch.1 []).length < 32 && (r.2.core 0).waitq.getD ch.1 [] == [] &&
        (let y := r.2.settleFor 0 tk0
         match y.readProg (({ id := 0, tk := tk0, uid := uid0, ch := ch.1, seq := y.seq, card := .copy c, decls := y.keptDecls uid0, after := (thr s).after } : CopyOp).agent 0)
            (thr s).ftok c, start with
          | (.ok n, _), .inl k => n == k
          | (.err e, _), .inr k => e == k
          | _, _ => false)
/-- A gather card of R88 of two elements of 16 bytes. -/
def gathCard : List Byte :=
  leBytes 8 0x300200 ++ leBytes 8 0x300400 ++ leBytes 8 0x300600 ++ leBytes 4 16 ++ leBytes 4 2 ++ leBytes 4 8 ++ leBytes 4 16 ++ leBytes 4 16 ++ leBytes 4 0 ++
    leBytes 8 0 ++ leBytes 8 0x300900
/-- A job card of R205 of one tile of 2 by 2 by 2 in FP64 from the scratchpad, with handle 1 and its own flags. -/
def jobCard (flags : Nat) : List Byte :=
  leBytes 2 1 ++ leBytes 2 flags ++ [1, 1, 1, 0] ++ leBytes 4 2 ++ leBytes 4 2 ++ leBytes 4 2 ++ leBytes 4 0 ++ leBytes 8 0xF000000000000000 ++ leBytes 4 64 ++
    leBytes 4 0 ++ leBytes 8 0 ++ leBytes 4 1 ++ leBytes 4 0 ++ leBytes 8 0x300400 ++ leBytes 4 64 ++ leBytes 4 64 ++ leBytes 8 0 ++ leBytes 4 0 ++ leBytes 4 0 ++
    leBytes 8 0x300800 ++ List.replicate 160 0
def mxlV (flags : Nat) : Bool :=
  let s := held (carded (jobCard flags))
  let q := s.leaveQueue 0 8 tk0
  readyV (.mxl ⟨g7, .v 4, .v 1⟩) s [0x300000] && (q.2.thread? tk0).isSome && onCard q.2 32 fun bs s2 =>
    (fieldsV (thr s) 0x300000 (· == 0x10) (fun k => k == 0x10 && blockScaled (field bs 4 1)) (field bs 7 1) 256 [] [] s2).any fun r =>
      let c := jobCardOf bs r.1.ascale
      let on (st : Option (List Byte)) (s4 : State) : Bool :=
        r.2.jobOf uid0 == s4.jobOf uid0 && s4.jobReason uid0 bs r.1 c (((s4.jobOf uid0).map (·.lock)).getD false) st == 0 && (s4.core 0).jobs.length < 32 &&
          (s4.core 0).waitq.getD 8 [] == []
      if c.flag 8 && c.stat != 0 && statOk c.stat then flags == 256 && (wordsV (thr s) 2 c.stat [] r.2).any fun x => on (some x.1) x.2 else flags == 0 && on none r.2
/-- EngineOpsAccepted: plain and resumed copies and jobs, a status word that answers with an error, channels 0 and 7, threads that offer what
they have checked before, a thread that was first in the queue, and no privilege. -/
theorem test_meets_engines :
    (cpyV (copyCard 0 0) 0 (.inl 0) && cpyV (copyCard 2 1 ++ statField) 7 (.inl 1) && cpyV (copyCard 2 1 ++ statField) 7 (.inr cMEMERR)) = true ∧
    (let s := carded gathCard
     let q := s.leaveQueue 0 0 tk0
     readyV (.gath ⟨g7, 0, .v 1⟩) s [0x300000] && (thr s).offer.isNone && !s.declsInFlight tk0 uid0 && q.2.channelOk uid0 0 && onCard q.2 8 fun bs s2 =>
       s2.gathReason uid0 bs (gathCardOf bs) == 0 && ((s2.core 0).chans.getD 0 []).length < 32 && (s2.core 0).waitq.getD 0 [] == []) = true ∧
    (mxlV 0 && mxlV 256) = true ∧
    ((w0.modCore 0 fun c => { c with waitq := setAt c.waitq 8 [tk0, 7] }).leaveQueue 0 8 tk0).1 = true ∧
    (([.card (.copy (copyCardOf (copyCard 0 0) none)), .card (.gath (gathCardOf gathCard)), .job (jobCardOf (jobCard 0) []) false none] : List Offer).all fun x =>
      let s := with_ fun t => { t with offer := some x }
      let q := s.leaveQueue 0 8 tk0
      readyV (.cpy ⟨g7, 0, .v 1⟩) s [0x300000] && readyV (.gath ⟨g7, 0, .v 1⟩) s [0x300000] && readyV (.mxl ⟨g7, .v 4, .v 1⟩) s [0x300000] &&
        (thr s).offer == some x && ((q.2.core 0).chans.getD 0 []).length < 32 && (q.2.core 0).jobs.length < 32 && (q.2.core 0).waitq.getD 8 [] == [] &&
        (q.2.thread? tk0).isSome) = true ∧
    (let s := w0.modLaunch 1 fun l => { l with desc := { l.desc with dbgp := false } }
     readyV (.cpy ⟨g7, 7, .v 1⟩) s [0x300000] && readyV (.gath ⟨g7, 7, .v 1⟩) s [0x300000] && !s.channelOk uid0 7) = true := by decide +kernel

/-- A launch descriptor of R322: units of one role of one gang of 8 registers, with its mode word. -/
def descBytes (units mode spbuf : Nat) : List Byte :=
  leBytes 8 0x200000 ++ leBytes 4 0 ++ leBytes 4 units ++ leBytes 4 mode ++ leBytes 12 0 ++ [1, 8] ++ List.replicate 30 0 ++ leBytes 8 0x300400 ++
    List.replicate 32 0 ++ leBytes 8 spbuf ++ List.replicate 16 0
def launchV (bs : List Byte) (spec : Bool) : Bool :=
  let s := (carded bs).writeAt 0 (.home 0x300800) (leBytes 8 4096)
  readyV (.launch ⟨g7, .v 4, .v 1⟩) s [0x300000] && !s.speculative uid0 && (s.thread? tk0).isSome && onCard s 16 fun bs s1 =>
    (s1.launchOf uid0).any fun l => (s1.jobOf uid0).any fun j => (!(descOf bs).dbgp || (j.dbg && l.desc.dbgp)) &&
      (match s1.launchReads (keyThread tk0) j bs with
        | (.ok args sp, s2) =>
          let s3 := s2.seqDone (keyThread tk0)
          sp.isSome == spec && s3.refusalOf l.jid bs (.ok args sp) == 0 && (thr s3).outEmpty && thr s3 == thr s && performedV s3 .dev &&
            ((outState s3 .dev).publish 0).waitingLaunches < 4096
        | _ => false)
/-- An instruction of a parked thread goes on with what it read, here for WAIT, CPY and EXIT: a latch that is void, a register changed since. -/
theorem test_meets_held :
    let s := (with_ fun t => { t with held := some ⟨[0x1234], t.ports⟩, mark := some 1 })
    ∀ i ∈ [Instr.wait ⟨g7, .v 4, .b 0⟩, .cpy ⟨g7, 0, .b 0⟩, .exit ⟨g7, .b 0⟩], Ready i s tk0 (thr s) [0x1234] s := by
  intro s i hi
  refine ⟨rfl, rfl, ?_, ?_, ?_, ?_, .inr ⟨⟨_, rfl, rfl⟩, rfl⟩⟩ <;> fin_cases hi <;> decide +kernel
/-- A second launch of the job, speculative, with an empty buffer. -/
def spec3 (s : State) : State :=
  match s.launch? 1 with
  | none => s
  | some l => s.modHub fun h => { h with launches := AMap.set h.launches 9 { l with done := [0], desc := { l.desc with specv := true }, spec := some { cap := 28, head := 0x300800, hdr := leBytes 8 4096 ++ List.replicate 56 0 } } }
/-- That a resolved launch is complete, its core's writes published and delivered. -/
def settledV (x : State) (lid : Nat) : Bool :=
  let y := (x.publish (x.ckOf uid0)).completeLaunch lid
  (y.launch? lid).all (·.complete) && y.corePerformed (x.ckOf uid0) ((thr x).mark.getD y.seq) && y.coreDelivered (x.ckOf uid0) ((thr x).mark.getD y.seq) (thr x).after.acq
/-- WorkInstructionsComplete: a launch of one unit, a speculative one with debug privilege; work of each level, the caller's own, and none. -/
theorem test_meets_work :
    (launchV (descBytes 1 0 0) false && launchV (descBytes 2 0x6000000 0x300800) true) = true ∧
    (([0, 1, 2, 3, 4] : List (Fin 5)).all fun n => readyV (.cancel ⟨g7, n, .z⟩) w0 [0] &&
      (let h : Nat := if n = 0 then uid0 else if n = 1 then 1 else if n = 2 then 1 else if n = 3 then 0 else 2
       readyV (.cancel ⟨g7, n, .v 1⟩) (with_ fun t => t.setReg 1 (Word.ofN h)) [Word.ofN h] && (w0.named (w0.jidOf uid0) n.1 h).isSome) &&
      readyV (.cancel ⟨g7, n, .v 1⟩) (with_ fun t => t.setReg 1 77) [77] && (w0.named (w0.jidOf uid0) n.1 77).isNone) = true ∧
    (let s := spec3 (with_ fun t => t.setReg 1 9)
     readyV (.specCommit ⟨g7, .v 1⟩) s [9] && readyV (.specDiscard ⟨g7, .v 1⟩) s [9] && !s.speculative uid0 &&
       ((s.launch? 9).any fun l => l.jid == s.jidOf uid0 && l.desc.specv && !l.resolved) && !s.cancelling 9 &&
       (match s.commit 9 with | (true, s1) => !settledV s1 9 | _ => false) && settledV (s.cancelLaunch 9) 9) = true ∧
    (let r := (spec3 (with_ fun t => { t.setReg 1 9 with mark := some 5 })).modLaunch 9 fun l => { l with resolved := true, spec := none }
     let c := (spec3 (with_ fun t => t.setReg 1 9)).modLaunch 9 fun l => { l with cancelled := true }
     readyV (.specCommit ⟨g7, .v 1⟩) r [9] && readyV (.specDiscard ⟨g7, .v 1⟩) r [9] && !r.speculative uid0 && settledV r 9 &&
       !settledV ((spec3 (with_ fun t => { t.setReg 1 9 with mark := some 5 })).modLaunch 9 fun l => { l with resolved := true }) 9 &&
       readyV (.specCommit ⟨g7, .v 1⟩) c [9] && c.cancelling 9 && ((c.launch? 9).any fun l => !l.resolved)) = true := by decide +kernel

/-- The small machine with a second unit of launch 1 on its core, whose thread 0 is halted. -/
def uid1 : Nat := unitKey 1 1
def debugged (req : List Byte) : State :=
  let s := carded req
  let t : Thread := { thr s with uid := uid1, halted := true }
  let u := (s.unit? uid0).getD { lid := 0, idx := 0, ck := 0, slot := 0, g := 0, uni := [], bars := [], gangs := [] }
  let s := { s with threads := AMap.set s.threads (threadKey uid1 0) t, units := AMap.set s.units uid1 { u with idx := 1, slot := 1, scrSize := 512, dbg := { u.dbg with wps := setAt u.dbg.wps 3 (some { lo := 0, hi := 8, rd := true, wr := false }), bps := setAt u.dbg.bps 7 (some 0x200000) } } }
  s.modLaunch 1 fun l => { l with desc := { l.desc with units := 2, spb := 512 }, started := [0, 1] }
/-- A request block of R348. -/
def request (arg out : Nat) : List Byte := leBytes 8 uid1 ++ leBytes 8 arg ++ leBytes 8 out ++ leBytes 8 0
def dbgV (x : (OpA → Instr) × DbgOp × Nat) : Bool :=
  let s := debugged (request x.2.2 0x300400)
  readyV (x.1 ⟨g7, .v 1⟩) s [0x300000] && ((s.launchOf uid0).map (·.desc.dbgp)).getD false && onCard s 4 fun bs s1 =>
    (s1.target (thr s) (field bs 0 8)).any fun y => s1.dbgRefusal x.2.1 bs (some y) == 0 && !(s1.issueQ.any fun k => k / 1024 == y.uid) &&
      (match s1.outRuns tk0 (thr s) (outSize x.2.1 y / 8 + 1) (Word.ofN (field bs 16 8)) (outSize x.2.1 y) with
        | (.ok rs, s2) => rs.all fun r => s2.specFits (s2.specOf uid0) r.loc
        | _ => false)
/-- DebugCompletes and DebugHaltAndResume: each sub-op on a resident unit with its arguments at the ends of their ranges, and no privilege. -/
theorem test_meets_debug :
    ([(Instr.dbgHalt, .halt, 0), (.dbgResume, .resume, 0), (.dbgStep, .step, 0), (.dbgSetmask, .setmask, 0xFFFFFFFF), (.dbgWset, .wset, 0x7801F8 - 0x780000 + 0x1800000),
      (.dbgWclr, .wclr, 3), (.dbgStatus, .status, 0), (.dbgReadreg, .readreg, 0x3B000000), (.dbgBpset, .bpset, 0x1FFFFFFFFFFFFFE),
      (.dbgBpclr, .bpclr, 7)] : List ((OpA → Instr) × DbgOp × Nat)).all dbgV = true ∧
    (let s := w0.modLaunch 1 fun l => { l with desc := { l.desc with dbgp := false } }
     readyV (.dbgHalt ⟨g7, .v 1⟩) s [0x300000] && readyV (.dbgBpclr ⟨g7, .v 1⟩) s [0x300000] && !((s.launchOf uid0).map (·.desc.dbgp)).getD false) = true ∧
    (let s := debugged []
     ((s.target (thr s) uid1).any fun x => (s.thread? (threadKey uid1 0)).isSome && (s.unit? x.uid).isSome && x.u == s.unit? x.uid)) = true := by decide +kernel

/-! ## Events -/

/-- The next state of an outcome. -/
def nx (o : Out) : State := match o with | .next s => s | _ => w0
/-- The small machine with its gang in a seat of array 0, at the 9th cycle. -/
def seated (f : Thread → Thread) : State :=
  let with_ (f : Thread → Thread) := (nx (exec (.prefetchFill tk0) w0)).modThread tk0 f
  { ((with_ f).modCore 0 fun c => { c with arrays := setAt c.arrays 0 { seats := [some { uid := uid0, gg := 0, at_ := 0 }, none, none, none], cyc := 5 } }) with
    clusters := [(0, { clk := 9 })] }
/-- The small machine at the end of a cycle. -/
def allClosed : State := { w0 with cores := w0.cores.map fun c => (c.1, { c.2 with arrays := c.2.arrays.map fun a => { a with cyc := 1 } }) }
/-- SchedulingEvents: a round with a candidate and one without; a round that an array before it, or the seating policy, holds back; the end of a cycle; a free seat; a seat with and without a live gang; holds; a prefetch. -/
theorem test_meets_scheduling :
    ([seated id, seated fun t => { t with yieldTo := 100 }].all fun s => !(s.cluster 0).changing && (s.cluster 0).crat != 3 &&
      0 < (s.core 0).arrays.length && ((s.core 0).arrays.getD 0 {}).cyc ≤ (s.cluster 0).clk && !s.policyDue 0 0 && !s.earlierOpen 0 0) = true ∧
    ((seated id).earlierOpen 0 1 = true ∧ (modU (fun u => { u with gangs := [(0, {})] }) w0).policyDue 0 0 = true) ∧
    pickClass 0 ((seated id).candidates 0 0 9) = some 11 ∧ pickClass 0 ((seated fun t => { t with yieldTo := 100 }).candidates 0 0 9) = none ∧
    (((seated id).candidates 0 0 9).map (·.tk)).Nodup ∧
    (let s := allClosed
     !(s.cluster 0).changing && (s.cluster 0).crat != 3 && decide ((s.cluster 0).clk < ((s.core 0).arrays.getD 0 {}).cyc) && !s.cycleOpen 0) = true ∧
    (let s := modU (fun u => { u with gangs := [(0, {})] }) w0
     findPos (fun x => x == none) ((s.core 0).arrays.getD 0 {}).seats = some 0 ∧ s.nextGang 0 0 = some (uid0, 0) ∧ (s.unit? uid0).isSome = true ∧ 0 < (s.core 0).arrays.length) ∧
    ((seated id).core 0).arrays.map (fun a => (a.seats.getD 0 none).isSome) = [true, false, false, false] ∧
    (w0.thread? tk0).isSome = true ∧ (thr w0).yieldTo ≤ w0.cycOf (thr w0) ∧ (thr w0).depriTo ≤ w0.cycOf (thr w0) ∧
    ((thr w0).live && (thr w0).park.isNone && !(thr w0).halted && !(thr w0).fetched &&
      (match w0.fetchInstr (thr w0) (2 - (thr w0).pre.length) (thr w0).pw with | (.ok _ _, _) => true | _ => false)) = true := by decide +kernel
/-- Two threads of one gang, each with BAR.ARR #15 next and parked, with a condition that holds. -/
def atBar : State :=
  let s := (nx (exec (.prefetchFill tk0) (w0.withFetchWord 32 0b11011010000000001111111110010101))).modThread tk0 fun t => { t with park := some (.haltDone 5) }
  { s with threads := AMap.set s.threads (threadKey uid0 1) { thr s with tg := 1 } }
/-- ParkEvents: each condition that holds and one that does not; the first of two threads at a barrier, and the second. -/
theorem test_meets_park :
    ([(Park.counter (.home 0x300000) 0 0, true), (.counter (.home 0x300000) 1 0, false), (.presence uid0 0, true), (.fault 3, true), (.faultFull, true)].all fun x =>
      let s := with_ fun t => { t with park := some x.1 }
      (s.thread? tk0).isSome && (thr s).park == some x.1 && !s.away (thr s) && s.parkHolds tk0 (thr s) x.1 == x.2 && (thr s).live && !(thr s).ending) = true ∧
    (let s := atBar
     let u := (s.thread? (threadKey uid0 1)).getD (thr s)
     (thr s).barSlot == some 15 && u.barSlot == some 15 && s.parkHolds tk0 (thr s) (.haltDone 5) && s.firstAtBar tk0 (thr s) &&
       s.parkHolds (threadKey uid0 1) u (.haltDone 5) && !s.firstAtBar (threadKey uid0 1) u && !s.away u && (s.threadsOf uid0).length == 2 && w0.firstAtBar tk0 (thr w0)) = true ∧
    w0.targetErr 0x300000 8 true = none := by decide +kernel
def aLoad : LoadRec := { idx := 2, d := 4, size := 8, loc := .home 0x300000, va := 0x300000, tloc := 0, seq := 0 }
def aPend : Pend := { tk := tk0, seq := 0, loc := .home 0x300000, bytes := [1, 2], va := 0x300000, tloc := 0 }
/-- The small machine with an in-port of 2 elements of 8 bytes. -/
def inPort : State := with_ fun t => { t with ports := setAt t.ports 1 ⟨some ⟨0x300000, 8, 2, 0, 3, 0x300100⟩, [{ val := 0 }], [], none, none⟩ }
/-- The small machine with an element in an out-port. -/
def portFull : State := with_ fun t => { t with ports := setAt t.ports 2 ⟨some ⟨0x300000, 8, 2, 1, 11, 0x300100⟩, [], [{ addr := 0x300000, bytes := List.replicate 8 1, tloc := 0, seq := 0 }], none, none⟩ }
/-- MemoryEvents. -/
theorem test_meets_memoryEvents :
    (((w0.modCore 0 fun c => { c with coll := [⟨.home 0x300000, 0⟩] }).core 0).coll[0]?).isSome = true ∧
    ([cADDR, cMEMERR, cXLATE].map targetCause) = [true, true, false] ∧
    (let s := with_ fun t => { t with loads := [aLoad] }
     (s.thread? tk0).isSome && (thr s).loads == [aLoad] && aLoad.res == none && aLoad.err == none && aLoad.loc.collected) = true ∧
    ((((w0.modCore 0 fun c => { c with pend := [aPend] }).core 0).pend[0]?).isSome && !aPend.inColl && aPend.loc.collected) = true ∧ (homeDie 0x300000).isSome = true ∧
    (Loc.home 0x300000).overlap 1 (.home 0x300001) 1 = false ∧ offPackage hostBase = true ∧
    (let p := (thr inPort).ports.getD 1 {}
     (inPort.thread? tk0).isSome && p.bind.any (fun b => !b.isOut && b.pos + p.fin.length < b.count) && !inPort.away (thr inPort) && (thr inPort).live &&
       p.fin.length < 8 && p.fin.all (fun x => x.err.isNone) && (inPort.fetchElem tk0 1 1).1.isSome) = true ∧
    ((portFull.thread? tk0).isSome && !portFull.away (thr portFull) && (thr portFull).oldestOut == some 2 &&
      (portFull.drainOne tk0).1 && (((portFull.drainOne tk0).2.thread? tk0).map (·.ending)) == some false) = true := by decide +kernel

/-! ## Engines at work -/

/-- The machine after a CPY of a card is accepted; 0x300000 points to the card. -/
def copying (card : List Byte) (ch : Fin 8) : State := nx (exec (.cpy ⟨g7, ch, .v 1⟩) (held (modU (fun u => { u with scrSize := 512 }) (carded card))))
/-- Its op. -/
def theOp (s : State) : CopyOp := (s.core 0).chans.flatten.headD { id := 0, tk := 0, uid := 0, ch := 0, seq := 0, card := .gath (gathCardOf []) }
/-- A multicast copy card of 1 row of 16 bytes, to members 0. -/
def castCard : List Byte :=
  leBytes 8 0x300200 ++ leBytes 8 0xF000000000000000 ++ leBytes 4 16 ++ leBytes 4 1 ++ leBytes 4 1 ++ leBytes 4 1 ++ leBytes 16 0 ++ leBytes 8 0x300A00 ++ leBytes 4 1 ++ [1, 4, 0, 1]
def rowV (s : State) (row : Nat) : Bool :=
  let o := theOp s
  (s.op? 0 o.id) == some o && !o.stopped && o.left.contains row && (o.ch != 7 || o.probed) && s.mayBegin 0 o &&
  match o.card with
  | .gath _ => false
  | .copy c =>
    match (s.openOp 0 o).opSource 0 o row (c.srcRow row) c.xb with
    | (.ok src, s1) =>
      (match s1.deliveries (o.agent 0) (AMap.get? o.toks row) c.xb
          (if c.mc then (c.members (s1.esize o.uid) o.mfail).map fun m => (m, memberVa m (c.dstRow row)) else [(8, c.dstRow row)]) {} with
        | (d, s2) => d.wait.isNone && (c.mc || d.bad.isEmpty) &&
          (s2.writeAll (o.agent 0) o.writer (s2.readRuns (o.agent 0) src) d.runs).1)
    | _ => false
/-- The machine after a GATH is accepted, and begun. -/
def gathering : State := nx (exec (.gath ⟨g7, 0, .v 1⟩) (carded gathCard))
def begun : State := gathering.modOp 0 (theOp gathering).id fun o => { o with begun := true }
def elemV (s : State) (el : Nat) : Bool :=
  let o := theOp s
  let o1 := ((s.openOp 0 o).op? 0 o.id).getD o
  (s.op? 0 o.id) == some o && ((s.openOp 0 o).op? 0 o.id).isSome && o1.begun && !o1.stopped && o1.left.contains el && o.begun && (o.ch != 7 || o.probed) && s.mayBegin 0 o &&
  match o.card with
  | .copy _ => false
  | .gath c =>
    (match (s.openOp 0 o).opSource 0 o1 el (c.idx + Word.ofN (4 * el)) 4 with
      | (.ok rs, s1) => ((s1.modOp 0 o.id fun x => { x with index := (x.index.filter fun y => y.1 != el) ++ [(el, (rs.headD { loc := .home 0, n := 0 }))] }).op? 0 o.id).isSome
      | _ => false) &&
    (match s.opSource 0 o el (c.src + Word.ofN (7 * c.srs)) c.rb with
      | (.ok src, s1) =>
        (match s1.deliveries (o.agent 0) (AMap.get? o.toks el) c.rb [(8, o.card.dstRow el)] {} with
          | (d, s2) => d.wait.isNone && d.bad.isEmpty && 7 < c.bnd &&
            (match s2.maskRuns 0 o c (el / 8) 1 true with
              | (.ok mask, s3) => (s3.absentOf o.cleared mask).isNone &&
                (match s3.writeAll (o.agent 0) o.writer (s3.readRuns (o.agent 0) src) d.runs with
                  | (ok, s4) => ok &&
                    (let s5 := s4.opLanded 0 o.id el (d.runs.flatMap fun r => zipRuns el (2 * c.rb + 2) src r.2)
                     (s5.maskWrite 0 o mask (putBit (s5.readRuns (o.agent 0) mask) (el % 8) true) mask).1))
              | _ => false))
      | _ => false)
/-- A card for channel 7 with a status word and a counter. -/
def probing : State := copying (copyCard 0 1 ++ statField) 7
def opEndV (s : State) (ctr : Bool) : Bool :=
  let o := theOp s
  o.stopped && ((s.core 0).chans.getD o.ch []).head?.map (·.id) == some o.id && (o.card.csc != 4 || s.engDelivered 0 o.ch) &&
    (match s.counterLoc (o.agent 0) (AMap.get? o.toks keyCtr) o.card.ctr with
      | (.is (.at_ l), s1) => ctr && (s1.counterWait o.late l).isNone
      | (.is .none, _) => !ctr
      | _ => false)
def stopAll (s : State) : State := s.modOp 0 (theOp s).id fun o => { o with stopped := true }
/-- CopyEngineEvents: a waiting thread; rows of a plain copy, a multicast, and channel 7; elements; the probe; the watchdog; the end with and without a counter. -/
theorem test_meets_copying :
    (((w0.modCore 0 fun c => { c with waitq := setAt c.waitq 7 [tk0] }).core 0).waitq.getD 7 [] = [tk0] ∧ ((w0.core 0).chans.getD 7 []).length < 32 ∧
      (with_ fun t => { t with park := some (.chan 7) }).waitsPlace tk0 = true ∧ (with_ fun t => { t with park := some .matrix }).waitsPlace tk0 = true) ∧
    (rowV (copying (copyCard 0 0) 0) 0 && rowV (copying (copyCard 0 0) 0) 1 && rowV (copying castCard 3) 0 &&
      rowV (probing.modOp 0 (theOp probing).id fun o => { o with probed := true }) 1) = true ∧
    (elemV begun 0 && elemV begun 1) = true ∧
    (let o := theOp probing
     (match o.card with
      | .copy c => o.ch == 7 && !o.probed && !o.stopped && probing.mayBegin 0 o &&
        (match (probing.openOp 0 o).pinAll 0 o.id ((if c.ctr = 0 then [] else [(c.ctr, true)]) ++ (match c.stat with | some a => [(a, true)] | none => []) ++
          o.left.flatMap fun q => ((pagesOf (c.xb + 1) (c.srcRow q) c.xb).map fun v => (v, false)) ++
            ((pagesOf (c.xb + 1) (c.dstRow q) c.xb).map fun v => (v, true))) with
          | (.ok _, _) => true
          | _ => false)
      | _ => false)) = true ∧
    (let s := (copying (copyCard 0 0) 0).modOp 0 (theOp (copying (copyCard 0 0) 0)).id fun o => { o with waitOn := [{ row := 0, uid := uid0, line := 0 }], waited := 4000000 }
     (theOp s).waitOn.length == 1 && decide (4000000 ≤ (theOp s).waited + (s.hub.tmr - (theOp s).waitFrom))) = true ∧
    (opEndV (stopAll (copying (copyCard 0 0) 0)) false && opEndV (stopAll (copying castCard 3)) true && (theOp probing).clearedOf [] == false &&
      (let s := (stopAll (copying castCard 3)).modOp 0 (theOp (copying castCard 3)).id fun o => { o with ctr := some (.bad 5) }
       (theOp s).ctr == some (.bad 5) && (theOp s).stopped && ((s.core 0).chans.getD 3 []).head?.map (·.id) == some (theOp s).id && s.counterWait true (.home 0) == none) &&
      (let s := stopAll ((copying (copyCard 0 0) 0).modOp 0 (theOp (copying (copyCard 0 0) 0)).id fun o => { o with waitOn := [{ row := keyCtr, uid := uid0, line := 0 }], waited := 4000000 })
       (theOp s).stopped && (theOp s).waitOn.length == 1 && decide (4000000 ≤ (theOp s).waited + (s.hub.tmr - (theOp s).waitFrom))) && (theOp (copying (copyCard 0 0) 0)).card.stat.isNone) = true := by
  decide +kernel

/-- The machine after an MXL is accepted, its job in a context. -/
def working (f : Job → Job) : State :=
  let s := nx (exec (.mxl ⟨g7, .v 4, .v 1⟩) (modU (fun u => { u with scrSize := 4096, resv := u.resv.map fun r => (r.1, { r.2 with size := 1024 }) }) (held (carded (jobCard 0)))))
  s.modCore 0 fun c => { c with jobs := c.jobs.map fun j => f { j with ctx := true } }
def theJob (s : State) : Option Job := (s.core 0).jobs.head?
def stepV (s : State) : Bool :=
  (theJob s).any fun j => !s.held 0 && !(s.cluster 0).changing && (s.core 0).runnable == [j] && (s.jobStep 0 j).1 &&
    (match s.jobSegment 0 j with
      | .ok (acc, _) s1 => decide (j.segs ≤ j.seg + 1) &&
        (match s1.tileLocs 0 j j.tile with
          | .ok locs s2 => (s2.writeTile 0 j j.tile acc locs).1
          | _ => false)
      | _ => false)
/-- MatrixEngineEvents. -/
theorem test_meets_matrix :
    (((w0.modCore 0 fun c => { c with waitq := setAt c.waitq 8 [tk0] }).core 0).waitq.getD 8 [] = [tk0] ∧ (w0.core 0).jobs.length < 32) ∧
    (let c := (working fun j => { j with ctx := false }).core 0
     (c.jobs.filter (·.ctx)).length < 4 ∧ (c.jobs.find? fun j => !j.ctx).isSome = true) ∧
    stepV (working id) = true ∧
    (let s := working fun j => { j with ended := true }
     (theJob s).any fun j => s.mjob? 0 j.id == some j && (((s.core 0).jobs.takeWhile fun x => x.id != j.id).all fun x => x.uid != j.uid) && j.card.csc != 4 &&
       (match s.counterLoc (j.agent 0) (AMap.get? j.toks keyCtr) j.card.ctr with | (.is .none, _) => true | _ => false)) = true ∧
    (let s := working fun j => { j with ended := true, card := { j.card with ctr := 0x300A00 } }
     (theJob s).any fun j => j.ended && (match s.counterLoc (j.agent 0) (AMap.get? j.toks keyCtr) j.card.ctr with | (.is (.at_ l), s1) => (s1.counterWait j.late l).isNone | _ => false)) = true ∧
    (let s := working fun j => { j with waitOn := some (uid0, 0), waited := 4000000 }
     (theJob s).any fun j => (s.op? 0 j.id).isNone && j.waitOn.isSome && decide (4000000 ≤ j.waited + (s.hub.tmr - j.waitFrom))) = true ∧
    (((held w0).unit? uid0).bind fun u => AMap.get? u.resv 1).isSome = true ∧
    ((modU (fun u => { u with stat := .ended }) w0).unit? uid0).map (·.stat) = some .ended := by decide +kernel

/-! ## Chains and units -/

/-- An entry of R317: its type, FLAGS, id, SEQ and body. -/
def entryOf (ty fl id seq : Nat) (body : List Byte) : List Byte :=
  leBytes 1 ty ++ leBytes 1 fl ++ leBytes 2 0 ++ leBytes 4 id ++ leBytes 8 seq ++ body ++ List.replicate (112 - body.length) 0
/-- The small machine after boot, with its dies up and a chain of one entry at 0x300000, whose turn it is. -/
def chainOn (n : Nat) (bs : List Byte) (s : State := w0) (c : Chain := {}) : State :=
  ((s.writeAt 0 (.home 0x300000) bs).modHub fun h => { h with bootDone := true, ep := List.replicate 10 2, nextChain := n }).modChain n fun x =>
    { c with base := 0x300000, size := 16, tail := 1, prog := 0x301000, job := x.job }
/-- The checks of Takes, with the state that follows. -/
def takesV (s : State) (n ty : Nat) (bs : List Byte) : Option State :=
  let c := s.chain n
  if n < 16 && s.hub.bootDone && c.stat != 2 && c.hasEntry && field bs 0 1 == ty then
    if c.phase = .waiting then (if c.entry = bs then some s else none)
    else
      let home := c.base.toNat / 128 * 128 + 128 * c.head
      if c.phase = .fetch ∧ s.hub.servedChain = some n ∧ sizeValid c.size.toNat = true ∧ c.skip = false ∧ s.dpaErr home 128 true = none ∧ s.bytesAt 0 (.home home) 128 = bs ∧ entryBad bs = false ∧
          (c.lastSeq.all fun q => decide (q < field bs 8 8)) = true ∧ (ty = eJOB ∨ c.job.isSome = true) then
        some ((s.modHub fun h => { h with nextChain := (n + 1) % 16 }).modChain n fun c => { c with phase := .waiting, entry := bs, stat := 1, lid := 0 })
      else none
  else none
theorem takes_of {s s' : State} {n ty : Nat} {bs : List Byte} (h : takesV s n ty bs = some s') : Takes s n ty bs s' := by
  unfold takesV at h
  dsimp only at h
  split at h
  · rename_i hh
    simp only [Bool.and_eq_true, decide_eq_true_eq] at hh
    obtain ⟨⟨⟨⟨h1, h2⟩, h3⟩, h4⟩, h5⟩ := hh
    refine ⟨h1, h2, by simpa using h3, h4, eq_of_beq h5, ?_⟩
    split at h
    · rename_i hp
      split at h
      · rename_i he; cases h; exact .inl ⟨hp, he, rfl⟩
      · cases h
    · split at h
      · rename_i hc
        cases h
        obtain ⟨c1, c0, c2, c3, c4, c5, c6, c7, c8⟩ := hc
        refine .inr ⟨c1, c0, c2, c3, ⟨c4, c5⟩, c6, fun q hq => ?_, c8, rfl⟩
        rw [hq] at c7
        exact of_decide_eq_true c7
      · cases h
  · cases h
/-- An entry is taken up on chain n, and what follows holds of the state after that. -/
def onEntry (s : State) (n ty : Nat) (bs : List Byte) (f : State → Bool) : Bool := (takesV s n ty bs).any f
def jobBytes (id : Nat) : List Byte := entryOf 1 0 id 5 (leBytes 8 0x100000 ++ leBytes 2 1)
def counterAt8 (v : Nat) (bs : List Byte) (s : State := w0) : State := chainOn 0 bs (s.writeAt 0 (.home 0x300800) (leBytes 8 v))
def waitcBytes : List Byte := entryOf 5 0 0 5 (leBytes 8 0x300800 ++ leBytes 8 3)
/-- ChainEvents: registers at the ends of their range; each entry taken up from memory and again while it waits, with each of its outcomes. -/
theorem test_meets_chains :
    (let s := chainOn 0 []
     s.hub.chains.length = 16 ∧ s.hostTakes = true ∧ (15 : Word).toNat < (s.chain 0).size.toNat ∧ (s.chain 0).size.toNat ≤ (16 : Word).toNat ∧ (s.chain 0).stat ≠ 2 ∧
       ((s.modChain 0 fun c => { c with stat := 2 }).chain 0).stat = 2 ∧ (1 : Word).getLsbD 0 = true) ∧
    (let s := chainOn 1 (jobBytes 7)
     onEntry s 1 1 (jobBytes 7) fun t => (t.job? 7).isNone && (t.chain 1).job.isNone && (upFrom 0 4).all (fun b => t.slice.getD b 0 == entrySlice (jobBytes 7) b) &&
       t.hub.jobs.all (fun j => (upFrom 0 4).all fun d => (j.2.resv.getD d 0) &&& ((entryResv (jobBytes 7)).getD d 0) == 0)) = true ∧
    (onEntry (chainOn 0 (jobBytes 2)) 0 1 (jobBytes 2) (fun t => (t.job? 2).isSome) && onEntry (chainOn 0 (jobBytes 7)) 0 1 (jobBytes 7) (fun t => (t.chain 0).job.isSome) &&
      onEntry (chainOn 3 (jobBytes 0)) 3 1 (jobBytes 0) (fun _ => true)) = true ∧
    ([1, 5].all fun id => onEntry (chainOn 0 (entryOf 2 0 id 5 [])) 0 2 (entryOf 2 0 id 5 []) fun t => (t.chain 0).job == some 2 && (t.job? 2).isSome &&
      (t.openGraph id).isSome == (id == 1)) = true ∧
    (onEntry (chainOn 0 (entryOf 4 0 0 5 [])) 0 4 (entryOf 4 0 0 5 []) (fun t => (t.chain 0).job == some 2) &&
      onEntry (chainOn 0 (entryOf 6 0 0 5 [])) 0 6 (entryOf 6 0 0 5 []) (fun t => (t.chain 0).job == some 2)) = true ∧
    ([2, 3].all fun v => onEntry (counterAt8 v waitcBytes) 0 5 waitcBytes fun t => (t.job? 2).any fun j =>
      (match t.seqCounter 0 j 0x300800 with | (.val x, _) => x == v | _ => false) &&
      (takesV t 0 5 waitcBytes).isSome && (t.chain 0).phase == .waiting && (t.chain 0).stat != 2 && field (t.chain 0).entry 0 1 == 5) = true ∧
    (let s := (counterAt8 3 []).modLaunch 1 fun l => { l with wctr := 0x300800, wval := 3 }
     (s.launch? 1).any fun l => !l.wok && !l.cancelled && (s.job? l.jid).any fun j => match s.seqCounter (keyWctr 1) j l.wctr with | (.val v, _) => v == 3 | _ => false) = true ∧
    ([0, 1].all fun fl => onEntry (chainOn 0 (entryOf 7 fl 9 5 []) (spec3 w0)) 0 7 (entryOf 7 fl 9 5 []) fun t => (t.chain 0).job == some 2 &&
      (t.specLaunch 2 9).any (fun l => !l.resolved) && !t.cancelling 9 && (t.commit 9).1 &&
      ((t.specLaunch 2 9).map fun l => { l with cancelled := true }).any (fun l => (t.modLaunch 9 fun _ => l).cancelling 9)) = true ∧
    (let e := entryOf 7 0 9 5 []
     onEntry (chainOn 0 [] ((spec3 w0).modLaunch 9 fun l => { l with resolved := true, complete := true }) { phase := .waiting, entry := e, lid := 9 }) 0 7 e fun t =>
       (t.chain 0).job == some 2 && (t.specLaunch 2 9).any (fun l => l.resolved && l.complete) && (t.chain 0).lid == 9) = true ∧
    (let s := chainOn 0 [] w0 { phase := .retiring, entry := jobBytes 7, head := 15 }
     s.mem.wf && (s.chain 0).stat != 2 && (s.chain 0).phase == .retiring && (s.dpaErr 0x301000 8 false).isNone &&
       s.seqDelivered && idleV s) = true := by decide +kernel

/-- A machine with a second launch of the job, number 9, that waits; its priority and scratchpad bytes, in a job that reserves core 0. -/
def waiting (prio spb : Nat) (s : State := w0) (idx : Nat := 1) : State :=
  let s := (chainOn 0 [] s).modJob 2 fun j => { j with resv := [1, 0, 0, 0] }
  match s.launch? 1 with
  | none => s
  | some l => s.modHub fun h => { h with launches := AMap.set h.launches 9 { l with started := [], wok := true, desc := { l.desc with units := idx, cls := 2, prio := prio, spb := spb, roles := [{ gangs := 1, regs := 8, entry := 0x200000 }] } } }
/-- The first unit with the whole scratchpad of its core and a save area, in a state. -/
def whole (st : UState) (s : State) : State :=
  (modU (fun u => { u with stat := st, scrSize := 524288, scrHeld := st == .resident || st == .saving }) s).modLaunch 1 fun l => { l with wok := true, desc := { l.desc with spb := 524288, save := 0x310000 } }
def launchEntryV (bs : List Byte) (why : Nat) : Bool :=
  let e := entryOf 3 0 0 5 (leBytes 8 0x300800 ++ leBytes 8 0x300A00)
  onEntry (chainOn 0 e (w0.writeAt 0 (.home 0x300800) bs)) 0 3 e fun t => (t.chain 0).job == some 2 && (t.chain 0).lid == 0 && (t.job? 2).any fun j =>
    j.curGraph.isSome && (match t.seqRead 0 j 3 0x300800 128 with
      | (.ok desc, s1) => desc == bs && (match s1.launchReads 0 j desc with
        | (.ok args spec, s2) => (if (descOf desc).dbgp && !j.dbg then 0x20 else s2.refusalOf 2 desc (.ok args spec)) == why
        | (.bad sp, s2) => why == 0x23 && s2.refusal 2 desc false sp == why && !(descOf desc).dbgp && !descBad desc none && !rolesBad desc && !s2.neverFits 2 (descOf desc)
        | _ => false)
      | _ => false)
/-- LaunchAndUnitEvents, the launches and units. -/
theorem test_meets_units :
    (launchEntryV (descBytes 1 0 0) 0 && launchEntryV (descBytes 1 0x200 0 |>.set 33 7) 0x21 && launchEntryV (descBytes 1 0 0 |>.set 71 0xF1) 0x23) = true ∧
    (let s := waiting 0 0
     (s.launch? 9).any fun l => ((s.nextGroups 9 l).find? fun g => g.contains 0).any fun g => (s.place 9 l g).isSome && !s.startedBefore 9 0 &&
       s.hub.launches.all fun p => (!servedBefore p.1 p.2 9 l || !s.canAdmit p.1 p.2) && (!decide (l.desc.prio < p.2.desc.prio) || !s.claims p.1 p.2)) = true ∧
    (let s := whole .preempted (chainOn 0 [])
     (s.unit? uid0).any fun u => (s.launchOf uid0).any fun l => u.stat == .preempted && (s.takeIn u.lid u.idx true).isSome && u.saveHit.isEmpty && !u.dbg.halt && u.savedOps.isEmpty && u.savedJobs.isEmpty &&
       (match s.readBlocks ((s.fellows u.lid u.idx l).filter fun x => ((s.unit? x).map (·.stat)) == some .preempted) with
         | (ok, s1) => ok && (s1.takeIn u.lid u.idx true).isSome) && (s.chooseSites u.lid l [u.idx]).isSome) = true ∧
    (let s := whole .lost (chainOn 0 [])
     (s.unit? uid0).any fun u => u.stat == .lost && (s.takeIn u.lid u.idx true).isSome) = true ∧
    (((whole .saving w0).unit? uid0).map (·.stat)) = some .saving ∧
    (let s := waiting 1 524288 (whole .resident w0)
     (s.unit? uid0).any fun u => (s.launchOf uid0).any fun l => u.stat == .resident && s.hub.launches.any fun p =>
       decide (l.desc.prio < p.2.desc.prio) && s.claims p.1 p.2 && !(s.without []).canAdmit p.1 p.2 && (s.firstVictim p.2.desc.prio).any fun g => g.contains uid0) = true := by
  decide +kernel
/-- A graph of w0's job that is closed, and its launch complete or not. -/
def closedGraph (done : Bool) : State :=
  ((chainOn 0 []).modGraph 1 fun g => { g with closed := true, complete := done }).modLaunch 1 fun l => { l with done := [0], complete := done }
def endedUnit (s : State) : State := modU (fun u => { u with stat := .ended, counted := true }) s
/-- LaunchAndUnitEvents, cancellations and levels. -/
theorem test_meets_levels2 :
    ([(0, uid0), (1, 1), (2, 1), (3, 0), (4, 2)].all fun x =>
      ((w0.modHub fun h => { h with cancels := [{ level := x.1, id := x.2, jid := 2 }] }).hub.cancels[0]?).any fun c => c.level == x.1) = true ∧
    ((w0.job? 2).any fun j => match w0.seqXlate 5 j 0x300800 8 true with | (.ok _, _) => true | _ => false) = true ∧
    (let s := endedUnit (w0.modLaunch 1 fun l => { l with done := [0] })
     (s.launch? 1).any fun l => (s.job? l.jid).any fun j => !l.complete && l.desc.units ≤ l.done.length && !l.desc.specv && s.launchQuiet 1 && (s.levelWrites (· == 1)).1 &&
       ((s.levelWrites (· == 1)).2.bump (keyLevel 1 1) j l.desc.lctr).1) = true ∧
    ([[], [(0x6010, [(0, (7 : Byte))])]].all fun ls =>
      let s := (spec3 w0).modLaunch 9 fun l => { l with resolved := true, spec := l.spec.map fun b => { b with lines := ls } }
      (s.launch? 9).any fun l => !l.complete && decide (l.desc.units ≤ l.done.length) && l.resolved && s.launchQuiet 9 &&
        l.spec.any fun b => b.lines[b.written]?.isSome == !ls.isEmpty) = true ∧
    ([false, true].all fun early =>
      let s := (closedGraph true).modJob 2 fun j => { j with cancelledPhases := [0], early := early }
      (s.job? 2).any fun j => !j.cancelled && j.cancelledPhases.contains j.phase && j.early == early && !(s.chain j.chain).waitsAt 4 && !(s.chain j.chain).waitsAt 6 &&
        (s.graphsOf 2).all (fun g => g.phase != j.phase || g.complete) &&
        (match s.phaseBoundary 2 with
          | (true, s1) => (match s1.levelWrites fun lid => ((s1.launch? lid).map (·.jid)) == some 2 with
            | (true, s2) => (s2.phaseMirror 2 j).1
            | _ => false)
          | _ => false)) = true ∧
    (let s := (closedGraph false).modLaunch 1 fun l => { l with complete := true }
     (s.openGraph 1).any fun g => g.closed && (s.job? g.jid).any fun j => (s.launchesOf g.key).all (fun p => p.2.complete) &&
       (match s.levelWrites fun lid => (s.launchesOf g.key).any fun p => p.1 == lid with | (ok, s1) => ok && (s1.bump (keyLevel 2 g.key) j g.gctr).1)) = true ∧
    ([(4, false, 0), (6, false, 0), (0, true, 0)].all fun x =>
      let s := ((closedGraph true).modChain 0 fun c => { c with phase := .waiting, entry := entryOf x.1 0 0 5 [] }).modJob 2 fun j => { j with cancelled := x.2.1 }
      (s.job? 2).any fun j => j.cancelled == x.2.1 && !j.closing && (s.chain j.chain).job == some 2 && (x.2.1 || (s.chain j.chain).waitsAt x.1) &&
        (s.graphsOf 2).all (fun g => g.phase != j.phase || g.complete) && !(s.phaseGraphs 2 j).isEmpty &&
        (match s.phaseBoundary 2 with
          | (true, s1) => (match s1.levelWrites fun lid => ((s1.launch? lid).map (·.jid)) == some 2 with
            | (true, s2) => (s2.bump (keyLevel 3 2) j j.pctr).1
            | _ => false)
          | _ => false)) = true ∧
    ([false, true].all fun cancel =>
      let s := ((closedGraph true).modChain 0 fun c => { c with phase := .waiting, entry := entryOf 6 0 0 5 [] }).modJob 2 fun j =>
        { j with phase := 1, cancelled := cancel, closing := cancel }
      (s.job? 2).any fun j => j.cancelled == cancel && j.closing == cancel && (s.chain j.chain).job == some 2 && (s.chain j.chain).waitsAt eEND &&
        (s.graphsOf 2).all (fun g => g.complete) && (s.jobLaunches 2).all (fun p => p.2.complete) && (s.phaseGraphs 2 j).isEmpty &&
        (match s.levelWrites fun lid => ((s.launch? lid).map (·.jid)) == some 2 with | (true, s1) => (s1.bump (keyLevel 4 2) j j.jctr).1 | _ => false)) = true := by
  decide +kernel

/-! ## Translation, island, resets, power and the host's registers -/

def hub (f : Hub → Hub) (s : State := w0) : State := s.modHub f
def aFault : FaultEnt := { token := 4, ck := none, asn := 1, va := 0x310000, kind := 0, reason := 0, born := 0 }
/-- An invalidation of a page that an access used and of one that none did: whether what XINV_DONE waits for is over. -/
def quietV (s : State) : Bool :=
  (s.cores.all fun c => c.2.pend.all fun p => !(tagGlobal p.va && s.xinvHit (p.tk / 1024) p.va)) &&
  (s.threads.all fun p => p.2.loads.all fun r => r.res.isSome || r.err.isSome || !tagGlobal r.va || !s.xinvHit p.2.uid r.va) &&
  (s.cores.all fun c => c.2.chans.flatten.all fun o => o.pins.all fun p => !s.inXinv (s.spaceOf o.uid).1 p.1) &&
  (s.threads.all fun p => p.2.ports.all fun q => q.fin.all fun e => !e.wait || !e.loc.any s.xinvLoc) &&
  (s.offw.all fun w => !s.xinvHome w.dpa) &&
  (s.hub.launches.all fun l => l.2.spec.all fun b => !s.xinvHome b.head && b.lines.all fun e => !s.xinvHome (128 * e.1))
/-- TranslationEvents: an entry that is there, past its limit and at it, and one that is not; values at the ends of their ranges; an invalidation that may end and one
that may not; a slice size that a JOB entry asks for. -/
theorem test_meets_translation :
    (let s := hub fun h => { h with faults := [aFault], fqLimit := 1, tmr := 1001 }
     s.hostTakes = true ∧ (s.hub.faults.find? fun f => f.token == 4 && f.live) = some aFault ∧ s.hub.fqLimit ≠ 0 ∧ s.hub.fqLimit.toNat * 1000 < s.hub.tmr - aFault.born ∧
       (s.hub.faults.find? fun f => f.token == 5 && f.live) = none ∧ 1000 - aFault.born ≤ s.hub.fqLimit.toNat * 1000) ∧
    (let s := hub fun h => { h with fqSize := 64 }
     s.hostTakes = true ∧ (63 : Word).toNat < s.hub.fqSize.toNat ∧ s.hub.fqSize.toNat ≤ (64 : Word).toNat ∧ (0x1000 : Word).toNat % 4096 = 0 ∧ s.hub.fqHead = s.hub.fqTail ∧
       (0x800 : Word).toNat % 4096 ≠ 0 ∧ (6 ≤ 16 ∧ (0x10000 : Word).toNat = 2 ^ 16) ∧ (∀ k < 17, (0x20000 : Word).toNat ≠ 2 ^ k) ∧ s.hub.faults = []) ∧
    ((hub fun h => { h with bootStage := 1 }).hostTakes = false ∧ (hub fun h => { h with rst := { h.rst with busy := true, dom := 2 } }).hostTakes = false) ∧
    (w0.hub.xinvDone = true ∧ (1 : Word).getLsbD 0 = true ∧ (2 : Word).getLsbD 0 = false) ∧
    (let s := (hub fun h => { h with xinvDone := false, xinvRun := (1, 0x300000, 1) }).modCore 0 fun c => { c with pend := [aPend] }
     s.hub.xinvDone = false ∧ (s.core 0).pend = [aPend] ∧ tagGlobal aPend.va = true ∧ s.xinvHit (aPend.tk / 1024) aPend.va = true ∧
       s.xinvHit (aPend.tk / 1024) 0x310000 = false ∧ quietV s = false) ∧
    (let s := (hub fun h => { h with xinvDone := false, xinvRun := (1, 0x310000, 1), xinvBases := [0x310000] }).modCore 0 fun c => { c with pend := [aPend] }
     let w : OffWrite := { seq := 0, tk := tk0, tloc := 0, dpa := 0x31FFFF }
     quietV s = true ∧ s.xinvHome w.dpa = true ∧ quietV { s with offw := [w] } = false) ∧
    (let e := jobBytes 7 |>.set 26 0xC
     let s := chainOn 1 e (hub fun h => { h with jobs := [] }) { phase := .waiting, entry := e }
     s.slice.getD 1 0 < 4 ∧ (s.units.all fun p => !p.2.onCore || p.2.ck / 64 != 1) = true ∧ s.sliceAsked 1 3 = true) := by decide +kernel

theorem field_pad (xs ys : List Byte) : field (xs ++ ys) xs.length ys.length = leVal ys := by simp [field]
theorem leVal_leBytes : ∀ (n x : Nat), leVal (leBytes n x) = x % 256 ^ n
  | 0, x => by simp [leBytes, leVal, Nat.mod_one]
  | n + 1, x => by
    rw [leBytes, leVal, leVal_leBytes n, BitVec.toNat_ofNat, show 256 ^ (n + 1) = 256 * 256 ^ n from Nat.pow_succ', Nat.mod_mul]
/-- A flit of 120 bytes and its CRC, or another number in the place of it. -/
def flitOf (bs : List Byte) (k : Nat) : List Byte := bs ++ leBytes 8 ((Config.crc64 bs).toNat + k)
/-- IslandEvents: a flit whose CRC holds and one whose CRC does not. -/
theorem test_meets_crc (bs : List Byte) (h : bs.length = 120) :
    (flitOf bs 0).length = 128 ∧ crcOk (flitOf bs 0) = true ∧ crcOk (flitOf bs 1) = false ∧ ∀ off n, off + n ≤ 120 → field (flitOf bs 0) off n = field bs off n := by
  have hc (k : Nat) : field (flitOf bs k) 120 8 = ((Config.crc64 bs).toNat + k) % 2 ^ 64 := by
    have := field_pad bs (leBytes 8 ((Config.crc64 bs).toNat + k))
    rw [h, leBytes_length, leVal_leBytes] at this
    exact this
  have ht (k : Nat) : (flitOf bs k).take 120 = bs := by unfold flitOf; rw [← h, List.take_left]
  have hlt := (Config.crc64 bs).isLt
  unfold crcOk
  rw [hc, hc, ht, ht]
  refine ⟨by simp [flitOf, h, leBytes_length], ?_, ?_, fun off n hn => ?_⟩
  rotate_left 2
  · unfold flitOf field
    rw [List.drop_append_of_le_length (by omega), List.take_append_of_le_length (by simp; omega)]
  · rw [beq_iff_eq]; omega
  · rw [beq_eq_false_iff_ne]; omega
def linked (f : Link → Link) : State := w0.modLink 17 fun l => f { l with st := 2, lanes := 8 }
/-- IslandEvents. -/
theorem test_meets_island :
    (0 + [(1 : Byte)].length ≤ w0.hub.bar2 ∧ w0.dpaErr (w0.hub.aperBase.toNat + 0) 1 false = none ∧ w0.dpaErr (w0.hub.aperBase.toNat + 0) 1 true = none) ∧
    (let s := hub fun h => { h with aperBase := 0x7000000000000 }
     (s.dpaErr (s.hub.aperBase.toNat + 0) 1 false).isSome = true ∧ (s.dpaErr (s.hub.aperBase.toNat + 0) 1 true).isSome = true) ∧
    ((linked id).hub.islUp = true ∧ ((linked id).hub.links.getD 17 {}).isUp = true ∧ ((linked id).hub.links.getD 17 {}).cont = none ∧ 17 < (linked id).hub.links.length) ∧
    ([(120, true, []), (121, true, []), (121, false, []), (1, true, [[]]), (240, false, [[]])] : List (Nat × Bool × List (List Byte))).all (fun x => [false, true].all fun bad =>
      let l := (linked fun l => { l with cont := some { addr := if bad then 0x7000000000000 else 0x300000, left := x.1, src := 5, write := x.2.1, bad := bad, fwd := x.2.2 } }).hub.links.getD 17 {}
      l.isUp && l.cont.any fun c => c.left == x.1 && c.write == x.2.1 && c.fwd == x.2.2 && c.bad == bad && ((linked id).targetErr c.addr (Nat.min c.left 120) false).isSome == bad) = true ∧
    (([0, 6, 7, 8] : List Byte).all fun k => let bs := List.replicate 4 0 ++ [k, 9] ++ List.replicate 114 0
      bs.length == 120 && field bs 4 1 == k.toNat && field bs 5 1 == 9 && ((linked fun l => { l with lseq := 9 }).hub.links.getD 17 {}).lseq == 9 && field bs 0 2 % 8192 == 0 && w0.hub.pkgid == 0) = true ∧
    ((linked id).hostTakes = true ∧ (linked id).mem.wf = true ∧ (linked fun l => { l with fails := 15 }).hub.links.length = 18) ∧
    ([(10000, true), (9999, false)].all fun x => let s := hub (fun h => { h with tmr := x.1 }) (linked fun l => { l with unacked := [{ dst := 1, line := 0, flits := [[]] }] })
      let l := s.hub.links.getD 17 {}
      l.isUp && l.unacked != [] && decide (l.fails < 16) && decide (10000 ≤ s.hub.tmr - l.heard) == x.2) = true ∧
    ((linked id).hub.links.getD 17 {}).unacked = [] ∧ (linked id).offw = [] ∧ idleV (linked id) = true ∧
    16 ≤ ((linked fun l => { l with fails := 16 }).hub.links.getD 17 {}).fails ∧
    ((linked fun l => { l with st := 1 }).hub.links.getD 17 {}).st = 1 ∧ ((linked id).hub.links.getD 17 {}).down = false ∧
    (bits (0x3FFFF : Word).toNat 31 18 = 0 ∧ bits (0x40000 : Word).toNat 31 18 ≠ 0) ∧ (hub fun h => { h with islUp := false }).hub.islUp = false := by decide +kernel
/-- ResetAndSparingEvents. -/
theorem test_meets_resets :
    ([0, 1, 2].all fun dom => let v := Word.ofN (0x5EED0002 * 2 ^ 32 + 0x300 + dom); bits v.toNat 63 32 == 0x5EED0002 && bits v.toNat 31 10 == 0 && bits v.toNat 7 0 == dom) = true ∧
    w0.hostTakes = true ∧ w0.hub.rst.busy = false ∧ w0.hub.rst.queued = none ∧ bits (0x5EED0001 : Word).toNat 63 32 ≠ 0x5EED0002 ∧
    (w0.hub.rst.busy = false ∧ w0.hub.ep.length = 10 ∧ w0.hub.ep.getD 3 0 ≠ 3) ∧
    ([0, 2].all fun dom => let s := hub fun h => { h with rst := { h.rst with busy := true, drain := true, dom := dom, die := 3 } }
     s.hub.islUp && s.hub.rst.busy && s.hub.rst.drain && s.hub.rst.dom == dom && decide (s.hub.rst.die < s.hub.ep.length)) = true ∧
    (hub fun h => { h with rst := { h.rst with busy := true, dom := 2 } }).hub.rst.drain = false ∧
    (hub fun h => { h with rst := { h.rst with busy := true, queued := some (0, 3) } }).hub.rst.queued.isSome = true ∧
    (let s := hub fun h => { h with rst := { h.rst with busy := true, dom := 0, die := 3 } }
     s.hub.islUp = true ∧ s.hub.rst.drain = false ∧ s.hub.rst.queued = none ∧ s.hub.rst.busy = true ∧ s.hub.rst.spare = false ∧ s.isSpare s.hub.rst.die = false ∧ s.hub.rst.die < s.hub.ep.length ∧ s.hub.rst.spareQ = []) ∧
    (dmapOk (0xBA98 % 2 ^ 20) = true ∧ dmapOk (0x10098 % 2 ^ 20) = false ∧ dmapOk (0x80008 % 2 ^ 20) = true ∧ (hub fun h => { h with jobs := [] }).hub.jobs = [] ∧ w0.hub.jobs ≠ []) ∧
    (w0.hub.ep.getD 3 0 = 2 ∧ (w0.logOf 3).isSome = true ∧ w0.hub.spar.testing = none ∧ w0.hub.spar.waiting = []) ∧
    (let s := hub fun h => { h with spar := { h.spar with testing := some 3 } }
     s.hub.spar.testing = some 3 ∧ 3 < s.hub.ep.length ∧ s.hub.spar.testing.isSome = true ∧ ∀ w ∈ s.hub.spar.waiting, w.1 ≠ 2) ∧
    (let s := hub fun h => { h with rst := { h.rst with busy := true, dom := 0, die := 3, spare := true } }
     s.hub.islUp = true ∧ s.hub.rst.busy = true ∧ s.hub.rst.drain = false ∧ s.hub.rst.dom = 0 ∧ s.hub.rst.spare = true ∧ (s.logOf s.hub.rst.die).isSome = true ∧
       s.hub.rst.die < s.hub.ep.length ∧ s.hub.rst.spareQ = [] ∧ s.hub.rst.queued = none) := by decide +kernel
def clus (f : Cluster → Cluster) : State := { w0 with clusters := AMap.set w0.clusters 31 (f {}) }
/-- PowerAndMonitorEvents. -/
theorem test_meets_power :
    (bits (0xC : Word).toNat 3 2 = 3 ∧ w0.clusterOf 31 = some 31 ∧ bits (8 : Word).toNat 3 2 ≠ 3 ∧ bits (8 : Word).toNat 1 0 = (w0.cluster 31).crat ∧
      (w0.cluster 31).changing = false ∧ bits (3 : Word).toNat 1 0 ≠ (w0.cluster 31).crat ∧ w0.clusterUsed 31 = false) ∧
    (((clus fun c => { c with rat := 3, changing := true }).cluster 31).changing = true ∧ ((clus fun c => { c with step := 2 }).cluster 31).step = 2 ∧
      (w0.cluster 31).hold = false ∧ (w0.cluster 31).holdFree ≤ w0.hub.tmr ∧ ((clus fun c => { c with hold := true }).cluster 31).hold = true ∧
      w0.hub.tmr < ((clus fun c => { c with holdFree := w0.hub.tmr + 1 }).cluster 31).holdFree) ∧
    ([(0, true), (31, false)].all fun x => w0.clusterOf x.1 == some x.1 && w0.clusterUsed x.1 == x.2) = true ∧
    (((clus fun c => { c with changing := true, goal := 3 }).cluster 31).goal = 3 ∧ (let s := { w0 with clusters := [(0, { changing := true, goal := 3 })] }; (s.cluster 0).changing && s.clusterUsed 0) = true ∧
      (w0.cluster 31).rat ≠ 3 ∧ ((clus fun c => { c with rat := 3 }).cluster 31).changing = false ∧ (1 : Nat) < ((clus fun c => { c with step := 2 }).cluster 31).step) ∧
    ([(7, true), (6, false)].all fun x => let s := hub (fun h => { h with monitors := [(2, { cfg := 0x8000000000000000, src := BitVec.ofNat 32 x.1, sel := 31 })] }) (clus fun c => { c with droop := x.2, hold := !x.2 })
      (AMap.get? s.hub.monitors 2).any fun m => m.src.toNat == x.1 && m.sel.toNat == 31 && (s.cluster 31).droop == x.2 && (s.cluster 31).hold != x.2) = true ∧
    ((hub fun h => { h with joined := false }).hub.joined = false ∧ (hub fun h => { h with joined := true }).hub.joined = true) ∧
    (let m : Monitor := { cfg := 0x8000000000000000, src := 7 }
     m.cfg.getLsbD 63 = true ∧ 6 ≤ m.src.toNat ∧ m.src.toNat ≤ 7 ∧ ({ m with src := 5 } : Monitor).src.toNat = 5 ∧ w0.hostTakes = true ∧ ({ m with src := 8 } : Monitor).src.toNat = 8 ∧ ({} : Monitor).cfg.getLsbD 63 = false) := by decide +kernel
/-- A machine whose mailbox holds a command. -/
def mailed (code len : Nat) (bs : List Byte) : State :=
  let cells := (upFrom 0 bs.length).filterMap fun k => if bs.getD k 0 == 0 then none else some (k, bs.getD k 0)
  hub fun h => { h with jobs := [], bootDone := true, mb := { h.mb with busy := true, code := code, len := len, req := cells } }
/-- HostRegisterEvents. -/
theorem test_meets_registers :
    (0x2000 % 8 = 0 ∧ 0x200C % 4 = 0 ∧ 0x2004 % 8 ≠ 0 ∧ w0.hub.chains.length = 16) ∧
    ((0x40000000 : Word).toNat % w0.hub.bar2 = 0 ∧ (0x20000000 : Word).toNat % w0.hub.bar2 ≠ 0) ∧ (∀ k < 39, 2 ^ 39 ≠ 2 ^ k) ∧
    w0.hub.mb.busy = false ∧ (mailed 1 32 []).hub.mb.busy = true ∧ w0.hub.jobs ≠ [] ∧
    (let s := mailed 2 8 (leBytes 1 3 ++ [0, 0, 0] ++ leBytes 4 0x800000)
     s.hub.mb.code = 2 ∧ s.hub.jobs = [] ∧ 8 ≤ s.hub.mb.len ∧ s.hub.mb.reqBytes 0 8 = leBytes 1 3 ++ [0, 0, 0] ++ leBytes 4 0x800000 ∧ 0x800000 + (s.hub.mb.len - 8) ≤ 2 ^ 23) ∧
    (let s := hub (fun h => { h with bootStage := 1 }) (mailed 2 8 (leBytes 1 3 ++ [0, 0, 0] ++ leBytes 4 0))
     s.recovery = true ∧ s.hubDown = false ∧ s.hub.jobs = [] ∧ s.hub.mb.busy = true ∧ (hub (fun h => { h with bootStage := 1 }) (mailed 1 32 [])).hub.mb.code ≠ 2) ∧
    ((hub fun h => { h with rst := { h.rst with busy := true, dom := 2 } }).hubDown = true ∧ w0.hostTakes = true ∧ w0.recovery = false) ∧
    ([(1, 31), (3, 0), (0, 0), (4, 0)].all fun x => (mailed x.1 x.2 []).hub.mb.code == x.1 && (mailed x.1 x.2 []).hub.mb.len == x.2 && !(mailed x.1 x.2 []).recovery) = true ∧
    (hub fun h => { h with bootDone := false }).hub.bootDone = false := by decide +kernel

/-! ## Results worked out from the rules

Each row is an instruction with its sources in v1 and v2, the old value of v4 where it reads it, and the value that v4 holds after it. -/

/-- The small machine after one instruction, with values of v1, v2 and v4. -/
def after (i : Instr) (a b d : Word) : State := nx (exec i (with_ fun t => ((t.setReg 1 a).setReg 2 b).setReg 4 d))
def val4 (i : Instr) (a b d : Word) : Word := (thr (after i a b d)).reg 4
def rows3 (xs : List ((Op3 → Instr) × Word × Word × Word × Word)) : Bool :=
  xs.all fun x => val4 (x.1 ⟨g7, false, .v 4, .v 1, .v 2⟩) x.2.1 x.2.2.1 x.2.2.2.1 == x.2.2.2.2
def rows2 (xs : List ((Op2 → Instr) × Word × Word × Word)) : Bool := xs.all fun x => val4 (x.1 ⟨g7, false, .v 4, .v 1⟩) x.2.1 0 x.2.2.1 == x.2.2.2
/-- Integer three-operand results, by hand from the table of R136: wraps, the sign of a .32 result, shift counts modulo 64, floors. -/
theorem test_integer : rows3 [
    (.iadd, 0xFFFFFFFFFFFFFFFF, 2, 0, 1), (.isub, 3, 5, 0, 0xFFFFFFFFFFFFFFFE), (.imul, 0x8000000000000001, 6, 0, 6), (.imac, 7, 0xFFFFFFFFFFFFFFFF, 5, 0xFFFFFFFFFFFFFFFE),
    (.iadd32, 0x17FFFFFFF, 1, 0, 0xFFFFFFFF80000000), (.isub32, 0xF00000000, 1, 0, 0xFFFFFFFFFFFFFFFF), (.imul32, 0x10000, 0x8000, 0, 0xFFFFFFFF80000000),
    (.imac32, 0x10000, 0x10000, 0xA00000007, 7), (.imulhS, 0xFFFFFFFFFFFFFFFF, 5, 0, 0xFFFFFFFFFFFFFFFF), (.imulhN, 0xFFFFFFFFFFFFFFFF, 5, 0, 4),
    (.andOp, 12, 10, 0, 8), (.orOp, 12, 10, 0, 14), (.xorOp, 12, 10, 0, 6), (.andn, 12, 10, 0, 4), (.shl, 3, 65, 0, 6), (.shr, 0x8000000000000000, 0xFFFFFFFFFFFFFFFF, 0, 1),
    (.asr, 0xFFFFFFFFFFFFFFFB, 1, 0, 0xFFFFFFFFFFFFFFFD), (.iminS, 0xFFFFFFFFFFFFFFFF, 1, 0, 0xFFFFFFFFFFFFFFFF), (.imaxS, 0xFFFFFFFFFFFFFFFF, 1, 0, 1),
    (.iminN, 0xFFFFFFFFFFFFFFFF, 1, 0, 1), (.imaxN, 0xFFFFFFFFFFFFFFFF, 1, 0, 0xFFFFFFFFFFFFFFFF), (.sel, 3, 5, 0, 3)] = true := by decide +kernel
/-- Integer unary results, by hand from the table of R138. -/
theorem test_unary : rows2 [
    (.mov, 9, 0, 9), (.notOp, 1, 0, 0xFFFFFFFFFFFFFFFE), (.negOp, 0x8000000000000000, 0, 0x8000000000000000), (.absOp, 0xFFFFFFFFFFFFFFFD, 0, 3), (.popc, 0xF0F0, 0, 8),
    (.clz, 0, 0, 64), (.clz, 0x10, 0, 59), (.ctz, 0, 0, 64), (.ctz, 0x10, 0, 4), (.brev, 1, 0, 0x8000000000000000), (.bswap, 0x0102, 0, 0x0201000000000000),
    (.sx8, 0x180, 0, 0xFFFFFFFFFFFFFF80), (.sx16, 0x18000, 0, 0xFFFFFFFFFFFF8000), (.sx32, 0x180000000, 0, 0xFFFFFFFF80000000), (.zx8, 0x1FF, 0, 0xFF), (.zx16, 0x1FFFF, 0, 0xFFFF),
    (.zx32, 0x1FFFFFFFF, 0, 0xFFFFFFFF)] = true := by decide +kernel
/-- FP32, FP64 and packed results: halfway sums to even, signed zeros, canonical NaNs, ignored high halves (R151, R153, R155, R158, R167, R170). -/
theorem test_float : rows3 [
    (.fadd, 0x3F800000, 0x33800000, 0, 0x3F800000), (.fadd, 0xA3F800001, 0x33800000, 0, 0x3F800002), (.fsub, 0x3F800000, 0x3F800000, 0, 0), (.fmul, 0x7F800000, 0x80000000, 0, 0x7FC00000),
    (.ffma, 0x40000000, 0x40400000, 0x3F800000, 0x40E00000), (.fmin, 0x80000000, 0, 0, 0x80000000), (.fmin, 0x7FC00001, 0x3F800000, 0, 0x3F800000), (.fmax, 0x80000000, 0, 0, 0),
    (.dadd, 0x3FF0000000000000, 0x3CA0000000000000, 0, 0x3FF0000000000000), (.dsub, 0x7FF0000000000000, 0x7FF0000000000000, 0, 0x7FF8000000000000),
    (.dmul, 0x4000000000000000, 0xC008000000000000, 0, 0xC018000000000000), (.dfma, 0x4000000000000000, 0x4008000000000000, 0x3FF0000000000000, 0x401C000000000000),
    (.dmin, 0x3FF0000000000000, 0xBFF0000000000000, 0, 0xBFF0000000000000), (.dmax, 0x3FF0000000000000, 0xBFF0000000000000, 0, 0x3FF0000000000000),
    (.hadd, 0x7BFF00003C003C00, 0x7BFF80003C00BC00, 0, 0x7C00000040000000), (.hmul, 0x4200420042004200, 0x4000C00040004000, 0, 0x4600C60046004600),
    (.hfma, 0x4000400040004000, 0x4200420042004200, 0x3C003C003C003C00, 0x4700470047004700), (.badd, 0x3F803F803F803F80, 0x3F803F803F803F80, 0, 0x4000400040004000),
    (.bmul, 0x4040404040404040, 0x4000400040004000, 0, 0x40C040C040C040C0), (.bfma, 0x4000400040004000, 0x4040404040404040, 0x3F803F803F803F80, 0x40E040E040E040E0)] = true := by
  decide +kernel
/-- Sign operations, and the rows of the edge-value table of R174 (R172 to R174). -/
theorem test_special : rows2 [
    (.fneg, 0, 0, 0x80000000), (.fabs, 0xFF800000, 0, 0x7F800000), (.dneg, 0x7FF8000000000001, 0, 0x7FF8000000000000), (.dabs, 0x8000000000000000, 0, 0),
    (.frcp, 0x40400000, 0, 0x3EAAAAAA), (.frcp, 0x7F7FFFFF, 0, 0x00200000), (.frsq, 0x80000000, 0, 0xFF800000), (.frsq, 0x40800000, 0, 0x3F000000), (.fsqrt, 0x80000000, 0, 0x80000000),
    (.fsqrt, 0x41100000, 0, 0x40400000), (.fex2, 0x43000000, 0, 0x7F7FFFFF), (.fex2, 0xC3150000, 0, 1), (.flg2, 0x3F800000, 0, 0), (.flg2, 0x41000000, 0, 0x40400000),
    (.drcp, 0x4000000000000000, 0, 0x3FE0000000000000), (.dsqrt, 0x4022000000000000, 0, 0x4008000000000000), (.drsq, 0x4010000000000000, 0, 0x3FE0000000000000)] = true := by
  decide +kernel
/-- Scaling, exponents and rounding to integral values: the worked step of the chapter on floating point, and R175 to R178. -/
theorem test_exponents : rows2 [
    (.fscale, 0xFFFFFFFFFFFFFFFC, 0x3F9837F0, 0x3D9837F0), (.fscale, 200, 0x3F800000, 0x7F800000), (.dscale, 1, 0xBFF0000000000000, 0xC000000000000000), (.fxpn, 1, 0, 0xFFFFFFFFFFFFFF6B),
    (.fxpn, 0, 0, 0x8000000000000000), (.dxpn, 0x4010000000000000, 0, 2), (.dxpn, 0x7FF0000000000000, 0, 0x7FFFFFFFFFFFFFFF), (.ex2s, 0x40500000, 0, 0x3F9837F0), (.ex2s, 0xBF400000, 0, 0x3F9837F0),
    (.frintRn, 0x40200000, 0, 0x40000000), (.frintRz, 0xBFC00000, 0, 0xBF800000), (.frintRm, 0x3E800000, 0, 0), (.frintRp, 0xBE800000, 0, 0x80000000),
    (.drintRn, 0x3FF8000000000000, 0, 0x4000000000000000), (.drintRz, 0x3FF8000000000000, 0, 0x3FF0000000000000), (.drintRm, 0xBFF8000000000000, 0, 0xC000000000000000),
    (.drintRp, 0x3FF8000000000000, 0, 0x4000000000000000)] = true := by decide +kernel
/-- EX2S leaves 3 in v5 and both values in the latches, the second on top (R177). -/
theorem test_ex2s : let t := thr (after (.ex2s ⟨g7, false, .v 4, .v 1⟩) 0x40500000 0 0)
    t.reg 5 = 3 ∧ (t.b.getD 0 {}).val = 3 ∧ (t.b.getD 1 {}).val = 0x3F9837F0 := by decide +kernel
/-- Conversions: rounding, saturation, NaN to 0 (R179, R180). -/
theorem test_convert : rows2 [
    (.cvtF64F32, 0x3FC00000, 0, 0x3FF8000000000000), (.cvtF32F64, 0x3FF0000010000000, 0, 0x3F800000), (.cvtF16F32, 0x477FF000, 0, 0x7C00), (.cvtF16F32, 0x477FEFFF, 0, 0x7BFF),
    (.cvtBf16F32, 0x3F808000, 0, 0x3F80), (.cvtF32F16, 0xC000, 0, 0xC0000000), (.cvtF32Bf16, 0x13F80, 0, 0x3F800000), (.cvtF32S64, 0xFFFFFFFFFFFFFFFF, 0, 0xBF800000),
    (.cvtF32N64, 0xFFFFFFFFFFFFFFFF, 0, 0x5F800000), (.cvtF64S64, 0xFFFFFFFFFFFFFFFE, 0, 0xC000000000000000), (.cvtF64N64, 0x8000000000000000, 0, 0x43E0000000000000),
    (.cvtS32F32, 0xCF800000, 0, 0xFFFFFFFF80000000), (.cvtN32F32, 0xBF800000, 0, 0), (.cvtN32F32, 0x4F800000, 0, 0xFFFFFFFF), (.cvtS64F32, 0xBFC00000, 0, 0xFFFFFFFFFFFFFFFF),
    (.cvtN64F32, 0x7FC00000, 0, 0), (.cvtS32F64, 0x41E0000000000000, 0, 0x7FFFFFFF), (.cvtN32F64, 0x40091EB851EB851F, 0, 3), (.cvtS64F64, 0xC3E0000000000000, 0, 0x8000000000000000),
    (.cvtN64F64, 0x43F0000000000000, 0, 0xFFFFFFFFFFFFFFFF)] = true := by decide +kernel
/-- A compare writes the predicate and its partner; with a NaN only NE and UNORD hold (R40, R142, R171). -/
theorem test_compare :
    let p (i : Instr) (a b : Word) : List Bool := ((thr (after i a b 0)).p).take 2
    p (.icmpS ⟨g7, .lt, 0, .v 1, .v 2⟩) 0xFFFFFFFFFFFFFFFF 1 = [true, false] ∧ p (.icmpN ⟨g7, .lt, 1, .v 1, .v 2⟩) 0xFFFFFFFFFFFFFFFF 1 = [true, false] ∧
    p (.icmpS ⟨g7, .tst, 1, .v 1, .v 2⟩) 12 4 = [false, true] ∧ p (.fcmp ⟨g7, .ge, 0, .v 1, .v 2⟩) 0x7FC00000 0 = [false, true] ∧
    p (.fcmp ⟨g7, .unord, 0, .v 1, .v 2⟩) 0x7FC00000 0 = [true, false] ∧ p (.dcmp ⟨g7, .eq, 0, .v 1, .v 2⟩) 0x8000000000000000 0 = [true, false] := by decide +kernel
/-- W = 1 leaves D and shifts the latches; a false guard does neither (R28, R30, R132). -/
theorem test_latches :
    let t := thr (after (.iadd ⟨g7, true, .v 4, .v 1, .v 2⟩) 1 2 9)
    let u := thr (after (.iadd ⟨⟨true, 7⟩, false, .v 4, .v 1, .v 2⟩) 1 2 9)
    t.reg 4 = 9 ∧ (t.b.getD 0 {}).valid = true ∧ (t.b.getD 0 {}).val = 3 ∧ u.reg 4 = 9 ∧ (u.b.getD 0 {}).valid = false ∧ u.pc = 0x200004 := by decide +kernel
/-- A destination that is also a source; a small integer; lane and thread numbers; the low end of the small integers (R8, R33, R34). -/
theorem test_sources : val4 (.isub ⟨g7, false, .v 4, .v 1, .v 4⟩) 7 0 2 = 5 ∧ val4 (.iadd ⟨g7, false, .v 4, .v 1, .imm 0⟩) 7 0 2 = 0xFFFFFFFFFFFFFFFC ∧
    val4 (.iadd ⟨g7, false, .v 4, .tg, .ln⟩) 7 0 2 = 0 ∧ val4 (.fadd ⟨g7, false, .v 4, .v 1, .imm 12⟩) 0 0 2 = 0x3F800000 := by decide +kernel

/-! ## Memory, control, collectives and engines

Expected values worked out from the rules that each test names. -/

/-- A load of the scratchpad's first bytes. -/
def loadOf (mk : MemOp → Instr) (bs : List Byte) : List (Option Word) :=
  (thr (nx (exec (mk ⟨g7, false, .v 4, .v 1, .z⟩) (modU (fun u => { u with scr := u.scr.setBytes 0 bs }) scr0)))).loads.map (·.res)
/-- The lowest byte stands at the lowest address; the .s forms extend the sign, the others zero (R3, R118). -/
theorem test_loads : loadOf .ld8 [0x80, 1] = [some 0x80] ∧ loadOf .ld8S [0x80, 1] = [some 0xFFFFFFFFFFFFFF80] ∧ loadOf .ld16 [1, 0x80] = [some 0x8001] ∧
    loadOf .ld16S [1, 0x80] = [some 0xFFFFFFFFFFFF8001] ∧ loadOf .ld32 [1, 0, 0, 0x80, 9] = [some 0x80000001] ∧
    loadOf .ld32S [1, 0, 0, 0x80, 9] = [some 0xFFFFFFFF80000001] ∧ loadOf .ld64 [8, 7, 6, 5, 4, 3, 2, 1] = [some 0x0102030405060708] := by decide +kernel
/-- The bytes of a store of v3 = -5 (R239). -/
theorem test_stores : ((nx (exec (.st16 ⟨g7, false, .v 3, .v 1, .v 2⟩) w0)).core 0).pend.map (fun p => (p.loc, p.bytes)) = [(.home 0x300008, [0xFB, 0xFF])] ∧
    ((nx (exec (.st8 ⟨g7, false, .v 3, .v 1, .z⟩) w0)).core 0).pend.map (·.bytes) = [[0xFB]] ∧
    ((nx (exec (.st32 ⟨g7, false, .v 3, .v 1, .z⟩) w0)).core 0).pend.map (·.bytes) = [[0xFB, 0xFF, 0xFF, 0xFF]] ∧
    ((nx (exec (.st64 ⟨g7, false, .v 2, .v 1, .z⟩) w0)).core 0).pend.map (·.bytes) = [[8, 0, 0, 0, 0, 0, 0, 0]] := by decide +kernel
/-- An access off its alignment, and one to a tag of no space, trap (R54, R57, R341). -/
theorem test_access_traps : (thr (after (.ld64 ⟨g7, false, .v 4, .v 1, .z⟩) 0x300004 0 0)).tcause = cALIGN ∧
    (thr (nx (exec (.ld64 ⟨g7, false, .v 4, .v 3, .z⟩) w0))).tcause = cADDR ∧ cALIGN = 5 ∧ cADDR = 6 := by decide +kernel
/-- The old value an atomic on the word 5 gives v2 = 8, and the word after it. -/
def atomOf (mk : AtomOp → Instr) (x : Word) (old : Nat) : List (Option Word) × Nat :=
  let s := nx (exec (mk ⟨g7, false, .v 2, .v 1, .core, false⟩) (((with_ fun t => (t.setReg 2 x).setReg 3 77).writeAt 0 (.home 0x300000) (leBytes 4 old))))
  ((thr s).loads.map (·.res), leVal (s.bytesAt 0 (.home 0x300000) 4))
/-- Each atomic on a word of four bytes (R245, R246); v3 holds the value that CAS swaps in. -/
theorem test_atomics : [atomOf .atomAdd 8 0xFFFFFFFF, atomOf .atomAnd 12 10, atomOf .atomOr 12 10, atomOf .atomXor 12 10, atomOf .atomMinS 0xFFFFFFFF 1,
    atomOf .atomMaxS 0xFFFFFFFF 1, atomOf .atomMinN 0xFFFFFFFF 1, atomOf .atomMaxN 0xFFFFFFFF 1, atomOf .atomXchg 9 1, atomOf .atomFadd 0x3F800000 0x40000000,
    atomOf .atomIncw 5 5, atomOf .atomIncw 5 4, atomOf .atomCas 6 6, atomOf .atomCas 6 7, atomOf .atomCasPromote 6 6] =
    [([some 0xFFFFFFFF], 7), ([some 10], 8), ([some 10], 14), ([some 10], 6), ([some 1], 0xFFFFFFFF), ([some 1], 1), ([some 1], 1), ([some 1], 0xFFFFFFFF),
     ([some 1], 9), ([some 0x40000000], 0x40400000), ([some 5], 0), ([some 4], 5), ([some 6], 77), ([some 7], 7), ([some 6], 77)] := by decide +kernel
/-- LDACQ reads at home, STREL stores at home (R241, R242). -/
theorem test_acquire : (thr (nx (exec (.ldacq ⟨g7, false, .v 4, .v 1, true, .dev, true⟩) (w0.writeAt 0 (.home 0x300000) (leBytes 8 0x1234))))).loads.map (·.res) = [some 0x1234] ∧
    (nx (exec (.strel ⟨g7, false, .v 3, .v 1, .sys, true⟩) w0)).bytesAt 0 (.home 0x300000) 8 = [0xFB, 0xFF, 0xFF, 0xFF, 0xFF, 0xFF, 0xFF, 0xFF] := by decide +kernel
/-- HACC adds to the value of a key that is there, and enters a key that is not (R248); v3 holds -5. -/
theorem test_hash : (thr (nx (exec (.atomHacc ⟨g7, false, .v 2, .v 1⟩) (table 8 5)))).loads.map (fun r => (r.res, r.res2)) = [(some 0, some 2)] ∧
    (thr (nx (exec (.atomHacc ⟨g7, false, .v 2, .v 1⟩) (table 0 5)))).loads.map (fun r => (r.res, r.res2)) = [(some 1, some (-5))] ∧
    (thr (nx (exec (.atomHacc ⟨g7, false, .v 2, .v 1⟩) (table 8 0)))).loads.map (·.res) = [some 3] := by decide +kernel

/-- Transfers: offsets count parcels from the word itself; the link is the address after it (R271 to R273). -/
theorem test_transfers : (thr (nx (exec (.br ⟨g7, false, false, false, 0x3FFFF⟩) w0))).pc = 0x1FFFFE ∧ (thr (nx (exec (.br ⟨⟨true, 7⟩, false, false, false, 8⟩) w0))).pc = 0x200004 ∧
    (let t := thr (nx (exec (.call ⟨g7, false, false, false, 8⟩) w0)); t.pc = 0x200010 ∧ t.reg 59 = 0x200004 ∧ t.cd = 1) ∧
    (thr (nx (exec (.jmpi ⟨g7, .v 1⟩) w0))).pc = 0x300000 ∧ (thr (nx (exec (.jmpi ⟨g7, .v 3⟩) w0))).tcause = cALIGN ∧
    (let t := thr (nx (exec (.calli ⟨g7, .v 1⟩) w0)); t.pc = 0x300000 ∧ t.reg 59 = 0x200004) ∧
    (let t := thr (nx (exec (.ret ⟨g7⟩) (with_ fun t => { (t.setReg 59 0x300000) with cd := 2 }))); t.pc = 0x300000 ∧ t.cd = 1) := by decide +kernel
/-- LOOP of three instructions (here three parcels of 0x0000, two bytes each) eight times; the end of a body; a body skipped (R281, R282). -/
theorem test_loop : (thr (nx (exec (.loop ⟨g7, .v 2, 3⟩) w0))).loops.map (fun l => (l.lc, l.s, l.e)) = [(8, 0x200004, 0x20000C)] ∧
    (thr (nx (exec (.loop ⟨g7, .z, 3⟩) w0))).pc = 0x20000C ∧ (thr (nx (exec (.loop ⟨g7, .v 3, 3⟩) w0))).tcause = cLOOP ∧
    (let t := thr (nx (exec (.iadd ⟨g7, false, .v 4, .v 1, .v 2⟩) (with_ fun t => { t with loops := [lvl 0x200000 0x200004 0] })))
     t.pc = 0x200000 ∧ t.loops.map (·.lc) = [1]) := by decide +kernel
/-- TRAP #2 at a handler, from the worked example of R343: tcause, tloc, the link and depth saved, the handler's address in pc and rpc. -/
theorem test_trap : let t := thr (nx (exec (.trap ⟨g7, .v 2⟩) (handler fun t => (t.setReg 59 0x1F40).setReg 2 2)))
    t.tcause = 0x020D ∧ t.tloc = 0x200000 ∧ t.hv = 0x1F40 ∧ t.hd = 0 ∧ t.ih = true ∧ t.cd = 1 ∧ t.pc = 0x200400 ∧ t.rpc = 0x200400 := by decide +kernel
/-- The handler's RET gives the link back (R343). -/
theorem test_handler_return : let t := thr (nx (exec (.ret ⟨g7⟩) (with_ fun t => { (t.setReg 59 0x200008) with ih := true, hv := 0x1F40, hd := 0, cd := 1 })))
    t.pc = 0x200008 ∧ t.rpc = 0x200008 ∧ t.reg 59 = 0x1F40 ∧ t.ih = false ∧ t.cd = 0 := by decide +kernel
/-- Without a handler a trap ends the thread with status 0xE0 and the cause; EXIT gives its source's low byte (R288, R342). -/
theorem test_ends : let t := thr (nx (exec (.brk ⟨g7⟩) w0)); let u := thr (nx (exec (.exit ⟨g7, .v 3⟩) w0))
    t.live = false ∧ t.status = 0xEC ∧ u.live = false ∧ u.status = 0xFB := by decide +kernel

/-- Two lanes run one collective, lane 0 first: what v4, or v2 of a shuffle, holds in each. -/
def lanes2 (i : Instr) (r : Nat) (a0 d0 a1 d1 : Word) : Word × Word :=
  let k1 := threadKey uid0 1
  let s := ({ w0 with threads := AMap.set w0.threads k1 { thr w0 with tg := 1 } }).modThread tk0 fun t => (t.setReg 1 a0).setReg 2 d0
  let s := s.modThread k1 fun t => (t.setReg 1 a1).setReg 2 d1
  let s := nx (exec i { nx (exec i s) with cur := some k1 })
  ((thr s).reg r, ((s.thread? k1).map (·.reg r)).getD 0)
/-- Collectives of two lanes of a tile of 32 (R188). -/
theorem test_collectives : lanes2 (.elect ⟨g7, .v 4⟩) 4 0 0 0 0 = (1, 0) ∧ lanes2 (.vany ⟨g7, .v 4, .v 1⟩) 4 0 0 7 0 = (1, 1) ∧ lanes2 (.vall ⟨g7, .v 4, .v 1⟩) 4 0 0 7 0 = (0, 0) ∧
    lanes2 (.vbal ⟨g7, .v 4, .v 1⟩) 4 0 0 7 0 = (2, 2) ∧ lanes2 (.shfi ⟨g7, .v 2, .v 1⟩) 2 10 33 20 32 = (20, 10) ∧ lanes2 (.shfa ⟨g7, .v 2, .v 1⟩) 2 10 1 20 1 = (20, 20) ∧
    lanes2 (.shfb ⟨g7, .v 2, .v 1⟩) 2 10 31 20 1 = (20, 10) ∧ lanes2 (.shfx ⟨g7, .v 2, .v 1⟩) 2 10 1 20 3 = (20, 20) ∧ lanes2 (.radd ⟨g7, .v 4, .v 1⟩) 4 10 0 20 0 = (30, 30) ∧
    lanes2 (.rminS ⟨g7, .v 4, .v 1⟩) 4 0xFFFFFFFFFFFFFFFF 0 3 0 = (0xFFFFFFFFFFFFFFFF, 0xFFFFFFFFFFFFFFFF) ∧ lanes2 (.rmaxS ⟨g7, .v 4, .v 1⟩) 4 0xFFFFFFFFFFFFFFFF 0 3 0 = (3, 3) ∧
    lanes2 (.rfadd ⟨g7, .v 4, .v 1⟩) 4 0x3F800000 0 0x40000000 0 = (0x40400000, 0x40400000) ∧
    lanes2 (.rdadd ⟨g7, .v 4, .v 1⟩) 4 0x3FF0000000000000 0 0x4000000000000000 0 = (0x4008000000000000, 0x4008000000000000) ∧
    lanes2 (.scan ⟨g7, .v 4, .v 1⟩) 4 10 0 20 0 = (0, 10) ∧ lanes2 (.matchOp ⟨g7, .v 4, .v 1⟩) 4 5 0 6 0 = (1, 2) := by decide +kernel
/-- GPART sets the tile size of a gang (R190); BAR.INIT a count, BAR.ARR an arrival that is the last of its round (R192). -/
theorem test_partition : ((nx (exec (.gpart ⟨g7, .v 2⟩) w0)).unit? uid0).map (fun u => (u.gang 0).gpart) = some 8 ∧
    ((nx (exec (.barInit ⟨g7, 3, .v 2⟩) w0)).unit? uid0).map (fun u => (u.bars.getD 3 { c := 0 }).c) = some 8 ∧
    ((nx (exec (.barArr ⟨g7, 15⟩) (modU (fun u => { u with bars := setAt u.bars 15 { c := 1 } }) w0))).unit? uid0).map (fun u => (u.bars.getD 15 { c := 0 }).n) = some 0 := by decide +kernel
/-- UWR to a uniform that completes after it, URD of one, MOVS of the region start and of the unit's index (R139, R140). -/
theorem test_uniforms : ((nx (exec (.uwr ⟨g7, .v 2, .v 1⟩) w0)).unit? uid0).map (fun u => u.uwr.map fun r => (r.n, r.val)) = some [(8, 0x300000)] ∧
    (thr (nx (exec (.urd ⟨g7, false, .v 4, .v 2⟩) (modU (fun u => { u with uni := setAt u.uni 8 99 }) w0)))).reg 4 = 99 ∧
    (thr (nx (exec (.urd ⟨g7, false, .v 4, .v 1⟩) w0))).tcause = cOPERAND ∧
    (thr (nx (exec (.movs ⟨g7, false, .v 4, 6⟩) w0))).reg 4 = 0x200000 ∧ (thr (nx (exec (.movs ⟨g7, false, .v 4, 5⟩) w0))).reg 4 = 32 := by decide +kernel

/-- STRM binds a port with the fields of its descriptor; a read fetches the element at its position, which the collector's send brings, and
then gives it (R115, R123, R125, R126). -/
theorem test_stream : let s := nx (exec (.strm ⟨g7, 2, .v 1⟩) ((carded (strmDesc 3 1)).writeAt 0 (.home 0x300108) (leBytes 8 0x55)))
    ((thr s).ports.getD 2 {}).bind.map (fun b => (b.base, b.pos, b.count)) = some (0x300100, 1, 10) ∧
    (let read (s : State) : State := nx (exec (.mov ⟨g7, false, .v 4, .m 2⟩) { s with cur := some tk0 })
     let t := thr (read (nx (exec (.collectorSend 0 0) (read s))))
     t.reg 4 = 0x55 ∧ (t.ports.getD 2 {}).bind.map (·.pos) = some 2) := by decide +kernel
/-- ORES gives the lowest free handle and range (R200). -/
theorem test_reserve : (thr (nx (exec (.ores ⟨g7, .v 4, .v 1⟩) (held (carded (leBytes 4 200 ++ [1, 0] ++ List.replicate 26 0)))))).reg 4 = 2 := by decide +kernel
/-- A row of a copy: 16 bytes from the source row, whose stride is 16, to the destination row, whose stride is 32 (R83, R84). -/
theorem test_copy_row : let s := (copying (copyCard 0 0) 0).writeAt 0 (.home 0x300210) ((List.range 16).map (BitVec.ofNat 8))
    (nx (exec (.copyRowTransfer 0 (theOp s).id 1) s)).bytesAt 0 (.home 0x300420) 16 = (List.range 16).map (BitVec.ofNat 8) := by decide +kernel
/-- An element of a gather: index 1 names the second record of the source; its mask bit is set (R88 to R90). -/
theorem test_gather : let s := (begun.writeAt 0 (.home 0x300200) [1, 0, 0, 0]).writeAt 0 (.home 0x300410) (List.replicate 16 7)
    let t := nx (exec (.gatherElement 0 (theOp s).id 0) s)
    t.bytesAt 0 (.home 0x300600) 16 = List.replicate 16 7 ∧ t.bytesAt 0 (.home 0x300908) 1 = [1] := by decide +kernel
/-- A block step of A = (1 2, 3 4) and B = (5 6, 7 8) in FP64 gives C = (19 22, 43 50) (R202, R209). -/
theorem test_block_step :
    let d (x : Nat) := leBytes 8 (x * 2 ^ 48)
    let s := modU (fun u => { u with scr := (u.scr.setBytes 0 (d 0x3FF0 ++ d 0x4000)).setBytes 64 (d 0x4008 ++ d 0x4010),
                                     obuf := (u.obuf.setBytes 0 (d 0x4014 ++ d 0x401C)).setBytes 64 (d 0x4018 ++ d 0x4020) }) (working id)
    let t := nx (exec (.blockStep 0) s)
    t.bytesAt 0 (.home 0x300400) 16 = d 0x4033 ++ d 0x4036 ∧ t.bytesAt 0 (.home 0x300440) 16 = leBytes 8 0x4045800000000000 ++ d 0x4049 := by decide +kernel
/-- A unit starts with its arguments, index, count and launch id in its uniforms (R324). -/
theorem test_unit_start : let s := nx (exec (.unitStart 9 0) (waiting 0 0))
    (s.unit? (unitKey 9 0)).map (fun u => (u.stat, u.uni.getD 16 7, u.uni.getD 17 0, u.uni.getD 18 0)) = some (.resident, 0, 1, 9) ∧
    (s.thread? (threadKey (unitKey 9 0) 31)).map (fun t => (t.pc, t.nregs)) = some (0x200000, 8) := by decide +kernel
/-- A JOB entry opens its job; the retirement of an entry writes its SEQ to the progress word (R316, R318). -/
theorem test_chain : ((nx (exec (.jobEntry 1) (chainOn 1 (jobBytes 7)))).job? 7).map (fun j => (j.root, j.asn, j.chain)) = some (0x100000, 1, 1) ∧
    (nx (exec (.chainEntryRetire 0) (chainOn 0 [] w0 { phase := .retiring, entry := jobBytes 7, head := 15 }))).bytesAt 0 (.home 0x301000) 8 = [5, 0, 0, 0, 0, 0, 0, 0] := by decide +kernel
/-- DBG READREG of v1 writes its value to OUT (R349, R352). -/
theorem test_readreg : let s := debugged (request 0x1000000 0x300400)
    (nx (exec (.dbgReadreg ⟨g7, .v 1⟩) s)).bytesAt 0 (.home 0x300400) 8 = leBytes 8 0x300000 := by decide +kernel
/-- The home vault and the controller of a GDDR offset: each field of the formulas alone, then two that cancel (R60, R63). -/
theorem test_home_slice : [0x100, 0x4000, 0x100000, 0x4000000, 0x100000000, 0x3F00, 0x4100, 0xF00000000].map homeSlice = [1, 1, 1, 1, 1, 63, 0, 15] ∧
    [0x300, 0xC000, 0xC100, 0x400].map gddrController = [3, 3, 2, 0] := by decide +kernel

end Sys2Proof.Tests
end

section
/-! Bytes of memory as bytes of the stores that hold them: a place is a byte of one store, and a write or a range made undefined
changes that store alone (R7, R58, R106, R121). -/

namespace Sys2Proof.Machine

/-! ## A range of a store made undefined -/

/-- Cutting a range out of a list of cells leaves those above it. -/
theorem cellAt_cutCells_above (lo hi : Nat) : ∀ (cs : List Host.Cell) (b : Option Nat), cellsWf b cs = true → ∀ d, hi ≤ d →
    cellAt (cutCells cs lo hi) d = cellAt cs d
  | [], _, _, _, _ => rfl
  | (a, v) :: rest, b, h, d, hd => by
    have hrest : cellsWf (some a) rest = true := by simp only [cellsWf, Bool.and_eq_true] at h; exact h.2
    have ih := cellAt_cutCells_above lo hi rest (some a) hrest d hd
    unfold cutCells
    split
    · rename_i hc
      have hc : lo ≤ a ∧ a < hi := by simpa using hc
      rw [ih, cellAt.eq_2, if_neg (by omega), if_neg (by omega)]
    · rw [cellAt.eq_2, cellAt.eq_2, ih]

/-- A byte outside a range that is made undefined is as it was. -/
theorem Store.byte_forget_outside {m : Store} (h : m.wf = true) (lo hi seed d : Nat) (hd : d < lo ∨ hi ≤ d) :
    (m.forget lo hi seed).byte d = m.byte d := by
  rcases hd with hd | hd
  · exact Store.byte_forget_below h lo hi seed d hd
  · unfold Store.forget
    split
    · have hseed : undefSeed ({ lo := lo, hi := hi, seed := seed } :: cutUndef m.undef lo hi) d = undefSeed m.undef d := by
        rw [undefSeed, if_neg (by simp; omega), undefSeed_cut, if_neg (by omega)]
      unfold Store.byte
      rw [hseed, cellAt_cutCells_above lo hi m.cells none h d hd]
    · rfl

/-! ## The store of a place -/

/-- The first place of the store that a place lies in. -/
def Loc.base : Loc → Loc
  | .home _ => .home 0
  | .scratch u _ => .scratch u 0
  | .priv g _ => .priv g 0
  | .obuf u _ => .obuf u 0

/-- The unit that a place lies in, none for main memory. -/
def Loc.unit? : Loc → Option Nat
  | .home _ => none
  | .scratch u _ => some u
  | .priv g _ => some (g / 32)
  | .obuf u _ => some u

/-- The store of a unit that a place of that unit lies in. -/
def TUnit.storeAt (u : TUnit) : Loc → Store
  | .home _ => {}
  | .scratch _ _ => u.scr
  | .priv g _ => (u.gang (g % 32)).priv
  | .obuf _ _ => u.obuf

/-- The store that a place lies in, an empty one where its unit does not exist. -/
def State.storeAt (s : State) (x : Loc) : Store :=
  match x.unit? with
  | none => s.mem
  | some k => ((s.unit? k).map fun u => u.storeAt x).getD {}

/-- The unit of a place, if it lies in one, exists. -/
def State.hasPlace (s : State) (x : Loc) : Prop := ∀ k, x.unit? = some k → (s.unit? k).isSome = true

@[simp] theorem Loc.base_add (l : Loc) (k : Nat) : (l.add k).base = l.base := by cases l <;> rfl
@[simp] theorem Loc.off_add (l : Loc) (k : Nat) : (l.add k).off = l.off + k := by cases l <;> rfl
@[simp] theorem Loc.unit?_base (l : Loc) : l.base.unit? = l.unit? := by cases l <;> rfl
@[simp] theorem TUnit.storeAt_base (u : TUnit) (l : Loc) : u.storeAt l.base = u.storeAt l := by cases l <;> rfl

/-- Places of one store lie in one unit. -/
theorem Loc.unit?_of_base {x y : Loc} (h : x.base = y.base) : x.unit? = y.unit? := by
  rw [← Loc.unit?_base x, h, Loc.unit?_base]

/-- A place is told by its store and its offset there. -/
theorem Loc.eq_of_base_off {x y : Loc} (hb : x.base = y.base) (ho : x.off = y.off) : x = y := by
  cases x <;> cases y <;> simp_all [Loc.base, Loc.off]

/-- Places of one store share it in every state. -/
theorem State.storeAt_of_base (s : State) {x y : Loc} (h : x.base = y.base) : s.storeAt x = s.storeAt y := by
  have hu : ∀ u : TUnit, u.storeAt x = u.storeAt y := fun u => by rw [← u.storeAt_base x, h, u.storeAt_base]
  simp only [State.storeAt, Loc.unit?_of_base h, hu]

/-- Stores are a matter of memory and of the units alone. -/
theorem State.storeAt_congr {s t : State} (hm : s.mem = t.mem) (hu : s.units = t.units) (x : Loc) : s.storeAt x = t.storeAt x := by
  simp only [State.storeAt, State.unit?, hm, hu]

/-- A read of a place reads its store at its offset. -/
theorem State.byteAt_eq (s : State) (x : Loc) : s.byteAt 0 x = (s.storeAt x).byte x.off := by
  cases x with
  | home d => rfl
  | scratch u o => simp only [State.byteAt, State.storeAt, Loc.unit?]; cases s.unit? u <;> rfl
  | priv g o => simp only [State.byteAt, State.storeAt, Loc.unit?]; cases s.unit? (g / 32) <;> rfl
  | obuf u o => simp only [State.byteAt, State.storeAt, Loc.unit?]; cases s.unit? u <;> rfl

/-- The stores of a unit are in canonical form where its invariant holds. -/
theorem TUnit.Inv.storeAt_wf {u : TUnit} (h : u.Inv) (x : Loc) : (u.storeAt x).wf = true := by
  cases x with
  | home d => exact Store.empty_wf
  | scratch _ _ => exact h.scr
  | priv g _ => exact (TUnit.gang_inv h _).priv
  | obuf _ _ => exact h.obuf

/-- Every store is in canonical form where the invariant holds. -/
theorem State.Inv.storeAt_wf {s : State} (h : s.Inv) (x : Loc) : (s.storeAt x).wf = true := by
  unfold State.storeAt
  split
  · exact h.mem
  · rename_i k _
    cases hu : s.unit? k with
    | none => exact Store.empty_wf
    | some u => exact (h.units.get? hu).storeAt_wf x

/-! ## A change of one store -/

/-- Changes the store of a unit that a place of that unit lies in. -/
def TUnit.modStore (u : TUnit) (l : Loc) (f : Store → Store) : TUnit :=
  match l with
  | .home _ => u
  | .scratch _ _ => { u with scr := f u.scr }
  | .priv g _ => u.modGang (g % 32) fun y => { y with priv := f y.priv }
  | .obuf _ _ => { u with obuf := f u.obuf }

/-- Changes the store that a place lies in. -/
def State.modStore (s : State) (l : Loc) (f : Store → Store) : State :=
  match l.unit? with
  | none => { s with mem := f s.mem }
  | some k => s.modUnit k fun u => u.modStore l f

/-- A gang that was changed, and the others. -/
theorem TUnit.gang_modGang (u : TUnit) (j k : Nat) (f : Gang → Gang) :
    (u.modGang k f).gang j = if j = k then f (u.gang k) else u.gang j := by
  unfold TUnit.modGang TUnit.gang AMap.get
  split
  · subst j; rw [AMap.get?_set_same]; rfl
  · rw [AMap.get?_set_ne _ ‹_›]

/-- A unit that was changed, and the others. -/
theorem State.unit?_modUnit_eq (s : State) (j k : Nat) (f : TUnit → TUnit) :
    (s.modUnit k f).unit? j = if j = k then (s.unit? k).map f else s.unit? j := by
  unfold State.modUnit
  split
  · rename_i u hu
    split
    · subst j; rw [State.unit?_setUnit, hu]; rfl
    · exact State.unit?_setUnit_ne s _ ‹_›
  · rename_i hu
    split
    · subst j; rw [hu]; rfl
    · rfl

theorem TUnit.storeAt_modStore_same (u : TUnit) {l : Loc} {k : Nat} (h : l.unit? = some k) (f : Store → Store) :
    (u.modStore l f).storeAt l = f (u.storeAt l) := by
  cases l with
  | home d => cases h
  | scratch _ _ => rfl
  | priv g _ => simp only [TUnit.modStore, TUnit.storeAt, TUnit.gang_modGang, if_true]
  | obuf _ _ => rfl

theorem TUnit.storeAt_modStore_ne (u : TUnit) {l x : Loc} (hx : x.base ≠ l.base) (hu : x.unit? = l.unit?) (f : Store → Store) :
    (u.modStore l f).storeAt x = u.storeAt x := by
  cases l with
  | home _ => rfl
  | scratch k _ =>
    cases x with
    | scratch j _ => exact absurd (congrArg (Loc.scratch · 0) (Option.some.inj hu)) hx
    | _ => rfl
  | priv k _ =>
    cases x with
    | priv j _ =>
      have hg : j % 32 ≠ k % 32 := by
        simp only [Loc.base, Loc.unit?, ne_eq, Loc.priv.injEq, Option.some.injEq, and_true] at hx hu
        omega
      simp only [TUnit.modStore, TUnit.storeAt, TUnit.gang_modGang, if_neg hg]
    | _ => rfl
  | obuf k _ =>
    cases x with
    | obuf j _ => exact absurd (congrArg (Loc.obuf · 0) (Option.some.inj hu)) hx
    | _ => rfl

/-- The store that was changed. -/
theorem State.storeAt_modStore_same {s : State} {l : Loc} (h : s.hasPlace l) (f : Store → Store) :
    (s.modStore l f).storeAt l = f (s.storeAt l) := by
  cases hl : l.unit? with
  | none => simp only [State.modStore, State.storeAt, hl]
  | some k =>
    obtain ⟨u, hu⟩ := Option.isSome_iff_exists.1 (h k hl)
    simp only [State.modStore, State.storeAt, hl, State.unit?_modUnit _ hu, hu, Option.map_some, Option.getD_some,
      u.storeAt_modStore_same hl]

/-- The stores that were not. -/
theorem State.storeAt_modStore_ne (s : State) {l x : Loc} (hx : x.base ≠ l.base) (f : Store → Store) :
    (s.modStore l f).storeAt x = s.storeAt x := by
  cases hl : l.unit? with
  | none =>
    cases hk : x.unit? with
    | none => cases l <;> cases x <;> simp_all [Loc.unit?, Loc.base]
    | some j => simp only [State.modStore, State.storeAt, hl, hk]; rfl
  | some k =>
    cases hk : x.unit? with
    | none => simp only [State.modStore, State.storeAt, hl, hk, State.modUnit_mem]
    | some j =>
      simp only [State.modStore, State.storeAt, hl, hk, State.unit?_modUnit_eq]
      split
      · subst j
        cases s.unit? k with
        | none => rfl
        | some u => simp only [Option.map_some, u.storeAt_modStore_ne hx (hk.trans hl.symm)]
      · rfl

theorem State.hasPlace_modStore {s : State} {l x : Loc} (h : s.hasPlace x) (f : Store → Store) : (s.modStore l f).hasPlace x := by
  intro j hj
  unfold State.modStore
  split
  · exact h j hj
  · rw [State.unit?_modUnit_eq]
    split
    · subst j; simpa using h _ hj
    · exact h j hj

/-! ## Writes and ranges made undefined, as changes of one store -/

/-- A write of a byte sets it in the store of its place. -/
theorem State.storeAt_writeByte (s : State) (l : Loc) (v : Byte) (x : Loc) :
    (s.writeByte 0 l v).storeAt x = (s.modStore l fun m => m.setByte l.off v).storeAt x := by
  cases l <;> exact State.storeAt_congr rfl rfl x

theorem State.hasPlace_writeByte {s : State} {x : Loc} (h : s.hasPlace x) (l : Loc) (v : Byte) : (s.writeByte 0 l v).hasPlace x := by
  have := State.hasPlace_modStore (l := l) h fun m => m.setByte l.off v
  cases l <;> exact this

/-- A range that is made undefined is so in the store of its place. -/
theorem State.storeAt_forgetAt (s : State) (l : Loc) (n : Nat) (x : Loc) :
    (s.forgetAt l n).storeAt x = (s.modStore l fun m => m.forget l.off (l.off + n) s.fresh).storeAt x := by
  have key : ∀ k f, ((s.takeFresh.2.modUnit k f).storeAt x) = (s.modUnit k f).storeAt x := fun k f => by
    unfold State.modUnit
    cases hu : s.unit? k <;> simp only [show s.takeFresh.2.unit? k = s.unit? k from rfl, hu] <;> exact State.storeAt_congr rfl rfl x
  cases l with
  | home d => exact State.storeAt_congr rfl rfl x
  | scratch u o => exact key _ _
  | priv g o => exact key _ _
  | obuf u o => exact key _ _

/-- A write of bytes sets them in the store of their place. -/
theorem State.storeAt_writeAt_same : ∀ (bs : List Byte) {s : State} {l : Loc}, s.hasPlace l →
    (s.writeAt 0 l bs).storeAt l = (s.storeAt l).setBytes l.off bs
  | [], _, _, _ => rfl
  | b :: bs, s, l, h => by
    have ih := State.storeAt_writeAt_same bs (s := s.writeByte 0 l b) (l := l.add 1) fun k hk =>
      State.hasPlace_writeByte h l b k (Loc.unit?_of_base (l.base_add 1) ▸ hk)
    rw [State.storeAt_of_base _ (l.base_add 1), State.storeAt_of_base _ (l.base_add 1), State.storeAt_writeByte,
      State.storeAt_modStore_same h, l.off_add] at ih
    exact ih

/-- A write of bytes leaves every other store. -/
theorem State.storeAt_writeAt_ne : ∀ (bs : List Byte) (s : State) {l x : Loc}, x.base ≠ l.base → (s.writeAt 0 l bs).storeAt x = s.storeAt x
  | [], _, _, _, _ => rfl
  | b :: bs, s, l, x, h => by
    have ih := State.storeAt_writeAt_ne bs (s.writeByte 0 l b) (l := l.add 1) (x := x) (by rwa [l.base_add])
    exact ih.trans ((s.storeAt_writeByte l b x).trans (s.storeAt_modStore_ne h _))

/-! ## Bytes read and left -/

/-- A place outside the n places from l upward lies in another store, or outside their range in the same one. -/
theorem Loc.outside {l x : Loc} {n : Nat} (h : ∀ k, k < n → x ≠ l.add k) : x.base ≠ l.base ∨ x.off < l.off ∨ l.off + n ≤ x.off := by
  by_contra hc
  obtain ⟨hb, hlo, hhi⟩ : x.base = l.base ∧ l.off ≤ x.off ∧ x.off < l.off + n := by
    simpa only [not_or, not_lt, not_le, not_not] using hc
  refine h (x.off - l.off) (by omega) (Loc.eq_of_base_off ?_ ?_)
  · rw [l.base_add, hb]
  · rw [l.off_add]; omega

/-- Bytes of a store, named by their offsets from one of them. -/
theorem Store.map_byte_upFrom (m : Store) (a : Nat) : ∀ n j, (upFrom j n).map (fun k => m.byte (a + k)) = m.bytes (a + j) n
  | 0, _ => rfl
  | n + 1, j => by rw [upFrom, List.map_cons, Store.map_byte_upFrom m a n (j + 1)]; rfl

/-- A read of bytes reads those of the store of their place. -/
theorem State.bytesAt_eq (s : State) (l : Loc) (n : Nat) : s.bytesAt 0 l n = (s.storeAt l).bytes l.off n := by
  have hb : ∀ k, s.byteAt 0 (l.add k) = (s.storeAt l).byte (l.off + k) := fun k => by
    rw [State.byteAt_eq, State.storeAt_of_base s (l.base_add k), l.off_add]
  simp only [State.bytesAt, hb]
  exact Store.map_byte_upFrom _ l.off n 0

/-- Bytes that were written are read back. -/
theorem State.bytesAt_writeAt {s : State} (hs : s.Inv) {l : Loc} (hl : s.hasPlace l) (bs : List Byte) :
    (s.writeAt 0 l bs).bytesAt 0 l bs.length = bs := by
  rw [State.bytesAt_eq, State.storeAt_writeAt_same bs hl, Store.bytes_setBytes bs (hs.storeAt_wf l)]

/-- A write leaves the bytes of every other place. -/
theorem State.byteAt_writeAt_outside {s : State} (hs : s.Inv) {l : Loc} (hl : s.hasPlace l) (bs : List Byte) {x : Loc}
    (hx : ∀ k, k < bs.length → x ≠ l.add k) : (s.writeAt 0 l bs).byteAt 0 x = s.byteAt 0 x := by
  rw [State.byteAt_eq, State.byteAt_eq]
  by_cases hb : x.base = l.base
  · rw [State.storeAt_of_base _ hb, State.storeAt_of_base _ hb, State.storeAt_writeAt_same bs hl]
    exact Store.byte_setBytes_ne bs (hs.storeAt_wf l) ((Loc.outside hx).resolve_left (absurd hb))
  · rw [State.storeAt_writeAt_ne bs s hb]

/-- A range that is made undefined leaves the bytes of every other place. -/
theorem State.byteAt_forgetAt_outside {s : State} (hs : s.Inv) {l : Loc} (hl : s.hasPlace l) (n : Nat) {x : Loc}
    (hx : ∀ k, k < n → x ≠ l.add k) : (s.forgetAt l n).byteAt 0 x = s.byteAt 0 x := by
  rw [State.byteAt_eq, State.byteAt_eq, State.storeAt_forgetAt]
  by_cases hb : x.base = l.base
  · rw [State.storeAt_of_base _ hb, State.storeAt_of_base _ hb, State.storeAt_modStore_same hl]
    exact Store.byte_forget_outside (hs.storeAt_wf l) _ _ _ _ ((Loc.outside hx).resolve_left (absurd hb))
  · rw [State.storeAt_modStore_ne s hb]

end Sys2Proof.Machine

open Sys2Proof Sys2Proof.Machine

/-- Settles O6: a place is a byte of one store, which a write sets and which reads give back; a place that the write does not name lies in
another store, or at another offset of the same one. -/
theorem memoryReadAfterWrite : Obligations.MemoryReadAfterWrite := by
  unfold Obligations.MemoryReadAfterWrite
  intro exists_ s l hs he
  have hl : s.hasPlace l := by
    intro k hk
    cases l with
    | home d => cases hk
    | scratch u o => cases hk; exact he
    | priv g o => cases hk; exact he
    | obuf u o => cases hk; exact he
  exact ⟨fun bs => ⟨State.writeAt_inv s 0 l hs bs, State.bytesAt_writeAt hs hl bs, fun x hx => State.byteAt_writeAt_outside hs hl bs hx⟩,
    fun n x hx => State.byteAt_forgetAt_outside hs hl n hx⟩

end

section
/-! A result to an out-port discards the prefetched elements of every port of its thread, those of its in-ports among them (R128): the
frame that ResultFrame states for the other ports does not hold. -/

namespace Sys2Proof.Machine

/-- A thread whose prefetched elements are all dropped holds none in any port. -/
theorem Thread.dropPrefetched_fin (t : Thread) (j : Nat) : (t.dropPrefetched.ports.getD j {}).fin = [] := by
  simp only [Thread.dropPrefetched, List.getD_eq_getElem?_getD, List.getElem?_map]
  cases t.ports[j]? <;> rfl

/-- A write to a bound out-port leaves the thread no prefetched element in any port. -/
theorem State.outWrite_fin {s : State} {tk k : Nat} {v tloc : Word} {t w : Thread} (ht : s.thread? tk = some t)
    (hb : (t.ports.getD k {}).bind ≠ none) (hw : (s.outWrite tk k v tloc).thread? tk = some w) (j : Nat) : (w.ports.getD j {}).fin = [] := by
  unfold State.outWrite at hw
  rw [ht] at hw
  dsimp only at hw
  split at hw
  · exact absurd ‹_› hb
  · rw [State.thread?_setThread] at hw
    cases hw
    exact Thread.dropPrefetched_fin _ j

/-- A port that passes the checks of a write is bound. -/
theorem State.bind_ne_none_of_outCheck {s : State} {tk k : Nat} {t : Thread} (h : s.outCheck tk t k = none) :
    (t.ports.getD k {}).bind ≠ none := by
  intro hn
  unfold State.outCheck at h
  rw [hn] at h
  cases h

/-- MOV to an out-port whose checks pass leaves the thread no prefetched element in any port. -/
theorem mov_out_fin {o : Op2} {s s' r : State} {tk : Nat} {t u w : Thread} {a : Word} {k : Fin 4} (h : Ready (.mov o) s tk t [a] s')
    (hd : (instrInfo (.mov o)).dst = some (.m k)) (hu : s'.thread? tk = some u) (hc : s'.outCheck tk u k.1 = none)
    (hr : exec (.mov o) s = .next r) (hw : r.thread? tk = some w) (j : Nat) : (w.ports.getD j {}).fin = [] := by
  have hdel : Delivers (.mov o) s tk t s' a := gives2_of (mk := .mov) (f := fun a => a) (fun _ _ => rfl) o s tk t a s' h
  have hout := hdel u hu
  simp only [hd] at hout
  obtain ⟨x, hx, he⟩ := hout hc
  rw [hr] at he
  cases he
  rw [State.thread?_setThread] at hw
  cases hw
  exact State.outWrite_fin hu (State.bind_ne_none_of_outCheck hc) hx j

/-! ## A thread with an in-port and an out-port -/

/-- The key of the placed unit's thread 0. -/
def frameKey : Nat := threadKey (unitKey State.reset.hub.nextLid 0) 0
/-- Its ports: port 1 reads two words and has fetched the first, port 2 writes two words; neither has moved. -/
def framePorts : List Port :=
  [{}, { bind := some ⟨0x300000, 8, 2, 0, 3, 0x300100⟩, fin := [{ val := 42, loc := some (.home 0x300000) }] }, { bind := some ⟨0x300040, 8, 2, 0, 11, 0x300120⟩ }, {}]
/-- The placed machine with that thread current and those ports. -/
def frameState : State := { State.reset.placed.modThread frameKey fun t => { t with ports := framePorts } with cur := some frameKey, issueQ := [] }
/-- That thread. -/
def frameThread : Thread :=
  { uid := unitKey State.reset.hub.nextLid 0, tg := 0, nregs := 60, v := setAt (List.replicate 60 0) 58 0xF200000000001000,
    ports := framePorts, rpc := Word.ofN placeAt, pc := Word.ofN placeAt }
/-- MOV m2, v1, unguarded. -/
def frameMov : Op2 := ⟨⟨false, 7⟩, false, .m 2, .v 1⟩

theorem frameState_thread : frameState.thread? frameKey = some frameThread := by decide +kernel

theorem frameMov_ready : Ready (.mov frameMov) frameState frameKey frameThread [0] frameState where
  cur := rfl
  thread := frameState_thread
  valid := by decide +kernel
  noErr := by decide +kernel
  noWait := by decide +kernel
  guard := .inl (by decide +kernel)
  gets := .inl ⟨rfl, by decide +kernel, by decide +kernel, rfl⟩

theorem frameState_outCheck : frameState.outCheck frameKey frameThread 2 = none := by decide +kernel

end Sys2Proof.Machine

open Sys2Proof Sys2Proof.Machine

/-- Refutes O8: a MOV to out-port m2 drops the element that in-port m1 has prefetched, though m1 is not its destination. -/
theorem not_resultFrame : ¬ Obligations.ResultFrame := by
  unfold Obligations.ResultFrame
  intro h
  have hdst : ∀ k, (instrInfo (.mov frameMov)).dst = some (.m k) → k = 2 := by decide
  obtain ⟨r, w, hr, hw, -, -, -, -, -, -, -, -, -, hports, -⟩ := h (.mov frameMov) frameState frameKey frameThread [0] frameState frameThread
    (by decide) nofun nofun frameMov_ready frameState_thread fun k hk => hdst k hk ▸ frameState_outCheck
  have hkept : w.ports.getD 1 {} = frameThread.ports.getD 1 {} := hports 1 fun q hq => by rw [hdst q hq]; decide
  have hdropped := mov_out_fin frameMov_ready rfl frameState_thread frameState_outCheck hr hw 1
  rw [hkept] at hdropped
  exact absurd hdropped (by decide)

end

section
/-! The end of a park: what PARK_CONDITION_HOLDS and WAIT_RECHECK answer, case by case (R9, R104, R192). -/

namespace Sys2Proof.Machine

/-! ## PARK_CONDITION_HOLDS -/

section
variable {s : State} {tk : Nat} {t : Thread} {p : Park}

/-- A parked thread stays as it is where its unit is away, its condition does not hold, or another goes first at its barrier. -/
theorem execParkConditionHolds_stays (ht : s.thread? tk = some t) (hp : t.park = some p)
    (h : s.away t = true ∨ s.parkHolds tk t p = false ∨ s.firstAtBar tk t = false) : execParkConditionHolds tk s = .next s := by
  have hc : (s.away t || !s.parkHolds tk t p || !s.firstAtBar tk t) = true := by
    rcases h with h | h | h <;> simp [h]
  simp only [execParkConditionHolds, ht, hp, hc, if_true]

/-- A parked live thread that may go on runs its instruction again, unless it waits to fetch. -/
theorem execParkConditionHolds_reissues (ht : s.thread? tk = some t) (hp : t.park = some p) (ha : s.away t = false)
    (hh : s.parkHolds tk t p = true) (hf : s.firstAtBar tk t = true) (hl : t.live = true) (he : t.ending = false)
    (hk : ∀ k, p ≠ .fault k) (hfull : p ≠ .faultFull) : execParkConditionHolds tk s = .next (s.reissue tk) := by
  simp only [execParkConditionHolds, ht, hp, ha, hh, hf, hl, he, Bool.not_true, Bool.or_self, Bool.false_eq_true, if_false]

/-- A parked live thread that waits to fetch and may go on becomes ready to fetch; one that has fetched runs its instruction again. -/
theorem execParkConditionHolds_fetch (ht : s.thread? tk = some t) (hp : t.park = some p) (ha : s.away t = false)
    (hh : s.parkHolds tk t p = true) (hf : s.firstAtBar tk t = true) (hl : t.live = true) (he : t.ending = false)
    (hpark : (∃ k, p = .fault k) ∨ p = .faultFull) :
    execParkConditionHolds tk s = .next (if t.fetched then s.reissue tk else s.unparkFetch tk) := by
  simp only [execParkConditionHolds, ht, hp, ha, hh, hf, hl, he, Bool.not_true, Bool.or_self, Bool.false_eq_true, if_false]
  rcases hpark with ⟨k, rfl⟩ | rfl
  · dsimp only; split <;> rfl
  · dsimp only; split <;> rfl

end

/-- A thread that waited to fetch, with no park. -/
theorem State.unparkFetch_eq {s : State} {tk : Nat} {t : Thread} (ht : s.thread? tk = some t) :
    s.unparkFetch tk = s.setThread tk { t with park := none, freeAt := s.cycOf t } := State.modThread_eq _ ht

/-- A thread that runs its instruction again is next to issue. -/
theorem State.reissue_eq {s : State} {tk : Nat} {t : Thread} (ht : s.thread? tk = some t) :
    s.reissue tk = { s.setThread tk { t with park := none, resume_ := true, freeAt := s.cycOf t } with issueQ := tk :: s.issueQ } := by
  unfold State.reissue
  rw [State.modThread_eq _ ht]

/-! ## WAIT_RECHECK -/

/-- A WAIT whose counter is read again goes on, or waits for its next read. -/
theorem execWaitRecheck_counter {s : State} {tk : Nat} {t : Thread} {l : Loc} {v u : Nat} (ht : s.thread? tk = some t)
    (hp : t.park = some (.counter l v u)) (ha : s.away t = false) (hl : t.live = true) :
    execWaitRecheck tk s = .next (if s.parkHolds tk t (.counter l v u) then s.reissue tk
      else s.setThread tk { t with park := some (.counter l v (s.hub.tmr + 1000)) }) := by
  simp only [execWaitRecheck, ht, hp, ha, hl, Bool.not_true, Bool.or_self, Bool.false_eq_true, if_false, State.modThread_eq _ ht]
  split <;> rfl

/-! ## Barriers -/

/-- Away from a barrier, no thread goes before another. -/
theorem State.firstAtBar_of_none (s : State) (tk : Nat) {t : Thread} (h : t.barSlot = none) : s.firstAtBar tk t = true := by
  simp only [State.firstAtBar, h]

/-- At a barrier slot, a thread goes first where it comes no later than any other thread of its group that may go on there. -/
theorem State.firstAtBar_iff (s : State) (tk : Nat) {t : Thread} {k : Nat} (h : t.barSlot = some k) :
    s.firstAtBar tk t = true ↔ ∀ p ∈ s.threadsOf t.uid, p.1 ≠ tk → p.2.barSlot = some k →
      (∃ x, p.2.park = some x ∧ s.parkHolds p.1 p.2 x = true) → s.arrayOrder t ≤ s.arrayOrder p.2 := by
  simp only [State.firstAtBar, h, List.all_eq_true, Bool.or_eq_true, beq_iff_eq, bne_iff_ne, Bool.not_eq_true', decide_eq_true_eq]
  refine forall₂_congr fun p _ => ?_
  have hgo : p.2.park.any (fun x => s.parkHolds p.1 p.2 x) = true ↔ ∃ x, p.2.park = some x ∧ s.parkHolds p.1 p.2 x = true := by
    cases p.2.park <;> simp
  rw [← hgo, ← Bool.not_eq_true]
  tauto

/-! ## Counters -/

/-- A WAIT on a counter whose target answers goes on once the counter has reached the value it waits for. -/
theorem State.parkHolds_counter_home {s : State} {d : Nat} (he : s.targetErr d 8 true = none) (tk : Nat) (t : Thread) (v u : Nat) :
    s.parkHolds tk t (.counter (.home d) v u) = true ↔ v ≤ s.counterAt t.uid (.home d) := by
  simp only [State.parkHolds, State.locErr, he, Option.isSome_none, Bool.or_false, decide_eq_true_eq, ge_iff_le]

end Sys2Proof.Machine

open Sys2Proof Sys2Proof.Machine

/-- Settles O50, case by case of what the two steps answer to a parked thread. -/
theorem parkEvents : Obligations.ParkEvents := by
  unfold Obligations.ParkEvents
  refine ⟨fun s tk t p ht hp ha => ⟨?_, ?_, ?_, ?_, ?_⟩, fun s tk t => ⟨s.firstAtBar_of_none tk, fun k => s.firstAtBar_iff tk⟩,
    fun s tk t ht => ⟨rfl, ?_, ?_⟩, fun _ _ _ _ _ => rfl, fun _ _ _ _ => rfl, fun _ tk t _ v u he => State.parkHolds_counter_home he tk t v u⟩
  · exact fun hh => execParkConditionHolds_stays ht hp (.inr (.inl hh))
  · exact fun hh hl he hk hfull hf => execParkConditionHolds_reissues ht hp ha hh hf hl he hk hfull
  · exact fun hf => execParkConditionHolds_stays ht hp (.inr (.inr hf))
  · intro hh hl he hf hpark
    rw [← State.unparkFetch_eq ht]
    exact execParkConditionHolds_fetch ht hp ha hh hf hl he hpark
  · rintro l v u rfl hl
    exact execWaitRecheck_counter ht hp ha hl
  · rw [State.reissue_eq ht]; rfl
  · rw [State.reissue_eq ht]; exact State.thread?_setThread s tk _

end

section
/-! The encoding round trip over every constructor (R23, R26, R49, R50), and the words written out from the encoding tables. -/

namespace Sys2Proof.Laws.RoundTrip

open Sys2Proof

/-- Every instruction reads back from its parcels: the lemmas of its constructors, put together. -/
theorem every : ∀ i, Statement i
  | .iadd a0 => iadd a0 | .isub a0 => isub a0 | .imul a0 => imul a0 | .imac a0 => imac a0 | .iadd32 a0 => iadd32 a0
  | .isub32 a0 => isub32 a0 | .imul32 a0 => imul32 a0 | .imac32 a0 => imac32 a0 | .imulhS a0 => imulhS a0 | .imulhN a0 => imulhN a0
  | .andOp a0 => andOp a0 | .orOp a0 => orOp a0 | .xorOp a0 => xorOp a0 | .andn a0 => andn a0 | .shl a0 => shl a0 | .shr a0 => shr a0
  | .asr a0 => asr a0 | .loop a0 => loop a0 | .iminS a0 => iminS a0 | .imaxS a0 => imaxS a0 | .iminN a0 => iminN a0
  | .imaxN a0 => imaxN a0 | .fadd a0 => fadd a0 | .fsub a0 => fsub a0 | .fmul a0 => fmul a0 | .ffma a0 => ffma a0 | .fmin a0 => fmin a0
  | .fmax a0 => fmax a0 | .dadd a0 => dadd a0 | .dsub a0 => dsub a0 | .dmul a0 => dmul a0 | .dfma a0 => dfma a0 | .dmin a0 => dmin a0
  | .dmax a0 => dmax a0 | .hadd a0 => hadd a0 | .hmul a0 => hmul a0 | .hfma a0 => hfma a0 | .badd a0 => badd a0 | .bmul a0 => bmul a0
  | .bfma a0 => bfma a0 | .icmpS a0 => icmpS a0 | .icmpN a0 => icmpN a0 | .fcmp a0 => fcmp a0 | .dcmp a0 => dcmp a0 | .sel a0 => sel a0
  | .ld8 a0 => ld8 a0 | .ld16 a0 => ld16 a0 | .ld32 a0 => ld32 a0 | .ld64 a0 => ld64 a0 | .ld8S a0 => ld8S a0 | .ld16S a0 => ld16S a0
  | .ld32S a0 => ld32S a0 | .st8 a0 => st8 a0 | .st16 a0 => st16 a0 | .st32 a0 => st32 a0 | .st64 a0 => st64 a0 | .ldacq a0 => ldacq a0
  | .strel a0 => strel a0 | .atomAdd a0 => atomAdd a0 | .atomAnd a0 => atomAnd a0 | .atomOr a0 => atomOr a0 | .atomXor a0 => atomXor a0
  | .atomMinS a0 => atomMinS a0 | .atomMaxS a0 => atomMaxS a0 | .atomMinN a0 => atomMinN a0 | .atomMaxN a0 => atomMaxN a0
  | .atomXchg a0 => atomXchg a0 | .atomCas a0 => atomCas a0 | .atomFadd a0 => atomFadd a0 | .atomIncw a0 => atomIncw a0
  | .atomCasPromote a0 => atomCasPromote a0 | .atomHacc a0 => atomHacc a0 | .br a0 => br a0 | .call a0 => call a0 | .imx a0 => imx a0
  | .ill => ill | .illParcel => illParcel | .mov a0 => mov a0 | .notOp a0 => notOp a0 | .negOp a0 => negOp a0 | .absOp a0 => absOp a0
  | .popc a0 => popc a0 | .clz a0 => clz a0 | .ctz a0 => ctz a0 | .brev a0 => brev a0 | .bswap a0 => bswap a0 | .sx8 a0 => sx8 a0
  | .sx16 a0 => sx16 a0 | .sx32 a0 => sx32 a0 | .zx8 a0 => zx8 a0 | .zx16 a0 => zx16 a0 | .zx32 a0 => zx32 a0 | .movs a0 => movs a0
  | .urd a0 => urd a0 | .uwr a0 => uwr a0 | .fneg a0 => fneg a0 | .fabs a0 => fabs a0 | .dneg a0 => dneg a0 | .dabs a0 => dabs a0
  | .frcp a0 => frcp a0 | .frsq a0 => frsq a0 | .fsqrt a0 => fsqrt a0 | .fex2 a0 => fex2 a0 | .flg2 a0 => flg2 a0 | .drcp a0 => drcp a0
  | .dsqrt a0 => dsqrt a0 | .drsq a0 => drsq a0 | .fscale a0 => fscale a0 | .dscale a0 => dscale a0 | .fxpn a0 => fxpn a0
  | .dxpn a0 => dxpn a0 | .ex2s a0 => ex2s a0 | .frintRn a0 => frintRn a0 | .frintRz a0 => frintRz a0 | .frintRm a0 => frintRm a0
  | .frintRp a0 => frintRp a0 | .drintRn a0 => drintRn a0 | .drintRz a0 => drintRz a0 | .drintRm a0 => drintRm a0
  | .drintRp a0 => drintRp a0 | .cvtF64F32 a0 => cvtF64F32 a0 | .cvtF32F64 a0 => cvtF32F64 a0 | .cvtF16F32 a0 => cvtF16F32 a0
  | .cvtBf16F32 a0 => cvtBf16F32 a0 | .cvtF32F16 a0 => cvtF32F16 a0 | .cvtF32Bf16 a0 => cvtF32Bf16 a0 | .cvtF32S64 a0 => cvtF32S64 a0
  | .cvtF32N64 a0 => cvtF32N64 a0 | .cvtF64S64 a0 => cvtF64S64 a0 | .cvtF64N64 a0 => cvtF64N64 a0 | .cvtS32F32 a0 => cvtS32F32 a0
  | .cvtN32F32 a0 => cvtN32F32 a0 | .cvtS64F32 a0 => cvtS64F32 a0 | .cvtN64F32 a0 => cvtN64F32 a0 | .cvtS32F64 a0 => cvtS32F64 a0
  | .cvtN32F64 a0 => cvtN32F64 a0 | .cvtS64F64 a0 => cvtS64F64 a0 | .cvtN64F64 a0 => cvtN64F64 a0 | .elect a0 => elect a0
  | .vany a0 => vany a0 | .vall a0 => vall a0 | .vbal a0 => vbal a0 | .shfi a0 => shfi a0 | .shfa a0 => shfa a0 | .shfb a0 => shfb a0
  | .shfx a0 => shfx a0 | .radd a0 => radd a0 | .rminS a0 => rminS a0 | .rmaxS a0 => rmaxS a0 | .rfadd a0 => rfadd a0
  | .rdadd a0 => rdadd a0 | .scan a0 => scan a0 | .matchOp a0 => matchOp a0 | .gpart a0 => gpart a0 | .nop a0 => nop a0
  | .exit a0 => exit a0 | .brk a0 => brk a0 | .trap a0 => trap a0 | .yield a0 => yield a0 | .rgn a0 => rgn a0 | .bnd a0 => bnd a0
  | .fenceGrp a0 => fenceGrp a0 | .fenceCore a0 => fenceCore a0 | .fenceDie a0 => fenceDie a0 | .fenceDev a0 => fenceDev a0
  | .fenceSys a0 => fenceSys a0 | .ofence a0 => ofence a0 | .barArr a0 => barArr a0 | .barWait a0 => barWait a0
  | .barSync a0 => barSync a0 | .barInit a0 => barInit a0 | .wait a0 => wait a0 | .cpy a0 => cpy a0 | .gath a0 => gath a0
  | .mxl a0 => mxl a0 | .ores a0 => ores a0 | .orls a0 => orls a0 | .strm a0 => strm a0 | .jmpi a0 => jmpi a0 | .calli a0 => calli a0
  | .ret a0 => ret a0 | .icinv a0 => icinv a0 | .launch a0 => launch a0 | .cancel a0 => cancel a0 | .specCommit a0 => specCommit a0
  | .specDiscard a0 => specDiscard a0 | .dbgHalt a0 => dbgHalt a0 | .dbgResume a0 => dbgResume a0 | .dbgStep a0 => dbgStep a0
  | .dbgSetmask a0 => dbgSetmask a0 | .dbgWset a0 => dbgWset a0 | .dbgWclr a0 => dbgWclr a0 | .dbgStatus a0 => dbgStatus a0
  | .dbgReadreg a0 => dbgReadreg a0 | .dbgBpset a0 => dbgBpset a0 | .dbgBpclr a0 => dbgBpclr a0 | .movCompact a0 => movCompact a0
  | .iaddCompact a0 => iaddCompact a0 | .isubCompact a0 => isubCompact a0 | .iadd32Compact a0 => iadd32Compact a0 | .iaddi a0 => iaddi a0
  | .andCompact a0 => andCompact a0 | .orCompact a0 => orCompact a0 | .xorCompact a0 => xorCompact a0 | .shli a0 => shli a0
  | .shri a0 => shri a0 | .faddCompact a0 => faddCompact a0 | .fsubCompact a0 => fsubCompact a0 | .fmulCompact a0 => fmulCompact a0
  | .fmaxCompact a0 => fmaxCompact a0 | .daddCompact a0 => daddCompact a0 | .dmulCompact a0 => dmulCompact a0
  | .censusRound a0 a1 => censusRound a0 a1 | .gangSeat a0 a1 => gangSeat a0 a1 | .gangUnseat a0 a1 a2 => gangUnseat a0 a1 a2
  | .quantumDue a0 a1 a2 => quantumDue a0 a1 a2 | .yieldHoldEnd a0 => yieldHoldEnd a0 | .deprioritisationEnd a0 => deprioritisationEnd a0
  | .prefetchFill a0 => prefetchFill a0 | .parkConditionHolds a0 => parkConditionHolds a0 | .loadReply a0 a1 => loadReply a0 a1
  | .storePerform a0 a1 => storePerform a0 a1 | .collectorSend a0 a1 => collectorSend a0 a1 | .errorResponse a0 a1 => errorResponse a0 a1
  | .waitRecheck a0 => waitRecheck a0 | .streamPrefetch a0 a1 => streamPrefetch a0 a1 | .streamOutDrain a0 a1 => streamOutDrain a0 a1
  | .engineQueueAccept a0 a1 => engineQueueAccept a0 a1 | .copyRowTransfer a0 a1 a2 => copyRowTransfer a0 a1 a2
  | .gatherElement a0 a1 a2 => gatherElement a0 a1 a2 | .probePass a0 a1 => probePass a0 a1 | .engineOpEnd a0 a1 => engineOpEnd a0 a1
  | .watchdogTimeout a0 a1 => watchdogTimeout a0 a1 | .matrixQueueAccept a0 => matrixQueueAccept a0
  | .jobEnterContext a0 => jobEnterContext a0 | .blockStep a0 => blockStep a0 | .jobEnd a0 a1 => jobEnd a0 a1
  | .handleReturn a0 a1 => handleReturn a0 a1 | .allocationRelease a0 => allocationRelease a0 | .fqReplyResolve a0 => fqReplyResolve a0
  | .fqReplyRefuse a0 => fqReplyRefuse a0 | .fqLimitExpiry a0 => fqLimitExpiry a0 | .fqTailWrite a0 => fqTailWrite a0
  | .fqBaseWrite a0 => fqBaseWrite a0 | .fqSizeWrite a0 => fqSizeWrite a0 | .xinvStart a0 => xinvStart a0 | .xinvDone => xinvDone
  | .sliceSizeChange a0 a1 => sliceSizeChange a0 a1 | .chTailWrite a0 a1 => chTailWrite a0 a1 | .chCtlRestart a0 a1 => chCtlRestart a0 a1
  | .jobEntry a0 => jobEntry a0 | .graphEntry a0 => graphEntry a0 | .launchEntry a0 => launchEntry a0 | .phaseEntry a0 => phaseEntry a0
  | .waitcEntry a0 => waitcEntry a0 | .endEntry a0 => endEntry a0 | .specEntryCommit a0 => specEntryCommit a0
  | .specEntryDiscard a0 => specEntryDiscard a0 | .chainEntryRetire a0 => chainEntryRetire a0 | .unitStart a0 a1 => unitStart a0 a1
  | .levelComplete a0 a1 => levelComplete a0 a1 | .preemption a0 => preemption a0 | .resumption a0 => resumption a0
  | .hostApertureWrite a0 a1 => hostApertureWrite a0 a1 | .hostApertureRead a0 a1 => hostApertureRead a0 a1
  | .flitReceive a0 a1 => flitReceive a0 a1 | .linkAckTimeout a0 => linkAckTimeout a0
  | .linkTrainingDone a0 a1 a2 => linkTrainingDone a0 a1 a2 | .linkTakeDown a0 => linkTakeDown a0
  | .linkAllowTrain a0 => linkAllowTrain a0 | .routeWrite a0 a1 => routeWrite a0 a1 | .epEventClear a0 => epEventClear a0
  | .islandReset a0 => islandReset a0 | .mgmtResetComputeDie a0 => mgmtResetComputeDie a0 | .mgmtResetBaseDie a0 => mgmtResetBaseDie a0
  | .mgmtResetHub a0 => mgmtResetHub a0 | .resetSequenceComplete => resetSequenceComplete | .dmapWrite a0 => dmapWrite a0
  | .dieHeartbeatMiss a0 => dieHeartbeatMiss a0 | .dieInternalError a0 => dieInternalError a0
  | .spareSelfTestDone a0 => spareSelfTestDone a0 | .lostUnitRerun a0 => lostUnitRerun a0 | .aperBaseWrite a0 => aperBaseWrite a0
  | .pwrClWrite a0 a1 => pwrClWrite a0 a1 | .ratioChangeComplete a0 => ratioChangeComplete a0
  | .powerLimitStep a0 a1 => powerLimitStep a0 a1 | .droopDetect a0 => droopDetect a0 | .droopRecover a0 => droopRecover a0
  | .holdStart a0 => holdStart a0 | .holdEnd a0 => holdEnd a0 | .tmrAlign a0 => tmrAlign a0 | .powerOnReset => powerOnReset
  | .monitorSample a0 a1 => monitorSample a0 a1 | .monitorClr a0 => monitorClr a0 | .errorLogClear a0 => errorLogClear a0
  | .managementLogClear => managementLogClear | .attest a0 a1 => attest a0 a1 | .loadImage a0 a1 => loadImage a0 a1
  | .readMeas a0 a1 => readMeas a0 a1 | .mailboxCompletion => mailboxCompletion | .bar0BadAccess a0 => bar0BadAccess a0
  | .registerWrite a0 a1 a2 => registerWrite a0 a1 a2 | .cancellationTakesEffect a0 => cancellationTakesEffect a0
  | .sequencerCounterReread a0 => sequencerCounterReread a0 | .zeroLengthReadCompletion => zeroLengthReadCompletion
  | .bar2Resize a0 => bar2Resize a0 | .unknownCommandCode a0 a1 => unknownCommandCode a0 a1

end Sys2Proof.Laws.RoundTrip

open Sys2Proof Sys2Proof.Machine

/-- Settles O2, constructor by constructor. -/
theorem roundTrip : Obligations.RoundTrip := Laws.RoundTrip.every

/-- Settles O1: each word is decoded as it stands. -/
theorem decodeWords : Obligations.DecodeWords := by
  unfold Obligations.DecodeWords
  decide

end

section
/-! Every step answers a next state and keeps the invariant: an instruction that is issued has its thread current (R23 to R25), and a
step of the device is one of the rows that have no encoding. -/

namespace Sys2Proof.Machine

/-! ## A fetch that succeeds leaves the threads -/

/-- Reading the translation tables changes at most the cached translations. -/
theorem State.translate_threads (s : State) (asn : Nat) (root va : Word) (kind : Nat) : (s.translate asn root va kind).2.threads = s.threads := by
  unfold State.translate
  dsimp only
  repeat' split
  all_goals rfl

/-- A translation that gives a place leaves the threads: it logs nothing and raises no fault. -/
theorem State.threadXlate_threads {s s1 : State} {t : Thread} {tok : Option Nat} {va : Word} {kind : Nat} {l : Loc}
    (h : s.threadXlate t tok va kind = (.ok l, s1)) : s1.threads = s.threads := by
  have ht := s.translate_threads (s.spaceOf t.uid).1 (s.spaceOf t.uid).2 va kind
  unfold State.threadXlate at h
  dsimp only at h
  rcases ite_eq_iff.mp h with ⟨-, h⟩ | ⟨-, h⟩
  · cases h
  · split at h
    · rename_i hx
      rw [hx] at ht
      split at h
      · cases h; exact ht
      · cases h
    all_goals cases h

theorem State.fetchCode_threads {s s1 : State} {t : Thread} {va : Word} {p : Parcel} (h : s.fetchCode t va = .ok p s1) :
    s1.threads = s.threads := by
  unfold State.fetchCode at h
  dsimp only at h
  split at h
  · cases h
  · split at h
    · cases h; rfl
    · split at h
      · rename_i hx
        have ht := State.threadXlate_threads hx
        split at h
        · cases h
        · split at h <;> cases h <;> exact ht
      all_goals cases h

theorem State.fetchParcel_threads {s s1 : State} {t : Thread} {va : Word} {p : Parcel} (h : s.fetchParcel t va = .ok p s1) :
    s1.threads = s.threads := by
  unfold State.fetchParcel at h
  split at h
  · cases h; rfl
  · split at h
    · cases h; rfl
    · exact State.fetchCode_threads h

/-- The fetch of an instruction word leaves the threads. -/
theorem State.fetchWord_threads {s s1 : State} {t : Thread} {va : Word} {ps : List Parcel} (h : s.fetchWord t va = .ok ps s1) :
    s1.threads = s.threads := by
  unfold State.fetchWord at h
  split at h
  · cases h
  · cases h
  · rename_i hp
    have h1 := State.fetchParcel_threads hp
    split at h
    · cases h; exact h1
    · split at h
      · cases h
      · cases h
      · rename_i hq
        cases h
        exact (State.fetchParcel_threads hq).trans h1

/-! ## What is issued answers a next state -/

/-- An instruction that a thread is issued with runs with that thread current. -/
theorem State.issue_run {s s1 : State} {tk : Nat} {i : Instr} (h : s.issue tk = .run i s1) :
    ∃ t, s1.cur = some tk ∧ s1.thread? tk = some t := by
  unfold State.issue at h
  split at h
  · cases h
  · rename_i t ht
    split at h
    · cases h
    · split at h
      · cases h
      · split at h
        · cases h
        · cases h
        · rename_i hw
          dsimp only at h
          split at h
          · cases h
          · cases h
            refine ⟨t, rfl, ?_⟩
            rw [← ht]
            unfold State.thread?
            dsimp only
            rw [State.fetchWord_threads hw]

/-- The steps that the device takes of itself have no encoding. -/
theorem OwnStep.Is.isEvent {o : OwnStep} {i : Instr} (h : o.Is i) : isEvent i = true := by
  cases o <;> cases h <;> rfl

/-- A step of the device needs no current thread. -/
theorem exec_next_of_isEvent {i : Instr} (h : isEvent i = true) (s : State) : ∃ s', exec i s = .next s' :=
  exec_next i s fun hf => absurd (hf.symm.trans h) (by decide)

theorem OwnStep.run_next (o : OwnStep) (s : State) : ∃ s', o.run s = .next s' := by
  obtain ⟨i, hi⟩ := o.is_some
  rw [OwnStep.run_eq hi]
  exact exec_next_of_isEvent hi.isEvent s

/-- Where no thread waits to be issued, a next state is answered. -/
theorem State.advance_next (s : State) : ∃ s', s.advance = .next s' := by
  unfold State.advance
  split
  · dsimp only
    split
    · exact exec_next_of_isEvent ‹_› _
    · exact ⟨_, rfl⟩
  · dsimp only
    split
    · exact ⟨_, rfl⟩
    · exact OwnStep.run_next _ _

/-- Every step answers a next state, never a fault or a refusal. -/
theorem step_next (s : State) : ∃ s', step s = .next s' := by
  unfold step
  split
  · split
    · rename_i hi
      obtain ⟨t, hc, ht⟩ := State.issue_run hi
      exact exec_next _ _ fun _ => ⟨_, t, hc, ht⟩
    · exact ⟨_, rfl⟩
  · exact s.advance_next

/-- What a step answers meets the invariant. -/
theorem step_inv {s : State} (h : s.Inv) : OutInv (step s) := by
  unfold step
  split
  · rename_i tk rest _
    have hi := State.issue_inv { s with issueQ := rest } tk (State.congr_inv h rfl rfl rfl rfl)
    split
    · rename_i hr
      rw [hr] at hi
      exact exec_inv _ _ hi.run
    · rename_i hr
      rw [hr] at hi
      exact OutInv_next hi.done
  · exact s.advance_inv h

end Sys2Proof.Machine

open Sys2Proof Sys2Proof.Machine

/-- Settles O5: a step answers a next state whatever the state, and what it answers keeps the invariant. -/
theorem stepKeepsInv : Obligations.StepKeepsInv := fun s h =>
  let ⟨s', hs⟩ := step_next s
  ⟨s', hs, step_inv h s' hs⟩

end

section
/-! The 16-bit forms, the compares and their conditions, and the skip under a false guard (R30, R31, R40, R47, R142). -/

namespace Sys2Proof.Machine

/-! ## Words -/

/-- Adding a sign-extended immediate is adding its signed value. -/
theorem Word.add_signExtend (x : Word) (n : BitVec 5) : x + n.signExtend 64 = BitVec.ofInt 64 (x.toNat + n.toInt) := by
  rw [BitVec.signExtend, BitVec.ofInt_add, BitVec.ofInt_natCast, BitVec.ofNat_toNat, BitVec.setWidth_eq]

/-- The low halves of a sum of words are those of the sum of the low halves. -/
theorem sextN_32_add (x y : Word) : sextN (x + y) 32 = sextN (Word.ofN (x.toNat % 2 ^ 32 + y.toNat % 2 ^ 32)) 32 :=
  sextN_32_congr (by rw [BitVec.toNat_add, BitVec.toNat_ofNat]; omega)

/-! ## Conditions -/

/-- "Less or the same word" is "less or equal", since words of equal signed value are the same. -/
theorem decide_lt_or_beq_toInt (x y : Word) : (decide (x.toInt < y.toInt) || x == y) = decide (x.toInt ≤ y.toInt) := by
  rw [Bool.eq_iff_iff, Bool.or_eq_true, decide_eq_true_eq, decide_eq_true_eq, beq_iff_eq, ← BitVec.toInt_inj]
  omega

/-- The same for the unsigned values. -/
theorem decide_lt_or_beq_toNat (x y : Word) : (decide (x.toNat < y.toNat) || x == y) = decide (x.toNat ≤ y.toNat) := by
  rw [Bool.eq_iff_iff, Bool.or_eq_true, decide_eq_true_eq, decide_eq_true_eq, beq_iff_eq, ← BitVec.toNat_inj]
  omega

/-! ## The false guard -/

/-- An instruction that a false guard skips only advances its thread (R30). -/
theorem exec_skipped {i : Instr} {s : State} {tk : Nat} {t : Thread} (hr : IsRun i s) (hm : (instrInfo i).mode = .normal) (h : Skipped i s tk t) :
    exec i s = .next (s.setThread tk (t.past i)) := by
  obtain ⟨body, off, he, hoff⟩ := hr
  rw [he, run_skipped h, hoff hm, finish_seq h.thread]

end Sys2Proof.Machine

open Sys2Proof Sys2Proof.Machine

/-- Settles O14: each form runs with the function of its 32-bit form, whose value is the one that the table gives. -/
theorem compactResults : Obligations.CompactResults := by
  unfold Obligations.CompactResults
  exact ⟨fun o s _ _ _ _ h => delivers_of h (fun v => v.getD 0 0) (fun _ _ s => .seq s) rfl,
    (givesC_of (f := fun x y => x + y) fun _ _ => rfl).congr Word.add_ofN,
    (givesC_of (f := fun x y => x - y) fun _ _ => rfl).congr Word.sub_ofInt,
    (givesC_of (f := fun x y => sextN (x + y) 32) fun _ _ => rfl).congr sextN_32_add,
    (givesI_of (f := fun n x => x + n.signExtend 64) fun _ _ => rfl).congr fun n x => Word.add_signExtend x n,
    givesC_of fun _ _ => rfl, givesC_of fun _ _ => rfl, givesC_of fun _ _ => rfl,
    (givesI_of (f := fun n x => x <<< n.toNat) fun _ _ => rfl).congr fun n x => Word.shl_ofN x n.toNat,
    (givesI_of (f := fun n x => x >>> n.toNat) fun _ _ => rfl).congr fun n x => Word.shr_ofN x n.toNat,
    givesC_of fun _ _ => rfl, givesC_of fun _ _ => rfl, givesC_of fun _ _ => rfl, givesC_of fun _ _ => rfl,
    givesC_of fun _ _ => rfl, givesC_of fun _ _ => rfl⟩

/-- Settles O15: the four compares are one operation with four conditions. -/
theorem compareResults : Obligations.CompareResults := by
  unfold Obligations.CompareResults
  exact ⟨fun o => compare_next (.icmpS o) o.p (iholds true o.c) fun _ => rfl,
    fun o => compare_next (.icmpN o) o.p (iholds false o.c) fun _ => rfl,
    fun o => compare_next (.fcmp o) o.p (fun x y => fholds o.c (f32.val x.toNat) (f32.val y.toNat)) fun _ => rfl,
    fun o => compare_next (.dcmp o) o.p (fun x y => fholds o.c (f64.val x.toNat) (f64.val y.toNat)) fun _ => rfl⟩

/-- Settles O16: LE is "less or equal" because equal words are words of equal value; GT and GE are the negations of LE and LT. -/
theorem integerConditions : Obligations.IntegerConditions := by
  unfold Obligations.IntegerConditions
  intro x y
  have hS := decide_lt_or_beq_toInt x y
  have hN := decide_lt_or_beq_toNat x y
  refine ⟨fun g => ⟨beq_eq_decide x y, ?_, ?_⟩, ⟨rfl, hS, ?_, ?_⟩, ⟨rfl, hN, ?_, ?_⟩⟩
  · show (!(x == y)) = _
    rw [Bool.eq_iff_iff]; simp
  · show (!((x &&& y) == 0)) = _
    rw [Bool.eq_iff_iff]; simp
  · show (!(decide (x.toInt < y.toInt) || x == y)) = _
    rw [hS, Bool.eq_iff_iff]; simp
  · show (!decide (x.toInt < y.toInt)) = _
    rw [Bool.eq_iff_iff]; simp
  · show (!(decide (x.toNat < y.toNat) || x == y)) = _
    rw [hN, Bool.eq_iff_iff]; simp
  · show (!decide (x.toNat < y.toNat)) = _
    rw [Bool.eq_iff_iff]; simp

/-- Settles O19: every such instruction is a run whose false guard does nothing. -/
theorem falseGuardSkips : Obligations.FalseGuardSkips := fun i s _ _ he hill hparcel himx hm h =>
  exec_skipped (isRun i s he hill hparcel himx) hm h

end

section
/-! What the instructions of control answer: transfers, the plain ones that complete, and the traps of software (R270 to R275, R285 to
R291). -/

namespace Sys2Proof.Machine

/-! ## The end of an instruction -/

/-- An instruction that traps gives its stream positions back, and the trap is taken at its address (R9, R129). -/
theorem finish_trap {tk : Nat} {i : Info} {vals : List Word} {old : List Port} {s : State} {c k : Nat} :
    finish tk i ⟨vals, old⟩ (.trap s c k) = (s.restorePorts tk old).deliver tk c k (((s.thread? tk).map (·.pc)).getD 0) := rfl

/-- The end of a taken branch (R271, R283). -/
theorem finish_takeBranch (tk : Nat) (i : Info) (h : Held) (a : Word) (s : State) :
    finish tk i h (takeBranch tk a s) =
      (s.modThread tk fun u => { u with loops := exitCheck u.cd a u.loops }).modThread tk fun u => u.jumpTo a := rfl

/-! ## Targets -/

/-- The target of a branch word is its address plus twice the signed offset (R44). -/
theorem branchTarget_eq (o : BrOp) (pw : Word) : branchTarget o pw = BitVec.ofInt 64 (pw.toNat + 2 * o.off.toInt) := by
  unfold branchTarget
  rw [BitVec.signExtend, BitVec.ofInt_add, BitVec.ofInt_natCast, BitVec.ofNat_toNat, BitVec.setWidth_eq, BitVec.ofInt_mul,
    BitVec.mul_comm (BitVec.ofInt 64 2)]
  rfl

/-! ## Instructions of the current thread that are no run -/

/-- An instruction that only its thread's state decides acts on the current thread. -/
theorem onCurrent_eq {s : State} {tk : Nat} {t : Thread} (hc : s.cur = some tk) (ht : s.thread? tk = some t) (f : Nat → Thread → State) :
    onCurrent s f = .next (f tk t) := by
  unfold onCurrent
  rw [hc]
  dsimp only
  rw [ht]

end Sys2Proof.Machine

open Sys2Proof Sys2Proof.Machine

/-- Settles O30: after its check a branch takes its target or continues; an indirect transfer and the return look at the parity of
theirs first. -/
theorem transfersComplete : Obligations.TransfersComplete := by
  unfold Obligations.TransfersComplete
  refine ⟨fun o s tk t s1 h hc => ?_, fun o s tk t s1 h hc hr => ?_, fun o s tk t s1 h hc => ?_, fun o s tk t s1 h hc => ?_,
    fun o s tk t a s1 h ha => ?_, fun o s tk t a s1 h ha hr => ?_, fun s tk t a s1 ha => ⟨fun o h => ?_, fun o h => ?_, fun o h hv => ?_⟩⟩
  · show execBr o s = _
    rw [execBr, run_ready h, checked_ready hc, finish_takeBranch, branchTarget_eq]
  · show execCall o s = _
    rw [execCall, run_ready h, checked_ready hc, takeCall_finish hr, branchTarget_eq]
  · show execBr o s = _
    rw [execBr, run_skipped h, checked_ready hc]
    rfl
  · show execCall o s = _
    rw [execCall, run_skipped h, checked_ready hc]
    rfl
  · show execJmpi o s = _
    rw [execJmpi, run_ready h]
    show Host.Outcome.next (finish tk _ _ (if a.toNat % 2 = 1 then _ else takeBranch tk a s1)) = _
    rw [if_neg (by omega), finish_takeBranch]
  · show execCalli o s = _
    rw [execCalli, run_ready h]
    show Host.Outcome.next (finish tk _ _ (if a.toNat % 2 = 1 then _ else takeCall tk a s1)) = _
    rw [if_neg (by omega), takeCall_finish hr]
  · show execJmpi o s = _
    rw [execJmpi, run_ready h]
    show Host.Outcome.next (finish tk _ _ (if a.toNat % 2 = 1 then _ else _)) = _
    rw [if_pos ha, finish_trap]
  · show execCalli o s = _
    rw [execCalli, run_ready h]
    show Host.Outcome.next (finish tk _ _ (if a.toNat % 2 = 1 then _ else _)) = _
    rw [if_pos ha, finish_trap]
  · show execRet o s = _
    rw [execRet, run_ready h, if_pos (hv ▸ ha), finish_trap]

/-- Settles O35: the effect of each instruction, then its end. -/
theorem plainControlCompletes : Obligations.PlainControlCompletes := by
  unfold Obligations.PlainControlCompletes
  refine ⟨fun o s tk t h => ?_, fun o s tk t h => ?_, fun o s tk t h => ?_, fun x s tk t hc ht hp => ?_, fun o s tk t a s0 h hr => ?_⟩
  · show execNop o s = _
    rw [execNop, run_ready h, finish_seq h.thread]
  · show execRgn o s = _
    rw [execRgn, run_ready h, finish_seqR h.thread]
  · show execYield o s = _
    rw [execYield, run_ready h, State.modThread_eq _ h.thread]
    rfl
  · show execImx x s = _
    rw [execImx, onCurrent_eq hc ht, if_neg (by omega)]
  · show execExit o s = _
    rw [execExit, run_ready h, if_pos hr]
    rfl

/-- Settles O36: each takes its trap at the pc of its thread, which is the address of the first word of the instruction with its IMX words. -/
theorem softwareTraps : Obligations.SoftwareTraps := by
  unfold Obligations.SoftwareTraps
  refine ⟨fun o s tk t h => ?_, fun o s tk t a s0 u h hu => ?_, fun s tk t hc ht => ⟨?_, ?_, fun x hp => ?_⟩⟩
  · show execBrk o s = _
    rw [execBrk, run_ready h, finish_trap, h.thread]
    rfl
  · show execTrap o s = _
    rw [execTrap, run_ready h, finish_trap, hu]
    rfl
  · exact onCurrent_eq hc ht _
  · exact onCurrent_eq hc ht _
  · show execImx x s = _
    rw [execImx, onCurrent_eq hc ht, if_pos hp]

end

section
/-! The OPERAND checks of decode: what each of them refuses (R33, R35 to R39, R51). -/

namespace Sys2Proof.Machine

/-! ## The checks one by one -/

section

variable {i : Instr} {n : Nat} {pre : List (BitVec 25)}

/-- The three checks: of the word, of the role's registers, of xi. -/
theorem operandOk_iff : operandOk i n pre = true ↔ WellFormed i = true ∧ (∀ r ∈ (instrInfo i).named, r < n) ∧
    ∀ p, (p, Src.xi) ∈ (instrInfo i).srcs → (xiWord p pre).isSome = true := by
  have hxi : (instrInfo i).xiOk pre = true ↔ ∀ p, (p, Src.xi) ∈ (instrInfo i).srcs → (xiWord p pre).isSome = true := by
    simp only [Info.xiOk, List.all_eq_true]
    constructor
    · exact fun h p hp => h (p, .xi) hp
    · rintro h ⟨p, x⟩ hx
      cases x with
      | xi => exact h p hx
      | _ => rfl
  simp only [operandOk, Bool.and_eq_true, hxi, List.all_eq_true, decide_eq_true_eq, and_assoc]

theorem operandOk_of_word (h : WellFormed i = false) : operandOk i n pre = false := by
  rw [← Bool.not_eq_true, operandOk_iff, h]; simp

theorem operandOk_of_named {r : Nat} (h : r ∈ (instrInfo i).named) (hr : n ≤ r) : operandOk i n pre = false := by
  rw [← Bool.not_eq_true, operandOk_iff]
  exact fun ⟨_, hn, _⟩ => absurd (hn r h) (by omega)

theorem operandOk_of_xi {p : Pos} (h : (p, Src.xi) ∈ (instrInfo i).srcs) (hx : xiWord p pre = none) : operandOk i n pre = false := by
  rw [← Bool.not_eq_true, operandOk_iff]
  exact fun ⟨_, _, hs⟩ => by simpa [hx] using hs p h

end

/-! ## The registers that an instruction names -/

theorem Info.mem_named_of_srcs {f : Info} {p : Pos} {r : Fin 60} (h : (p, Src.v r) ∈ f.srcs) : r.1 ∈ f.named := by
  simp only [Info.named, List.mem_append, List.mem_flatMap]
  exact .inl (.inl (.inl ⟨_, h, List.mem_singleton_self _⟩))

theorem Info.mem_named_of_more {f : Info} {r : Nat} (h : r ∈ f.more) : r ∈ f.named := by
  simp only [Info.named, List.mem_append]
  exact .inl (.inr h)

theorem Info.mem_named_of_wr {f : Info} {r : Nat} (h : r ∈ f.wr) : r ∈ f.named := by
  simp only [Info.named, List.mem_append]
  exact .inr h

/-- A destination that W does not suppress is written. -/
theorem dstRegs_subset_of_kept {w : Bool} {d e : Dst} (h : keptDst w d = some e) : dstRegs e ⊆ if w then [] else dstRegs d := by
  cases w with
  | false => cases h; exact List.Subset.refl _
  | true => cases h

/-- The lane register of a destination is among those written: W suppresses both or neither, and a pair adds to it (R28, R35). -/
theorem dstRegs_subset_wr {i : Instr} {d : Dst} (h : (instrInfo i).dst = some d) : dstRegs d ⊆ (instrInfo i).wr := by
  cases i with
  | iadd o | isub o | imul o | imac o | iadd32 o | isub32 o | imul32 o | imac32 o | imulhS o | imulhN o | andOp o | orOp o | xorOp o
  | andn o | shl o | shr o | asr o | iminS o | imaxS o | iminN o | imaxN o | fadd o | fsub o | fmul o | ffma o | fmin o | fmax o | dadd o
  | dsub o | dmul o | dfma o | dmin o | dmax o | hadd o | hmul o | hfma o | badd o | bmul o | bfma o | sel o | mov o | notOp o | negOp o
  | absOp o | popc o | clz o | ctz o | brev o | bswap o | sx8 o | sx16 o | sx32 o | zx8 o | zx16 o | zx32 o | movs o | urd o | fneg o
  | fabs o | dneg o | dabs o | frcp o | frsq o | fsqrt o | fex2 o | flg2 o | drcp o | dsqrt o | drsq o | fscale o | dscale o | fxpn o
  | dxpn o | frintRn o | frintRz o | frintRm o | frintRp o | drintRn o | drintRz o | drintRm o | drintRp o | cvtF64F32 o | cvtF32F64 o
  | cvtF16F32 o | cvtBf16F32 o | cvtF32F16 o | cvtF32Bf16 o | cvtF32S64 o | cvtF32N64 o | cvtF64S64 o | cvtF64N64 o | cvtS32F32 o
  | cvtN32F32 o | cvtS64F32 o | cvtN64F32 o | cvtS32F64 o | cvtN32F64 o | cvtS64F64 o | cvtN64F64 o => exact dstRegs_subset_of_kept h
  | ex2s o =>
    refine fun r hr => ?_
    have hk := dstRegs_subset_of_kept h hr
    revert hk
    show r ∈ (if o.w then [] else dstRegs o.d) → r ∈ if o.w then [] else (dstRegs o.d).flatMap fun n => [n, n + 1]
    cases o.w with
    | false => exact fun hk => List.mem_flatMap.mpr ⟨r, hk, List.mem_cons_self⟩
    | true => exact id
  | atomAdd o | atomAnd o | atomOr o | atomXor o | atomMinS o | atomMaxS o | atomMinN o | atomMaxN o | atomXchg o | atomCas o
  | atomFadd o | atomIncw o | atomCasPromote o | atomHacc o => cases h; exact List.subset_append_left _ _
  | _ => cases h <;> exact List.Subset.refl _

/-! ## The first source -/

theorem Dst.toSrc_okA (d : Dst) : d.toSrc.okA = true := by cases d <;> rfl
theorem CSrc.toSrc_okA (x : CSrc) : x.toSrc.okA = true := by cases x <;> rfl

/-- The first source of a word that decode lets pass is no small integer (R33). -/
theorem okA_of_wellFormed {i : Instr} {x : Pos × Src} (hw : WellFormed i = true) (hx : (instrInfo i).srcs.head? = some x) :
    x.2.okA = true := by
  cases i with
  | imac o | imac32 o | ffma o | dfma o | hfma o | bfma o | ld8 o | ld16 o | ld32 o | ld64 o | ld8S o | ld16S o | ld32S o | st8 o
  | st16 o | st32 o | st64 o | ldacq o | strel o | atomAdd o | atomAnd o | atomOr o | atomXor o | atomMinS o | atomMaxS o | atomMinN o
  | atomMaxN o | atomXchg o | atomCas o | atomFadd o | atomIncw o | atomCasPromote o | atomHacc o | uwr o | fscale o | dscale o | ex2s o
  | shfi o | shfa o | shfb o | shfx o | wait o | icinv o => cases hx; exact (Bool.and_eq_true_iff.mp hw).1
  | movCompact o => cases hx; exact CSrc.toSrc_okA _
  | iaddCompact o | isubCompact o | iadd32Compact o | iaddi o | andCompact o | orCompact o | xorCompact o | shli o
  | shri o | faddCompact o | fsubCompact o | fmulCompact o | fmaxCompact o | daddCompact o | dmulCompact o => cases hx; exact Dst.toSrc_okA _
  | movs o => cases hx; rfl
  | _ => cases hx <;> exact hw

/-! ## xi -/

/-- With two IMX words before it, xi has no value in a 16-bit format (R38). -/
theorem xiWord_half_two {p : Pos} (h : p ∈ [Pos.h4, .b4, .h1, .b1]) (a b : BitVec 25) : xiWord p [a, b] = none := by
  simp only [List.mem_cons, List.not_mem_nil, or_false] at h
  rcases h with rfl | rfl | rfl | rfl <;> rfl

/-- With one IMX word, a 16-bit format takes the high 16 bits, and the low 9 have to be 0 (R38). -/
theorem xiWord_half_one {p : Pos} (h : p ∈ [Pos.h4, .b4, .h1, .b1]) {a : BitVec 25} (ha : a.toNat % 2 ^ 9 ≠ 0) : xiWord p [a] = none := by
  have hb : ¬bits a.toNat 8 0 = 0 := by simpa [bits] using ha
  simp only [List.mem_cons, List.not_mem_nil, or_false] at h
  rcases h with rfl | rfl | rfl | rfl <;> exact if_neg hb

/-- The payloads of two IMX words, the second low, as one number (R38). -/
theorem toNat_append_payload (a b : BitVec 25) : (a ++ b).toNat = a.toNat * 2 ^ 25 + b.toNat := by
  rw [BitVec.toNat_append, ← Nat.shiftLeft_add_eq_or_of_lt b.isLt, Nat.shiftLeft_eq]

/-- In an f32 position the low 18 bits of two IMX words have to be 0 (R38). -/
theorem xiWord_f32_two (a b : BitVec 25) : xiWord .f32 [a, b] = none ↔ (a ++ b).toNat % 2 ^ 18 ≠ 0 := by
  have hb : bits (a.toNat * 2 ^ 25 + b.toNat) 17 0 = (a ++ b).toNat % 2 ^ 18 := by
    simp [bits, toNat_append_payload]
  simp only [xiWord, hb, ite_eq_right_iff, reduceCtorEq, imp_false, ne_eq]

/-- In an integer position xi has a value after one or two IMX words. -/
theorem xiWord_int_isSome (pre : List (BitVec 25)) : (xiWord .int pre).isSome = true ↔ pre.length = 1 ∨ pre.length = 2 := by
  match pre with
  | [] => simp [xiWord]
  | [_] => simp [xiWord]
  | [_, _] => simp [xiWord]
  | _ :: _ :: _ :: _ => simp [xiWord]

/-! ## What the checks refuse -/

/-- A word is refused where the second of its two checks, that of D, fails (R36, R37). -/
theorem operandOk_of_dst {i : Instr} {n : Nat} {pre : List (BitVec 25)} {a : Src} {x : Bool} (hw : WellFormed i = (a.okA && x)) (hx : x = false) :
    operandOk i n pre = false :=
  operandOk_of_word (by rw [hw, hx]; exact Bool.and_false _)

/-- An ATOM with a pair is refused where D is odd, and where D + 1 is no register of the role (R35, R37). -/
theorem operandOk_of_pair {i : Instr} {n : Nat} {pre : List (BitVec 25)} {a : Src} {d : Dst} {r : Fin 60} (hd : d = .v r)
    (hr : r.1 % 2 = 1 ∨ n ≤ r.1 + 1) (hw : WellFormed i = (a.okA && d.evenPair)) (hm : (instrInfo i).more = (dstRegs d).map (· + 1)) :
    operandOk i n pre = false := by
  subst hd
  rcases hr with hr | hr
  · exact operandOk_of_word (by simp [hw, Dst.evenPair, hr])
  · exact operandOk_of_named (Info.mem_named_of_more (r := r.1 + 1) (by simp [hm, dstRegs])) hr

/-- IADD, whose two sources may be anything but a small integer in A (R35, R38, R51). -/
theorem operandOk_iadd (o : Op3) (n : Nat) (pre : List (BitVec 25)) : operandOk (.iadd o) n pre = true ↔
    (∀ k, o.a ≠ .imm k) ∧ (∀ r, (o.a = .v r ∨ o.b = .v r ∨ o.w = false ∧ o.d = .v r) → r.1 < n) ∧
      ((o.a = .xi ∨ o.b = .xi) → pre.length = 1 ∨ pre.length = 2) := by
  have hok : o.a.okA = true ↔ ∀ k, o.a ≠ .imm k := by cases o.a <;> simp [Src.okA]
  have hsrc (x : Src) (r : Nat) : r ∈ srcRegs x ↔ ∃ k : Fin 60, x = .v k ∧ k.1 = r := by cases x <;> simp [srcRegs, eq_comm]
  have hdst (r : Nat) : (r ∈ if o.w then [] else dstRegs o.d) ↔ ∃ k : Fin 60, (o.w = false ∧ o.d = .v k) ∧ k.1 = r := by
    cases o.w <;> cases o.d <;> simp [dstRegs, eq_comm]
  have hnamed (r : Nat) : r ∈ (instrInfo (.iadd o)).named ↔
      ∃ k : Fin 60, (o.a = .v k ∨ o.b = .v k ∨ o.w = false ∧ o.d = .v k) ∧ k.1 = r := by
    simp only [instrInfo, Info.alu3, Info.named, List.flatMap_cons, List.flatMap_nil, List.append_nil, Option.map_none, List.mem_append,
      hsrc, hdst, or_and_right, exists_or, or_assoc]
  have hxi : (∀ p, (p, Src.xi) ∈ (instrInfo (.iadd o)).srcs → (xiWord p pre).isSome = true) ↔
      ((o.a = .xi ∨ o.b = .xi) → pre.length = 1 ∨ pre.length = 2) := by
    simp only [instrInfo, Info.alu3, List.mem_cons, List.not_mem_nil, or_false, Prod.mk.injEq, ← and_or_left, and_imp,
      forall_eq, xiWord_int_isSome, eq_comm (a := Src.xi)]
  rw [operandOk_iff, hxi]
  refine and_congr hok (and_congr_left' ?_)
  simp only [hnamed]
  exact ⟨fun h r hr => h r.1 ⟨r, hr, rfl⟩, fun h r ⟨k, hk, e⟩ => e ▸ h k hk⟩

end Sys2Proof.Machine

open Sys2Proof Sys2Proof.Machine

/-- Settles O20: the checks of the word, of the registers that the instruction names and of xi stand before all else that a run does. -/
theorem operandTrap : Obligations.OperandTrap := by
  unfold Obligations.OperandTrap
  refine ⟨fun i s tk t he hill hparcel himx hc ht h => ?_, fun n pre => ⟨fun i p k rest h => ?_, fun i p r h hr => ?_, fun i r h hr => ?_,
    fun hn => ⟨fun o => ?_, fun o => ?_⟩, fun o r hw hd hr => ?_, fun o k hw hd => ?_, fun o k hd mk hm => ?_, fun o k hd => ?_, fun o k hd => ?_,
    fun o k hd mk hm => ?_, fun o k hd => ?_, fun o k hd mk hm => ?_, fun o k hd mk hm => ?_, fun o k hd mk hm => ?_,
    fun o r hd hr => ⟨?_, ?_⟩, fun o r hd hr => ?_, fun i p h => ⟨fun hp => ?_, fun a b hp hf hz => ?_,
    fun hf => ⟨fun a b hp => ?_, fun a hp hz => ?_⟩⟩,
    fun o => operandOk_iadd o n pre⟩⟩
  · obtain ⟨body, off, hrun, _⟩ := isRun i s he hill hparcel himx
    rw [hrun, run_operand hc ht h]
  · refine operandOk_of_word (Bool.eq_false_iff.mpr fun hw => ?_)
    exact absurd (okA_of_wellFormed (x := (p, .imm k)) hw (by rw [h]; rfl)) Bool.false_ne_true
  · exact operandOk_of_named (Info.mem_named_of_srcs h) hr
  · exact operandOk_of_named (Info.mem_named_of_wr (dstRegs_subset_wr h (List.mem_singleton_self _))) hr
  · exact operandOk_of_named (Info.mem_named_of_wr (List.mem_singleton_self 59)) (by omega)
  · exact operandOk_of_named (Info.mem_named_of_wr (List.mem_singleton_self 59)) (by omega)
  · exact operandOk_of_named (Info.mem_named_of_wr (r := r.1 + 1) (by simp [instrInfo, Info.ex2s, hw, hd, dstRegs])) hr
  · exact operandOk_of_dst rfl (by rw [hw, hd]; rfl)
  · fin_cases hm <;> exact operandOk_of_dst rfl (by rw [hd]; rfl)
  · exact operandOk_of_dst rfl (by rw [hd]; rfl)
  · exact operandOk_of_dst rfl (by rw [hd]; rfl)
  · fin_cases hm <;> exact operandOk_of_dst rfl (by rw [hd]; rfl)
  · exact operandOk_of_dst rfl (by rw [hd]; rfl)
  · fin_cases hm <;> exact operandOk_of_dst rfl (by rw [hd]; rfl)
  · fin_cases hm <;> exact operandOk_of_dst rfl (by rw [hd]; rfl)
  · fin_cases hm <;> exact operandOk_of_dst rfl (by rw [hd]; rfl)
  · exact operandOk_of_pair hd hr rfl rfl
  · exact operandOk_of_pair hd hr rfl rfl
  · exact operandOk_of_pair hd hr rfl rfl
  · exact operandOk_of_xi h (hp ▸ rfl)
  · exact operandOk_of_xi h (by rw [hp, hf]; exact (xiWord_f32_two a b).mpr hz)
  · exact operandOk_of_xi h (by rw [hp]; exact xiWord_half_two hf a b)
  · exact operandOk_of_xi h (by rw [hp]; exact xiWord_half_one hf hz)

end

section
/-! What each source form reads (R33, R34, R38, R39, R126, R133). -/

namespace Sys2Proof.Machine

/-! ## Small integers -/

/-- That a value read in a floating format is an integer: +0, or a significand whose scale is that of a negative power of two. -/
def FVal.isInt (x : FVal) (v : Int) : Bool :=
  match x with
  | .zero neg => v == 0 && !neg
  | .fin neg m e => neg == decide (v < 0) && decide (e ≤ 0) && m == v.natAbs * 2 ^ (-e).toNat
  | _ => false

/-- The images of the small integers, -11 to 11, in every position (R34, R41). -/
theorem immWord_values : ∀ k : Fin 23, let v : Int := k.1 - 11
    (immWord .int v).toInt = v ∧ (∀ n, n ∈ [1, 2, 4, 8] → (immWord (.off n) v).toInt = v * n) ∧
    (f32.val (immWord .f32 v).toNat).isInt v ∧ (f64.val (immWord .f64 v).toNat).isInt v ∧
    (∀ j, j < 4 → (f16.val (bits (immWord .h4 v).toNat (16 * j + 15) (16 * j))).isInt v ∧
      (bf16.val (bits (immWord .b4 v).toNat (16 * j + 15) (16 * j))).isInt v) := by
  decide +kernel

/-! ## xi -/

/-- A payload that is sign-extended keeps its signed value. -/
theorem toInt_sextN_ofN {n : Nat} (hn : n ≤ 64) (x : BitVec n) : (sextN (Word.ofN x.toNat) n).toInt = x.toInt := by
  rw [sextN_ofInt, BitVec.toNat_ofNat, Nat.mod_eq_of_lt (lt_of_lt_of_le x.isLt (Nat.pow_le_pow_right (by decide) hn)), BitVec.ofNat_toNat,
    BitVec.setWidth_eq, ← BitVec.signExtend, BitVec.toInt_signExtend_of_le hn]

/-- A payload that is left-aligned loses no bit. -/
theorem toNat_ofN_mul {x k n : Nat} (hx : x < 2 ^ n) (hk : n + k ≤ 64) : (Word.ofN (x * 2 ^ k)).toNat = x * 2 ^ k := by
  rw [BitVec.toNat_ofNat, Nat.mod_eq_of_lt]
  calc x * 2 ^ k < 2 ^ n * 2 ^ k := Nat.mul_lt_mul_of_pos_right hx (Nat.two_pow_pos k)
    _ = 2 ^ (n + k) := (Nat.pow_add ..).symm
    _ ≤ 2 ^ 64 := Nat.pow_le_pow_right (by decide) hk

/-- The word of an integer position from two payloads (R38). -/
theorem xiWord_int_two (a b : BitVec 25) : xiWord .int [a, b] = some (sextN (Word.ofN (a ++ b).toNat) 50) := by
  rw [toNat_append_payload]; rfl
/-- The word of an f64 position from two payloads (R38). -/
theorem xiWord_f64_two (a b : BitVec 25) : xiWord .f64 [a, b] = some (Word.ofN ((a ++ b).toNat * 2 ^ 14)) := by
  rw [toNat_append_payload]; rfl

/-! ## Sources without a port -/

/-- A source that is no port changes no state, and gives one value. -/
theorem State.readSrc_noPort {s s' : State} {tk : Nat} {t : Thread} {p : Pos} {n : Nat} {x : Src} {vals : List Word} (hx : ∀ k, x ≠ .m k)
    (h : s.readSrc tk t p n x = .ok vals s') : s' = s ∧ vals.length = 1 := by
  cases x with
  | m k => exact absurd rfl (hx k)
  | b k =>
    simp only [State.readSrc] at h
    split at h <;> cases h
    exact ⟨rfl, rfl⟩
  | s r =>
    simp only [State.readSrc] at h
    split at h
    · cases h; exact ⟨rfl, rfl⟩
    · split at h <;> cases h
      exact ⟨rfl, rfl⟩
  | _ => cases h; exact ⟨rfl, rfl⟩

/-- Sources that are no ports change no state, and give a value each. -/
theorem State.readSrcs_noPort (s : State) (tk : Nat) (t : Thread) : ∀ (srcs : List (Pos × Src)) (vals : List Word) (s' : State),
    (∀ x ∈ srcs, ∀ k, x.2 ≠ .m k) → s.readSrcs tk t srcs = .ok vals s' → s' = s ∧ vals.length = srcs.length
  | [], _, _, _, h => by cases h; exact ⟨rfl, rfl⟩
  | (p, x) :: rest, vals, s', hx, h => by
    unfold State.readSrcs at h
    split at h
    · rename_i v s1 h1
      obtain ⟨rfl, hv⟩ := State.readSrc_noPort (hx _ List.mem_cons_self) h1
      split at h
      · rename_i vs s2 h2
        obtain ⟨rfl, hvs⟩ := State.readSrcs_noPort s1 tk t rest vs s2 (fun y hy => hx y (List.mem_cons_of_mem _ hy)) h2
        cases h
        exact ⟨rfl, by rw [List.length_append, hv, hvs, List.length_cons, Nat.add_comm]⟩
      · rename_i hn
        exact absurd h (hn _ _)
    · rename_i hn
      exact absurd h (hn _ _)

/-! ## In-ports -/

/-- An in-port whose FIFO holds what the instruction reads of it gives its oldest element, which is consumed (R126). -/
theorem State.portRead_ok {s : State} {tk k n : Nat} {t : Thread} {b : PortBind} {e : InElem} {rest : List InElem} (ht : s.thread? tk = some t)
    (hb : (t.ports.getD k {}).bind = some b) (hin : b.isOut = false) (hc : b.pos + n ≤ b.count) (hr : finReady n (t.ports.getD k {}).fin = true)
    (hf : (t.ports.getD k {}).fin = e :: rest) (he : e.err = none) (hw : ∀ l, e.loc = some l → s.watchHit t l b.width true false = none) :
    s.portRead tk k n = .ok e.val (s.setThread tk { t with ports := setAt t.ports k { t.ports.getD k {} with
      bind := some { b with pos := b.pos + 1 }, fin := rest } }) := by
  have hnc : (b.isOut || decide (b.pos + n > b.count)) = false := by simp [hin, hc]
  have hnw : (e.loc.bind fun l => s.watchHit t l b.width true false) = none := by
    cases hl : e.loc with
    | none => rfl
    | some l => exact hw l hl
  have hfr : finReady n (e :: rest) = true := hf ▸ hr
  unfold State.portRead
  simp only [ht, hb, hnc, hf, hfr, hnw, he, Bool.false_eq_true, if_false, if_true, Option.getD_some, State.modThread_eq _ ht]

end Sys2Proof.Machine

open Sys2Proof Sys2Proof.Machine

/-- Settles O7, source form by source form. -/
theorem sourceValues : Obligations.SourceValues := by
  unfold Obligations.SourceValues
  refine ⟨fun s tk t p n => ⟨fun _ => rfl, rfl, rfl, rfl, rfl, fun k hk => ?_, fun k hk => ?_, fun r u hu hf => ?_, fun r u hu hf => ?_,
      fun _ => rfl, fun x hx => ?_⟩, immWord_values, fun a => ⟨_, _, _, rfl, ?_, rfl, ?_, rfl, ?_⟩,
    fun a b => ⟨_, _, xiWord_int_two a b, toInt_sextN_ofN (by decide) _, xiWord_f64_two a b, toNat_ofN_mul (a ++ b).isLt (by decide), ?_⟩,
    State.readSrcs_noPort, fun s tk t k n b e rest ht hb hin hc hr hf he hw => State.portRead_ok ht hb hin hc hr hf he hw⟩
  · exact if_pos hk
  · exact if_neg (Bool.eq_false_iff.mp hk)
  · simp only [State.readSrc, hu, hf, Bool.false_eq_true, if_false]
  · simp only [State.readSrc, hu, hf, if_true]
  · simp only [State.readSrc, hx, Option.getD_some]
  · exact toInt_sextN_ofN (by decide) a
  · exact toNat_ofN_mul a.isLt (by decide)
  · exact toNat_ofN_mul a.isLt (by decide)
  · exact xiWord_f32_two a b

end

section
/-! A step fetches, decodes and runs; with no thread to issue it lets time pass and takes the next entry of the schedule (R23 to R25, R308,
R350). -/

namespace Sys2Proof.Machine

/-! ## What passes outside the steps leaves threads and time alone -/

/-- That an operation leaves the threads, those that wait to be issued, and the time. -/
def State.SameThreads (s s' : State) : Prop := s'.threads = s.threads ∧ s'.issueQ = s.issueQ ∧ s'.hub.tmr = s.hub.tmr

theorem State.SameThreads.refl (s : State) : s.SameThreads s := ⟨rfl, rfl, rfl⟩

theorem State.SameThreads.trans {a b c : State} (h : a.SameThreads b) (h' : b.SameThreads c) : a.SameThreads c :=
  ⟨h'.1.trans h.1, h'.2.1.trans h.2.1, h'.2.2.trans h.2.2⟩

/-- Either of two operations leaves them. -/
theorem State.SameThreads.ite {c : Prop} [Decidable c] {s a b : State} (ha : s.SameThreads a) (hb : s.SameThreads b) :
    s.SameThreads (if c then a else b) := by
  split
  · exact ha
  · exact hb

/-- A fold of operations that leave them leaves them. -/
theorem State.SameThreads.foldl {α : Type} {f : State → α → State} (hf : ∀ (s : State) x, s.SameThreads (f s x)) (xs : List α) (s : State) :
    s.SameThreads (xs.foldl f s) :=
  foldl_keep s.SameThreads f xs s (.refl s) fun a ha x _ => ha.trans (hf a x)

section

variable (s : State)

theorem State.sameThreads_modUnit (k : Nat) (f : TUnit → TUnit) : s.SameThreads (s.modUnit k f) := by
  unfold State.modUnit
  split <;> exact .refl s

theorem State.sameThreads_modLaunch (k : Nat) (f : Launch → Launch) : s.SameThreads (s.modLaunch k f) := by
  unfold State.modLaunch
  split <;> exact ⟨rfl, rfl, rfl⟩

theorem State.sameThreads_forgetAt (l : Loc) (n : Nat) : s.SameThreads (s.forgetAt l n) := by
  cases l with
  | home d => exact ⟨rfl, rfl, rfl⟩
  | _ => exact State.sameThreads_modUnit _ _ _

theorem State.sameThreads_specWrite (spec d : Nat) (v : Byte) : s.SameThreads (s.specWrite spec d v) := by
  unfold State.specWrite
  split
  · exact .refl s
  · exact s.sameThreads_modLaunch _ _

theorem State.sameThreads_forgetAs (spec : Nat) (l : Loc) (n : Nat) : s.SameThreads (s.forgetAs spec l n) := by
  cases l with
  | home d =>
    unfold State.forgetAs
    dsimp only
    split
    · exact s.sameThreads_forgetAt _ _
    · exact .foldl (fun a x => a.sameThreads_specWrite _ _ _) _ _
  | _ => exact s.sameThreads_forgetAt _ _

theorem State.sameThreads_writeHome (d : Nat) (bs : List Byte) : s.SameThreads (s.writeAt 0 (.home d) bs) := by
  induction bs generalizing s d with
  | nil => exact .refl s
  | cons b bs ih => exact State.SameThreads.trans ⟨rfl, rfl, rfl⟩ (ih (s.putHome d b) (d + 1))

theorem State.sameThreads_spoilSpec (l : Loc) (n : Nat) : s.SameThreads (s.spoilSpec l n) := by
  unfold State.spoilSpec
  refine .foldl (fun a p => ?_) _ s
  dsimp only
  split
  · exact .ite (State.SameThreads.trans ⟨rfl, rfl, rfl⟩ (a.takeFresh.2.sameThreads_modLaunch _ _)) (.refl a)
  · exact .refl a

theorem State.sameThreads_spoilSaves (l : Loc) (n : Nat) : s.SameThreads (s.spoilSaves l n) := by
  unfold State.spoilSaves
  exact .ite ((s.sameThreads_forgetAt l n).trans ⟨rfl, rfl, rfl⟩) (.refl s)

theorem State.sameThreads_spoilPieces (spec : Nat) (o : CopyOp) (l : Loc) (n : Nat) : s.SameThreads (s.spoilPieces spec o l n) := by
  unfold State.spoilPieces
  refine .foldl (fun a p => ?_) _ s
  dsimp only
  split
  · exact .refl a
  · exact .foldl (fun b d => b.sameThreads_forgetAs _ _ _) _ a

theorem State.sameThreads_spoilOp (o : CopyOp) (l : Loc) (n : Nat) (src : Bool) : s.SameThreads (s.spoilOp o l n src) := by
  unfold State.spoilOp
  dsimp only
  have hdst (xs : List (Nat × Nat)) (spec : Nat) : s.SameThreads (xs.foldl (fun s x => s.forgetAs spec (l.add x.1) x.2) s) :=
    .foldl (fun a x => a.sameThreads_forgetAs _ _ _) _ s
  have hsrc (c : Bool) (xs : List (Nat × Nat)) (spec : Nat) :
      s.SameThreads (if c = true then (xs.foldl (fun s x => s.forgetAs spec (l.add x.1) x.2) s).spoilPieces spec o l n
        else xs.foldl (fun s x => s.forgetAs spec (l.add x.1) x.2) s) :=
    .ite ((hdst xs spec).trans (State.sameThreads_spoilPieces _ _ _ _ _)) (hdst xs spec)
  exact .ite (hsrc _ _ _) ((hsrc _ _ _).trans ⟨rfl, rfl, rfl⟩)

theorem State.sameThreads_spoilJob (j : Job) (rows cols : List Nat) (cells : List (Nat × Nat)) :
    s.SameThreads (s.spoilJob j rows cols cells) := by
  unfold State.spoilJob
  refine .ite (.refl s) (State.SameThreads.trans (.foldl (fun a c => ?_) _ s) ⟨rfl, rfl, rfl⟩)
  exact .ite (a.sameThreads_forgetAs _ _ _) (.refl a)

theorem State.sameThreads_noteOps (w : Writer) (q : Nat) (l : Loc) (n : Nat) (ops : List CopyOp) :
    s.SameThreads (s.noteOps w q l n ops) := by
  unfold State.noteOps
  refine .foldl (fun a o => .ite (.refl a) ?_) _ s
  split
  · exact .ite (.refl a) (a.sameThreads_spoilOp _ _ _ _)
  · exact a.sameThreads_spoilOp _ _ _ _
  · exact .ite (.refl a) (a.sameThreads_spoilOp _ _ _ _)

theorem State.sameThreads_noteJobs (w : Writer) (q : Nat) (l : Loc) (n : Nat) (jobs : List Job) :
    s.SameThreads (s.noteJobs w q l n jobs) := by
  unfold State.noteJobs
  exact .foldl (fun a j => .ite (.refl a) (a.sameThreads_spoilJob _ _ _ _)) _ s

theorem State.sameThreads_noteWrite (w : Writer) (q : Nat) (l : Loc) (n : Nat) : s.SameThreads (s.noteWrite w q l n) := by
  unfold State.noteWrite
  exact (((s.sameThreads_spoilSpec l n).trans (State.sameThreads_spoilSaves _ l n)).trans (State.sameThreads_noteOps _ _ _ _ _ _)).trans
    (State.sameThreads_noteJobs _ _ _ _ _ _)

/-- What the host and the peers change in their own memory leaves threads and time (R262). -/
theorem State.sameThreads_outsideChanges (cells : List Host.Cell) : s.SameThreads (s.outsideChanges cells) := by
  unfold State.outsideChanges
  exact .foldl (fun a c => (State.SameThreads.trans ⟨rfl, rfl, rfl⟩ (a.takeSeq.2.sameThreads_writeHome _ _)).trans
    (State.sameThreads_noteWrite _ _ _ _ _)) _ s

end

/-! ## Fetching one parcel -/

section

variable {s s1 : State} {t : Thread} {va : Word} {p : Parcel}

theorem State.fetchParcel_pbuf (h : pbufGet t.pbuf va = some p) : s.fetchParcel t va = .ok p s := by
  unfold State.fetchParcel
  rw [h]

theorem State.fetchParcel_loop (hp : pbufGet t.pbuf va = none) (h : loopGet (s.arrayAt t).loopBuf (s.fetchTag t) va = some p) :
    s.fetchParcel t va = .ok p s := by
  unfold State.fetchParcel
  rw [hp]
  dsimp only
  rw [h]

/-- What neither the prefetch buffer nor the loop buffer holds comes through the instruction cache. -/
theorem State.fetchParcel_code (hp : pbufGet t.pbuf va = none) (hl : loopGet (s.arrayAt t).loopBuf (s.fetchTag t) va = none) :
    s.fetchParcel t va = s.fetchCode t va := by
  unfold State.fetchParcel
  rw [hp]
  dsimp only
  rw [hl]

theorem State.fetchCode_hit {l : ICLine} (hg : tagGlobal va = true)
    (h : (s.core (s.ckOf t.uid)).ic.find? (fun l => l.asn == s.fetchTag t && l.line == va.toNat / 128) = some l) :
    s.fetchCode t va = .ok (BitVec.ofNat 16 (field l.bytes (va.toNat % 128) 2)) s := by
  unfold State.fetchCode
  simp only [hg, h, Bool.not_true, Bool.false_eq_true, if_false]

/-- A miss reads the parcel at its home, and keeps the line unless a byte of it does not answer. -/
theorem State.fetchCode_miss {d : Nat} (hg : tagGlobal va = true)
    (h : (s.core (s.ckOf t.uid)).ic.find? (fun l => l.asn == s.fetchTag t && l.line == va.toNat / 128) = none)
    (hx : s.threadXlate t t.ftok va 3 = (.ok (.home d), s1)) (he : s1.targetErr d 2 true = none) :
    ∃ s2, s.fetchCode t va =
      .ok (BitVec.ofNat 16 (field (s1.bytesAt (s1.specOf t.uid) (.home (d / 128 * 128)) 128) (va.toNat % 128) 2)) s2 := by
  unfold State.fetchCode
  simp only [hg, h, hx, he, Bool.not_true, Bool.false_eq_true, if_false]
  split <;> exact ⟨_, rfl⟩

/-- An even first parcel is the whole word (R23). -/
theorem State.fetchWord_one (h : s.fetchParcel t va = .ok p s1) (he : p.toNat % 2 = 0) : s.fetchWord t va = .ok [p] s1 := by
  unfold State.fetchWord
  simp only [h, he, if_true]

/-- An odd first parcel takes a second one (R23). -/
theorem State.fetchWord_two {q : Parcel} {s2 : State} (h : s.fetchParcel t va = .ok p s1) (ho : p.toNat % 2 = 1)
    (hq : s1.fetchParcel t (va + 2) = .ok q s2) : s.fetchWord t va = .ok [p, q] s2 := by
  unfold State.fetchWord
  have hn : ¬p.toNat % 2 = 0 := by omega
  simp only [h, hn, hq, if_false]

end

/-! ## Issuing a thread -/

section

variable {s : State} {tk : Nat} {rest : List Nat} {t : Thread}

/-- A step runs the instruction that the first thread that waits is issued with. -/
theorem step_run {i : Instr} {s1 : State} (hq : s.issueQ = tk :: rest) (h : ({ s with issueQ := rest } : State).issue tk = .run i s1) :
    step s = exec i s1 := by
  unfold step
  rw [hq]
  dsimp only
  rw [h]

/-- A step whose first thread has no instruction to run goes on from what its issue left. -/
theorem step_done {s1 : State} (hq : s.issueQ = tk :: rest) (h : ({ s with issueQ := rest } : State).issue tk = .done s1) :
    step s = .next s1 := by
  unfold step
  rw [hq]
  dsimp only
  rw [h]

/-- A step with no thread to issue is a step of the device. -/
theorem step_advance (hq : s.issueQ = []) : step s = s.advance := by
  unfold step
  rw [hq]

/-- The next step of the device is the one that the schedule names, after its time and its changes from outside (log 2). -/
theorem State.advance_sched {e : Turn} {es : List Turn} (hs : s.sched = e :: es) (he : isEvent e.ev = true) :
    s.advance = exec e.ev (({ s with sched := es } : State).meanwhile e.dt e.out e.back) := by
  unfold State.advance
  rw [hs]
  exact if_pos he

/-- A thread that is not live, or is parked, does nothing. -/
theorem State.issue_idle (ht : s.thread? tk = some t) (h : t.live = false ∨ (t.park.isSome = true ∧ t.resume_ = false)) :
    s.issue tk = .done s := by
  have hi : (!t.live || (t.park.isSome && !t.resume_)) = true := by
    rcases h with h | ⟨h, hr⟩
    · rw [h]; rfl
    · rw [h, hr]; exact Bool.or_true _
  unfold State.issue
  simp only [ht, hi, if_true]

theorem not_idle (hl : t.live = true) (hp : t.park = none ∨ t.resume_ = true) : (!t.live || (t.park.isSome && !t.resume_)) = false := by
  rcases hp with hp | hp <;> simp [hl, hp]

/-- A PC comparator that matches traps BRK (R350). -/
theorem State.issue_break {k : Nat} (ht : s.thread? tk = some t) (hl : t.live = true) (hp : t.park = none ∨ t.resume_ = true)
    (hb : s.bpHit t = some k) : s.issue tk = .done (s.deliver tk cBRK 0 t.pc (some k)) := by
  unfold State.issue
  simp only [ht, not_idle hl hp, hb, Bool.false_eq_true, if_false]

/-- A word that is fetched is decoded and run, or traps ILL (R24, R51). -/
theorem State.issue_fetched {ps : List Parcel} {s1 : State} (ht : s.thread? tk = some t) (hl : t.live = true)
    (hp : t.park = none ∨ t.resume_ = true) (hb : s.bpHit t = none) (hw : s.fetchWord t t.pw = .ok ps s1) :
    (∀ i, decodeParcels ps = .ok i → s.issue tk = .run i { s1 with cur := some tk }) ∧
    (∀ e, decodeParcels ps = .error e → s.issue tk = .done (({ s1 with cur := some tk } : State).deliver tk cILL 0 t.pc)) := by
  unfold State.issue
  simp only [ht, not_idle hl hp, hb, hw, Bool.false_eq_true, if_false]
  exact ⟨fun i hi => by rw [hi], fun e he => by rw [he]⟩

end

end Sys2Proof.Machine

open Sys2Proof Sys2Proof.Machine

/-- Settles O3: what a step issues, where the parcels come from, and what it does with no thread to issue. -/
theorem stepRunsDecoded : Obligations.StepRunsDecoded := by
  unfold Obligations.StepRunsDecoded
  refine ⟨fun s tk rest t ps s1 hq ht hl hp hb hw => ?_, fun s tk rest t hq ht h => ?_, fun s tk rest t k hq ht hl hp hb => ?_,
    fun s t va p s1 h => ⟨State.fetchWord_one h, fun q s2 => State.fetchWord_two h⟩,
    fun s t va => ⟨fun p => State.fetchParcel_pbuf, fun p => State.fetchParcel_loop, fun l hp hb hg h => ?_, fun d s1 hp hb hg h hx he => ?_⟩,
    fun s t rest hq hs he => ?_, fun s dt out back => ?_⟩
  · obtain ⟨hrun, htrap⟩ := State.issue_fetched (s := { s with issueQ := rest }) ht hl hp hb hw
    exact ⟨fun i hi => step_run hq (hrun i hi), fun e he => step_done hq (htrap e he)⟩
  · exact step_done hq (State.issue_idle (s := { s with issueQ := rest }) ht h)
  · exact step_done hq (State.issue_break (s := { s with issueQ := rest }) ht hl hp hb)
  · rw [State.fetchParcel_code hp hb, State.fetchCode_hit hg h]
  · rw [State.fetchParcel_code hp hb]
    exact State.fetchCode_miss hg h hx he
  · exact (step_advance hq).trans (State.advance_sched hs he)
  · obtain ⟨hthreads, hissue, htmr⟩ :=
      (({ s with hub := { s.hub with tmr := s.hub.tmr + dt } } : State).writeBacks back).sameThreads_outsideChanges out
    exact ⟨htmr, hthreads, hissue, fun ho => by subst ho; exact ⟨rfl, rfl⟩⟩

end

section
/-! Accesses of threads at memory: an error that is due, loads, stores, acquire loads and release stores (R78, R115, R118, R239, R241, R242). -/

namespace Sys2Proof.Machine

/-- What a load marks as seen are writes of its core that wait: memory, threads, units and the hub stay (R119). -/
theorem State.markSeen_frame (s : State) (ck tk seq : Nat) (l : Loc) (n : Nat) :
    (s.markSeen ck tk seq l n).mem = s.mem ∧ (s.markSeen ck tk seq l n).threads = s.threads ∧
    (s.markSeen ck tk seq l n).units = s.units ∧ (s.markSeen ck tk seq l n).hub = s.hub := by
  unfold State.markSeen
  split <;> exact ⟨rfl, rfl, rfl, rfl⟩

/-- At reset nothing that the invariant speaks of exists. -/
theorem State.reset_keepsInv : State.reset.Inv :=
  ⟨rfl, AMap.All.nil, AMap.All.nil, AMap.All.nil⟩

/-- Every core starts with lane arrays of which none has rotated or seated a gang, and a core has no other (R295, R300). -/
theorem State.reset_arrays (ck a : Nat) : (State.reset.core ck).arrays.getD a {} = {} := by
  show (List.replicate 4 ({} : LaneArray)).getD a {} = {}
  rw [List.getD_eq_getElem?_getD, List.getElem?_replicate]
  split <;> rfl

end Sys2Proof.Machine

open Sys2Proof Sys2Proof.Machine

/-- Settles O21: each such instruction is a run, which looks for a due error before all else but the OPERAND checks. -/
theorem pendingErrorTrap : Obligations.PendingErrorTrap := by
  unfold Obligations.PendingErrorTrap
  intro i s tk t e he hill hparcel himx hc ht hop hdue
  obtain ⟨body, off, hrun, -⟩ := isRun i s he hill hparcel himx
  rw [hrun, run_due hc ht hop hdue]

/-- Settles O22: the seven loads are one effect with a width and a sign. -/
theorem loadsIssue : Obligations.LoadsIssue := by
  unfold Obligations.LoadsIssue
  exact ⟨fun o _ _ _ _ _ _ _ _ _ hr hw ha => load_next (.ld8 o) hr hw ha rfl,
    fun o _ _ _ _ _ _ _ _ _ hr hw ha => load_next (.ld16 o) hr hw ha rfl,
    fun o _ _ _ _ _ _ _ _ _ hr hw ha => load_next (.ld32 o) hr hw ha rfl,
    fun o _ _ _ _ _ _ _ _ _ hr hw ha => load_next (.ld64 o) hr hw ha rfl,
    fun o _ _ _ _ _ _ _ _ _ hr hw ha => load_next (.ld8S o) hr hw ha rfl,
    fun o _ _ _ _ _ _ _ _ _ hr hw ha => load_next (.ld16S o) hr hw ha rfl,
    fun o _ _ _ _ _ _ _ _ _ hr hw ha => load_next (.ld32S o) hr hw ha rfl,
    State.markSeen_frame⟩

/-- Settles O23: the four stores are one effect with a width. -/
theorem storesIssue : Obligations.StoresIssue := by
  unfold Obligations.StoresIssue
  exact ⟨fun o _ _ _ _ _ _ _ _ _ _ _ hr hw ha hf hj => store_next (i := .st8 o) hr hw ha hf hj rfl (leBytes_length _ _),
    fun o _ _ _ _ _ _ _ _ _ _ _ hr hw ha hf hj => store_next (i := .st16 o) hr hw ha hf hj rfl (leBytes_length _ _),
    fun o _ _ _ _ _ _ _ _ _ _ _ hr hw ha hf hj => store_next (i := .st32 o) hr hw ha hf hj rfl (leBytes_length _ _),
    fun o _ _ _ _ _ _ _ _ _ _ _ hr hw ha hf hj => store_next (i := .st64 o) hr hw ha hf hj rfl (leBytes_length _ _)⟩

/-- Settles O24: what the effect of each does once its checks, its promotion and its order are met. -/
theorem acquireAndRelease : Obligations.AcquireAndRelease := by
  unfold Obligations.AcquireAndRelease
  refine ⟨fun o s tk t a s0 s1 l s2 s3 hr hw => ?_, fun o s tk t a c s0 l s1 s2 hr => ?_⟩
  · intro n ha hp ck s4 s5 r done
    have hexec : exec (.ldacq o) s = .next (finish tk (instrInfo (.ldacq o)) ⟨[a], t.before⟩
        (match s5.locErr l n true with
         | some c => .seq (s5.addLoad tk { r with err := some c })
         | none =>
           let bs := s5.seen ck tk s4.seq (s5.specOf t.uid) l n none
           let s6 := s5.acquireAt tk t o.sc s4.seq l n (leVal bs)
           .seq ((s6.l1Update ck l (s6.bytesAt 0 l n)).addLoad tk { r with res := some (extend bs false) }))) := by
      show execLdacq o s = _
      rw [execLdacq, run_ready hr]
      simp only [List.getD_cons_zero]
      rw [afterOut_ready hw, checkedAccess_ready ha]
      · rw [promoted_ready hp]
        rfl
      · rw [promoted_ready hp]
        split <;> trivial
    exact ⟨fun c hc => by rw [hexec, hc]; rfl, fun hc => by rw [hexec, hc]; rfl⟩
  · intro n hs ha hp hf
    show execStrel o s = _
    rw [execStrel, run_ready hr]
    simp only [List.getD_cons_zero, List.getD_cons_succ, hs, Bool.false_eq_true, if_false]
    rw [checkedAccess_ready ha]
    · rw [whenPerformed_ready hp, hf]
      rfl
    · rw [whenPerformed_ready hp, hf]
      trivial

/-- Settles O4: the state after reset is the one with every field at its reset value. -/
theorem resetState : Obligations.ResetState := by
  unfold Obligations.ResetState
  refine ⟨State.reset_keepsInv, rfl, rfl, rfl, rfl, rfl, rfl, fun _ => rfl, rfl, rfl, rfl, rfl, rfl, rfl, rfl, rfl, rfl, rfl, rfl, rfl,
    fun ck a => ?_⟩
  rw [State.reset_arrays]
  exact ⟨rfl, rfl⟩

end

section
/-! Pending writes that perform and loads that reply (R115, R116, R118, R119, R239, R252, R255). -/

namespace Sys2Proof.Machine

/-! ## Which writes perform together -/

/-- A list of pending writes that a test picks from, with every older one that shares a byte with one picked. -/
def ClosedUnder (f : Pend → Bool) (ps : List Pend) : Prop :=
  ∀ a q b, ps = a ++ q :: b → f q = true → ∀ x ∈ a, x.loc.overlap x.bytes.length q.loc q.bytes.length = true → f x = true

theorem ClosedUnder.tail {f : Pend → Bool} {p : Pend} {ps : List Pend} (h : ClosedUnder f (p :: ps)) : ClosedUnder f ps :=
  fun a q b he hq x hx => h (p :: a) q b (by rw [he, List.cons_append]) hq x (List.mem_cons_of_mem _ hx)

/-- Where no older write shares a byte with one that the test picks, the test alone decides. -/
theorem pickWrites_closed {f : Pend → Bool} : ∀ {ps : List Pend}, ClosedUnder f ps →
    pickWrites f ps = (ps.filter f, ps.filter fun q => !f q)
  | [], _ => rfl
  | p :: ps, h => by
    unfold pickWrites
    rw [pickWrites_closed h.tail]
    cases hp : f p with
    | true => simp [hp]
    | false =>
      have hany : ((ps.filter f).any fun q => p.loc.overlap p.bytes.length q.loc q.bytes.length) = false := by
        rw [List.any_eq_false]
        intro q hq ho
        obtain ⟨hq, hfq⟩ := List.mem_filter.1 hq
        obtain ⟨a, b, rfl⟩ := List.append_of_mem hq
        exact absurd (h (p :: a) q b rfl hfq p List.mem_cons_self ho) (by simp [hp])
      simp [hp, hany]

/-- A write that is picked stays so behind one more. -/
theorem mem_pickWrites_cons {f : Pend → Bool} {x p : Pend} {ps : List Pend} (h : x ∈ (pickWrites f ps).1) : x ∈ (pickWrites f (p :: ps)).1 := by
  unfold pickWrites
  dsimp only
  split
  · exact List.mem_cons_of_mem _ h
  · exact h

/-- What the test picks is among the writes picked. -/
theorem mem_pickWrites {f : Pend → Bool} {q : Pend} (hf : f q = true) : ∀ {ps : List Pend}, q ∈ ps → q ∈ (pickWrites f ps).1
  | p :: ps, h => by
    rcases List.mem_cons.1 h with rfl | h
    · unfold pickWrites
      simp [hf]
    · exact mem_pickWrites_cons (mem_pickWrites hf h)

/-- So is an older write that shares a byte with it. -/
theorem mem_pickWrites_older {f : Pend → Bool} {q x : Pend} {b : List Pend} (hf : f q = true)
    (ho : x.loc.overlap x.bytes.length q.loc q.bytes.length = true) : ∀ {a : List Pend}, x ∈ a → x ∈ (pickWrites f (a ++ q :: b)).1
  | p :: a, h => by
    rw [List.cons_append]
    rcases List.mem_cons.1 h with rfl | h
    · have hany : ((pickWrites f (a ++ q :: b)).1.any fun q => x.loc.overlap x.bytes.length q.loc q.bytes.length) = true :=
        List.any_eq_true.2 ⟨q, mem_pickWrites hf (by simp), ho⟩
      unfold pickWrites
      simp [hany]
    · exact mem_pickWrites_cons (mem_pickWrites_older hf ho h)

/-! ## STORE_PERFORM -/

/-- The writes of an entry that has left perform where no older one that has not left with them shares a byte with them (R115, R396). -/
theorem execStorePerform_closed {s : State} {ck idx : Nat} {p : Pend} (hp : (s.core ck).pend[idx]? = some p) (hc : p.inColl = false)
    (h : ClosedUnder p.with_ (s.core ck).pend) :
    let ps := (s.core ck).pend.filter p.with_
    execStorePerform ck idx s = .next (ps.foldl (fun x q => x.tryEnding q.tk)
      (ps.foldl (fun x q => x.perform ck q) (s.setCore ck { s.core ck with pend := (s.core ck).pend.filter fun q => !p.with_ q }))) := by
  have hall : ((s.core ck).pend.filter p.with_).all p.with_ = true := List.all_eq_true.2 fun q hq => (List.mem_filter.1 hq).2
  unfold execStorePerform State.performWhere
  simp only [hp, pickWrites_closed h, hc, hall, Bool.not_true, Bool.or_self, Bool.false_eq_true, if_false]

/-- A write whose entry has not left, or one behind an older one that it would overtake, does not perform (R252). -/
theorem execStorePerform_waits {s : State} {ck idx : Nat}
    (h : ∀ p, (s.core ck).pend[idx]? = some p → p.inColl = true ∨
      ∃ a q b, (s.core ck).pend = a ++ q :: b ∧ p.with_ q = true ∧
        ∃ x ∈ a, x.loc.overlap x.bytes.length q.loc q.bytes.length = true ∧ p.with_ x = false) :
    execStorePerform ck idx s = .next s := by
  unfold execStorePerform
  dsimp only
  cases hp : (s.core ck).pend[idx]? with
  | none => rfl
  | some p =>
    dsimp only
    rw [if_pos]
    rcases h p hp with hc | ⟨a, q, b, he, hq, x, hx, ho, hn⟩
    · rw [hc, Bool.true_or]
    · have hmem : x ∈ (pickWrites p.with_ (s.core ck).pend).1 := he ▸ mem_pickWrites_older hq ho hx
      have hall : (pickWrites p.with_ (s.core ck).pend).1.all p.with_ = false := List.all_eq_false.2 ⟨x, hmem, by simp [hn]⟩
      rw [hall, Bool.not_false, Bool.or_true]

/-! ## A write at home -/

/-- Whether a state is quiet is a matter of its hub, its cores and its units. -/
theorem State.Quiet.congr {s t : State} (h : s.Quiet) (hh : t.hub = s.hub) (hc : t.cores = s.cores) (hu : t.units = s.units) : t.Quiet := by
  unfold State.Quiet State.NoSpec State.Idle
  rw [hh, hc, hu]
  exact h

/-- A write at a home that answers changes its bytes, and no thread and no pending write (R239, R255). -/
theorem State.perform_home {s : State} {ck : Nat} {p : Pend} {d : Nat} (hl : p.loc = .home d) (hspec : p.spec = 0)
    (he : s.targetErr d p.bytes.length false (some p.seq) = none) (hq : s.Quiet) :
    (s.perform ck p).mem = s.mem.setBytes d p.bytes ∧ (s.perform ck p).threads = s.threads ∧
    ((s.perform ck p).core ck).pend = (s.core ck).pend := by
  obtain ⟨hmem, hcores, hhub, hthreads, hunits⟩ := State.writeAt_home p.bytes s d
  have hquiet : (s.writeAt 0 (.home d) p.bytes).Quiet := hq.congr hhub hcores hunits
  have hperform : s.perform ck p =
      ((s.writeAt 0 (.home d) p.bytes).offWrite p.seq p.tk p.tloc d p.bytes).l1Update ck (.home d) p.bytes := by
    unfold State.perform
    rw [hl, hspec]
    dsimp only [State.locErr, State.unfence]
    rw [he, State.noteWrite_quiet hquiet]
    rfl
  obtain ⟨hmem', hcores', hthreads'⟩ := (s.writeAt 0 (.home d) p.bytes).offWrite_keeps p.seq p.tk p.tloc d p.bytes none
  obtain ⟨hmem'', hthreads'', hpend''⟩ :=
    State.l1Update_keeps p.bytes ((s.writeAt 0 (.home d) p.bytes).offWrite p.seq p.tk p.tloc d p.bytes) ck (.home d)
  rw [hperform]
  refine ⟨hmem''.trans (hmem'.trans hmem), hthreads''.trans (hthreads'.trans hthreads), hpend''.trans ?_⟩
  unfold State.core
  rw [hcores', hcores]

/-! ## A write that left alone -/

/-- Where a test picks the element at one index alone, it keeps that element and its negation keeps the others. -/
theorem filter_eq_singleton_of_index {α : Type} {f : α → Bool} {p : α} (hf : f p = true) : ∀ {l : List α} {i : Nat}, l[i]? = some p →
    (∀ j q, j ≠ i → l[j]? = some q → f q = false) → l.filter f = [p] ∧ (l.filter fun q => !f q) = dropAt l i
  | x :: xs, 0, hp, h => by
    cases hp
    have hxs : ∀ q ∈ xs, f q = false := fun q hq => by
      obtain ⟨j, hj⟩ := List.mem_iff_getElem?.1 hq
      exact h (j + 1) q (Nat.succ_ne_zero j) hj
    refine ⟨?_, ?_⟩
    · rw [List.filter_cons_of_pos hf, List.filter_eq_nil_iff.2 fun q hq => by simp [hxs q hq]]
    · rw [List.filter_cons_of_neg (by simp [hf])]
      exact List.filter_eq_self.2 fun q hq => by simp [hxs q hq]
  | x :: xs, i + 1, hp, h => by
    have hx : f x = false := h 0 x (Nat.succ_ne_zero i).symm rfl
    obtain ⟨h1, h2⟩ := filter_eq_singleton_of_index hf (l := xs) (i := i) hp fun j q hj hq => h (j + 1) q (by omega) hq
    refine ⟨?_, ?_⟩
    · rw [List.filter_cons_of_neg (by simp [hx]), h1]
    · rw [List.filter_cons_of_pos (by simp [hx]), h2, dropAt]

theorem Pend.with_self (p : Pend) : p.with_ p = true := by
  unfold Pend.with_
  simp

/-- A write that left alone, with no older write to its bytes, overtakes none. -/
theorem closedUnder_alone {ps : List Pend} {idx : Nat} {p : Pend} (hp : ps[idx]? = some p)
    (h : ∀ j q, j ≠ idx → ps[j]? = some q → p.with_ q = false ∧ (j < idx → ¬ q.loc.overlap q.bytes.length p.loc p.bytes.length = true)) :
    ClosedUnder p.with_ ps := by
  intro a q b he hq x hx ho
  have hget : ps[a.length]? = some q := by rw [he, List.getElem?_append_right (le_refl _), Nat.sub_self]; rfl
  by_cases hidx : a.length = idx
  · obtain ⟨j, hj⟩ := List.mem_iff_getElem?.1 hx
    have hlt : j < a.length := (List.getElem?_eq_some_iff.1 hj).1
    have hxj : ps[j]? = some x := by rw [he, List.getElem?_append_left hlt, hj]
    have hpq : p = q := by rw [hidx, hp] at hget; exact Option.some.inj hget
    exact absurd (hpq ▸ ho) ((h j x (by omega) hxj).2 (by omega))
  · exact absurd hq (by simp [(h a.length q hidx hget).1])

/-- A change of a core's pending writes keeps a state quiet. -/
theorem State.Quiet.setCore_pend {s : State} (h : s.Quiet) (ck : Nat) (ps : List Pend) :
    (s.setCore ck { s.core ck with pend := ps }).Quiet := by
  obtain ⟨hspec, hcores, hunits⟩ := h
  have hall : AMap.All (fun c => c.chans.flatten = [] ∧ c.doneOps = [] ∧ c.jobs = [] ∧ c.doneJobs = []) s.cores := hcores
  refine ⟨hspec, ?_, hunits⟩
  refine AMap.All.set ck hall (?_ : (s.core ck).chans.flatten = [] ∧ (s.core ck).doneOps = [] ∧ (s.core ck).jobs = [] ∧ (s.core ck).doneJobs = [])
  unfold State.core AMap.get
  cases hc : AMap.get? s.cores ck with
  | none => exact ⟨rfl, rfl, rfl, rfl⟩
  | some c => exact hall.get? hc

/-- What a target answers is no matter of the cores (R77). -/
theorem State.targetErr_setCore (s : State) (ck : Nat) (c : Core) (d n : Nat) (rd : Bool) (q : Option Nat) :
    (s.setCore ck c).targetErr d n rd q = s.targetErr d n rd q := rfl

theorem State.tryEnding_not {s : State} {tk : Nat} (h : ∀ t, s.thread? tk = some t → t.ending = false) : s.tryEnding tk = s := by
  unfold State.tryEnding
  cases ht : s.thread? tk with
  | none => rfl
  | some t => simp only [h t ht, Bool.false_and, Bool.false_eq_true, if_false]

/-! ## LOAD_REPLY -/

section
variable {s : State} {tk idx : Nat} {t : Thread} {r : LoadRec}

/-- A load that has answered, of a thread whose unit is resident, replies. -/
theorem execLoadReply_answered (ht : s.thread? tk = some t) (hr : (t.loads.find? fun r => r.idx == idx) = some r) (ha : s.away t = false)
    (hres : r.res.isSome = true ∨ r.err.isSome = true) :
    let s1 := match r.err with | some c => s.logThread t r.va c 0 | none => s
    let s2 := s1.modThread tk fun u => if r.block then (u.loadDone r).dropPrefetched else u.loadDone r
    let s3 := if r.acq && r.err.isNone then s2.refresh (s2.ckOf t.uid) else s2
    execLoadReply tk idx s = .next (s3.tryEnding tk) := by
  have hanswered : (r.res.isNone && r.err.isNone) = false := by
    rcases hres with h | h <;> cases hn : r.res <;> cases hm : r.err <;> simp_all
  unfold execLoadReply
  rw [ht]
  dsimp only
  rw [hr]
  dsimp only
  rw [if_neg (by rw [ha, hanswered]; decide)] <;> rfl

/-- Nothing else does. -/
theorem execLoadReply_waits (ht : s.thread? tk = some t)
    (h : ∀ r, (t.loads.find? fun r => r.idx == idx) = some r → s.away t = true ∨ (r.res = none ∧ r.err = none)) :
    execLoadReply tk idx s = .next s := by
  unfold execLoadReply
  simp only [ht]
  cases hr : t.loads.find? fun r => r.idx == idx with
  | none => rfl
  | some r =>
    dsimp only
    rw [if_pos]
    rcases h r hr with ha | ⟨h1, h2⟩
    · rw [ha, Bool.true_or]
    · rw [h1, h2]; exact Bool.or_true _

end

/-- A load that is done does not end its thread. -/
theorem Thread.loadDone_ending (t : Thread) (r : LoadRec) : (t.loadDone r).ending = t.ending := by
  unfold Thread.loadDone
  dsimp only
  split
  · rfl
  · split <;> rfl

/-- The reply of a load that is no acquire to a thread that does not end (R118, R119). -/
theorem execLoadReply_plain {s s1 : State} {tk idx : Nat} {t : Thread} {r : LoadRec} (ht : s.thread? tk = some t) (hend : t.ending = false)
    (ha : s.away t = false) (hr : (t.loads.find? fun r => r.idx == idx) = some r) (hacq : r.acq = false)
    (hres : r.res.isSome = true ∨ r.err.isSome = true) (hlog : (match r.err with | some c => s.logThread t r.va c 0 | none => s) = s1)
    (ht1 : s1.thread? tk = some t) :
    execLoadReply tk idx s = .next (s1.setThread tk (if r.block then (t.loadDone r).dropPrefetched else t.loadDone r)) := by
  subst hlog
  have hkeeps : (if r.block then (t.loadDone r).dropPrefetched else t.loadDone r).ending = false := by
    split
    · exact (t.loadDone_ending r).trans hend
    · exact (t.loadDone_ending r).trans hend
  rw [execLoadReply_answered ht hr ha hres, hacq, Bool.false_and, if_neg (by decide), State.modThread_eq _ ht1, State.tryEnding_not]
  intro u hu
  rw [State.thread?_setThread] at hu
  cases hu
  exact hkeeps

/-- The log of an error changes no thread and no memory (R79). -/
theorem State.logThread_frame (s : State) (t : Thread) (va : Word) (c kind : Nat) :
    (s.logThread t va c kind).mem = s.mem ∧ (s.logThread t va c kind).threads = s.threads := by
  unfold State.logThread State.logCore
  dsimp only
  split <;> exact ⟨rfl, rfl⟩

end Sys2Proof.Machine

open Sys2Proof Sys2Proof.Machine

/-- Settles O29: a test that is closed under older writes to its bytes decides alone what performs, and a write at a quiet home changes its
bytes; a load that has answered leaves its record for its register or its delivery point. -/
theorem writesPerformAndLoadsReply : Obligations.WritesPerformAndLoadsReply := by
  unfold Obligations.WritesPerformAndLoadsReply
  intro shares
  refine ⟨fun s ck idx p hp hc h => execStorePerform_closed hp hc h, fun s ck idx h => execStorePerform_waits h,
    fun s ck p d hwf hl hspec he hn hi a => ?_, fun s ck idx p d hwf hp hl hc hspec halone he hn hend hi => ?_,
    fun s tk t idx r ht hr ha hres => execLoadReply_answered ht hr ha hres, fun s tk t r ht hend ha hloads hacq => ⟨?_, ?_⟩,
    fun s tk t idx ht h => execLoadReply_waits ht h⟩
  · rw [(State.perform_home hl hspec he ⟨hn, hi⟩).1, Store.byte_setBytes hwf]
  · have hclosed : ClosedUnder p.with_ (s.core ck).pend := closedUnder_alone hp halone
    obtain ⟨hpicked, hleft⟩ := filter_eq_singleton_of_index p.with_self hp fun j q hj hq => (halone j q hj hq).1
    have hquiet := State.Quiet.setCore_pend ⟨hn, hi⟩ ck (dropAt (s.core ck).pend idx)
    obtain ⟨hmem, hthreads, hpend⟩ := State.perform_home (ck := ck) hl hspec ((State.targetErr_setCore ..).trans he) hquiet
    rw [State.core_setCore] at hpend
    refine ⟨_, (execStorePerform_closed hp hc hclosed), ?_⟩
    rw [hpicked, hleft]
    simp only [List.foldl_cons, List.foldl_nil]
    rw [State.tryEnding_not fun t ht => hend t (by rw [← ht, State.thread?, State.thread?, hthreads]; rfl)]
    exact ⟨hpend, fun a => by rw [hmem, State.setCore_mem, Store.byte_setBytes hwf]⟩
  · intro v herr hres u w x
    have hfind : (t.loads.find? fun x => x.idx == r.idx) = some r := by rw [hloads]; simp
    have hleft : (t.loads.filter fun y => y.idx != r.idx) = [] := by rw [hloads]; simp
    have hdone : t.loadDone r = x := by
      unfold Thread.loadDone
      rw [hleft, herr, hres]
      rfl
    show execLoadReply tk r.idx s = _
    rw [execLoadReply_plain ht hend ha hfind hacq (Or.inl (by rw [hres]; rfl)) (by rw [herr]) ht, hdone]
  · intro c herr hblock
    have hfind : (t.loads.find? fun x => x.idx == r.idx) = some r := by rw [hloads]; simp
    have hleft : (t.loads.filter fun y => y.idx != r.idx) = [] := by rw [hloads]; simp
    obtain ⟨hmem, hthreads⟩ := s.logThread_frame t r.va c 0
    have ht1 : (s.logThread t r.va c 0).thread? tk = some t := by rw [State.thread?, hthreads]; exact ht
    refine ⟨_, execLoadReply_plain ht hend ha hfind hacq (Or.inr (by rw [herr]; rfl)) (by rw [herr]) ht1, hmem, ?_⟩
    rw [State.thread?_setThread, hblock, if_neg (by decide)]
    unfold Thread.loadDone
    rw [hleft, herr]

end

section
/-! Collector entries that leave, the errors that targets answer, and the work of the stream ports (R77, R78, R115, R126, R128, R385). -/

namespace Sys2Proof.Machine

/-! ## COLLECTOR_SEND -/

/-- A read that marks writes as seen changes no memory and no collector entry. -/
theorem State.markSeen_coll (s : State) (ck tk seq : Nat) (l : Loc) (n : Nat) :
    ((s.markSeen ck tk seq l n).core ck).coll = (s.core ck).coll ∧ (s.markSeen ck tk seq l n).mem = s.mem := by
  unfold State.markSeen
  split
  · rw [State.core_modCore]
    exact ⟨rfl, rfl⟩
  · exact ⟨rfl, rfl⟩

/-- The entry that is sent is gone; memory stays (R115). -/
theorem State.sendEntry_coll (s : State) (ck : Nat) (line : Loc) :
    ((s.sendEntry ck line).core ck).coll = (s.core ck).coll.filter (fun x => x.line != line) ∧ (s.sendEntry ck line).mem = s.mem := by
  unfold State.sendEntry
  dsimp only
  refine foldl_keep (fun x : State => (x.core ck).coll = _ ∧ x.mem = s.mem) _ _ _ ⟨?_, rfl⟩ fun x hx p _ =>
    foldl_keep (fun x : State => (x.core ck).coll = _ ∧ x.mem = s.mem) _ _ _ hx fun y hy r _ => ?_
  · show ((State.setCore _ ck _).core ck).coll = _
    rw [State.core_setCore]
    rfl
  · obtain ⟨hc, hm⟩ := y.markSeen_coll ck p.1 r.1 r.2.1 r.2.2
    exact ⟨hc.trans hy.1, hm.trans hy.2⟩

/-! ## ERROR_RESPONSE -/

section
variable {s : State} {cause : Nat} (hc : targetCause cause = true)
include hc

/-- A response with a cause of a target is not ignored (R77). -/
theorem not_targetCause_false : ¬ (!targetCause cause) = true := by rw [hc]; decide

/-- The one outstanding load of a thread, on the collector path, has the error for its result (R78). -/
theorem execErrorResponse_load {tk : Nat} {t : Thread} {r : LoadRec} (ht : s.thread? tk = some t) (hl : t.loads = [r]) (hres : r.res = none)
    (herr : r.err = none) (hcoll : r.loc.collected = true) :
    execErrorResponse (.load tk r.idx) cause s = .next (s.setThread tk { t with loads := [{ r with err := some cause }] }) := by
  have hloads : t.loads.map (fun x => if x.idx = r.idx then
      (if x.res.isNone && x.err.isNone && x.loc.collected then { x with err := some cause } else x) else x) = [{ r with err := some cause }] := by
    rw [hl]
    simp [hres, herr, hcoll]
  unfold execErrorResponse State.modLoad
  rw [if_neg (not_targetCause_false hc)]
  dsimp only
  rw [State.modThread_eq _ ht, hloads]

/-- A write that has left on the collector path does not perform (R78). -/
theorem execErrorResponse_store {ck idx : Nat} {p : Pend} (hp : (s.core ck).pend[idx]? = some p) (hin : p.inColl = false)
    (hcoll : p.loc.collected = true) :
    execErrorResponse (.store ck idx) cause s = .next
      (((s.modCore ck fun c => { c with pend := dropAt c.pend idx }).storeError p.tk ck p.va p.tloc cause).tryEnding p.tk) := by
  unfold execErrorResponse
  rw [if_neg (not_targetCause_false hc)]
  dsimp only
  rw [hp]
  dsimp only
  rw [if_neg (by simp [hin, hcoll])]

/-- A request of a peer module is logged (R385). -/
theorem execErrorResponse_peer (m d : Nat) : execErrorResponse (.peer m d) cause s = .next (s.logMgmt d cause 5 (m % 8192)) := by
  unfold execErrorResponse
  rw [if_neg (not_targetCause_false hc)]

/-- A request of the host is logged (R385). -/
theorem execErrorResponse_host (d : Nat) : execErrorResponse (.host d) cause s = .next (s.logMgmt d cause 6 0) := by
  unfold execErrorResponse
  rw [if_neg (not_targetCause_false hc)]

/-- A soft error of a byte of the base dies makes its reads answer so (R77). -/
theorem execErrorResponse_soft {d : Nat} (hm : cause = cMEMERR) (hd : (homeDie d).isSome = true) :
    execErrorResponse (.soft d) cause s = .next (s.addBad (.home d) cause false) := by
  unfold execErrorResponse
  rw [if_neg (not_targetCause_false hc)]
  dsimp only
  rw [if_pos (by simp [hm, hd])]

/-- A bank that fails makes every access to its bytes answer so (R101). -/
theorem execErrorResponse_bank (u o : Nat) (hm : cause = cMEMERR) :
    execErrorResponse (.bank u o) cause s = .next (s.addBad (.scratch u o) cause true) := by
  unfold execErrorResponse
  rw [if_neg (not_targetCause_false hc)]
  dsimp only
  rw [if_pos hm]

/-- So does an address off the package that no target holds (R77). -/
theorem execErrorResponse_noTarget {d : Nat} (hm : cause = cADDR) (hd : offPackage d = true) :
    execErrorResponse (.noTarget d) cause s = .next (s.addBad (.home d) cause true) := by
  unfold execErrorResponse
  rw [if_neg (not_targetCause_false hc)]
  dsimp only
  rw [if_pos (by simp [hm, hd])]

end

/-! ## Bytes that answer with an error -/

theorem Loc.overlap_self (l : Loc) : l.overlap 1 l 1 = true := by
  cases l <;> simp [Loc.overlap]

/-- The byte that an error was added for answers with it. -/
theorem State.badAt_addBad_self (s : State) (l : Loc) (cause : Nat) {wr rd : Bool} (h : (rd || wr) = true) :
    (s.addBad l cause wr).badAt l 1 rd = some cause := by
  unfold State.badAt State.addBad
  dsimp only
  rw [List.find?_cons_of_pos (by simp [h, l.overlap_self])]
  rfl

/-- Bytes that share none with the place answer as before. -/
theorem State.badAt_addBad_other (s : State) {l x : Loc} (cause n : Nat) (wr rd : Bool) (h : x.overlap n l 1 = false) :
    (s.addBad l cause wr).badAt x n rd = s.badAt x n rd := by
  unfold State.badAt State.addBad
  dsimp only
  rw [List.find?_cons_of_neg (by simp [h]), List.find?_filter]
  congr 2
  funext b
  by_cases hb : b.loc = l
  · simp [hb, h]
  · simp [hb]

/-- Bytes of main memory that share a byte are one byte. -/
theorem Loc.eq_of_overlap_home {d : Nat} {x : Loc} (h : (Loc.home d).overlap 1 x 1 = true) : x = .home d := by
  cases x with
  | home e =>
    simp only [Loc.overlap, Bool.and_eq_true, decide_eq_true_eq] at h
    rw [show e = d by omega]
  | _ => cases h

/-- A soft error of a byte at home answers no write (R77). -/
theorem State.badAt_addBad_write (s : State) (d cause : Nat) : (s.addBad (.home d) cause false).badAt (.home d) 1 false = none := by
  unfold State.badAt State.addBad
  rw [Option.map_eq_none_iff, List.find?_eq_none]
  intro b hb hbad
  obtain ⟨hwr, ho⟩ : b.wr = true ∧ (Loc.home d).overlap 1 b.loc 1 = true := by simpa using hbad
  rcases List.mem_cons.1 hb with rfl | hb
  · cases hwr
  · exact absurd (Loc.eq_of_overlap_home ho) (by simpa using (List.mem_filter.1 hb).2)

/-! ## The stream ports -/

/-- An in-port with room, no failed element and elements to come fetches the next (R126). -/
theorem State.fetchNext_appends {s s' : State} {tk k : Nat} {t : Thread} {b : PortBind} {e : InElem} (ht : s.thread? tk = some t)
    (hb : (t.ports.getD k {}).bind = some b) (hin : b.isOut = false) (hroom : (t.ports.getD k {}).fin.length < 8)
    (hok : ∀ x ∈ (t.ports.getD k {}).fin, x.err = none) (hmore : b.pos + (t.ports.getD k {}).fin.length < b.count)
    (hf : s.fetchElem tk k (b.pos + (t.ports.getD k {}).fin.length) = (some e, s')) :
    s.fetchNext tk k = s'.modThread tk fun u =>
      { u with ports := setAt u.ports k { u.ports.getD k {} with tokIn := none, fin := (u.ports.getD k {}).fin ++ [e] } } := by
  have hfailed : (match (t.ports.getD k {}).fin.getLast? with | some e => e.err.isSome | none => false) = false := by
    cases hl : (t.ports.getD k {}).fin.getLast? with
    | none => rfl
    | some x => simp [hok x (List.mem_of_getLast? hl)]
  unfold State.fetchNext
  rw [ht]
  dsimp only
  rw [hb]
  dsimp only
  rw [if_neg, hf]
  simp only [Bool.or_eq_true, decide_eq_true_eq, hin, Bool.false_eq_true]
  rintro (((h | h) | h) | h)
  · exact h
  · omega
  · exact absurd (hfailed.symm.trans h) (by decide)
  · omega

end Sys2Proof.Machine

open Sys2Proof Sys2Proof.Machine

/-- Settles O51: an entry that is sent leaves the list, an error response acts on what it names, and a port fetches or drains one element. -/
theorem memoryEvents : Obligations.MemoryEvents := by
  unfold Obligations.MemoryEvents
  refine ⟨fun s ck idx e he => ⟨?_, s.sendEntry_coll ck e.line⟩,
    fun s cause hc => ⟨fun _ _ _ ht hl hres herr hcoll => execErrorResponse_load hc ht hl hres herr hcoll,
      fun _ _ _ hp hin hcoll => execErrorResponse_store hc hp hin hcoll,
      fun m d => ⟨execErrorResponse_peer hc m d, execErrorResponse_host hc d⟩,
      fun d hm hd => ⟨_, execErrorResponse_soft hc hm hd, rfl, s.badAt_addBad_self _ cause rfl,
        s.badAt_addBad_write d cause, fun x n rd h => s.badAt_addBad_other cause n false rd h⟩,
      fun u o hm => execErrorResponse_bank hc u o hm, fun d hm hd => execErrorResponse_noTarget hc hm hd, fun l wr => ⟨?_, ?_⟩⟩,
    fun s tk t k b e s' ht hb ha hlive hin hroom hok hmore hf => ?_, fun s tk t k s' ht ha ho hd hend => ?_⟩
  · show execCollectorSend ck idx s = _
    unfold execCollectorSend
    rw [he]
  · rw [if_pos l.overlap_self]
    exact s.badAt_addBad_self l cause rfl
  · rw [s.badAt_addBad_self l cause rfl, s.badAt_addBad_self l cause rfl]
  · show execStreamPrefetch tk k s = _
    unfold execStreamPrefetch
    rw [ht]
    dsimp only
    rw [if_neg (by simp [ha, hlive]), State.fetchNext_appends ht hb hin hroom hok hmore hf]
  · show execStreamOutDrain tk k s = _
    unfold execStreamOutDrain
    rw [ht]
    dsimp only
    rw [if_neg (by simp [ha, ho]), hd, State.tryEnding_not hend]

end

section
/-! The translation block: fault replies, the fault queue's registers, invalidation and the size of the far-cache slices (R62, R65, R71 to
R75). -/

namespace Sys2Proof.Machine

/-! ## The fault queue -/

section
variable {s : State} {k : Nat}

/-- The live fault entry of a token. -/
def State.liveFault (s : State) (k : Nat) : Option FaultEnt := s.hub.faults.find? fun f => f.token == k && f.live

/-- A token that no live entry has ends nothing. -/
theorem State.endFault_none (h : s.liveFault k = none) (b : Bool) : s.endFault k b = s := by
  unfold State.endFault
  unfold State.liveFault at h
  rw [h]

/-- An entry whose age exceeds a nonzero limit ends as if refused (R75). -/
theorem execFqLimitExpiry_old {f : FaultEnt} (h : s.liveFault k = some f) (hl : s.hub.fqLimit ≠ 0)
    (ho : s.hub.fqLimit.toNat * 1000 < s.hub.tmr - f.born) : execFqLimitExpiry k s = .next (s.endFault k true) := by
  unfold execFqLimitExpiry
  unfold State.liveFault at h
  rw [h]
  dsimp only
  rw [if_pos (by simp only [Bool.and_eq_true, decide_eq_true_eq]; exact ⟨hl, ho⟩)]

/-- One that does not stays. -/
theorem execFqLimitExpiry_young {f : FaultEnt} (h : s.liveFault k = some f)
    (hy : s.hub.fqLimit = 0 ∨ s.hub.tmr - f.born ≤ s.hub.fqLimit.toNat * 1000) : execFqLimitExpiry k s = .next s := by
  unfold execFqLimitExpiry
  unfold State.liveFault at h
  rw [h]
  dsimp only
  rw [if_neg]
  rcases hy with hy | hy
  · simp [hy]
  · simp only [Bool.and_eq_true, decide_eq_true_eq, not_and]
    omega

theorem execFqLimitExpiry_none (h : s.liveFault k = none) : execFqLimitExpiry k s = .next s := by
  unfold execFqLimitExpiry
  unfold State.liveFault at h
  rw [h]

end

/-- What a reply does while the hub takes host transactions, and that it is lost otherwise (R75). -/
theorem execFqReply_eq (s : State) (k : Nat) :
    execFqReplyResolve k s = .next (if s.hostTakes then s.endFault k false else s) ∧
    execFqReplyRefuse k s = .next (if s.hostTakes then s.endFault k true else s) := ⟨rfl, rfl⟩

/-- With every entry written no record is appended (R72). -/
theorem State.flushFaults_written {s : State} (h : ∀ f ∈ s.hub.faults, f.written = true) : s.flushFaults = s := by
  have key : ∀ n, s.appendFaults n = s := by
    intro n
    induction n with
    | zero => rfl
    | succ n ih => rw [State.appendFaults, State.appendFault_none s h, ih]
  exact key _

/-- A number is one of a run of powers of two. -/
theorem any_eq_pow_iff (z lo n : Nat) : ((upFrom lo n).any fun k => z == 2 ^ k) = true ↔ ∃ k, lo ≤ k ∧ k < lo + n ∧ z = 2 ^ k := by
  simp only [upFrom_eq, List.any_eq_true, List.mem_range'_1, beq_iff_eq, and_assoc]

/-- The valid lengths of the queue are the powers of two from 64 to 65,536 (R71). -/
theorem fqSizeOk_iff (n : Nat) : fqSizeOk n = true ↔ ∃ k, 6 ≤ k ∧ k ≤ 16 ∧ n = 2 ^ k := by
  simp only [fqSizeOk, any_eq_pow_iff, Nat.lt_succ_iff]

section
variable {s : State} {v : Word}

/-- A tail within the queue is taken, another is not (R72). -/
theorem execFqTailWrite_eq (h : s.hostTakes = true) : execFqTailWrite v s =
    .next (if v.toNat < s.hub.fqSize.toNat then (s.modHub fun h => { h with fqTail := v.toNat }).flushFaults else s) := by
  unfold execFqTailWrite
  simp only [h, Bool.true_and, decide_eq_true_eq]
  split <;> rfl

/-- A base that is aligned is taken while the queue is empty (R72). -/
theorem execFqBaseWrite_eq (h : s.hostTakes = true) : execFqBaseWrite v s =
    .next (if v.toNat % 4096 = 0 ∧ s.hub.fqHead = s.hub.fqTail then
      (s.modHub fun h => { h with fqBase := v, fqHead := 0, fqTail := 0 }).flushFaults else s) := by
  unfold execFqBaseWrite
  simp only [h, Bool.true_and, Bool.and_eq_true, decide_eq_true_eq]
  split <;> rfl

/-- A valid length is taken while the queue is empty (R72). -/
theorem execFqSizeWrite_eq (h : s.hostTakes = true) : execFqSizeWrite v s =
    .next (if fqSizeOk v.toNat = true ∧ s.hub.fqHead = s.hub.fqTail then
      (s.modHub fun h => { h with fqSize := v, fqHead := 0, fqTail := 0 }).flushFaults else s) := by
  unfold execFqSizeWrite
  simp only [h, Bool.true_and, Bool.and_eq_true, decide_eq_true_eq]
  split <;> rfl

end

/-! ## Invalidation -/

/-- An invalidation starts while the hub takes host transactions and none runs (R73). -/
theorem execXinvStart_starts {s : State} {v : Word} (ht : s.hostTakes = true) (hv : v.getLsbD 0 = true) (hd : s.hub.xinvDone = true) :
    execXinvStart v s = .next (s.modHub fun h =>
      { h with xinvDone := false, xinvRun := (h.xinvAsn, h.xinvVa, h.xinvLen), xinvBases := (s.tlb.filter fun e =>
        (s.modHub fun h => { h with xinvDone := false, xinvRun := (h.xinvAsn, h.xinvVa, h.xinvLen) }).inXinv e.asn e.page).map (·.base) }) := by
  unfold execXinvStart
  rw [if_pos (by rw [ht, hv, hd]; rfl)]
  rfl

theorem execXinvStart_ignored {s : State} {v : Word} (h : s.hostTakes = false ∨ v.getLsbD 0 = false ∨ s.hub.xinvDone = false) :
    execXinvStart v s = .next s := by
  unfold execXinvStart
  rw [if_neg (by rcases h with h | h | h <;> simp only [h, Bool.and_false, Bool.false_and, Bool.false_eq_true, not_false_eq_true])]

/-- A thread that forgets the places of the range changes no other thread, and nothing but threads and what is to be issued. -/
theorem State.xinvThread_facts (s : State) (tk : Nat) (t : Thread) :
    (s.xinvThread tk t).hub = s.hub ∧ (s.xinvThread tk t).mem = s.mem ∧ (s.xinvThread tk t).tlb = s.tlb ∧
    (∀ j, j ≠ tk → (s.xinvThread tk t).thread? j = s.thread? j) ∧
    ∀ u, (s.xinvThread tk t).thread? tk = some u → u.places = t.places.filter fun p => !s.xinvLoc p.2 := by
  have hset : ∀ u, (s.setThread tk { t with places := t.places.filter fun p => !s.xinvLoc p.2 }).thread? tk = some u →
      u.places = t.places.filter fun p => !s.xinvLoc p.2 := by
    intro u hu
    rw [State.thread?_setThread] at hu
    cases hu
    rfl
  unfold State.xinvThread
  dsimp only
  split
  · split
    · unfold State.reissue
      rw [State.modThread_eq _ (State.thread?_setThread ..), State.setThread_setThread]
      refine ⟨rfl, rfl, rfl, fun j hj => State.thread?_setThread_ne s _ hj, fun u hu => ?_⟩
      have hu := (State.thread?_setThread ..).symm.trans hu
      cases hu
      rfl
    · exact ⟨rfl, rfl, rfl, fun j hj => State.thread?_setThread_ne s _ hj, hset⟩
  · exact ⟨rfl, rfl, rfl, fun j hj => State.thread?_setThread_ne s _ hj, hset⟩

/-- After a list of threads has forgotten the places of the range, a thread holds none of them, or it is not in the list. -/
theorem State.foldl_xinvThread_facts : ∀ (ps : List (Nat × Thread)) (s : State),
    let t := ps.foldl (fun s p => s.xinvThread p.1 p.2) s
    t.hub = s.hub ∧ t.mem = s.mem ∧ t.tlb = s.tlb ∧
    ∀ tk u, t.thread? tk = some u → (∀ p ∈ u.places, s.xinvLoc p.2 = false) ∨ ((∀ p ∈ ps, p.1 ≠ tk) ∧ s.thread? tk = some u)
  | [], s => ⟨rfl, rfl, rfl, fun tk u hu => Or.inr ⟨fun _ hp => absurd hp List.not_mem_nil, hu⟩⟩
  | p :: ps, s => by
    obtain ⟨hhub, hmem, htlb, hother, hself⟩ := s.xinvThread_facts p.1 p.2
    obtain ⟨ihhub, ihmem, ihtlb, ih⟩ := State.foldl_xinvThread_facts ps (s.xinvThread p.1 p.2)
    have hloc : ∀ l, (s.xinvThread p.1 p.2).xinvLoc l = s.xinvLoc l := fun l => by
      cases l <;> simp only [State.xinvLoc, State.xinvHome, hhub]
    refine ⟨ihhub.trans hhub, ihmem.trans hmem, ihtlb.trans htlb, fun tk u hu => ?_⟩
    rcases ih tk u hu with h | ⟨hnot, h⟩
    · exact Or.inl fun q hq => (hloc q.2).symm.trans (h q hq)
    · by_cases htk : tk = p.1
      · subst htk
        refine Or.inl fun q hq => ?_
        rw [hself u h] at hq
        simpa using (List.mem_filter.1 hq).2
      · refine Or.inr ⟨fun q hq => ?_, (hother tk htk) ▸ h⟩
        rcases List.mem_cons.1 hq with rfl | hq
        · exact fun e => htk e.symm
        · exact hnot q hq

/-- A key that a map has is that of one of its entries. -/
theorem AMap.mem_of_get? {β : Type} {k : Nat} {v : β} : ∀ {m : AMap β}, AMap.get? m k = some v → (k, v) ∈ m
  | (j, w) :: rest, h => by
    unfold AMap.get? at h
    split at h
    · rename_i hj
      cases h
      rw [hj]
      exact List.mem_cons_self
    · exact List.mem_cons_of_mem _ (AMap.mem_of_get? h)

/-- With no access outstanding that used a translation of the range, the invalidation is done (R73). -/
theorem execXinvDone_closed {s : State} (hd : s.hub.xinvDone = false) (ho : s.xinvOpen = false) :
    ∃ t, execXinvDone s = .next t ∧ t.hub.xinvDone = true ∧ (∀ e, e ∈ t.tlb ↔ e ∈ s.tlb ∧ s.inXinv e.asn e.page = false) ∧ t.mem = s.mem ∧
      ∀ tk u, AMap.get? t.threads tk = some u → ∀ p ∈ u.places, s.xinvLoc p.2 = false := by
  obtain ⟨hhub, hmem, htlb, hplaces⟩ := State.foldl_xinvThread_facts s.threads s
  unfold execXinvDone
  rw [if_neg (by simp [hd, ho])]
  refine ⟨_, rfl, rfl, fun e => ?_, hmem, fun tk u hu => ?_⟩
  · show e ∈ List.filter _ _ ↔ _
    rw [List.mem_filter, htlb]
    simp only [State.inXinv, hhub, Bool.not_eq_true']
  · rcases hplaces tk u hu with h | ⟨hnot, h⟩
    · exact h
    · exact absurd rfl (hnot (tk, u) (AMap.mem_of_get? h))

/-- An access that used a translation of the range and is outstanding holds the invalidation up (R73). -/
theorem execXinvDone_open {s : State} (ho : s.xinvOpen = true) : execXinvDone s = .next s := by
  unfold execXinvDone
  rw [if_pos (by rw [ho, Bool.or_true])]

section
variable {s : State}

/-- Each kind of access that may be outstanding (R73). -/
theorem State.xinvOpen_eq_false
    (hpend : ∀ c ∈ s.cores, ∀ p ∈ c.2.pend, tagGlobal p.va = true → s.xinvHit (p.tk / 1024) p.va = false)
    (hload : ∀ p ∈ s.threads, ∀ r ∈ p.2.loads, r.res = none → r.err = none → tagGlobal r.va = true → s.xinvHit p.2.uid r.va = false)
    (hpin : ∀ c ∈ s.cores, ∀ o ∈ c.2.chans.flatten, ∀ p ∈ o.pins, s.inXinv (s.spaceOf o.uid).1 p.1 = false)
    (hport : ∀ p ∈ s.threads, ∀ q ∈ p.2.ports, ∀ e ∈ q.fin, e.wait = true → ∀ l, e.loc = some l → s.xinvLoc l = false)
    (hoff : ∀ w ∈ s.offw, s.xinvHome w.dpa = false)
    (hspec : ∀ l ∈ s.hub.launches, ∀ b, l.2.spec = some b → s.xinvHome b.head = false ∧ ∀ e ∈ b.lines, s.xinvHome (128 * e.1) = false) :
    s.xinvOpen = false := by
  unfold State.xinvOpen
  simp only [Bool.or_eq_false_iff]
  refine ⟨⟨⟨⟨?_, ?_⟩, ?_⟩, ?_⟩, ?_⟩
  · simp only [List.any_eq_false, Bool.not_eq_true, Bool.and_eq_false_imp]
    exact hpend
  · rw [List.any_eq_false]
    intro p hp
    rw [Bool.not_eq_true, Bool.or_eq_false_iff]
    constructor
    · rw [List.any_eq_false]
      intro r hr h
      simp only [Bool.and_eq_true, Option.isNone_iff_eq_none] at h
      obtain ⟨⟨⟨hres, herr⟩, hglobal⟩, hhit⟩ := h
      exact absurd hhit (by rw [hload p hp r hr hres herr hglobal]; decide)
    · simp only [List.any_eq_false, Bool.not_eq_true, Bool.and_eq_false_imp]
      intro q hq e he hwait
      cases hl : e.loc with
      | none => rfl
      | some l => exact hport p hp q hq e he hwait l hl
  · simp only [List.any_eq_false, Bool.not_eq_true]
    exact hpin
  · simp only [List.any_eq_false, Bool.not_eq_true]
    exact hoff
  · rw [List.any_eq_false]
    intro l hl
    cases hb : l.2.spec with
    | none => simp
    | some b =>
      obtain ⟨hhead, hlines⟩ := hspec l hl b hb
      simp only [Option.any_some, hhead, Bool.false_or, List.any_eq_true, not_exists, not_and]
      intro e he
      rw [hlines e he]
      decide

theorem State.xinvOpen_of_pend {c : Nat × Core} {p : Pend} (hc : c ∈ s.cores) (hp : p ∈ c.2.pend) (hg : tagGlobal p.va = true)
    (hh : s.xinvHit (p.tk / 1024) p.va = true) : s.xinvOpen = true := by
  have hany : (s.cores.any fun c => c.2.pend.any fun p => tagGlobal p.va && s.xinvHit (p.tk / 1024) p.va) = true :=
    List.any_eq_true.2 ⟨c, hc, List.any_eq_true.2 ⟨p, hp, by rw [hg, hh]; rfl⟩⟩
  unfold State.xinvOpen
  simp only [hany, Bool.true_or]

theorem State.xinvOpen_of_offw {w : OffWrite} (hw : w ∈ s.offw) (hh : s.xinvHome w.dpa = true) : s.xinvOpen = true := by
  have hany : (s.offw.any fun w => s.xinvHome w.dpa) = true := List.any_eq_true.2 ⟨w, hw, hh⟩
  unfold State.xinvOpen
  simp only [hany, Bool.true_or, Bool.or_true]

end

/-! ## Far-cache slices -/

/-- The vault bytes that a change of the slice size of a base die takes from a vault or gives to it become undefined (R65). -/
def State.forgetSlice (bdie old new : Nat) (s : State) (v : Nat) : State :=
  let base := 2 ^ 50 + bdie * 2 ^ 31 + v * 2 ^ 25 + 2 ^ 25
  let (k, s) := s.takeFresh
  { s with mem := s.mem.forget (base - max old new) (base - min old new) k }

/-- What the change of a slice size leaves: all but memory, and memory below the vaults. -/
theorem State.foldl_forgetSlice_facts (bdie : Nat) {old new : Nat} (ho : old ≤ 2 ^ 25) (hn : new ≤ 2 ^ 25) (vs : List Nat) (s : State) :
    let t := vs.foldl (State.forgetSlice bdie old new) s
    t.slice = s.slice ∧ t.far = s.far ∧ t.units = s.units ∧ t.threads = s.threads ∧
    (s.mem.wf = true → t.mem.wf = true ∧ ∀ d, d < 2 ^ 50 → t.mem.byte d = s.mem.byte d) := by
  refine foldl_keep (fun t : State => t.slice = s.slice ∧ t.far = s.far ∧ t.units = s.units ∧ t.threads = s.threads ∧
    (s.mem.wf = true → t.mem.wf = true ∧ ∀ d, d < 2 ^ 50 → t.mem.byte d = s.mem.byte d)) _ _ _
    ⟨rfl, rfl, rfl, rfl, fun h => ⟨h, fun _ _ => rfl⟩⟩ ?_
  rintro t ⟨hslice, hfar, hunits, hthreads, hmem⟩ v -
  refine ⟨hslice, hfar, hunits, hthreads, fun h => ?_⟩
  obtain ⟨hwf, hbyte⟩ := hmem h
  refine ⟨Store.forget_wf hwf _ _ _, fun d hd => ?_⟩
  have hbelow : d < 2 ^ 50 + bdie * 2 ^ 31 + v * 2 ^ 25 + 2 ^ 25 - max old new := by omega
  exact (Store.byte_forget_below hwf _ _ _ d hbelow).trans (hbyte d hd)

/-- A slice size that a JOB entry asks for is taken while no unit is on the die (R65). -/
theorem execSliceSizeChange_asked {s : State} {b z : Nat} (hb : b < 4) (hz : z < 4) (hs : s.slice.getD b 0 < 4)
    (hu : ∀ p ∈ s.units, p.2.onCore = true → p.2.ck / 64 ≠ b) (ha : s.sliceAsked b z = true) :
    ∃ t, execSliceSizeChange b z s = .next t ∧ t.slice = setAt s.slice b z ∧ (∀ e, e ∈ t.far ↔ e ∈ s.far ∧ homeDie (128 * e.1) ≠ some b) ∧
      t.units = s.units ∧ t.threads = s.threads ∧ (s.mem.wf = true → ∀ d, d < 2 ^ 50 → t.mem.byte d = s.mem.byte d) := by
  have hbusy : (s.units.any fun p => p.2.onCore && p.2.ck / 64 == b) = false := by
    simp only [List.any_eq_false, Bool.and_eq_true, beq_iff_eq, not_and]
    exact hu
  have hold : s.sliceBytes b ≤ 2 ^ 25 := by unfold State.sliceBytes; omega
  have hnew : z * 8 * 2 ^ 20 ≤ 2 ^ 25 := by omega
  obtain ⟨hslice, hfar, hunits, hthreads, hmem⟩ := State.foldl_forgetSlice_facts b hold hnew (upFrom 0 64) s
  unfold execSliceSizeChange
  dsimp only
  rw [if_neg (by simp [hbusy, ha]; omega)]
  refine ⟨_, rfl, congrArg (setAt · b z) hslice, fun e => ?_, hunits, hthreads, fun h => (hmem h).2⟩
  show e ∈ List.filter _ (State.far (List.foldl (State.forgetSlice b (s.sliceBytes b) (z * 8 * 2 ^ 20)) s (upFrom 0 64))) ↔ _
  rw [List.mem_filter, hfar, bne_iff_ne]

end Sys2Proof.Machine

open Sys2Proof Sys2Proof.Machine

/-- Settles O56: replies and the age limit end the entry of a token; a register write is taken under its condition; the invalidation ends
once no kind of access is outstanding; a slice takes vault bytes, which lie above the bytes of GDDR. -/
theorem translationEvents : Obligations.TranslationEvents := by
  unfold Obligations.TranslationEvents
  intro live
  refine ⟨fun s k f ht hf => ⟨?_, ?_, fun h => execFqLimitExpiry_young hf h⟩, fun s k h => ⟨fun hn => execFqLimitExpiry_none hn, ?_, ?_⟩,
    fun s v ht => ⟨fun h => ?_, fun h => ?_, fun h h' => ?_, fun h => ?_, fun h h' => ?_, fun h => ?_, State.flushFaults_written⟩,
    fun s v => ⟨execXinvStart_starts, execXinvStart_ignored⟩,
    fun s hd h1 h2 h3 h4 h5 h6 => execXinvDone_closed hd (State.xinvOpen_eq_false h1 h2 h3 h4 h5 h6),
    fun s c p _ hc hp hg hh => execXinvDone_open (State.xinvOpen_of_pend hc hp hg hh),
    fun s w _ hw hh => execXinvDone_open (State.xinvOpen_of_offw hw hh),
    fun s b z hb hz hs hu ha => execSliceSizeChange_asked hb hz hs hu ha, fun s => ⟨_, rfl, fun w => ?_, rfl⟩⟩
  · obtain ⟨hgone, hrefused, hmem, hthreads⟩ := s.endFault_facts k f false hf
    exact ⟨_, (execFqReply_eq s k).1.trans (by rw [if_pos ht]), hgone, hrefused, hmem, hthreads⟩
  · obtain ⟨hgone, hrefused, hmem, hthreads⟩ := s.endFault_facts k f true hf
    exact ⟨_, (execFqReply_eq s k).2.trans (by rw [if_pos ht]), hgone, hrefused, hmem, hthreads, execFqLimitExpiry_old hf⟩
  · refine (execFqReply_eq s k).1.trans (congrArg _ ?_)
    rcases h with h | h
    · rw [State.endFault_none h, ite_self]
    · rw [if_neg (by simp [h])]
  · refine (execFqReply_eq s k).2.trans (congrArg _ ?_)
    rcases h with h | h
    · rw [State.endFault_none h, ite_self]
    · rw [if_neg (by simp [h])]
  · exact (execFqTailWrite_eq ht).trans (by rw [if_pos h])
  · exact (execFqTailWrite_eq ht).trans (by rw [if_neg (by omega)])
  · exact (execFqBaseWrite_eq ht).trans (by rw [if_pos ⟨h, h'⟩])
  · exact (execFqBaseWrite_eq ht).trans (by rw [if_neg fun hc => h.elim (absurd hc.1) (absurd hc.2)])
  · exact (execFqSizeWrite_eq ht).trans (by rw [if_pos ⟨(fqSizeOk_iff _).2 h, h'⟩])
  · have hn : ¬ (fqSizeOk v.toNat = true ∧ s.hub.fqHead = s.hub.fqTail) := by
      rintro ⟨hok, he⟩
      obtain ⟨k, hlo, hhi, hk⟩ := (fqSizeOk_iff _).1 hok
      exact h.elim (fun h => h k hlo hhi hk) (absurd he)
    exact (execFqSizeWrite_eq ht).trans (by rw [if_neg hn])
  · show w ∈ List.filter _ _ ↔ _
    rw [List.mem_filter, bne_iff_ne]

end

section
/-! Power clusters, droops, holds, tmr, monitors and logs (R374, R376 to R380, R385). -/

namespace Sys2Proof.Machine

/-! ## Requests of a step and a ratio -/

theorem Cluster.request_step (c : Cluster) (step rat : Nat) (used : Bool) :
    (c.request step rat used).step = step ∧ (c.request step rat used).rat = rat := by
  unfold Cluster.request
  split
  · exact ⟨rfl, rfl⟩
  · split <;> exact ⟨rfl, rfl⟩

/-- A request that keeps the ratio changes the step at once (R376). -/
theorem Cluster.request_same {c : Cluster} {step rat : Nat} (used : Bool) (hr : rat = c.crat) (hc : c.changing = false) :
    c.request step rat used = { c with step := step, rat := rat, cstep := step } := by
  unfold Cluster.request
  rw [if_pos (by simp [hr, hc])]

/-- One of another ratio starts a change (R376). -/
theorem Cluster.request_change {c : Cluster} {step rat : Nat} {used : Bool} (hr : rat ≠ c.crat) (hu : rat ≠ 3 ∨ used = false) :
    c.request step rat used = { c with step := step, rat := rat, changing := true, goal := rat } := by
  unfold Cluster.request
  rw [if_neg (by simp [hr]), if_neg (by rcases hu with hu | hu <;> simp [hu])]

/-- One that would gate a cluster in use starts none (R376). -/
theorem Cluster.request_gate {c : Cluster} {step : Nat} (hc : c.crat ≠ 3) : c.request step 3 true = { c with step := step, rat := 3 } := by
  unfold Cluster.request
  rw [if_neg (by simp [hc.symm]), if_pos (by decide)]

/-! ## The end of a change of ratio -/

/-- A change that is under way takes its goal, unless it would gate a cluster in use (R376). -/
theorem Cluster.settled_changing {c : Cluster} {used : Bool} (hc : c.changing = true) :
    c.settled used = { c with changing := false, crat := if c.goal = 3 ∧ used = true then c.crat else c.goal, cstep := c.step } := by
  unfold Cluster.settled
  rw [if_pos hc]
  simp only [Bool.and_eq_true, decide_eq_true_eq]

/-- A request to gate a cluster is honoured once it is empty (R376). -/
theorem Cluster.settled_gated {c : Cluster} (hc : c.changing = false) (hr : c.rat = 3) : c.settled false = { c with crat := 3, cstep := c.step } := by
  unfold Cluster.settled
  rw [if_neg (by simp [hc]), if_pos (by simp [hr])]

/-! ## Samples of a monitor -/

theorem Monitor.take_disabled {m : Monitor} (h : m.cfg.getLsbD 63 = false) (x : Nat) : m.take x = m := by
  unfold Monitor.take
  rw [if_pos (by rw [h]; rfl)]

theorem Monitor.take_noSource {m : Monitor} (h : 7 < m.src.toNat) (x : Nat) : m.take x = m := by
  unfold Monitor.take
  rw [if_pos (by simp [h])]

/-- What an enabled monitor's registers are after a sample (R380). -/
theorem Monitor.take_facts {m : Monitor} (hc : m.cfg.getLsbD 63 = true) (hs : m.src.toNat ≤ 7) (x : Nat) :
    (m.take x).cnt = m.cnt + 1 ∧ (m.take x).min.toNat = Nat.min m.min.toNat (x % 2 ^ 64) ∧
    (m.take x).max.toNat = Nat.max m.max.toNat (x % 2 ^ 64) ∧ (m.take x).cfg = m.cfg := by
  have hx : (Word.ofN x).toNat = x % 2 ^ 64 := BitVec.toNat_ofNat ..
  unfold Monitor.take
  rw [if_neg (by simp [hc]; omega)]
  dsimp only
  rw [hx]
  refine ⟨rfl, ?_, ?_, rfl⟩
  · split
    · rw [hx]
      exact (Nat.min_eq_right (by omega)).symm
    · exact (Nat.min_eq_left (by omega)).symm
  · split
    · rw [hx]
      exact (Nat.max_eq_right (by omega)).symm
    · exact (Nat.max_eq_left (by omega)).symm

/-- A map whose values are changed under their keys gives the changed values. -/
theorem AMap.get?_map {β : Type} (f : Nat × β → Nat × β) (hf : ∀ p, (f p).1 = p.1) {k : Nat} {v : β} :
    ∀ {m : AMap β}, AMap.get? m k = some v → AMap.get? (m.map f) k = some (f (k, v)).2
  | p :: rest, h => by
    rw [List.map_cons]
    unfold AMap.get? at h ⊢
    rw [hf p]
    split at h
    · rename_i hp
      cases h
      rw [if_pos hp, ← hp]
    · rename_i hp
      rw [if_neg hp]
      exact AMap.get?_map f hf h

/-- The monitors of a source and a thing take a sample; the others stay (R380). -/
theorem State.observe_get? {s : State} {i : Nat} {m : Monitor} (src sel x : Nat) (h : AMap.get? s.hub.monitors i = some m) :
    AMap.get? (s.observe src sel x).hub.monitors i = some (if m.src.toNat = src ∧ m.sel.toNat = sel then m.take x else m) := by
  refine (AMap.get?_map _ (fun p => ?_) h).trans (congrArg some ?_)
  · split <;> rfl
  · simp only [Bool.and_eq_true, decide_eq_true_eq]
    split <;> rfl

/-! ## The steps of a cluster -/

section
variable {s : State} {n : Nat}

/-- A write of PWR_CL that asks for STEP = 3 is ignored (R376). -/
theorem execPwrClWrite_step3 {v : Word} (h : bits v.toNat 3 2 = 3) : execPwrClWrite n v s = .next s := by
  unfold execPwrClWrite
  cases s.clusterOf n with
  | none => rfl
  | some k =>
    dsimp only
    rw [if_pos (by simp [h])]

/-- Another is a request to the cluster that it names (R376). -/
theorem execPwrClWrite_request {v : Word} {k : Nat} (ht : s.hostTakes = true) (hk : s.clusterOf n = some k) (h : bits v.toNat 3 2 ≠ 3) :
    execPwrClWrite n v s = .next (s.modCluster k fun c => c.request (bits v.toNat 3 2) (bits v.toNat 1 0) (s.clusterUsed k)) := by
  unfold execPwrClWrite
  rw [hk]
  dsimp only
  rw [if_neg (by simp [ht, h])]

theorem execPowerLimitStep_below {k : Nat} (h : k < (s.cluster n).step) : execPowerLimitStep n k s = .next s := by
  unfold execPowerLimitStep
  rw [if_pos (by simp [h])]

theorem execHoldStart_ignored (h : (s.cluster n).hold = true ∨ s.hub.tmr < (s.cluster n).holdFree) : execHoldStart n s = .next s := by
  unfold execHoldStart
  dsimp only
  rw [if_pos (by rcases h with h | h <;> simp [h])]

variable (hn : n < 32)
include hn

theorem execRatioChangeComplete_eq : execRatioChangeComplete n s = .next (s.modCluster n fun c => c.settled (s.clusterUsed n)) := by
  unfold execRatioChangeComplete
  rw [if_neg (by omega)]

/-- The power limit sets a step that does not exceed the request (R376). -/
theorem execPowerLimitStep_eq {k : Nat} (hk : k ≤ 2) (hs : (s.cluster n).step ≤ k) :
    execPowerLimitStep n k s = .next (s.modCluster n fun c => { c with cstep := k }) := by
  unfold execPowerLimitStep
  rw [if_neg (by simp; omega)]

/-- A droop stretches the cycles from its detection on (R377). -/
theorem execDroopDetect_eq : execDroopDetect n s =
    .next (if (s.cluster n).droop = true then s else s.modCluster n fun c => { c with droop := true, droopAt := s.hub.tmr }) := by
  unfold execDroopDetect
  cases (s.cluster n).droop with
  | false => rw [if_neg (by simp; omega), if_neg (by decide)]
  | true => rw [if_pos (by simp), if_pos rfl]

/-- Its end is a sample of its duration (R377, R380). -/
theorem execDroopRecover_eq : execDroopRecover n s =
    .next (if (s.cluster n).droop = true then
      (s.modCluster n fun c => { c with droop := false }).observe 7 n (s.hub.tmr - (s.cluster n).droopAt) else s) := by
  unfold execDroopRecover
  cases (s.cluster n).droop with
  | false => rw [if_pos (by simp), if_neg (by decide)]
  | true => rw [if_neg (by simp; omega), if_pos rfl]

/-- A hold begins at the earliest 2 µs after the one before (R378). -/
theorem execHoldStart_eq (hh : (s.cluster n).hold = false) (hf : (s.cluster n).holdFree ≤ s.hub.tmr) :
    execHoldStart n s = .next (s.modCluster n fun c => { c with hold := true, holdEnd := s.hub.tmr + 2000 }) := by
  unfold execHoldStart
  dsimp only
  rw [if_neg (by simp [hh]; omega)]

/-- Its end is a sample of its duration (R378, R380). -/
theorem execHoldEnd_eq (hh : (s.cluster n).hold = true) :
    execHoldEnd n s = .next ((s.modCluster n fun c => { c with hold := false, holdFree := min s.hub.tmr (s.cluster n).holdEnd + 2000 }).observe
      6 n (min s.hub.tmr (s.cluster n).holdEnd + 2000 - (s.cluster n).holdEnd)) := by
  unfold execHoldEnd
  dsimp only
  rw [if_neg (by simp [hh]; omega)]

end

/-- A sample is no matter of the clusters. -/
@[simp] theorem State.cluster_observe (s : State) (src sel x n : Nat) : (s.observe src sel x).cluster n = s.cluster n := rfl

/-! ## tmr -/

/-- A module that joins a running system steps tmr forward (R379). -/
theorem execTmrAlign_joins {s : State} (hj : s.hub.joined = false) (k : Nat) :
    execTmrAlign k s = .next (s.modHub fun h => { h with tmr := h.tmr + k, joined := true }) := by
  unfold execTmrAlign
  rw [if_pos (by simp [hj])]

/-- One that has joined slews tmr by at most 100 ns (R379). -/
theorem execTmrAlign_slews {s : State} (hj : s.hub.joined = true) (k : Nat) :
    execTmrAlign k s = .next (if k ≤ 100 then s.modHub fun h => { h with tmr := h.tmr + k } else s) := by
  unfold execTmrAlign
  rw [if_neg (by simp [hj])]
  split <;> rfl

/-! ## The steps of a monitor -/

/-- A monitor with its samples cleared: what it observes stays (R380). -/
def Monitor.cleared (m : Monitor) : Monitor := { cfg := m.cfg, src := m.src, sel := m.sel }

/-- A monitor of the hub. -/
def State.monitor (s : State) (n : Nat) : Monitor := AMap.get s.hub.monitors n {}
/-- The state with another monitor. -/
def State.setMonitor (s : State) (n : Nat) (m : Monitor) : State := s.modHub fun h => { h with monitors := AMap.set h.monitors n m }

theorem State.monitor_setMonitor (s : State) (n : Nat) (m : Monitor) : (s.setMonitor n m).monitor n = m := by
  show (AMap.get? (AMap.set s.hub.monitors n m) n).getD {} = m
  rw [AMap.get?_set_same]
  rfl

section
variable {s : State} {n x : Nat}

/-- A monitor whose samples are not those of a hold or a stretch takes one, which is 1 for a corrected soft error (R380). -/
theorem execMonitorSample_takes (hn : n < 64) (hs : (s.monitor n).src.toNat < 6) :
    execMonitorSample n x s = .next (s.setMonitor n ((s.monitor n).take (if (s.monitor n).src.toNat = 5 then 1 else x))) := by
  unfold execMonitorSample
  rw [if_neg (by simp only [Bool.or_eq_true, decide_eq_true_eq]; exact not_or.2 ⟨Nat.not_le.2 hn, Nat.not_le.2 hs⟩)]
  rfl

theorem execMonitorSample_ends (hs : 6 ≤ (s.monitor n).src.toNat) : execMonitorSample n x s = .next s := by
  unfold execMonitorSample
  rw [if_pos (by simp only [Bool.or_eq_true, decide_eq_true_eq]; exact Or.inr hs)]

/-- CLR keeps what a monitor observes and no more (R380). -/
theorem execMonitorClr_eq (hn : n < 64) (ht : s.hostTakes = true) : execMonitorClr n s = .next (s.setMonitor n (s.monitor n).cleared) := by
  unfold execMonitorClr
  rw [if_neg (by simp [ht]; omega)]
  rfl

end

/-! ## The logs -/

theorem execErrorLogClear_eq {s : State} {ck : Nat} (ht : s.hostTakes = true) (hck : ck < 256) :
    execErrorLogClear ck s = .next (s.modCore ck fun c => { c with log := [], lost := 0 }) := by
  unfold execErrorLogClear
  rw [if_neg (by simp [ht]; omega)]

theorem execManagementLogClear_eq {s : State} (ht : s.hostTakes = true) :
    execManagementLogClear s = .next (s.modHub fun h => { h with mlog := [], mlost := 0 }) := by
  unfold execManagementLogClear
  rw [if_neg (by simp [ht])]

end Sys2Proof.Machine

open Sys2Proof Sys2Proof.Machine

/-- Settles O59: each step is one change of its cluster, of tmr, of its monitor or of its log. -/
theorem powerAndMonitorEvents : Obligations.PowerAndMonitorEvents := by
  unfold Obligations.PowerAndMonitorEvents
  refine ⟨fun s n v => ⟨execPwrClWrite_step3, fun k ht hk hv => ?_⟩, fun s n hn => ?_, fun s k => ⟨fun h => ?_, fun hj hk => ?_⟩,
    fun s n x hn => ?_, fun s ck ht hck => ?_, fun s ht => ⟨_, execManagementLogClear_eq ht, rfl, rfl, rfl⟩⟩
  · intro c
    obtain ⟨hstep, hrat⟩ := c.request_step (bits v.toNat 3 2) (bits v.toNat 1 0) (s.clusterUsed k)
    refine ⟨_, execPwrClWrite_request ht hk hv, ?_⟩
    simp only [State.cluster_modCluster]
    refine ⟨hstep, hrat, rfl, fun hr hc => ?_, fun hr hu => ?_, fun hr hc hu => ?_⟩
    · rw [Cluster.request_same _ hr hc]
      exact ⟨rfl, hc⟩
    · rw [Cluster.request_change hr hu]
      exact ⟨rfl, rfl, rfl⟩
    · rw [hr, hu, Cluster.request_gate hc]
      exact ⟨rfl, rfl, rfl⟩
  · intro c keeps
    refine ⟨fun hc => ⟨_, execRatioChangeComplete_eq hn, ?_⟩, fun hc hr hu => ⟨_, execRatioChangeComplete_eq hn, ?_⟩,
      fun k hk hs => ⟨_, execPowerLimitStep_eq hn hk hs, ?_⟩, fun k hk => execPowerLimitStep_below hk, ⟨_, execDroopDetect_eq hn, ?_⟩,
      ⟨_, execDroopRecover_eq hn, ?_⟩, fun hh hf => ⟨_, execHoldStart_eq hn hh hf, ?_⟩, execHoldStart_ignored,
      fun hh => ⟨_, execHoldEnd_eq hn hh, ?_⟩⟩
    · rw [State.cluster_modCluster, Cluster.settled_changing (c := s.cluster n) hc]
      exact ⟨rfl, rfl, rfl, rfl, rfl, rfl⟩
    · rw [State.cluster_modCluster, hu, Cluster.settled_gated (c := s.cluster n) hc hr]
      exact ⟨rfl, rfl, rfl, rfl⟩
    · rw [State.cluster_modCluster]
      exact ⟨rfl, rfl, rfl, rfl, rfl⟩
    · split
      · rename_i hd
        exact ⟨hd, fun h => absurd hd (by rw [h]; decide), rfl, rfl, rfl, rfl⟩
      · rw [State.cluster_modCluster]
        exact ⟨rfl, fun _ => rfl, rfl, rfl, rfl, rfl⟩
    · split
      · rename_i hd
        rw [State.cluster_observe, State.cluster_modCluster]
        refine ⟨rfl, rfl, ⟨rfl, rfl, rfl⟩, fun i m hm => ?_⟩
        have hd' : c.droop = true := hd
        simp only [hd', true_and]
        exact State.observe_get? 7 n _ hm
      · rename_i hd
        refine ⟨by simpa using hd, rfl, ⟨rfl, rfl, rfl⟩, fun i m hm => ?_⟩
        rw [hm, if_neg fun h => hd h.1]
    · rw [State.cluster_modCluster]
      exact ⟨rfl, rfl, rfl, rfl, rfl⟩
    · rw [State.cluster_observe, State.cluster_modCluster]
      exact ⟨rfl, rfl, ⟨rfl, rfl, rfl⟩, fun i m hm => State.observe_get? 6 n _ hm⟩
  · cases hj : s.hub.joined with
    | false => exact ⟨_, execTmrAlign_joins hj k, rfl, rfl, fun _ => rfl⟩
    | true =>
      have hk : k ≤ 100 := h.resolve_left (by simp [hj])
      refine ⟨_, execTmrAlign_slews hj k, ?_⟩
      rw [if_pos hk]
      exact ⟨rfl, rfl, fun hn => absurd hn (by decide)⟩
  · exact (execTmrAlign_slews hj k).trans (by rw [if_neg (by omega)])
  · intro m now x'
    refine ⟨fun hc hs => ⟨_, execMonitorSample_takes hn hs, ?_⟩, execMonitorSample_ends, fun hc => Monitor.take_disabled hc x,
      fun hs => Monitor.take_noSource hs x, fun ht => ⟨_, execMonitorClr_eq hn ht, ?_⟩⟩
    · have hnow : now (s.setMonitor n (m.take x')) = m.take x' := s.monitor_setMonitor n _
      obtain ⟨hcnt, hmin, hmax, hcfg⟩ := Monitor.take_facts hc (Nat.le_of_lt (Nat.lt_trans hs (by decide))) x'
      exact ⟨(congrArg _ hnow).trans hcnt, (congrArg (fun m : Monitor => m.min.toNat) hnow).trans hmin,
        (congrArg (fun m : Monitor => m.max.toNat) hnow).trans hmax, (congrArg _ hnow).trans hcfg, rfl⟩
    · have hnow : now (s.setMonitor n m.cleared) = m.cleared := s.monitor_setMonitor n _
      have key : ∀ t : State, now t = m.cleared → (now t).min = BitVec.allOnes 64 ∧ (now t).max = 0 ∧ (now t).cnt = 0 ∧
          (now t).bin = List.replicate 32 0 ∧ (now t).cfg = m.cfg ∧ (now t).src = m.src ∧ (now t).sel = m.sel := fun t h => by
        rw [h]
        exact ⟨rfl, rfl, rfl, rfl, rfl, rfl, rfl⟩
      obtain ⟨h1, h2, h3, h4, h5, h6, h7⟩ := key _ hnow
      exact ⟨h1, h2, h3, h4, h5, h6, h7, rfl⟩
  · refine ⟨_, execErrorLogClear_eq ht hck, ?_⟩
    rw [State.core_modCore]
    exact ⟨rfl, rfl, rfl, rfl⟩

end

section
/-! The registers of BAR0 that a write sets, the size of BAR2, and the management mailbox (R71, R316, R372 to R374, R382 to R384). -/

namespace Sys2Proof.Machine

/-! ## REGISTER_WRITE -/

section
variable {s : State} {off n : Nat} {v : Word}

/-- An access of another size or alignment is dropped and logged (R373). -/
theorem execRegisterWrite_bad (h : n ≠ 4 ∧ n ≠ 8 ∨ off % n ≠ 0) : execRegisterWrite off n v s = execBar0BadAccess off s := by
  unfold execRegisterWrite
  rw [if_pos (by simpa using h)]

/-- What is taken while the hub is up, in recovery the request buffer alone (R382). -/
theorem registerAccess_taken (hd : s.hubDown = false) (hr : s.recovery = false ∨ 0x40100 ≤ off ∧ off < 0x44100) :
    ¬ (s.hubDown || (s.recovery && !(0x40100 ≤ off && off < 0x44100))) = true := by
  rcases hr with hr | hr <;> simp [hd, hr]

variable (hn : n = 4 ∨ n = 8) (ha : off % n = 0)
include hn ha

theorem registerAccess_aligned : ¬ ((n ≠ 4 && n ≠ 8) || off % n ≠ 0) = true := by
  rcases hn with rfl | rfl <;> simp [ha]

/-- A write that the hub does not take changes nothing (R363, R382). -/
theorem execRegisterWrite_refused (h : s.hubDown = true ∨ s.recovery = true ∧ (off < 0x40100 ∨ 0x44100 ≤ off)) :
    execRegisterWrite off n v s = .next s := by
  unfold execRegisterWrite
  rw [if_neg (registerAccess_aligned hn ha), if_pos]
  rcases h with h | ⟨h, hoff⟩
  · simp [h]
  · simp [h]
    omega

/-- A register that only holds a value takes it (R373). -/
theorem execRegisterWrite_put (hd : s.hubDown = false) (hr : s.recovery = false ∨ 0x40100 ≤ off ∧ off < 0x44100)
    (ht : off / 8 * 8 ≠ 0x2038) (hroute : off < 0x14000 ∨ 0x1C000 ≤ off) :
    execRegisterWrite off n v s = .next (s.modHub fun h => h.putRegister off n v) := by
  unfold execRegisterWrite
  rw [if_neg (registerAccess_aligned hn ha), if_neg (registerAccess_taken hd hr), if_neg ht, if_neg (by simp; omega)]

/-- FQ_TAIL takes a write as its own step does (R72). -/
theorem execRegisterWrite_tail (hd : s.hubDown = false) (hr : s.recovery = false) (ht : off / 8 * 8 = 0x2038) :
    execRegisterWrite off n v s = execFqTailWrite (putHalf (Word.ofN s.hub.fqTail) v off n) s := by
  unfold execRegisterWrite
  rw [if_neg (registerAccess_aligned hn ha), if_neg (registerAccess_taken hd (Or.inl hr)), if_pos ht]

end

/-- A ROUTE entry takes a write of 4 bytes as its own step does (R359). -/
theorem execRegisterWrite_route {s : State} {m : Nat} {v : Word} (hd : s.hubDown = false) (hr : s.recovery = false) (hm : m < 8192) :
    execRegisterWrite (0x14000 + 4 * m) 4 v s = execRouteWrite m (Word.ofN (bits v.toNat 31 0)) s := by
  have hentry : (0x14000 + 4 * m - 0x14000) / 4 = m := by omega
  unfold execRegisterWrite
  rw [if_neg (registerAccess_aligned (Or.inl rfl) (by omega)), if_neg (registerAccess_taken hd (Or.inl hr)),
    if_neg (by omega), if_pos (by simp; omega), hentry]
  unfold routeWrites
  cases execRouteWrite m (Word.ofN (bits v.toNat 31 0)) s <;> rfl

/-- What the hub takes of the host (R363, R382). -/
theorem State.hostTakes_iff (s : State) : s.hostTakes = true ↔ s.recovery = false ∧ s.hubDown = false := by
  unfold State.hostTakes
  simp

/-! ## Registers that hold a value -/

/-- The two halves of a register that are written one by one make up the value (R373). -/
theorem putHalf_putHalf (old v : Word) {off off' : Nat} (h : off % 8 = 0) (h' : off' % 8 = 4) :
    putHalf (putHalf old v off 4) (v >>> 32) off' 4 = v := by
  unfold putHalf
  rw [if_neg (by decide), if_neg (by omega), if_neg (by decide), if_pos h]
  apply BitVec.eq_of_toNat_eq
  simp [Word.ofN, Nat.shiftRight_eq_div_pow]
  omega

/-- A register of a chain's block takes a write of 8 bytes (R316). -/
theorem Hub.putRegister_chain (h : Hub) {n a : Nat} (v : Word) (hn : n < 16) (ha : a < 64) (ha8 : a % 8 = 0) :
    h.putRegister (0x3000 + 64 * n + a) 8 v = { h with chains := setAt h.chains n ((h.chains.getD n {}).put a fun _ => v) } := by
  have hr : (0x3000 + 64 * n + a) / 8 * 8 = 0x3000 + 64 * n + a := by omega
  have hchain : (0x3000 + 64 * n + a - 0x3000) / 64 = n := by omega
  have hat : (0x3000 + 64 * n + a) % 64 = a := by omega
  have hput : (fun old => putHalf old v (0x3000 + 64 * n + a) 8) = fun _ => v := rfl
  unfold Hub.putRegister
  dsimp only
  rw [hr, if_neg (by omega), if_neg (by omega), if_neg (by simp; omega), if_neg (by omega), if_neg (by omega), if_neg (by omega), if_neg (by omega),
    if_pos (by simp; omega), hchain, hat, hput]

/-- An aperture base that is aligned to the size of BAR2 is taken (R372). -/
theorem Hub.putRegister_aperBase (h : Hub) (v : Word) :
    h.putRegister 0x10 8 v = if v.toNat % h.bar2 = 0 then { h with aperBase := v } else h := rfl

/-! ## APER_BASE and BAR2 -/

/-- BAR2 takes the powers of two from 1 GiB to 256 GiB (R372). -/
theorem bar2Size_iff (z : Nat) : ((upFrom 30 9).any fun k => z == 2 ^ k) = true ↔ ∃ k, 30 ≤ k ∧ k ≤ 38 ∧ z = 2 ^ k := by
  simp only [any_eq_pow_iff, Nat.lt_succ_iff]

theorem execBar2Resize_taken (s : State) {z : Nat} (h : ∃ k, 30 ≤ k ∧ k ≤ 38 ∧ z = 2 ^ k) :
    execBar2Resize z s = .next (s.modHub fun h => { h with bar2 := z }) := by
  unfold execBar2Resize
  rw [if_pos ((bar2Size_iff z).2 h)]

theorem execBar2Resize_ignored (s : State) {z : Nat} (h : ¬ ∃ k, 30 ≤ k ∧ k ≤ 38 ∧ z = 2 ^ k) : execBar2Resize z s = .next s := by
  unfold execBar2Resize
  rw [if_neg fun hz => h ((bar2Size_iff z).1 hz)]

/-- A value that is aligned to the size of BAR2 is taken while the hub takes host transactions (R372). -/
theorem execAperBaseWrite_taken {s : State} {v : Word} (ht : s.hostTakes = true) (ha : v.toNat % s.hub.bar2 = 0) :
    execAperBaseWrite v s = .next (s.modHub fun h => { h with aperBase := v }) := by
  unfold execAperBaseWrite
  rw [if_neg (by simp [ht, ha])]

theorem execAperBaseWrite_ignored {s : State} {v : Word} (h : s.hostTakes = false ∨ v.toNat % s.hub.bar2 ≠ 0) :
    execAperBaseWrite v s = .next s := by
  unfold execAperBaseWrite
  rw [if_pos (by simpa using h)]

/-! ## Commands of the mailbox -/

section
variable {s : State}

/-- A command starts unless one runs or the hub is being reset (R363, R384). -/
theorem State.mbStart_ignored (h : s.hub.mb.busy = true ∨ s.hubDown = true) (code len tag : Nat) : s.mbStart code len tag = s := by
  unfold State.mbStart
  rw [if_pos (by simpa using h)]

theorem State.mbStart_starts (hd : s.hubDown = false) (hb : s.hub.mb.busy = false) (code len tag : Nat) :
    s.mbStart code len tag = s.modHub fun h =>
      { h with mb := { h.mb with busy := true, code := code, len := len % 65536, tag := tag % 2 ^ 32, reply := [] } } := by
  unfold State.mbStart
  rw [if_neg (by simp [hd, hb])]

/-- What an instruction that starts a command does (R384). -/
theorem starts_of_mbStart {i : Instr} {code len tag : Nat} (hi : exec i s = .next (s.mbStart code len tag)) :
    (s.hub.mb.busy = true ∨ s.hubDown = true → exec i s = .next s) ∧
    (s.hubDown = false → s.hub.mb.busy = false → ∃ t, exec i s = .next t ∧ t.hub.mb.busy = true ∧ t.hub.mb.code = code ∧
      t.hub.mb.len = len % 65536 ∧ t.hub.mb.tag = tag % 2 ^ 32 ∧ t.hub.mb.req = s.hub.mb.req ∧ t.mem = s.mem) :=
  ⟨fun h => hi.trans (by rw [State.mbStart_ignored h]), fun hd hb =>
    ⟨_, hi.trans (congrArg _ (State.mbStart_starts hd hb code len tag)), rfl, rfl, rfl, rfl, rfl, rfl⟩⟩

/-- A code that no command has starts a command too (R384). -/
theorem execUnknownCommandCode_eq {n : Nat} (h : n % 65536 = 0 ∨ 3 < n % 65536) (tag : Nat) :
    execUnknownCommandCode n tag s = .next (s.mbStart (n % 65536) 0 tag) := by
  unfold execUnknownCommandCode
  rw [if_neg (by simp; omega)]

/-- Booting leaves memory and the mailbox (R382). -/
theorem State.boot_keeps (s : State) : s.boot.mem = s.mem ∧ s.boot.hub.mb = s.hub.mb :=
  (s.modHub fun h => { h with meas := [0, 0, 0, 0] }).bootFrom_keeps [1, 2, 3]

/-- A command has left memory and its tag. -/
def MbDone.Keeps (d : MbDone) (s : State) : Prop := d.st.mem = s.mem ∧ d.st.hub.mb.tag = s.hub.mb.tag

theorem MbDone.Keeps.ite {c : Prop} [Decidable c] {d e : MbDone} (hd : d.Keeps s) (he : e.Keeps s) : (if c then d else e).Keeps s := by
  split
  · exact hd
  · exact he

/-- So has one after whose state the hub boots again, or does not (R382). -/
theorem MbDone.Keeps.boots {c : Prop} [Decidable c] {r : Nat} {x : State} (h : MbDone.Keeps { res := r, st := x } s) :
    MbDone.Keeps { res := r, st := if c then x.boot else x } s := by
  obtain ⟨hmem, hmb⟩ := x.boot_keeps
  split
  · exact ⟨hmem.trans h.1, (congrArg Mailbox.tag hmb).trans h.2⟩
  · exact h

/-- A chunk of an image does so (R384). -/
theorem State.loadChunk_keeps (s : State) (len : Nat) : (s.loadChunk len).Keeps s := by
  unfold State.loadChunk
  exact .ite ⟨rfl, rfl⟩ (.ite ⟨rfl, rfl⟩ (.ite ⟨rfl, rfl⟩ (.ite ⟨rfl, rfl⟩ (.ite ⟨rfl, rfl⟩ (.boots ⟨rfl, rfl⟩)))))

/-- So does every command. -/
theorem State.mbRun_keeps (s : State) : s.mbRun.Keeps s := by
  unfold State.mbRun
  refine .ite ⟨rfl, rfl⟩ ?_
  split
  · exact .ite ⟨rfl, rfl⟩ ⟨rfl, rfl⟩
  · exact s.loadChunk_keeps _
  · exact .ite ⟨rfl, rfl⟩ ⟨rfl, rfl⟩
  · exact ⟨rfl, rfl⟩

/-- A command that runs completes unless the hub is being reset (R363, R384). -/
theorem execMailboxCompletion_completes (hd : s.hubDown = false) (hb : s.hub.mb.busy = true) :
    execMailboxCompletion s = .next ((s.mbRun.st.modHub fun h => { h with mb := { h.mb with
      busy := false, result := s.mbRun.res, rlen := s.mbRun.reply.length, rtag := h.mb.tag, reply := s.mbRun.reply } }).vector 5) := by
  unfold execMailboxCompletion
  rw [if_neg (by simp [hd, hb])]

theorem execMailboxCompletion_down (hd : s.hubDown = true) : execMailboxCompletion s = .next s := by
  unfold execMailboxCompletion
  rw [if_pos (by simp [hd])]

end

/-! ## What a command does -/

section
variable {s : State}

/-- In recovery LOAD_IMAGE alone runs (R382). -/
theorem State.mbRun_recovery (hr : s.recovery = true) (hc : s.hub.mb.code ≠ 2) : s.mbRun = { res := 4, st := s } := by
  unfold State.mbRun
  rw [if_pos (by simp [hr, hc])]

theorem State.mbRun_loadImage (hc : s.hub.mb.code = 2) : s.mbRun = s.loadChunk s.hub.mb.len := by
  unfold State.mbRun
  rw [if_neg (by simp [hc]), hc]
  rfl

variable (hr : s.recovery = false)
include hr

theorem State.mbRun_attest (hc : s.hub.mb.code = 1) : s.mbRun =
    if s.hub.mb.len ≠ 32 then { res := 2, st := s } else { res := 0, reply := s.hub.report (s.hub.mb.reqBytes 0 32), st := s } := by
  unfold State.mbRun
  rw [if_neg (by simp [hr]), hc]
  rfl

theorem State.mbRun_readMeas (hc : s.hub.mb.code = 3) : s.mbRun =
    if s.hub.mb.len ≠ 0 then { res := 2, st := s } else { res := 0, reply := s.hub.measBytes, st := s } := by
  unfold State.mbRun
  rw [if_neg (by simp [hr]), hc]
  rfl

theorem State.mbRun_unknown (hc : s.hub.mb.code = 0 ∨ 3 < s.hub.mb.code) : s.mbRun = { res := 1, st := s } := by
  unfold State.mbRun
  rw [if_neg (by simp [hr])]
  split
  · omega
  · omega
  · omega
  · rfl

/-- While a job is open no image is loaded (R384). -/
theorem State.loadChunk_jobOpen (hj : s.hub.jobs ≠ []) (len : Nat) : s.loadChunk len = { res := 4, st := s } := by
  unfold State.loadChunk
  dsimp only
  rw [if_pos (by simp [hr, hj])]

end

/-- The head of a chunk that is not the last: its stage, no flags and its offset (R384). -/
theorem chunkHead_fields {hd : List Byte} {stage off : Nat} (hs : stage ≤ 3) (ho : off ≤ 2 ^ 23)
    (h : hd = leBytes 1 stage ++ [0, 0, 0] ++ leBytes 4 off) :
    field hd 0 1 = stage ∧ field hd 1 1 = 0 ∧ field hd 4 4 = off ∧ zeroField hd 2 2 = true := by
  subst h
  refine ⟨?_, rfl, ?_, rfl⟩
  · show (BitVec.ofNat 8 stage).toNat + 256 * 0 = stage
    rw [BitVec.toNat_ofNat]
    omega
  · show leVal (leBytes 4 off) = off
    simp only [leBytes, leVal, BitVec.toNat_ofNat]
    omega

/-- Such a chunk is kept (R384). -/
theorem State.loadChunk_kept {s : State} {len stage off : Nat} (hj : s.hub.jobs = []) (h8 : 8 ≤ len) (hlen : len ≤ 16384) (h0 : 0 < stage) (h3 : stage ≤ 3)
    (ho : off + (len - 8) ≤ 2 ^ 23) (h : s.hub.mb.reqBytes 0 8 = leBytes 1 stage ++ [0, 0, 0] ++ leBytes 4 off) :
    s.loadChunk len = { res := 0, st := s.modHub fun h => { h with mb := { h.mb with
      stage := stage, part := (if s.hub.mb.stage = stage then s.hub.mb.part else []) ++ [(off, s.hub.mb.reqBytes 8 (len - 8))] } } } := by
  obtain ⟨hstage, hflags, hoff, hzero⟩ := chunkHead_fields h3 (by omega) h
  unfold State.loadChunk
  dsimp only
  rw [hstage, hflags, hoff, hzero, if_neg (by simp [hj]), if_neg (by simp; omega), if_pos rfl]

end Sys2Proof.Machine

open Sys2Proof Sys2Proof.Machine

/-- Settles O60: a write of a register sets it or is refused as a whole; a command of the mailbox starts unless one runs, and ends with the
result and the reply of its code. -/
theorem hostRegisterEvents : Obligations.HostRegisterEvents := by
  unfold Obligations.HostRegisterEvents
  refine ⟨fun s off => ⟨_, rfl, rfl, rfl, rfl⟩,
    fun s off n v => ⟨fun hd hr hn ha ht hroute => execRegisterWrite_put hn ha hd hr ht hroute,
      fun h hn ha => execRegisterWrite_refused hn ha h, fun h hn ha ht => ?_, fun m h hm => ?_, execRegisterWrite_bad⟩,
    fun h v => ⟨rfl, rfl, rfl, rfl, rfl, fun ha => ?_, fun ha => ?_, ?_, rfl⟩,
    fun h n v hn hlen => ⟨?_, ?_, ?_⟩, fun s v => ⟨rfl, rfl, rfl, rfl, rfl, rfl, rfl, rfl, rfl⟩,
    fun s v => ⟨fun ht ha => ⟨_, execAperBaseWrite_taken ht ha, rfl, rfl⟩, execAperBaseWrite_ignored⟩,
    fun s z => ⟨fun h => ⟨_, execBar2Resize_taken s h, rfl, rfl⟩, ?_⟩, fun s n tag => ?_,
    fun s hd => execMailboxCompletion_down hd, fun s hd hb => ?_, fun s => ?_⟩
  · obtain ⟨hr, hd⟩ := s.hostTakes_iff.1 h
    exact execRegisterWrite_tail hn ha hd hr ht
  · obtain ⟨hr, hd⟩ := s.hostTakes_iff.1 h
    exact execRegisterWrite_route hd hr hm
  · rw [Hub.putRegister_aperBase, if_pos ha]
  · rw [Hub.putRegister_aperBase, if_neg ha]
  · exact putHalf_putHalf (off := 0x2008) (off' := 0x200C) h.xinvVa v (by decide) (by decide)
  · rw [show 0x3000 + 64 * n = 0x3000 + 64 * n + 0 from rfl, h.putRegister_chain v hn (by decide) (by decide)]
    exact getD_setAt_same _ _ _ _ hlen
  · rw [h.putRegister_chain v hn (by decide) (by decide)]
    exact getD_setAt_same _ _ _ _ hlen
  · rw [h.putRegister_chain v hn (by decide) (by decide)]
    exact getD_setAt_same _ _ _ _ hlen
  · intro hz
    exact execBar2Resize_ignored s fun ⟨k, hlo, hhi, hk⟩ => hz k hlo hhi hk
  · intro starts
    exact ⟨starts_of_mbStart rfl, starts_of_mbStart rfl, starts_of_mbStart rfl, fun h => starts_of_mbStart (execUnknownCommandCode_eq h tag)⟩
  · obtain ⟨hmem, htag⟩ := s.mbRun_keeps
    exact ⟨_, execMailboxCompletion_completes hd hb, rfl, rfl, rfl, rfl, htag, hmem⟩
  · intro m
    refine ⟨fun hr hc => ?_, fun hr hc hl => ?_, fun hr hc hl => ?_, fun hr hc hl => ?_, fun hr hc => ?_, fun hc hr hj => ?_,
      fun stage off hc hj h8 hlen h0 h3 ho h => ?_⟩
    · rw [State.mbRun_recovery hr hc]
      exact ⟨rfl, rfl⟩
    · rw [State.mbRun_attest hr hc, if_neg (not_not.2 hl)]
      exact ⟨rfl, rfl⟩
    · rw [State.mbRun_attest hr hc, if_pos hl]
    · rw [State.mbRun_readMeas hr hc, if_neg (not_not.2 hl)]
      exact ⟨rfl, rfl⟩
    · rw [State.mbRun_unknown hr hc]
    · rw [State.mbRun_loadImage hc, State.loadChunk_jobOpen hr hj]
    · rw [State.mbRun_loadImage hc, State.loadChunk_kept hj h8 hlen h0 h3 ho h]
      exact ⟨rfl, rfl, rfl, rfl⟩

end

section
/-! What STRM, WAIT, OFENCE and ICINV answer once what they read, check and wait for goes through (R104, R125, R213, R256, R292). -/

namespace Sys2Proof.Machine

/-! ## Instructions whose effect ends in one way -/

section
variable {i : Instr} {s s' s1 : State} {tk : Nat} {t : Thread} {vals : List Word} {body : Body} (h : Ready i s tk t vals s')
include h

/-- Control continues in sequence (R270). -/
theorem run_seq (hb : body tk t vals s' = .seq s1) : run i s body = .next (s1.modThread tk fun u => u.past i) := by
  rw [run_ready h, hb]
  rfl

/-- Control continues in sequence, and a region starts there (R286). -/
theorem run_seqR (hb : body tk t vals s' = .seqR s1) : run i s body = .next (s1.modThread tk fun u => u.pastR i) := by
  rw [run_ready h, hb]
  rfl

/-- The instruction traps, with the stream positions given back (R9, R129). -/
theorem run_trap {c k : Nat} (hb : body tk t vals s' = .trap s1 c k) :
    run i s body = .next ((s1.restorePorts tk t.before).deliver tk c k (((s1.thread? tk).map (·.pc)).getD 0)) := by
  rw [run_ready h, hb]
  rfl

/-- The thread parks at the instruction and keeps what it has read (R9, R307). -/
theorem run_park {p : Park} (hb : body tk t vals s' = .park s1 p) : run i s body = .next (s1.modThread tk fun u =>
    { u.stepped with park := some p, resume_ := false, seatPt := true, mark := u.mark.or (some s1.seq), held := some ⟨vals, t.before⟩ }) := by
  rw [run_ready h, hb]
  rfl

end

/-! ## Parts of an effect -/

/-- A part that goes through, before what goes on, is as if it were not there. -/
theorem Through.goesOn {α : Type} {p : (α → State → Res) → Res} {v : α} {s : State} (h : Through p v s) {k : α → State → Res} {r : Res}
    (hk : k v s = r) (hr : r.GoesOn) : p k = r := by
  rw [h k (hk ▸ hr), hk]

/-- The same for a part that gives no value. -/
theorem Passes.goesOn {p : (State → Res) → Res} {s : State} (h : Passes p s) {k : State → Res} {r : Res} (hk : k s = r) (hr : r.GoesOn) :
    p k = r := by
  rw [h k (hk ▸ hr), hk]

section
variable {s s' : State} {tk : Nat} {t : Thread} {va : Word} {n kind : Nat} {rd wr : Bool} {l : Loc} {k : Loc → State → Res}
  (h : Reaches s tk t va n kind rd wr l s')
include h

/-- The same for an access. -/
theorem Reaches.goesOn {r : Res} (hk : k l s' = r) (hr : r.GoesOn) : checkedAccess tk t va n kind rd wr s k = r := by
  rw [checkedAccess_ready h k (hk ▸ hr), hk]

/-- An instruction that parks after an access keeps the place that it has checked, if it did check it now (R57, R112). -/
theorem Reaches.parks {s1 : State} {p : Park} (hk : k l s' = .park s1 p) : checkedAccess tk t va n kind rd wr s k =
    .park (if (t.places.find? fun p => p.1 == va).isNone then s1.modThread tk fun u => { u with places := u.places ++ [(va, l)] } else s1) p := by
  have hwatch : watchedAccess t l n rd wr s' k = .park s1 p := by rw [watchedAccess_ready h.unwatched h.here, hk]
  unfold checkedAccess placeAccess
  rcases h.checks with ⟨hnew, haccess⟩ | ⟨hkept, rfl⟩
  · rw [hnew]
    dsimp only
    rw [haccess]
    dsimp only
    rw [hwatch]
    rfl
  · rw [hkept]
    exact hwatch

end

/-! ## STRM (R125) -/

/-- STRM of a descriptor that R125 does not refuse writes the old position back, then binds the port. -/
theorem execStrm_binds {o : OpI 4} {s s0 s1 s2 : State} {tk : Nat} {t : Thread} {va : Word} {bs : List Byte} {b : PortBind} {code : Nat}
    (hr : Ready (.strm o) s tk t [va] s0) (ha : o.a ≠ .z) (hcard : Through (readCard tk t 4 va s0) bs s1) (hcode : field bs 24 1 = code)
    (hb : b = { base := Word.ofN (field bs 0 8), stride := Word.ofN (field bs 8 8), count := field bs 16 4,
                pos := field bs 20 4, code := (Word.ofN code).setWidth 8, desc := va })
    (hform : code < 16) (hzero : zeroField bs 25 7 = true) (hknown : tagKnown b.base = true) (htag : bits b.base.toNat 63 56 ≠ 0xF4)
    (hbase : b.base.toNat % 2 ^ (code % 4) = 0) (hstride : b.stride.toNat % 2 ^ (code % 4) = 0) (hpos : b.pos ≤ b.count)
    (hback : Passes (writeBack tk t (((s0.thread? tk).getD t).ports.getD o.n.1 {}).bind s1) s2) :
    execStrm o s = .next ((s2.bindPort tk o.n.1 (some b)).modThread tk fun u => u.past (.strm o)) := by
  subst hb hcode
  refine run_seq hr ?_
  rw [if_neg ha]
  refine hcard.goesOn ?_ trivial
  have hwf : field bs 24 1 / 16 = 0 := Nat.div_eq_of_lt hform
  rw [if_neg (by simp [hwf, hzero]), if_neg (by simpa [hknown] using htag), if_neg (by simpa using ⟨hbase, hstride⟩), if_neg (Nat.not_lt.2 hpos)]
  exact hback.goesOn rfl trivial

/-- STRM with z for its source writes the old position back, then unbinds the port. -/
theorem execStrm_unbinds {o : OpI 4} {s s0 s1 s2 : State} {tk : Nat} {t : Thread} {va : Word} (hr : Ready (.strm o) s tk t [va] s0) (ha : o.a = .z)
    (hout : WentOut s0 tk s1) (hback : Passes (writeBack tk t (t.ports.getD o.n.1 {}).bind s1) s2) :
    execStrm o s = .next ((s2.bindPort tk o.n.1 none).modThread tk fun u => u.past (.strm o)) := by
  refine run_seq hr ?_
  rw [if_pos ha, afterOut_ready hout]
  exact hback.goesOn rfl trivial

/-! ## WAIT (R104, R268) -/

section
variable {o : OpX} {s s0 s1 s2 s3 : State} {tk : Nat} {t : Thread} {a v : Word} {l : Loc} (hr : Ready (.wait o) s tk t [a, v] s0)
  (hout : WentOut s0 tk s1) (ha : Reaches s1 tk t a 8 0 false false l s2) (hs3 : s2.orderAtHome (s2.ckOf t.uid) tk l 8 = s3)
  (hok : s3.locErr l 8 true = none)
include hr hout ha hs3 hok

/-- WAIT of a counter that has reached its target is an acquire of the value that it has read. -/
theorem execWait_passes (hv : v.toNat ≤ s3.counterAt t.uid l) :
    execWait o s = .next ((((({ s3 with seq := s3.seq + 1 } : State).acquireAt tk t .dev s3.seq l 8 (s3.counterAt t.uid l)).refresh
      (s2.ckOf t.uid)).modThread tk Thread.dropPrefetched).modThread tk fun u => u.past (.wait o)) := by
  subst hs3
  refine run_seq hr ?_
  rw [afterOut_ready hout]
  refine ha.goesOn ?_ trivial
  dsimp only
  rw [hok]
  exact if_neg (Nat.not_lt.2 hv)

/-- WAIT of a counter below its target parks until it is read again, after a microsecond at the latest. -/
theorem execWait_parks (hv : s3.counterAt t.uid l < v.toNat) :
    execWait o s = .next ((if (t.places.find? fun p => p.1 == a).isNone then s3.modThread tk fun u => { u with places := u.places ++ [(a, l)] }
      else s3).modThread tk fun u => { u.stepped with park := some (.counter l v.toNat (s3.hub.tmr + 1000)), resume_ := false, seatPt := true,
                                                      mark := u.mark.or (some s3.seq), held := some ⟨[a, v], t.before⟩ }) := by
  subst hs3
  have hseq : ∀ (x : State) (c : Bool) (f : Thread → Thread), (if c then x.modThread tk f else x).seq = x.seq := by
    intro x c f
    cases c with
    | false => rfl
    | true => exact State.modThread_seq x tk f
  refine (run_park hr ?_).trans (by rw [hseq])
  rw [afterOut_ready hout]
  refine ha.parks ?_
  dsimp only
  rw [hok]
  exact if_pos hv

end

/-! ## OFENCE and ICINV (R213, R256, R292) -/

/-- OFENCE goes on once no earlier write of the group to a scratchpad waits; the thread's later ops come after those writes. -/
theorem execOfence_orders {o : OpG} {s s2 : State} {tk : Nat} {t : Thread} (hr : Ready (.ofence o) s tk t [] s)
    (hs2 : (let s1 := (s.threadsOf t.uid).foldl (fun x p => x.drainOut p.1) s
            s1.performWhere (s1.ckOf t.uid) fun p => p.tk / 1024 == t.uid && p.loc.isScratch) = s2)
    (hwaits : s2.groupWaits t.uid (t.mark.getD s.seq) = false) :
    execOfence o s = .next ((s2.modThread tk fun u => { u with after := { u.after with fence := t.mark.getD s.seq, facq := u.after.acq } }).modThread tk
      fun u => u.past (.ofence o)) := by
  subst hs2
  exact run_seq hr (if_neg (by rw [hwaits]; decide))

/-- ICINV of a global range drops the code there once the thread's own writes are performed. -/
theorem execIcinv_drops {o : OpX} {s s0 : State} {tk : Nat} {t : Thread} {a n : Word} (hr : Ready (.icinv o) s tk t [a, n] s0)
    (hglobal : tagGlobal a = true) (hown : (s0.drainOut tk).ownPerformed ((s0.drainOut tk).ckOf t.uid) tk = true) :
    execIcinv o s = .next (((s0.drainOut tk).dropCode ((s0.drainOut tk).spaceOf t.uid).1 a.toNat n.toNat).modThread tk
      fun u => u.pastR (.icinv o)) := by
  refine run_seqR hr ?_
  simp only [List.getD_cons_zero, hglobal]
  exact if_pos hown

end Sys2Proof.Machine

open Sys2Proof Sys2Proof.Machine

/-- Settles O43, instruction by instruction. -/
theorem streamsAndCountersComplete : Obligations.StreamsAndCountersComplete := by
  unfold Obligations.StreamsAndCountersComplete
  refine ⟨fun o s tk t va s0 bs s1 s2 hr ha hcard => ?_, fun o s tk t va s0 s1 s2 hr ha hout hback => execStrm_unbinds hr ha hout hback,
    fun o s tk t a v s0 s1 l s2 hr hout ha => ?_, fun o s tk t hr => ?_, fun o s tk t a n s0 hr hglobal => execIcinv_drops hr hglobal⟩
  · intro code b hform hzero hknown htag hbase hstride hpos hback
    exact execStrm_binds hr ha hcard rfl rfl hform hzero hknown htag hbase hstride hpos hback
  · intro s3 hok
    exact ⟨execWait_passes hr hout ha rfl hok, execWait_parks hr hout ha rfl hok⟩
  · exact execOfence_orders hr rfl

end

section
/-! What CPY, GATH and MXL answer once their checks go through and their queue has a place for them (R80, R96, R97, R102, R214). -/

namespace Sys2Proof.Machine

/-- No write of the thread to a tile declaration is in flight: the acceptance does not wait for one (R109, R141). -/
theorem declsReady_none {s : State} {tk : Nat} {t : Thread} (h : s.declsInFlight tk t.uid = false) (k : Res) : declsReady tk t s k = k := by
  unfold declsReady
  rw [h]
  exact if_neg (by decide)

/-! ## The acceptance of a card (R96) -/

/-- The op that a thread offers to a channel with a card, before it has its number (R96, R98). -/
def State.offeredOp (y : State) (tk : Nat) (t : Thread) (ch : Nat) (card : Card) : CopyOp :=
  { id := 0, tk := tk, uid := t.uid, ch := ch, seq := y.seq, card := card, decls := y.keptDecls t.uid, after := t.after }

/-- A queue has a place, and the thread was the first that waited there, or none waits. -/
def State.hasTurn (x : State) (ck ch used : Nat) (first : Bool) : Prop := used < 32 ∧ (first = true ∨ (x.core ck).waitq.getD ch [] = [])

section
variable {ck tk ch : Nat} {t : Thread} {first : Bool} {x : State} (h : x.hasTurn ck ch ((x.core ck).chans.getD ch []).length first)
include h

/-- A gather takes the last place of its channel. -/
theorem acceptCard_gath (c : GathCard) : acceptCard ck tk t ch (.gath c) first x =
    .seqR ((x.settleFor ck tk).acceptOp ck ((x.settleFor ck tk).offeredOp tk t ch (.gath c))) :=
  withPlace_ready h.1 h.2 _

/-- A copy takes the last place of its channel, from the row that its PROG names (R93). -/
theorem acceptCard_copy {c : CopyCard} {n : Nat} {z : State}
    (hprog : (x.settleFor ck tk).readProg (((x.settleFor ck tk).offeredOp tk t ch (.copy c)).agent ck) t.ftok c = (.ok n, z)) :
    acceptCard ck tk t ch (.copy c) first x =
      .seqR (z.acceptOp ck { (x.settleFor ck tk).offeredOp tk t ch (.copy c) with start := n }) := by
  unfold State.offeredOp at hprog
  unfold acceptCard
  rw [withPlace_ready h.1 h.2]
  dsimp only
  rw [hprog]
  rfl

/-- A copy whose PROG meets an error is accepted and ends with it (R93). -/
theorem acceptCard_copy_err {c : CopyCard} {e : Nat} {z : State}
    (hprog : (x.settleFor ck tk).readProg (((x.settleFor ck tk).offeredOp tk t ch (.copy c)).agent ck) t.ftok c = (.err e, z)) :
    acceptCard ck tk t ch (.copy c) first x = .seqR (z.acceptOp ck ((x.settleFor ck tk).offeredOp tk t ch (.copy c)) (some e)) := by
  unfold State.offeredOp at hprog
  unfold acceptCard
  rw [withPlace_ready h.1 h.2]
  dsimp only
  rw [hprog]
  rfl

end

/-! ## CPY and GATH -/

/-- Which channels a launch may use does not depend on who waits for them (R102). -/
@[simp] theorem State.channelOk_leaveQueue (s : State) (ck ch tk uid n : Nat) : (s.leaveQueue ck ch tk).2.channelOk uid n = s.channelOk uid n := rfl

section
variable {o : OpI 8} {s s0 : State} {tk : Nat} {t : Thread} {va : Word} (hdecls : s0.declsInFlight tk t.uid = false)
include hdecls

/-- CPY of a thread that offers a card for the first time: it reads the card, and the channel accepts the card or not. -/
theorem execCpy_reads {bs : List Byte} {s2 s3 : State} {fs : Fields} {r : State} (hr : Ready (.cpy o) s tk t [va] s0) (ho : t.offer = none)
    (hchan : (s0.leaveQueue (s0.ckOf t.uid) o.n.1 tk).2.channelOk t.uid o.n.1 = true)
    (hcard : Through (readCard tk t 8 va (s0.leaveQueue (s0.ckOf t.uid) o.n.1 tk).2) bs s2)
    (hfields : Through (readFields tk t va (· == 1) (· == 1) (field bs 62 1) 64 [] [] s2) fs s3)
    (hreason : s3.copyReason t.uid bs fs (copyCardOf bs fs.stat) = 0)
    (hacc : acceptCard (s0.ckOf t.uid) tk t o.n.1 (.copy (copyCardOf bs fs.stat)) (s0.leaveQueue (s0.ckOf t.uid) o.n.1 tk).1 s3 = .seqR r) :
    execCpy o s = .next (r.modThread tk fun u => u.pastR (.cpy o)) := by
  refine run_seqR hr ?_
  rw [declsReady_none hdecls, ho]
  dsimp only
  rw [hchan, if_neg (by decide)]
  refine hcard.goesOn (hfields.goesOn ?_ trivial) trivial
  rw [hreason]
  exact hacc

/-- CPY of a thread that has waited for its place offers the card that it keeps. -/
theorem execCpy_offers {c : Card} {r : State} (hr : Ready (.cpy o) s tk t [va] s0) (ho : t.offer = some (.card c))
    (hacc : acceptCard (s0.ckOf t.uid) tk t o.n.1 c (s0.leaveQueue (s0.ckOf t.uid) o.n.1 tk).1 (s0.leaveQueue (s0.ckOf t.uid) o.n.1 tk).2 = .seqR r) :
    execCpy o s = .next (r.modThread tk fun u => u.pastR (.cpy o)) := by
  refine run_seqR hr ?_
  rw [declsReady_none hdecls, ho]
  exact hacc

/-- GATH of a thread that offers a card for the first time: it reads the card, and the channel accepts the card or not. -/
theorem execGath_reads {bs : List Byte} {s2 : State} {r : State} (hr : Ready (.gath o) s tk t [va] s0) (ho : t.offer = none)
    (hchan : (s0.leaveQueue (s0.ckOf t.uid) o.n.1 tk).2.channelOk t.uid o.n.1 = true)
    (hcard : Through (readCard tk t 8 va (s0.leaveQueue (s0.ckOf t.uid) o.n.1 tk).2) bs s2)
    (hreason : s2.gathReason t.uid bs (gathCardOf bs) = 0)
    (hacc : acceptCard (s0.ckOf t.uid) tk t o.n.1 (.gath (gathCardOf bs)) (s0.leaveQueue (s0.ckOf t.uid) o.n.1 tk).1 s2 = .seqR r) :
    execGath o s = .next (r.modThread tk fun u => u.pastR (.gath o)) := by
  refine run_seqR hr ?_
  rw [declsReady_none hdecls, ho]
  dsimp only
  rw [hchan, if_neg (by decide)]
  refine hcard.goesOn ?_ trivial
  rw [hreason]
  exact hacc

/-- GATH of a thread that has waited for its place offers the card that it keeps. -/
theorem execGath_offers {c : Card} {r : State} (hr : Ready (.gath o) s tk t [va] s0) (ho : t.offer = some (.card c))
    (hacc : acceptCard (s0.ckOf t.uid) tk t o.n.1 c (s0.leaveQueue (s0.ckOf t.uid) o.n.1 tk).1 (s0.leaveQueue (s0.ckOf t.uid) o.n.1 tk).2 = .seqR r) :
    execGath o s = .next (r.modThread tk fun u => u.pastR (.gath o)) := by
  refine run_seqR hr ?_
  rw [declsReady_none hdecls, ho]
  exact hacc

/-- CPY on a channel that the launch may not use traps PRIV, whatever its card (R102). -/
theorem execCpy_priv (hr : Ready (.cpy o) s tk t [va] s0) (ho : t.offer = none) (hchan : s0.channelOk t.uid o.n.1 = false) :
    let s1 := (s0.leaveQueue (s0.ckOf t.uid) o.n.1 tk).2
    execCpy o s = .next ((s1.restorePorts tk t.before).deliver tk cPRIV 0 (((s1.thread? tk).map (·.pc)).getD 0)) := by
  refine run_trap hr ?_
  rw [declsReady_none hdecls, ho]
  dsimp only
  rw [State.channelOk_leaveQueue, hchan]
  rfl

/-- GATH on such a channel traps PRIV too. -/
theorem execGath_priv (hr : Ready (.gath o) s tk t [va] s0) (ho : t.offer = none) (hchan : s0.channelOk t.uid o.n.1 = false) :
    let s1 := (s0.leaveQueue (s0.ckOf t.uid) o.n.1 tk).2
    execGath o s = .next ((s1.restorePorts tk t.before).deliver tk cPRIV 0 (((s1.thread? tk).map (·.pc)).getD 0)) := by
  refine run_trap hr ?_
  rw [declsReady_none hdecls, ho]
  dsimp only
  rw [State.channelOk_leaveQueue, hchan]
  rfl

end

/-! ## MXL (R214) -/

/-- A checked job card is offered to the matrix engine. -/
def offerJob (ck tk : Nat) (t : Thread) (d : Dst) (first : Bool) (c : JobCard) (lock : Bool) (st : Option (List Byte)) (s : State) : Res :=
  withPlace ck 8 tk (s.core ck).jobs.length first .matrix (.job c lock st) s fun s =>
    let r := (s.settleFor ck tk).acceptJob ck tk t c lock st
    .seqR (r.2.putDst tk d r.1)

/-- A job takes the last place of the engine's queue, and its ticket goes to the destination. -/
theorem offerJob_ready {ck tk : Nat} {t : Thread} {d : Dst} {first : Bool} {c : JobCard} {lock : Bool} {st : Option (List Byte)} {x : State}
    (h : x.hasTurn ck 8 (x.core ck).jobs.length first) :
    offerJob ck tk t d first c lock st x =
      .seqR (((x.settleFor ck tk).acceptJob ck tk t c lock st).2.putDst tk d ((x.settleFor ck tk).acceptJob ck tk t c lock st).1) :=
  withPlace_ready h.1 h.2 _

section
variable {o : OpX} {s s0 : State} {tk : Nat} {t : Thread} {va : Word} (hr : Ready (.mxl o) s tk t [va] s0)
  (hdecls : s0.declsInFlight tk t.uid = false) (hdst : DstFree (s0.leaveQueue (s0.ckOf t.uid) 8 tk).2 tk o.d)
include hr hdecls hdst

/-- MXL of a thread that has waited for its place offers the job that it keeps. -/
theorem execMxl_offers {c : JobCard} {lock : Bool} {st : Option (List Byte)} {r : State} (ho : t.offer = some (.job c lock st))
    (hacc : offerJob (s0.ckOf t.uid) tk t o.d (s0.leaveQueue (s0.ckOf t.uid) 8 tk).1 c lock st (s0.leaveQueue (s0.ckOf t.uid) 8 tk).2 = .seqR r) :
    execMxl o s = .next (r.modThread tk fun u => u.pastR (.mxl o)) := by
  refine run_seqR hr ?_
  rw [declsReady_none hdecls, ho]
  dsimp only
  rw [checkDst_free hdst]
  exact hacc

section
variable {bs : List Byte} {s2 s3 : State} {fs : Fields} {r : State} (ho : t.offer = none)
  (hcard : Through (readCard tk t 32 va (s0.leaveQueue (s0.ckOf t.uid) 8 tk).2) bs s2)
  (hfields : Through (readFields tk t va (· == 0x10) (fun k => k == 0x10 && blockScaled (field bs 4 1)) (field bs 7 1) 256 [] [] s2) fs s3)
include ho hcard hfields

/-- MXL of a thread that offers a job for the first time reads its card, and under RESUME its status record; the engine then accepts the
job or not. -/
theorem execMxl_reads {c : JobCard} {lock resumes : Bool} {st : Option (List Byte)} {s4 : State} (hc : jobCardOf bs fs.ascale = c)
    (hlock : ((s3.jobOf t.uid).map (·.lock)).getD false = lock) (hres : (c.flag 8 && c.stat != 0 && statOk c.stat) = resumes)
    (hst : (resumes = false ∧ st = none ∧ s4 = s3) ∨ (resumes = true ∧ ∃ b, st = some b ∧ Through (readWords tk t 2 c.stat [] s3) b s4))
    (hreason : s4.jobReason t.uid bs fs c lock st = 0)
    (hacc : offerJob (s0.ckOf t.uid) tk t o.d (s0.leaveQueue (s0.ckOf t.uid) 8 tk).1 c lock st s4 = .seqR r) :
    execMxl o s = .next (r.modThread tk fun u => u.pastR (.mxl o)) := by
  subst hc hlock
  refine run_seqR hr ?_
  rw [declsReady_none hdecls, ho]
  dsimp only
  rw [checkDst_free hdst]
  refine hcard.goesOn (hfields.goesOn ?_ trivial) trivial
  rw [hres]
  obtain ⟨rfl, rfl, rfl⟩ | ⟨rfl, b, rfl, hwords⟩ := hst
  · rw [if_neg (by decide), hreason]
    exact hacc
  · rw [if_pos rfl]
    refine hwords.goesOn ?_ trivial
    rw [hreason]
    exact hacc

end
end

end Sys2Proof.Machine

open Sys2Proof Sys2Proof.Machine

/-- Settles O45: a card that is read or kept reaches the acceptance, which gives it its place. -/
theorem engineOpsAccepted : Obligations.EngineOpsAccepted := by
  unfold Obligations.EngineOpsAccepted
  intro free copies gathers multiplies
  refine ⟨fun o s tk t va s0 bs s2 fs s3 hr ho hd => ?_, fun o s tk t va s0 c hr ho hd => ?_, fun o s tk t va s0 bs s2 hr ho hd => ?_,
    fun o s tk t va s0 c hr ho hd => ?_, fun o s tk t va s0 bs s2 fs s3 st s4 hr ho hd => ?_, fun o s tk t va s0 c lock st hr ho hd => ?_,
    fun o s tk t va s0 hn hchan ho hd => ?_⟩
  · intro ck q hchan hcard hfields c hreason hfree
    exact ⟨fun n z hp => execCpy_reads hd hr ho hchan hcard hfields hreason (acceptCard_copy hfree hp),
      fun e z hp => execCpy_reads hd hr ho hchan hcard hfields hreason (acceptCard_copy_err hfree hp)⟩
  · intro ck q hfree
    exact ⟨fun n z hp => execCpy_offers hd hr ho (acceptCard_copy hfree hp), fun e z hp => execCpy_offers hd hr ho (acceptCard_copy_err hfree hp)⟩
  · intro ck q hchan hcard hreason hfree
    exact execGath_reads hd hr ho hchan hcard hreason (acceptCard_gath hfree _)
  · intro ck q hfree
    exact execGath_offers hd hr ho (acceptCard_gath hfree c)
  · intro ck q hdst hcard hfields c lock resumes hst hreason hfree
    exact execMxl_reads hr hd hdst ho hcard hfields rfl rfl rfl hst hreason (offerJob_ready hfree)
  · intro ck q hdst hfree
    exact execMxl_offers hr hd hdst ho (offerJob_ready hfree)
  · have hn : o.n.1 = 7 := congrArg Fin.val hn
    rw [← hn] at hchan ⊢
    exact ⟨fun hr => execCpy_priv hd hr ho hchan, fun hr => execGath_priv hd hr ho hchan⟩

end

section
/-! The steps of the copy channels: a place given, a row or an element transferred, the probe pass, the watchdog and the end of an op
(R81 to R84, R89 to R92, R95, R101 to R103). -/

namespace Sys2Proof.Machine

/-! ## ENGINE_QUEUE_ACCEPT and MATRIX_QUEUE_ACCEPT -/

/-- A free place of a channel lets the first thread that waits for it issue again (R81). -/
theorem execEngineQueueAccept_reissues {s : State} {ck ch tk : Nat} {q : List Nat} (hq : (s.core ck).waitq.getD ch [] = tk :: q) (hch : ch < 8)
    (hroom : ((s.core ck).chans.getD ch []).length < 32) (hwaits : s.waitsPlace tk = true) :
    execEngineQueueAccept ck ch s = .next (s.reissue tk) := by
  unfold execEngineQueueAccept
  dsimp only
  rw [hq]
  exact if_pos (by rw [decide_eq_true hch, decide_eq_true hroom, hwaits]; rfl)

/-- A free place of the matrix engine does the same (R214). -/
theorem execMatrixQueueAccept_reissues {s : State} {ck tk : Nat} {q : List Nat} (hq : (s.core ck).waitq.getD 8 [] = tk :: q)
    (hroom : (s.core ck).jobs.length < 32) (hwaits : s.waitsPlace tk = true) : execMatrixQueueAccept ck s = .next (s.reissue tk) := by
  unfold execMatrixQueueAccept
  dsimp only
  rw [hq]
  exact if_pos (by rw [decide_eq_true hroom, hwaits]; rfl)

/-! ## Whether data moves -/

/-- An op moves data: it is not on channel 7, or its probe pass is made (R102). -/
theorem CopyOp.moves {o : CopyOp} (h : o.ch ≠ 7 ∨ o.probed = true) : (o.ch == 7 && !o.probed) = false := by
  rcases h with h | h <;> simp [h]

/-! ## COPY_ROW_TRANSFER (R84, R101) -/

/-- The destinations of a row: the members of a multicast that have not failed, or the one of a plain copy, which has the number 8. -/
def State.rowDsts (s : State) (o : CopyOp) (c : CopyCard) (row : Nat) : List (Nat × Word) :=
  if c.mc then (c.members (s.esize o.uid) o.mfail).map fun m => (m, memberVa m (c.dstRow row)) else [(8, c.dstRow row)]

/-- The members that a row failed at are recorded, with the first cause that the op meets (R101). -/
def State.noteFailed (s : State) (ck id : Nat) (bad : List (Nat × Nat)) : State :=
  s.modOp ck id fun x => { x with mfail := bad.foldl (fun m y => m ||| 2 ^ y.1) x.mfail
                                  cause := if x.cause = 0 then (bad.map (·.2)).headD 0 else x.cause }

/-- A row whose source and destinations are resolved is read, written, and has then landed. -/
theorem execCopyRowTransfer_lands {s s1 s2 s4 : State} {ck id row : Nat} {o : CopyOp} {c : CopyCard} {src : List Run} {d : Deliver}
    (ho : s.op? ck id = some o) (hc : o.card = .copy c) (hrun : o.stopped = false) (hleft : row ∈ o.left) (hmoves : o.ch ≠ 7 ∨ o.probed = true)
    (hturn : s.mayBegin ck o = true) (hsrc : (s.openOp ck o).opSource ck o row (c.srcRow row) c.xb = (.ok src, s1))
    (hdst : s1.deliveries (o.agent ck) (AMap.get? o.toks row) c.xb (s1.rowDsts o c row) {} = (d, s2)) (hwait : d.wait = none)
    (hbad : c.mc = true ∨ d.bad = [])
    (hwrite : (s2.noteFailed ck id d.bad).writeAll (o.agent ck) o.writer ((s2.noteFailed ck id d.bad).readRuns (o.agent ck) src) d.runs = (true, s4)) :
    execCopyRowTransfer ck id row s = .next (s4.opLanded ck id row (d.runs.flatMap fun r => zipRuns row (2 * c.xb + 2) src r.2)) := by
  have hgoes : ¬ (!c.mc && !d.bad.isEmpty) = true := by rcases hbad with h | h <;> simp [h]
  unfold State.noteFailed at hwrite
  unfold State.rowDsts at hdst
  unfold execCopyRowTransfer
  rw [ho]
  dsimp only
  rw [hc]
  dsimp only
  rw [if_neg (by simp [hrun, hleft, CopyOp.moves hmoves, hturn]), hsrc]
  dsimp only
  rw [hdst]
  dsimp only
  rw [hwait]
  dsimp only
  rw [if_neg hgoes, hwrite]

/-! ## GATHER_ELEMENT (R89, R90) -/

/-- A gather that has begun does not begin again. -/
theorem State.gatherBegin_begun {o : CopyOp} (h : o.begun = true) (s : State) (ck : Nat) (c : GathCard) : s.gatherBegin ck o c = s := by
  unfold State.gatherBegin
  exact if_pos (by simp [h])

/-- An element of a gather that has begun is copied once its index is read, which the op keeps. -/
theorem execGatherElement_copies {s s1 s2 : State} {ck id el : Nat} {o o1 o2 : CopyOp} {c : GathCard} {rs : List Run}
    (ho : s.op? ck id = some o) (hc : o.card = .gath c) (hbegun : o.begun = true) (hmoves : o.ch ≠ 7 ∨ o.probed = true)
    (hturn : s.mayBegin ck o = true) (ho1 : (s.openOp ck o).op? ck id = some o1) (hbegun1 : o1.begun = true) (hrun : o1.stopped = false)
    (hleft : el ∈ o1.left) (hidx : (s.openOp ck o).opSource ck o1 el (c.idx + Word.ofN (4 * el)) 4 = (.ok rs, s1))
    (hs2 : (s1.modOp ck id fun x => { x with index := (x.index.filter fun y => y.1 != el) ++ [(el, (rs.headD { loc := .home 0, n := 0 }))] }) = s2)
    (ho2 : s2.op? ck id = some o2) :
    execGatherElement ck id el s = .next (s2.gatherCopy ck o2 c el (leVal (s1.readRuns (o1.agent ck) rs))) := by
  subst hs2
  unfold execGatherElement
  rw [ho]
  dsimp only
  rw [hc]
  dsimp only
  rw [if_neg (by simp [CopyOp.moves hmoves, hturn]), State.gatherBegin_begun hbegun, ho1]
  dsimp only
  rw [if_neg (by simp [hbegun1, hrun]), if_neg (by simp [hleft]), hidx]
  dsimp only
  rw [ho2]

/-- An element whose index is out of bounds fails with ADDR. -/
theorem State.gatherCopy_outOfBounds (s : State) (ck : Nat) (o : CopyOp) {c : GathCard} (el : Nat) {x : Nat} (h : c.bnd ≤ x) :
    s.gatherCopy ck o c el x = s.elementFails ck o.id el cADDR := by
  unfold State.gatherCopy
  exact if_pos h

/-- An element whose source, destination and mask byte are resolved is read, written, has then landed, and sets its mask bit. -/
theorem State.gatherCopy_lands {s s1 s2 s3 s4 s6 : State} {ck el x : Nat} {o : CopyOp} {c : GathCard} {src mask : List Run}
    {runs : List (Nat × List Run)} (hx : x < c.bnd) (hsrc : s.opSource ck o el (c.src + Word.ofN (x * c.srs)) c.rb = (.ok src, s1))
    (hdst : s1.deliveries (o.agent ck) (AMap.get? o.toks el) c.rb [(8, o.card.dstRow el)] {} = ({ runs := runs }, s2))
    (hmask : s2.maskRuns ck o c (el / 8) 1 true = (.ok mask, s3)) (hhere : s3.absentOf o.cleared mask = none)
    (hwrite : s3.writeAll (o.agent ck) o.writer (s3.readRuns (o.agent ck) src) runs = (true, s4))
    (hbit : let s5 := s4.opLanded ck o.id el (runs.flatMap fun r => zipRuns el (2 * c.rb + 2) src r.2)
            s5.maskWrite ck o mask (putBit (s5.readRuns (o.agent ck) mask) (el % 8) true) mask = (true, s6)) :
    s.gatherCopy ck o c el x = s6 := by
  unfold State.gatherCopy
  dsimp only at hbit ⊢
  rw [if_neg (Nat.not_le.2 hx), hsrc]
  dsimp only
  rw [hdst]
  dsimp only
  rw [hmask]
  dsimp only
  rw [hhere]
  dsimp only
  rw [hwrite]
  dsimp only
  rw [hbit]

/-- Where the op has cleared no line of the mask itself, writing mask bytes is writing their runs (R113). -/
theorem State.maskWrite_uncleared (s : State) (ck : Nat) {o : CopyOp} {rs : List Run} (bs : List Byte) (dep : List Run) (h : o.clearedOf rs = false) :
    s.maskWrite ck o rs bs dep = s.engWriteRuns (o.agent ck) o.writer rs bs := by
  unfold State.maskWrite
  rcases s.engWriteRuns (o.agent ck) o.writer rs bs with ⟨_ | _, s1⟩
  · rfl
  · rw [h]
    rfl

/-! ## PROBE_PASS (R102) -/

/-- The pages of n bytes from an address, each as a write or a read. -/
def pagesAs (va : Word) (n : Nat) (w : Bool) : List (Word × Bool) := (pagesOf (n + 1) va n).map fun v => (v, w)

/-- The pages that the probe pass of a copy pins: its counter, its status word, and its rows. -/
def CopyOp.probedPages (o : CopyOp) (c : CopyCard) : List (Word × Bool) :=
  (if c.ctr = 0 then [] else [(c.ctr, true)]) ++ (match c.stat with | some a => [(a, true)] | none => []) ++
    o.left.flatMap fun q => pagesAs (c.srcRow q) c.xb false ++ pagesAs (c.dstRow q) c.xb true

/-- A probe pass whose every page is pinned lets data move. -/
theorem execProbePass_copy {s s1 : State} {ck id : Nat} {o : CopyOp} {c : CopyCard} {rs : List Run} (ho : s.op? ck id = some o)
    (hc : o.card = .copy c) (hch : o.ch = 7) (hnew : o.probed = false) (hrun : o.stopped = false) (hturn : s.mayBegin ck o = true)
    (hpin : (s.openOp ck o).pinAll ck id (o.probedPages c) = (.ok rs, s1)) :
    execProbePass ck id s = .next ((s1.modOp ck id fun x => { x with probed := true }).opSettle ck id) := by
  have hpages : (s.openOp ck o).pinPages ck id (o.probedPages c) = (s1.modOp ck id fun x => { x with probed := true }).opSettle ck id := by
    unfold State.pinPages
    rw [hpin]
  unfold execProbePass
  rw [ho]
  dsimp only
  rw [if_neg (by simp [hch, hnew, hrun, hturn]), hc]
  exact congrArg Host.Outcome.next hpages

/-! ## WATCHDOG_TIMEOUT (R103) -/

/-- 4 ms of waiting for an absent line end an op, or of one whose data phase is over the wait for the line of its counter. -/
theorem execWatchdogTimeout_op {s : State} {ck id : Nat} {o : CopyOp} {w : LineWait} {ws : List LineWait} (ho : s.op? ck id = some o)
    (hwait : o.waitOn = w :: ws) (hlong : 4000000 ≤ o.waited + (s.hub.tmr - o.waitFrom)) :
    execWatchdogTimeout ck id s =
      let s1 := s.logEng (o.agent ck) (s.lineAddr o.uid w.uid w.line) cENGINE
      .next (if o.stopped then s1.modOp ck id fun x => { x with late := true, code := 2, cause := cENGINE, waitOn := [] }
        else s1.opStop ck id 2 cENGINE) := by
  unfold execWatchdogTimeout
  rw [ho]
  dsimp only
  rw [hwait]
  dsimp only
  rw [if_neg (Nat.not_lt.2 hlong)]
  exact (apply_ite _ _ _ _).symm

/-! ## ENGINE_OP_END (R91, R95) -/

section
variable {s : State} {ck id : Nat} {o : CopyOp} (ho : s.op? ck id = some o) (hover : o.stopped = true)
  (hhead : ((s.core ck).chans.getD o.ch []).head?.map (·.id) = some id) (hdel : o.card.csc ≠ 4 ∨ s.engDelivered ck o.ch = true)
include ho hover hhead hdel

omit ho in
/-- The op that may end is not refused its end. -/
theorem engineOpEnd_due : ¬ ((!o.stopped || decide (((s.core ck).chans.getD o.ch []).head?.map (·.id) ≠ some id) ||
    decide (o.card.csc = 4) && !s.engDelivered ck o.ch) = true) := by
  rw [hover, hhead]
  rcases hdel with h | h <;> simp [h]

/-- An op whose counter has been resolved ends. -/
theorem execEngineOpEnd_ends {c : CtrAt} (hc : o.ctr = some c) : execEngineOpEnd ck id s = .next (s.opEnd ck o c) := by
  unfold execEngineOpEnd
  rw [ho]
  dsimp only
  rw [if_neg (engineOpEnd_due hover hhead hdel), hc]

/-- An op resolves its counter once, and ends. -/
theorem execEngineOpEnd_resolves {c : CtrAt} {s1 : State} (hc : o.ctr = none)
    (hloc : s.counterLoc (o.agent ck) (AMap.get? o.toks keyCtr) o.card.ctr = (.is c, s1)) :
    execEngineOpEnd ck id s = .next ((s1.modOp ck id fun x => x.resolved c).opEnd ck (o.resolved c) c) := by
  unfold execEngineOpEnd
  rw [ho]
  dsimp only
  rw [if_neg (engineOpEnd_due hover hhead hdel), hc]
  dsimp only
  rw [hloc]

end

section
variable (s : State) (ck : Nat) (o : CopyOp)

/-- An op whose counter's line is present, or is waited for no longer, finishes with it (R113). -/
theorem State.opEnd_at {l : Loc} (h : s.counterWait o.late l = none) : s.opEnd ck o (.at_ l) = s.opFinish ck o (some l) := by
  unfold State.opEnd
  dsimp only
  rw [h]

/-- An op whose counter cannot be resolved ends with CODE 1 and that cause (R95). -/
theorem CopyOp.resolved_bad (e : Nat) : (o.resolved (.bad e)).codeOf = 1 ∧ (o.resolved (.bad e)).causeOf = e := ⟨rfl, rfl⟩

/-- The return of a handle changes no core. -/
theorem State.returnHandle_cores (uid h : Nat) : (s.returnHandle uid h).cores = s.cores := by
  unfold State.returnHandle
  split
  · rfl
  · split
    · exact State.modUnit_cores s uid _
    · rfl

/-- An op without a counter has left every channel of its core. -/
theorem State.opLeave_left : ∀ x ∈ ((s.opLeave ck o none).core ck).chans.flatten, x.id ≠ o.id := by
  have hchans : ((s.opLeave ck o none).core ck).chans = (s.core ck).chans.map fun ops => ops.filter fun x => x.id != o.id := by
    unfold State.opLeave State.keepOp
    dsimp only
    unfold State.core
    rw [State.returnHandle_cores]
    show ((State.modCore _ ck _).core ck).chans = _
    rw [State.core_modCore, State.core_modCore]
    rfl
  rw [hchans]
  intro x hx
  simp only [List.mem_flatten, List.mem_map] at hx
  obtain ⟨_, ⟨ops, -, rfl⟩, hx⟩ := hx
  simpa using (List.mem_filter.1 hx).2

/-- An op without a status word only leaves. -/
theorem State.opFinish_noStat (h : o.card.stat = none) (ctr : Option Loc) : s.opFinish ck o ctr = s.opLeave ck o ctr := by
  unfold State.opFinish
  rw [h, ite_self]

end

end Sys2Proof.Machine

open Sys2Proof Sys2Proof.Machine

/-- Settles O52, step by step of the channels. -/
theorem copyEngineEvents : Obligations.CopyEngineEvents := by
  unfold Obligations.CopyEngineEvents
  refine ⟨fun s ck ch tk q hq hch hroom hwaits => execEngineQueueAccept_reissues hq hch hroom hwaits,
    fun s ck id row o c src s1 d s2 s4 ho hc hrun hleft hmoves hturn hsrc hdst hwait hbad => ?_,
    fun s ck id el o c rs s1 o1 o2 ho hc hbegun hmoves hturn ho1 hbegun1 hrun hleft hidx => ?_, fun s ck o c el x => ⟨?_, ?_⟩,
    fun s ck id o c rs s1 ho hc hch hnew hrun hturn hpin => ?_, fun s ck id o w ws ho hwait hlong => execWatchdogTimeout_op ho hwait hlong,
    fun s ck id o s1 ho hover hhead hdel => ⟨fun c => execEngineOpEnd_ends ho hover hhead hdel, fun c => execEngineOpEnd_resolves ho hover hhead hdel⟩,
    fun s ck o => ⟨fun l => s.opEnd_at ck o, rfl, fun e => ⟨rfl, o.resolved_bad e⟩⟩,
    fun s ck o rs bs dep => s.maskWrite_uncleared ck bs dep, fun s ck o hstat => ?_⟩
  · exact execCopyRowTransfer_lands ho hc hrun hleft hmoves hturn hsrc hdst hwait hbad
  · exact execGatherElement_copies ho hc hbegun hmoves hturn ho1 hbegun1 hrun hleft hidx rfl
  · exact s.gatherCopy_outOfBounds ck o el
  · intro src s1 runs s2 mask s3 s4 hx hsrc hdst hmask hhere hwrite s5 s6 hbit
    exact State.gatherCopy_lands hx hsrc hdst hmask hhere hwrite hbit
  · exact execProbePass_copy ho hc hch hnew hrun hturn hpin
  · rw [s.opFinish_noStat ck o hstat]
    exact s.opLeave_left ck o

end

section
/-! The steps of the matrix engine, and the storage of a group given back (R103, R106, R201, R209, R211, R217, R219). -/

namespace Sys2Proof.Machine

/-! ## Contexts and block steps (R209, R211) -/

/-- The oldest job outside the contexts enters one that is free. -/
theorem execJobEnterContext_enters {s : State} {ck : Nat} {j : Job} (hroom : ((s.core ck).jobs.filter (·.ctx)).length < 4)
    (hj : ((s.core ck).jobs.find? fun j => !j.ctx) = some j) :
    execJobEnterContext ck s = .next (s.modMjob ck j.id fun x => { x with ctx := true }) := by
  unfold execJobEnterContext
  dsimp only
  rw [if_neg (Nat.not_le.2 hroom), hj]

/-- The one job that may run does a block step, whether or not its lease is used up. -/
theorem execBlockStep_one {s s1 : State} {ck : Nat} {j : Job} (hheld : s.held (ck / 8) = false) (hchg : (s.cluster (ck / 8)).changing = false)
    (hone : (s.core ck).runnable = [j]) (hstep : s.jobStep ck j = (true, s1)) :
    execBlockStep ck s = .next (s1.modCore ck fun c =>
      if c.run = some j.id then { c with leased := c.leased + 1 } else { c with run := some j.id, leased := 1 }) := by
  have hothers : [j].filter (fun x => x.uid != j.uid) = [] := by simp
  have htry : s.tryJobs ck [j] = s1.modCore ck fun c =>
      if c.run = some j.id then { c with leased := c.leased + 1 } else { c with run := some j.id, leased := 1 } := by
    unfold State.tryJobs
    rw [hstep]
  unfold execBlockStep
  dsimp only
  rw [if_neg (by rw [hheld, hchg]; decide), hone, List.find?_cons]
  cases (s.core ck).run == some j.id with
  | false => exact congrArg Host.Outcome.next htry
  | true =>
    dsimp only
    rw [hothers, List.nil_append, ite_self]
    exact congrArg Host.Outcome.next htry

section
variable {s s1 : State} {ck : Nat} {j : Job} {acc : List (Option Word)} {fell : Bool} (hseg : s.jobSegment ck j = .ok (acc, fell) s1)
include hseg

/-- A segment that is not the last of its tile is kept in the accumulators. -/
theorem State.jobStep_segment (hmore : j.seg + 1 < j.segs) : s.jobStep ck j = (true, s1.modMjob ck j.id fun x =>
    { x with seg := j.seg + 1, acc := acc, ord2 := x.ord2 || fell, waitOn := none, waited := 0 }) := by
  unfold State.jobStep
  dsimp only
  rw [hseg]
  exact if_pos hmore

/-- The last segment of a tile writes its C elements and moves on to the next tile. -/
theorem State.jobStep_tile {locs : List (Nat × Nat × Loc)} {s2 s3 : State} (hlast : j.segs ≤ j.seg + 1)
    (hlocs : s1.tileLocs ck j j.tile = .ok locs s2) (hwrite : s2.writeTile ck j j.tile acc locs = (true, s3)) :
    s.jobStep ck j = (true, s3.modMjob ck j.id fun x =>
      { x with tile := j.tile + 1, seg := 0, acc := [], steps := x.steps + j.segs, ord2 := x.ord2 || fell, waitOn := none, waited := 0,
               ended := j.tile + 1 ≥ j.tiles }) := by
  unfold State.jobStep
  dsimp only
  rw [hseg]
  dsimp only
  rw [if_neg (Nat.not_lt.2 hlast), hlocs]
  dsimp only
  rw [hwrite]

end

/-! ## JOB_END (R211, R217) -/

section
variable {s : State} {ck id : Nat} {j : Job} (hj : s.mjob? ck id = some j) (hended : j.ended = true)
  (hfirst : (((s.core ck).jobs.takeWhile fun x => x.id != id).all fun x => x.uid != j.uid) = true)
  (hdel : j.card.csc ≠ 4 ∨ s.engDelivered ck 8 = true)
include hj hended hfirst hdel

omit hj in
/-- The job that may end is not refused its end. -/
theorem jobEnd_due : ¬ ((!j.ended || !(((s.core ck).jobs.takeWhile fun x => x.id != id).all fun x => x.uid != j.uid) ||
    decide (j.card.csc = 4) && !s.engDelivered ck 8) = true) := by
  rw [hended, hfirst]
  rcases hdel with h | h <;> simp [h]

/-- A job whose counter has been resolved ends. -/
theorem execJobEnd_ends {c : CtrAt} (hc : j.ctr = some c) : execJobEnd ck id s = .next (s.jobEnd ck j c) := by
  unfold execJobEnd
  rw [hj]
  dsimp only
  rw [if_neg (jobEnd_due hended hfirst hdel), hc]

/-- A job resolves its counter once, and ends. -/
theorem execJobEnd_resolves {c : CtrAt} {s1 : State} (hc : j.ctr = none)
    (hloc : s.counterLoc (j.agent ck) (AMap.get? j.toks keyCtr) j.card.ctr = (.is c, s1)) :
    execJobEnd ck id s = .next ((s1.modMjob ck id fun x => x.resolved c).jobEnd ck (j.resolved c) c) := by
  unfold execJobEnd
  rw [hj]
  dsimp only
  rw [if_neg (jobEnd_due hended hfirst hdel), hc]
  dsimp only
  rw [hloc]

end

/-- A job whose counter's line is present, or is waited for no longer, finishes with it (R113). -/
theorem State.jobEnd_at (s : State) (ck : Nat) (j : Job) {l : Loc} (h : s.counterWait j.late l = none) :
    s.jobEnd ck j (.at_ l) = s.jobFinish ck j (some l) := by
  unfold State.jobEnd
  dsimp only
  rw [h]

/-- A job whose counter cannot be resolved ends with CODE 1 and that cause (R95, R217). -/
theorem Job.resolved_bad (j : Job) (e : Nat) : (j.resolved (.bad e)).code = 1 ∧ (j.resolved (.bad e)).cause = e := ⟨rfl, rfl⟩

/-! ## WATCHDOG_TIMEOUT (R103, R219) -/

/-- 4 ms of waiting for an absent line stop a job, or end the wait of an ended one for the line of its counter. -/
theorem execWatchdogTimeout_job {s : State} {ck id : Nat} {j : Job} {w : Nat × Nat} (ho : s.op? ck id = none) (hj : s.mjob? ck id = some j)
    (hwait : j.waitOn = some w) (hlong : 4000000 ≤ j.waited + (s.hub.tmr - j.waitFrom)) :
    execWatchdogTimeout ck id s =
      let s1 := s.logEng (j.agent ck) (s.lineAddr j.uid w.1 w.2) cENGINE
      .next (if j.ended then s1.modMjob ck id fun x => { x with late := true, code := 2, cause := cENGINE, waitOn := none }
        else s1.jobStop ck id 2 cENGINE) := by
  unfold execWatchdogTimeout
  rw [ho, hj]
  dsimp only
  rw [hwait]
  dsimp only
  rw [if_neg (Nat.not_lt.2 hlong)]
  exact (apply_ite _ _ _ _).symm

/-! ## HANDLE_RETURN and ALLOCATION_RELEASE (R106, R201) -/

/-- A releasing handle that nothing names returns to the free pool. -/
theorem State.returnHandle_eq {s : State} {uid h : Nat} {u : TUnit} {r : Resv} (hu : s.unit? uid = some u) (hr : AMap.get? u.resv h = some r) :
    s.returnHandle uid h = if r.releasing && !s.handleNamed uid h then s.setUnit uid { u with resv := AMap.del u.resv h } else s := by
  unfold State.returnHandle
  rw [hu, Option.bind_some, hr]
  dsimp only
  rw [State.modUnit_eq _ hu]

/-- An ended unit's scratchpad and operand buffer are free once their conditions hold. -/
theorem execAllocationRelease_ended {s : State} {uid : Nat} {u : TUnit} (hu : s.unit? uid = some u) (hend : u.stat = .ended) :
    let gone (m : TUnit) : Bool := m.stat == .ended && (AMap.get? s.hub.recs (unitKey m.lid m.idx)).isNone
    let free := ((upFrom 0 u.esize).filterMap fun k => (s.member uid k).bind s.unit?).all gone && !s.scratchNamed uid
    let buffer := gone u && u.resv.all fun r => !s.handleNamed uid r.1
    execAllocationRelease uid s = .next (s.setUnit uid { u with scrHeld := u.scrHeld && !free, obHeld := u.obHeld && !buffer }) := by
  intro gone free buffer
  unfold execAllocationRelease
  rw [hu]
  dsimp only
  rw [if_neg (not_not.2 hend), State.modUnit_eq _ hu]

end Sys2Proof.Machine

open Sys2Proof Sys2Proof.Machine

/-- Settles O53, step by step of the engine. -/
theorem matrixEngineEvents : Obligations.MatrixEngineEvents := by
  unfold Obligations.MatrixEngineEvents
  refine ⟨fun s ck tk q hq hroom hwaits => execMatrixQueueAccept_reissues hq hroom hwaits, fun s ck j hroom hj => execJobEnterContext_enters hroom hj,
    fun s ck j s1 hheld hchg hone hstep => execBlockStep_one hheld hchg hone hstep,
    fun s ck j acc fell s1 hseg => ⟨State.jobStep_segment hseg, fun locs s2 s3 => State.jobStep_tile hseg⟩,
    fun s ck id j s1 hj hended hfirst hdel => ⟨fun c => execJobEnd_ends hj hended hfirst hdel, fun c => execJobEnd_resolves hj hended hfirst hdel⟩,
    fun s ck j => ⟨fun l => s.jobEnd_at ck j, rfl, fun e => ⟨rfl, j.resolved_bad e⟩⟩,
    fun s ck id j w ho hj hwait hlong => execWatchdogTimeout_job ho hj hwait hlong, fun s uid h u r hu hr => ?_,
    fun s uid u hu hend => execAllocationRelease_ended hu hend⟩
  show execHandleReturn uid h s = _
  rw [execHandleReturn, State.returnHandle_eq hu hr]

end

section
/-! What fences, BND and the barrier instructions answer once what they wait for has come about (R128, R191 to R194, R250, R251, R255, R256). -/

namespace Sys2Proof.Machine

/-! ## Fences -/

/-- BND whose order at dev scope is met publishes and refreshes its core and acquires; a region starts after it (R251). -/
theorem execBnd_publishes {o : OpG} {s s1 : State} {tk : Nat} {t : Thread} (hr : Ready (.bnd o) s tk t [] s) (hp : Performed s tk t .dev s1) :
    execBnd o s = .next (((((s1.publish (s1.ckOf t.uid)).refresh (s1.ckOf t.uid)).acquire tk).modThread tk Thread.dropPrefetched).modThread tk
      fun u => u.pastR (.bnd o)) := by
  refine run_seqR hr ?_
  rw [whenPerformed_ready hp]

/-! ## Threads put and changed -/

/-- A change of a thread that has just been put. -/
theorem State.modThread_setThread (s : State) (tk : Nat) (t : Thread) (f : Thread → Thread) :
    (s.setThread tk t).modThread tk f = s.setThread tk (f t) := by
  rw [State.modThread_eq f (s.thread?_setThread tk t), State.setThread_setThread]

/-! ## Rounds -/

/-- A round ends when the arrivals, with the threads that have ended without an open arrival, reach the count (R192). -/
theorem State.checkRound_eq {s : State} {uid slot : Nat} {u : TUnit} {b : Bar} (hu : s.unit? uid = some u) (hb : u.bars[slot]? = some b) :
    let gone := ((s.threadsOf uid).filter fun p => !p.2.live && p.2.arr.getD slot (-1) != (b.r : Int)).length
    s.checkRound uid slot = if b.c ≤ b.n + gone then s.setUnit uid { u with bars := setAt u.bars slot { b with r := b.r + 1, n := 0 } } else s := by
  intro gone
  unfold State.checkRound
  rw [hu]
  dsimp only
  rw [hb]

/-! ## Arrivals and waits -/

/-- The state after a thread's arrival at a slot: its accesses are performed at group scope, the arrival is marked with the round and counted,
and the round is checked (R192, R193). -/
def State.arrive (s : State) (slot tk : Nat) (t : Thread) : State :=
  (((s.settle (s.ckOf t.uid) tk).modThread tk fun u => { u with arr := setAt u.arr slot (s.roundOf t.uid slot) }).modUnit t.uid
    fun u => { u with bars := match u.bars[slot]? with | some b => setAt u.bars slot { b with n := b.n + 1 } | none => u.bars }).checkRound t.uid slot

section
variable {slot tk : Nat} {s : State}

/-- A thread without an open arrival arrives once its UWRs are complete and its out-port elements have gone out (R141, R191, R192). -/
theorem barArrive_ready {s1 : State} {t : Thread} (hclosed : s.openArrival t slot = false) (huwr : s.uwrOpen tk = false) (hout : WentOut s tk s1)
    (k : State → Res) : barArrive slot tk t s k = k (s1.arrive slot tk t) := by
  unfold barArrive
  rw [hclosed, huwr, if_neg Bool.false_ne_true, if_neg Bool.false_ne_true, afterOut_ready hout]
  rfl

/-- A thread after a wait at a barrier that has ended: it has acquired, and fetches its stream elements again (R128, R192). -/
def Thread.waited (t : Thread) (seq : Nat) : Thread := { t.dropPrefetched with after := { t.after with acq := seq } }

/-- A wait without an open arrival is over (R192). -/
theorem barWait_ready {w : Thread} (hw : s.thread? tk = some w) (hclosed : s.openArrival w slot = false) (k : State → Res) :
    barWait slot tk s k = k (s.setThread tk (w.waited s.seq)) := by
  unfold barWait State.acquire
  rw [hw]
  dsimp only
  rw [hclosed, if_neg Bool.false_ne_true, State.modThread_eq _ hw, State.modThread_setThread]
  rfl

/-- The second part of BAR.SYNC: the wait, after which the arrival is no longer marked as done (R194). -/
theorem barWait_synced {w : Thread} (hw : s.thread? tk = some w) (hclosed : s.openArrival w slot = false) :
    (barWait slot tk s fun s => .seqR (s.modThread tk fun t => { t with arrDone := false })) =
      .seqR (s.setThread tk { w.waited s.seq with arrDone := false }) := by
  rw [barWait_ready hw hclosed, State.modThread_setThread]

end

/-! ## The instructions -/

/-- BAR.ARR arrives, and a region starts after it. -/
theorem execBarArr_arrives {o : OpS 16} {s s1 : State} {tk : Nat} {t : Thread} (hr : Ready (.barArr o) s tk t [] s)
    (hclosed : s.openArrival t o.n.1 = false) (huwr : s.uwrOpen tk = false) (hout : WentOut s tk s1) :
    execBarArr o s = .next ((s1.arrive o.n.1 tk t).modThread tk fun u => u.pastR (.barArr o)) :=
  run_seqR hr (barArrive_ready hclosed huwr hout _)

/-- BAR.WAIT without an open arrival goes on. -/
theorem execBarWait_waits {o : OpS 16} {s : State} {tk : Nat} {t : Thread} (hr : Ready (.barWait o) s tk t [] s)
    (hclosed : s.openArrival t o.n.1 = false) :
    execBarWait o s = .next (s.setThread tk ((t.waited s.seq).past (.barWait o))) :=
  (run_seq hr (barWait_ready hr.thread hclosed _)).trans (congrArg _ (State.modThread_setThread s tk _ _))

/-- BAR.SYNC that has arrived and waits no more goes on, and a region starts after it. -/
theorem execBarSync_waits {o : OpS 16} {s : State} {tk : Nat} {t : Thread} (hr : Ready (.barSync o) s tk t [] s) (hdone : t.arrDone = true)
    (hclosed : s.openArrival t o.n.1 = false) :
    execBarSync o s = .next (s.setThread tk ({ t.waited s.seq with arrDone := false }.pastR (.barSync o))) := by
  refine (run_seqR hr ?_).trans (congrArg _ (State.modThread_setThread s tk _ _))
  rw [if_pos hdone]
  exact barWait_synced hr.thread hclosed

/-- BAR.SYNC that arrives starts a region at itself with the arrival marked as done, and goes on where the round has moved on (R194). -/
theorem execBarSync_arrives {o : OpS 16} {s s1 s2 : State} {tk : Nat} {t w : Thread} (hr : Ready (.barSync o) s tk t [] s)
    (hdone : t.arrDone = false) (hclosed : s.openArrival t o.n.1 = false) (huwr : s.uwrOpen tk = false) (hout : WentOut s tk s1)
    (hs2 : ((s1.arrive o.n.1 tk t).modThread tk fun u => { u with arrDone := true }.startRegion u.pc) = s2) (hw : s2.thread? tk = some w)
    (hmoved : s2.openArrival w o.n.1 = false) :
    execBarSync o s = .next (s2.setThread tk ({ w.waited s2.seq with arrDone := false }.pastR (.barSync o))) := by
  subst hs2
  refine (run_seqR hr ?_).trans (congrArg _ (State.modThread_setThread _ tk _ _))
  rw [hdone, if_neg Bool.false_ne_true, barArrive_ready hclosed huwr hout]
  exact barWait_synced hw hmoved

/-- BAR.INIT with a count from 1 to the unit's threads sets it and checks the round (R191). -/
theorem execBarInit_sets {o : OpI 16} {s s0 : State} {tk : Nat} {t : Thread} {c : Word} {u : TUnit} {b : Bar} (hr : Ready (.barInit o) s tk t [c] s0)
    (hu : s0.unit? t.uid = some u) (hpos : 0 < c.toNat) (hmax : c.toNat ≤ u.g) (hb : u.bars[o.n.1]? = some b) :
    execBarInit o s = .next (((s0.setUnit t.uid { u with bars := setAt u.bars o.n.1 { b with c := c.toNat } }).checkRound t.uid o.n.1).modThread tk
      fun v => v.past (.barInit o)) := by
  refine run_seq hr ?_
  rw [List.getD_cons_zero, hu]
  dsimp only
  rw [if_neg (by simp; omega), hb]

end Sys2Proof.Machine

open Sys2Proof Sys2Proof.Machine

/-- Settles O28: the five fences are one effect with a scope, and BND is one at dev scope that starts a region. -/
theorem fencesComplete : Obligations.FencesComplete := by
  unfold Obligations.FencesComplete
  exact ⟨fun o _ _ _ _ hr hp => fence_next (i := .fenceGrp o) hr hp rfl, fun o _ _ _ _ hr hp => fence_next (i := .fenceCore o) hr hp rfl,
    fun o _ _ _ _ hr hp => fence_next (i := .fenceDie o) hr hp rfl, fun o _ _ _ _ hr hp => fence_next (i := .fenceDev o) hr hp rfl,
    fun o _ _ _ _ hr hp => fence_next (i := .fenceSys o) hr hp rfl, fun _ _ _ _ _ hr hp => execBnd_publishes hr hp⟩

/-- Settles O42, instruction by instruction, from the two parts arrive and wait. -/
theorem barriersComplete : Obligations.BarriersComplete := by
  unfold Obligations.BarriersComplete
  exact ⟨fun _ _ _ _ _ hr hclosed huwr hout => execBarArr_arrives hr hclosed huwr hout, fun _ _ _ _ hr hclosed => execBarWait_waits hr hclosed,
    fun _ _ _ _ _ _ hr hdone hclosed huwr hout hw hmoved => execBarSync_arrives hr hdone hclosed huwr hout rfl hw hmoved,
    fun _ _ _ _ hr hdone hclosed => execBarSync_waits hr hdone hclosed,
    fun _ _ _ _ _ _ _ _ hr hu hpos hmax hb => execBarInit_sets hr hu hpos hmax hb, fun _ _ _ _ _ hu hb => State.checkRound_eq hu hb⟩

end

section
/-! What HACC answers on a well-formed table whose descriptor is reached (R109, R247, R248). -/

namespace Sys2Proof.Machine

/-! ## Reading a table -/

/-- Where no engine op is in flight and no write of the core waits, a thread reads of a scratchpad byte what the scratchpad holds. -/
theorem State.seenByte_scratch {s : State} {ck : Nat} (hidle : s.Idle) (hpend : (s.core ck).pend = []) (tk seq spec uid off : Nat) (b : Byte) :
    s.seenByte ck tk seq spec (.scratch uid off) b = b := by
  unfold State.seenByte
  rw [State.inFlight_idle hidle, if_neg Bool.false_ne_true, hpend]
  rfl

/-- A word of a table is then that of the scratchpad. -/
theorem State.tableWord_eq {s : State} {t : Thread} (hidle : s.Idle) (hpend : (s.core (s.ckOf t.uid)).pend = []) (tk uid off : Nat) :
    s.tableWord t tk uid off = s.bytesAt 0 (.scratch uid off) 8 := by
  unfold State.tableWord State.seen State.bytesAt
  exact List.map_congr_left fun k _ => State.seenByte_scratch hidle hpend tk s.seq 0 uid (off + k) _

/-! ## Probing a table -/

/-- The offset of entry h of a table, counted round its capacity (R248). -/
def entryOff (base cap h : Nat) : Nat := base + 16 * (h % cap)

/-- An entry that a probe may read and change: no comparator matches, and its line is present (R112, R350). -/
structure State.EntryClear (s : State) (t : Thread) (uid off : Nat) : Prop where
  unread    : s.watchHit t (.scratch uid off) 16 true false = none
  unwritten : s.watchHit t (.scratch uid off) 16 false true = none
  present   : s.isAbsent (.scratch uid off) = false

section
variable {s : State} {t : Thread} {tk uid base cap k h : Nat}

section
variable (hclear : s.EntryClear t uid (entryOff base cap h))
include hclear

/-- An entry that holds another key is passed over. -/
theorem State.probe_passes (hother : leVal (s.tableWord t tk uid (entryOff base cap h)) ≠ k)
    (hfull : leVal (s.tableWord t tk uid (entryOff base cap h)) ≠ 0) (n : Nat) :
    s.probe t tk uid base cap k (n + 1) h = s.probe t tk uid base cap k n (h + 1) := by
  unfold entryOff at *
  rw [State.probe]
  dsimp only
  rw [hclear.unread]
  dsimp only
  rw [hclear.present, if_neg Bool.false_ne_true, if_neg (by simp [hother, hfull])]

/-- An entry that holds the key, or none, ends the search. -/
theorem State.probe_stops (hends : leVal (s.tableWord t tk uid (entryOff base cap h)) = k ∨ leVal (s.tableWord t tk uid (entryOff base cap h)) = 0)
    (n : Nat) : s.probe t tk uid base cap k (n + 1) h =
      if leVal (s.tableWord t tk uid (entryOff base cap h)) = k then .found (entryOff base cap h) else .empty (entryOff base cap h) := by
  unfold entryOff at *
  rw [State.probe]
  dsimp only
  rw [hclear.unread]
  dsimp only
  rw [hclear.present, if_neg Bool.false_ne_true, if_pos (by simpa using hends), hclear.unwritten]

end

/-- The entries of a table from one on may all be probed. -/
def State.TableClear (s : State) (t : Thread) (uid base cap h : Nat) : Prop := ∀ j, s.EntryClear t uid (entryOff base cap (h + j))

/-- The entry j places after another holds another key. -/
def State.Passed (s : State) (t : Thread) (tk uid base cap k h j : Nat) : Prop :=
  leVal (s.tableWord t tk uid (entryOff base cap (h + j))) ≠ k ∧ leVal (s.tableWord t tk uid (entryOff base cap (h + j))) ≠ 0

variable (hclear : s.TableClear t uid base cap h)
include hclear

/-- A search passes over all entries before the first that decides. -/
theorem State.probe_add (n : Nat) : ∀ j, (∀ i < j, s.Passed t tk uid base cap k h i) →
    s.probe t tk uid base cap k (j + n) h = s.probe t tk uid base cap k n (h + j) := by
  intro j
  induction j generalizing n with
  | zero => intro _; rw [Nat.zero_add, Nat.add_zero]
  | succ j ih =>
    intro hpassed
    obtain ⟨hother, hfull⟩ := hpassed j (Nat.lt_succ_self j)
    rw [Nat.add_assoc, Nat.add_comm 1 n, ih (n + 1) fun i hi => hpassed i (Nat.lt_succ_of_lt hi),
      State.probe_passes (hclear j) hother hfull n, Nat.add_assoc]

/-- A search that no entry decides finds nothing. -/
theorem State.probe_none {n : Nat} (hpassed : ∀ i < n, s.Passed t tk uid base cap k h i) : s.probe t tk uid base cap k n h = .none :=
  State.probe_add hclear 0 n hpassed

/-- The first entry that decides ends the search. -/
theorem State.probe_first {n j : Nat} (hj : j < n) (hpassed : ∀ i < j, s.Passed t tk uid base cap k h i)
    (hends : leVal (s.tableWord t tk uid (entryOff base cap (h + j))) = k ∨ leVal (s.tableWord t tk uid (entryOff base cap (h + j))) = 0) :
    s.probe t tk uid base cap k n h =
      if leVal (s.tableWord t tk uid (entryOff base cap (h + j))) = k then .found (entryOff base cap (h + j))
      else .empty (entryOff base cap (h + j)) := by
  obtain ⟨m, rfl⟩ := Nat.exists_eq_add_of_lt hj
  rw [Nat.add_assoc, State.probe_add hclear (m + 1) j hpassed, State.probe_stops (hclear j) hends]

end

/-! ## The table -/

/-- What the descriptor of a table has to keep, in a scratchpad of a size (R247). -/
structure TableOk (desc : List Byte) (size : Nat) : Prop where
  aligned  : field desc 0 4 % 16 = 0
  capacity : field desc 4 1 ≤ 12
  kind     : field desc 5 1 ≤ 1
  zeros    : zeroField desc 6 10 = true
  inside   : field desc 0 4 + 16 * 2 ^ field desc 4 1 ≤ size

/-- Such a descriptor is not refused. -/
theorem TableOk.accepted {desc : List Byte} {size : Nat} (h : TableOk desc size) :
    ¬(field desc 0 4 % 16 ≠ 0 || field desc 4 1 > 12 || field desc 5 1 > 1 || !zeroField desc 6 10 ||
      field desc 0 4 + 16 * 2 ^ field desc 4 1 > size) = true := by
  simp only [h.aligned, h.zeros, Nat.not_lt.2 h.capacity, Nat.not_lt.2 h.kind, Nat.not_lt.2 h.inside, ne_eq, not_true_eq_false,
    decide_false, Bool.or_false, Bool.not_true, Bool.false_eq_true, not_false_eq_true]

section
variable {o : HaccOp} {tk : Nat} {t : Thread} {k : Nat} {l m : Loc} {va : Word} {uid : Nat} {s s5 s6 : State} {desc : List Byte} {base cap off : Nat}
  (hs5 : (s.orderAtHome (s.ckOf t.uid) tk l 8).orderAtHome (s.ckOf t.uid) tk m 8 = s5)
  (hdesc : s5.seen (s.ckOf t.uid) tk s5.seq 0 l 8 none ++ s5.seen (s.ckOf t.uid) tk s5.seq 0 m 8 none = desc)
  (hok : TableOk desc (((s5.unit? uid).map (·.scrSize)).getD 0))
include hs5 hdesc hok

/-- Zero is the key of no entry. -/
theorem haccTable_zero : haccTable o tk t 0 l m va uid s = haccDone o tk l va 3 none s5 := by
  unfold haccTable
  dsimp only
  rw [hs5, hdesc, if_neg hok.accepted, if_pos rfl]

variable (hk : k ≠ 0) (hbase : field desc 0 4 = base) (hcap : 2 ^ field desc 4 1 = cap) (hs6 : s5.tableRaces (s.ckOf t.uid) tk uid base cap = s6)
include hk hbase hcap hs6

/-- A key that no probe finds leaves the table as it is. -/
theorem haccTable_none (hprobe : s6.probe t tk uid base cap k (min 8 cap) (haccHash k (field desc 4 1)) = .none) :
    haccTable o tk t k l m va uid s = haccDone o tk l va 2 none s6 := by
  unfold haccTable
  dsimp only
  rw [hs5, hdesc, if_neg hok.accepted, if_neg hk, hbase, hcap, hs6, hprobe]

/-- The operand is accumulated into the entry that holds the key. -/
theorem haccTable_found (hprobe : s6.probe t tk uid base cap k (min 8 cap) (haccHash k (field desc 4 1)) = .found off) :
    let v := haccSum (field desc 5 1) (leVal (s6.tableWord t tk uid (off + 8))) (t.reg ((dstRegs o.d).headD 0 + 1))
    haccTable o tk t k l m va uid s =
      haccDone o tk l va 0 (some v) ((s6.tableWrite tk uid off none v).forgetEntries uid (s5.racingEntries tk uid base cap)) := by
  unfold haccTable
  dsimp only
  rw [hs5, hdesc, if_neg hok.accepted, if_neg hk, hbase, hcap, hs6, hprobe]

/-- An empty entry takes the key and the operand. -/
theorem haccTable_empty (hprobe : s6.probe t tk uid base cap k (min 8 cap) (haccHash k (field desc 4 1)) = .empty off) :
    let x := t.reg ((dstRegs o.d).headD 0 + 1)
    haccTable o tk t k l m va uid s =
      haccDone o tk l va 1 (some x) ((s6.tableWrite tk uid off (some k) x).forgetEntries uid (s5.racingEntries tk uid base cap)) := by
  unfold haccTable
  dsimp only
  rw [hs5, hdesc, if_neg hok.accepted, if_neg hk, hbase, hcap, hs6, hprobe]

end

/-! ## Reaching a table -/

/-- The end of a HACC: its record of an outstanding load, and with W = 1 the acquire before it (R237, R248). -/
def haccEnded (o : HaccOp) (tk : Nat) (l : Loc) (va : Word) (status : Nat) (v : Option Word) (s : State) : State :=
  let y := if o.ar then s.acquire tk else s
  y.addLoad tk { idx := 0, d := (dstRegs o.d).headD 0, pair := true, size := 16, loc := l, va := va, tloc := 0, seq := y.seq,
                 res := some (Word.ofN status), res2 := v, block := o.ar }

/-- Where the words of a descriptor are unwatched and present, they are read. -/
theorem haccWatched_ready {s : State} {t : Thread} {l m : Loc}
    (h : ∀ x, (x = l ∨ x = m) → s.watchHit t x 8 true false = none ∧ s.isAbsent x = false) (k : State → Res) : haccWatched t l m s k = k s := by
  obtain ⟨hwatchL, hereL⟩ := h l (.inl rfl)
  obtain ⟨hwatchM, hereM⟩ := h m (.inr rfl)
  unfold haccWatched
  rw [hwatchL, hwatchM]
  exact (presentAccess_here hereL _).trans (presentAccess_here hereM _)

/-- A HACC whose checks go through and whose release is met ends as its table says. -/
theorem execAtomHacc_ends {o : HaccOp} {s s0 s1 s2 s3 s4 s' : State} {tk : Nat} {t : Thread} {a k : Word} {l m : Loc} {st : Nat} {v : Option Word}
    (hr : Ready (.atomHacc o) s tk t [a, k] s0) (hspec : s0.speculative t.uid = false) (hout : WentOut s0 tk s1) (halign : a.toNat % 16 = 0)
    (hl : Placed s1 tk t a 8 2 l s2) (hm : Placed s2 tk t (a + 8) 8 2 m s3) (htag : bits a.toNat 63 56 = 0xF0)
    (hclear : ∀ x, (x = l ∨ x = m) → s3.watchHit t x 8 true false = none ∧ s3.isAbsent x = false) (hrel : Released o.ar s3 tk t .core l s4)
    (htable : haccTable o tk t k.toNat l m a t.uid s4 = haccDone o tk l a st v s') :
    execAtomHacc o s = .next ((haccEnded o tk l a st v s').modThread tk fun u => u.pastR (.atomHacc o)) := by
  have hplaced : haccPlaced o tk t [a, k] l m s3 = .seqR (haccEnded o tk l a st v s') := by
    unfold haccPlaced
    rw [List.getD_cons_zero, List.getD_cons_succ, List.getD_cons_zero, if_neg (not_not.2 htag), haccWatched_ready hclear, atomRelease_ready hrel, htable]
    rfl
  have hplaceM : placeAccess tk t (a + 8) 8 2 s2 (haccPlaced o tk t [a, k] l) = .seqR (haccEnded o tk l a st v s') := by
    rw [placeAccess_ready hm _ (hplaced ▸ trivial), hplaced]
  refine run_seqR hr ?_
  rw [List.getD_cons_zero, hspec, if_neg Bool.false_ne_true, afterOut_ready hout, if_neg (by simp [halign])]
  refine (placeAccess_ready hl _ ?_).trans hplaceM
  exact hplaceM ▸ trivial

end Sys2Proof.Machine

open Sys2Proof Sys2Proof.Machine

/-- Settles O27: a HACC that reaches its table ends with what the first deciding probe says. -/
theorem hashAccumulate : Obligations.HashAccumulate := by
  unfold Obligations.HashAccumulate
  refine ⟨fun o s tk t a k s0 s1 l m s2 s3 s4 hr hspec hout halign hl hm htag hclear hrel => ?_,
    fun s t tk uid off hidle hpend => State.tableWord_eq hidle hpend tk uid off⟩
  intro ck s5 desc base cap vt haligned hcap hvt hzeros hinside done raced s6 x at_ key hentries
  have hok : TableOk desc (((s5.unit? t.uid).map (·.scrSize)).getD 0) := ⟨haligned, hcap, hvt, hzeros, hinside⟩
  have hend {st v s'} (htable : haccTable o tk t k.toNat l m a t.uid s4 = haccDone o tk l a st v s') : exec (.atomHacc o) s = done s' st v :=
    execAtomHacc_ends hr hspec hout halign hl hm htag hclear hrel htable
  have htable : s6.TableClear t t.uid base cap (haccHash k.toNat (field desc 4 1)) := fun j => by
    obtain ⟨hread, hwrite, hhere⟩ := hentries j
    exact ⟨hread, hwrite, hhere⟩
  have hk0 : k ≠ 0 → k.toNat ≠ 0 := fun h h0 => h (BitVec.eq_of_toNat_eq h0)
  refine ⟨?_, fun hk hall => hend ?_, fun j hj hk hbefore => ⟨fun hkey => hend ?_, fun hkey => hend ?_⟩⟩
  · rintro rfl
    exact hend (haccTable_zero rfl rfl hok)
  · exact haccTable_none rfl rfl hok (hk0 hk) rfl rfl rfl (State.probe_none htable hall)
  · exact haccTable_found rfl rfl hok (hk0 hk) rfl rfl rfl ((State.probe_first htable hj hbefore (.inl hkey)).trans (if_pos hkey))
  · refine haccTable_empty rfl rfl hok (hk0 hk) rfl rfl rfl ((State.probe_first htable hj hbefore (.inr hkey)).trans (if_neg ?_))
    exact fun h => hk0 hk (h.symm.trans hkey)

end

section
/-! The values of the integer instructions, the special registers, uniforms, and the results that depend on the thread (R136, R138 to R141,
R143, R177). -/

namespace Sys2Proof.Machine

/-! ## Arithmetic of words -/

/-- A product of words is the product modulo 2^64. -/
theorem Word.mul_ofN (x y : Word) : x * y = Word.ofN (x.toNat * y.toNat) :=
  BitVec.eq_of_toNat_eq (by rw [BitVec.toNat_mul, BitVec.toNat_ofNat])

/-- A product added to an accumulator. -/
theorem Word.mac_ofN (x y acc : Word) : acc + x * y = Word.ofN (acc.toNat + x.toNat * y.toNat) :=
  BitVec.eq_of_toNat_eq (by rw [BitVec.toNat_add, BitVec.toNat_mul, BitVec.toNat_ofNat, Nat.add_mod_mod])

/-- Sign extension from 32 bits sees a number modulo 2^32. -/
theorem sextN_32_ofN_congr {m n : Nat} (h : m ≡ n [MOD 2 ^ 32]) : sextN (Word.ofN m) 32 = sextN (Word.ofN n) 32 :=
  sextN_32_congr (by rw [BitVec.toNat_ofNat, BitVec.toNat_ofNat, Nat.mod_mod_of_dvd _ (by decide), Nat.mod_mod_of_dvd _ (by decide)]; exact h)

/-- The low half of a product is that of the product of the low halves. -/
theorem sextN_32_mul (x y : Word) : sextN (x * y) 32 = sextN (Word.ofN (x.toNat % 2 ^ 32 * (y.toNat % 2 ^ 32))) 32 := by
  rw [Word.mul_ofN]
  exact sextN_32_ofN_congr ((Nat.mod_modEq _ _).mul (Nat.mod_modEq _ _)).symm

/-- The same with an accumulator. -/
theorem sextN_32_mac (x y acc : Word) :
    sextN (acc + x * y) 32 = sextN (Word.ofN (acc.toNat % 2 ^ 32 + x.toNat % 2 ^ 32 * (y.toNat % 2 ^ 32))) 32 := by
  rw [Word.mac_ofN]
  exact sextN_32_ofN_congr ((Nat.mod_modEq _ _).add ((Nat.mod_modEq _ _).mul (Nat.mod_modEq _ _))).symm

/-- The low half of a difference is that of the difference of the low halves. -/
theorem sextN_32_sub (x y : Word) :
    sextN (x - y) 32 = sextN (BitVec.ofInt 64 ((x.toNat % 2 ^ 32 : Nat) - (y.toNat % 2 ^ 32 : Nat))) 32 :=
  sextN_32_congr (by rw [BitVec.toNat_sub, BitVec.toNat_ofInt]; omega)

/-- The complement of a word. -/
theorem Word.not_ofN (a : Word) : ~~~a = Word.ofN (2 ^ 64 - 1 - a.toNat) :=
  BitVec.eq_of_toNat_eq (by rw [BitVec.toNat_not, BitVec.toNat_ofNat]; omega)

/-- The negation of a word, by its unsigned value. -/
theorem Word.neg_ofInt (a : Word) : 0 - a = BitVec.ofInt 64 (-(a.toNat : Int)) :=
  (Word.sub_ofInt 0 a).trans (congrArg _ (Int.zero_sub _))

/-- The absolute value of a word. -/
theorem Word.abs_ofInt (a : Word) : (if a.toInt ≥ 0 then a else 0 - a) = BitVec.ofInt 64 (if a.toInt ≥ 0 then a.toInt else -a.toInt) := by
  split
  · rw [BitVec.ofInt_toInt]
  · rw [BitVec.ofInt_neg, BitVec.ofInt_toInt, zero_sub]

/-! ## Bits of words (R138) -/

/-- The ones of a word are counted among its 64 positions. -/
theorem popCount_eq_countP (a : Word) : popCount a = Word.ofN ((List.range 64).countP fun i => a.getLsbD i) := by
  rw [popCount, oneBits, upFrom_eq, List.countP_eq_length_filter, List.range_eq_range']

/-- The last of the ones of a nonzero word is its highest. -/
theorem oneBits_getLast {a : Word} (h : a ≠ 0) :
    ∃ m, (oneBits a).getLast? = some m ∧ m < 64 ∧ a.getLsbD m = true ∧ ∀ i, m < i → a.getLsbD i = false := by
  obtain ⟨below, m, he⟩ := (oneBits a).eq_nil_or_concat.resolve_left (oneBits_ne_nil a h)
  have hsorted := oneBits_sorted a
  rw [he, List.concat_eq_append, List.pairwise_append] at hsorted
  obtain ⟨-, -, hbelow⟩ := hsorted
  obtain ⟨hm, hone⟩ := (mem_oneBits a m).1 (by simp [he])
  refine ⟨m, by simp [he], hm, hone, fun i hi => Bool.eq_false_iff.2 fun hbit => ?_⟩
  have hmem : i ∈ below.concat m := he ▸ (mem_oneBits a i).2 ⟨BitVec.lt_of_getLsbD hbit, hbit⟩
  rw [List.concat_eq_append, List.mem_append, List.mem_singleton] at hmem
  rcases hmem with hmem | rfl
  · exact absurd (hbelow i hmem m (List.mem_singleton_self m)) (by omega)
  · omega

/-- The first of the ones of a nonzero word is its lowest. -/
theorem oneBits_head {a : Word} (h : a ≠ 0) :
    ∃ m, (oneBits a).head? = some m ∧ m < 64 ∧ a.getLsbD m = true ∧ ∀ i, i < m → a.getLsbD i = false := by
  obtain ⟨m, above, he⟩ := List.exists_cons_of_ne_nil (oneBits_ne_nil a h)
  have hsorted := oneBits_sorted a
  rw [he, List.pairwise_cons] at hsorted
  obtain ⟨habove, -⟩ := hsorted
  obtain ⟨hm, hone⟩ := (mem_oneBits a m).1 (by simp [he])
  refine ⟨m, by rw [he]; rfl, hm, hone, fun i hi => Bool.eq_false_iff.2 fun hbit => ?_⟩
  have hmem : i ∈ m :: above := he ▸ (mem_oneBits a i).2 ⟨by omega, hbit⟩
  rcases List.mem_cons.1 hmem with rfl | hmem
  · omega
  · exact absurd (habove i hmem) (by omega)

/-- CLZ counts the positions above the highest one. -/
theorem leadingZeros_spec {a : Word} (h : a ≠ 0) : (leadingZeros a).toNat ≤ 63 ∧ a.getLsbD (63 - (leadingZeros a).toNat) = true ∧
    ∀ i, 63 - (leadingZeros a).toNat < i → a.getLsbD i = false := by
  obtain ⟨m, hlast, hm, hone, habove⟩ := oneBits_getLast h
  have hval : (leadingZeros a).toNat = 63 - m := by
    rw [leadingZeros, hlast, Option.getD_some, if_neg h, BitVec.toNat_ofNat]
    omega
  have hpos : 63 - (leadingZeros a).toNat = m := by omega
  exact ⟨by omega, hpos ▸ hone, fun i hi => habove i (hpos ▸ hi)⟩

/-- CTZ is the position of the lowest one. -/
theorem trailingZeros_spec {a : Word} (h : a ≠ 0) : (trailingZeros a).toNat ≤ 63 ∧ a.getLsbD (trailingZeros a).toNat = true ∧
    ∀ i, i < (trailingZeros a).toNat → a.getLsbD i = false := by
  obtain ⟨m, hhead, hm, hone, hbelow⟩ := oneBits_head h
  have hval : (trailingZeros a).toNat = m := by
    rw [trailingZeros, hhead, Option.getD_some, BitVec.toNat_ofNat]
    omega
  rw [hval]
  exact ⟨by omega, hone, hbelow⟩

/-- BREV puts bit 63 - i at i. -/
theorem getLsbD_bitReverse (a : Word) {i : Nat} (hi : i < 64) : (bitReverse a).getLsbD i = a.getLsbD (63 - i) := by
  rw [bitReverse, BitVec.getLsbD_reverse, BitVec.getMsbD_eq_getLsbD, decide_eq_true hi, Bool.true_and]

/-- BSWAP puts byte 7 - k at k. -/
theorem getLsbD_byteSwap (a : Word) {i : Nat} (hi : i < 64) : (byteSwap a).getLsbD i = a.getLsbD (8 * (7 - i / 8) + i % 8) := by
  have hbyte : (leBytes 8 a.toNat).reverse.getD (i / 8) 0 = BitVec.ofNat 8 (a.toNat / 2 ^ (8 * (7 - i / 8))) := by
    rw [List.getD_eq_getElem?_getD, List.getElem?_reverse (by rw [leBytes_length]; omega), leBytes_length, ← List.getD_eq_getElem?_getD,
      show 8 - 1 - i / 8 = 7 - i / 8 from rfl, getD_leBytes 8 _ _ (by omega), Nat.pow_mul]
  rw [byteSwap, BitVec.getLsbD_ofNat, decide_eq_true hi, Bool.true_and, testBit_leVal, hbyte, BitVec.getLsbD_ofNat,
    decide_eq_true (by omega), Bool.true_and, Nat.testBit_div_two_pow, Nat.add_comm]
  rfl

/-! ## Results that depend on the thread -/

section
variable {i : Instr} {s s' : State} {tk : Nat} {t : Thread} {vals : List Word} {body : Body} {off : Nat → Thread → State → Res}
  (h : Ready i s tk t vals s')
include h

/-- An instruction whose effect is that of a result instruction, as it runs, delivers the result (R132). -/
theorem delivers_of_body (f : List Word → Word) (he : exec i s = run i s body off)
    (hb : body tk t vals s' = resultBody (instrInfo i) f tk t vals s') : Delivers i s tk t s' (f vals) :=
  delivers_of h f off (by rw [he, run_ready h, run_ready h, hb])

/-- An instruction whose effect is a change of its thread. -/
theorem run_changesThread {u : Thread} {f : Thread → Thread} (hu : s'.thread? tk = some u) (hb : body tk t vals s' = .seq (s'.modThread tk f)) :
    run i s body = .next (s'.setThread tk ((f u).past i)) := by
  rw [run_seq h hb, State.modThread_eq f hu, State.modThread_setThread]

end

/-- SEL delivers the source that its guard selects (R143). -/
theorem sel_delivers {o : Op3} {s s' : State} {tk : Nat} {t : Thread} {a b : Word} (h : Ready (.sel o) s tk t [a, b] s') :
    Delivers (.sel o) s tk t s' (if t.guard (some o.g) then a else b) :=
  delivers_of_body h (fun v => if t.guard (some o.g) then v.getD 0 0 else v.getD 1 0) (off := fun _ _ s => .seq s) rfl rfl

/-- MOVS delivers a special register as it stands before the instruction (R139). -/
theorem movs_delivers {o : MovsOp} {s s' : State} {tk : Nat} {t : Thread} {vals : List Word} (h : Ready (.movs o) s tk t vals s') :
    Delivers (.movs o) s tk t s' (s.special t o.id.1) :=
  delivers_of_body h (fun _ => s.special t o.id.1) (off := fun _ _ s => .seq s) rfl rfl

/-- URD delivers a uniform that no write of the thread is in flight to (R140, R141). -/
theorem urd_delivers {o : Op2} {s s' : State} {tk : Nat} {t : Thread} {a : Word} {x : TUnit} (h : Ready (.urd o) s tk t [a] s')
    (ha : a.toNat < 160) (hx : s'.unit? t.uid = some x) (hflight : x.uwrFlight tk a.toNat = false) :
    Delivers (.urd o) s tk t s' (x.uni.getD a.toNat 0) := by
  refine delivers_of_body h (fun _ => x.uni.getD a.toNat 0) (off := fun _ _ s => .seq s) (show execUrd o s = _ by unfold execUrd; rfl) ?_
  rw [List.getD_cons_zero, if_neg (by omega), hx]
  dsimp only
  rw [hflight, if_neg Bool.false_ne_true]

/-- EX2S changes its thread: the two registers unless W = 1, and the latches (R177). -/
theorem execEx2s_writes {o : Op2} {s s' : State} {tk : Nat} {t u : Thread} {a : Word} (h : Ready (.ex2s o) s tk t [a] s')
    (hu : s'.thread? tk = some u) :
    let r := ex2Split (f32.val a.toNat)
    let now := s'.cycOf t
    let w := match o.w, o.d with
      | false, .v n => ((u.setReg n.1 (Word.ofN r.1)).setReg (n.1 + 1) (BitVec.ofInt 64 r.2)).mark_ [n.1, n.1 + 1] now (now + 12)
      | _, _ => u
    execEx2s o s = .next (s'.setThread tk (((w.shift (Word.ofN r.1) (now + 12)).shift (BitVec.ofInt 64 r.2) (now + 12)).past (.ex2s o))) := by
  intro r now w
  unfold execEx2s
  rw [run_changesThread h hu rfl]
  obtain ⟨g, wbit, d, a⟩ := o
  cases wbit <;> cases d <;> rfl

/-! ## Special registers (R139) -/

/-- The loop counters are those of the levels from the outermost on. -/
theorem State.special_loop (s : State) (t : Thread) {k : Nat} (hk : k < 3) :
    s.special t (2 + k) = ((t.loops.reverse[k]?).map fun l => l.lc.setWidth 64).getD 0 := by
  interval_cases k <;> rfl

/-- The logical number of a die is the lowest that is mapped to it. -/
theorem State.logOf_lowest {s : State} {d p : Nat} (hd : d < 4) (hp : s.physOf d = some p) (hlow : ∀ e, e < d → s.physOf e ≠ some p) :
    s.logOf p = some d := by
  rw [State.logOf, upFrom_eq, ← List.range_eq_range', List.find?_range_eq_some]
  exact ⟨by simp [hp], List.mem_range.2 hd, fun e he => by simpa using hlow e he⟩

section
variable {s : State} {t : Thread} {u : TUnit} (hu : s.unit? t.uid = some u)
include hu

/-- The core of a thread is that of its unit. -/
theorem State.ckOf_unit : s.ckOf t.uid = u.ck := by
  rw [State.ckOf, hu]
  rfl

/-- The special registers of a thread's place in the machine, by its unit. -/
theorem State.special_place : s.special t 0 = Word.ofN (s.cluster (u.ck / 8)).clk ∧ s.special t 5 = Word.ofN (u.gang t.gg).gpart ∧
    s.special t 7 = Word.ofN u.idx ∧ s.special t 8 = Word.ofN u.lid ∧ s.special t 9 = Word.ofN (u.ck % 64) := by
  refine ⟨?_, ?_, ?_, ?_, ?_⟩ <;> simp [State.special, hu, State.ckOf_unit hu]

/-- ldie is the logical number of the unit's die. -/
theorem State.special_ldie {d : Nat} (hd : d < 4) (hp : s.physOf d = some (u.ck / 64)) (hlow : ∀ e, e < d → s.physOf e ≠ some (u.ck / 64)) :
    s.special t 10 = Word.ofN d := by
  simp [State.special, State.ckOf_unit hu, State.logOf_lowest hd hp hlow]

end

/-! ## UWR (R140, R141) -/

/-- The write that UWR puts in flight. -/
def uwrRec (s : State) (x : TUnit) (tk : Nat) (t : Thread) (a i : Word) : UwrRec :=
  { n := i.toNat, val := a, tk := tk, arr := (x.gang t.gg).home, seat := (x.gang t.gg).seat.getD 0, done := (s.cluster (x.ck / 8)).clk + 2 }

/-- UWR changes the unit's writes in flight, and its thread goes on. -/
theorem execUwr_inFlight {o : OpX} {s s' : State} {tk : Nat} {t u : Thread} {a i : Word} {x : TUnit} (h : Ready (.uwr o) s tk t [a, i] s')
    (hu : s'.thread? tk = some u) (hx : s'.unit? t.uid = some x) (hi : i.toNat < 160) :
    execUwr o s = .next ((s'.setUnit t.uid { x with uwr := uwrInsert (uwrRec s' x tk t a i) x.uwr }).setThread tk (u.past (.uwr o))) := by
  have hput : (s'.setUnit t.uid { x with uwr := uwrInsert (uwrRec s' x tk t a i) x.uwr }).thread? tk = some u := hu
  rw [← State.modThread_eq (fun u => u.past (.uwr o)) hput]
  refine run_seq h ?_
  rw [List.getD_cons_succ, List.getD_cons_zero, List.getD_cons_zero, if_neg (by omega), State.modUnit_eq _ hx]
  rfl

/-- A unit's only write in flight lands once it is complete. -/
theorem State.unit?_landUwr_single {s : State} {uid : Nat} {x : TUnit} {r : UwrRec} (hx : s.unit? uid = some x) (hr : x.uwr = [r]) :
    (s.landUwr uid fun q => q.done ≤ r.done).unit? uid = some { x with uni := setAt x.uni r.n r.val, uwr := [] } := by
  rw [State.landUwr, State.unit?_modUnit _ hx, hr]
  simp

end Sys2Proof.Machine

open Sys2Proof Sys2Proof.Machine

/-- Settles O9: each instruction runs a function of words, whose value is the one that the table gives. -/
theorem integerResults : Obligations.IntegerResults := by
  unfold Obligations.IntegerResults
  exact ⟨(gives3_of (f := fun x y => x + y) fun _ _ => rfl).congr Word.add_ofN,
    (gives3_of (f := fun x y => x - y) fun _ _ => rfl).congr Word.sub_ofInt,
    (gives3_of (f := fun x y => x * y) fun _ _ => rfl).congr Word.mul_ofN,
    (givesAcc_of (f := fun x y acc => acc + x * y) fun _ _ => rfl).congr Word.mac_ofN,
    (gives3_of (f := fun x y => sextN (x + y) 32) fun _ _ => rfl).congr sextN_32_add,
    (gives3_of (f := fun x y => sextN (x - y) 32) fun _ _ => rfl).congr sextN_32_sub,
    (gives3_of (f := fun x y => sextN (x * y) 32) fun _ _ => rfl).congr sextN_32_mul,
    (givesAcc_of (f := fun x y acc => sextN (acc + x * y) 32) fun _ _ => rfl).congr sextN_32_mac,
    gives3_of fun _ _ => rfl, gives3_of fun _ _ => rfl, gives3_of fun _ _ => rfl, gives3_of fun _ _ => rfl,
    gives3_of fun _ _ => rfl, gives3_of fun _ _ => rfl,
    (gives3_of (f := fun x y => x <<< (y.toNat % 64)) fun _ _ => rfl).congr fun x y => Word.shl_ofN x (y.toNat % 64),
    (gives3_of (f := fun x y => x >>> (y.toNat % 64)) fun _ _ => rfl).congr fun x y => Word.shr_ofN x (y.toNat % 64),
    (gives3_of (f := fun x y => x.sshiftRight (y.toNat % 64)) fun _ _ => rfl).congr fun x y => Word.sshiftRight_ofInt x (y.toNat % 64),
    gives3_of fun _ _ => rfl, gives3_of fun _ _ => rfl, gives3_of fun _ _ => rfl, gives3_of fun _ _ => rfl⟩

/-- Settles O10: the bit functions are read off the list of a word's ones, which rises; reversals go bit by bit. -/
theorem integerUnaryResults : Obligations.IntegerUnaryResults := by
  unfold Obligations.IntegerUnaryResults
  exact ⟨gives2_of fun _ _ => rfl, (gives2_of (f := fun a => ~~~a) fun _ _ => rfl).congr Word.not_ofN,
    (gives2_of (f := fun a => 0 - a) fun _ _ => rfl).congr Word.neg_ofInt,
    (gives2_of (f := fun a => if a.toInt ≥ 0 then a else 0 - a) fun _ _ => rfl).congr Word.abs_ofInt,
    gives2_of fun _ _ => rfl, gives2_of fun _ _ => rfl, gives2_of fun _ _ => rfl, gives2_of fun _ _ => rfl, gives2_of fun _ _ => rfl,
    (gives2_of (f := fun a => sextN a 8) fun _ _ => rfl).congr (sextN_ofInt 8),
    (gives2_of (f := fun a => sextN a 16) fun _ _ => rfl).congr (sextN_ofInt 16),
    (gives2_of (f := fun a => sextN a 32) fun _ _ => rfl).congr (sextN_ofInt 32),
    (gives2_of (f := fun a => zextN a 8) fun _ _ => rfl).congr (zextN_ofN 8),
    (gives2_of (f := fun a => zextN a 16) fun _ _ => rfl).congr (zextN_ofN 16),
    (gives2_of (f := fun a => zextN a 32) fun _ _ => rfl).congr (zextN_ofN 32),
    popCount_eq_countP, ⟨by decide, fun _ h => leadingZeros_spec h⟩, ⟨by decide, fun _ h => trailingZeros_spec h⟩,
    fun a _ hi => getLsbD_bitReverse a hi, fun a _ hi => getLsbD_byteSwap a hi⟩

/-- Settles O17, instruction by instruction, and the table of special registers by what each row rests on. -/
theorem selectAndSpecialReads : Obligations.SelectAndSpecialReads := by
  unfold Obligations.SelectAndSpecialReads
  refine ⟨fun _ _ _ _ _ _ _ h => sel_delivers h, fun _ _ _ _ _ _ h => movs_delivers h, fun s t u hu => ?_,
    fun _ _ _ _ _ _ _ h ha hx hflight => urd_delivers h ha hx hflight, fun _ _ _ _ _ _ _ h hu => execEx2s_writes h hu⟩
  obtain ⟨hclk, htile, hidx, hlid, hcore⟩ := State.special_place hu
  refine ⟨hclk, rfl, fun k l hk hl => ?_, fun k hk hnone => ?_, htile, rfl, hidx, hlid, hcore,
    fun d hd hp hlow => State.special_ldie hu hd hp hlow, rfl, rfl, rfl⟩
  · rw [State.special_loop s t hk, hl]
    rfl
  · rw [State.special_loop s t hk, List.getElem?_eq_none (by simpa using hnone)]
    rfl

/-- Settles O18: UWR inserts one write into the unit's list; the list's only write, once complete, is what the uniform holds. -/
theorem uniformWrite : Obligations.UniformWrite := by
  unfold Obligations.UniformWrite
  refine ⟨fun o s tk t a i s' u x h hu hx hi => ?_, fun s uid x r hx hr hn => ?_⟩
  · refine ⟨_, execUwr_inFlight h hu hx hi, State.thread?_setThread _ tk _, rfl, rfl, rfl, ?_⟩
    exact ⟨_, State.unit?_setUnit s' t.uid _, rfl, rfl, uwrInsert_perm (uwrRec s' x tk t a i) x.uwr⟩
  · exact ⟨_, State.unit?_landUwr_single hx hr, rfl, getD_setAt_same x.uni r.n r.val 0 hn⟩

end

section
/-! A census round and what it issues, the seating policy, the ends of holds, and the prefetch (R134, R277, R291, R295, R300, R305 to R309). -/

namespace Sys2Proof.Machine

/-! ## Steps that change some threads alone -/

/-- That a step changes at most the threads of some keys. -/
structure State.ThreadsOnly (s s' : State) (ks : List Nat) : Prop where
  issueQ   : s'.issueQ = s.issueQ
  mem      : s'.mem = s.mem
  units    : s'.units = s.units
  cores    : s'.cores = s.cores
  clusters : s'.clusters = s.clusters
  others   : ∀ tk, tk ∉ ks → s'.thread? tk = s.thread? tk

theorem State.ThreadsOnly.refl (s : State) (ks : List Nat) : s.ThreadsOnly s ks := ⟨rfl, rfl, rfl, rfl, rfl, fun _ _ => rfl⟩

theorem State.ThreadsOnly.trans {s s1 s2 : State} {ks : List Nat} (h : s.ThreadsOnly s1 ks) (h' : s1.ThreadsOnly s2 ks) : s.ThreadsOnly s2 ks :=
  ⟨h'.issueQ.trans h.issueQ, h'.mem.trans h.mem, h'.units.trans h.units, h'.cores.trans h.cores, h'.clusters.trans h.clusters,
    fun tk htk => (h'.others tk htk).trans (h.others tk htk)⟩

/-- More keys allow more. -/
theorem State.ThreadsOnly.mono {s s' : State} {ks js : List Nat} (h : s.ThreadsOnly s' ks) (hsub : ks ⊆ js) : s.ThreadsOnly s' js :=
  ⟨h.issueQ, h.mem, h.units, h.cores, h.clusters, fun tk htk => h.others tk fun hk => htk (hsub hk)⟩

theorem State.modThread_threadsOnly (s : State) {tk : Nat} {ks : List Nat} (htk : tk ∈ ks) (f : Thread → Thread) :
    s.ThreadsOnly (s.modThread tk f) ks :=
  ⟨s.modThread_issueQ tk f, s.modThread_mem tk f, s.modThread_units tk f, s.modThread_cores tk f, s.modThread_clusters tk f,
    fun _ hk => s.thread?_modThread_ne f fun e => hk (e ▸ htk)⟩

theorem State.ThreadsOnly.foldl {α : Type} {f : State → α → State} {ks : List Nat} {xs : List α} (s : State)
    (hf : ∀ (x : State) a, a ∈ xs → x.ThreadsOnly (f x a) ks) : s.ThreadsOnly (xs.foldl f s) ks :=
  foldl_keep (s.ThreadsOnly · ks) f xs s (.refl s ks) fun x hx a ha => hx.trans (hf x a ha)

/-- A change of each of several threads. -/
theorem State.foldl_modThread_threadsOnly {α : Type} (key : α → Nat) (f : α → Thread → Thread) (xs : List α) (s : State) :
    s.ThreadsOnly (xs.foldl (fun x a => x.modThread (key a) (f a)) s) (xs.map key) :=
  .foldl s fun x _ ha => x.modThread_threadsOnly (List.mem_map_of_mem ha) _

/-- A change of each of several different threads, at one of them. -/
theorem State.thread?_foldl_modThread {α : Type} (key : α → Nat) (f : α → Thread → Thread) {a : α} {t : Thread} :
    ∀ {xs : List α} {s : State}, (xs.map key).Nodup → a ∈ xs → s.thread? (key a) = some t →
      (xs.foldl (fun x a => x.modThread (key a) (f a)) s).thread? (key a) = some (f a t)
  | [], _, _, ha, _ => by cases ha
  | b :: xs, s, hnodup, ha, ht => by
    rw [List.map_cons, List.nodup_cons] at hnodup
    obtain ⟨hb, hnodup⟩ := hnodup
    rw [List.foldl_cons]
    rcases List.mem_cons.1 ha with rfl | ha
    · rw [(State.foldl_modThread_threadsOnly key f xs _).others _ hb]
      exact State.thread?_modThread (f a) ht
    · have hne : key a ≠ key b := fun e => hb (e ▸ List.mem_map_of_mem ha)
      exact State.thread?_foldl_modThread key f hnodup ha ((s.thread?_modThread_ne (f b) hne).trans ht)

/-! ## The first-path hint (R277) -/

/-- The hint changes at most threads that issue. -/
theorem State.divergence_threadsOnly (s : State) (now : Nat) (tks : List Nat) : s.ThreadsOnly (s.divergence now tks) tks := by
  unfold State.divergence
  refine .foldl s fun x b hb => ?_
  obtain ⟨tk, htk, hbranch⟩ := List.mem_filterMap.1 hb
  have hkey : b.1 = tk := by
    obtain ⟨t, -, hb⟩ := Option.bind_eq_some_iff.1 hbranch
    obtain ⟨c, -, rfl⟩ := Option.map_eq_some_iff.1 hb
    rfl
  dsimp only
  split
  · exact x.modThread_threadsOnly (hkey ▸ htk) _
  · exact .refl x tks

/-- The hint leaves what a thread has waited. -/
theorem State.divergence_w {s : State} {tk : Nat} {t : Thread} (now : Nat) (tks : List Nat) (ht : s.thread? tk = some t) :
    ∃ u, (s.divergence now tks).thread? tk = some u ∧ u.w = t.w := by
  unfold State.divergence
  refine foldl_keep (fun x => ∃ u, x.thread? tk = some u ∧ u.w = t.w) _ _ s ⟨t, ht, rfl⟩ fun x ⟨u, hu, hw⟩ b _ => ?_
  dsimp only
  split
  · by_cases hb : tk = b.1
    · subst hb
      exact ⟨_, State.thread?_modThread _ hu, hw⟩
    · exact ⟨u, (x.thread?_modThread_ne _ hb).trans hu, hw⟩
  · exact ⟨u, hu, hw⟩

/-! ## CENSUS_ROUND (R300) -/

/-- The candidates that a round of a class issues, in the order of the candidates. -/
def issuedKeys (c : Nat) (k : List Cand) : List Nat :=
  (k.filter fun x => (issued c (fun tk => tk / 32) k).any fun y => y.tk == x.tk).map (·.tk)

/-- Changes a lane array of a core. -/
def State.modArray (s : State) (ck a : Nat) (f : LaneArray → LaneArray) : State :=
  s.modCore ck fun c => { c with arrays := setAt c.arrays a (f (c.arrays.getD a {})) }

/-- The waits after a round: those of the threads issued end, those of the other candidates lengthen by one. -/
def State.roundWaits (s : State) (k : List Cand) (tks : List Nat) : State :=
  k.foldl (fun s x => s.modThread x.tk fun t => { t with w := if tks.contains x.tk then 0 else t.w + 1 }) s

/-- What a round issues of its candidates, where it picks a class. -/
def State.roundIssue (s : State) (ck a : Nat) (k : List Cand) (c : Nat) : State :=
  let x := (s.divergence (s.cluster (ck / 8)).clk (issuedKeys c k)).roundWaits k (issuedKeys c k)
  { x.modArray ck a fun r => { r with rot := (c + 1) % 12 } with issueQ := x.issueQ ++ issuedKeys c k }

/-- The round of a lane array, which nothing comes before. -/
def State.round (s : State) (ck a : Nat) : State :=
  let now := (s.cluster (ck / 8)).clk
  let k := s.candidates ck a now
  (match pickClass ((s.core ck).arrays.getD a {}).rot k with
    | none => s
    | some c => s.roundIssue ck a k c).modArray ck a fun r => { r with cyc := now + 1 }

section
variable {s : State} {ck a : Nat}

/-- A round that the array has still to take takes place once nothing comes before it. -/
theorem execCensusRound_open (hchanging : (s.cluster (ck / 8)).changing = false) (hrat : (s.cluster (ck / 8)).crat ≠ 3)
    (hcyc : ((s.core ck).arrays.getD a {}).cyc ≤ (s.cluster (ck / 8)).clk) :
    execCensusRound ck a s = .next (if s.policyDue ck a || s.earlierOpen ck a then s else s.round ck a) := by
  unfold execCensusRound
  simp only [hchanging, hrat, Nat.not_lt.2 hcyc, decide_false, Bool.false_and, Bool.or_false, Bool.false_eq_true, if_false]
  split <;> rfl

/-- Where every array of the cluster has taken its round, the next cycle begins. -/
theorem execCensusRound_nextCycle (hchanging : (s.cluster (ck / 8)).changing = false) (hrat : (s.cluster (ck / 8)).crat ≠ 3)
    (hcyc : (s.cluster (ck / 8)).clk < ((s.core ck).arrays.getD a {}).cyc) (hopen : s.cycleOpen (ck / 8) = false) :
    execCensusRound ck a s = .next (let x := s.tick (ck / 8); if x.policyDue ck a || x.earlierOpen ck a then x else x.round ck a) := by
  unfold execCensusRound
  simp only [hchanging, hrat, hcyc, hopen, decide_false, decide_true, Bool.and_false, Bool.or_false, Bool.false_eq_true, if_false, if_true]
  generalize s.tick (ck / 8) = x
  split <;> rfl

/-- What comes before a round that the array has still to take holds it back. -/
theorem execCensusRound_heldBack (hcyc : ((s.core ck).arrays.getD a {}).cyc ≤ (s.cluster (ck / 8)).clk)
    (h : s.policyDue ck a = true ∨ s.earlierOpen ck a = true) : execCensusRound ck a s = .next s := by
  by_cases hstands : (s.cluster (ck / 8)).changing = true ∨ (s.cluster (ck / 8)).crat = 3
  · unfold execCensusRound
    rw [if_pos (by rcases hstands with h | h <;> simp [h])]
  · obtain ⟨hchanging, hrat⟩ := not_or.1 hstands
    rw [execCensusRound_open (Bool.eq_false_iff.2 hchanging) hrat hcyc, if_pos (by rcases h with h | h <;> simp [h])]

/-! ## What a round leaves -/

theorem State.round_none (hpick : pickClass ((s.core ck).arrays.getD a {}).rot (s.candidates ck a (s.cluster (ck / 8)).clk) = none) :
    s.round ck a = s.modArray ck a fun r => { r with cyc := (s.cluster (ck / 8)).clk + 1 } := by
  unfold State.round
  dsimp only
  rw [hpick]

theorem State.round_some {c : Nat} (hpick : pickClass ((s.core ck).arrays.getD a {}).rot (s.candidates ck a (s.cluster (ck / 8)).clk) = some c) :
    s.round ck a = (s.roundIssue ck a (s.candidates ck a (s.cluster (ck / 8)).clk) c).modArray ck a
      fun r => { r with cyc := (s.cluster (ck / 8)).clk + 1 } := by
  unfold State.round
  dsimp only
  rw [hpick]

/-- The arrays of a core after a change of one. -/
theorem State.arrays_modArray (s : State) (ck a : Nat) (f : LaneArray → LaneArray) :
    ((s.modArray ck a f).core ck).arrays = setAt (s.core ck).arrays a (f ((s.core ck).arrays.getD a {})) := by
  rw [State.modArray, State.core_modCore]

/-- A second put at a place replaces the first. -/
theorem setAt_setAt {α : Type} : ∀ (xs : List α) (n : Nat) (y z : α), setAt (setAt xs n y) n z = setAt xs n z
  | [], _, _, _ => rfl
  | _ :: _, 0, _, _ => rfl
  | x :: xs, n + 1, y, z => congrArg (x :: ·) (setAt_setAt xs n y z)

/-- The keys of the threads issued are keys of candidates. -/
theorem issuedKeys_subset (c : Nat) (k : List Cand) : issuedKeys c k ⊆ k.map (·.tk) :=
  List.map_subset _ (List.filter_subset_self k)

/-- The hint and the waits of a round change its candidates alone. -/
theorem State.roundWaits_threadsOnly (s : State) (now c : Nat) (k : List Cand) :
    s.ThreadsOnly ((s.divergence now (issuedKeys c k)).roundWaits k (issuedKeys c k)) (k.map (·.tk)) :=
  ((s.divergence_threadsOnly now _).mono (issuedKeys_subset c k)).trans (State.foldl_modThread_threadsOnly Cand.tk _ k _)

/-- The wait of a candidate after a round. -/
theorem State.roundWaits_w {now c : Nat} {k : List Cand} {x : Cand} {t : Thread} (hnodup : (k.map (·.tk)).Nodup) (hx : x ∈ k)
    (ht : s.thread? x.tk = some t) : ∃ u, ((s.divergence now (issuedKeys c k)).roundWaits k (issuedKeys c k)).thread? x.tk = some u ∧
      u.w = if x.tk ∈ issuedKeys c k then 0 else t.w + 1 := by
  obtain ⟨v, hv, hw⟩ := State.divergence_w now (issuedKeys c k) ht
  refine ⟨_, State.thread?_foldl_modThread Cand.tk
    (fun (x : Cand) (t : Thread) => { t with w := if (issuedKeys c k).contains x.tk then 0 else t.w + 1 }) hnodup hx hv, ?_⟩
  simp only [List.contains_eq_mem, decide_eq_true_eq, hw]

/-- A round that picks a class: what it issues, the array, and the threads (R300). -/
theorem State.round_issues {c : Nat} (ha : a < (s.core ck).arrays.length)
    (hpick : pickClass ((s.core ck).arrays.getD a {}).rot (s.candidates ck a (s.cluster (ck / 8)).clk) = some c) :
    let now := (s.cluster (ck / 8)).clk
    let k := s.candidates ck a now
    (s.round ck a).issueQ = s.issueQ ++ issuedKeys c k ∧ (s.round ck a).mem = s.mem ∧ (s.round ck a).units = s.units ∧
      ((s.round ck a).core ck).arrays = setAt (s.core ck).arrays a { (s.core ck).arrays.getD a {} with rot := (c + 1) % 12, cyc := now + 1 } ∧
      ∀ tk, (s.round ck a).thread? tk = ((s.divergence now (issuedKeys c k)).roundWaits k (issuedKeys c k)).thread? tk := by
  intro now k
  have honly := s.roundWaits_threadsOnly now c k
  rw [State.round_some hpick]
  refine ⟨congrArg (· ++ issuedKeys c k) honly.issueQ, honly.mem, honly.units, ?_, fun _ => rfl⟩
  have hcore : ((s.divergence now (issuedKeys c k)).roundWaits k (issuedKeys c k)).core ck = s.core ck := by
    rw [State.core, honly.cores, State.core]
  have harrays : ((s.roundIssue ck a k c).core ck).arrays = setAt (s.core ck).arrays a { (s.core ck).arrays.getD a {} with rot := (c + 1) % 12 } := by
    rw [← hcore]
    exact State.arrays_modArray ((s.divergence now (issuedKeys c k)).roundWaits k (issuedKeys c k)) ck a fun r => { r with rot := (c + 1) % 12 }
  rw [State.arrays_modArray, harrays, setAt_setAt, getD_setAt_same _ _ _ _ ha]

/-- A round leaves the clocks and memory. -/
theorem State.round_keeps (s : State) (ck a : Nat) : (s.round ck a).clusters = s.clusters ∧ (s.round ck a).mem = s.mem := by
  cases hpick : pickClass ((s.core ck).arrays.getD a {}).rot (s.candidates ck a (s.cluster (ck / 8)).clk) with
  | none => rw [State.round_none hpick]; exact ⟨rfl, rfl⟩
  | some c =>
    have honly := s.roundWaits_threadsOnly (s.cluster (ck / 8)).clk c (s.candidates ck a (s.cluster (ck / 8)).clk)
    rw [State.round_some hpick]
    exact ⟨honly.clusters, honly.mem⟩

/-- The next cycle of a cluster moves its clock by one, and leaves memory (R141). -/
theorem State.tick_moves (s : State) (n : Nat) : ((s.tick n).cluster n).clk = (s.cluster n).clk + 1 ∧ (s.tick n).mem = s.mem := by
  unfold State.tick
  refine foldl_keep (fun x : State => (x.cluster n).clk = (s.cluster n).clk + 1 ∧ x.mem = s.mem) _ _ _ ⟨by rw [State.cluster_modCluster], rfl⟩
    fun x hx c _ => foldl_keep (fun x : State => (x.cluster n).clk = (s.cluster n).clk + 1 ∧ x.mem = s.mem) _ _ x hx fun y hy u _ => ?_
  rw [State.landUwr, State.cluster, State.modUnit_clusters, State.modUnit_mem]
  exact hy

/-- A round with which the next cycle begins moves the clock, whether or not the array then issues. -/
theorem execCensusRound_ticks (hchanging : (s.cluster (ck / 8)).changing = false) (hrat : (s.cluster (ck / 8)).crat ≠ 3)
    (hcyc : (s.cluster (ck / 8)).clk < ((s.core ck).arrays.getD a {}).cyc) (hopen : s.cycleOpen (ck / 8) = false) :
    ∃ s', execCensusRound ck a s = .next s' ∧ (s'.cluster (ck / 8)).clk = (s.cluster (ck / 8)).clk + 1 ∧ s'.mem = s.mem := by
  refine ⟨_, execCensusRound_nextCycle hchanging hrat hcyc hopen, ?_⟩
  obtain ⟨hclk, hmem⟩ := s.tick_moves (ck / 8)
  obtain ⟨hclusters, hkept⟩ := (s.tick (ck / 8)).round_keeps ck a
  dsimp only
  split
  · exact ⟨hclk, hmem⟩
  · rw [State.cluster, hclusters, hkept]
    exact ⟨hclk, hmem⟩

/-! ## The seating policy (R134, R295) -/

/-- GANG_SEAT seats the gang, and its threads start with void latches. -/
theorem execGangSeat_seats {seat uid gg : Nat} {u : TUnit} (hseat : findPos (fun x => x == none) ((s.core ck).arrays.getD a {}).seats = some seat)
    (hnext : s.nextGang ck a = some (uid, gg)) (hu : s.unit? uid = some u) (ha : a < (s.core ck).arrays.length) :
    ∃ s', execGangSeat ck a s = .next s' ∧ s'.unit? uid = some (u.modGang gg fun g => { g with seat := some seat }) ∧
      ((s'.core ck).arrays.getD a {}).seats =
        setAt ((s.core ck).arrays.getD a {}).seats seat (some { uid := uid, gg := gg, at_ := (s.cluster (ck / 8)).clk }) ∧ s'.mem = s.mem := by
  unfold execGangSeat
  dsimp only
  rw [hseat, hnext]
  dsimp only
  refine ⟨_, rfl, ?_⟩
  generalize hx : State.modUnit (s.modCore ck _) uid _ = x
  have honly := State.foldl_modThread_threadsOnly (·.1) (fun _ t => { t with b := [{}, {}, {}, {}], w := 0, seatPt := true }) (x.liveGang uid gg) x
  refine ⟨?_, ?_, ?_⟩
  · rw [State.unit?, honly.units, ← hx]
    exact State.unit?_modUnit _ (show State.unit? (s.modCore ck _) uid = some u from hu)
  · rw [State.core, honly.cores, ← hx, State.modUnit_cores]
    change ((State.core (s.modCore ck _) ck).arrays.getD a {}).seats = _
    rw [State.core_modCore, getD_setAt_same _ _ _ _ ha]
  · rw [honly.mem, ← hx, State.modUnit_mem]
    rfl

variable {seat : Nat} {x : Seat} (hx : ((s.core ck).arrays.getD a {}).seats.getD seat none = some x)
include hx

/-- GANG_UNSEAT unseats the gang of a seat that leaves. -/
theorem execGangUnseat_eq : execGangUnseat ck a seat s = .next (if s.seatLeaves ck a x then s.unseat ck x else s) := by
  rw [execGangUnseat, hx]

/-- QUANTUM_DUE marks the seat of a gang whose quantum is over. -/
theorem execQuantumDue_eq : execQuantumDue ck a seat s = .next (if s.quantumOver ck a x then s.markDue ck a seat else s) := by
  rw [execQuantumDue, hx]

end

/-! ## Ends of holds, and the prefetch -/

section
variable {s : State} {tk : Nat} {t : Thread} (ht : s.thread? tk = some t)
include ht

theorem execYieldHoldEnd_over (hover : t.yieldTo ≤ s.cycOf t) : execYieldHoldEnd tk s = .next (s.setThread tk { t with yieldTo := 0 }) := by
  rw [execYieldHoldEnd, State.modThread_eq _ ht, if_pos hover]

theorem execDeprioritisationEnd_over (hover : t.depriTo ≤ s.cycOf t) :
    execDeprioritisationEnd tk s = .next (s.setThread tk { t with depriTo := 0 }) := by
  rw [execDeprioritisationEnd, State.modThread_eq _ ht, if_pos hover]

/-- PREFETCH_FILL fills the buffers of the live threads of the gang, side by side (R308). -/
theorem execPrefetchFill_fills :
    execPrefetchFill tk s = .next ((s.liveOf t.uid).foldl (fun x p => if p.2.gg = t.gg then x.fillOne p.1 else x) s) := by
  rw [execPrefetchFill, State.prefetch, ht]

/-- A thread that may fetch and whose fetch succeeds holds its next instruction. -/
theorem State.fillOne_fetched {s' : State} {ps : List (Word × Parcel)} {x} (hlive : t.live = true) (hpark : t.park = none)
    (hhalted : t.halted = false) (hfetched : t.fetched = false) (hfetch : s.fetchInstr t (2 - t.pre.length) t.pw = (.ok x s', ps)) :
    s.fillOne tk = (s'.captureLoop t ps).modThread tk fun u => { u with pbuf := ps } := by
  unfold State.fillOne
  rw [ht]
  dsimp only
  rw [hlive, hpark, hhalted, hfetched, if_neg (by decide), hfetch]

end

end Sys2Proof.Machine

open Sys2Proof Sys2Proof.Machine

/-- Settles O49: CENSUS_ROUND is State.round, after State.tick where a cycle begins; the other steps are one case each. -/
theorem schedulingEvents : Obligations.SchedulingEvents := by
  unfold Obligations.SchedulingEvents
  intro arr
  refine ⟨fun s ck a hchanging hrat ha hcyc hpolicy hearlier => ?_,
    fun _ _ _ hchanging hrat hcyc hopen => execCensusRound_ticks hchanging hrat hcyc hopen, fun _ _ _ hcyc h => execCensusRound_heldBack hcyc h,
    fun _ _ _ _ _ _ _ hseat hnext hu ha => execGangSeat_seats hseat hnext hu ha,
    fun _ _ _ _ _ hx => ⟨execGangUnseat_eq hx, execQuantumDue_eq hx⟩,
    fun _ _ _ ht => ⟨fun hover => execYieldHoldEnd_over ht hover, fun hover => execDeprioritisationEnd_over ht hover, execPrefetchFill_fills ht,
      fun _ _ _ hlive hpark hhalted hfetched hfetch => State.fillOne_fetched ht hlive hpark hhalted hfetched hfetch⟩⟩
  intro now k
  have hround : exec (.censusRound ck a) s = .next (s.round ck a) := by
    refine (execCensusRound_open hchanging hrat hcyc).trans ?_
    rw [hpolicy, hearlier, if_neg (by decide)]
  refine ⟨fun hpick => ?_, fun c hpick => ?_⟩
  · rw [hround, State.round_none hpick]
    rfl
  · intro tks
    obtain ⟨hissue, hmem, hunits, harrays, hthreads⟩ := State.round_issues ha hpick
    refine ⟨_, hround, hissue, hmem, hunits, harrays, fun tk t ht hne => ?_, fun hnodup x hx t ht => ?_⟩
    · rw [hthreads, (s.roundWaits_threadsOnly now c k).others tk fun h => ?_, ht]
      obtain ⟨x, hx, he⟩ := List.mem_map.1 h
      exact hne x hx he
    · rw [hthreads]
      exact State.roundWaits_w hnodup hx ht

end

section
/-! Rounding to nearest even in the formats with infinities, and the conversions between them (R144, R145, R153, R154, R156, R179, R180). -/

namespace Sys2Proof.Machine

/-! ## Values as rationals, and the formats with infinities (R144, R145) -/

/-- The number that a value stands for; 0 where it is none. -/
def FVal.rat : FVal → ℚ
  | .fin neg m e => (if neg then -1 else 1) * m * (2 : ℚ) ^ e
  | _ => 0

/-- The magnitude of a nonzero finite value. -/
theorem FVal.abs_rat_fin (neg : Bool) (m : Nat) (e : Int) : |(FVal.fin neg m e).rat| = m * 2 ^ e := by
  rw [FVal.rat]
  cases neg <;> simp [abs_mul, abs_zpow]

/-- A value that is neither an infinity nor a NaN. -/
def FVal.Finite (x : FVal) : Prop := x ≠ .nan ∧ ∀ neg, x ≠ .inf neg

namespace Fmt

/-- A format with a sign, infinities and NaNs, as the four formats of the lanes are (R144). -/
structure Binary (f : Fmt) : Prop where
  ieee  : f.ieee = true
  sign  : f.sign = true
  plain : f.e4m3 = false
  frac  : 1 ≤ f.p
  expo  : 2 ≤ f.eb

/-- The formats of the lanes have infinities and NaNs. -/
theorem binary_of_mem : ∀ f ∈ [f64, f32, f16, bf16], f.Binary := by
  simp only [List.forall_mem_cons, List.not_mem_nil, false_implies, implies_true, and_true]
  refine ⟨?_, ?_, ?_, ?_⟩ <;> exact ⟨rfl, rfl, rfl, by decide, by decide⟩

/-- Such a format has at least four values of its exponent field. -/
theorem Binary.four_le {f : Fmt} (hf : f.Binary) : 4 ≤ 2 ^ f.eb := Nat.pow_le_pow_right two_pos hf.expo

/-- The encoding of a sign, an exponent field and a fraction. A fraction of 2^p or more carries into the exponent. -/
def word (f : Fmt) (neg : Bool) (E F : Nat) : Nat := (if neg then 2 ^ (f.eb + f.p) else 0) + (E * 2 ^ f.p + F)

variable {f : Fmt} {neg : Bool} {E F : Nat}

/-- The hidden bit of a significand is one in the exponent field. -/
theorem word_hidden (f : Fmt) (neg : Bool) (E F : Nat) : f.word neg E (2 ^ f.p + F) = f.word neg (E + 1) F := by
  rw [word, word, Nat.add_one_mul, Nat.add_assoc (E * 2 ^ f.p)]

/-- An encoding lies in the width of its format. -/
theorem word_lt (hf : f.Binary) (h : E * 2 ^ f.p + F < 2 ^ (f.eb + f.p)) : f.word neg E F < 2 ^ f.width := by
  rw [word, width, hf.sign, if_pos rfl, Nat.pow_succ]
  split <;> omega

/-- The lowest bit of an encoding is that of its fraction. -/
theorem word_mod_two (hf : f.Binary) : f.word neg E F % 2 = F % 2 := by
  have hp : 2 ^ f.p % 2 = 0 := Nat.mod_eq_zero_of_dvd (dvd_pow_self 2 (Nat.one_le_iff_ne_zero.1 hf.frac))
  have hs : 2 ^ (f.eb + f.p) % 2 = 0 := by rw [Nat.pow_add, Nat.mul_mod, hp, Nat.mul_zero]
  have hE : E * 2 ^ f.p % 2 = 0 := by rw [Nat.mul_mod, hp, Nat.mul_zero]
  rw [word]
  split <;> omega

/-- Every number of the width of a format is an encoding. -/
theorem exists_word (hf : f.Binary) {x : Nat} (hx : x < 2 ^ f.width) : ∃ neg E F, E < 2 ^ f.eb ∧ F < 2 ^ f.p ∧ f.word neg E F = x := by
  have hB : 0 < 2 ^ f.p := Nat.two_pow_pos _
  have hA : 0 < 2 ^ f.eb := Nat.two_pow_pos _
  have hs : x / 2 ^ f.p / 2 ^ f.eb < 2 := by
    rw [Nat.div_div_eq_div_mul, ← Nat.pow_add]
    refine Nat.div_lt_of_lt_mul (hx.trans_eq ?_)
    rw [width, hf.sign, if_pos rfl, Nat.pow_succ, Nat.add_comm]
  have hF := Nat.div_add_mod x (2 ^ f.p)
  have hE := Nat.div_add_mod (x / 2 ^ f.p) (2 ^ f.eb)
  refine ⟨x / 2 ^ f.p / 2 ^ f.eb == 1, x / 2 ^ f.p % 2 ^ f.eb, x % 2 ^ f.p, Nat.mod_lt _ hA, Nat.mod_lt _ hB, ?_⟩
  generalize x / 2 ^ f.p / 2 ^ f.eb = s at *
  generalize x / 2 ^ f.p % 2 ^ f.eb = E at *
  rw [← hE] at hF
  rw [word, ← hF, Nat.pow_add]
  interval_cases s <;> simp <;> ring

/-- The value of an encoding, by its fields (R145). -/
theorem val_word (hf : f.Binary) (neg : Bool) (hE : E < 2 ^ f.eb) (hF : F < 2 ^ f.p) :
    f.val (f.word neg E F) =
      if E = 0 then (if F = 0 then .zero neg else .fin neg F f.quantum)
      else if E = 2 ^ f.eb - 1 then (if F = 0 then .inf neg else .nan)
      else .fin neg (2 ^ f.p + F) (f.quantum + (E - 1 : Int)) := by
  have hx : f.word neg E F = F + 2 ^ f.p * (E + 2 ^ f.eb * (if neg then 1 else 0)) := by
    rw [word, Nat.pow_add]
    split <;> ring
  have hfrac : f.word neg E F % 2 ^ f.p = F := by rw [hx, Nat.add_mul_mod_self_left, Nat.mod_eq_of_lt hF]
  have hrest : f.word neg E F / 2 ^ f.p = E + 2 ^ f.eb * (if neg then 1 else 0) := by
    rw [hx, Nat.add_mul_div_left _ _ (Nat.two_pow_pos _), Nat.div_eq_of_lt hF, Nat.zero_add]
  have hexp : bits (f.word neg E F) (f.eb + f.p - 1) f.p = E := by
    rw [bits, hrest, show f.eb + f.p - 1 + 1 - f.p = f.eb by have := hf.expo; omega, Nat.add_mul_mod_self_left, Nat.mod_eq_of_lt hE]
  have hsign : (bits (f.word neg E F) (f.eb + f.p) (f.eb + f.p) == 1) = neg := by
    rw [bits, Nat.add_comm f.eb, Nat.pow_add, ← Nat.div_div_eq_div_mul, hrest, Nat.add_mul_div_left _ _ (Nat.two_pow_pos _), Nat.div_eq_of_lt hE]
    cases neg <;> simp
  unfold val
  simp only [hfrac, hexp, hsign, hf.sign, hf.ieee, hf.plain, Bool.true_and, Bool.false_and, Bool.false_eq_true, if_false, beq_iff_eq]


/-! ## Encoding (R144, R153) -/

/-- The exponent of the last place of m x 2^e, as far as the subnormal quantum allows. -/
def ulp (f : Fmt) (m : Nat) (e : Int) : Int := max ((Nat.log2 m : Int) + e - f.p) f.quantum

/-- A nonzero number of p + 1 bits, or of fewer at the quantum, has its last place at its exponent. -/
theorem ulp_eq {k : Nat} {q : Int} (hk : k ≠ 0) (hlt : k < 2 ^ (f.p + 1)) (hq : f.quantum ≤ q) (hnorm : 2 ^ f.p ≤ k ∨ q = f.quantum) :
    f.ulp k q = q := by
  have hle : k.log2 ≤ f.p := Nat.lt_succ_iff.1 ((Nat.log2_lt hk).2 hlt)
  rcases hnorm with hnorm | rfl
  · have hge : f.p ≤ k.log2 := (Nat.le_log2 hk).2 hnorm
    rw [ulp]
    omega
  · rw [ulp]
    omega

/-- The encoding of a value whose last place is at its exponent. -/
theorem enc_fin {k : Nat} (neg : Bool) (d : Nat) (hk : k ≠ 0) (hle : k ≤ 2 ^ (f.p + 1)) (hnorm : 2 ^ f.p ≤ k ∨ d = 0) :
    f.enc (.fin neg k (f.quantum + d)) = f.word neg d k := by
  rcases hle.lt_or_eq with hlt | rfl
  · have hulp := ulp_eq (q := f.quantum + d) hk hlt (by omega) (by omega)
    rw [ulp] at hulp
    have hmag : (if k < 2 ^ f.p then k else (d + 1) * 2 ^ f.p + (k - 2 ^ f.p)) = d * 2 ^ f.p + k := by
      split
      · rw [hnorm.resolve_left (by omega), Nat.zero_mul, Nat.zero_add]
      · rw [Nat.add_one_mul]
        omega
    simp only [enc, hulp, ge_iff_le, le_refl, if_true, sub_self, pow2, Int.toNat_zero, pow_zero, mul_one, word,
      show (f.quantum + d - f.quantum + 1).toNat = d + 1 by omega, hmag]
  · have hlog : (2 ^ (f.p + 1)).log2 = f.p + 1 := Nat.log2_two_pow
    have hulp : max (((2 ^ (f.p + 1)).log2 : Int) + (f.quantum + d) - f.p) f.quantum = f.quantum + d + 1 := by rw [hlog]; omega
    have hhalf : 2 ^ (f.p + 1) / pow2 1 = 2 ^ f.p := Nat.mul_div_cancel _ two_pos
    simp only [enc, hulp, ge_iff_le, show ¬f.quantum + d + 1 ≤ f.quantum + d by omega, if_false, add_sub_cancel_left, hhalf, lt_irrefl, Nat.sub_self, word,
      show (f.quantum + d + 1 - f.quantum + 1).toNat = d + 2 by omega]
    ring

/-- The canonical NaN has all ones in its exponent and the highest bit of its fraction (R153). -/
theorem canon_eq_word (hf : f.Binary) : f.canon = f.word false (2 ^ f.eb - 1) (2 ^ (f.p - 1)) := by
  have hp : 2 ^ f.p = 2 * 2 ^ (f.p - 1) := by rw [← Nat.pow_succ', Nat.succ_eq_add_one, Nat.sub_add_cancel hf.frac]
  have hA : 1 ≤ 2 ^ f.eb := Nat.one_le_two_pow
  rw [canon, word, if_neg Bool.false_ne_true, hp, Nat.pow_succ]
  obtain ⟨a, ha⟩ := Nat.exists_eq_add_of_le hA
  rw [ha, show (1 + a) * 2 - 1 = 2 * a + 1 by omega, show 1 + a - 1 = a by omega]
  ring

/-- The canonical NaN is a NaN. -/
theorem val_canon (hf : f.Binary) : f.val f.canon = .nan := by
  have hA := hf.four_le
  have hF : 0 < 2 ^ (f.p - 1) := Nat.two_pow_pos _
  rw [canon_eq_word hf, val_word hf false (by omega) (Nat.pow_lt_pow_right one_lt_two (by have := hf.frac; omega)), if_neg (by omega), if_pos rfl,
    if_neg (by omega)]

/-- The encoding of an infinity. -/
theorem val_word_inf (hf : f.Binary) (neg : Bool) : f.val (f.word neg (2 ^ f.eb - 1) 0) = .inf neg := by
  have hA := hf.four_le
  rw [val_word hf neg (by omega) (Nat.two_pow_pos _), if_neg (by omega), if_pos rfl, if_pos rfl]

/-- The encoding of a zero. -/
theorem val_word_zero (hf : f.Binary) (neg : Bool) : f.val (f.word neg 0 0) = .zero neg := by
  rw [val_word hf neg (Nat.two_pow_pos _) (Nat.two_pow_pos _), if_pos rfl, if_pos rfl]

/-! ## Finite values -/

/-- A place for the digits of a nonzero finite value: a number of p + 1 bits at any place of the format, or of fewer at the quantum. -/
structure Digits (f : Fmt) (k d : Nat) : Prop where
  nonzero : k ≠ 0
  lt      : k < 2 ^ (f.p + 1)
  normal  : 2 ^ f.p ≤ k ∨ d = 0
  range   : d + 3 ≤ 2 ^ f.eb

/-- The value of a finite encoding, by its digits. -/
theorem val_word_fin (hf : f.Binary) (neg : Bool) {k d : Nat} (h : f.Digits k d) : f.val (f.word neg d k) = .fin neg k (f.quantum + d) := by
  obtain ⟨hk, hlt, hnorm, hd⟩ := h
  rcases Nat.lt_or_ge k (2 ^ f.p) with hsub | hnormal
  · obtain rfl := hnorm.resolve_left (by omega)
    rw [val_word hf neg (Nat.two_pow_pos _) hsub, if_pos rfl, if_neg hk, Nat.cast_zero, add_zero]
  · obtain ⟨F, rfl⟩ := Nat.exists_eq_add_of_le hnormal
    have hF : F < 2 ^ f.p := by rw [Nat.pow_succ] at hlt; omega
    rw [word_hidden, val_word hf neg (by omega) hF, if_neg (by omega), if_neg (by omega), Nat.cast_succ, add_sub_cancel_right]

/-- An encoding is a NaN, an infinity, a zero or the word of its digits (R145). -/
theorem val_cases (hf : f.Binary) {x : Nat} (hx : x < 2 ^ f.width) (hnan : f.val x ≠ .nan) :
    ∃ neg, x = f.word neg (2 ^ f.eb - 1) 0 ∨ x = f.word neg 0 0 ∨ ∃ k d, f.Digits k d ∧ x = f.word neg d k := by
  obtain ⟨neg, E, F, hE, hF, rfl⟩ := exists_word hf hx
  have hA := hf.four_le
  have hp : 2 ^ (f.p + 1) = 2 ^ f.p + 2 ^ f.p := by rw [Nat.pow_succ, Nat.mul_two]
  rw [val_word hf neg hE hF] at hnan
  refine ⟨neg, ?_⟩
  by_cases hF0 : E = 0 ∧ F = 0
  · exact .inr (.inl (by rw [hF0.1, hF0.2]))
  by_cases hinf : E = 2 ^ f.eb - 1
  · rw [if_neg (by omega), if_pos hinf] at hnan
    exact .inl (by rw [hinf, of_not_not fun h => hnan (if_neg h)])
  · refine .inr (.inr ?_)
    cases E with
    | zero => exact ⟨F, 0, ⟨by omega, by omega, .inr rfl, by omega⟩, rfl⟩
    | succ d => exact ⟨2 ^ f.p + F, d, ⟨by omega, by omega, .inl (Nat.le_add_right _ _), by omega⟩, (word_hidden f neg d F).symm⟩

/-- An encoding of a number encodes the value that it decodes to. -/
theorem enc_val (hf : f.Binary) {x : Nat} (hx : x < 2 ^ f.width) (hnan : f.val x ≠ .nan) : f.enc (f.val x) = x := by
  obtain ⟨neg, rfl | rfl | ⟨k, d, h, rfl⟩⟩ := val_cases hf hx hnan
  · rw [val_word_inf hf]
    rfl
  · rw [val_word_zero hf, enc, word, Nat.zero_mul, Nat.add_zero]
  · rw [val_word_fin hf neg h, enc_fin neg d h.nonzero h.lt.le h.normal]

/-! ## Rounding to nearest even (R156) -/

/-- A natural number that is nearest to a number, and even where another integer is as near. -/
def NearestEven (v : ℚ) (k : Nat) : Prop := |v - k| ≤ 1 / 2 ∧ (|v - k| = 1 / 2 → k % 2 = 0)

/-- A natural number is nearest to itself. -/
theorem NearestEven.self (k : Nat) : NearestEven k k := by simp [NearestEven]

/-- Shifting right in the mode rn. -/
theorem roundShift_nearestEven (neg : Bool) (m k : Nat) : NearestEven (m / 2 ^ k) (roundShift .rn neg m k) := by
  have hpos : (0 : ℚ) < 2 ^ k := by positivity
  have hm : (m : ℚ) / 2 ^ k = (m / 2 ^ k : Nat) + (m % 2 ^ k : Nat) / 2 ^ k := by
    rw [div_eq_iff hpos.ne', add_mul, div_mul_cancel₀ _ hpos.ne']
    exact_mod_cast (Nat.div_add_mod' m (2 ^ k)).symm
  have hlt : ((m % 2 ^ k : Nat) : ℚ) / 2 ^ k < 1 := (div_lt_one hpos).2 (by exact_mod_cast Nat.mod_lt m (Nat.two_pow_pos k))
  have hge : (0 : ℚ) ≤ ((m % 2 ^ k : Nat) : ℚ) / 2 ^ k := by positivity
  have habove : 2 * (m % 2 ^ k) > 2 ^ k ↔ (1 / 2 : ℚ) < (m % 2 ^ k : Nat) / 2 ^ k := by
    rw [lt_div_iff₀ hpos, gt_iff_lt, ← @Nat.cast_lt ℚ]
    push_cast
    constructor <;> intro h <;> linarith
  have htie : 2 * (m % 2 ^ k) = 2 ^ k ↔ ((m % 2 ^ k : Nat) : ℚ) / 2 ^ k = 1 / 2 := by
    rw [div_eq_iff hpos.ne', ← @Nat.cast_inj ℚ]
    push_cast
    constructor <;> intro h <;> linarith
  unfold roundShift
  simp only [Bool.or_eq_true, Bool.and_eq_true, decide_eq_true_eq, beq_iff_eq, habove, htie]
  rw [hm]
  generalize ((m % 2 ^ k : Nat) : ℚ) / 2 ^ k = t at *
  generalize m / 2 ^ k = q at *
  rw [NearestEven]
  split
  · next hup =>
    rw [show (q : ℚ) + t - (q + 1 : Nat) = -(1 - t) by push_cast; ring, abs_neg, abs_of_pos (by linarith)]
    refine ⟨?_, fun h => ?_⟩
    · rcases hup with h | ⟨h, -⟩ <;> linarith
    · obtain ⟨-, hodd⟩ := hup.resolve_left (by linarith)
      exact Nat.succ_mod_two_eq_zero_iff.2 hodd
  · next hdown =>
    rw [add_sub_cancel_left, abs_of_nonneg hge]
    refine ⟨not_lt.1 fun h => hdown (.inl h), fun h => ?_⟩
    exact (Nat.mod_two_eq_zero_or_one q).resolve_right fun hodd => hdown (.inr ⟨h, hodd⟩)

section
variable {v : ℚ} {k : Nat} (h : NearestEven v k)
include h

/-- No integer is nearer than the nearest even one, and an other integer as near leaves it even. -/
theorem NearestEven.le_int (j : Int) : |v - k| ≤ |v - j| ∧ (|v - k| = |v - j| → (j : ℚ) ≠ k → k % 2 = 0) := by
  obtain ⟨hnear, heven⟩ := h
  by_cases hj : j = k
  · subst hj
    exact ⟨le_rfl, fun _ hne => absurd (Int.cast_natCast k) hne⟩
  · have hone : (1 : ℚ) ≤ |(j : ℚ) - k| := by exact_mod_cast Int.one_le_abs (sub_ne_zero.2 hj)
    have htri : |(j : ℚ) - k| ≤ |v - j| + |v - k| := by
      rw [abs_sub_comm v j]
      exact abs_sub_le _ _ _
    exact ⟨by linarith, fun heq _ => heven (by linarith)⟩

/-- A number that does not exceed an integer does not exceed it when rounded. -/
theorem NearestEven.le_of_le {n : Nat} (hn : v ≤ n) : k ≤ n := by
  by_contra hlt
  have hk : (n : ℚ) + 1 ≤ k := by exact_mod_cast not_le.1 hlt
  have := abs_le.1 h.1
  linarith

/-- A number that an integer does not exceed is not below it when rounded. -/
theorem NearestEven.ge_of_ge {n : Nat} (hn : (n : ℚ) ≤ v) : n ≤ k := by
  by_contra hlt
  have hk : (k : ℚ) + 1 ≤ n := by exact_mod_cast not_le.1 hlt
  have := abs_le.1 h.1
  linarith

/-- A number rounds to at least an even number from half a unit below on, and no earlier. -/
theorem NearestEven.even_le_iff {n : Nat} (hn : n % 2 = 0) : n ≤ k ↔ (n : ℚ) - 1 / 2 ≤ v := by
  obtain ⟨hnear, heven⟩ := h
  have hbounds := abs_le.1 hnear
  refine ⟨fun hle => ?_, fun hle => ?_⟩
  · have : (n : ℚ) ≤ k := by exact_mod_cast hle
    linarith
  · by_contra hlt
    have hk : (k : ℚ) + 1 ≤ n := by exact_mod_cast not_le.1 hlt
    have htie : v - k = 1 / 2 := by linarith
    have hk1 : (k : ℚ) + 1 = n := by linarith
    have hk2 : k + 1 = n := by exact_mod_cast hk1
    have := heven (by rw [htie]; norm_num)
    omega

end

/-- The digits of m x 2^e at the exponent of its last place. -/
def digits (f : Fmt) (neg : Bool) (m : Nat) (e : Int) : Nat :=
  if e ≥ f.ulp m e then m * pow2 (e - f.ulp m e) else roundShift .rn neg m (f.ulp m e - e).toNat

/-- Rounding takes the digits, unless they lie beyond the largest exponent. -/
theorem round_fin (f : Fmt) (neg : Bool) (m : Nat) (e : Int) : f.round .rn false (.fin neg m e) =
    if f.digits neg m e = 0 then .zero neg
    else if ((f.digits neg m e).log2 : Int) + f.ulp m e > f.emax then .inf neg else .fin neg (f.digits neg m e) (f.ulp m e) := rfl

/-- The digits are nearest to the number in units of its last place. -/
theorem digits_nearestEven (f : Fmt) (neg : Bool) (m : Nat) (e : Int) : NearestEven (m * (2 : ℚ) ^ (e - f.ulp m e)) (f.digits neg m e) := by
  rw [digits]
  split
  · next hexact =>
    have h := NearestEven.self (m * pow2 (e - f.ulp m e))
    rwa [pow2, Nat.cast_mul, Nat.cast_pow, Nat.cast_ofNat, ← zpow_natCast, Int.toNat_of_nonneg (by omega)] at h
  · next hshift =>
    have h := roundShift_nearestEven neg m (f.ulp m e - e).toNat
    rwa [div_eq_mul_inv, ← zpow_natCast, ← zpow_neg, Int.toNat_of_nonneg (by omega), neg_sub] at h

/-- The largest exponent, from the quantum up. -/
theorem emax_eq (hf : f.Binary) : f.emax = f.quantum + f.p + (2 ^ f.eb - 3 : Nat) := by
  have hA := hf.four_le
  rw [emax, quantum, Nat.cast_sub (by omega)]
  push_cast
  ring

/-- An encoding of a number is what its value rounds to. -/
theorem rne_val (hf : f.Binary) {x : Nat} (hx : x < 2 ^ f.width) (hnan : f.val x ≠ .nan) : f.rne (f.val x) = x := by
  have hround : f.round .rn false (f.val x) = f.val x := by
    obtain ⟨neg, rfl | rfl | ⟨k, d, h, rfl⟩⟩ := val_cases hf hx hnan
    · rw [val_word_inf hf]
      rfl
    · rw [val_word_zero hf]
      rfl
    · have hulp : f.ulp k (f.quantum + d) = f.quantum + d := ulp_eq h.nonzero h.lt (by omega) (h.normal.imp_right fun h0 => by simp [h0])
      have hdigits : f.digits neg k (f.quantum + d) = k := by simp [digits, hulp, pow2]
      have hlog : k.log2 ≤ f.p := Nat.lt_succ_iff.1 ((Nat.log2_lt h.nonzero).2 h.lt)
      have hrange := h.range
      rw [val_word_fin hf neg h, round_fin, hdigits, hulp, emax_eq hf, if_neg h.nonzero, if_neg (by omega)]
  rw [rne, hround, enc_val hf hx hnan]

/-- The magnitude from which on rounding gives an infinity: half a unit of the last place above the largest finite value (R156). -/
def overflowBound (f : Fmt) : ℚ := (2 - (2 : ℚ) ^ (-(f.p + 1 : Int))) * (2 : ℚ) ^ f.emax

/-- The bound lies between two powers of two. -/
theorem overflowBound_mem (f : Fmt) : (2 : ℚ) ^ f.emax < f.overflowBound ∧ f.overflowBound ≤ 2 ^ (f.emax + 1) := by
  have hpos : (0 : ℚ) < 2 ^ (-(f.p + 1 : Int)) := by positivity
  have hlt : (2 : ℚ) ^ (-(f.p + 1 : Int)) < 1 := zpow_lt_one_of_neg₀ one_lt_two (by omega)
  rw [zpow_add_one₀ two_ne_zero, mul_comm _ (2 : ℚ)]
  exact ⟨lt_mul_of_one_lt_left (by positivity) (by linarith), mul_le_mul_of_nonneg_right (by linarith) (by positivity)⟩

/-- The bound in units of the last place below it. -/
theorem overflowBound_eq (f : Fmt) {q : Int} (hq : f.emax = f.p + q) : f.overflowBound = ((2 ^ (f.p + 1) : Nat) - 1 / 2) * 2 ^ q := by
  rw [overflowBound, hq, zpow_add₀ two_ne_zero, ← mul_assoc, zpow_neg, zpow_add₀ two_ne_zero, zpow_one, zpow_natCast, Nat.pow_succ]
  push_cast
  field_simp

/-- The place of the last digit of m x 2^e, from the quantum up. -/
def place (f : Fmt) (m : Nat) (e : Int) : Nat := (f.ulp m e - f.quantum).toNat

/-- The last place lies at or above the quantum. -/
theorem ulp_eq_place (f : Fmt) (m : Nat) (e : Int) : f.ulp m e = f.quantum + f.place m e := by
  have : f.quantum ≤ f.ulp m e := le_max_right _ _
  rw [place]
  omega

/-- The encoding of the digits reaches that of the infinity by its exponent, into which the digits carry. -/
theorem infinity_le_iff (f : Fmt) (d k : Nat) : (2 ^ f.eb - 1) * 2 ^ f.p ≤ d * 2 ^ f.p + k ↔ 2 ^ f.eb - 1 ≤ d + k / 2 ^ f.p := by
  rw [← Nat.le_div_iff_mul_le (Nat.two_pow_pos _), Nat.add_comm (d * _), Nat.add_mul_div_right _ _ (Nat.two_pow_pos _), Nat.add_comm d]

section
variable {m : Nat} (hm : m ≠ 0) (e : Int)
include hm

/-- A number has at most p + 1 digits before the point in units of its last place, and as many unless its last place is the quantum. -/
theorem scaled_bounds (f : Fmt) :
    m * (2 : ℚ) ^ (e - f.ulp m e) ≤ 2 ^ (f.p + 1) ∧ (2 ^ f.p ≤ m * (2 : ℚ) ^ (e - f.ulp m e) ∨ f.place m e = 0) := by
  have hlow : (2 : ℚ) ^ (m.log2 : Int) ≤ m := by exact_mod_cast Nat.log2_self_le hm
  have hhigh : (m : ℚ) ≤ 2 ^ (m.log2 + 1 : Int) := by exact_mod_cast Nat.lt_log2_self.le
  have hpos : (0 : ℚ) < 2 ^ (e - f.ulp m e) := by positivity
  constructor
  · refine (mul_le_mul_of_nonneg_right hhigh hpos.le).trans ?_
    rw [← zpow_add₀ two_ne_zero, ← zpow_natCast]
    refine zpow_le_zpow_right₀ one_le_two ?_
    have : (Nat.log2 m : Int) + e - f.p ≤ f.ulp m e := le_max_left _ _
    push_cast
    omega
  · rcases max_choice ((Nat.log2 m : Int) + e - f.p) f.quantum with h | h
    · refine .inl (le_trans ?_ (mul_le_mul_of_nonneg_right hlow hpos.le))
      rw [← zpow_add₀ two_ne_zero, ← zpow_natCast, ulp, h]
      exact (congrArg _ (by ring)).le
    · exact .inr (by rw [place, ulp, h, sub_self, Int.toNat_zero])

/-- The digits of a number, of which carrying may have made 2^(p+1). -/
theorem digits_bounds (f : Fmt) (neg : Bool) :
    f.digits neg m e ≤ 2 ^ (f.p + 1) ∧ (2 ^ f.p ≤ f.digits neg m e ∨ f.place m e = 0) := by
  have hnear := digits_nearestEven f neg m e
  obtain ⟨hle, hnorm⟩ := scaled_bounds hm e f
  exact ⟨hnear.le_of_le (by exact_mod_cast hle), hnorm.imp_left fun h => hnear.ge_of_ge (by exact_mod_cast h)⟩

/-- The digits lie beyond the largest exponent where their encoding would reach that of the infinity. -/
theorem overflow_iff_digits (hf : f.Binary) (neg : Bool) : ((f.digits neg m e).log2 : Int) + f.ulp m e > f.emax ↔
    (2 ^ f.eb - 1) * 2 ^ f.p ≤ f.place m e * 2 ^ f.p + f.digits neg m e := by
  have hA := hf.four_le
  have hB : 0 < 2 ^ f.p := Nat.two_pow_pos _
  obtain ⟨hle, hnorm⟩ := digits_bounds hm e f neg
  rw [infinity_le_iff, emax_eq hf, ulp_eq_place]
  generalize f.digits neg m e = k at *
  rcases Nat.lt_or_ge k (2 ^ f.p) with hsub | hge
  · have hlog : k.log2 ≤ f.p := by
      rw [Nat.log2_eq_log_two, ← Nat.log_pow one_lt_two f.p]
      exact Nat.log_mono_right hsub.le
    have hdiv : k / 2 ^ f.p = 0 := Nat.div_eq_of_lt hsub
    omega
  · rcases hle.lt_or_eq with hlt | rfl
    · have hlog : k.log2 = f.p := (Nat.log2_eq_iff (by omega)).2 ⟨hge, hlt⟩
      have hdiv : k / 2 ^ f.p = 1 := Nat.div_eq_of_lt_le (by omega) (by rw [Nat.pow_succ] at hlt; omega)
      omega
    · have hlog : (2 ^ (f.p + 1)).log2 = f.p + 1 := Nat.log2_two_pow
      have hdiv : 2 ^ (f.p + 1) / 2 ^ f.p = 2 := by rw [Nat.pow_succ, Nat.mul_div_cancel_left _ hB]
      omega

/-- They do so from the bound on. -/
theorem overflow_iff_bound (hf : f.Binary) (neg : Bool) : (2 ^ f.eb - 1) * 2 ^ f.p ≤ f.place m e * 2 ^ f.p + f.digits neg m e ↔
    f.overflowBound ≤ m * 2 ^ e := by
  have hA := hf.four_le
  have hB : 0 < 2 ^ f.p := Nat.two_pow_pos _
  have hnear := digits_nearestEven f neg m e
  obtain ⟨hle, hnorm⟩ := digits_bounds hm e f neg
  obtain ⟨hV, hVnorm⟩ := scaled_bounds hm e f
  have hulp := ulp_eq_place f m e
  have hemax := emax_eq hf
  obtain ⟨hlow, hhigh⟩ := overflowBound_mem f
  have hu : (0 : ℚ) < 2 ^ f.ulp m e := by positivity
  have hscale : (m : ℚ) * 2 ^ e = m * (2 : ℚ) ^ (e - f.ulp m e) * 2 ^ f.ulp m e := by
    rw [mul_assoc, ← zpow_add₀ two_ne_zero, sub_add_cancel]
  rw [infinity_le_iff, hscale]
  generalize f.digits neg m e = k at *
  generalize (m : ℚ) * (2 : ℚ) ^ (e - f.ulp m e) = v at *
  generalize f.ulp m e = q at *
  have hcarry : k / 2 ^ f.p ≤ 2 := by
    rw [Nat.pow_succ] at hle
    exact Nat.div_le_of_le_mul hle
  rcases lt_trichotomy (f.place m e) (2 ^ f.eb - 3) with h | h | h
  · refine iff_of_false (by omega) (not_le.2 ?_)
    calc v * 2 ^ q ≤ 2 ^ (f.p + 1) * 2 ^ q := mul_le_mul_of_nonneg_right hV hu.le
      _ ≤ 2 ^ f.emax := by
        rw [← zpow_natCast, ← zpow_add₀ two_ne_zero]
        exact zpow_le_zpow_right₀ one_le_two (by push_cast; omega)
      _ < f.overflowBound := hlow
  · have hdouble : 2 ^ f.eb - 1 ≤ f.place m e + k / 2 ^ f.p ↔ 2 ^ (f.p + 1) ≤ k := by
      rw [Nat.pow_succ', ← Nat.le_div_iff_mul_le hB]
      omega
    rw [hdouble, hnear.even_le_iff (by rw [Nat.pow_succ]; omega), overflowBound_eq f (q := q) (by omega), mul_le_mul_iff_of_pos_right hu]
  · have hnormal : 2 ^ f.p ≤ k := hnorm.resolve_right (by omega)
    have hdiv : 1 ≤ k / 2 ^ f.p := (Nat.one_le_div_iff hB).2 hnormal
    refine iff_of_true (by omega) ?_
    calc f.overflowBound ≤ 2 ^ (f.emax + 1) := hhigh
      _ ≤ 2 ^ f.p * 2 ^ q := by
        rw [← zpow_natCast, ← zpow_add₀ two_ne_zero]
        exact zpow_le_zpow_right₀ one_le_two (by omega)
      _ ≤ v * 2 ^ q := mul_le_mul_of_nonneg_right (hVnorm.resolve_right (by omega)) hu.le

end

/-! ## The nearest finite value -/

/-- The encoding of rounded digits that stays below that of the infinity. -/
theorem val_word_rounded (hf : f.Binary) (neg : Bool) {k d : Nat} (hle : k ≤ 2 ^ (f.p + 1)) (hnorm : 2 ^ f.p ≤ k ∨ d = 0)
    (hfin : d * 2 ^ f.p + k < (2 ^ f.eb - 1) * 2 ^ f.p) :
    (f.val (f.word neg d k)).Finite ∧ (f.val (f.word neg d k)).neg? = neg ∧
      (f.val (f.word neg d k)).rat = (if neg then -1 else 1) * k * (2 : ℚ) ^ (f.quantum + d) := by
  have hA := hf.four_le
  have hB : 0 < 2 ^ f.p := Nat.two_pow_pos _
  rw [← not_le, infinity_le_iff, not_le] at hfin
  rcases Nat.eq_zero_or_pos k with rfl | hk
  · obtain rfl := hnorm.resolve_left (by omega)
    rw [val_word_zero hf]
    simp [FVal.Finite, FVal.neg?, FVal.rat]
  rcases hle.lt_or_eq with hlt | rfl
  · have hd : d + 3 ≤ 2 ^ f.eb := by
      rcases hnorm with h | rfl
      · have : 1 ≤ k / 2 ^ f.p := (Nat.one_le_div_iff hB).2 h
        omega
      · omega
    rw [val_word_fin hf neg ⟨by omega, hlt, hnorm, hd⟩]
    simp [FVal.Finite, FVal.neg?, FVal.rat]
  · have hcarry : f.word neg d (2 ^ (f.p + 1)) = f.word neg (d + 1) (2 ^ f.p) := by rw [Nat.pow_succ, Nat.mul_two, word_hidden]
    have hd : d + 1 + 3 ≤ 2 ^ f.eb := by
      have : 2 ^ (f.p + 1) / 2 ^ f.p = 2 := by rw [Nat.pow_succ, Nat.mul_div_cancel_left _ hB]
      omega
    rw [hcarry, val_word_fin hf neg ⟨hB.ne', Nat.pow_lt_pow_right one_lt_two (Nat.lt_succ_self _), .inl le_rfl, hd⟩]
    refine ⟨by simp [FVal.Finite], rfl, ?_⟩
    rw [FVal.rat, Nat.cast_succ, ← add_assoc, zpow_add₀ two_ne_zero (f.quantum + d), Nat.pow_succ]
    push_cast
    ring

/-- A finite value is an integer of p + 1 bits at a place from the quantum up. -/
theorem exists_rat_eq (hf : f.Binary) {x : Nat} (hx : x < 2 ^ f.width) (hfin : (f.val x).Finite) :
    ∃ (z : Int) (d : Nat), |z| < 2 ^ (f.p + 1) ∧ (f.val x).rat = z * (2 : ℚ) ^ (f.quantum + d) := by
  obtain ⟨hnan, hinf⟩ := hfin
  obtain ⟨neg, rfl | rfl | ⟨k, d, h, rfl⟩⟩ := val_cases hf hx hnan
  · exact absurd (val_word_inf hf neg) (hinf neg)
  · exact ⟨0, 0, by positivity, by rw [val_word_zero hf]; simp [FVal.rat]⟩
  · refine ⟨(if neg then -1 else 1) * k, d, ?_, ?_⟩
    · have : (k : Int) < 2 ^ (f.p + 1) := by exact_mod_cast h.lt
      cases neg <;> simpa using this
    · rw [val_word_fin hf neg h, FVal.rat]
      cases neg <;> simp

/-- No number of p + 1 bits at a place from the quantum up is nearer than the nearest integer in units of the last place: it is such
an integer itself, or lies below a power of two that is one. -/
theorem NearestEven.le_finite {v : ℚ} {k D : Nat} (h : NearestEven v k) (hv : 2 ^ f.p ≤ v ∨ D = 0) (z : Int) (d : Nat) (hz : |z| < 2 ^ (f.p + 1)) :
    let y := z * (2 : ℚ) ^ ((d : Int) - D)
    |v - k| ≤ |v - y| ∧ (|v - k| = |v - y| → y ≠ k → k % 2 = 0) := by
  intro y
  rcases le_or_gt D d with hd | hd
  · have hy : y = ((z * 2 ^ (d - D) : Int) : ℚ) := by
      rw [show y = z * (2 : ℚ) ^ ((d : Int) - D) from rfl, ← Nat.cast_sub hd, zpow_natCast]
      push_cast
      rfl
    rw [hy]
    exact h.le_int _
  · have hpow : 2 ^ f.p ≤ v := hv.resolve_right (by omega)
    have hy : y < 2 ^ f.p := by
      have hhalf : (2 : ℚ) ^ ((d : Int) - D) ≤ 2⁻¹ := by
        rw [← zpow_neg_one]
        exact zpow_le_zpow_right₀ one_le_two (by omega)
      have hz' : |(z : ℚ)| < 2 ^ (f.p + 1) := by exact_mod_cast hz
      calc y ≤ |(z : ℚ)| * (2 : ℚ) ^ ((d : Int) - D) := mul_le_mul_of_nonneg_right (le_abs_self _) (by positivity)
        _ ≤ |(z : ℚ)| * 2⁻¹ := mul_le_mul_of_nonneg_left hhalf (abs_nonneg _)
        _ < 2 ^ f.p := by rw [pow_succ] at hz'; linarith
    have hint : |v - k| ≤ v - 2 ^ f.p := by
      rw [← abs_of_nonneg (sub_nonneg.2 hpow)]
      exact_mod_cast (h.le_int (2 ^ f.p)).1
    have habs : v - y ≤ |v - y| := le_abs_self _
    exact ⟨by linarith, fun heq => absurd heq (by linarith)⟩

/-- The distance of a number from one of a given sign and magnitude, in some unit. -/
theorem abs_signed_sub (neg : Bool) {u : ℚ} (hu : 0 < u) (a b : ℚ) :
    |(if neg then -1 else 1) * a * u - b * u| = |a - (if neg then -1 else 1) * b| * u := by
  rw [← sub_mul, abs_mul, abs_of_pos hu]
  cases neg
  · simp
  · rw [if_pos rfl, ← abs_neg]
    congr 2
    ring

section
variable {m : Nat} (hm : m ≠ 0) (neg : Bool) (e : Int)
include hm

/-- From the bound on a number rounds to the infinity of its sign (R156). -/
theorem rne_of_bound_le (hf : f.Binary) (h : f.overflowBound ≤ m * 2 ^ e) :
    f.rne (.fin neg m e) = f.word neg (2 ^ f.eb - 1) 0 := by
  have hover := (overflow_iff_bound hm e hf neg).2 h
  have hA := hf.four_le
  obtain ⟨-, hnorm⟩ := digits_bounds hm e f neg
  have hk : f.digits neg m e ≠ 0 := fun h0 => by
    rw [infinity_le_iff, h0, Nat.zero_div] at hover
    have := Nat.two_pow_pos f.p
    omega
  rw [rne, round_fin, if_neg hk, if_pos ((overflow_iff_digits hm e hf neg).2 hover)]
  rfl

/-- Below the bound the encoding is that of the digits, and below that of the infinity. -/
theorem rne_of_lt_bound (hf : f.Binary) (h : m * 2 ^ e < f.overflowBound) :
    f.rne (.fin neg m e) = f.word neg (f.place m e) (f.digits neg m e) ∧
      f.place m e * 2 ^ f.p + f.digits neg m e < (2 ^ f.eb - 1) * 2 ^ f.p := by
  have hfits := mt (overflow_iff_bound hm e hf neg).1 (not_le.2 h)
  refine ⟨?_, not_le.1 hfits⟩
  obtain ⟨hle, hnorm⟩ := digits_bounds hm e f neg
  rw [rne, round_fin]
  by_cases hk : f.digits neg m e = 0
  · rw [if_pos hk, hk, hnorm.resolve_left (by rw [hk, Nat.le_zero_eq]; exact (Nat.two_pow_pos _).ne'), enc, word, Nat.zero_mul, Nat.add_zero]
  · rw [if_neg hk, if_neg (mt (overflow_iff_digits hm e hf neg).1 hfits), ulp_eq_place, enc_fin neg _ hk hle hnorm]

/-- The value of a number below the bound, in units of its last place. -/
theorem rat_rne (hf : f.Binary) (h : m * 2 ^ e < f.overflowBound) :
    let r := f.rne (.fin neg m e)
    r < 2 ^ f.width ∧ (f.val r).Finite ∧ (f.val r).neg? = neg ∧ r % 2 = f.digits neg m e % 2 ∧
      (f.val r).rat = (if neg then -1 else 1) * f.digits neg m e * (2 : ℚ) ^ f.ulp m e := by
  obtain ⟨hr, hfits⟩ := rne_of_lt_bound hm neg e hf h
  obtain ⟨hle, hnorm⟩ := digits_bounds hm e f neg
  obtain ⟨hfin, hneg, hrat⟩ := val_word_rounded hf neg hle hnorm hfits
  dsimp only
  rw [hr, ulp_eq_place]
  refine ⟨word_lt hf (hfits.trans_le ?_), hfin, hneg, word_mod_two hf, hrat⟩
  rw [Nat.pow_add]
  exact Nat.mul_le_mul_right _ (Nat.sub_le _ _)

/-- No finite value is nearer than that to which a number below the bound rounds, whose encoding is even where another is as near (R156). -/
theorem rne_nearest (hf : f.Binary) (h : m * 2 ^ e < f.overflowBound) {x : Nat} (hx : x < 2 ^ f.width)
    (hfin : (f.val x).Finite) :
    let v : FVal := .fin neg m e
    let r := f.rne v
    |v.rat - (f.val r).rat| ≤ |v.rat - (f.val x).rat| ∧
      (|v.rat - (f.val r).rat| = |v.rat - (f.val x).rat| → (f.val x).rat ≠ (f.val r).rat → r % 2 = 0) := by
  intro v r
  obtain ⟨-, -, -, hmod, hrat⟩ := rat_rne hm neg e hf h
  obtain ⟨z, d, hz, hxrat⟩ := exists_rat_eq hf hx hfin
  obtain ⟨-, hnorm⟩ := scaled_bounds hm e f
  have hu : (0 : ℚ) < 2 ^ f.ulp m e := by positivity
  have hv : v.rat = (if neg then -1 else 1) * (m * (2 : ℚ) ^ (e - f.ulp m e)) * 2 ^ f.ulp m e := by
    rw [mul_assoc, mul_assoc (m : ℚ), ← zpow_add₀ two_ne_zero, sub_add_cancel, ← mul_assoc]
    rfl
  have hy : (f.val x).rat = z * (2 : ℚ) ^ ((d : Int) - f.place m e) * 2 ^ f.ulp m e := by
    rw [hxrat, mul_assoc, ← zpow_add₀ two_ne_zero, ulp_eq_place]
    congr 2
    ring
  obtain ⟨hle, heven⟩ := (digits_nearestEven f neg m e).le_finite hnorm ((if neg then -1 else 1) * z) d (by cases neg <;> simpa using hz)
  have hcast : (((if neg then -1 else 1) * z : Int) : ℚ) = (if neg then -1 else 1) * z := by cases neg <;> simp
  rw [hcast] at hle heven
  have hk : (if neg then -1 else 1) * ((if neg then -1 else 1) * (f.digits neg m e : ℚ)) = f.digits neg m e := by cases neg <;> simp
  rw [hv, hrat, hy, abs_signed_sub neg hu, abs_signed_sub neg hu, hk, ← mul_assoc, hmod]
  refine ⟨mul_le_mul_of_nonneg_right hle hu.le, fun heq hne => heven (mul_right_cancel₀ hu.ne' heq) fun h => hne ?_⟩
  rw [← h, ← mul_assoc, ← mul_assoc]
  cases neg <;> simp

end

/-- A NaN rounds to the canonical NaN (R153). -/
theorem rne_nan (f : Fmt) : f.rne .nan = f.canon := rfl

end Fmt

/-- A truncation that saturates stays in its range (R180). -/
theorem toIntSat_mem {lo hi : Int} (x : FVal) (hlo : lo ≤ 0) (hhi : 0 ≤ hi) : lo ≤ toIntSat lo hi x ∧ toIntSat lo hi x ≤ hi := by
  unfold toIntSat
  split
  · exact ⟨hlo, hhi⟩
  · split <;> omega
  · exact ⟨hlo, hhi⟩
  · dsimp only
    split
    · split <;> omega
    · split
      · omega
      · split <;> omega

end Sys2Proof.Machine

open Sys2Proof Sys2Proof.Machine

/-- Settles O13: each conversion runs the function of its source. A finite value is an integer of p + 1 bits at some place; rounding takes
the nearest even integer in units of the number's last place, which no finite value undercuts, since one between two such units lies
below the number's own power of two. -/
theorem conversionResults : Obligations.ConversionResults := by
  unfold Obligations.ConversionResults
  refine ⟨gives2_of fun _ _ => rfl, gives2_of fun _ _ => rfl, gives2_of fun _ _ => rfl, gives2_of fun _ _ => rfl, gives2_of fun _ _ => rfl,
    gives2_of fun _ _ => rfl, gives2_of fun _ _ => rfl, gives2_of fun _ _ => rfl, gives2_of fun _ _ => rfl, gives2_of fun _ _ => rfl,
    gives2_of fun _ _ => rfl, gives2_of fun _ _ => rfl, gives2_of fun _ _ => rfl, gives2_of fun _ _ => rfl, gives2_of fun _ _ => rfl,
    gives2_of fun _ _ => rfl, gives2_of fun _ _ => rfl, gives2_of fun _ _ => rfl, fun _ _ x => toIntSat_mem x, fun _ _ => rfl, fun f hmem => ?_⟩
  have hf := Fmt.binary_of_mem f hmem
  intro rat finite
  have hrat : rat = FVal.rat := funext fun x => by cases x <;> rfl
  have hfinite : finite = FVal.Finite := rfl
  rw [hrat, hfinite]
  refine ⟨fun x hx hnan => ⟨Fmt.enc_val hf hx hnan, Fmt.rne_val hf hx hnan⟩, Fmt.rne_nan f, Fmt.val_canon hf, fun neg m e hm => ?_⟩
  intro v r bound
  rw [show |v.rat| = m * 2 ^ e from FVal.abs_rat_fin neg m e]
  refine ⟨fun h => ?_, fun h => ?_⟩
  · rw [show r = _ from Fmt.rne_of_bound_le hm.ne' neg e hf h, Fmt.val_word_inf hf]
  · obtain ⟨hlt, hfin, hneg, -, -⟩ := Fmt.rat_rne hm.ne' neg e hf h
    exact ⟨hlt, hfin, hneg, fun x hx hxfin => Fmt.rne_nearest hm.ne' neg e hf h hx hxfin⟩

end

section
/-! The values that a completed collective gives (R162, R163, R188). -/

namespace Sys2Proof.Machine

/-! ## Folds over the participants -/

/-- A sum of words is the sum of their numbers modulo 2^64. -/
theorem toNat_foldl_add (ps : List Arrival) (c : Word) :
    (ps.foldl (fun m w => m + w.a) c).toNat = (c.toNat + (ps.map fun w => w.a.toNat).sum) % 2 ^ 64 := by
  induction ps generalizing c with
  | nil => simpa using (Nat.mod_eq_of_lt c.isLt).symm
  | cons w ps ih => rw [List.foldl_cons, ih, BitVec.toNat_add, Nat.mod_add_mod, List.map_cons, List.sum_cons, Nat.add_assoc]

/-- Keeping the operand of the lesser key gives the start or an operand, and none of these has a lesser key. -/
theorem foldl_least (key : Word → Int) (ps : List Arrival) (c : Word) :
    let r := ps.foldl (fun m w => if key w.a < key m then w.a else m) c
    (r = c ∨ ∃ w ∈ ps, r = w.a) ∧ key r ≤ key c ∧ ∀ w ∈ ps, key r ≤ key w.a := by
  induction ps generalizing c with
  | nil => simp
  | cons w ps ih =>
    obtain ⟨hmem, hle, hall⟩ := ih (if key w.a < key c then w.a else c)
    have hstart : key (if key w.a < key c then w.a else c) ≤ key c ∧ key (if key w.a < key c then w.a else c) ≤ key w.a := by split <;> omega
    refine ⟨?_, hle.trans hstart.1, List.forall_mem_cons.2 ⟨hle.trans hstart.2, hall⟩⟩
    rw [List.exists_mem_cons_iff]
    rcases hmem with h | h
    · rw [List.foldl_cons, h]
      split
      · exact .inr (.inl rfl)
      · exact .inl rfl
    · exact .inr (.inr h)

/-- A sum of distinct powers of two has its ones at their exponents. -/
theorem getLsbD_sum_two_pow (ks : List Nat) (h : ks.Nodup) :
    ∀ i, (Word.ofN (ks.map (2 ^ ·)).sum).getLsbD i = (decide (i < 64) && decide (i ∈ ks)) := by
  induction ks with
  | nil => simp
  | cons k ks ih =>
    intro i
    obtain ⟨hk, hks⟩ := List.nodup_cons.1 h
    have hpow : Word.ofN (2 ^ k) = BitVec.twoPow 64 k := BitVec.eq_of_toNat_eq (by rw [BitVec.toNat_ofNat, BitVec.toNat_twoPow])
    have hfree : (Word.ofN (ks.map (2 ^ ·)).sum).getLsbD k = false := by rw [ih hks, decide_eq_false hk, Bool.and_false]
    rw [List.map_cons, List.sum_cons, Nat.add_comm, show Word.ofN _ = Word.ofN _ + Word.ofN _ from BitVec.ofNat_add _ _, hpow,
      BitVec.add_eq_or_of_and_eq_zero _ _ (by rw [BitVec.and_twoPow, hfree]; rfl), BitVec.getLsbD_or, BitVec.getLsbD_twoPow, ih hks]
    rw [Bool.eq_iff_iff]
    simp only [Bool.or_eq_true, Bool.and_eq_true, decide_eq_true_eq, List.mem_cons]
    constructor
    · rintro (⟨hi, hmem⟩ | ⟨hi, rfl⟩)
      exacts [⟨hi, .inr hmem⟩, ⟨hi, .inl rfl⟩]
    · rintro ⟨hi, rfl | hmem⟩
      exacts [.inr ⟨hi, rfl⟩, .inl ⟨hi, hmem⟩]

/-! ## Lanes of a tile -/

section
variable {ps : List Arrival} {t : Nat} (hnodup : (ps.map fun w => w.ln % t).Nodup)
include hnodup

/-- A lane of the tile names one participant. -/
theorem find?_tileLane {w : Arrival} (hw : w ∈ ps) : (ps.find? fun x => x.ln % t == w.ln % t) = some w := by
  cases hfind : ps.find? fun x => x.ln % t == w.ln % t with
  | none => simpa using List.find?_eq_none.1 hfind w hw
  | some x =>
    rw [List.inj_on_of_nodup_map hnodup (List.mem_of_find?_eq_some hfind) hw (by simpa using List.find?_some hfind)]

/-- A mask has its ones at the tile lanes of those that a test accepts. -/
theorem getLsbD_laneMask (ht : 0 < t) (hle : t ≤ 32) (test : Arrival → Bool) (i : Nat) :
    (Word.ofN ((ps.filter test).foldl (fun m w => m + 2 ^ (w.ln % t)) 0)).getLsbD i = true ↔ ∃ w ∈ ps, w.ln % t = i ∧ test w = true := by
  have hfold : (ps.filter test).foldl (fun m w => m + 2 ^ (w.ln % t)) 0 = (((ps.filter test).map fun w => w.ln % t).map (2 ^ ·)).sum := by
    rw [List.sum_eq_foldl, List.map_map, List.foldl_map]
    rfl
  rw [hfold, getLsbD_sum_two_pow _ (hnodup.sublist (List.filter_sublist.map _)), Bool.and_eq_true, decide_eq_true_eq, decide_eq_true_eq, List.mem_map]
  constructor
  · rintro ⟨-, w, hw, rfl⟩
    obtain ⟨hmem, htest⟩ := List.mem_filter.1 hw
    exact ⟨w, hmem, rfl, htest⟩
  · rintro ⟨w, hmem, rfl, htest⟩
    have := Nat.mod_lt w.ln ht
    exact ⟨by omega, w, List.mem_filter.2 ⟨hmem, htest⟩, rfl⟩

end

/-- The operand of the participant at a tile lane, a participant's own where that lane is absent. -/
def laneOperand (ps : List Arrival) (t : Nat) (u : Arrival) (k : Nat) : Word := ((ps.find? fun w => w.ln % t == k).map (·.a)).getD u.a

/-- Where no participant has the lane, the operand is the participant's own. -/
theorem laneOperand_absent {ps : List Arrival} {t k : Nat} (u : Arrival) (h : ∀ w ∈ ps, w.ln % t ≠ k) : laneOperand ps t u k = u.a := by
  rw [laneOperand, List.find?_eq_none.2 (by simpa using h)]
  rfl

/-- Where one has it, the operand is its. -/
theorem laneOperand_present {ps : List Arrival} {t k : Nat} (hnodup : (ps.map fun w => w.ln % t).Nodup) (u : Arrival) :
    ∀ w ∈ ps, w.ln % t = k → laneOperand ps t u k = w.a := by
  rintro w hw rfl
  rw [laneOperand, find?_tileLane hnodup hw]
  rfl

/-! ## The tree of a sum (R162, R163) -/

/-- A node is present where one below it is. -/
theorem combine_isSome (rnd : FVal → FVal) (a b : Option FVal) : (combine rnd a b).isSome = (a.isSome || b.isSome) := by
  cases a <;> cases b <;> rfl

section
variable {rnd : FVal → FVal} {node : Nat → Nat → Option FVal} (hnode : ∀ lv k, node (lv + 1) k = combine rnd (node lv (2 * k)) (node lv (2 * k + 1)))
include hnode

/-- One level of the tree over the nodes from an even one on. -/
theorem treeLevel_nodes (lv k n : Nat) : treeLevel rnd ((List.range' (2 * k) (2 * n)).map (node lv)) = (List.range' k n).map (node (lv + 1)) := by
  induction n generalizing k with
  | zero => rfl
  | succ n ih =>
    rw [Nat.mul_succ, List.range'_succ, List.range'_succ, List.map_cons, List.map_cons, treeLevel, Nat.add_assoc, ← Nat.mul_succ, ih, List.range'_succ,
      List.map_cons, hnode]

/-- The root of a block is the only node of the fifth level. -/
theorem treeRoot_nodes {xs : List (Option FVal)} (hxs : xs ++ List.replicate (32 - xs.length) none = (List.range' 0 32).map (node 0)) :
    treeRoot rnd xs = node 5 0 := by
  have hlevel := treeLevel_nodes hnode
  rw [treeRoot, hxs]
  rw [hlevel 0 0 16, hlevel 1 0 8, hlevel 2 0 4, hlevel 3 0 2, hlevel 4 0 1]
  rfl

/-- A node above one that is present is present. -/
theorem node_isSome_above {lv k : Nat} (h : (node lv k).isSome = true) : (node (lv + 1) (k / 2)).isSome = true := by
  rw [hnode, combine_isSome, Bool.or_eq_true]
  rcases Nat.mod_two_eq_zero_or_one k with hk | hk
  · exact .inl (by rwa [show 2 * (k / 2) = k by omega])
  · exact .inr (by rwa [show 2 * (k / 2) + 1 = k by omega])

/-- The root above a leaf that is present is present. -/
theorem root_isSome {k : Nat} (hk : k < 32) (h : (node 0 k).isSome = true) : (node 5 0).isSome = true := by
  have habove {lv k} := node_isSome_above hnode (lv := lv) (k := k)
  have hroot := habove (habove (habove (habove (habove h))))
  rwa [show k / 2 / 2 / 2 / 2 / 2 = 0 by omega] at hroot

end

/-- A single block with a root sums to the root, rounded. -/
theorem sum162_block {f : Fmt} {xs : List (Option FVal)} {r : FVal} (hne : xs ≠ []) (hlen : xs.length ≤ 32)
    (hroot : treeRoot (f.round .rn false) xs = some r) : sum162 f false xs none = some (f.round .rn false r) := by
  obtain ⟨x, xs, rfl⟩ := List.exists_cons_of_ne_nil hne
  have hlast : ∀ n acc, sumBlocks (f.round .rn false) n [] acc = acc := fun n acc => by cases n <;> rfl
  rw [sum162]
  unfold sumBlocks
  rw [List.take_of_length_le hlen, List.drop_of_length_le hlen, hroot]
  exact hlast _ _

/-- The leaves of a collective's sum: the operands at the tile lanes, of which some may be absent (R188). -/
def laneLeaves (f : Fmt) (ps : List Arrival) (t : Nat) : List (Option FVal) :=
  (upFrom 0 t).map fun k => (ps.find? fun w => w.ln % t == k).map fun w => f.val (w.a.toNat % 2 ^ f.width)

/-- RFADD and RDADD encode the sum of their leaves, where there is one. -/
theorem collResult_sum {fn : CollFn} {f : Fmt} (hf : (fn, f) ∈ [(CollFn.rfadd, f32), (CollFn.rdadd, f64)]) {ps : List Arrival} {t : Nat} {v : FVal}
    (u : Arrival) (h : sum162 f false (laneLeaves f ps t) none = some v) : collResult fn ps t u = Word.ofN (f.enc v) := by
  unfold laneLeaves at h
  simp only [List.mem_cons, Prod.mk.injEq, List.not_mem_nil, or_false] at hf
  obtain ⟨rfl, rfl⟩ | ⟨rfl, rfl⟩ := hf
  all_goals
    unfold collResult
    dsimp only
    rw [h]

/-- The sum of distinct lanes is the root of the tree over their tile, rounded (R162, R163, R188). -/
theorem collResult_tree {fn : CollFn} {f : Fmt} (hf : (fn, f) ∈ [(CollFn.rfadd, f32), (CollFn.rdadd, f64)]) {ps : List Arrival} {t : Nat} {u : Arrival}
    (hu : u ∈ ps) (ht : 0 < t) (hle : t ≤ 32) (hnodup : (ps.map fun w => w.ln % t).Nodup) {node : Nat → Nat → Option FVal}
    (hleaf : ∀ w ∈ ps, node 0 (w.ln % t) = some (f.val (w.a.toNat % 2 ^ f.width))) (habsent : ∀ k, (∀ w ∈ ps, w.ln % t ≠ k) → node 0 k = none)
    (hnode : ∀ lv k, node (lv + 1) k = combine (f.round .rn false) (node lv (2 * k)) (node lv (2 * k + 1))) :
    ∃ r, node 5 0 = some r ∧ collResult fn ps t u = Word.ofN (f.rne r) := by
  have hlane := Nat.mod_lt u.ln ht
  have hleaves : laneLeaves f ps t = (List.range' 0 t).map (node 0) := by
    rw [laneLeaves, upFrom_eq]
    refine List.map_congr_left fun k _ => ?_
    by_cases hk : ∃ w ∈ ps, w.ln % t = k
    · obtain ⟨w, hw, rfl⟩ := hk
      rw [find?_tileLane hnodup hw, hleaf w hw]
      rfl
    · have hk' : ∀ w ∈ ps, w.ln % t ≠ k := fun w hw h => hk ⟨w, hw, h⟩
      rw [habsent k hk', List.find?_eq_none.2 (by simpa using hk')]
      rfl
  have hlen : (laneLeaves f ps t).length = t := by rw [hleaves, List.length_map, List.length_range']
  have hpad : laneLeaves f ps t ++ List.replicate (32 - (laneLeaves f ps t).length) none = (List.range' 0 32).map (node 0) := by
    have hnone : (List.range' t (32 - t)).map (node 0) = List.replicate (32 - t) none := by
      rw [List.eq_replicate_iff]
      refine ⟨by simp, fun x hx => ?_⟩
      obtain ⟨k, hk, rfl⟩ := List.mem_map.1 hx
      rw [List.mem_range'_1] at hk
      exact habsent k fun w _ h => by
        have := Nat.mod_lt w.ln ht
        omega
    rw [hlen, hleaves, ← hnone, ← List.map_append]
    congr 1
    have := List.range'_append_1 (s := 0) (m := t) (n := 32 - t)
    rwa [Nat.zero_add, Nat.add_sub_cancel' hle] at this
  obtain ⟨r, hr⟩ := Option.isSome_iff_exists.1 (root_isSome hnode (hlane.trans_le hle) (Option.isSome_iff_exists.2 ⟨_, hleaf u hu⟩))
  refine ⟨r, hr, collResult_sum hf u (sum162_block ?_ (by omega) ((treeRoot_nodes hnode hpad).trans hr))⟩
  rw [← List.length_pos_iff, hlen]
  exact ht

end Sys2Proof.Machine

open Sys2Proof Sys2Proof.Machine

/-- Settles O40: distinct tile lanes make each lookup by lane name one participant and each mask a sum of distinct powers of two; sums and
extremes are folds; the levels of the tree are lists of nodes, padded to 32 leaves. -/
theorem collectiveValues : Obligations.CollectiveValues := by
  unfold Obligations.CollectiveValues
  intro ps t u hu ht hle hnodup htile give shuffled
  have hshuffled : ∀ fn k, give fn = laneOperand ps t u k → shuffled fn k := fun fn k h =>
    ⟨fun w hw hk => h.trans (laneOperand_present hnodup u w hw hk), fun hk => h.trans (laneOperand_absent u hk)⟩
  refine ⟨?_, ?_, ?_, fun i => (getLsbD_laneMask hnodup ht hle _ i).trans (by simp), fun i => (getLsbD_laneMask hnodup ht hle _ i).trans (by simp),
    hshuffled _ _ rfl, hshuffled _ _ ?_, hshuffled _ _ ?_, hshuffled _ _ rfl, (toNat_foldl_add ps 0).trans (by simp),
    (toNat_foldl_add _ 0).trans (by simp), ?_, ?_, fun fn f hf node hleaf habsent hnode => ?_⟩
  · refine if_congr ?_ rfl rfl
    rw [List.all_eq_true]
    refine forall₂_congr fun w hw => ?_
    rw [decide_eq_true_eq, ← Nat.div_add_mod w.ln t, ← Nat.div_add_mod u.ln t, htile w hw]
    simp
  · exact if_congr (by simp) rfl rfl
  · exact if_congr (by simp) rfl rfl
  · rw [← Nat.mod_add_mod]
    rfl
  · rw [← Nat.add_sub_assoc (Nat.mod_lt _ ht).le]
    rfl
  · obtain ⟨hmem, -, hall⟩ := foldl_least BitVec.toInt ps u.a
    exact ⟨hmem.elim (fun h => ⟨u, hu, h⟩) id, hall⟩
  · obtain ⟨hmem, -, hall⟩ := foldl_least (fun x => -x.toInt) ps u.a
    simp only [neg_lt_neg_iff, neg_le_neg_iff] at hmem hall
    exact ⟨hmem.elim (fun h => ⟨u, hu, h⟩) id, hall⟩
  · refine collResult_tree hf hu ht hle hnodup hleaf habsent fun lv k => ?_
    rw [hnode]
    cases node lv (2 * k) <;> cases node lv (2 * k + 1) <;> rfl

end

section
/-! The values of the floating instructions of one, two and three sources, and the lanes of a packed result (R165, R167, R168, R170, R172 to R176,
R178). -/

namespace Sys2Proof.Machine

/-- Of four lanes put together, each is a digit in base 2^16. -/
theorem bits_lanes {lane : Nat → Nat} (h : ∀ j, lane j < 2 ^ 16) {k : Nat} (hk : k < 4) :
    bits (Word.ofN (lane 0 + 2 ^ 16 * lane 1 + 2 ^ 32 * lane 2 + 2 ^ 48 * lane 3)).toNat (16 * k + 15) (16 * k) = lane k := by
  have h0 := h 0
  have h1 := h 1
  have h2 := h 2
  have h3 := h 3
  rw [bits, BitVec.toNat_ofNat]
  interval_cases k <;> omega

/-- A packed result holds at each lane what the operation gives for that lane of the sources (R170). -/
theorem bits_packed {g : Nat → Nat → Nat → Nat} (hg : ∀ x y z, g x y z < 2 ^ 16) (a b d : Word) {k : Nat} (hk : k < 4) :
    bits (packed g a b d).toNat (16 * k + 15) (16 * k) =
      g (bits a.toNat (16 * k + 15) (16 * k)) (bits b.toNat (16 * k + 15) (16 * k)) (bits d.toNat (16 * k + 15) (16 * k)) := by
  unfold packed
  extract_lets lane
  exact bits_lanes (lane := lane) (fun _ => hg _ _ _) hk

/-- A sign operation gives the canonical NaN for each NaN (R172). -/
theorem fsign_nan {f : Fmt} {a : Word} (h : f.isNan (a.toNat % 2 ^ f.width) = true) (g : Nat → Nat) : fsign f g a = Word.ofN f.canon :=
  congrArg Word.ofN (if_pos h)

end Sys2Proof.Machine

open Sys2Proof Sys2Proof.Machine

/-- Settles O11: each instruction runs the function of its sources; the lanes of a packed result are its digits in base 2^16. -/
theorem floatResults : Obligations.FloatResults := by
  unfold Obligations.FloatResults
  exact ⟨gives3_of fun _ _ => rfl, gives3_of fun _ _ => rfl, gives3_of fun _ _ => rfl, givesAcc_of fun _ _ => rfl,
    gives3_of fun _ _ => rfl, gives3_of fun _ _ => rfl, gives3_of fun _ _ => rfl, gives3_of fun _ _ => rfl,
    gives3_of fun _ _ => rfl, givesAcc_of fun _ _ => rfl, gives3_of fun _ _ => rfl, gives3_of fun _ _ => rfl,
    gives3_of fun _ _ => rfl, gives3_of fun _ _ => rfl, givesAcc_of fun _ _ => rfl, gives3_of fun _ _ => rfl,
    gives3_of fun _ _ => rfl, givesAcc_of fun _ _ => rfl, gives2Acc_of fun _ _ => rfl, gives2Acc_of fun _ _ => rfl,
    fun _ a b d _ hk hg => bits_packed hg a b d hk⟩

/-- Settles O12: each instruction runs the function of its source; the sign bit of a format is its bit eb + p, 31 or 63. -/
theorem floatUnaryResults : Obligations.FloatUnaryResults := by
  unfold Obligations.FloatUnaryResults
  exact ⟨gives2_of fun _ _ => rfl, gives2_of fun _ _ => rfl, gives2_of fun _ _ => rfl, gives2_of fun _ _ => rfl, gives2_of fun _ _ => rfl,
    gives2_of fun _ _ => rfl, gives2_of fun _ _ => rfl, gives2_of fun _ _ => rfl, gives2_of fun _ _ => rfl, gives2_of fun _ _ => rfl,
    gives2_of fun _ _ => rfl, gives2_of fun _ _ => rfl, gives2_of fun _ _ => rfl, gives2_of fun _ _ => rfl, gives2_of fun _ _ => rfl,
    gives2_of fun _ _ => rfl, gives2_of fun _ _ => rfl, gives2_of fun _ _ => rfl, gives2_of fun _ _ => rfl, gives2_of fun _ _ => rfl,
    gives2_of fun _ _ => rfl, gives2_of fun _ _ => rfl, fun _ _ h g => fsign_nan h g⟩

end

section
/-! The completion of collectives and of GPART: an arrival joins the record of its tile, and the last one that is missing ends it (R183, R185
to R190). -/

namespace Sys2Proof.Machine

/-! ## Live lanes -/

/-- Among the values that a test passes, a put under a key that the map has counts as the value it replaces, where the test and what is taken
of them agree. -/
theorem AMap.map_filter_set {β γ : Type} {p : Nat × β → Bool} {f : Nat × β → γ} {k : Nat} {v w : β} (hp : p (k, w) = p (k, v))
    (hf : f (k, w) = f (k, v)) : ∀ {m : AMap β}, AMap.get? m k = some v → ((AMap.set m k w).filter p).map f = (m.filter p).map f
  | (j, x) :: rest, h => by
    unfold AMap.get? at h
    unfold AMap.set
    split at h
    · rename_i hj
      cases h
      rw [if_pos hj, hj, List.filter_cons, List.filter_cons, hp]
      split
      · rw [List.map_cons, List.map_cons, hf]
      · rfl
    · rename_i hj
      have ih := AMap.map_filter_set hp hf h
      rw [if_neg hj, List.filter_cons, List.filter_cons]
      split
      · rw [List.map_cons, List.map_cons, ih]
      · exact ih

/-- The live lanes of a gang stay when a thread keeps its unit, its index in it and whether it lives. -/
theorem State.liveLanes_modThread (s : State) (tk : Nat) {f : Thread → Thread} (huid : ∀ t, (f t).uid = t.uid) (hlive : ∀ t, (f t).live = t.live)
    (htg : ∀ t, (f t).tg = t.tg) (uid gg : Nat) : (s.modThread tk f).liveLanes uid gg = s.liveLanes uid gg := by
  unfold State.modThread
  split
  · rename_i t ht
    unfold State.liveLanes State.liveOf State.threadsOf
    rw [List.filter_filter, List.filter_filter, List.filter_filter, List.filter_filter]
    refine AMap.map_filter_set ?_ ?_ ht
    · simp only [huid, hlive, Thread.gg, htg]
    · simp only [Thread.ln, htg]
  · rfl

/-- They do not depend on the units. -/
theorem State.liveLanes_modUnit (s : State) (k : Nat) (f : TUnit → TUnit) (uid gg : Nat) : (s.modUnit k f).liveLanes uid gg = s.liveLanes uid gg := by
  unfold State.liveLanes State.liveOf State.threadsOf
  rw [State.modUnit_threads]

/-- What holds of every value of a map and of a default holds of what a key reads as. -/
theorem AMap.All.getD {β : Type} {P : β → Prop} {m : AMap β} (h : AMap.All P m) (k : Nat) {d : β} (hd : P d) : P ((AMap.get? m k).getD d) := by
  cases hget : AMap.get? m k with
  | none => exact hd
  | some v => exact h.get? hget

/-! ## Arrivals -/

section
variable {s : State} {uid gg tile tk : Nat} {u : TUnit} {a : Arrival} {r : InstRec}

/-- A record put in for a tile of a gang. -/
def Gang.putRec (g : Gang) (tile : Nat) (r : InstRec) : Gang := { g with insts := AMap.set g.insts tile r }

/-- A record with one more arrival. -/
def InstRec.join (r : InstRec) (a : Arrival) : InstRec := { r with arrived := r.arrived ++ [a] }

/-- An arrival puts its record into the gang's tables. -/
theorem State.unit?_joinRecord (hu : s.unit? uid = some u) :
    (s.joinRecord uid gg tile tk a r).unit? uid = some (u.modGang gg (·.putRec tile (r.join a))) := by
  unfold State.joinRecord
  rw [State.unit?_modThread, State.unit?_modUnit _ hu]
  rfl

/-- A gang after its own change. -/
theorem TUnit.gang_modGang_same (u : TUnit) (gg : Nat) (f : Gang → Gang) : (u.modGang gg f).gang gg = f (u.gang gg) :=
  (TUnit.gang_modGang u gg gg f).trans (if_pos rfl)

/-- An arrival ends no thread. -/
theorem State.liveLanes_joinRecord (uid' gg' : Nat) : (s.joinRecord uid gg tile tk a r).liveLanes uid' gg' = s.liveLanes uid' gg' :=
  (State.liveLanes_modThread (f := fun t => { t.stepped with park := some .instance_, resume_ := false, seatPt := true }) _ tk (fun _ => rfl)
    (fun _ => rfl) (fun _ => rfl) uid' gg').trans (s.liveLanes_modUnit uid _ uid' gg')

/-- It leaves the live lanes of each tile of its gang. -/
theorem State.liveTile_joinRecord (hu : s.unit? uid = some u) (tile' : Nat) :
    (s.joinRecord uid gg tile tk a r).liveTile uid gg tile' = s.liveTile uid gg tile' := by
  unfold State.liveTile
  rw [State.unit?_joinRecord hu, hu]
  dsimp only
  rw [State.liveLanes_joinRecord, TUnit.gang_modGang_same]
  rfl

/-- The one that arrives is among the arrivals of its gang. -/
theorem Gang.mem_arrived_putRec (g : Gang) (tile : Nat) (r : InstRec) (a : Arrival) :
    a ∈ (g.putRec tile (r.join a)).insts.flatMap fun p => p.2.arrived :=
  List.mem_flatMap.2 ⟨(tile, r.join a), AMap.mem_of_get? (AMap.get?_set_same ..), List.mem_append_right _ List.mem_cons_self⟩

/-- Records of one size do not differ in size (R190). -/
theorem Gang.sizesDiffer_of_all {g : Gang} {size : Nat} (h : AMap.All (·.size = size) g.insts) : g.sizesDiffer = false := by
  have hopen : ∀ p ∈ g.insts.filter (fun p => p.2.fn == .gpart && !p.2.failed), p.2.size = size := fun p hp => h p (List.mem_of_mem_filter hp)
  unfold Gang.sizesDiffer
  rw [List.any_eq_false]
  intro p hp
  rw [List.any_eq_true]
  rintro ⟨q, hq, hne⟩
  rw [hopen p hp, hopen q hq] at hne
  exact absurd hne (by simp)

/-- An arrival at a record of its own function that has not failed, in a gang where no GPART has, joins the record, which then ends if it can:
with its tile, or for a GPART of a valid size that the other records share, with the gang (R185, R190). -/
theorem arrive_joins {fn : CollFn} {size : Nat} {t : Thread} (hu : s.unit? t.uid = some u) (hg : (u.gang t.gg).gfail = none)
    (hr : (AMap.get? (u.gang t.gg).insts ((u.gang t.gg).tile t.ln)).getD { ord := t.cord, fn := fn, size := size } = r)
    (hfailed : r.failed = false) (hfn : r.fn = fn)
    (hsize : fn = .gpart → sizeOk size = true ∧ r.size = size ∧ AMap.All (·.size = size) (u.gang t.gg).insts) :
    let s1 := s.joinRecord t.uid t.gg ((u.gang t.gg).tile t.ln) tk a r
    arrive fn size a tk t s =
      .hold (if fn = .gpart then s1.tryGpart t.uid t.gg else s1.tryInstance t.uid t.gg ((u.gang t.gg).tile t.ln)) := by
  intro s1
  have hdiffers : (fn == .gpart && r.size != size && sizeOk size) = false := by
    by_cases h : fn = .gpart
    · simp [(hsize h).2.1]
    · simp [h]
  unfold arrive
  rw [hu]
  dsimp only
  rw [hg]
  dsimp only
  rw [Bool.false_or, if_neg, hr, if_neg (by simp [hfailed, hfn, hdiffers])]
  · split
    · rename_i h
      obtain ⟨hok, hrsize, hall⟩ := hsize h
      refine congrArg Res.hold (if_neg ?_)
      rw [State.unit?_joinRecord hu]
      dsimp only
      rw [TUnit.gang_modGang_same, Gang.sizesDiffer_of_all (hall.set (v := r.join a) _ hrsize), hok]
      decide
    · rfl
  · split
    · rename_i r' hget
      rw [hget, Option.getD_some] at hr
      subst hr
      rw [hfailed, Bool.false_and]
      exact Bool.false_ne_true
    · exact Bool.false_ne_true

end

/-! ## The end of a record -/

section
variable {s : State} {uid gg tile tk : Nat} {u : TUnit} {r : InstRec}

/-- A tile's record of another function than GPART that has not failed ends where every live lane of the tile is in it, and else stays
(R186). -/
theorem State.tryInstance_eq (hu : s.unit? uid = some u) (hr : AMap.get? (u.gang gg).insts tile = some r) (hfailed : r.failed = false)
    (hfn : r.fn ≠ .gpart) (hany : r.arrived ≠ []) : s.tryInstance uid gg tile =
      if ∀ ln ∈ s.liveTile uid gg tile, ∃ x ∈ r.arrived, x.ln = ln then
        r.arrived.foldl (fun x w => x.leaveInstance (threadKey uid (32 * gg + w.ln)) w (collResult r.fn r.arrived (u.gang gg).gpart w) (· + 1))
          (s.modUnit uid fun v => v.modGang gg fun g => { g with insts := AMap.del g.insts tile })
      else s := by
  have hempty : r.arrived.isEmpty = false := by simpa using hany
  have hall : ((s.liveTile uid gg tile).all fun ln => r.arrived.any fun a => a.ln == ln) =
      decide (∀ ln ∈ s.liveTile uid gg tile, ∃ x ∈ r.arrived, x.ln = ln) := by
    rw [Bool.eq_iff_iff]
    simp
  unfold State.tryInstance
  rw [hu]
  dsimp only
  rw [hr]
  dsimp only
  rw [hfailed, if_neg Bool.false_ne_true, if_neg hfn, hempty, hall, State.modUnit_eq _ hu]
  by_cases h : ∀ ln ∈ s.liveTile uid gg tile, ∃ x ∈ r.arrived, x.ln = ln
  · rw [if_pos h, decide_eq_true h, if_neg (by decide)]
  · rw [if_neg h, decide_eq_false h, if_pos (by decide)]

/-- The last live lane that arrives ends the record that it joins; where one is missing the record stays (R186). -/
theorem State.tryInstance_joinRecord {a : Arrival} (hu : s.unit? uid = some u) (hfailed : r.failed = false) (hfn : r.fn ≠ .gpart) :
    let all := r.arrived ++ [a]
    let s1 := s.joinRecord uid gg tile tk a r
    s1.tryInstance uid gg tile = if ∀ ln ∈ s.liveTile uid gg tile, ∃ x ∈ all, x.ln = ln then
        all.foldl (fun x w => x.leaveInstance (threadKey uid (32 * gg + w.ln)) w (collResult r.fn all (u.gang gg).gpart w) (· + 1))
          (s1.modUnit uid fun v => v.modGang gg fun g => { g with insts := AMap.del g.insts tile })
      else s1 := by
  intro all s1
  have hget : AMap.get? ((u.modGang gg (·.putRec tile (r.join a))).gang gg).insts tile = some (r.join a) := by
    rw [TUnit.gang_modGang_same]
    exact AMap.get?_set_same ..
  have hany : (r.join a).arrived ≠ [] := List.append_ne_nil_of_right_ne_nil _ (List.cons_ne_nil _ _)
  rw [State.tryInstance_eq (State.unit?_joinRecord hu) hget hfailed hfn hany, State.liveTile_joinRecord hu, TUnit.gang_modGang_same]
  rfl

/-- A GPART record of a size that has not failed (R190). -/
def InstRec.Partitions (size : Nat) (r : InstRec) : Prop := r.fn = .gpart ∧ r.failed = false ∧ r.size = size

/-- Open GPART records of one size, which hold every live lane of the gang, end together (R190). -/
theorem State.tryGpart_ends {size : Nat} (hu : s.unit? uid = some u) (hg : (u.gang gg).gfail = none)
    (hrecs : AMap.All (InstRec.Partitions size) (u.gang gg).insts) :
    let all := (u.gang gg).insts.flatMap fun p => p.2.arrived
    all ≠ [] → (∀ ln ∈ s.liveLanes uid gg, ∃ x ∈ all, x.ln = ln) → s.tryGpart uid gg =
      all.foldl (fun x w => (x.leaveInstance (threadKey uid (32 * gg + w.ln)) { w with dst := none } 0 (fun _ => 0)).modThread
        (threadKey uid (32 * gg + w.ln)) fun v => { v with uord := 0 }.startRegion v.pc)
      (s.modUnit uid fun v => v.modGang gg fun g => { g with gpart := size, insts := [], utab := [], ubase := [] }) := by
  intro all hany hlive
  have hopen : (u.gang gg).insts.filter (fun p => p.2.fn == .gpart && !p.2.failed) = (u.gang gg).insts := by
    refine List.filter_eq_self.2 fun p hp => ?_
    obtain ⟨hfn, hfailed, -⟩ := hrecs p hp
    rw [hfn, hfailed]
    rfl
  have hhead : (((u.gang gg).insts.map (·.2.size)).head?).getD 32 = size := by
    cases hinsts : (u.gang gg).insts with
    | nil => exact absurd (by simp [all, hinsts]) hany
    | cons p rest => exact (hrecs p (hinsts ▸ List.mem_cons_self)).2.2
  have hends : (all.isEmpty || !(s.liveLanes uid gg).all fun ln => all.any fun a => a.ln == ln) = false := by
    simpa using ⟨hany, hlive⟩
  unfold State.tryGpart
  rw [hu]
  dsimp only
  rw [hg]
  dsimp only
  rw [hopen, hhead, if_neg (by rw [hends]; exact Bool.false_ne_true), State.modUnit_eq _ hu]

end

/-! ## The instructions -/

section
variable {s s0 : State} {tk : Nat} {t : Thread} {vals : List Word} {i : Instr} {fn : CollFn} {src : Option Src} {dst : Dst}

/-- An instruction whose effect says all ends with what it says. -/
theorem run_hold {s1 : State} {body : Body} (hr : Ready i s tk t vals s0) (hb : body tk t vals s0 = .hold s1) : run i s body = .next s1 := by
  rw [run_ready hr, hb]
  rfl

/-- A collective whose destination takes a result arrives (R189). -/
theorem collBody_arrives (hd : DstFree s tk dst) : collBody fn src dst tk t vals s =
    arrive fn 0 { ln := t.ln, a := vals.getD 0 0, d := vals.getD 1 0, dst := some dst, port := src.bind portOf } tk t s := by
  obtain ⟨w, hw, hfree⟩ := hd
  cases dst with
  | v n => rfl
  | m k =>
    unfold collBody
    dsimp only
    rw [hw]
    dsimp only
    rw [hfree k rfl]

/-- A collective with a result gathers the live lanes of its tile (R185 to R187). -/
theorem collective_gathers (hexec : exec i s = run i s (collBody fn src dst)) (hfn : fn ≠ .gpart) (hr : Ready i s tk t vals s0)
    (hd : DstFree s0 tk dst) :
    Gathers i s s0 tk t fn { ln := t.ln, a := vals.getD 0 0, d := vals.getD 1 0, dst := some dst, port := src.bind portOf } := by
  intro u hu g tile r all s1 hg hfailed hrfn
  have hjoins : exec i s = .next (s1.tryInstance t.uid t.gg tile) := by
    rw [hexec]
    refine run_hold hr ?_
    rw [collBody_arrives hd, arrive_joins hu hg rfl hfailed hrfn fun h => absurd h hfn, if_neg hfn]
  rw [hjoins, State.tryInstance_joinRecord hu hfailed (hrfn.trans_ne hfn), hrfn]
  refine ⟨fun hall => congrArg _ (if_pos hall), ?_⟩
  rintro ⟨ln, hln, hmissing⟩
  refine congrArg _ (if_neg fun hall => ?_)
  obtain ⟨x, hx, hxln⟩ := hall ln hln
  exact hmissing x hx hxln

/-- GPART of a valid size joins its tile's record, and the records of the gang end if they can (R190). -/
theorem execGpart_joins {o : OpA} {a : Word} {u : TUnit} {r : InstRec} (hr : Ready (.gpart o) s tk t [a] s0) (hu : s0.unit? t.uid = some u)
    (hok : sizeOk a.toNat = true) (hg : (u.gang t.gg).gfail = none)
    (hget : (AMap.get? (u.gang t.gg).insts ((u.gang t.gg).tile t.ln)).getD { ord := t.cord, fn := .gpart, size := a.toNat } = r)
    (hpart : r.Partitions a.toNat) (hrecs : AMap.All (InstRec.Partitions a.toNat) (u.gang t.gg).insts) :
    execGpart o s = .next ((s0.joinRecord t.uid t.gg ((u.gang t.gg).tile t.ln) tk
      { ln := t.ln, a := a, d := 0, dst := none, port := portOf o.a } r).tryGpart t.uid t.gg) := by
  obtain ⟨hfn, hfailed, hsize⟩ := hpart
  exact run_hold hr (arrive_joins hu hg hget hfailed hfn fun _ => ⟨hok, hsize, fun p hp => (hrecs p hp).2.2⟩)

/-- A collective of one source. -/
theorem coll_gathers {mk : OpX → Instr} (hexec : ∀ o s, exec (mk o) s = run (mk o) s (collBody fn (some o.a) o.d)) (hfn : fn ≠ .gpart) :
    ∀ o s tk t a s0, Ready (mk o) s tk t [a] s0 → DstFree s0 tk o.d →
      Gathers (mk o) s s0 tk t fn { ln := t.ln, a := a, d := 0, dst := some o.d, port := portOf o.a } :=
  fun o s _ _ _ _ hr hd => collective_gathers (hexec o s) hfn hr hd

/-- A shuffle. -/
theorem shuffle_gathers {mk : OpX → Instr} (hexec : ∀ o s, exec (mk o) s = run (mk o) s (collBody fn (some o.a) o.d)) (hfn : fn ≠ .gpart) :
    ∀ o s tk t a d s0, Ready (mk o) s tk t [a, d] s0 → DstFree s0 tk o.d →
      Gathers (mk o) s s0 tk t fn { ln := t.ln, a := a, d := d, dst := some o.d, port := portOf o.a } :=
  fun o s _ _ _ _ _ hr hd => collective_gathers (hexec o s) hfn hr hd

end

end Sys2Proof.Machine

open Sys2Proof Sys2Proof.Machine

/-- Settles O39: the fifteen instructions are one body with a function each. -/
theorem collectivesComplete : Obligations.CollectivesComplete := by
  unfold Obligations.CollectivesComplete
  exact ⟨fun o s _ _ hr hd => collective_gathers (src := none) (i := .elect o) rfl nofun hr hd, coll_gathers (fun _ _ => rfl) nofun,
    coll_gathers (fun _ _ => rfl) nofun, coll_gathers (fun _ _ => rfl) nofun, shuffle_gathers (fun _ _ => rfl) nofun,
    shuffle_gathers (fun _ _ => rfl) nofun, shuffle_gathers (fun _ _ => rfl) nofun, shuffle_gathers (fun _ _ => rfl) nofun,
    coll_gathers (fun _ _ => rfl) nofun, coll_gathers (fun _ _ => rfl) nofun, coll_gathers (fun _ _ => rfl) nofun,
    coll_gathers (fun _ _ => rfl) nofun, coll_gathers (fun _ _ => rfl) nofun, coll_gathers (fun _ _ => rfl) nofun,
    coll_gathers (fun _ _ => rfl) nofun⟩

/-- Settles O41: the arrival joins its tile's record, after which every open record is a GPART of the size, and all of them end. -/
theorem partitionCompletes : Obligations.PartitionCompletes := by
  unfold Obligations.PartitionCompletes
  intro o s tk t a s0 u hr hu hok g tile r s1 hg hparts u1 hu1 all hlive
  have hrecs : AMap.All (InstRec.Partitions a.toNat) g.insts := hparts
  have hpart : r.Partitions a.toNat := AMap.All.getD hrecs tile ⟨rfl, rfl, rfl⟩
  have hgang : u1.gang t.gg = g.putRec tile (r.join { ln := t.ln, a := a, d := 0, dst := none, port := portOf o.a }) := by
    rw [State.unit?_joinRecord hu, Option.some.injEq] at hu1
    rw [← hu1, TUnit.gang_modGang_same]
  have hrecs1 : AMap.All (InstRec.Partitions a.toNat) (u1.gang t.gg).insts := hgang ▸ hrecs.set tile hpart
  have hany : all ≠ [] := List.ne_nil_of_mem (hgang ▸ g.mem_arrived_putRec tile r _)
  exact (execGpart_joins hr hu hok hg rfl hpart hrecs).trans
    (congrArg _ (State.tryGpart_ends hu1 (hgang ▸ hg) hrecs1 hany hlive))

end

section
/-! The operand-buffer reservations: the lowest free range and handle, and what ORES and ORLS answer (R199 to R201). -/

namespace Sys2Proof.Machine

/-! ## The lowest free range (R200) -/

/-- A range of size bytes at an offset lies in the unit's operand-buffer allocation and meets no reservation. -/
def TUnit.RangeFree (u : TUnit) (size o : Nat) : Prop :=
  o + size ≤ u.obSize ∧ ∀ r ∈ u.resv, o + size ≤ r.2.off ∨ r.2.off + r.2.size ≤ o

/-- The offsets at which `TUnit.freeRange` looks: the start of the allocation and the end of each reservation. -/
def TUnit.rangeStarts (u : TUnit) : List Nat := 0 :: u.resv.map fun r => r.2.off + r.2.size

/-- A fold that takes its first element and then keeps the lesser one gives the least element. -/
theorem foldl_eq_min? {f : Option Nat → Nat → Option Nat} (hnone : ∀ o, f none o = some o) (hsome : ∀ b o, f (some b) o = some (min b o)) :
    ∀ xs : List Nat, xs.foldl f none = xs.min?
  | [] => rfl
  | x :: xs => by rw [List.foldl_cons, hnone, List.foldl_hom some hsome, List.min?_cons']

section
variable {u : TUnit} {size o : Nat}

/-- `TUnit.freeRange` gives the least of its offsets with a free range. -/
theorem TUnit.freeRange_eq_some_iff_start :
    u.freeRange size = some o ↔ (o ∈ u.rangeStarts ∧ u.RangeFree size o) ∧ ∀ p, p ∈ u.rangeStarts ∧ u.RangeFree size p → o ≤ p := by
  unfold TUnit.freeRange
  rw [foldl_eq_min? (fun _ => rfl) (fun _ _ => rfl), List.min?_eq_some_iff]
  simp only [List.mem_filter, Bool.and_eq_true, Bool.or_eq_true, decide_eq_true_eq, List.all_eq_true, TUnit.RangeFree, TUnit.rangeStarts]

/-- A free range away from the start of the allocation and the end of every reservation is free one byte lower too. -/
theorem TUnit.RangeFree.pred (h : u.RangeFree size (o + 1)) (hstart : o + 1 ∉ u.rangeStarts) : u.RangeFree size o := by
  obtain ⟨hfits, hclear⟩ := h
  refine ⟨by omega, fun r hr => (hclear r hr).imp (by omega) fun hbelow => ?_⟩
  have hne : r.2.off + r.2.size ≠ o + 1 := fun he => hstart (List.mem_cons_of_mem _ (List.mem_map.2 ⟨r, hr, he⟩))
  omega

/-- Below a free range, or at it, one starts where `TUnit.freeRange` looks. -/
theorem TUnit.RangeFree.exists_start (h : u.RangeFree size o) : ∃ p ≤ o, p ∈ u.rangeStarts ∧ u.RangeFree size p := by
  induction o with
  | zero => exact ⟨0, le_rfl, List.mem_cons_self, h⟩
  | succ o ih =>
    by_cases hstart : o + 1 ∈ u.rangeStarts
    · exact ⟨o + 1, le_rfl, hstart, h⟩
    · obtain ⟨p, hp, hp'⟩ := ih (h.pred hstart)
      exact ⟨p, Nat.le_succ_of_le hp, hp'⟩

/-- `TUnit.freeRange` gives the lowest offset of a free range. -/
theorem TUnit.freeRange_eq_some_iff : u.freeRange size = some o ↔ u.RangeFree size o ∧ ∀ p < o, ¬u.RangeFree size p := by
  rw [TUnit.freeRange_eq_some_iff_start]
  constructor
  · rintro ⟨⟨-, hfree⟩, hleast⟩
    refine ⟨hfree, fun p hp hlower => ?_⟩
    obtain ⟨q, hq, hq'⟩ := hlower.exists_start
    exact absurd (hleast q hq') (by omega)
  · rintro ⟨hfree, hlowest⟩
    refine ⟨?_, fun p hp => not_lt.1 fun hlt => hlowest p hlt hp.2⟩
    obtain ⟨q, hq, hq'⟩ := hfree.exists_start
    obtain rfl : q = o := hq.antisymm (not_lt.1 fun hlt => hlowest q hlt hq'.2)
    exact hq'

end

/-! ## The lowest free handle (R200) -/

/-- `TUnit.freeHandle` gives the lowest handle of 1 to 255 that the unit does not hold. -/
theorem TUnit.freeHandle_eq_some_iff {u : TUnit} {h : Nat} : u.freeHandle = some h ↔
    0 < h ∧ h ≤ 255 ∧ AMap.get? u.resv h = none ∧ ∀ k, 0 < k → k < h → AMap.get? u.resv k ≠ none := by
  rw [TUnit.freeHandle, upFrom_eq, List.find?_range'_eq_some]
  simp only [Option.isNone_iff_eq_none, List.mem_range'_1, Bool.not_eq_true', Option.isNone_eq_false_iff, ← Option.ne_none_iff_isSome]
  constructor
  · rintro ⟨hfree, ⟨hpos, hlt⟩, hlowest⟩
    exact ⟨hpos, by omega, hfree, hlowest⟩
  · rintro ⟨hpos, hle, hfree, hlowest⟩
    exact ⟨hfree, ⟨hpos, by omega⟩, hlowest⟩

/-! ## ORES (R199, R200) -/

section
variable {o : OpX} {s s0 s1 : State} {tk : Nat} {t : Thread} {va : Word} {bs : List Byte} {r : Resv} {u : TUnit}
  (hr : Ready (.ores o) s tk t [va] s0) (hdst : DstFree s0 tk o.d) (hcard : Through (readCard tk t 4 va s0) bs s1)
  (hrec : resvOf bs = some r) (hu : s1.unit? t.uid = some u)
include hr hdst hcard hrec hu

/-- ORES of a valid record with a free handle and a free range holds them, and gives the handle. -/
theorem execOres_holds {h off : Nat} (hh : u.freeHandle = some h) (hoff : u.freeRange r.size = some off) :
    execOres o s = .next ((((s1.setUnit t.uid { u with resv := AMap.set u.resv h { r with off := off } }).forgetAt (.obuf t.uid off) r.size).putDst
      tk o.d (Word.ofN h)).modThread tk fun v => v.pastR (.ores o)) := by
  refine run_seqR hr ?_
  rw [checkDst_free hdst]
  refine hcard.goesOn ?_ trivial
  rw [hrec, hu]
  dsimp only
  rw [hh, hoff]

/-- ORES of a valid record without a free handle or without a free range holds nothing, and gives 0. -/
theorem execOres_full (hnone : u.freeHandle = none ∨ u.freeRange r.size = none) :
    execOres o s = .next ((s1.putDst tk o.d 0).modThread tk fun v => v.pastR (.ores o)) := by
  refine run_seqR hr ?_
  rw [checkDst_free hdst]
  refine hcard.goesOn ?_ trivial
  rw [hrec, hu]
  dsimp only
  rcases hnone with hnone | hnone
  · rw [hnone]
  · rw [hnone]
    cases u.freeHandle <;> rfl

end

/-! ## ORLS (R201) -/

/-- ORLS of a handle that the group holds makes it releasing; it is returned at once where no accepted op names it. -/
theorem execOrls_releases {o : OpA} {s s0 : State} {tk : Nat} {t : Thread} {h : Word} {u : TUnit} {r : Resv}
    (hr : Ready (.orls o) s tk t [h] s0) (hpos : 0 < h.toNat) (hle : h.toNat ≤ 255) (hu : s0.unit? t.uid = some u)
    (hheld : AMap.get? u.resv h.toNat = some r) (hrel : r.releasing = false) :
    execOrls o s = .next ((((s0.setUnit t.uid { u with resv := AMap.set u.resv h.toNat { r with releasing := true } }).spoilHandle
      t.uid h.toNat r).returnHandle t.uid h.toNat).modThread tk fun v => v.pastR (.orls o)) := by
  refine run_seqR hr ?_
  have hrange : ¬(h.toNat = 0 ∨ h.toNat > 255) := by omega
  simp only [List.getD_cons_zero, Bool.or_eq_true, decide_eq_true_eq, if_neg hrange, hu, Option.bind_some, hheld, hrel, Bool.false_eq_true, if_false]
  rw [State.modUnit_eq _ hu]

end Sys2Proof.Machine

open Sys2Proof Sys2Proof.Machine

/-- Settles O44: the lowest free range is among the offsets that `TUnit.freeRange` tries, since a free range slides down to the start of
the allocation or to the end of a reservation. -/
theorem reservationsComplete : Obligations.ReservationsComplete := by
  unfold Obligations.ReservationsComplete
  refine ⟨fun o s tk t va s0 bs s1 r u hr hdst hcard hrec hu =>
      ⟨fun h off => execOres_holds hr hdst hcard hrec hu, execOres_full hr hdst hcard hrec hu⟩,
    fun o s tk t h s0 u r hr hpos hle hu hheld hrel => execOrls_releases hr hpos hle hu hheld hrel, fun u size o h => ?_,
    fun u h => TUnit.freeHandle_eq_some_iff.1⟩
  obtain ⟨⟨hfits, hclear⟩, hlowest⟩ := TUnit.freeRange_eq_some_iff.1 h
  exact ⟨hfits, hclear, hlowest⟩

end

section
/-! The operations of the ATOMs at their places (R244 to R246). -/

namespace Sys2Proof.Machine

/-- The little-endian bytes of a number that fits in them have its value. -/
theorem leVal_leBytes_of_lt : ∀ {n x : Nat}, x < 256 ^ n → leVal (leBytes n x) = x
  | 0, x, h => (Nat.lt_one_iff.1 h).symm
  | n + 1, x, h => by
    have hrest : x / 256 < 256 ^ n := Nat.div_lt_of_lt_mul (by rwa [← Nat.pow_succ'])
    rw [leBytes, leVal, leVal_leBytes_of_lt hrest, BitVec.toNat_ofNat]
    exact Nat.mod_add_div x 256

/-- Where a core has no write pending and no collector entry open, an access at home has nothing to wait for (R116). -/
theorem State.orderAtHome_clear {s : State} {ck : Nat} (hcoll : (s.core ck).coll = []) (hpend : (s.core ck).pend = []) (tk : Nat) (l : Loc)
    (n : Nat) : s.orderAtHome ck tk l n = s := by
  simp only [State.orderAtHome, hcoll, hpend, List.any_nil, Bool.false_eq_true, if_false]

section
variable {s : State} (hquiet : s.Quiet)
include hquiet

/-- A thread's write at home, noted, sent on and copied into the L1 as an access at home does, sets its bytes of memory alone (R116, R259). -/
theorem State.writeHome_mem (w : Writer) (q tk ck d n : Nat) (l : Loc) (bs : List Byte) :
    ((((s.writeAt 0 (.home d) bs).noteWrite w q l n).offWrite q tk 0 d bs).l1Update ck l bs).mem = s.mem.setBytes d bs := by
  obtain ⟨hmem, hcores, hhub, -, hunits⟩ := State.writeAt_home bs s d
  rw [State.noteWrite_quiet (hquiet.congr hhub hcores hunits), (State.l1Update_keeps ..).1, (State.offWrite_keeps ..).1, hmem]

variable {ck d n : Nat} (hcoll : (s.core ck).coll = []) (hpend : (s.core ck).pend = []) (herr : s.targetErr d n true = none)
include hcoll hpend herr

/-- An atomic operation at a quiet home is one read of its bytes and one write of them (R244). -/
theorem State.atomAt_home (tk : Nat) (f : Nat → Nat) :
    (s.atomAt ck tk (.home d) n f).1 = .inl (leVal (s.mem.bytes d n)) ∧
    (s.atomAt ck tk (.home d) n f).2.mem = s.mem.setBytes d (leBytes n (f (leVal (s.mem.bytes d n)))) := by
  have hnext : s.takeSeq.2.Quiet := hquiet.congr rfl rfl rfl
  have hloc : s.locErr (.home d) n true = none := herr
  have hread : leVal ((upFrom 0 n).map fun k => s.takeSeq.2.byteAt 0 (Loc.add (.home d) k)) = leVal (s.mem.bytes d n) :=
    congrArg leVal (s.takeSeq.2.bytesAt_eq (.home d) n)
  unfold State.atomAt
  dsimp only
  rw [State.orderAtHome_clear hcoll hpend, hloc]
  simp only [State.inFlight_idle hnext.idle, Bool.false_eq_true, if_false]
  rw [hread]
  exact ⟨rfl, State.writeHome_mem hnext _ _ _ _ _ _ _ _⟩

end

end Sys2Proof.Machine

open Sys2Proof Sys2Proof.Machine

/-- Settles O25: the thirteen ATOMs are one effect with a function of the width, the old value and the operand. -/
theorem atomicsComplete : Obligations.AtomicsComplete := by
  unfold Obligations.AtomicsComplete
  intro Atom swap
  have hatom {mk : AtomOp → Instr} {promote pair : Bool} {f : Thread → AtomOp → AtomFn}
      (hexec : ∀ o s, exec (mk o) s = run (mk o) s fun tk t vals s => atomBody o promote pair (f t o) tk t vals s) : Atom mk promote pair f :=
    fun o s _ _ _ _ _ _ _ _ _ _ hr hspec hout hreach hrel hprom old s5 =>
      atom_next hr hspec hout hreach hrel hprom (hexec o s) old s5
  -- Each instruction is matched with `hatom` by its name and its function, not by the unfolded statement.
  clear_value Atom
  exact ⟨hatom fun _ _ => rfl, hatom fun _ _ => rfl, hatom fun _ _ => rfl, hatom fun _ _ => rfl, hatom fun _ _ => rfl, hatom fun _ _ => rfl,
    hatom fun _ _ => rfl, hatom fun _ _ => rfl, hatom fun _ _ => rfl, hatom fun _ _ => rfl, hatom fun _ _ => rfl, hatom fun _ _ => rfl,
    hatom fun _ _ => rfl⟩

/-- Settles O26: with nothing to wait for and no op in flight, the operation sets the bytes that it has read, and memory else stays. -/
theorem atomicAtHome : Obligations.AtomicAtHome := by
  unfold Obligations.AtomicAtHome
  intro s ck tk d n f hwf _ hfits herr hcoll hpend hspec hidle r
  obtain ⟨hold, hmem⟩ := State.atomAt_home ⟨hspec, hidle⟩ hcoll hpend herr tk f
  have hlen : (leBytes n (f (leVal (s.mem.bytes d n)))).length = n := leBytes_length ..
  refine ⟨hold, ?_, fun a ha => ?_⟩
  · have hbytes := Store.bytes_setBytes (leBytes n (f (leVal (s.mem.bytes d n)))) hwf d
    rw [hlen] at hbytes
    rw [hmem, hbytes]
    exact leVal_leBytes_of_lt ((hfits _).trans_eq (Nat.pow_mul 2 8 n))
  · rw [hmem, Store.byte_setBytes_ne _ hwf (hlen.symm ▸ ha)]

end

section
/-! Loop levels, the return, LOOP, and the delivery of traps (R273, R280 to R283, R286, R288, R341 to R343, R350). -/

namespace Sys2Proof.Machine

/-! ## Loop levels -/

/-- loop_exit_check ends levels of the present call depth that do not hold the target, and no other (R283). -/
theorem exitCheck_ends (cd : Nat) (a : Word) : ∀ ls : List LoopLevel, ∃ gone, ls = gone ++ exitCheck cd a ls ∧
    ∀ l ∈ gone, l.depth = cd ∧ ¬(l.s.toNat ≤ a.toNat ∧ a.toNat < l.e.toNat)
  | [] => ⟨[], rfl, by simp⟩
  | l :: ls => by
    unfold exitCheck
    split
    · rename_i h
      obtain ⟨gone, hls, hg⟩ := exitCheck_ends cd a ls
      exact ⟨l :: gone, congrArg (l :: ·) hls, List.forall_mem_cons.2 ⟨h, hg⟩⟩
    · exact ⟨[], rfl, by simp⟩

/-- The innermost level that loop_exit_check leaves is of another depth or holds the target (R283). -/
theorem exitCheck_head (cd : Nat) (a : Word) : ∀ (ls : List LoopLevel) {l rest}, exitCheck cd a ls = l :: rest →
    l.depth ≠ cd ∨ (l.s.toNat ≤ a.toNat ∧ a.toNat < l.e.toNat)
  | [], _, _, h => nomatch h
  | l :: ls, m, rest, h => by
    unfold exitCheck at h
    split at h
    · exact exitCheck_head cd a ls h
    · rename_i hl
      cases h
      exact (Decidable.not_and_iff_not_or_not.1 hl).imp_right Decidable.not_not.1

/-- The return ends levels that are recorded deeper, and no other (R273). -/
theorem dropDeep_ends (cd : Nat) : ∀ ls : List LoopLevel, ∃ gone, ls = gone ++ dropDeep cd ls ∧ ∀ l ∈ gone, cd < l.depth
  | [] => ⟨[], rfl, by simp⟩
  | l :: ls => by
    unfold dropDeep
    split
    · rename_i h
      obtain ⟨gone, hls, hg⟩ := dropDeep_ends cd ls
      exact ⟨l :: gone, congrArg (l :: ·) hls, List.forall_mem_cons.2 ⟨h, hg⟩⟩
    · exact ⟨[], rfl, by simp⟩

/-- The innermost level that the return leaves is not recorded deeper (R273). -/
theorem dropDeep_head (cd : Nat) : ∀ (ls : List LoopLevel) {l rest}, dropDeep cd ls = l :: rest → l.depth ≤ cd
  | [], _, _, h => nomatch h
  | l :: ls, m, rest, h => by
    unfold dropDeep at h
    split at h
    · exact dropDeep_head cd ls h
    · rename_i hl
      cases h
      exact Nat.not_lt.1 hl

/-! ## The end check (R282) -/

/-- The end of a body that has more passes to run goes back to its start, with one pass fewer. -/
theorem endCheck_again {cd m : Nat} (a e : Word) (ls : List LoopLevel) (h : 0 < m) (hm : m + 1 < 2 ^ 32) :
    endCheck cd e ({ lc := BitVec.ofNat 32 (m + 1), s := a, e := e, depth := cd } :: ls) =
      ({ lc := BitVec.ofNat 32 m, s := a, e := e, depth := cd } :: ls, a) := by
  have hsub : BitVec.ofNat 32 (m + 1) - 1 = BitVec.ofNat 32 m := by bv_omega
  have hne : BitVec.ofNat 32 m ≠ 0 := by bv_omega
  simp only [endCheck, hsub, and_self, if_true, if_pos hne]

/-- The end of a body in its last pass closes the level. -/
theorem endCheck_last (cd : Nat) (a e : Word) (ls : List LoopLevel) :
    endCheck cd e ({ lc := BitVec.ofNat 32 1, s := a, e := e, depth := cd } :: ls) = endCheck cd e ls := by
  conv_lhs => unfold endCheck
  rw [if_pos ⟨rfl, rfl⟩]
  exact if_neg (not_not_intro (BitVec.sub_self 1#32))

/-- As many ends as there are passes left but the last lower the count by one each. -/
theorem endCheck_repeat {cd n : Nat} (a e : Word) (ls : List LoopLevel) (hn : n < 2 ^ 32) : ∀ k, k < n →
    Nat.repeat (fun r : List LoopLevel × Word => endCheck cd e r.1) k ({ lc := BitVec.ofNat 32 n, s := a, e := e, depth := cd } :: ls, a) =
      ({ lc := BitVec.ofNat 32 (n - k), s := a, e := e, depth := cd } :: ls, a)
  | 0, _ => rfl
  | k + 1, hk => by
    rw [Nat.repeat, endCheck_repeat a e ls hn k (by omega)]
    obtain ⟨m, rfl⟩ : ∃ m, n = k + 1 + m := ⟨n - (k + 1), by omega⟩
    rw [show k + 1 + m - k = m + 1 by omega, show k + 1 + m - (k + 1) = m by omega]
    exact endCheck_again a e ls (by omega) (by omega)

/-! ## RET -/

/-- A return that is none from a handler (R273). -/
theorem Thread.return_plain {t : Thread} (h : ¬(t.ih = true ∧ t.cd - 1 = t.hd)) :
    t.return_ = { t with cd := t.cd - 1, loops := exitCheck (t.cd - 1) (t.reg 59) (dropDeep (t.cd - 1) t.loops) }.jumpTo (t.reg 59) := by
  have hh : (t.ih && t.cd - 1 == t.hd) = false := by
    rw [← Bool.not_eq_true, Bool.and_eq_true, beq_iff_eq]
    exact h
  simp only [Thread.return_, hh, Bool.false_eq_true, if_false]

/-- The return from a handler (R273, R343). -/
theorem Thread.return_handler {t : Thread} (h : t.ih = true) (hd : t.cd - 1 = t.hd) :
    t.return_ = ({ t.setReg 59 t.hv with
      ih := false, cd := t.cd - 1, loops := exitCheck (t.cd - 1) (t.reg 59) (dropDeep (t.cd - 1) t.loops) }.jumpTo (t.reg 59)).startRegion (t.reg 59) := by
  have hh : (t.ih && t.cd - 1 == t.hd) = true := by
    rw [Bool.and_eq_true, beq_iff_eq]
    exact ⟨h, hd⟩
  simp only [Thread.return_, hh, if_true, Thread.setReg_loops]

/-- RET to an even address leaves its thread returned. -/
theorem exec_ret {o : OpG} {s : State} {tk : Nat} {t : Thread} (h : Ready (.ret o) s tk t [] s) (he : (t.reg 59).toNat % 2 = 0) :
    exec (.ret o) s = .next (s.setThread tk t.return_) := by
  show execRet o s = _
  rw [execRet, run_ready h, if_neg (by omega)]
  rfl

/-! ## LOOP -/

/-- A body whose end is found leaves the rest to what follows (R281). -/
theorem withBody_ok {tk len : Nat} {t : Thread} {s s1 : State} {p : Parcel} {e : Word}
    (h : s.bodyEnd t (2 ^ 57) len (t.pw + 4) = (.ok p s1, e)) (k : State → Word → Res) : withBody tk t len s k = k s1 e := by
  unfold withBody
  rw [h]

/-- The innermost level that LOOP looks at refuses the new body: it is of the same depth and ends inside it (R281). -/
def endsInside (cd : Nat) (e : Word) : List LoopLevel → Bool
  | l :: _ => l.depth == cd && l.e.toNat < e.toNat
  | [] => false

theorem endsInside_eq_true {cd : Nat} {e : Word} {ls : List LoopLevel} (h : ∃ l rest, ls = l :: rest ∧ l.depth = cd ∧ l.e.toNat < e.toNat) :
    endsInside cd e ls = true := by
  obtain ⟨l, rest, rfl, hd, he⟩ := h
  simp [endsInside, hd, he]

theorem endsInside_eq_false {cd : Nat} {e : Word} {ls : List LoopLevel} (h : ∀ l rest, ls = l :: rest → l.depth = cd → e.toNat ≤ l.e.toNat) :
    endsInside cd e ls = false := by
  cases ls with
  | nil => rfl
  | cons l rest =>
    have := h l rest rfl
    simp only [endsInside, Bool.and_eq_false_imp, beq_iff_eq, decide_eq_false_iff_not, Nat.not_lt]
    exact this

section
variable {o : LoopOp} {s s0 s1 : State} {tk : Nat} {t : Thread} {n e : Word} {p : Parcel}

/-- A count of more than 32 bits traps before the body is read (R281). -/
theorem exec_loop_tooMany (h : Ready (.loop o) s tk t [n] s0) (hn : 2 ^ 32 ≤ n.toNat) :
    exec (.loop o) s = .next ((s0.restorePorts tk t.before).deliver tk cLOOP 0 (((s0.thread? tk).map (·.pc)).getD 0)) := by
  show execLoop o s = _
  rw [execLoop, run_ready h]
  show Host.Outcome.next (finish tk _ _ (if n.toNat > 0xFFFFFFFF then _ else _)) = _
  rw [if_pos (by omega), finish_trap]

/-- LOOP with a count of 32 bits, once its body is read (R281). -/
theorem exec_loop (h : Ready (.loop o) s tk t [n] s0) (hn : n.toNat < 2 ^ 32)
    (hb : s0.bodyEnd t (2 ^ 57) (o.len.1 + 1) (t.pw + 4) = (.ok p s1, e)) :
    exec (.loop o) s = .next (finish tk (instrInfo (.loop o)) ⟨[n], t.before⟩
      (if n.toNat = 0 then skipBody tk s1 e
        else if t.loops.length ≥ 3 then .trap s1 cLOOP 0
        else if endsInside t.cd e t.loops then .trap s1 cLOOP 0
        else .seq (s1.modThread tk fun x =>
          { x with loops := { lc := BitVec.ofNat 32 n.toNat, s := t.pw + 4, e := e, depth := t.cd } :: t.loops }))) := by
  show execLoop o s = _
  rw [execLoop, run_ready h]
  show Host.Outcome.next (finish tk _ _ (if n.toNat > 0xFFFFFFFF then _ else _)) = _
  rw [if_neg (by omega), withBody_ok hb]
  rfl

/-- A count of 0 skips the body (R281). -/
theorem exec_loop_none (h : Ready (.loop o) s tk t [n] s0) (hb : s0.bodyEnd t (2 ^ 57) (o.len.1 + 1) (t.pw + 4) = (.ok p s1, e))
    (hn : n = 0) : exec (.loop o) s = .next (s1.modThread tk fun u => u.continueAt e true) := by
  subst hn
  rw [exec_loop h (by decide) hb, if_pos (show (0 : Word).toNat = 0 from rfl)]
  rfl

/-- A free level takes the count, the body and the depth (R281). -/
theorem exec_loop_opens (h : Ready (.loop o) s tk t [n] s0) (hn : n.toNat < 2 ^ 32)
    (hb : s0.bodyEnd t (2 ^ 57) (o.len.1 + 1) (t.pw + 4) = (.ok p s1, e)) (h0 : n ≠ 0) (hl : t.loops.length < 3)
    (hi : ∀ l ls, t.loops = l :: ls → l.depth = t.cd → e.toNat ≤ l.e.toNat) :
    exec (.loop o) s = .next ((s1.modThread tk fun u =>
      { u with loops := { lc := BitVec.ofNat 32 n.toNat, s := t.pw + 4, e := e, depth := t.cd } :: t.loops }).modThread tk
        fun u => u.past (.loop o)) := by
  have h0' : n.toNat ≠ 0 := fun hz => h0 (BitVec.eq_of_toNat_eq hz)
  rw [exec_loop h hn hb, if_neg h0', if_neg (by omega), if_neg (by simp [endsInside_eq_false hi])]
  rfl

/-- A fourth level, and a body that ends past its enclosing body, trap (R281). -/
theorem exec_loop_refused (h : Ready (.loop o) s tk t [n] s0) (hn : n.toNat < 2 ^ 32)
    (hb : s0.bodyEnd t (2 ^ 57) (o.len.1 + 1) (t.pw + 4) = (.ok p s1, e)) (h0 : n ≠ 0)
    (hr : 3 ≤ t.loops.length ∨ ∃ l ls, t.loops = l :: ls ∧ l.depth = t.cd ∧ l.e.toNat < e.toNat) :
    exec (.loop o) s = .next ((s1.restorePorts tk t.before).deliver tk cLOOP 0 (((s1.thread? tk).map (·.pc)).getD 0)) := by
  have h0' : n.toNat ≠ 0 := fun hz => h0 (BitVec.eq_of_toNat_eq hz)
  rw [exec_loop h hn hb, if_neg h0']
  rcases hr with hl | hi
  · rw [if_pos hl, finish_trap]
  · rw [if_pos (endsInside_eq_true hi), ite_self, finish_trap]

/-- Under a false guard the body is skipped (R281). -/
theorem exec_loop_skipped (h : Skipped (.loop o) s tk t) (hb : s.bodyEnd t (2 ^ 57) (o.len.1 + 1) (t.pw + 4) = (.ok p s1, e)) :
    exec (.loop o) s = .next (s1.modThread tk fun u => u.continueAt e true) := by
  show execLoop o s = _
  rw [execLoop, run_skipped h, withBody_ok hb]
  rfl

end

/-! ## Traps -/

/-- The thread at its trap: its instruction is over, what its in-ports fetched is dropped, and the trap registers are set (R342). -/
def Thread.trapped (t : Thread) (cause code : Nat) (tloc : Word) : Thread :=
  { (t.retire true).dropPrefetched with tcause := Word.ofN (cause + 256 * code), tloc := tloc }

/-- The watch and the comparator marks that a thread stopped for a debugger keeps (R350). -/
def Thread.passing (t : Thread) (cause code : Nat) (cmp : Option Nat) : List Nat :=
  t.skip ++ if cause = cWATCH then [8 + code] else cmp.toList

/-- The thread whose trap its handler takes (R342). -/
def Thread.handled (t : Thread) (entry : Word) : Thread :=
  { t with hv := if t.nregs = 60 then t.reg 59 else 0, hd := t.cd, ih := true, cd := min 65535 (t.cd + 1), pc := entry }.startRegion entry

/-- A thread that ends with a trap's status, once its accesses are done (R288, R342). -/
def Thread.ends (t : Thread) (status : Nat) : Thread := { t with ending := true, status := status, park := some .completed, errs := [] }

/-- A unit is under debug (R350). -/
def State.underDebug (s : State) (uid : Nat) : Bool := match s.unit? uid with | some u => u.dbg.under | none => false

theorem State.underDebug_iff {s : State} {uid : Nat} : s.underDebug uid = true ↔ ∃ u, s.unit? uid = some u ∧ u.dbg.under = true := by
  unfold State.underDebug
  cases s.unit? uid <;> simp

section
variable {s : State} {tk : Nat} {t : Thread}

/-- What taking a trap does, in one equation (R342, R350). -/
theorem State.deliver_eq (h : s.thread? tk = some t) (cause code : Nat) (tloc : Word) (cmp : Option Nat) :
    s.deliver tk cause code tloc cmp =
      if s.underDebug t.uid && (cause == cBRK || cause == cWATCH) then
        (s.setThread tk { t.trapped cause code tloc with atBreak := true, skip := t.passing cause code cmp }).haltUnit t.uid
      else if s.traph t.uid = 0 || t.ih || (t.cd == 65535 && !t.loops.isEmpty) then
        (s.setThread tk ((t.trapped cause code tloc).ends (0xE0 ||| (cause &&& 0x1F)))).tryEnding tk
      else s.setThread tk ((t.trapped cause code tloc).handled (s.traph t.uid)) := by
  unfold State.deliver
  rw [h]
  rfl

/-- A trap that a handler takes (R342). -/
theorem State.deliver_handled {cause : Nat} (h : s.thread? tk = some t) (hh : Handles s t cause) (code : Nat) (tloc : Word) (cmp : Option Nat) :
    s.deliver tk cause code tloc cmp = s.setThread tk ((t.trapped cause code tloc).handled (s.traph t.uid)) := by
  have hdbg : (s.underDebug t.uid && (cause == cBRK || cause == cWATCH)) = false := by
    rw [Bool.and_eq_false_iff]
    rcases hh.debugger with hu | ⟨hb, hw⟩
    · left
      rw [← Bool.not_eq_true, State.underDebug_iff]
      rintro ⟨u, hu', hd⟩
      exact absurd ((hu u hu').symm.trans hd) (by decide)
    · right
      simp [hb, hw]
  have hfull : (t.cd == 65535 && !t.loops.isEmpty) = false := by
    rcases hh.depth with hd | hl
    · simp [Nat.ne_of_lt hd]
    · simp [hl]
  rw [State.deliver_eq h, hdbg, hfull, hh.outside, decide_eq_false hh.handler]
  rfl

/-- A trap without a handler that takes it (R342). -/
theorem State.deliver_unhandled {cause : Nat} (h : s.thread? tk = some t)
    (hd : ¬((∃ u, s.unit? t.uid = some u ∧ u.dbg.under = true) ∧ (cause = cBRK ∨ cause = cWATCH)))
    (hn : s.traph t.uid = 0 ∨ t.ih = true ∨ (t.cd = 65535 ∧ t.loops ≠ [])) (code : Nat) (tloc : Word) (cmp : Option Nat) :
    s.deliver tk cause code tloc cmp = (s.setThread tk ((t.trapped cause code tloc).ends (0xE0 ||| (cause % 32)))).tryEnding tk := by
  have hmod : cause &&& 0x1F = cause % 32 := Nat.and_two_pow_sub_one_eq_mod cause 5
  rw [State.deliver_eq h, if_neg, if_pos, hmod]
  · simpa [or_assoc] using hn
  · simpa [State.underDebug_iff] using hd

/-- BRK and WATCH in a unit under debug (R350). -/
theorem State.deliver_debug {cause : Nat} (h : s.thread? tk = some t)
    (hd : (∃ u, s.unit? t.uid = some u ∧ u.dbg.under = true) ∧ (cause = cBRK ∨ cause = cWATCH)) (code : Nat) (tloc : Word) (cmp : Option Nat) :
    s.deliver tk cause code tloc cmp =
      (s.setThread tk { t.trapped cause code tloc with atBreak := true, skip := t.passing cause code cmp }).haltUnit t.uid := by
  rw [State.deliver_eq h, if_pos]
  simpa [State.underDebug_iff] using hd

/-- A thread whose accesses are done ends at once (R288). -/
theorem State.tryEnding_ready (h : s.thread? tk = some t) (he : t.ending = true) (hr : s.exitReady tk = true) :
    s.tryEnding tk = s.endThread tk t.status := by
  unfold State.tryEnding
  rw [h]
  simp only [he, hr, Bool.and_self, if_true]

end

/-- Dropping what in-ports fetched leaves the bindings (R128). -/
theorem Thread.dropPrefetched_bind (t : Thread) : t.dropPrefetched.ports.map (·.bind) = t.ports.map (·.bind) := by
  simp [Thread.dropPrefetched, Function.comp_def]

end Sys2Proof.Machine

open Sys2Proof Sys2Proof.Machine

/-- Settles O34, level by level from the innermost. -/
theorem loopLevelsLeft : Obligations.LoopLevelsLeft := by
  unfold Obligations.LoopLevelsLeft
  exact fun cd a ls => ⟨exitCheck_ends cd a ls, fun _ _ => exitCheck_head cd a ls, dropDeep_ends cd ls, fun _ _ => dropDeep_head cd ls⟩

/-- Settles O33, by induction on the ends reached; the last one is the end of the n-th pass. -/
theorem loopRuns : Obligations.LoopRuns := by
  unfold Obligations.LoopRuns
  intro cd n k a e ls h0 hn hk
  rcases Nat.lt_or_eq_of_le hk with hlt | rfl
  · rw [if_pos hlt, endCheck_repeat a e ls hn k hlt]
  · obtain ⟨m, rfl⟩ : ∃ m, k = m + 1 := ⟨k - 1, by omega⟩
    rw [if_neg (by omega), Nat.repeat, endCheck_repeat a e ls hn m (by omega), show m + 1 - m = 1 by omega]
    exact endCheck_last cd a e ls

/-- Settles O31: the thread that RET leaves, for a plain return and for one from a handler. -/
theorem returnCompletes : Obligations.ReturnCompletes := by
  unfold Obligations.ReturnCompletes
  intro o s tk t h he
  exact ⟨fun hp => by rw [exec_ret h he, Thread.return_plain hp], fun hi hd => by rw [exec_ret h he, Thread.return_handler hi hd]⟩

/-- Settles O32: the outcomes of LOOP by its count, its guard and the levels that are open. -/
theorem loopStarts : Obligations.LoopStarts := by
  unfold Obligations.LoopStarts
  exact ⟨fun o s tk t n s0 s1 e p h hn hb => ⟨exec_loop_opens h hn hb, exec_loop_none h hb, exec_loop_refused h hn hb⟩,
    fun o s tk t n s0 h hn => exec_loop_tooMany h hn, fun o s tk t s1 e p h hb => exec_loop_skipped h hb⟩

/-- Settles O37: the thread as the trap leaves it, register by register. -/
theorem trapDelivery : Obligations.TrapDelivery := by
  unfold Obligations.TrapDelivery
  intro s tk t cause code tloc cmp h hh _ _
  exact ⟨_, State.deliver_handled h hh code tloc cmp, rfl, rfl, rfl, rfl, rfl, rfl, rfl, rfl, rfl, rfl, rfl, rfl, rfl, rfl,
    t.dropPrefetched_bind, rfl, rfl, rfl, rfl, rfl, rfl⟩

/-- Settles O38: the end of the thread, or its stop for a debugger. -/
theorem trapWithoutHandler : Obligations.TrapWithoutHandler := by
  unfold Obligations.TrapWithoutHandler
  intro s tk t cause code tloc cmp h
  refine ⟨fun hd hn => ⟨_, State.deliver_unhandled h hd hn code tloc cmp, rfl, rfl, rfl, rfl, rfl, rfl, rfl, fun hr => ?_⟩,
    fun hd => ⟨_, State.deliver_debug h hd code tloc cmp, rfl, rfl, rfl, rfl, rfl⟩⟩
  rw [State.deliver_unhandled h hd hn, State.tryEnding_ready (State.thread?_setThread ..) rfl hr]
  rfl

end

section
/-! What performs, publishes, is cancelled and completes leaves each thread at its instruction: the address of a thread's instruction word
stays (R24), whatever becomes of its ports, its loads and its life. -/

namespace Sys2Proof.Machine

/-! ## The relation -/

/-- That an operation leaves every thread at the instruction that it is at. -/
structure State.SameAddrs (s s' : State) : Prop where
  pws : ∀ tk, (s'.thread? tk).map Thread.pw = (s.thread? tk).map Thread.pw

theorem State.SameAddrs.refl (s : State) : s.SameAddrs s := ⟨fun _ => rfl⟩

theorem State.SameAddrs.trans {a b c : State} (h : a.SameAddrs b) (h' : b.SameAddrs c) : a.SameAddrs c :=
  ⟨fun tk => (h'.pws tk).trans (h.pws tk)⟩

theorem State.SameAddrs.of_threads {s s' : State} (h : s'.threads = s.threads) : s.SameAddrs s' := ⟨fun tk => by
  unfold State.thread?
  rw [h]⟩

theorem State.SameThreads.addrs {s s' : State} (h : s.SameThreads s') : s.SameAddrs s' := .of_threads h.1

/-- Either of two operations leaves them. -/
theorem State.SameAddrs.ite {c : Prop} [Decidable c] {s a b : State} (ha : s.SameAddrs a) (hb : s.SameAddrs b) :
    s.SameAddrs (if c then a else b) := by
  split
  · exact ha
  · exact hb

/-- A fold of operations that leave them leaves them. -/
theorem State.SameAddrs.foldl {α : Type} {f : State → α → State} (hf : ∀ (s : State) x, s.SameAddrs (f s x)) (xs : List α) (s : State) :
    s.SameAddrs (xs.foldl f s) :=
  foldl_keep s.SameAddrs f xs s (.refl s) fun a ha x _ => ha.trans (hf a x)

/-- The state of an answer that leaves them. -/
theorem State.SameAddrs.snd {α : Type} {s x : State} {a : α} {r : α × State} (h : s.SameAddrs r.2) (hr : r = (a, x)) : s.SameAddrs x := by
  subst hr
  exact h

theorem State.SameThreads.snd {α : Type} {s x : State} {a : α} {r : α × State} (h : s.SameThreads r.2) (hr : r = (a, x)) : s.SameThreads x := by
  subst hr
  exact h

/-- The thread of a key, after an operation that leaves them, is at the same instruction. -/
theorem State.SameAddrs.pw_eq {s s' : State} (h : s.SameAddrs s') {tk : Nat} {t u : Thread} (ht : s.thread? tk = some t)
    (hu : s'.thread? tk = some u) : u.pw = t.pw := by
  have hpw := h.pws tk
  rw [ht, hu] at hpw
  exact Option.some.inj hpw

/-- A thread put back at its instruction, after an operation that leaves them. -/
theorem State.SameAddrs.setThread {s s' : State} (h : s.SameAddrs s') {tk : Nat} {t u : Thread} (ht : s.thread? tk = some t) (hu : u.pw = t.pw) :
    s.SameAddrs (s'.setThread tk u) := ⟨fun k => by
  by_cases hk : k = tk
  · subst hk
    rw [State.thread?_setThread, ht, Option.map_some, Option.map_some, hu]
  · rw [State.thread?_setThread_ne _ _ hk, h.pws k]⟩

theorem State.sameAddrs_modThread (s : State) (tk : Nat) {f : Thread → Thread} (hf : ∀ t, (f t).pw = t.pw) : s.SameAddrs (s.modThread tk f) := by
  unfold State.modThread
  split
  · rename_i t ht
    exact (State.SameAddrs.refl s).setThread ht (hf t)
  · exact .refl s

/-- A change of every thread, each of which stays at its instruction. -/
theorem State.SameAddrs.of_map {s s' : State} {f : Nat × Thread → Nat × Thread} (h : s'.threads = s.threads.map f) (hk : ∀ p, (f p).1 = p.1)
    (hf : ∀ p, (f p).2.pw = p.2.pw) : s.SameAddrs s' := ⟨fun tk => by
  unfold State.thread?
  rw [h]
  generalize s.threads = ts
  induction ts with
  | nil => rfl
  | cons p ts ih =>
    rw [List.map_cons]
    show ((if (f p).1 = tk then some (f p).2 else AMap.get? (ts.map f) tk).map Thread.pw) =
      (if p.1 = tk then some p.2 else AMap.get? ts tk).map Thread.pw
    rw [hk]
    split
    · exact congrArg some (hf p)
    · exact ih⟩

/-- A thread changed or not, under its own key. -/
theorem ite_pair_fst {c : Prop} [Decidable c] (p : Nat × Thread) (u : Thread) : (if c then (p.1, u) else p).1 = p.1 := by
  split <;> rfl

theorem ite_pair_pw {c : Prop} [Decidable c] (p : Nat × Thread) {u : Thread} (h : u.pw = p.2.pw) : (if c then (p.1, u) else p).2.pw = p.2.pw := by
  split
  · exact h
  · rfl

theorem State.sameAddrs_modThreadsOf (s : State) (uid : Nat) {f : Thread → Thread} (hf : ∀ t, (f t).pw = t.pw) :
    s.SameAddrs (s.modThreadsOf uid f) :=
  .of_map rfl (fun p => ite_pair_fst p _) fun p => ite_pair_pw p (hf p.2)

/-- Either of two operations that also answer something leaves the threads. -/
theorem State.SameThreads.ite_snd {α : Type} {c : Prop} [Decidable c] {s : State} {a b : α × State} (ha : s.SameThreads a.2)
    (hb : s.SameThreads b.2) : s.SameThreads (if c then a else b).2 := by
  split
  · exact ha
  · exact hb

section

variable (s : State)

/-! ## Logs, and the fault queue -/

theorem State.sameThreads_vector (n : Nat) : s.SameThreads (s.vector n) := ⟨rfl, rfl, rfl⟩

theorem State.sameThreads_logCore (ck : Nat) (e : LogEnt) : s.SameThreads (s.logCore ck e) := by
  unfold State.logCore
  exact .ite ⟨rfl, rfl, rfl⟩ ⟨rfl, rfl, rfl⟩

theorem State.sameThreads_logMgmt (dpa cause kind who : Nat) : s.SameThreads (s.logMgmt dpa cause kind who) := by
  unfold State.logMgmt
  exact .ite ⟨rfl, rfl, rfl⟩ ⟨rfl, rfl, rfl⟩

theorem State.sameThreads_endFault (token : Nat) (refused : Bool) : s.SameThreads (s.endFault token refused) := by
  unfold State.endFault
  split
  · exact .refl s
  · exact ⟨rfl, rfl, rfl⟩

theorem State.sameThreads_putHomes (d : Nat) (bs : List Byte) : s.SameThreads (s.putHomes d bs) := by
  induction bs generalizing s d with
  | nil => exact .refl s
  | cons b bs ih => exact State.SameThreads.trans ⟨rfl, rfl, rfl⟩ (ih (s.putHome d b) (d + 1))

theorem State.sameThreads_appendFault : s.SameThreads s.appendFault := by
  unfold State.appendFault
  refine .ite (.refl s) ?_
  split
  · exact .refl s
  · rename_i f _
    dsimp only
    split
    · refine State.SameThreads.trans (b := State.endFault _ f.token true) ((?_ : s.SameThreads _).trans (State.sameThreads_endFault ..)) ⟨rfl, rfl, rfl⟩
      split
      · exact s.sameThreads_logCore ..
      · exact s.sameThreads_logMgmt ..
    · exact (s.sameThreads_putHomes _ _).trans (State.SameThreads.trans (b := State.modHub _ _) ⟨rfl, rfl, rfl⟩ (State.sameThreads_vector _ _))

theorem State.sameThreads_appendFaults (n : Nat) : s.SameThreads (s.appendFaults n) := by
  induction n generalizing s with
  | zero => exact .refl s
  | succ n ih => exact s.sameThreads_appendFault.trans (ih s.appendFault)

theorem State.sameThreads_raiseFault (ck : Option Nat) (asn : Nat) (va : Word) (kind reason : Nat) :
    s.SameThreads (s.raiseFault ck asn va kind reason).2 := by
  unfold State.raiseFault
  dsimp only
  split
  · exact .refl s
  · split
    · exact State.SameThreads.trans ⟨rfl, rfl, rfl⟩ (State.sameThreads_appendFaults _ _)
    · exact .refl s

/-! ## Translation -/

theorem State.sameThreads_translate (asn : Nat) (root va : Word) (kind : Nat) : s.SameThreads (s.translate asn root va kind).2 := by
  unfold State.translate
  dsimp only
  repeat' split
  all_goals exact ⟨rfl, rfl, rfl⟩

theorem State.sameThreads_threadXlate (t : Thread) (tok : Option Nat) (va : Word) (kind : Nat) : s.SameThreads (s.threadXlate t tok va kind).2 := by
  have htr := s.sameThreads_translate (s.spaceOf t.uid).1 (s.spaceOf t.uid).2 va kind
  have hlog (x : State) (c k : Nat) : x.SameThreads (x.logThread t va c k) := x.sameThreads_logCore ..
  unfold State.threadXlate
  dsimp only
  refine .ite_snd (hlog ..) ?_
  split
  all_goals
    rename_i hx
    have hx' := htr.snd hx
  · exact .ite_snd hx' (hx'.trans (hlog ..))
  · exact hx'.trans (State.sameThreads_raiseFault ..)
  · exact hx'.trans (hlog ..)
  · exact hx'.trans (State.sameThreads_logCore ..)

theorem State.sameThreads_access (tk : Nat) (t : Thread) (tok : Option Nat) (va : Word) (n al kind : Nat) :
    s.SameThreads (s.access tk t tok va n al kind).2 := by
  unfold State.access
  split
  · exact .refl s
  split
  · exact .refl s
  split
  · exact s.sameThreads_threadXlate ..
  split
  · exact .refl s
  split <;> exact .refl s

/-! ## Writes that perform -/

theorem State.sameThreads_writeByte (spec : Nat) (l : Loc) (v : Byte) : s.SameThreads (s.writeByte spec l v) := by
  cases l with
  | home d => exact .ite ⟨rfl, rfl, rfl⟩ (s.sameThreads_specWrite spec d v)
  | _ => exact (s.sameThreads_modUnit _ _).trans ⟨rfl, rfl, rfl⟩

theorem State.sameThreads_writeAt (spec : Nat) (l : Loc) (bs : List Byte) : s.SameThreads (s.writeAt spec l bs) := by
  induction bs generalizing s l with
  | nil => exact .refl s
  | cons b bs ih => exact (s.sameThreads_writeByte spec l b).trans (ih _ _)

theorem State.sameThreads_unfence (tk seq : Nat) (l : Loc) (n : Nat) : s.SameThreads (s.unfence tk seq l n) := by
  cases l with
  | scratch u o => exact s.sameThreads_modUnit _ _
  | _ => exact .refl s

theorem State.sameAddrs_offWrite (q tk : Nat) (tl : Word) (d : Nat) (bs : List Byte) (e : Option (Nat × Nat)) :
    s.SameAddrs (s.offWrite q tk tl d bs e) :=
  .of_threads (s.offWrite_keeps q tk tl d bs e).2.2

theorem State.sameAddrs_l1Update (ck : Nat) (l : Loc) (bs : List Byte) : s.SameAddrs (s.l1Update ck l bs) :=
  .of_threads (State.l1Update_keeps bs s ck l).2.1

theorem State.sameAddrs_storeError (tk ck : Nat) (va tloc : Word) (cause : Nat) : s.SameAddrs (s.storeError tk ck va tloc cause) := by
  unfold State.storeError
  split
  · exact .refl s
  · rename_i t ht
    exact (s.sameThreads_logCore _ _).addrs.setThread ht rfl

theorem State.sameAddrs_perform (ck : Nat) (p : Pend) : s.SameAddrs (s.perform ck p) := by
  unfold State.perform
  split
  · exact s.sameAddrs_storeError ..
  · have hw : s.SameAddrs (((s.unfence p.tk p.seq p.loc p.bytes.length).writeAt p.spec p.loc p.bytes).noteWrite (.thread p.tk) p.seq p.loc
        p.bytes.length) :=
      (((s.sameThreads_unfence ..).trans (State.sameThreads_writeAt ..)).trans (State.sameThreads_noteWrite ..)).addrs
    dsimp only
    split
    · exact .ite ((hw.trans (State.sameAddrs_offWrite ..)).trans (State.sameAddrs_l1Update ..)) hw
    · exact hw.trans (State.sameAddrs_l1Update ..)

theorem State.sameAddrs_performWhere (ck : Nat) (f : Pend → Bool) : s.SameAddrs (s.performWhere ck f) := by
  unfold State.performWhere
  exact State.SameAddrs.trans (b := s.setCore ck _) (.of_threads rfl) (.foldl (fun x p => x.sameAddrs_perform ck p) _ _)

/-! ## Collector entries and out-ports -/

theorem State.sameAddrs_markSeen (ck tk seq : Nat) (l : Loc) (n : Nat) : s.SameAddrs (s.markSeen ck tk seq l n) := by
  unfold State.markSeen
  exact .ite (.of_threads rfl) (.refl s)

theorem State.sameAddrs_sendEntry (ck : Nat) (line : Loc) : s.SameAddrs (s.sendEntry ck line) := by
  unfold State.sendEntry
  refine State.SameAddrs.trans ?_ (.foldl (fun x p => .foldl (fun x r => x.sameAddrs_markSeen ..) _ x) _ _)
  exact .of_map rfl (fun p => ite_pair_fst p _) fun p => ite_pair_pw p rfl

theorem State.sameAddrs_sendWrites (ck : Nat) : s.SameAddrs (s.sendWrites ck) := by
  unfold State.sendWrites
  exact .foldl (fun x (e : LineEnt) => x.sameAddrs_sendEntry ck e.line) _ s

theorem State.joinEntry_threads {s s1 : State} {ck : Nat} {l : Loc} (h : s.joinEntry ck l = some s1) : s1.threads = s.threads := by
  unfold State.joinEntry at h
  dsimp only at h
  split at h
  · cases h; rfl
  split at h
  · cases h; rfl
  split at h
  · cases h; rfl
  · cases h

theorem State.sameAddrs_issueWrite {s s1 : State} {tk : Nat} {t : Thread} {l : Loc} {bs : List Byte} {va tloc : Word}
    (h : s.issueWrite tk t l bs va tloc = some s1) : s.SameAddrs s1 := by
  unfold State.issueWrite at h
  dsimp only at h
  split at h
  · cases h
  · rename_i x hx
    cases h
    refine State.SameAddrs.trans (.of_threads (State.joinEntry_threads hx)) ?_
    exact State.SameAddrs.trans (b := x.takeSeq.2.modCore _ _) (.of_threads rfl) (State.sameAddrs_modThread _ _ fun _ => rfl)

theorem State.sameAddrs_drainOne (tk : Nat) : s.SameAddrs (s.drainOne tk).2 := by
  unfold State.drainOne
  split
  · exact .refl s
  rename_i t ht
  split
  · exact .refl s
  rename_i k _
  dsimp only
  split
  · exact .refl s
  rename_i e rest _
  have hacc {a : Acc} {x : State} (h : (match e.loc with
      | some l => (Acc.ok l, s)
      | none => s.access tk t (t.ports.getD k {}).tokOut e.addr e.bytes.length 1 1) = (a, x)) : s.SameAddrs x := by
    split at h
    · cases h
      exact .refl s
    · exact (s.sameThreads_access ..).addrs.snd h
  split
  · rename_i hx
    split
    · exact hacc hx
    split
    · exact hacc hx
    split
    · rename_i hi
      refine State.SameAddrs.trans ?_ (State.sameAddrs_issueWrite hi)
      exact (hacc hx).setThread ht rfl
    · exact hacc hx
  · rename_i hx
    exact (hacc hx).setThread ht rfl
  · rename_i hx
    exact (hacc hx).setThread ht rfl
  · rename_i hx
    exact hacc hx

theorem State.sameAddrs_drainN (tk n : Nat) : s.SameAddrs (s.drainN tk n) := by
  induction n generalizing s with
  | zero => exact .refl s
  | succ n ih =>
    have h := s.sameAddrs_drainOne tk
    unfold State.drainN
    split
    · rename_i x hx
      rw [hx] at h
      exact h.trans (ih x)
    · rename_i hx
      rw [hx] at h
      exact h

theorem State.sameAddrs_drainOut (tk : Nat) : s.SameAddrs (s.drainOut tk) := s.sameAddrs_drainN tk 32

theorem State.sameAddrs_drainCore (ck : Nat) : s.SameAddrs (s.drainCore ck) := by
  unfold State.drainCore
  exact .foldl (fun x (p : Nat × Thread) => .ite (.refl x) (x.sameAddrs_drainOut p.1)) _ s

/-- A publication (R255). -/
theorem State.sameAddrs_publish (ck : Nat) : s.SameAddrs (s.publish ck) := by
  unfold State.publish
  exact (((s.sameAddrs_drainCore ck).trans (State.sameAddrs_sendWrites _ ck)).trans (State.sameAddrs_performWhere _ ck _)).trans (.of_threads rfl)

/-! ## Reading the sources -/

theorem State.sameAddrs_fetchElem (tk k pos : Nat) : s.SameAddrs (s.fetchElem tk k pos).2 := by
  have hd := s.sameAddrs_drainOut tk
  unfold State.fetchElem
  dsimp only
  generalize s.drainOut tk = x at hd
  split
  · exact hd
  rename_i t ht
  split
  · exact hd
  rename_i b _
  split
  · exact hd
  have hacc := (x.sameThreads_access tk t (t.ports.getD k {}).tokIn (b.base + Word.ofN pos * b.stride) b.width b.width 0).addrs
  refine hd.trans ?_
  split
  all_goals
    rename_i hy
    have hy' := hacc.snd hy
    refine hy'.trans ?_
  · rename_i l y
    have hread (line : Option (List Byte)) : y.SameAddrs (y.takeSeq.2.markSeen (x.ckOf t.uid) tk y.takeSeq.1 l b.width) :=
      .trans (b := y.takeSeq.2) (.of_threads rfl) (State.sameAddrs_markSeen ..)
    split
    · exact .refl y
    split
    · split
      · exact State.SameAddrs.trans (b := y.takeSeq.2) (.of_threads rfl) (State.sameThreads_logCore ..).addrs
      · exact hread none
    split
    · exact hread none
    split
    · rename_i hj
      exact State.SameAddrs.trans (b := y.takeSeq.2) (.of_threads rfl) (.of_threads (State.joinEntry_threads hj))
    · exact .of_threads rfl
  · exact .refl _
  · exact State.sameAddrs_modThread _ _ fun _ => rfl
  · exact .refl _

theorem State.sameAddrs_fetchNext (tk k : Nat) : s.SameAddrs (s.fetchNext tk k) := by
  unfold State.fetchNext
  split
  · exact .refl s
  dsimp only
  split
  · exact .refl s
  refine .ite (.refl s) ?_
  split
  all_goals
    rename_i h
    have hf := (s.sameAddrs_fetchElem tk k _).snd h
  · exact hf.trans (State.sameAddrs_modThread _ _ fun _ => rfl)
  · exact hf

theorem State.sameAddrs_portRead {s s' : State} {tk k n : Nat} {v : Word} (h : s.portRead tk k n = .ok v s') : s.SameAddrs s' := by
  unfold State.portRead at h
  split at h
  · cases h
  split at h
  · cases h
  split at h
  · cases h
  have hf (fin : List InElem) : s.SameAddrs (if finReady n fin then s else (upFrom 0 n).foldl (fun s _ => s.fetchNext tk k) s) :=
    .ite (.refl s) (.foldl (fun x _ => x.sameAddrs_fetchNext tk k) _ s)
  dsimp only at h
  split at h
  · split at h
    · cases h
    split at h
    · cases h
    · cases h
      exact (hf _).trans (State.sameAddrs_modThread _ _ fun _ => rfl)
  · cases h

theorem State.sameAddrs_readSrc {s s' : State} {tk : Nat} {t : Thread} {p : Pos} {n : Nat} {x : Src} {v : List Word}
    (h : s.readSrc tk t p n x = .ok v s') : s.SameAddrs s' := by
  unfold State.readSrc at h
  split at h
  case h_2 =>
    split at h
    · rename_i hp
      cases h
      exact State.sameAddrs_portRead hp
    · cases h
    · cases h
  case h_3 =>
    dsimp only at h
    split at h
    · cases h; exact .refl _
    · cases h
  case h_10 =>
    split at h
    · cases h; exact .refl _
    · split at h
      · cases h
      · cases h; exact .refl _
  all_goals
    cases h
    exact .refl _

theorem State.sameAddrs_readSrcs {tk : Nat} {t : Thread} : ∀ {xs : List (Pos × Src)} {s s' : State} {vs : List Word},
    s.readSrcs tk t xs = .ok vs s' → s.SameAddrs s'
  | [], _, _, _, h => by
    cases h
    exact .refl _
  | (p, x) :: xs, s, s', vs, h => by
    unfold State.readSrcs at h
    split at h
    · rename_i hx
      split at h
      · rename_i hxs
        cases h
        exact (State.sameAddrs_readSrc hx).trans (State.sameAddrs_readSrcs hxs)
      · rename_i hne
        exact absurd h (hne _ _)
    · rename_i hne
      exact absurd h (hne _ _)

/-- An instruction that is ready has read its sources at its own address. -/
theorem Ready.addrs {i : Instr} {s s' : State} {tk : Nat} {t : Thread} {vals : List Word} (h : Ready i s tk t vals s') : s.SameAddrs s' := by
  rcases h.gets with ⟨-, -, -, hr⟩ | ⟨-, rfl⟩
  · exact State.sameAddrs_readSrcs hr
  · exact .refl _

/-! ## The sequencer's accesses -/

theorem State.sameThreads_logSeq (dpa : Option Nat) (cause : Nat) : s.SameThreads (s.logSeq dpa cause) := by
  cases dpa with
  | some d => exact s.sameThreads_logMgmt ..
  | none => exact State.SameThreads.trans (b := s.takeFresh.2) ⟨rfl, rfl, rfl⟩ (State.sameThreads_logMgmt ..)

theorem State.sameThreads_seqXlate (key : Nat) (j : HJob) (va : Word) (n : Nat) (write : Bool) : s.SameThreads (s.seqXlate key j va n write).2 := by
  have htr (kind : Nat) := s.sameThreads_translate j.asn j.root va kind
  have hdone (x : State) : x.SameThreads (x.seqDone key) := ⟨rfl, rfl, rfl⟩
  unfold State.seqXlate
  refine .ite_snd (.refl s) (.ite_snd (hdone s) ?_)
  dsimp only
  split
  all_goals
    rename_i hx
    have hx' := (htr _).snd hx
  · split
    · exact hx'.trans (hdone _)
    · exact hx'
  · rename_i r y
    refine (hx'.trans (y.sameThreads_raiseFault none j.asn va (if write then 7 else 6) r)).trans ?_
    generalize y.raiseFault none j.asn va (if write then 7 else 6) r = q
    obtain ⟨k, z⟩ := q
    cases k with
    | none => exact .refl z
    | some k => exact ⟨rfl, rfl, rfl⟩
  · exact hx'.trans (hdone _)
  · exact hx'.trans (hdone _)

theorem State.sameAddrs_seqStore (d : Nat) (bs : List Byte) (lid : Nat) : s.SameAddrs (s.seqStore d bs lid) := by
  unfold State.seqStore
  refine State.SameAddrs.trans ?_ (State.sameAddrs_offWrite ..)
  exact State.SameAddrs.trans (b := s.takeSeq.2) (.of_threads rfl) ((State.sameThreads_writeAt ..).trans (State.sameThreads_noteWrite ..)).addrs

theorem State.sameAddrs_seqWrite (key : Nat) (j : HJob) (va : Word) (bs : List Byte) : s.SameAddrs (s.seqWrite key j va bs).2 := by
  unfold State.seqWrite
  split
  all_goals
    rename_i hx
    have hx' := (s.sameThreads_seqXlate key j va bs.length true).addrs.snd hx
  · exact hx'
  · exact hx'.trans (State.sameThreads_logSeq ..).addrs
  · refine State.SameAddrs.trans (b := State.seqDone _ key) ?_ (State.sameAddrs_seqStore _ _ _ 0)
    exact hx'.trans (.of_threads rfl)

theorem State.sameAddrs_bump (key : Nat) (j : HJob) (va : Word) : s.SameAddrs (s.bump key j va).2 := by
  unfold State.bump
  split
  · exact .refl s
  split
  · exact (s.sameThreads_logSeq none cADDR).addrs
  split
  all_goals
    rename_i hx
    have hx' := (s.sameThreads_seqXlate key j va 8 true).addrs.snd hx
  · exact hx'
  · exact hx'.trans (State.sameThreads_logSeq ..).addrs
  · refine State.SameAddrs.trans (b := State.seqDone _ key) ?_ (State.sameAddrs_seqStore _ _ _ 0)
    exact hx'.trans (.of_threads rfl)

/-! ## Launches that complete, commit and are cancelled -/

theorem State.sameAddrs_modLaunch (lid : Nat) (f : Launch → Launch) : s.SameAddrs (s.modLaunch lid f) := (s.sameThreads_modLaunch lid f).addrs

theorem State.sameAddrs_modUnit (uid : Nat) (f : TUnit → TUnit) : s.SameAddrs (s.modUnit uid f) := (s.sameThreads_modUnit uid f).addrs

theorem State.sameAddrs_dropBuffer (lid : Nat) : s.SameAddrs (s.dropBuffer lid) := by
  unfold State.dropBuffer
  split
  · exact .refl s
  · refine (s.sameAddrs_modLaunch lid _).trans (.ite (.refl _) ?_)
    dsimp only
    refine State.SameAddrs.trans ?_ (State.sameAddrs_offWrite ..)
    exact State.SameAddrs.trans (State.sameThreads_putHomes ..).addrs (.of_threads rfl)

theorem State.sameAddrs_commitLine (lid : Nat) (b : SpecBuf) : s.SameAddrs (s.commitLine lid b) := by
  unfold State.commitLine
  split
  · exact s.sameAddrs_dropBuffer lid
  · exact (State.SameAddrs.foldl (fun x y => x.sameAddrs_seqStore ..) _ s).trans (State.sameAddrs_modLaunch ..)

theorem State.sameAddrs_levelWrites (f : Nat → Bool) : s.SameAddrs (s.levelWrites f).2 := by
  unfold State.levelWrites
  exact .foldl (fun x ck => x.sameAddrs_performWhere ..) _ s

theorem State.sameAddrs_completeLaunch (lid : Nat) : s.SameAddrs (s.completeLaunch lid) := by
  unfold State.completeLaunch
  split
  · exact .refl s
  refine .ite (.refl s) ?_
  split
  · exact s.sameAddrs_commitLine ..
  have hw := s.sameAddrs_levelWrites (· == lid)
  split
  · rename_i hx
    refine (hw.snd hx).trans ?_
    split
    all_goals
      rename_i hb
      have hb' := (State.sameAddrs_bump ..).snd hb
    · exact hb'.trans (State.sameAddrs_modLaunch ..)
    · exact hb'
  · rename_i hx _
    exact hw.snd hx

theorem State.sameAddrs_commit (lid : Nat) : s.SameAddrs (s.commit lid).2 := by
  unfold State.commit
  split
  · exact .refl s
  · refine State.SameAddrs.trans ?_ (State.sameAddrs_modLaunch _ lid _)
    exact .foldl (fun x u => x.sameAddrs_performWhere ..) _ s

theorem State.sameAddrs_recDone (uid : Nat) : s.SameAddrs (s.recDone uid) := by
  unfold State.recDone
  dsimp only
  refine State.SameAddrs.trans ?_ (State.sameAddrs_modLaunch ..)
  exact State.SameAddrs.trans (b := s.modHub _) (.of_threads rfl) (State.sameAddrs_modUnit ..)

theorem State.sameAddrs_tryRecord (uid : Nat) : s.SameAddrs (s.tryRecord uid) := by
  unfold State.tryRecord
  split
  · exact .refl s
  split
  · split
    · exact s.sameAddrs_recDone uid
    split
    · exact s.sameAddrs_recDone uid
    split
    all_goals
      rename_i hx
      have hx' := (s.sameAddrs_seqWrite ..).snd hx
    · exact hx'.trans (State.sameAddrs_recDone ..)
    · exact hx'
  · exact .refl s

theorem State.sameAddrs_forgetDst (o : CopyOp) : s.SameAddrs (s.forgetDst o) := by
  unfold State.forgetDst
  exact .foldl (fun x r => (x.sameThreads_forgetAs ..).addrs) _ s

theorem State.sameAddrs_freeSeat (uid gg : Nat) : s.SameAddrs (s.freeSeat uid gg) := by
  unfold State.freeSeat
  split
  · exact .refl s
  · exact State.SameAddrs.trans (b := s.modCore _ _) (.of_threads rfl) (State.sameAddrs_modUnit ..)

theorem State.sameAddrs_unseatUnit (uid : Nat) : s.SameAddrs (s.unseatUnit uid) := by
  unfold State.unseatUnit
  exact (State.SameAddrs.foldl (fun x gg => x.sameAddrs_freeSeat uid gg) _ s).trans (.of_threads rfl)

theorem State.sameAddrs_setAllPresent (ck id : Nat) : s.SameAddrs (s.setAllPresent ck id) := by
  unfold State.setAllPresent
  refine (State.SameAddrs.foldl (fun x y => ?_) _ s).trans (.of_threads rfl)
  unfold State.setPresent
  exact (x.sameAddrs_modUnit ..).trans (.of_threads rfl)

theorem State.sameAddrs_dropOps (uid : Nat) (undef : Bool) : s.SameAddrs (s.dropOps uid undef) := by
  unfold State.dropOps
  refine State.SameAddrs.trans (b := (s.opsOf uid).foldl (fun s x => (if undef then s.forgetDst x.2 else s).setAllPresent x.1 x.2.id) s)
    (.foldl (fun x y => ?_) _ s) (.of_threads rfl)
  exact State.SameAddrs.trans (.ite (x.sameAddrs_forgetDst y.2) (.refl x)) (State.sameAddrs_setAllPresent ..)

theorem State.sameAddrs_releaseHandles (uid : Nat) : s.SameAddrs (s.releaseHandles uid) := by
  unfold State.releaseHandles
  refine (s.sameAddrs_modUnit ..).trans (.foldl (fun x h => ?_) _ _)
  unfold State.returnHandle
  split
  · exact .refl x
  · exact .ite (x.sameAddrs_modUnit ..) (.refl x)

/-- A unit that is cancelled: its threads die where they are (R330). -/
theorem State.sameAddrs_cancelUnit (lid idx : Nat) : s.SameAddrs (s.cancelUnit lid idx) := by
  unfold State.cancelUnit
  extract_lets uid
  split
  · exact .refl s
  refine .ite (.refl s) ?_
  split
  · exact State.SameAddrs.trans (b := s.modHub _) (.of_threads rfl) (State.sameAddrs_tryRecord ..)
  rename_i u _
  refine .ite (.refl s) ?_
  lift_lets
  intro cycles s1 s2 s3 s4 s5 s6
  have h1 : s.SameAddrs s1 := .ite (s.sameAddrs_publish _) (.foldl (fun x (p : Nat × Thread) => x.sameAddrs_drainOut p.1) _ s)
  have h2 : s1.SameAddrs s2 := .foldl (fun x o => x.sameAddrs_forgetDst o) _ s1
  have h3 : s2.SameAddrs s3 := (s2.sameAddrs_dropOps _ _).trans (State.sameAddrs_unseatUnit _ _)
  have h4 : s3.SameAddrs s4 := s3.sameAddrs_modThreadsOf uid fun t => by split <;> rfl
  have h5 : s4.SameAddrs s5 := s4.sameAddrs_modUnit ..
  have h6 : s5.SameAddrs s6 := (s5.sameAddrs_releaseHandles uid).trans (.of_threads (State.throttle_keeps _ _).1)
  refine State.SameAddrs.trans ?_ (State.sameAddrs_tryRecord _ uid)
  exact (((((h1.trans h2).trans h3).trans h4).trans h5).trans h6).trans (.of_threads (State.modHub_threads _ _))

theorem State.sameAddrs_cancelLaunch (lid : Nat) : s.SameAddrs (s.cancelLaunch lid) := by
  unfold State.cancelLaunch
  split
  · exact .refl s
  split
  · exact .refl s
  · exact ((s.sameAddrs_dropBuffer lid).trans (State.sameAddrs_modLaunch ..)).trans (.foldl (fun x i => x.sameAddrs_cancelUnit lid i) _ _)

end

end Sys2Proof.Machine

end

section
/-! What DBG answers and does to a resident target (R347 to R350), and what LAUNCH, CANCEL and SPEC answer (R329, R330, R333). -/

namespace Sys2Proof.Machine

/-! ## The threads of one unit changed -/

/-- A lookup after the threads of a unit are changed (R350). -/
theorem State.thread?_modThreadsOf {s : State} {uid tk : Nat} {t : Thread} (f : Thread → Thread) (h : s.thread? tk = some t) :
    (s.modThreadsOf uid f).thread? tk = some (if t.uid = uid then f t else t) := by
  refine (AMap.get?_map _ (fun p => ?_) h).trans (congrArg some ?_)
  · split <;> rfl
  · dsimp only
    split <;> rfl

theorem State.unit?_modThreadsOf (s : State) (k uid : Nat) (f : Thread → Thread) : (s.modThreadsOf k f).unit? uid = s.unit? uid := rfl

/-! ## The sub-ops on a resident target (R349) -/

section
variable {s : State} {x : Target} {u : TUnit} (hx : x.u = some u)
include hx

theorem State.dbgApply_halt (arg : Nat) : (s.dbgApply .halt x arg).2 =
    (s.modThreadsOf x.uid fun t => if t.live then { t with halted := true, stepping := false } else t).modUnit x.uid fun v =>
      { v with dbg := { x.dbg with halt := true, under := true } } := by
  simp only [State.dbgApply, State.setDbg, hx, Option.isSome_some, if_true]

theorem State.dbgApply_resume (arg : Nat) : (s.dbgApply .resume x arg).2 =
    (s.modThreadsOf x.uid fun t => { t with halted := false, atBreak := false, stepping := false }).modUnit x.uid fun v =>
      { v with dbg := { x.dbg with halt := false } } := by
  simp only [State.dbgApply, State.setDbg, hx, Option.isSome_some, if_true]

theorem State.dbgApply_step (arg : Nat) : (s.dbgApply .step x arg).2 = s.modThreadsOf x.uid fun t =>
    if t.live && t.halted && ((u.gang t.gg).stepMask).getLsbD t.ln then { t with halted := false, stepping := true } else t := by
  simp only [State.dbgApply, hx, Option.isNone_some, Option.map_some, Option.getD_some, Bool.false_eq_true, if_false]

theorem State.dbgApply_setmask (arg : Nat) : (s.dbgApply .setmask x arg).2 = s.modUnit x.uid fun v =>
    v.modGang (bits arg 36 32) fun g => { g with stepMask := BitVec.ofNat 32 (bits arg 31 0) } := by
  simp only [State.dbgApply, hx, Option.isSome_some, if_true]

end

/-! ## DBG (R347, R348) -/

section
variable {i : Instr} {op : DbgOp} {s s0 : State} {tk : Nat} {t : Thread} {va : Word} (hr : Ready i s tk t [va] s0)
include hr

/-- DBG without the privilege traps (R347). -/
theorem run_dbgBody_priv (hp : ((s0.launchOf t.uid).map (·.desc.dbgp)).getD false = false) :
    run i s (dbgBody op) = .next ((s0.restorePorts tk t.before).deliver tk cPRIV 0 (((s0.thread? tk).map (·.pc)).getD 0)) := by
  refine run_trap hr ?_
  unfold dbgBody
  rw [hp]
  rfl

/-- DBG whose request is good and whose OUT resolves with room in the speculation buffer applies its sub-op (R348). -/
theorem run_dbgBody {bs : List Byte} {s1 s2 : State} {x : Target} {rs : List Run}
    (hp : ((s0.launchOf t.uid).map (·.desc.dbgp)).getD false = true) (hcard : Through (readCard tk t 4 va s0) bs s1)
    (hx : s1.target t (field bs 0 8) = some x) (hok : s1.dbgRefusal op bs (some x) = 0)
    (hwait : ¬(op = .halt ∧ (s1.issueQ.any fun k => k / 1024 == x.uid) = true))
    (hout : s1.outRuns tk t (outSize op x / 8 + 1) (Word.ofN (field bs 16 8)) (outSize op x) = (.ok rs, s2))
    (hfits : (rs.all fun r => s2.specFits (s2.specOf t.uid) r.loc) = true) :
    let r := (s2.settle (s2.ckOf t.uid) tk).dbgApply op x (field bs 8 8)
    run i s (dbgBody op) = .next (((((r.2.outWrites tk t (Word.ofN (field bs 16 8)) rs r.1).refresh (r.2.ckOf t.uid)).acquire tk).modThread tk
      Thread.dropPrefetched).modThread tk fun u => u.pastR i) := by
  intro r
  have hroom : (rs.any fun r => !s2.specFits (s2.specOf t.uid) r.loc) = false := by
    rw [← List.not_all_eq_any_not, hfits]
    rfl
  refine run_seqR hr ?_
  unfold dbgBody
  rw [hp]
  refine hcard.goesOn ?_ trivial
  simp only [hx, hok, ne_eq, not_true_eq_false, if_false]
  rw [if_neg (by simpa using hwait), hout]
  simp only [hroom, Bool.false_eq_true, if_false]
  rfl

end

/-! ## LAUNCH (R329) -/

/-- LAUNCH of a descriptor that is not refused joins the caller's graph and gives its id to the destination. -/
theorem execLaunch_joins {o : OpX} {s s0 s1 s2 s3 : State} {tk : Nat} {t : Thread} {va : Word} {bs : List Byte} {l : Launch} {j : HJob}
    {args spec} (hr : Ready (.launch o) s tk t [va] s0) (hspec : s0.speculative t.uid = false) (hd : DstFree s0 tk o.d)
    (hcard : Through (readCard tk t 16 va s0) bs s1) (hl : s1.launchOf t.uid = some l) (hj : s1.jobOf t.uid = some j)
    (hpriv : (descOf bs).dbgp = true → j.dbg = true ∧ l.desc.dbgp = true)
    (hreads : s1.launchReads (keyThread tk) j bs = (.ok args spec, s2))
    (hok : (s2.seqDone (keyThread tk)).refusalOf l.jid bs (.ok args spec) = 0)
    (hperf : Performed (s2.seqDone (keyThread tk)) tk t .dev s3 false)
    (hroom : (s3.publish (s3.ckOf t.uid)).waitingLaunches < 4096) :
    let r := (s3.publish (s3.ckOf t.uid)).joinGraph l.jid l.gkey bs args spec 0 0
    execLaunch o s = .next ((r.2.putDst tk o.d (Word.ofN r.1)).modThread tk fun u => u.pastR (.launch o)) := by
  intro r
  have hp : ((descOf bs).dbgp && !(j.dbg && l.desc.dbgp)) = false := by
    rw [Bool.and_eq_false_imp, Bool.not_eq_false', Bool.and_eq_true]
    exact hpriv
  refine run_seqR hr ?_
  rw [if_neg (by simp [hspec]), checkDst_free hd]
  refine hcard.goesOn ?_ trivial
  rw [hl, hj]
  simp only [hp, hreads, hok, Bool.false_eq_true, if_false]
  rw [whenPerformed_ready hperf, if_neg (Nat.not_le.2 hroom)]

/-! ## CANCEL (R330) -/

section
variable {o : OpI 5} {s s0 : State} {tk : Nat} {t : Thread} {h : Word} (hr : Ready (.cancel o) s tk t [h] s0)
include hr

/-- CANCEL of the caller's own work. -/
theorem execCancel_own (ha : o.a = .z) (h0 : h = 0) :
    execCancel o s = .next ((s0.sendCancel (s0.ownWork t o.n.1)).modThread tk fun u => u.pastR (.cancel o)) := by
  refine run_seqR hr ?_
  rw [if_pos (by simp [ha, h0])]

/-- What CANCEL does with a handle, by what it names. -/
theorem execCancel_named (ha : o.a ≠ .z) (hh : o.n = 0 ∨ h.toNat < 2 ^ 32) :
    execCancel o s = .next (finish tk (instrInfo (.cancel o)) ⟨[h], t.before⟩ (match s0.named (s0.jidOf t.uid) o.n.1 h.toNat with
      | none => .trap s0 cENGINE 0x24
      | some c => .seqR (s0.sendCancel c))) := by
  have hz : ¬((decide (h.toNat = 0) && o.a == .z) = true) := by simp [ha]
  have hw : ¬((decide (o.n.1 ≠ 0) && decide (h.toNat ≥ 2 ^ 32)) = true) := by
    rcases hh with h0 | hlt
    · simp [h0]
    · simp only [Bool.and_eq_true, decide_eq_true_eq]
      omega
  rw [execCancel, run_ready hr]
  show Host.Outcome.next (finish tk _ _ (if (decide (h.toNat = 0) && o.a == .z) = true then _
    else if (decide (o.n.1 ≠ 0) && decide (h.toNat ≥ 2 ^ 32)) = true then _ else _)) = _
  rw [if_neg hz, if_neg hw]
  rfl

end

/-! ## SPEC (R333) -/

/-- A SPEC whose checks pass goes on with the launch that it names. -/
theorem specChecked_ok {t : Thread} {a : Nat} {s : State} {l : Launch} (hspec : s.speculative t.uid = false) (ha : a < 2 ^ 32)
    (hl : s.launch? a = some l) (hj : l.jid = s.jidOf t.uid) (hv : l.desc.specv = true) (k : Launch → State → Res) :
    specChecked t a s k = k l s := by
  have hb : ¬((decide (a ≥ 2 ^ 32) || decide (l.jid ≠ s.jidOf t.uid)) = true) := by
    simp only [hj, ne_eq, not_true_eq_false, decide_false, Bool.or_false, decide_eq_true_eq]
    omega
  unfold specChecked
  rw [hspec, hl]
  dsimp only
  rw [if_neg Bool.false_ne_true, if_neg hb, hv]
  rfl

/-- The launch that SPEC has resolved in the state x, which leaves the state y, is done with: its mirror word has been raised, and the
writes of the core are performed and delivered (R333). -/
def specSettled (x y : State) (t : Thread) (lid : Nat) : Bool :=
  (y.launch? lid).all (·.complete) && y.corePerformed (x.ckOf t.uid) (t.mark.getD y.seq) &&
    y.coreDelivered (x.ckOf t.uid) (t.mark.getD y.seq) t.after.acq

section
variable {x : State} {tk : Nat} {t : Thread} {lid : Nat}

/-- How a SPEC that has resolved its launch ends: it goes on where its launch is done with, else it waits in the region that starts
after it (R286, R333). -/
theorem specDone_eq : specDone tk t lid x =
    if specSettled x ((x.publish (x.ckOf t.uid)).completeLaunch lid) t lid then .seqR ((x.publish (x.ckOf t.uid)).completeLaunch lid)
    else .park (((x.publish (x.ckOf t.uid)).completeLaunch lid).modThread tk fun u => u.startAfter (u.pw + 4)) (.specEnd lid) := rfl

/-- A thread that is at the instruction that t is at waits in the region that starts after that. -/
theorem State.SameAddrs.modThread_startAfter {s y : State} (h : s.SameAddrs y) (ht : s.thread? tk = some t) :
    (y.modThread tk fun u => u.startAfter (u.pw + 4)) = y.modThread tk fun u => u.startAfter (t.pw + 4) := by
  unfold State.modThread
  split
  · rename_i u hu
    dsimp only
    rw [h.pw_eq ht hu]
  · rfl

/-- What an instruction that ends as a SPEC that has resolved its launch answers: resolving it leaves the thread at the instruction. -/
theorem exec_specDone {i : Instr} {s : State} (h : Held) (ht : s.thread? tk = some t) (hx : s.SameAddrs x)
    (he : exec i s = .next (finish tk (instrInfo i) h (specDone tk t lid x))) :
    let y := (x.publish (x.ckOf t.uid)).completeLaunch lid
    (specSettled x y t lid = true → exec i s = .next (y.modThread tk fun u => u.pastR i)) ∧
    (specSettled x y t lid = false → ∃ g : Thread → Thread, (∀ u, (g u).park = some (.specEnd lid)) ∧
      exec i s = .next ((y.modThread tk fun u => u.startAfter (t.pw + 4)).modThread tk g)) := by
  intro y
  have hy : s.SameAddrs y := (hx.trans (x.sameAddrs_publish _)).trans (State.sameAddrs_completeLaunch _ lid)
  rw [he, specDone_eq]
  refine ⟨fun hs => ?_, fun hs => ?_⟩
  · rw [if_pos hs]
    rfl
  · rw [if_neg (by rw [hs]; exact Bool.false_ne_true), hy.modThread_startAfter ht]
    exact ⟨_, fun _ => rfl, rfl⟩

end

section
variable {s s0 : State} {tk : Nat} {t : Thread} {a : Word} {l : Launch} (hspec : s0.speculative t.uid = false) (ha : a.toNat < 2 ^ 32)
  (hl : s0.launch? a.toNat = some l) (hj : l.jid = s0.jidOf t.uid) (hv : l.desc.specv = true)
include hspec ha hl hj hv

/-- SPEC #0 of a launch of the job, by whether it is resolved and whether it is being cancelled. -/
theorem exec_specCommit {o : OpA} (hr : Ready (.specCommit o) s tk t [a] s0) :
    exec (.specCommit o) s = .next (finish tk (instrInfo (.specCommit o)) ⟨[a], t.before⟩
      (if l.resolved then (if t.mark.isSome then specDone tk t a.toNat s0 else .seqR s0)
        else if s0.cancelling a.toNat then .seqR s0
        else match s0.commit a.toNat with
          | (false, y) => .park y (.specEnd a.toNat)
          | (true, y) => specDone tk t a.toNat y)) := by
  show execSpecCommit o s = _
  rw [execSpecCommit, run_ready hr]
  exact congrArg Host.Outcome.next (congrArg (finish tk _ _) (specChecked_ok hspec ha hl hj hv _))

/-- SPEC #1 of a launch of the job, by whether it is resolved. -/
theorem exec_specDiscard {o : OpA} (hr : Ready (.specDiscard o) s tk t [a] s0) :
    exec (.specDiscard o) s = .next (finish tk (instrInfo (.specDiscard o)) ⟨[a], t.before⟩
      (if l.resolved then (if t.mark.isSome then specDone tk t a.toNat s0 else .seqR s0)
        else specDone tk t a.toNat (s0.cancelLaunch a.toNat))) := by
  show execSpecDiscard o s = _
  rw [execSpecDiscard, run_ready hr]
  exact congrArg Host.Outcome.next (congrArg (finish tk _ _) (specChecked_ok hspec ha hl hj hv _))

end

end Sys2Proof.Machine

open Sys2Proof Sys2Proof.Machine

/-- Settles O48: each sub-op is a change of the threads of its unit, and of the unit alone. -/
theorem debugHaltAndResume : Obligations.DebugHaltAndResume := by
  unfold Obligations.DebugHaltAndResume
  intro s x arg tk t u ht hu hx
  simp only [State.dbgApply_halt hx, State.dbgApply_resume hx, State.dbgApply_step hx, State.dbgApply_setmask hx,
    State.thread?_modUnit, State.thread?_modThreadsOf _ ht]
  refine ⟨fun hne => ⟨if_neg hne ▸ rfl, if_neg hne ▸ rfl, if_neg hne ▸ rfl⟩, fun he => ⟨?_, ?_, ?_⟩, State.unit?_modUnit _ hu,
    State.unit?_modUnit _ hu⟩ <;> exact congrArg some (if_pos he)

/-- Settles O47: the ten sub-ops are one body, which runs or takes the trap of its privilege. -/
theorem debugCompletes : Obligations.DebugCompletes := by
  unfold Obligations.DebugCompletes
  intro Dbg
  have dbg : ∀ (mk : OpA → Instr) (op : DbgOp), (∀ o s, exec (mk o) s = run (mk o) s (dbgBody op)) → Dbg mk op := fun mk op he =>
    ⟨fun o s tk t va s0 bs s1 x rs s2 hr hp hcard hx hok hw hout hfits => (he o s).trans (run_dbgBody hr hp hcard hx hok hw hout hfits),
      fun o s tk t va s0 hr hp => (he o s).trans (run_dbgBody_priv hr hp)⟩
  exact ⟨dbg _ _ fun _ _ => rfl, dbg _ _ fun _ _ => rfl, dbg _ _ fun _ _ => rfl, dbg _ _ fun _ _ => rfl, dbg _ _ fun _ _ => rfl,
    dbg _ _ fun _ _ => rfl, dbg _ _ fun _ _ => rfl, dbg _ _ fun _ _ => rfl, dbg _ _ fun _ _ => rfl, dbg _ _ fun _ _ => rfl⟩

/-- Settles O46: LAUNCH and CANCEL in sequence; SPEC by whether its launch is resolved. -/
theorem workInstructionsComplete : Obligations.WorkInstructionsComplete := by
  unfold Obligations.WorkInstructionsComplete
  refine ⟨fun o s tk t va s0 bs s1 l j args spec s2 s3 hr hs hd hc hl hj hp hre hok hpf hroom =>
      execLaunch_joins hr hs hd hc hl hj hp hre hok hpf hroom,
    fun o s tk t h s0 hr => ⟨execCancel_own hr, fun ha hh c hc => ?_, fun ha hh hc => ?_⟩,
    fun o s tk t a s0 l hr hs ha hl hj hv => ⟨fun hres s1 hy => ?_, fun hres hm => ?_, fun hres hm => ?_⟩,
    fun o s tk t a s0 l hr hs ha hl hj hv => ⟨fun hres s1 hy => ?_, fun hres hm => ?_, fun hres hm => ?_⟩,
    fun o s tk t a s0 l hr hs ha hl hj hv hres hc => ?_⟩
  · exact (execCancel_named hr ha hh).trans (by rw [hc]; rfl)
  · exact (execCancel_named hr ha hh).trans (by rw [hc]; rfl)
  · have hx : s.SameAddrs s1 := hr.addrs.trans ((s0.sameAddrs_commit a.toNat).snd hy.2)
    exact exec_specDone ⟨[a], t.before⟩ hr.thread hx ((exec_specCommit hs ha hl hj hv hr).trans (by
      simp only [hres, hy.1, hy.2, Bool.false_eq_true, if_false]))
  · exact exec_specDone ⟨[a], t.before⟩ hr.thread hr.addrs ((exec_specCommit hs ha hl hj hv hr).trans (by simp only [hres, hm, if_true]))
  · simp only [exec_specCommit hs ha hl hj hv hr, hres, hm, Option.isSome_none, Bool.false_eq_true, if_true, if_false]
    rfl
  · subst hy
    exact exec_specDone ⟨[a], t.before⟩ hr.thread (hr.addrs.trans (s0.sameAddrs_cancelLaunch a.toNat))
      ((exec_specDiscard hs ha hl hj hv hr).trans (by simp only [hres, Bool.false_eq_true, if_false]))
  · exact exec_specDone ⟨[a], t.before⟩ hr.thread hr.addrs ((exec_specDiscard hs ha hl hj hv hr).trans (by simp only [hres, hm, if_true]))
  · simp only [exec_specDiscard hs ha hl hj hv hr, hres, hm, Option.isSome_none, Bool.false_eq_true, if_true, if_false]
    rfl
  · simp only [exec_specCommit hs ha hl hj hv hr, hres, hc, Bool.false_eq_true, if_true, if_false]
    rfl

end

section
/-! Submission chains: their registers, the entries that they take up, and retirement (R313, R314, R316 to R321, R333). -/

namespace Sys2Proof.Machine

/-! ## Jobs, graphs and chains changed -/

theorem State.modJob_eq {s : State} {jid : Nat} {j : HJob} (f : HJob → HJob) (h : s.job? jid = some j) :
    s.modJob jid f = s.modHub fun hub => { hub with jobs := AMap.set hub.jobs jid (f j) } := by
  unfold State.modJob
  rw [h]

theorem State.job?_modJob {s : State} {jid : Nat} {j : HJob} (f : HJob → HJob) (h : s.job? jid = some j) :
    (s.modJob jid f).job? jid = some (f j) := by
  rw [State.modJob_eq f h]
  exact AMap.get?_set_same jid (f j) s.hub.jobs

theorem State.modJob_chains (s : State) (jid : Nat) (f : HJob → HJob) : (s.modJob jid f).hub.chains = s.hub.chains := by
  unfold State.modJob
  split <;> rfl

theorem State.modJob_graphs (s : State) (jid : Nat) (f : HJob → HJob) : (s.modJob jid f).hub.graphs = s.hub.graphs := by
  unfold State.modJob
  split <;> rfl

/-- Sealing closes the current graph of a job, and no other part of the job (R313). -/
theorem State.seal_keeps (s : State) (jid : Nat) : (s.seal jid).hub.chains = s.hub.chains ∧ (s.seal jid).mem = s.mem := by
  unfold State.seal
  split
  · exact ⟨rfl, rfl⟩
  · exact ⟨State.modJob_chains _ _ _, State.modJob_mem _ _ _⟩

theorem State.job?_seal {s : State} {jid : Nat} {j : HJob} (h : s.job? jid = some j) : ∃ j', (s.seal jid).job? jid = some j' := by
  unfold State.seal
  split
  · exact ⟨j, h⟩
  · exact ⟨_, State.job?_modJob (s := State.modGraph s _ _) _ h⟩

/-! ## Registers (R316) -/

/-- The state that a chain shows depends on no register but its head and its tail (R316). -/
theorem Chain.show_keeps (c : Chain) : c.show.tail = c.tail ∧ c.show.head = c.head ∧ c.show.phase = c.phase ∧ c.show.lastSeq = c.lastSeq ∧
    (c.stat ≠ 2 → c.show.stat = if c.head = c.tail.toNat then 0 else 1) := by
  unfold Chain.show
  split
  · rename_i h
    exact ⟨rfl, rfl, rfl, rfl, fun hn => absurd h hn⟩
  · refine ⟨rfl, rfl, rfl, rfl, fun _ => ?_⟩
    by_cases hh : c.head = c.tail.toNat <;> simp [Chain.hasEntry, hh]

/-- A tail that is no entry of the ring is ignored. -/
theorem execChTailWrite_ignored {s : State} {n : Nat} {v : Word} (hv : (s.chain n).size.toNat ≤ v.toNat) : execChTailWrite n v s = .next s := by
  unfold execChTailWrite
  split
  · rfl
  · exact congrArg Host.Outcome.next (State.modChain_id s (if_neg (Nat.not_lt.2 hv)))

section
variable {s : State} {n : Nat} (hn : n < 16) (hlen : n < s.hub.chains.length)
include hn hlen

/-- A tail that is one is taken. -/
theorem execChTailWrite_takes {v : Word} (ht : s.hostTakes = true) (hv : v.toNat < (s.chain n).size.toNat) :
    ∃ t, execChTailWrite n v s = .next t ∧ (t.chain n).tail = v ∧ (t.chain n).head = (s.chain n).head ∧
      ((s.chain n).stat ≠ 2 → (t.chain n).stat = if (s.chain n).head = v.toNat then 0 else 1) ∧ t.mem = s.mem := by
  obtain ⟨htail, hhead, -, -, hstat⟩ := Chain.show_keeps { s.chain n with tail := v }
  refine ⟨_, if_neg (by simp [ht, Nat.not_le.2 hn]), ?_⟩
  rw [State.modChain_chain s _ hlen, if_pos hv]
  exact ⟨htail, hhead, hstat, rfl⟩

/-- A stopped chain is restarted at the entry that it stopped at. -/
theorem execChCtlRestart_restarts {v : Word} (ht : s.hostTakes = true) (hs : (s.chain n).stat = 2) (hv : v.getLsbD 0 = true) :
    ∃ t, execChCtlRestart n v s = .next t ∧ (t.chain n).stat = 1 ∧ (t.chain n).reason = 0 ∧ (t.chain n).phase = .fetch ∧
      (t.chain n).head = (s.chain n).head ∧ t.mem = s.mem := by
  refine ⟨_, if_neg (by simp [ht, Nat.not_le.2 hn]), ?_⟩
  rw [State.modChain_chain s _ hlen, if_pos (by rw [hs, hv]; rfl)]
  exact ⟨rfl, rfl, rfl, rfl, rfl⟩

end

/-! ## JOB (R314, R319) -/

section
variable {s s' : State} {n : Nat} {bs : List Byte} (h : Takes s n eJOB bs s')
include h

/-- A job id that is 0 or used stops the chain. -/
theorem execJobEntry_used (hid : field bs 4 4 = 0 ∨ (s'.job? (field bs 4 4)).isSome = true) : execJobEntry n s = .next (s'.stopChain n 4) := by
  unfold execJobEntry
  rw [h.take]
  exact congrArg _ (if_pos (by simpa using hid))

/-- What a JOB entry waits for before its job opens (R314, R318, R319). -/
def jobOpens (s : State) (n : Nat) (bs : List Byte) : Prop :=
  (s.chain n).job = none ∧ (∀ b, b < 4 → s.slice.getD b 0 = entrySlice bs b) ∧
    (∀ j ∈ s.hub.jobs, ∀ d, d < 4 → (j.2.resv.getD d 0) &&& ((entryResv bs).getD d 0) = 0) ∧
    (bits (field bs 1 1) 1 1 = 0 ∨ field bs 32 8 ≤ s.hub.tmr)

omit h in
theorem mem_upFrom_zero {n k : Nat} : k ∈ upFrom 0 n ↔ k < n := by
  rw [upFrom_eq, List.mem_range'_1]
  omega

omit h in
/-- What the sequencer tests is what the entry waits for. -/
theorem jobOpens_iff (s : State) (n : Nat) (bs : List Byte) :
    ((s.chain n).job.isSome || !((upFrom 0 4).all fun b => s.slice.getD b 0 == entrySlice bs b) ||
      !(s.hub.jobs.all fun j => (upFrom 0 4).all fun d => (j.2.resv.getD d 0) &&& ((entryResv bs).getD d 0) == 0) ||
      !(bits (field bs 1 1) 1 1 == 0 || decide (s.hub.tmr ≥ field bs 32 8))) = false ↔ jobOpens s n bs := by
  simp only [jobOpens, Bool.or_eq_false_iff, Bool.not_eq_false', List.all_eq_true, mem_upFrom_zero, Option.isSome_eq_false_iff,
    Option.isNone_iff_eq_none, beq_iff_eq, Bool.or_eq_true, decide_eq_true_eq, ge_iff_le, and_assoc]

/-- A JOB entry whose conditions do not hold waits. -/
theorem execJobEntry_waits (h0 : field bs 4 4 ≠ 0) (hfree : s'.job? (field bs 4 4) = none) (ho : ¬jobOpens s' n bs) :
    execJobEntry n s = .next s' := by
  rw [← jobOpens_iff, Bool.not_eq_false] at ho
  unfold execJobEntry
  rw [h.take]
  exact congrArg _ ((if_neg (by simp [h0, hfree])).trans (if_pos ho))

/-- The job that a JOB entry opens (R317). -/
def entryJob (n : Nat) (bs : List Byte) : HJob :=
  { chain := n, lock := bits (field bs 1 1) 0 0 == 1, dbg := bits (field bs 1 1) 2 2 == 1, root := Word.ofN (field bs 16 8), asn := field bs 24 2,
    slice := (upFrom 0 4).map (entrySlice bs), resv := entryResv bs, jctr := Word.ofN (field bs 72 8), pctr := Word.ofN (field bs 80 8) }

/-- A JOB entry whose conditions hold opens its job. -/
theorem execJobEntry_opens (h0 : field bs 4 4 ≠ 0) (hfree : s'.job? (field bs 4 4) = none) (ho : jobOpens s' n bs) :
    execJobEntry n s = .next (((s'.modHub fun hub => { hub with jobs := AMap.set hub.jobs (field bs 4 4) (entryJob n bs), joined := true }).modChain n
      fun c => { c with job := some (field bs 4 4) }).retire n) := by
  rw [← jobOpens_iff] at ho
  unfold execJobEntry
  rw [h.take]
  exact congrArg _ ((if_neg (by simp [h0, hfree])).trans (if_neg (Bool.eq_false_iff.1 ho)))

end

/-- The chain after an entry that gives it a job, and is to retire. -/
theorem State.chain_retire_modChain {s : State} {n : Nat} (hn : n < s.hub.chains.length) (f : Chain → Chain) :
    ((s.modChain n f).retire n).chain n = { f (s.chain n) with phase := .retiring } := by
  have hn' : n < (s.modChain n f).hub.chains.length := by
    show n < (setAt _ _ _).length
    rw [setAt_length]
    exact hn
  rw [State.retire, State.modChain_chain _ _ hn', State.modChain_chain s f hn]

/-! ## GRAPH, PHASE and END -/

section
variable {s s' : State} {n jid : Nat} {bs : List Byte} (hjob : (s'.chain n).job = some jid)
include hjob

/-- A graph id that is 0 or used stops the chain. -/
theorem execGraphEntry_used (h : Takes s n eGRAPH bs s') (hid : field bs 4 4 = 0 ∨ (s'.openGraph (field bs 4 4)).isSome = true) :
    execGraphEntry n s = .next (s'.stopChain n 4) := by
  unfold execGraphEntry
  rw [h.take, hjob]
  exact congrArg _ (if_pos (by simpa using hid))

/-- The graph that a GRAPH entry opens. -/
def entryGraph (key jid : Nat) (j : HJob) (bs : List Byte) : Graph :=
  { key := key, gid := field bs 4 4, jid := jid, phase := j.phase, gctr := Word.ofN (field bs 16 8), cancelled := j.cancelledPhases.contains j.phase }

/-- A GRAPH entry with a free id closes the current graph and opens its own in the current phase. -/
theorem execGraphEntry_opens {j : HJob} (h : Takes s n eGRAPH bs s') (hj : s'.job? jid = some j) (h0 : field bs 4 4 ≠ 0)
    (hfree : s'.openGraph (field bs 4 4) = none) :
    let x := s'.seal jid
    execGraphEntry n s = .next (((x.takeSeq.2.modHub fun hub => { hub with graphs := hub.graphs ++ [entryGraph x.seq jid j bs] }).modJob jid
      fun j => { j with curGraph := some x.seq }).retire n) := by
  intro x
  unfold execGraphEntry
  rw [h.take, hjob]
  refine congrArg _ ((if_neg (by simp [h0, hfree])).trans ?_)
  rw [hj]
  rfl

/-- A PHASE entry closes the current graph. -/
theorem execPhaseEntry_seals (h : Takes s n ePHASE bs s') : execPhaseEntry n s = .next (s'.seal jid) := by
  unfold execPhaseEntry
  rw [h.take, hjob]

/-- An END entry closes the current graph, and discards the speculative launches whose units have all ended. -/
theorem execEndEntry_seals (h : Takes s n eEND bs s') : execEndEntry n s = .next (((s'.seal jid).jobLaunches jid).foldl (fun x p =>
    if p.2.desc.specv ∧ p.2.resolved = false ∧ p.2.done.length = p.2.desc.units then x.cancelLaunch p.1 else x) (s'.seal jid)) := by
  have hcond : ∀ (x : State) (p : Nat × Launch), (if p.2.desc.specv && !p.2.resolved && p.2.done.length = p.2.desc.units then x.cancelLaunch p.1 else x) =
      if p.2.desc.specv ∧ p.2.resolved = false ∧ p.2.done.length = p.2.desc.units then x.cancelLaunch p.1 else x := fun x p => by
    simp only [Bool.and_eq_true, Bool.not_eq_true', decide_eq_true_eq, and_assoc]
  unfold execEndEntry
  rw [h.take, hjob]
  simp only [hcond]

end

/-- What a GRAPH entry leaves: the new graph behind the others, as the current one of its job. -/
theorem graphOpened {x : State} {n jid : Nat} {j' : HJob} (g : Graph) (hn : n < x.hub.chains.length) (hj : x.job? jid = some j') :
    let t := ((x.takeSeq.2.modHub fun hub => { hub with graphs := hub.graphs ++ [g] }).modJob jid fun j => { j with curGraph := some g.key }).retire n
    t.hub.graphs = x.hub.graphs ++ [g] ∧ (t.job? jid).bind (·.curGraph) = some g.key ∧ (t.chain n).phase = .retiring ∧ t.mem = x.mem := by
  have hy : (x.takeSeq.2.modHub fun hub => { hub with graphs := hub.graphs ++ [g] }).job? jid = some j' := hj
  refine ⟨State.modJob_graphs _ _ _, ?_, ?_, State.modJob_mem _ _ _⟩
  · exact congrArg (Option.bind · HJob.curGraph) (State.job?_modJob (fun j => { j with curGraph := some g.key }) hy)
  · rw [State.retire, State.modChain_chain _ _ (by rw [State.modJob_chains]; exact hn)]

/-! ## WAITC, and counters read again (R318) -/

section
variable {s s1 : State} {n jid v : Nat} {j : HJob} {bs : List Byte}

/-- A counter that has been read lets its entry retire once it has reached the entry's value. -/
theorem State.waitc_val (hjob : (s.chain n).job = some jid) (hj : s.job? jid = some j)
    (hc : s.seqCounter n j (Word.ofN (field bs 16 8)) = (.val v, s1)) : s.waitc n bs = if field bs 24 8 ≤ v then s1.retire n else s1 := by
  unfold State.waitc
  rw [hjob, Option.bind_some, hj]
  dsimp only
  rw [hc]

theorem execWaitcEntry_val {s' : State} (h : Takes s n eWAITC bs s') (hjob : (s'.chain n).job = some jid) (hj : s'.job? jid = some j)
    (hc : s'.seqCounter n j (Word.ofN (field bs 16 8)) = (.val v, s1)) :
    execWaitcEntry n s = .next (if field bs 24 8 ≤ v then s1.retire n else s1) := by
  unfold execWaitcEntry
  rw [h.take, State.waitc_val hjob hj hc]

theorem execSequencerCounterReread_chain (hn : n < 16) (hs : (s.chain n).stat ≠ 2) (hp : (s.chain n).phase = .waiting)
    (ht : field (s.chain n).entry 0 1 = eWAITC) (hjob : (s.chain n).job = some jid) (hj : s.job? jid = some j)
    (hc : s.seqCounter n j (Word.ofN (field (s.chain n).entry 16 8)) = (.val v, s1)) :
    execSequencerCounterReread n s = .next (if field (s.chain n).entry 24 8 ≤ v then s1.retire n else s1) := by
  unfold execSequencerCounterReread
  rw [if_pos hn]
  refine (if_neg (by simp [hs, hp, ht])).trans ?_
  rw [State.waitc_val hjob hj hc]

theorem execSequencerCounterReread_launch {lid : Nat} {l : Launch} (hl : s.launch? lid = some l) (hj : s.job? l.jid = some j)
    (hw : l.wok = false) (hcan : l.cancelled = false) (hc : s.seqCounter (keyWctr lid) j l.wctr = (.val v, s1)) :
    execSequencerCounterReread (16 + lid) s =
      .next (if l.wval.toNat ≤ v then s1.modLaunch lid fun l => { l with wok := true } else s1) := by
  unfold execSequencerCounterReread
  rw [if_neg (by omega), Nat.add_sub_cancel_left]
  dsimp only
  rw [hl]
  dsimp only
  rw [hj]
  dsimp only
  rw [if_neg (by simp [hw, hcan]), hc]

end

/-! ## SPEC (R333) -/

section
variable {s s' : State} {n jid : Nat} {bs : List Byte} {l : Launch} {discard : Bool} (h : Takes s n eSPEC bs s')
  (hjob : (s'.chain n).job = some jid) (hl : s'.specLaunch jid (field bs 4 4) = some l) (hd : (bits (field bs 1 1) 0 0 == 1) = discard)
include h hjob hl hd

/-- What a SPEC entry of its own step does with the launch that it names. -/
theorem specEntry_eq : specEntry n discard s =
    if l.resolved then
      (if (s'.chain n).lid = field bs 4 4 then (s'.completeLaunch (field bs 4 4)).specRetire n (field bs 4 4) else s'.retire n)
    else if discard then (((s'.cancelLaunch (field bs 4 4)).completeLaunch (field bs 4 4)).modChain n fun c =>
      { c with lid := field bs 4 4 }).specRetire n (field bs 4 4)
    else if s'.cancelling (field bs 4 4) then s'.retire n
    else if (s'.commit (field bs 4 4)).1 then (((s'.commit (field bs 4 4)).2.completeLaunch (field bs 4 4)).modChain n fun c =>
      { c with lid := field bs 4 4 }).specRetire n (field bs 4 4)
    else (s'.commit (field bs 4 4)).2 := by
  unfold specEntry
  rw [h.take, if_neg (by simp [hd]), hjob]
  dsimp only [Option.bind_some]
  rw [hl]
  dsimp only
  cases s'.commit (field bs 4 4) with
  | mk done s1 => cases done <;> rfl

end

/-- A SPEC entry whose launch is complete, or is gone, retires. -/
theorem State.specRetire_complete {s : State} {n lid : Nat} (h : ∀ l, s.launch? lid = some l → l.complete = true) :
    s.specRetire n lid = s.retire n := if_pos (by
  cases hl : s.launch? lid with
  | none => rfl
  | some l => exact h l hl)

/-! ## Retirement (R318) -/

/-- What the sequencer writes at home it then reads there, with no engine op in flight. -/
theorem State.seqStore_bytes {s : State} (hwf : s.mem.wf = true) (hidle : s.Idle) (d : Nat) (bs : List Byte) (lid : Nat) :
    (s.seqStore d bs lid).mem.bytes d bs.length = bs := by
  unfold State.seqStore
  obtain ⟨hmem, hcores, -, -, hunits⟩ := State.writeAt_home bs s.takeSeq.2 d
  have hidle' : (s.takeSeq.2.writeAt 0 (.home d) bs).Idle := by
    unfold State.Idle
    rw [hcores, hunits]
    exact hidle
  rw [(State.offWrite_keeps ..).1, State.noteWrite_mem _ _ _ _ _ hidle', hmem]
  exact Store.bytes_setBytes bs hwf d

/-- The chain whose entry retires: its head has moved on, and SEQ is kept. -/
def Chain.retired (c : Chain) : Chain :=
  { c with head := (c.head + 1) % c.size.toNat, lastSeq := some (field c.entry 8 8), phase := .fetch, entry := [], lid := 0 }.show

/-- Retirement moves the head on and writes SEQ to the progress word. -/
theorem execChainEntryRetire_writes {s : State} {n : Nat} (hn : n < 16) (hs : (s.chain n).stat ≠ 2) (hp : (s.chain n).phase = .retiring)
    (hdel : s.seqDelivered = true) (hok : s.dpaErr ((s.chain n).prog.toNat / 8 * 8) 8 false = none) :
    execChainEntryRetire n s = .next ((s.modChain n Chain.retired).seqStore ((s.chain n).prog.toNat / 8 * 8)
      (leBytes 8 (field (s.chain n).entry 8 8))) := by
  have hok' : ∀ f, (s.modChain n f).dpaErr ((s.chain n).prog.toNat / 8 * 8) 8 false = none := fun _ => hok
  unfold execChainEntryRetire
  refine (if_neg (by simp [hs, hp, hdel, Nat.not_le.2 hn])).trans ?_
  dsimp only
  rw [hok']
  rfl

end Sys2Proof.Machine

open Sys2Proof Sys2Proof.Machine

/-- Settles O54: each register and each entry by the outcome that its condition selects. -/
theorem chainEvents : Obligations.ChainEvents := by
  unfold Obligations.ChainEvents
  refine ⟨fun s n v hn hlen => ⟨execChTailWrite_takes hn hlen, execChTailWrite_ignored, execChCtlRestart_restarts hn hlen⟩,
    fun s n bs s' h => ⟨execJobEntry_used h, fun h0 hfree => ⟨execJobEntry_waits h h0 hfree, fun ho => ?_⟩⟩,
    fun s n bs s' jid j h hjob hj => ⟨execGraphEntry_used hjob h, fun h0 hfree => ?_⟩,
    fun s n bs s' jid hjob => ⟨execPhaseEntry_seals hjob, execEndEntry_seals hjob⟩,
    fun s n bs s' jid j v s1 h hjob hj hc => execWaitcEntry_val h hjob hj hc,
    fun s n jid j v s1 hn hs hp ht hjob hj hc => execSequencerCounterReread_chain hn hs hp ht hjob hj hc,
    fun s lid l j v s1 hl hj hw hcan hc => execSequencerCounterReread_launch hl hj hw hcan hc,
    fun s n bs s' jid l h hjob hl hres => ⟨fun hb => ?_, fun hb hcan done s1 hc => ?_, fun hb hcan => ?_⟩,
    fun s n bs s' jid l h hjob hl hres hlid hb => ?_,
    fun s n lid hl => State.specRetire_complete hl,
    fun s n hn hlen hwf hs hp hdel => ?_⟩
  · obtain ⟨hmem, hunits⟩ := h.same
    have hchain := State.chain_retire_modChain (s := s'.modHub fun hub =>
      { hub with jobs := AMap.set hub.jobs (field bs 4 4) (entryJob n bs), joined := true }) h.len fun c => { c with job := some (field bs 4 4) }
    refine ⟨_, entryJob n bs, execJobEntry_opens h h0 hfree ho, AMap.get?_set_same _ _ _, rfl, rfl, rfl, rfl, rfl, rfl, rfl, rfl, rfl, ?_, ?_, hmem, hunits⟩
    · rw [hchain]
    · rw [hchain]
  · obtain ⟨hchains, hmem⟩ := s'.seal_keeps jid
    obtain ⟨j', hj'⟩ := State.job?_seal hj
    obtain ⟨hgraphs, hcur, hphase, hm⟩ := graphOpened (entryGraph (s'.seal jid).seq jid j bs) (hchains ▸ h.len) hj'
    exact ⟨_, _, execGraphEntry_opens hjob h hj h0 hfree, hgraphs, rfl, rfl, rfl, rfl, rfl, rfl, hcur, hphase, (hm.trans hmem).trans h.same.1⟩
  · refine congrArg Host.Outcome.next ((specEntry_eq h hjob hl (discard := true) (by rw [hb]; rfl)).trans ?_)
    simp only [hres, Bool.false_eq_true, if_false, if_true]
  · refine congrArg Host.Outcome.next ((specEntry_eq h hjob hl (discard := false) (by rw [hb]; rfl)).trans ?_)
    simp only [hres, hcan, hc, Bool.false_eq_true, if_false]
  · refine congrArg Host.Outcome.next ((specEntry_eq h hjob hl (discard := false) (by rw [hb]; rfl)).trans ?_)
    simp only [hres, hcan, Bool.false_eq_true, if_false, if_true]
  · refine congrArg Host.Outcome.next ((specEntry_eq h hjob hl (discard := false) (by rw [hb]; rfl)).trans ?_)
    simp only [hres, hlid, if_true]
  · intro seq d hok
    have hchain := State.modChain_chain s Chain.retired hlen
    obtain ⟨-, hhead, hphase, hlast, -⟩ := Chain.show_keeps
      { s.chain n with head := ((s.chain n).head + 1) % (s.chain n).size.toNat, lastSeq := some seq, phase := .fetch, entry := [], lid := 0 }
    refine ⟨s.modChain n Chain.retired, execChainEntryRetire_writes hn hs hp hdel hok, rfl, ?_, ?_, ?_, fun hidle => ?_⟩
    · rw [hchain]
      exact hhead
    · rw [hchain]
      exact hlast
    · rw [hchain]
      exact hphase
    · have hbytes := State.seqStore_bytes (s := s.modChain n Chain.retired) hwf hidle d (leBytes 8 seq) 0
      rwa [leBytes_length] at hbytes

end

section
/-! The registers of the router island and of the resets: what units, engines, logs and writes on their way do leaves them. -/

namespace Sys2Proof.Machine

/-- The island's links and routes, the endpoints' states, and the reset sequence. -/
structure IslandRegs where
  islUp : Bool
  links : List Link
  route : AMap Nat
  ep : List Nat
  rst : ResetCtl

def State.island (s : State) : IslandRegs := ⟨s.hub.islUp, s.hub.links, s.hub.route, s.hub.ep, s.hub.rst⟩

/-- A fold of operations that leave them leaves them. -/
theorem State.island_foldl {α : Type} {f : State → α → State} (hf : ∀ s x, (f s x).island = s.island) (xs : List α) (s : State) :
    (xs.foldl f s).island = s.island :=
  foldl_keep (fun t => t.island = s.island) f xs s rfl fun a ha x _ => (hf a x).trans ha

section

variable (s : State)

/-! ## Threads, units and launches -/

theorem State.island_modThread (tk : Nat) (f : Thread → Thread) : (s.modThread tk f).island = s.island := by
  unfold State.modThread
  split <;> rfl

theorem State.island_modUnit (uid : Nat) (f : TUnit → TUnit) : (s.modUnit uid f).island = s.island := by
  unfold State.modUnit
  split <;> rfl

theorem State.island_modLaunch (lid : Nat) (f : Launch → Launch) : (s.modLaunch lid f).island = s.island := by
  unfold State.modLaunch
  split <;> rfl

/-! ## Logs and faults -/

theorem State.island_logCore (ck : Nat) (e : LogEnt) : (s.logCore ck e).island = s.island := by
  unfold State.logCore
  dsimp only
  split <;> rfl

theorem State.island_logMgmt (dpa cause kind who : Nat) : (s.logMgmt dpa cause kind who).island = s.island := by
  unfold State.logMgmt
  dsimp only
  split <;> rfl

theorem State.island_logSeq (dpa : Option Nat) (cause : Nat) : (s.logSeq dpa cause).island = s.island := by
  unfold State.logSeq
  split
  · exact s.island_logMgmt ..
  · exact s.takeFresh.2.island_logMgmt ..

theorem State.island_storeError (tk ck : Nat) (va tloc : Word) (cause : Nat) : (s.storeError tk ck va tloc cause).island = s.island := by
  unfold State.storeError
  split
  · rfl
  · exact s.island_logCore ..

theorem State.island_endFault (token : Nat) (refused : Bool) : (s.endFault token refused).island = s.island := by
  unfold State.endFault
  split <;> rfl

/-! ## Undefined bytes, and buffers that a write spoils -/

theorem State.island_forgetAt (l : Loc) (n : Nat) : (s.forgetAt l n).island = s.island := by
  cases l with
  | home d => rfl
  | _ => exact State.island_modUnit _ _ _

theorem State.island_specWrite (spec d : Nat) (v : Byte) : (s.specWrite spec d v).island = s.island := by
  unfold State.specWrite
  split
  · rfl
  · exact s.island_modLaunch _ _

theorem State.island_forgetAs (spec : Nat) (l : Loc) (n : Nat) : (s.forgetAs spec l n).island = s.island := by
  cases l with
  | home d =>
    unfold State.forgetAs
    dsimp only
    split
    · exact s.island_forgetAt _ _
    · exact State.island_foldl (fun a x => a.island_specWrite _ _ _) _ _
  | _ => exact s.island_forgetAt _ _

theorem State.island_loseKept (l : Loc) (n : Nat) : (s.loseKept l n).island = s.island := by
  refine State.island_foldl (fun a p => ?_) _ s
  dsimp only
  split
  · split
    · exact a.takeFresh.2.island_modLaunch _ _
    · rfl
  · rfl

theorem State.island_forgetTile (j : Job) (t : Nat) : (s.forgetTile j t).island = s.island := by
  refine State.island_foldl (fun a x => ?_) _ s
  split
  · exact a.island_forgetAs ..
  · rfl

theorem State.island_forgetDst (o : CopyOp) : (s.forgetDst o).island = s.island :=
  State.island_foldl (fun a _ => a.island_forgetAs ..) _ s

/-! ## Engine operations and seats -/

theorem State.island_setPresent (uid : Nat) (lines : List Nat) : (s.setPresent uid lines).island = s.island := s.island_modUnit _ _

theorem State.island_setAllPresent (ck id : Nat) : (s.setAllPresent ck id).island = s.island :=
  State.island_foldl (fun (a : State) (x : Nat × Nat) => a.island_setPresent x.1 [x.2]) _ s

theorem State.island_dropOps (uid : Nat) (undef : Bool) : (s.dropOps uid undef).island = s.island := by
  refine State.island_foldl (fun a x => (State.island_setAllPresent _ _ _).trans ?_) _ s
  split
  · exact a.island_forgetDst _
  · rfl

theorem State.island_freeSeat (uid gg : Nat) : (s.freeSeat uid gg).island = s.island := by
  unfold State.freeSeat
  split
  · rfl
  · exact State.island_modUnit (State.modCore s _ _) _ _

theorem State.island_unseatUnit (uid : Nat) : (s.unseatUnit uid).island = s.island :=
  State.island_foldl (fun a gg => a.island_freeSeat uid gg) _ s

theorem State.island_throttle (ck : Nat) : (s.throttle ck).island = s.island :=
  State.island_foldl (fun a u => a.island_modUnit u _) _ s

/-! ## Writes on their way that fail (R263) -/

theorem State.island_jobUndelivered (id d : Nat) : (s.jobUndelivered id d).island = s.island := by
  unfold State.jobUndelivered
  split
  · rfl
  · exact State.island_foldl (fun a t => a.island_forgetTile _ t) _ s

theorem State.island_engUndelivered (ck ch id d : Nat) : (s.engUndelivered ck ch id d).island = s.island := by
  unfold State.engUndelivered
  split
  · split
    · rfl
    · dsimp only
      split
      · exact State.island_setAllPresent (State.modOp s _ _ _) _ _
      · rfl
  · exact s.island_jobUndelivered ..

theorem State.island_failWaiters (w : OffWrite) : (s.failWaiters w).island = s.island := by
  refine State.island_foldl (fun a p => ?_) _ s
  split
  · split
    · rfl
    · exact a.island_modThread _ _
  · rfl

theorem State.island_failWrite (w : OffWrite) : (s.failWrite w).island = s.island := by
  have hwait := s.island_failWaiters w
  unfold State.failWrite
  dsimp only
  split
  · split
    · exact (State.island_logSeq ..).trans hwait
    · exact (State.island_engUndelivered ..).trans ((State.island_logCore ..).trans hwait)
  · exact (State.island_storeError ..).trans hwait

theorem State.island_failWrites (f : OffWrite → Bool) : (s.failWrites f).island = s.island :=
  State.island_foldl (fun a w => a.island_failWrite w) _ _

end

end Sys2Proof.Machine
end

section
/-! The router island: the host's aperture, flits, links, routes and the island's reset (R259, R262, R357 to R360, R365, R370, R372). -/

namespace Sys2Proof.Machine

/-! ## What the hash of the ports depends on (R360) -/

/-- What routing looks at in a link. -/
def Link.port (l : Link) : Nat × Nat × Nat × Bool := (l.st, l.lanes, l.peer, l.down)

/-- What routing looks at in the island. -/
structure PortTable where
  islUp : Bool
  route : AMap Nat
  ports : List (Nat × Nat × Nat × Bool)

def State.portTable (s : State) : PortTable := ⟨s.hub.islUp, s.hub.route, s.hub.links.map Link.port⟩

theorem State.portTable_of_island {s t : State} (h : t.island = s.island) : t.portTable = s.portTable := by
  have hup := congrArg IslandRegs.islUp h
  have hlinks := congrArg IslandRegs.links h
  have hroute := congrArg IslandRegs.route h
  simp only [State.island] at hup hlinks hroute
  simp only [State.portTable, hup, hlinks, hroute]

theorem map_setAt_keeps {α β : Type} (g : α → β) (d : α) : ∀ (xs : List α) (n : Nat) (y : α), g y = g (xs.getD n d) →
    (setAt xs n y).map g = xs.map g
  | [], _, _, _ => rfl
  | _ :: xs, 0, _, h => congrArg (· :: xs.map g) h
  | x :: xs, n + 1, y, h => congrArg (g x :: ·) (map_setAt_keeps g d xs n y h)

theorem State.portTable_modLink (s : State) (p : Nat) {f : Link → Link} (hf : ∀ l, (f l).port = l.port) : (s.modLink p f).portTable = s.portTable :=
  congrArg (PortTable.mk s.hub.islUp s.hub.route) (map_setAt_keeps Link.port {} s.hub.links p _ (hf _))

theorem State.port_of_portTable {s t : State} (h : t.portTable = s.portTable) (p : Nat) :
    (t.hub.links.getD p {}).port = (s.hub.links.getD p {}).port := by
  have hports := congrArg (fun x : PortTable => x.ports.getD p (Link.port {})) h
  simpa [State.portTable, List.getD_eq_getElem?_getD, Option.getD_map] using hports

theorem State.route_of_portTable {s t : State} (h : t.portTable = s.portTable) : t.hub.route = s.hub.route := congrArg PortTable.route h

/-- The ports that pass a test of what routing looks at. -/
theorem State.portsThat_congr {s t : State} (h : t.portTable = s.portTable) (m : Nat) {f : Link → Bool} (hf : ∀ l l', l.port = l'.port → f l = f l') :
    t.portsThat m f = s.portsThat m f := by
  have hup : t.hub.islUp = s.hub.islUp := congrArg PortTable.islUp h
  have hroute : t.hub.route = s.hub.route := congrArg PortTable.route h
  have htest : ∀ p, f (t.hub.links.getD p {}) = f (s.hub.links.getD p {}) := fun p => hf _ _ (State.port_of_portTable h p)
  simp only [State.portsThat, hup, hroute, htest]

theorem Link.isUp_congr (l l' : Link) (h : l.port = l'.port) : l.isUp = l'.isUp := by
  have hst : l.st = l'.st := congrArg Prod.fst h
  simp only [Link.isUp, hst]

theorem State.portTo_congr {s t : State} (h : t.portTable = s.portTable) (m line : Nat) : t.portTo m line = s.portTo m line := by
  have htrain := State.portsThat_congr h m (f := fun l => l.st == 1) fun l l' e => congrArg (fun x : Nat × Nat × Nat × Bool => x.1 == 1) e
  simp only [State.portTo, State.portsTo, State.portsThat_congr h m Link.isUp_congr, htrain]

/-- A link that carries on where it is answers no access otherwise. -/
theorem State.targetErr_modLink (s : State) (p : Nat) {f : Link → Link} (hf : ∀ l, (f l).port = l.port) (d n : Nat) (rd : Bool) :
    (s.modLink p f).targetErr d n rd = s.targetErr d n rd := by
  unfold State.targetErr
  simp only [State.portTo_congr (s.portTable_modLink p hf)]
  rfl

/-! ## Packets that move (R360) -/

theorem fillLink_port (now : Nat) : ∀ (ps : List Packet) (l : Link), (fillLink now ps l).port = l.port
  | [], _ => rfl
  | p :: ps, l => by
    unfold fillLink
    split
    · rfl
    · exact fillLink_port now ps _

theorem State.portTable_fillPort (s : State) (p : Nat) : (s.fillPort p).portTable = s.portTable :=
  s.portTable_modLink p fun l => fillLink_port _ l.queue l

theorem State.portTable_sendPacket (s : State) (x : Packet) : (s.sendPacket x).portTable = s.portTable := by
  unfold State.sendPacket
  split
  · rfl
  · exact (State.portTable_fillPort _ _).trans (s.portTable_modLink _ fun _ => rfl)

/-- With no write on its way, an operation that may fail such writes leaves memory. -/
def State.Calm (s t : State) : Prop := s.offw = [] → t.mem = s.mem ∧ t.offw = []

theorem State.Calm.trans {a b c : State} (h : a.Calm b) (h' : b.Calm c) : a.Calm c := fun ha =>
  ⟨(h' (h ha).2).1.trans (h ha).1, (h' (h ha).2).2⟩

theorem State.Calm.of_eq {s t : State} (hm : t.mem = s.mem) (ho : t.offw = s.offw) : s.Calm t := fun h => ⟨hm, ho.trans h⟩

theorem State.Calm.foldl {α : Type} {f : State → α → State} (hf : ∀ (s : State) x, s.Calm (f s x)) (xs : List α) (s : State) : s.Calm (xs.foldl f s) :=
  foldl_keep s.Calm f xs s (.of_eq rfl rfl) fun a ha x _ => ha.trans (hf a x)

theorem State.calm_sendPacket (s : State) (x : Packet) : s.Calm (s.sendPacket x) := by
  unfold State.sendPacket
  split <;> exact .of_eq rfl rfl

theorem State.calm_logMgmt (s : State) (dpa cause kind who : Nat) : s.Calm (s.logMgmt dpa cause kind who) := by
  unfold State.logMgmt
  dsimp only
  split <;> exact .of_eq rfl rfl

theorem State.calm_failWrites (s : State) (f : OffWrite → Bool) : s.Calm (s.failWrites f) := fun h => by
  unfold State.failWrites
  rw [h]
  exact ⟨rfl, rfl⟩

/-- A lost packet changes no port, and without a write on its way no memory. -/
theorem State.losePacket_keeps (s : State) (x : Packet) : (s.losePacket x).portTable = s.portTable ∧ s.Calm (s.losePacket x) := by
  unfold State.losePacket
  dsimp only
  split
  · exact ⟨State.portTable_of_island (s.island_failWrites _), s.calm_failWrites _⟩
  · split
    · exact ⟨(State.portTable_sendPacket _ _).trans (State.portTable_of_island (s.island_logMgmt ..)),
        State.Calm.trans (s.calm_logMgmt _ _ _ _) (State.calm_sendPacket _ _)⟩
    · exact ⟨rfl, .of_eq rfl rfl⟩

theorem State.movePackets_keeps (s : State) (p : Nat) : (s.movePackets p).portTable = s.portTable ∧ s.Calm (s.movePackets p) := by
  unfold State.movePackets
  extract_lets l stays out s1
  have hmove : (s1.fillPort p).portTable = s.portTable ∧ s.Calm (s1.fillPort p) :=
    ⟨(State.portTable_fillPort s1 p).trans (s.portTable_modLink p fun _ => rfl), .of_eq rfl rfl⟩
  refine foldl_keep (fun t => t.portTable = s.portTable ∧ s.Calm t) _ out _ hmove fun a ha x _ => ?_
  split
  · exact ⟨(a.portTable_sendPacket x).trans ha.1, ha.2.trans (a.calm_sendPacket x)⟩
  · exact ⟨(a.losePacket_keeps x).1.trans ha.1, ha.2.trans (a.losePacket_keeps x).2⟩

theorem State.rebucket_keeps (s : State) : s.rebucket.portTable = s.portTable ∧ s.Calm s.rebucket :=
  foldl_keep (fun t => t.portTable = s.portTable ∧ s.Calm t) _ _ s ⟨rfl, .of_eq rfl rfl⟩ fun a ha p _ =>
    ⟨(a.movePackets_keeps p).1.trans ha.1, ha.2.trans (a.movePackets_keeps p).2⟩

theorem State.rebucket_route (s : State) : s.rebucket.hub.route = s.hub.route := State.route_of_portTable s.rebucket_keeps.1

theorem State.rebucket_mem {s : State} (ho : s.offw = []) : s.rebucket.mem = s.mem := (s.rebucket_keeps.2 ho).1

/-! ## The host's aperture (R262, R372) -/

section
variable {s : State} {off n : Nat} {bs : List Byte} (ht : s.hostTakes = true)
include ht

/-- A write within BAR2. -/
theorem execHostApertureWrite_within (hbs : bs ≠ []) (hoff : off + bs.length ≤ s.hub.bar2) : execHostApertureWrite off bs s =
    match if s.hub.islUp then s.dpaErr (s.hub.aperBase.toNat + off) bs.length false else some cMEMERR with
    | some c => .next (s.logMgmt (s.hub.aperBase.toNat + off) c 6 0)
    | none => .next (s.outsideWrite (s.hub.aperBase.toNat + off) bs 6 0) :=
  if_neg (by simp [ht, hbs, hoff])

/-- A read within BAR2. -/
theorem execHostApertureRead_within (hn : 0 < n) (hoff : off + n ≤ s.hub.bar2) : execHostApertureRead off n s =
    match if s.hub.islUp then s.dpaErr (s.hub.aperBase.toNat + off) n true else some cMEMERR with
    | some c => .next (s.logMgmt (s.hub.aperBase.toNat + off) c 6 0)
    | none => .next (s.modHub fun h => { h with hostReads := h.hostReads ++ [s.bytesAt 0 (.home (s.hub.aperBase.toNat + off)) n] }) :=
  if_neg (by simp [ht, hoff, Nat.pos_iff_ne_zero.1 hn])

end

/-- An access that receives no error is one that its target answers, while the island is up. -/
theorem State.targetErr_of_dpaErr {s : State} {d n : Nat} {rd : Bool} (h : (if s.hub.islUp then s.dpaErr d n rd else some cMEMERR) = none) :
    s.targetErr d n rd = none := by
  by_cases hup : s.hub.islUp = true
  · rw [if_pos hup] at h
    unfold State.dpaErr at h
    by_cases hd : hostBase < d + n
    · rw [if_pos hd] at h
      cases h
    · rwa [if_neg hd] at h
  · rw [if_neg hup] at h
    cases h

/-! ## Flits (R370) -/

section
variable {s : State} {p : Nat} {fl : List Byte} {c : FlitCont} (hp : p < 18) (hlen : fl.length = 128) (hisl : s.hub.islUp = true)
  (hup : (s.hub.links.getD p {}).isUp = true)
include hp hlen hisl hup

/-- A flit whose CRC fails. -/
theorem execFlitReceive_replayed (hcrc : crcOk fl = false) : execFlitReceive p fl s = .next (if (s.hub.links.getD p {}).fails < 15 then
    s.modLink p Link.replayed else (s.modLink p Link.replayed).retrain p) := by
  unfold execFlitReceive
  dsimp only
  rw [if_neg (by rw [hup]; simp [hlen, hisl, Nat.not_le.2 hp]), if_pos (by rw [hcrc]; rfl)]
  by_cases hf : (s.hub.links.getD p {}).fails < 15
  · rw [if_neg (by omega), if_pos hf]
  · rw [if_pos (by omega), if_neg hf]

variable (hcrc : crcOk fl = true)
include hcrc

/-- A flit that its CRC covers. -/
theorem execFlitReceive_whole : execFlitReceive p fl s = match (s.hub.links.getD p {}).cont with
    | some c => .next (s.dataFlit p c fl)
    | none =>
      if field fl 4 1 > 7 then .next (s.modLink p fun l => { l with replay := Nat.min (l.replay + 1) 65535 })
      else if field fl 4 1 = 7 then .next (s.ackFlit p (field fl 5 1))
      else if field fl 5 1 ≠ (s.hub.links.getD p {}).lseq then .next s
      else .next (if field fl 0 2 % 8192 = s.hub.pkgid then (s.modLink p Link.take).serveFlit p fl else (s.modLink p Link.take).forwardFlit p fl) := by
  unfold execFlitReceive
  dsimp only
  rw [if_neg (by rw [hup]; simp [hlen, hisl, Nat.not_le.2 hp]), if_neg (by simp [hcrc])]
  rfl

theorem execFlitReceive_data (hc : (s.hub.links.getD p {}).cont = some c) : execFlitReceive p fl s = .next (s.dataFlit p c fl) := by
  rw [execFlitReceive_whole hp hlen hisl hup hcrc, hc]

variable (hc : (s.hub.links.getD p {}).cont = none)
include hc

theorem execFlitReceive_unknown (hty : 7 < field fl 4 1) :
    execFlitReceive p fl s = .next (s.modLink p fun l => { l with replay := Nat.min (l.replay + 1) 65535 }) := by
  rw [execFlitReceive_whole hp hlen hisl hup hcrc, hc]
  exact if_pos hty

theorem execFlitReceive_ack (hty : field fl 4 1 = 7) : execFlitReceive p fl s = .next (s.ackFlit p (field fl 5 1)) := by
  rw [execFlitReceive_whole hp hlen hisl hup hcrc, hc]
  exact (if_neg (by omega)).trans (if_pos hty)

theorem execFlitReceive_outOfSequence (hty : field fl 4 1 < 7) (hseq : field fl 5 1 ≠ (s.hub.links.getD p {}).lseq) :
    execFlitReceive p fl s = .next s := by
  rw [execFlitReceive_whole hp hlen hisl hup hcrc, hc]
  exact (if_neg (by omega)).trans ((if_neg (by omega)).trans (if_pos hseq))

theorem execFlitReceive_taken (hty : field fl 4 1 < 7) (hseq : field fl 5 1 = (s.hub.links.getD p {}).lseq) : execFlitReceive p fl s =
    .next (if field fl 0 2 % 8192 = s.hub.pkgid then (s.modLink p Link.take).serveFlit p fl else (s.modLink p Link.take).forwardFlit p fl) := by
  rw [execFlitReceive_whole hp hlen hisl hup hcrc, hc]
  exact (if_neg (by omega)).trans ((if_neg (by omega)).trans (if_neg (not_not.2 hseq)))

end

/-! ## Data flits (R370) -/

/-- Whether a part of a peer's write has met an error, up to a data flit. -/
def State.flitBad (s : State) (c : FlitCont) : Bool := c.bad || (c.fwd.isEmpty && (s.targetErr c.addr (Nat.min c.left 120) false).isSome)

/-- The link once a data flit with more to come has been taken, with the flits that are kept to be forwarded. -/
def State.dataGoes (s : State) (p : Nat) (c : FlitCont) (fwd : List (List Byte)) : State := s.modLink p fun l =>
  { l.take with cont := some { c with addr := c.addr + 120, left := c.left - 120, bad := s.flitBad c, fwd := fwd } }

/-- The link once the last data flit of a packet has been taken. -/
def State.dataEnds (s : State) (p : Nat) : State := s.modLink p fun l => { l.take with cont := none }

section
variable {s : State} {p : Nat} {c : FlitCont} {fl : List Byte}

/-- The link once a data flit has been taken. -/
theorem State.modLink_dataFlit (s : State) (p : Nat) (c : FlitCont) (fwd : List (List Byte)) : (s.modLink p fun l => { l.take with
      cont := if c.left > 120 then some { c with addr := c.addr + 120, left := c.left - 120, bad := s.flitBad c, fwd := fwd } else none }) =
    if 120 < c.left then s.dataGoes p c fwd else s.dataEnds p := by
  by_cases hl : 120 < c.left
  · simp only [if_pos hl, gt_iff_lt]
    rfl
  · simp only [if_neg hl, gt_iff_lt]
    rfl

/-- A data flit of a packet that is addressed to this module. -/
theorem State.dataFlit_mine (hfwd : c.fwd = []) : s.dataFlit p c fl =
    if !c.write then (if 120 < c.left then s.dataGoes p c [] else s.dataEnds p)
    else
      if c.left > 120 then (s.dataGoes p c []).peerPart c.addr (fl.take (Nat.min c.left 120)) c.src c.bad
      else ((s.dataEnds p).peerPart c.addr (fl.take (Nat.min c.left 120)) c.src c.bad).reply c.src (if s.flitBad c then 4 else 3) c.tag c.addr [] := by
  have hmine : c.fwd.isEmpty = true := by rw [hfwd]; rfl
  have hbad : (c.bad || (true && (s.targetErr c.addr (Nat.min c.left 120) false).isSome)) = s.flitBad c := by
    unfold State.flitBad
    rw [hmine]
  unfold State.dataFlit
  dsimp only
  rw [hmine, hbad]
  simp only [Bool.not_true, if_true, Bool.false_eq_true, if_false]
  rw [State.modLink_dataFlit s p c []]
  by_cases hl : 120 < c.left
  · simp only [if_pos hl, gt_iff_lt]
  · simp only [if_neg hl, gt_iff_lt]

/-- A data flit of a packet for another module. -/
theorem State.dataFlit_forward (hfwd : c.fwd ≠ []) : s.dataFlit p c fl =
    if 120 < c.left then s.dataGoes p c (c.fwd ++ [fl]) else (s.dataEnds p).forward (c.fwd ++ [fl]) := by
  have hmine : c.fwd.isEmpty = false := by simpa using hfwd
  have hbad : (c.bad || (false && (s.targetErr c.addr (Nat.min c.left 120) false).isSome)) = s.flitBad c := by
    unfold State.flitBad
    rw [hmine]
  unfold State.dataFlit
  dsimp only
  rw [hmine, hbad]
  simp only [Bool.not_false, if_true, Bool.false_eq_true, if_false]
  rw [State.modLink_dataFlit s p c (c.fwd ++ [fl])]
  by_cases hl : 120 < c.left
  · simp only [if_pos hl, gt_iff_lt]
  · simp only [if_neg hl, gt_iff_lt]

/-- A part that follows one that met an error, and meets one too, is not logged again. -/
theorem State.peerPart_dataEnds (hlen : fl.length = 128) (hl : c.left ≤ 120) (he : s.targetErr c.addr c.left false ≠ none) :
    (s.dataEnds p).peerPart c.addr (fl.take c.left) c.src true = s.dataEnds p := by
  have htake : (fl.take c.left).length = c.left := by
    rw [List.length_take]
    omega
  have herr : (s.dataEnds p).targetErr c.addr (fl.take c.left).length false = s.targetErr c.addr c.left false := by
    rw [htake]
    exact s.targetErr_modLink p (f := fun l => { l.take with cont := none }) (fun _ => rfl) _ _ _
  unfold State.peerPart
  rw [herr, if_pos (by rw [Bool.true_and]; exact Option.isSome_iff_ne_none.2 he)]

end

/-! ## Links and routes (R359, R360) -/

theorem execLinkAckTimeout_retrains {s : State} {p : Nat} (hp : p < 18) (hup : (s.hub.links.getD p {}).isUp = true)
    (hlate : 16 ≤ (s.hub.links.getD p {}).fails ∨ (s.hub.links.getD p {}).unacked ≠ [] ∧ 10000 ≤ s.hub.tmr - (s.hub.links.getD p {}).heard) :
    execLinkAckTimeout p s = .next (s.retrain p) := by
  refine if_pos ?_
  rw [hup]
  simpa [hp] using hlate

theorem execLinkAckTimeout_waits {s : State} {p : Nat} (h : (s.hub.links.getD p {}).isUp = false ∨ (s.hub.links.getD p {}).fails < 16 ∧
    ((s.hub.links.getD p {}).unacked = [] ∨ s.hub.tmr - (s.hub.links.getD p {}).heard < 10000)) : execLinkAckTimeout p s = .next s := by
  unfold execLinkAckTimeout
  dsimp only
  generalize s.hub.links.getD p {} = l at h ⊢
  refine if_neg ?_
  rcases h with hup | ⟨hf, hq | hq⟩
  · simp [hup]
  · simp [hq, Nat.not_le.2 hf]
  · simp [Nat.not_le.2 hf, Nat.not_le.2 hq]

/-- A changed link. -/
theorem State.modLink_link {s : State} {p : Nat} (hp : p < s.hub.links.length) (f : Link → Link) :
    (s.modLink p f).hub.links.getD p {} = f (s.hub.links.getD p {}) := setAt_getD_same _ _ _ _ hp

/-- A port that has trained, before buckets move to it. -/
def State.trained (s : State) (p lanes peer : Nat) : State := s.modLink p fun l =>
  { l with st := if lanes = 8 then 2 else 3, lanes := if lanes = 8 then 8 else 4, peer := peer % 8192, fails := 0, lseq := 0, sent := 0, cont := none }

theorem execLinkTrainingDone_trains {s : State} {p lanes peer : Nat} (hp : p < 18) (hisl : s.hub.islUp = true) (hst : (s.hub.links.getD p {}).st = 1)
    (hdown : (s.hub.links.getD p {}).down = false) (hl : 0 < lanes) (hl8 : lanes ≤ 8) :
    execLinkTrainingDone p lanes peer s = .next (s.trained p lanes peer).rebucket := by
  refine if_neg ?_
  rw [hst, hdown, hisl]
  simp [Nat.not_le.2 hp, Nat.pos_iff_ne_zero.1 hl, Nat.not_lt.2 hl8]

/-- What a port that has trained is, once buckets have moved. -/
theorem State.rebucket_trained {s : State} {p : Nat} (hlen : p < s.hub.links.length) (lanes peer : Nat) :
    ((s.trained p lanes peer).rebucket.hub.links.getD p {}).st = (if lanes = 8 then 2 else 3) ∧
      ((s.trained p lanes peer).rebucket.hub.links.getD p {}).lanes = (if lanes = 8 then 8 else 4) ∧
      ((s.trained p lanes peer).rebucket.hub.links.getD p {}).peer = peer % 8192 := by
  have hport := State.port_of_portTable (s.trained p lanes peer).rebucket_keeps.1 p
  have hlink : (s.trained p lanes peer).hub.links.getD p {} = _ := State.modLink_link hlen _
  rw [hlink] at hport
  generalize (s.trained p lanes peer).rebucket.hub.links.getD p {} = l at hport ⊢
  exact ⟨congrArg (·.1) hport, congrArg (·.2.1) hport, congrArg (·.2.2.1) hport⟩

/-- The routes with one written, before buckets move. -/
def State.routed (s : State) (m n : Nat) : State := s.modHub fun h => { h with route := AMap.set h.route m n }

theorem execRouteWrite_taken {s : State} {m : Nat} {v : Word} (ht : s.hostTakes = true) (hm : m < 8192) (hv : bits v.toNat 31 18 = 0) :
    execRouteWrite m v s = .next (s.routed m (bits v.toNat 17 0)).rebucket :=
  if_neg (by simp [ht, hv, Nat.not_le.2 hm])

/-! ## The island's reset (R357, R365) -/

/-- The island while it is reset: every port is down. -/
def State.islandDown (s : State) : State := s.modHub fun h =>
  { h with islUp := false, links := h.links.map fun l => { l with st := 0, lanes := 0, queue := [], unacked := [], sent := 0, cont := none, fails := 0 } }

theorem execIslandReset_down {s : State} {v : Word} (ht : s.hostTakes = true) (hv : v = 0x5EED0001) :
    execIslandReset v s = .next (s.islandDown.failWrites fun _ => true) := if_neg (by simp [ht, hv])

theorem State.islandDown_links {s : State} {l : Link} (h : l ∈ s.islandDown.hub.links) : l.st = 0 ∧ l.lanes = 0 := by
  obtain ⟨l', -, rfl⟩ := List.mem_map.1 h
  exact ⟨rfl, rfl⟩

theorem State.islandUp_links {s : State} {l : Link} (h : l ∈ s.islandUp.hub.links) : l.st = if l.down then 0 else 1 := by
  obtain ⟨l', -, rfl⟩ := List.mem_map.1 h
  rfl

/-- The bits of a list of bits by number. -/
theorem getD_map_upFrom {α : Type} (f : Nat → α) (d : α) {n k : Nat} (h : k < n) : ((upFrom 0 n).map f).getD k d = f k := by
  rw [upFrom_eq, List.getD_eq_getElem?_getD, List.getElem?_map, List.getElem?_range' h]
  simp

end Sys2Proof.Machine

open Sys2Proof Sys2Proof.Machine

/-- Settles O57: each access, flit and register by the outcome that its condition selects. -/
theorem islandEvents : Obligations.IslandEvents := by
  unfold Obligations.IslandEvents
  refine ⟨fun s off bs ht hbs hoff => ?_, fun s off n ht hn hoff => ?_, fun s p fl hp hfl hisl hup => ?_, fun s p hp hlen => ?_,
    fun s m v ht hm => ⟨fun hv => ?_, fun hv => ?_⟩, fun s v ht => ?_, fun s v => ⟨fun ht hv => ?_, fun h => ?_⟩, fun s h => ?_⟩
  · intro d err
    have hexec := execHostApertureWrite_within ht hbs hoff
    refine ⟨fun c hc => ?_, fun he => ⟨s.outsideWrite d bs 6 0, ?_, fun hwf hidle => ?_⟩⟩
    · show execHostApertureWrite off bs s = _
      rw [hexec, show (if s.hub.islUp then _ else _) = some c from hc]
    · show execHostApertureWrite off bs s = _
      rw [hexec, show (if s.hub.islUp then _ else _) = none from he]
    · rw [State.outsideWrite_mem s d bs 6 0 (State.targetErr_of_dpaErr he) hidle]
      refine ⟨Store.bytes_setBytes bs hwf d, fun a ha => ?_⟩
      rw [Store.byte_setBytes hwf, if_neg (by omega)]
  · intro d err
    have hexec := execHostApertureRead_within ht hn hoff
    refine ⟨fun c hc => ?_, fun he => ⟨s.modHub fun h => { h with hostReads := h.hostReads ++ [s.bytesAt 0 (.home d) n] }, ?_, rfl, rfl⟩⟩
    · show execHostApertureRead off n s = _
      rw [hexec, show (if s.hub.islUp then _ else _) = some c from hc]
    · show execHostApertureRead off n s = _
      rw [hexec, show (if s.hub.islUp then _ else _) = none from he]
  · intro l takes
    refine ⟨execFlitReceive_replayed hp hfl hisl hup, fun hcrc c hc => ?_, fun hcrc hc => execFlitReceive_unknown hp hfl hisl hup hcrc hc,
      fun hcrc hc => execFlitReceive_ack hp hfl hisl hup hcrc hc,
      fun hcrc hc hty => ⟨execFlitReceive_outOfSequence hp hfl hisl hup hcrc hc hty, execFlitReceive_taken hp hfl hisl hup hcrc hc hty⟩⟩
    intro bad goes ends
    have hdata : exec (.flitReceive p fl) s = .next (s.dataFlit p c fl) := execFlitReceive_data hp hfl hisl hup hcrc hc
    rw [hdata]
    refine ⟨fun hfwd hw hl hb => ?_, fun hfwd hw hl hb => ?_, fun hfwd hw hl hb he => ?_, fun hfwd hw => ?_, fun hfwd =>
      congrArg Host.Outcome.next (State.dataFlit_forward hfwd)⟩ <;> refine congrArg Host.Outcome.next ((State.dataFlit_mine hfwd).trans ?_)
    · have hmin : Nat.min c.left 120 = 120 := Nat.min_eq_right (by omega)
      rw [hw, if_neg (by simp), if_pos hl, hmin, hb]
      rfl
    · have hmin : Nat.min c.left 120 = c.left := Nat.min_eq_left hl
      rw [hw, if_neg (by simp), if_neg (Nat.not_lt.2 hl), hmin, hb]
      rfl
    · have hmin : Nat.min c.left 120 = c.left := Nat.min_eq_left hl
      have hbad : s.flitBad c = true := by simp [State.flitBad, hb]
      rw [hw, if_neg (by simp), if_neg (Nat.not_lt.2 hl), hmin, hb, State.peerPart_dataEnds hfl hl he, hbad]
      rfl
    · rw [hw]
      rfl
  · intro l at_
    refine ⟨execLinkAckTimeout_retrains hp, execLinkAckTimeout_waits, fun lanes peer hisl hst hdown hl hl8 => ?_,
      fun ht => if_neg (by simp [ht, Nat.not_le.2 hp]),
      fun ht => ?_⟩
    · obtain ⟨hst', hlanes, hpeer⟩ := State.rebucket_trained hlen lanes peer
      exact ⟨_, execLinkTrainingDone_trains hp hisl hst hdown hl hl8, hst', hlanes, hpeer, fun ho => State.rebucket_mem (s := s.trained p lanes peer) ho⟩
    · refine ⟨_, if_neg (by simp [ht, Nat.not_le.2 hp]), ?_, ?_, rfl⟩
      · exact congrArg Link.down (State.modLink_link hlen _)
      · refine (congrArg Link.st (State.modLink_link hlen _)).trans ?_
        simp [l]
  · refine ⟨_, execRouteWrite_taken ht hm hv, ?_, fun ho => State.rebucket_mem (s := s.routed m _) ho⟩
    rw [State.rebucket_route]
    exact AMap.get?_set_same _ _ _
  · exact if_pos (by simp [hv])
  · exact ⟨_, if_neg (by simp [ht]), rfl, fun n hn => getD_map_upFrom _ _ hn⟩
  · exact ⟨s.islandDown, execIslandReset_down ht hv, rfl, List.length_map _, fun l hl => State.islandDown_links hl, rfl, rfl, rfl, rfl⟩
  · exact if_pos (by simpa [or_comm] using h)
  · exact ⟨if_pos (by simp [h]), rfl, fun l hl => State.islandUp_links hl⟩

end

section
/-! Resets, the die map, sparing and power-on (R361 to R363, R367, R368, R379, R382). -/

namespace Sys2Proof.Machine

/-! ## Endpoints -/

theorem State.setEp_work (s : State) (n st : Nat) : (s.setEp n st).units = s.units ∧ (s.setEp n st).threads = s.threads := by
  unfold State.setEp
  split <;> exact ⟨rfl, rfl⟩

/-- Endpoints that leave or enter service change neither memory, nor the die map, nor the reset sequence. -/
theorem State.setEps_keeps (s : State) (ns : List Nat) (st : Nat) :
    (s.setEps ns st).mem = s.mem ∧ (s.setEps ns st).hub.dmap = s.hub.dmap ∧ (s.setEps ns st).hub.rst = s.hub.rst :=
  foldl_keep (fun t => t.mem = s.mem ∧ t.hub.dmap = s.hub.dmap ∧ t.hub.rst = s.hub.rst) _ ns s ⟨rfl, rfl, rfl⟩ fun a ⟨hm, hd, hr⟩ n _ => by
    obtain ⟨hmem, hrst, hdmap, -⟩ := a.setEp_facts n st
    exact ⟨hmem.trans hm, hdmap.trans hd, hrst.trans hr⟩

/-! ## Reset commands (R361, R362) -/

section
variable {s : State} {dom : Nat} {v : Word}

theorem State.mgmtReset_ignored (h : s.hostTakes = false ∨ bits v.toNat 63 32 ≠ 0x5EED0002) : s.mgmtReset dom v = s := by
  refine if_pos ?_
  rcases h with h | h <;> simp [h]

variable (ht : s.hostTakes = true) (hkey : bits v.toNat 63 32 = 0x5EED0002) (hz : bits v.toNat 31 10 = 0) (hdom : bits v.toNat 7 0 = dom)
include ht hkey hz hdom

/-- A command that is one: it starts, waits, or is ignored. -/
theorem State.mgmtReset_command : s.mgmtReset dom v =
    if !s.hub.rst.busy then s.startReset dom (bits v.toNat 9 8) false
    else if s.hub.rst.queued.isSome then s
    else s.modHub fun h => { h with rst := { h.rst with queued := some (dom, bits v.toNat 9 8) } } :=
  if_neg (by simp [ht, hkey, hz, hdom])

/-- The three outcomes of a command, each with its condition. -/
theorem State.mgmtReset_cases :
    (s.hub.rst.busy = false → s.mgmtReset dom v = s.startReset dom (bits v.toNat 9 8) false) ∧
    (s.hub.rst.busy = true → s.hub.rst.queued = none → s.mgmtReset dom v = s.modHub fun h =>
      { h with rst := { h.rst with queued := some (dom, bits v.toNat 9 8) } }) ∧
    (s.hub.rst.busy = true → s.hub.rst.queued.isSome = true → s.mgmtReset dom v = s) := by
  rw [State.mgmtReset_command ht hkey hz hdom]
  refine ⟨fun hb => if_pos (by simp [hb]), fun hb hq => ?_, fun hb hq => ?_⟩
  · exact (if_neg (by simp [hb])).trans (if_neg (by simp [hq]))
  · exact (if_neg (by simp [hb])).trans (if_pos hq)

end

/-- The state in which the sequence of a compute die runs. -/
def State.drains (s : State) (die : Nat) : State :=
  s.modHub fun h => { h with rst := { h.rst with busy := true, dom := 0, die := die, spare := false, drain := true, mark := s.seq } }

theorem State.startReset_compute (s : State) (die : Nat) : s.startReset 0 die false = (s.drains die).setEp die 3 := rfl

/-! ## What a die loses, and step 3 of a reset (R363) -/

theorem State.island_loseUnit (s : State) (uid : Nat) : (s.loseUnit uid).island = s.island :=
  (State.island_throttle _ _).trans ((State.island_modUnit _ _ _).trans ((State.island_unseatUnit _ _).trans (s.island_dropOps uid false)))

theorem State.island_loseDie (s : State) (p : Nat) : (s.loseDie p).island = s.island :=
  (State.island_foldl (fun a (f : FaultEnt) => a.island_endFault f.token false) _ _).trans (State.island_foldl (fun a u => a.island_loseUnit u) _ s)

theorem State.island_failVaultWrites (s : State) (d : Nat) : (s.failVaultWrites d).island = s.island :=
  State.island_foldl (fun a (x : Nat × Pend) => a.island_storeError x.2.tk x.1 x.2.va x.2.tloc cMEMERR) _ _

theorem State.island_loseFar (s : State) (d : Nat) : (s.loseFar d).island = s.island :=
  State.island_foldl (fun a (e : Nat × List Byte) => a.island_loseKept (.home (128 * e.1)) 128) _ s.takeFresh.2

theorem State.island_clearVaults (s : State) (d : Nat) : (s.clearVaults d).island = s.island := s.island_loseKept _ _

/-- The state at step 3, before what the dies hold is lost. -/
def State.resetting (s : State) : State :=
  (s.modHub fun h => { h with rst := { h.rst with drain := false } }).setEps (s.resetEps s.hub.rst.dom s.hub.rst.die) 1

theorem State.resetProper_eq (s : State) : s.resetProper = match s.hub.rst.dom with
    | 0 => s.resetting.loseDie s.hub.rst.die
    | 1 => (((s.resetting.loseDie s.hub.rst.die).failVaultWrites s.hub.rst.die).loseFar s.hub.rst.die).clearVaults s.hub.rst.die
    | _ => (upFrom 0 4).foldl (fun s p => s.loseDie p) s.resetting := rfl

/-- What the dies lose is none of the island's. -/
theorem State.island_resetProper (s : State) : s.resetProper.island = s.resetting.island := by
  rw [State.resetProper_eq]
  split
  · exact State.island_loseDie _ _
  · exact (State.island_clearVaults _ _).trans ((State.island_loseFar _ _).trans ((State.island_failVaultWrites _ _).trans (State.island_loseDie _ _)))
  · exact State.island_foldl (fun a p => a.island_loseDie p) _ _

theorem State.rst_of_island {s t : State} (h : t.island = s.island) : t.hub.rst = s.hub.rst := congrArg IslandRegs.rst h

theorem State.ep_of_island {s t : State} (h : t.island = s.island) : t.hub.ep = s.hub.ep := congrArg IslandRegs.ep h

theorem State.resetProper_drain (s : State) : s.resetProper.hub.rst.drain = false := by
  obtain ⟨-, -, hrst⟩ := (s.modHub fun h => { h with rst := { h.rst with drain := false } }).setEps_keeps (s.resetEps s.hub.rst.dom s.hub.rst.die) 1
  rw [State.rst_of_island s.island_resetProper, State.resetting, hrst]
  rfl

/-- The endpoint of a compute die is RESETTING at step 3. -/
theorem State.resetProper_ep {s : State} (hdom : s.hub.rst.dom = 0) (hlen : s.hub.rst.die < s.hub.ep.length) :
    s.resetProper.hub.ep.getD s.hub.rst.die 0 = 1 := by
  obtain ⟨-, -, -, -, -, hep, -⟩ := (s.modHub fun h => { h with rst := { h.rst with drain := false } }).setEp_facts s.hub.rst.die 1
  rw [State.ep_of_island s.island_resetProper, State.resetting, hdom]
  exact hep hlen

theorem State.loseDie_tags {s : State} {p : Nat} : ∀ x ∈ (s.loseDie p).tags, x.2.1 / 64 ≠ p := fun x hx => by
  simpa using (List.mem_filter.1 hx).2

theorem State.loseDie_cores {s : State} {p : Nat} {c : Nat × Core} (hc : c ∈ (s.loseDie p).cores) (hp : c.1 / 64 = p) :
    c.2.pend = [] ∧ c.2.chans.flatten = [] ∧ c.2.jobs = [] := by
  obtain ⟨c', -, rfl⟩ := List.mem_map.1 hc
  by_cases h : c'.1 / 64 = p
  · simp [h]
  · rw [if_neg h] at hp
    exact absurd hp h

/-! ## The end of a sequence (R362, R363, R365) -/

theorem State.nextReset_idle {s : State} (hq : s.hub.rst.spareQ = []) (hc : s.hub.rst.queued = none) : s.nextReset = s := by
  unfold State.nextReset
  rw [hq, hc]

section
variable {s : State} (hisl : s.hub.islUp = true) (hbusy : s.hub.rst.busy = true)
include hisl hbusy

theorem execResetSequenceComplete_drained (hdrain : s.hub.rst.drain = true) : execResetSequenceComplete s = .next s.resetProper :=
  (if_neg (by simp [hisl])).trans ((if_neg (by simp [hbusy])).trans (if_pos hdrain))

variable (hdrain : s.hub.rst.drain = false)
include hdrain

/-- The sequence of a compute die is over. -/
def State.computeOver (s : State) : State :=
  s.modHub fun h => { h with rst := { h.rst with busy := false, ldie := s.hub.rst.die, ldom := 0 } }

theorem execResetSequenceComplete_compute (hdom : s.hub.rst.dom = 0) : execResetSequenceComplete s =
    .next (if (if s.hub.rst.spare then s.computeOver.sparingStep6 s.hub.rst.die else s.computeOver.dieUp s.hub.rst.die).hub.rst.busy then
        (if s.hub.rst.spare then s.computeOver.sparingStep6 s.hub.rst.die else s.computeOver.dieUp s.hub.rst.die)
      else (if s.hub.rst.spare then s.computeOver.sparingStep6 s.hub.rst.die else s.computeOver.dieUp s.hub.rst.die).nextReset) := by
  refine (if_neg (by simp [hisl])).trans ((if_neg (by simp [hbusy])).trans ((if_neg (by simp [hdrain])).trans ?_))
  dsimp only
  rw [hdom]
  rfl

theorem execResetSequenceComplete_hub (hdom : s.hub.rst.dom = 2) (hidle : s.hubReset.hub.rst.busy = false) :
    execResetSequenceComplete s = .next s.hubReset.nextReset := by
  refine (if_neg (by simp [hisl])).trans ((if_neg (by simp [hbusy])).trans ((if_neg (by simp [hdrain])).trans ?_))
  dsimp only
  rw [hdom]
  exact congrArg Host.Outcome.next (if_neg (by simp [hidle]))

/-- A sequence of a compute die that leaves nothing to start. -/
theorem execResetSequenceComplete_last {t : State} (hdom : s.hub.rst.dom = 0)
    (ht : (if s.hub.rst.spare then s.computeOver.sparingStep6 s.hub.rst.die else s.computeOver.dieUp s.hub.rst.die) = t)
    (hrst : t.hub.rst = s.computeOver.hub.rst) (hq : s.hub.rst.spareQ = []) (hc : s.hub.rst.queued = none) : execResetSequenceComplete s = .next t := by
  have hbusy' : t.hub.rst.busy = false := by rw [hrst]; rfl
  have hnext : t.nextReset = t := State.nextReset_idle (by rw [hrst]; exact hq) (by rw [hrst]; exact hc)
  rw [execResetSequenceComplete_compute hisl hbusy hdrain hdom, ht, hnext, ite_self]

end

/-- A die that is no spare is UP after its reset. -/
theorem State.dieUp_keeps {s : State} {p : Nat} (hsp : s.isSpare p = false) (hlen : p < s.hub.ep.length) :
    (s.dieUp p).hub.ep.getD p 0 = 2 ∧ (s.dieUp p).hub.rst = s.hub.rst ∧ (s.dieUp p).mem = s.mem := by
  obtain ⟨hmem, hrst, -, -, -, hep, -⟩ := s.setEp_facts p 2
  unfold State.dieUp
  rw [if_neg (by simp [hsp])]
  exact ⟨hep hlen, hrst, hmem⟩

/-- A die that is still mapped after step 6 is DOWN. -/
theorem State.sparingStep6_keeps {s : State} {p : Nat} (hlog : (s.logOf p).isSome = true) (hlen : p < s.hub.ep.length) :
    (s.sparingStep6 p).hub.ep.getD p 0 = 0 ∧ (s.sparingStep6 p).hub.dmap = s.hub.dmap ∧ (s.sparingStep6 p).hub.rst = s.hub.rst ∧
      (s.sparingStep6 p).mem = s.mem := by
  obtain ⟨hmem, hrst, hdmap, -, -, hep, -⟩ := s.takeFresh.2.setEp_facts p 0
  have hstep : s.sparingStep6 p = s.takeFresh.2.setEp p 0 := by
    have hlog' : s.takeFresh.2.logOf p = s.logOf p := rfl
    refine if_pos ?_
    show ((s.takeFresh.2.logOf p).isSome || _) = true
    rw [hlog', hlog]
    rfl
  rw [hstep]
  exact ⟨hep hlen, hdmap, hrst, hmem⟩

/-! ## Boot, the hub's reset and power-on (R363, R379, R382) -/

/-- Booting leaves the work, the clock, the stored images and the reset sequence. -/
theorem State.bootFrom_leaves (s : State) (ks : List Nat) : (s.bootFrom ks).threads = s.threads ∧ (s.bootFrom ks).units = s.units ∧
    (s.bootFrom ks).cores = s.cores ∧ (s.bootFrom ks).hub.tmr = s.hub.tmr ∧ (s.bootFrom ks).hub.jobs = s.hub.jobs ∧
    (s.bootFrom ks).hub.images = s.hub.images ∧ (s.bootFrom ks).hub.rst = s.hub.rst := by
  induction ks generalizing s with
  | nil => exact ⟨rfl, rfl, rfl, rfl, rfl, rfl, rfl⟩
  | cons k ks ih =>
    unfold State.bootFrom
    dsimp only
    split
    · exact ih _
    · exact ⟨rfl, rfl, rfl, rfl, rfl, rfl, rfl⟩

theorem State.boot_rst (s : State) : s.boot.hub.rst = s.hub.rst := by
  obtain ⟨-, -, -, -, -, -, hrst⟩ := State.bootFrom_leaves (s.modHub fun h => { h with meas := [0, 0, 0, 0] }) [1, 2, 3]
  exact hrst

/-- The hub's reset leaves no sequence running. -/
theorem State.hubReset_rst (s : State) : s.hubReset.hub.rst = {} := by
  unfold State.hubReset
  extract_lets s1 s2 s3
  rw [(State.setEps_keeps _ _ _).2.2, (State.setEps_keeps _ _ _).2.2, State.boot_rst]
  rfl

/-- The state that power-on boots: that of reset, with the stored images. -/
def State.poweredOn (s : State) : State :=
  { State.reset with sched := s.sched, turn := s.turn, fresh := s.fresh }.modHub fun h => { h with images := s.hub.images }

theorem execPowerOnReset_eq (s : State) : execPowerOnReset s = .next s.poweredOn.boot := rfl

/-! ## The die map (R367) -/

theorem execDmapWrite_taken {s : State} {v : Word} (ht : s.hostTakes = true) (hj : s.hub.jobs = []) (hok : dmapOk (v.toNat % 2 ^ 20) = true) :
    ∃ t, execDmapWrite v s = .next t ∧ t.hub.dmap = Word.ofN (v.toNat % 2 ^ 20) ∧ t.mem = s.mem := by
  refine ⟨_, if_neg (by rw [hok]; simp [ht, hj]), ?_⟩
  refine foldl_keep (fun t : State => t.hub.dmap = Word.ofN (v.toNat % 2 ^ 20) ∧ t.mem = s.mem) _ _ _ ⟨rfl, rfl⟩ fun a ha p _ => ?_
  have heps (st : Nat) : (a.setEps [p] st).hub.dmap = Word.ofN (v.toNat % 2 ^ 20) ∧ (a.setEps [p] st).mem = s.mem := by
    obtain ⟨hmem, hdmap, -⟩ := a.setEps_keeps [p] st
    exact ⟨hdmap.trans ha.1, hmem.trans ha.2⟩
  split
  · exact heps 1
  · split
    · exact heps 2
    · exact ha

theorem execDmapWrite_ignored {s : State} {v : Word} (h : s.hostTakes = false ∨ s.hub.jobs ≠ [] ∨ dmapOk (v.toNat % 2 ^ 20) = false) :
    execDmapWrite v s = .next s := by
  refine if_pos ?_
  rcases h with h | h | h
  · simp [h]
  · simp [h]
  · rw [h]
    simp

/-! ## Sparing (R368) -/

section
variable {s : State} {p : Nat} (hp : p ≤ 3) (hlog : (s.logOf p).isSome = true)
include hp hlog

theorem State.dieFails_starts (cause : Nat) (h : s.hub.spar.testing = none) : s.dieFails p cause = s.startSparing p cause := by
  obtain ⟨d, hd⟩ := Option.isSome_iff_exists.1 hlog
  exact (if_neg (by simp [hd, Nat.not_lt.2 hp])).trans (if_pos (by rw [h]; rfl))

theorem State.dieFails_waits (cause : Nat) (h : s.hub.spar.testing.isSome = true) (hw : ∀ w ∈ s.hub.spar.waiting, w.1 ≠ p) :
    s.dieFails p cause = s.modHub fun h => { h with spar := { h.spar with waiting := h.spar.waiting ++ [(p, cause)] } } := by
  obtain ⟨d, hd⟩ := Option.isSome_iff_exists.1 hlog
  obtain ⟨k, hk⟩ := Option.isSome_iff_exists.1 h
  have hnone : ¬(s.hub.spar.waiting.any fun w => w.1 == p) = true := by
    rw [List.any_eq_true]
    rintro ⟨w, hmem, he⟩
    exact hw w hmem (beq_iff_eq.1 he)
  exact (if_neg (by simp [hd, Nat.not_lt.2 hp])).trans ((if_neg (by simp [hk])).trans (if_neg hnone))

end

/-- Step 6 waits behind the sequence that runs. -/
theorem State.sparingStep5_busy {s : State} (hb : s.hub.rst.busy = true) (p : Nat) (k : Option Nat) :
    (s.sparingStep5 p k).hub.rst.spareQ = s.hub.rst.spareQ ++ [p] := by
  refine (congrArg (fun t : State => t.hub.rst.spareQ) (if_pos hb)).trans ?_
  rfl

/-- The state once a spare has passed its test, at step 4. -/
def State.spareTaken (s : State) (k : Nat) : State :=
  State.setEps { s.modHub fun h => { h with
    dmap := dmapField (dmapUnspare s.hub.dmap k) s.hub.spar.ldie k, spar := { h.spar with step := 4 } } with tlb := [] } [k] 2

/-- The state once a spare has not passed its test. -/
def State.spareLeft (s : State) (k : Nat) : State := (s.modHub fun h => { h with dmap := dmapUnspare h.dmap k }).setEps [k] 0

theorem execSpareSelfTestDone_passed {s : State} {k : Nat} (h : s.hub.spar.testing = some k) :
    execSpareSelfTestDone true s = .next (((s.spareTaken k).sparingStep5 s.hub.spar.failed (some k)).nextSparing) := by
  unfold execSpareSelfTestDone
  rw [h]
  rfl

theorem execSpareSelfTestDone_failed {s : State} {k : Nat} (h : s.hub.spar.testing = some k) :
    execSpareSelfTestDone false s = .next (((s.spareLeft k).sparingStep3 s.hub.spar.failed).nextSparing) := by
  unfold execSpareSelfTestDone
  rw [h]
  rfl

end Sys2Proof.Machine

open Sys2Proof Sys2Proof.Machine

/-- Settles O58: each command and event by the outcome that its condition selects. -/
theorem resetAndSparingEvents : Obligations.ResetAndSparingEvents := by
  unfold Obligations.ResetAndSparingEvents
  intro command
  have hcommand (i : Word → Instr) (dom : Nat) (hi : ∀ v s, exec (i v) s = .next (s.mgmtReset dom v)) : command i dom := by
    intro s v ht hkey hz hdom
    rw [hi]
    obtain ⟨hstart, hwait, hignore⟩ := State.mgmtReset_cases ht hkey hz hdom
    exact ⟨fun hb => congrArg _ (hstart hb), fun hb hq => congrArg _ (hwait hb hq), fun hb hq => congrArg _ (hignore hb hq)⟩
  refine ⟨hcommand _ 0 fun _ _ => rfl, hcommand _ 1 fun _ _ => rfl, hcommand _ 2 fun _ _ => rfl,
    fun s v h => ⟨congrArg _ (State.mgmtReset_ignored h), congrArg _ (State.mgmtReset_ignored h), congrArg _ (State.mgmtReset_ignored h)⟩,
    fun s die _ hdie hlen _ => ?_,
    fun s hisl hbusy hdrain => ⟨execResetSequenceComplete_drained hisl hbusy hdrain, s.resetProper_drain, fun hdom hlen =>
      ⟨State.resetProper_ep hdom hlen, ?_⟩⟩,
    fun s hisl hbusy hdrain hdom hspare hsp hlen hq hc => ?_,
    fun s hisl hbusy hdrain hdom => execResetSequenceComplete_hub hisl hbusy hdrain hdom (by rw [State.hubReset_rst]),
    fun s v => ⟨execDmapWrite_taken, execDmapWrite_ignored⟩,
    fun s p hp hup hlog => ⟨fun h => ⟨?_, ?_⟩, fun h hw =>
      ⟨_, congrArg Host.Outcome.next ((if_pos hup).trans (State.dieFails_waits hp hlog 1 h hw)), rfl, rfl⟩⟩,
    fun s k h hlen => ⟨⟨s.spareTaken k, execSpareSelfTestDone_passed h, ?_⟩, ⟨s.spareLeft k, execSpareSelfTestDone_failed h, ?_⟩⟩,
    fun s p k hb => State.sparingStep5_busy hb p k,
    fun s hisl hbusy hdrain hdom hspare hlog hlen hq hc => ?_,
    fun s => ⟨_, execPowerOnReset_eq s, ?_⟩⟩
  · obtain ⟨hmem, hrst, -, -, -, hep, -⟩ := (s.drains die).setEp_facts die 3
    obtain ⟨hunits, hthreads⟩ := (s.drains die).setEp_work die 3
    rw [State.startReset_compute]
    dsimp only
    rw [hrst]
    exact ⟨rfl, rfl, rfl, hep (by show die < s.hub.ep.length; omega), hunits, hthreads, hmem⟩
  · rw [State.resetProper_eq, hdom]
    exact ⟨State.loseDie_tags, fun c hc hp => State.loseDie_cores hc hp⟩
  · obtain ⟨hep, hrst, hmem⟩ := State.dieUp_keeps (s := s.computeOver) hsp hlen
    refine ⟨_, execResetSequenceComplete_last hisl hbusy hdrain hdom (if_neg (by simp [hspare])) hrst hq hc, hep, ?_⟩
    rw [hrst]
    exact ⟨rfl, rfl, rfl, hmem⟩
  · exact congrArg _ ((if_pos hup).trans (State.dieFails_starts hp hlog 1 h))
  · exact congrArg _ ((if_pos hup).trans (State.dieFails_starts hp hlog 2 h))
  · obtain ⟨hmem, hrst, hdmap, hspar, htlb, hep, -⟩ := State.setEp_facts { s.modHub fun h => { h with
      dmap := dmapField (dmapUnspare s.hub.dmap k) s.hub.spar.ldie k, spar := { h.spar with step := 4 } } with tlb := [] } k 2
    exact ⟨htlb, hdmap, hep hlen, congrArg Sparing.step hspar, hmem⟩
  · obtain ⟨hmem, -, hdmap, -, -, hep, -⟩ := (s.modHub fun h => { h with dmap := dmapUnspare h.dmap k }).setEp_facts k 0
    exact ⟨hdmap, hep hlen, hmem⟩
  · obtain ⟨hep, hdmap, hrst, hmem⟩ := State.sparingStep6_keeps (s := s.computeOver) hlog hlen
    refine ⟨_, execResetSequenceComplete_last hisl hbusy hdrain hdom (if_pos hspare) hrst hq hc, hep, hdmap, ?_, hmem⟩
    rw [hrst]
    rfl
  · obtain ⟨hmem, -⟩ := State.bootFrom_keeps (s.poweredOn.modHub fun h => { h with meas := [0, 0, 0, 0] }) [1, 2, 3]
    obtain ⟨hthreads, hunits, hcores, htmr, hjobs, himages, -⟩ :=
      State.bootFrom_leaves (s.poweredOn.modHub fun h => { h with meas := [0, 0, 0, 0] }) [1, 2, 3]
    exact ⟨hmem, hthreads, hunits, hcores, htmr, hjobs, himages⟩

end

section
/-! Launches, units and the levels of work (R313 to R315, R318, R322 to R326, R328, R330, R344, R346). -/

namespace Sys2Proof.Machine

/-! ## LAUNCH (R322, R323) -/

/-- A descriptor that breaks R323 itself is refused for that, whatever else is wrong. -/
theorem State.refusal_descBad {s : State} {bs : List Byte} {spec : Option (List Byte)} (h : descBad bs spec = true) (jid : Nat) (args : Bool) :
    s.refusal jid bs args spec = 0x20 := by
  have hlow : ∀ a b c, lowest [(0x20, true), (0x21, a), (0x22, b), (0x23, c)] = 0x20 := by decide
  unfold State.refusal
  rw [h, hlow]

/-- A descriptor that is right in itself, with an argument block that cannot be read. -/
theorem State.refusal_args {s : State} {jid : Nat} {bs : List Byte} {spec : Option (List Byte)} (hd : descBad bs spec = false)
    (hr : rolesBad bs = false) (hf : s.neverFits jid (descOf bs) = false) : s.refusal jid bs false spec = 0x23 := by
  unfold State.refusal
  rw [hd, hr, hf]
  decide

/-- What the sequencer does with a launch that it has read: a reason stops the chain, and a launch without one is accepted. -/
def State.takeLaunch (s : State) (n jid gkey : Nat) (j : HJob) (bs desc : List Byte) (why : Nat) (r : LaunchReads) : State :=
  match why, r with
  | 0, .ok args spec =>
    let x := (s.seqDone n).joinGraph jid gkey desc args spec (Word.ofN (field bs 32 8)) (Word.ofN (field bs 40 8))
    (x.2.modChain n fun c => { c with lid := x.1 }).writeLidp n j bs x.1
  | _, _ => s.stopChain n 5 why

theorem State.takeLaunch_refused {s : State} {why : Nat} (h : why ≠ 0) (n jid gkey : Nat) (j : HJob) (bs desc : List Byte) (r : LaunchReads) :
    s.takeLaunch n jid gkey j bs desc why r = s.stopChain n 5 why := by
  unfold State.takeLaunch
  split
  · exact absurd rfl h
  · rfl

/-- A block that cannot be read stops the chain, whatever the reason. -/
theorem State.takeLaunch_bad (s : State) (n jid gkey : Nat) (j : HJob) (bs desc : List Byte) (why : Nat) (hdr : Option (List Byte)) :
    s.takeLaunch n jid gkey j bs desc why (.bad hdr) = s.stopChain n 5 why := by
  unfold State.takeLaunch
  split
  · contradiction
  · rfl

section
variable {s s' s1 s2 : State} {n jid gkey : Nat} {bs desc : List Byte} {j : HJob} (h : Takes s n eLAUNCH bs s') (hjob : (s'.chain n).job = some jid)
  (hj : s'.job? jid = some j) (hlid : (s'.chain n).lid = 0) (hgraph : j.curGraph = some gkey) (hva : field bs 16 8 % 8 = 0)
  (hread : s'.seqRead n j 3 (Word.ofN (field bs 16 8)) 128 = (.ok desc, s1))
include h hjob hj hlid hgraph hva hread

/-- A LAUNCH entry whose descriptor, argument block and buffer header have been read. -/
theorem execLaunchEntry_read {r : LaunchReads} (hr : s1.launchReads n j desc = (r, s2)) (hw : r ≠ .wait) : execLaunchEntry n s =
    .next (s2.takeLaunch n jid gkey j bs desc (if (descOf desc).dbgp && !j.dbg then 0x20 else s2.refusalOf jid desc r) r) := by
  have hva' : ¬(Word.ofN (field bs 16 8)).toNat % 8 ≠ 0 := by
    rw [Word.ofN, BitVec.toNat_ofNat]
    omega
  unfold execLaunchEntry
  rw [h.take]
  dsimp only
  rw [hjob]
  dsimp only [Option.bind_some]
  rw [hj]
  dsimp only [Option.map_some]
  rw [if_neg (not_not.2 hlid), hgraph]
  dsimp only
  rw [if_neg hva', hread]
  dsimp only
  rw [hr]
  cases r with
  | wait => exact absurd rfl hw
  | ok args spec => rfl
  | bad hdr => rfl

end

/-! ## Admission (R326, R328) -/

/-- A group whose turn it is takes the place found for it. -/
theorem State.takeIn_place {s t : State} {lid idx : Nat} {l : Launch} {g : List Nat} (hl : s.launch? lid = some l)
    (hg : (s.nextGroups lid l).find? (fun g => g.contains idx) = some g) (hp : s.place lid l g = some t)
    (hserved : ∀ p ∈ s.hub.launches, servedBefore p.1 p.2 lid l = true → s.canAdmit p.1 p.2 = false)
    (hclaims : ∀ p ∈ s.hub.launches, l.desc.prio < p.2.desc.prio → s.claims p.1 p.2 = false) :
    s.takeIn lid idx (s.startedBefore lid idx) = some t := by
  have hserved' : ¬(s.hub.launches.any fun p => servedBefore p.1 p.2 lid l && s.canAdmit p.1 p.2) = true := by
    rw [List.any_eq_true]
    rintro ⟨p, hmem, hp'⟩
    obtain ⟨hbefore, hadmit⟩ := Bool.and_eq_true_iff.1 hp'
    exact Bool.eq_false_iff.1 (hserved p hmem hbefore) hadmit
  have hclaims' : ¬(s.hub.launches.any fun p => p.2.desc.prio > l.desc.prio && s.claims p.1 p.2) = true := by
    rw [List.any_eq_true]
    rintro ⟨p, hmem, hp'⟩
    obtain ⟨hprio, hclaim⟩ := Bool.and_eq_true_iff.1 hp'
    exact Bool.eq_false_iff.1 (hclaims p hmem (of_decide_eq_true hprio)) hclaim
  unfold State.takeIn
  rw [hl]
  dsimp only
  rw [hg]
  exact (if_neg (by simp)).trans ((if_neg hserved').trans ((if_neg hclaims').trans hp))

theorem execUnitStart_takes {s t : State} {lid idx : Nat} (h : s.takeIn lid idx false = some t) : execUnitStart lid idx s = .next t := by
  unfold execUnitStart
  rw [h]

/-! ## The start of a unit (R324) -/

theorem State.modLaunch_work (s : State) (lid : Nat) (f : Launch → Launch) :
    (s.modLaunch lid f).units = s.units ∧ (s.modLaunch lid f).threads = s.threads ∧ (s.modLaunch lid f).mem = s.mem := by
  unfold State.modLaunch
  split <;> exact ⟨rfl, rfl, rfl⟩

/-- A thread at unit start. -/
theorem newThread_start (uid tg : Nat) (r : Role) (pvb : Nat) : (newThread uid tg r pvb).pc = r.entry ∧ (newThread uid tg r pvb).nregs = r.regs ∧
    (newThread uid tg r pvb).live = true ∧ (r.regs < 60 → (newThread uid tg r pvb).v = List.replicate r.regs 0) :=
  ⟨rfl, rfl, rfl, fun h => if_neg (by omega)⟩

/-- What a unit is at its start, with its threads. -/
theorem State.startUnit_starts (s : State) (lid idx ck : Nat) (l : Launch) :
    ∃ u, (s.startUnit lid idx ck l).unit? (unitKey lid idx) = some u ∧ u.stat = .resident ∧ u.ck = ck ∧ u.lid = lid ∧ u.idx = idx ∧
      u.g = l.desc.threads ∧ u.uni = l.args ++ [Word.ofN idx, Word.ofN l.desc.units, Word.ofN lid] ++ List.replicate 141 0 ∧ u.scr = {} ∧
      u.absent = [] ∧
      (∀ p ∈ (s.startUnit lid idx ck l).threads, p.2.uid = unitKey lid idx → ∃ r ∈ l.desc.roles, p.2.pc = r.entry ∧ p.2.nregs = r.regs ∧
        p.2.live = true ∧ (r.regs < 60 → p.2.v = List.replicate r.regs 0)) ∧ (l.desc.save = 0 → (s.startUnit lid idx ck l).mem = s.mem) := by
  unfold State.startUnit
  extract_lets d uid g
  dsimp -zeta only [State.takeSeq]
  extract_lets gangs u halted ts old kept placed noted
  obtain ⟨hunits, hthreads, hmem⟩ : noted.units = placed.units ∧ noted.threads = placed.threads ∧ noted.mem = placed.mem := placed.modLaunch_work lid _
  obtain ⟨kthreads, kmem, kunits⟩ := (noted.refresh ck).throttle_keeps ck
  have hu : (noted.refresh ck).unit? uid = some u := by
    show AMap.get? noted.units uid = some u
    rw [hunits]
    exact AMap.get?_set_same _ _ _
  obtain ⟨f, hf⟩ := kunits uid u hu
  refine ⟨_, hf, rfl, rfl, rfl, rfl, rfl, rfl, rfl, rfl, fun p hp hpu => ?_, fun hsave => ?_⟩
  · have hp' : p ∈ old ++ ts := by
      have hp' : p ∈ noted.threads := kthreads ▸ hp
      rwa [hthreads] at hp'
    rcases List.mem_append.1 hp' with hold | hnew
    · exact absurd hpu (by simpa using (List.mem_filter.1 hold).2)
    · obtain ⟨q, hq, rfl⟩ := List.mem_map.1 hnew
      obtain ⟨r, hr, k, hk⟩ := threadsFrom_mem uid d.pvb d.roles 0 q hq
      obtain ⟨hpc, hregs, hlive, hv⟩ := newThread_start uid k r d.pvb
      refine ⟨r, hr, ?_⟩
      dsimp only
      rw [hk]
      exact ⟨hpc, hregs, hlive, hv⟩
  · rw [kmem]
    refine hmem.trans ?_
    have hnone : u.save = [] := if_pos hsave
    show kept.mem = s.mem
    simp only [kept, hnone]
    rfl

/-! ## Pre-emption and resumption (R328, R344, R346) -/

/-- A unit whose save block software has left as it was is restored as it was saved. -/
theorem State.spoilUnit_intact {s : State} {uid : Nat} {u : TUnit} (hu : s.unit? uid = some u) (hs : u.saveHit = []) :
    s.spoilUnit uid = s.setUnit uid u := by
  have hsame : { u with saveHit := [] } = u := by rw [← hs]
  unfold State.spoilUnit
  rw [hu]
  dsimp only
  rw [hs, List.foldl_nil, State.modUnit_eq _ hu]
  exact congrArg (s.setUnit uid) hsame

/-- A saved unit takes its place. -/
theorem State.restoreUnit_restores {s : State} {uid : Nat} {u : TUnit} (ck : Nat) (hu : s.unit? uid = some u) (hs : u.saveHit = [])
    (hh : u.dbg.halt = false) :
    ∃ v, (s.restoreUnit uid ck).unit? uid = some v ∧ v.stat = .resident ∧ v.ck = ck ∧ v.uni = u.uni ∧ v.scr = u.scr ∧ v.obuf = u.obuf ∧
      v.bars = u.bars ∧ v.resv = u.resv ∧ v.savedOps = u.savedOps ∧ v.savedJobs = u.savedJobs ∧ v.absent = [] ∧
      (s.restoreUnit uid ck).threads = s.threads ∧ (s.restoreUnit uid ck).mem = s.mem := by
  unfold State.restoreUnit
  rw [State.spoilUnit_intact hu hs]
  extract_lets s0
  have hu0 : s0.unit? uid = some u := State.unit?_setUnit s uid u
  rw [hu0]
  dsimp -zeta only [State.takeSeq]
  extract_lets homes' gangs placed halted
  have hhalted : halted = placed := if_neg (by rw [hh]; simp)
  rw [hhalted]
  obtain ⟨kthreads, kmem, kunits⟩ := (placed.refresh ck).throttle_keeps ck
  have hplaced : placed.unit? uid = some _ := State.unit?_modUnit _ hu0
  obtain ⟨f, hf⟩ := kunits uid _ hplaced
  obtain ⟨hthreads, hmem⟩ : placed.threads = s.threads ∧ placed.mem = s.mem := by
    exact ⟨State.modUnit_threads _ uid _, State.modUnit_mem _ uid _⟩
  exact ⟨_, hf, rfl, rfl, rfl, rfl, rfl, rfl, rfl, rfl, rfl, rfl, kthreads.trans hthreads, kmem.trans hmem⟩

/-- A unit saved away takes its place once the save blocks of those that resume with it have been read. -/
theorem execResumption_takes {s s1 t : State} {uid : Nat} {u : TUnit} {l : Launch} (hu : s.unit? uid = some u) (hl : s.launchOf uid = some l)
    (hstat : u.stat = .preempted) (hturn : (s.takeIn u.lid u.idx true).isSome = true)
    (hread : s.readBlocks ((s.fellows u.lid u.idx l).filter fun x => ((s.unit? x).map (·.stat)) == some .preempted) = (true, s1))
    (ht : s1.takeIn u.lid u.idx true = some t) : execResumption uid s = .next t := by
  obtain ⟨t0, ht0⟩ := Option.isSome_iff_exists.1 hturn
  unfold execResumption
  rw [hu, hl]
  refine (if_neg (by simp [hstat, ht0])).trans ?_
  dsimp only
  rw [hread]
  dsimp only
  rw [ht]

/-- The record of the latest sparing sequence, once one of its lost units has taken its place again in a state (R369). -/
def State.countRerun (s t : State) : State := t.modHub fun h => { h with spar := { h.spar with
  rerun := h.spar.rerun + ((s.units.countP fun p => s.lostNow p.2) - (t.units.countP fun p => t.lostNow p.2)), left := t.leftWaiting } }

theorem execLostUnitRerun_takes {s t : State} {uid : Nat} {u : TUnit} (hu : s.unit? uid = some u) (hstat : u.stat = .lost)
    (ht : s.takeIn u.lid u.idx true = some t) : execLostUnitRerun uid s = .next (s.countRerun t) := by
  unfold execLostUnitRerun
  rw [hu]
  refine (if_neg (not_not.2 hstat)).trans ?_
  rw [ht]
  rfl

section
variable {s : State} {uid : Nat} {u : TUnit} {l : Launch} (hu : s.unit? uid = some u) (hl : s.launchOf uid = some l)
include hu hl

/-- A unit whose save waits tries it again. -/
theorem execPreemption_saves (hstat : u.stat = .saving) : execPreemption uid s = .next (s.saveUnit uid) := by
  unfold execPreemption
  rw [hu, hl]
  exact if_pos hstat

/-- A unit of the group that gives way first stops with its fellows, and they are saved. -/
theorem execPreemption_givesWay {p : Nat × Launch} {g : List Nat} (hstat : u.stat = .resident) (hp : p ∈ s.hub.launches)
    (hprio : l.desc.prio < p.2.desc.prio) (hclaims : s.claims p.1 p.2 = true) (hroom : (s.without []).canAdmit p.1 p.2 = false)
    (hg : s.firstVictim p.2.desc.prio = some g) (hmem : uid ∈ g) :
    let us := (s.fellows u.lid u.idx l).filter fun x => ((s.unit? x).map (·.stat)) == some .resident
    execPreemption uid s = .next (us.foldl (fun x v => x.saveUnit v) (us.foldl (fun x v => x.stopUnit v) s)) := by
  unfold execPreemption
  rw [hu, hl]
  refine (if_neg (by simp [hstat])).trans (if_neg ?_)
  rw [Bool.or_eq_true, not_or, Bool.not_eq_true', Bool.not_eq_false]
  refine ⟨by simp [hstat], List.any_eq_true.2 ⟨p, hp, ?_⟩⟩
  rw [hclaims, hroom, hg]
  simp [hprio, hmem]

end

/-! ## Cancellation (R330) -/

/-- What a cancellation of a level does. -/
def Cancellation.effect (c : Cancellation) (s : State) : State :=
  match c.level with
  | 0 => s.cancelUnit (c.id / 2 ^ 32) (c.id % 2 ^ 32)
  | 1 => s.cancelLaunch c.id
  | 2 => s.cancelGraph c.id
  | 3 => s.cancelPhase c.jid c.id
  | _ => s.cancelJob c.jid

/-- An accepted cancellation leaves the list of those that have no effect yet, and has its own. -/
theorem execCancellationTakesEffect_takes {s : State} {idx : Nat} {c : Cancellation} (h : s.hub.cancels[idx]? = some c) :
    execCancellationTakesEffect idx s = .next (c.effect (s.modHub fun h => { h with cancels := dropAt h.cancels idx })) := by
  unfold execCancellationTakesEffect
  rw [h]
  rfl

/-! ## Levels (R313, R315, R333) -/

theorem State.bump_writes {s s1 : State} {key d : Nat} {j : HJob} {va : Word} (h0 : va ≠ 0) (ha : va.toNat % 8 = 0)
    (hx : s.seqXlate key j va 8 true = (.ok d, s1)) :
    s.bump key j va = (true, (s1.seqDone key).seqStore d (leBytes 8 (leVal (s1.bytesAt 0 (.home d) 8) + 1))) := by
  unfold State.bump
  rw [if_neg h0, if_neg (not_not.2 ha), hx]

section
variable {s : State} {lid : Nat} {l : Launch} (hl : s.launch? lid = some l) (hc : l.complete = false) (hdone : l.desc.units ≤ l.done.length)
  (hquiet : s.launchQuiet lid = true)
include hl hc hdone hquiet

/-- A launch whose parts are complete, with nothing buffered, completes once its writes are performed and its mirror word is raised. -/
theorem State.completeLaunch_done {j : HJob} {s1 s2 : State} (hj : s.job? l.jid = some j) (hspec : l.desc.specv = true → l.resolved = true)
    (hb : l.spec = none) (hw : s.levelWrites (· == lid) = (true, s1)) (hbump : s1.bump (keyLevel 1 lid) j l.desc.lctr = (true, s2)) :
    s.completeLaunch lid = s2.modLaunch lid fun l => { l with complete := true } := by
  unfold State.completeLaunch
  rw [hl]
  refine (if_neg ?_).trans ?_
  · cases hv : l.desc.specv with
    | false => simp [hc, hquiet, Nat.not_lt.2 hdone]
    | true => simp [hc, hquiet, Nat.not_lt.2 hdone, hspec hv]
  · rw [hb, hj, hw]
    dsimp only
    rw [hbump]

/-- One that is committed has its next line written. -/
theorem State.completeLaunch_commits {b : SpecBuf} (hr : l.resolved = true) (hb : l.spec = some b) : s.completeLaunch lid = s.commitLine lid b := by
  unfold State.completeLaunch
  rw [hl]
  refine (if_neg (by simp [hc, hquiet, hr, Nat.not_lt.2 hdone])).trans ?_
  rw [hb]

end

/-- After the last line the buffer is given up. -/
theorem State.commitLine_last {s : State} {lid : Nat} {b : SpecBuf} (h : b.lines[b.written]? = none) : s.commitLine lid b = s.dropBuffer lid := by
  unfold State.commitLine
  rw [h]

/-- The next line goes home byte by byte, and counts as written. -/
theorem State.commitLine_next {s : State} {lid : Nat} {b : SpecBuf} {e : Nat × List (Nat × Byte)} (h : b.lines[b.written]? = some e) :
    s.commitLine lid b = (e.2.foldl (fun x y => x.seqStore (128 * e.1 + y.1) [y.2] lid) s).modLaunch lid
      fun x => { x with spec := x.spec.map fun (y : SpecBuf) => { y with written := y.written + 1 } } := by
  unfold State.commitLine
  rw [h]

/-- Parts that are all complete. -/
theorem not_any_incomplete {α : Type} {xs : List α} {f : α → Bool} (h : ∀ x ∈ xs, f x = true) : (xs.any fun x => !f x) = false := by
  rw [List.any_eq_false]
  intro x hx
  simp [h x hx]

theorem State.completeGraph_done {s s1 s2 : State} {gid : Nat} {g : Graph} {j : HJob} (hg : s.openGraph gid = some g) (hj : s.job? g.jid = some j)
    (hclosed : g.closed = true) (hparts : ∀ p ∈ s.launchesOf g.key, p.2.complete = true)
    (hw : (s.levelWrites fun lid => (s.launchesOf g.key).any fun p => p.1 == lid) = (true, s1))
    (hbump : s1.bump (keyLevel 2 g.key) j g.gctr = (true, s2)) :
    s.completeGraph gid = s2.modGraph g.key fun g => { g with complete := true } := by
  unfold State.completeGraph
  rw [hg]
  dsimp only
  rw [if_neg (by rw [not_any_incomplete hparts, hclosed]; simp), hj, hw]
  dsimp only
  rw [hbump]

/-- What the completion of a job's phase does to the job, in a state in which its mirror word is raised. -/
def State.phaseOver (s : State) (jid : Nat) (ends : Bool) : State := s.modJob jid fun j =>
  if ends then { j with phase := j.phase + 1, closing := j.cancelled, early := false } else { j with early := true }

/-- A chain waits at a PHASE entry, or at an END entry, with a job. -/
def State.atPhase (s : State) (jid : Nat) (j : HJob) : Bool := (s.chain j.chain).job == some jid && (s.chain j.chain).waitsAt ePHASE
def State.atEnd (s : State) (jid : Nat) (j : HJob) : Bool :=
  (s.chain j.chain).job == some jid && (s.chain j.chain).waitsAt eEND && !(s.phaseGraphs jid j).isEmpty

section
variable {s s1 s2 s3 : State} {jid : Nat} {j : HJob} (hj : s.job? jid = some j)
include hj

/-- A phase that is due, whose graphs are complete, is over once its boundary is made, its writes are performed and its mirror word is raised. -/
theorem State.completePhase_over (hparts : ∀ g ∈ s.graphsOf jid, g.phase = j.phase → g.complete = true) (hb : s.phaseBoundary jid = (true, s1))
    (hw : (s1.levelWrites fun lid => ((s1.launch? lid).map (·.jid)) == some jid) = (true, s2)) (hm : s2.phaseMirror jid j = (true, s3))
    (hdue : (if j.cancelled then !j.closing else (j.cancelled || s.atPhase jid j || s.atEnd jid j) ||
      (j.cancelledPhases.contains j.phase && !j.early)) = true) :
    s.completePhase jid = if !j.cancelled && s.atPhase jid j then (s3.phaseOver jid (j.cancelled || s.atPhase jid j || s.atEnd jid j)).retire j.chain
      else s3.phaseOver jid (j.cancelled || s.atPhase jid j || s.atEnd jid j) := by
  have hparts' : ((s.phaseGraphs jid j).any fun g => !g.complete) = false := not_any_incomplete fun g hg => by
    obtain ⟨hmem, hph⟩ := List.mem_filter.1 hg
    exact hparts g hmem (beq_iff_eq.1 hph)
  unfold State.completePhase
  rw [hj]
  refine (if_neg (?_ : ¬(!(if j.cancelled then !j.closing else (j.cancelled || s.atPhase jid j || s.atEnd jid j) ||
      (j.cancelledPhases.contains j.phase && !j.early)) || (s.phaseGraphs jid j).any fun g => !g.complete) = true)).trans ?_
  · rw [hdue, hparts']
    decide
  · dsimp only
    rw [hb]
    dsimp only
    rw [hw]
    dsimp only
    rw [hm]
    rfl

/-- A job whose parts are complete completes once its writes are performed and its mirror word is raised. -/
theorem State.completeJob_done (hlaunches : ∀ p ∈ s.jobLaunches jid, p.2.complete = true) (hgraphs : ∀ g ∈ s.graphsOf jid, g.complete = true)
    (hphase : s.phaseGraphs jid j = []) (hw : (s.levelWrites fun lid => ((s.launch? lid).map (·.jid)) == some jid) = (true, s1))
    (hbump : s1.bump (keyLevel 4 jid) j j.jctr = (true, s2))
    (hdue : (if j.cancelled then j.closing else (s.chain j.chain).job == some jid && (s.chain j.chain).waitsAt eEND) = true) :
    s.completeJob jid = (if j.cancelled then s2 else s2.retire j.chain).closeJob jid := by
  unfold State.completeJob
  rw [hj]
  dsimp only
  rw [hdue, not_any_incomplete hlaunches, not_any_incomplete hgraphs, hphase, if_neg (by decide), hw]
  dsimp only
  rw [hbump]

end

/-- A chain that waits at an entry of a type waits at none of another. -/
theorem Chain.waitsAt_other {c : Chain} {ty ty' : Nat} (h : c.waitsAt ty = true) (hne : ty ≠ ty') : c.waitsAt ty' = false := by
  unfold Chain.waitsAt at h ⊢
  have hty : field c.entry 0 1 = ty := beq_iff_eq.1 (Bool.and_eq_true_iff.1 h).2
  rw [hty]
  simp [hne]

theorem State.phaseMirror_early {s : State} {j : HJob} (h : j.early = true) (jid : Nat) : s.phaseMirror jid j = (true, s) := if_pos h

theorem State.phaseMirror_bumps {s : State} {j : HJob} (h : j.early = false) (jid : Nat) :
    s.phaseMirror jid j = s.bump (keyLevel 3 jid) j j.pctr := if_neg (by simp [h])

end Sys2Proof.Machine

open Sys2Proof Sys2Proof.Machine

/-- Settles O55: each event by the outcome that its condition selects. -/
theorem launchAndUnitEvents : Obligations.LaunchAndUnitEvents := by
  unfold Obligations.LaunchAndUnitEvents
  refine ⟨fun s n bs s' jid j gkey desc s1 args spec s2 h hjob hj hlid hg hva hread hr => ?_,
    fun s n bs s' jid j gkey desc s1 s2 h hjob hj hlid hg hva hread hdr hr hdbg => ⟨?_, fun hd => State.refusal_descBad hd _ _,
      fun hd hrole hf => State.refusal_args hd hrole hf⟩,
    fun s jid gkey bs args spec w v => ⟨_, rfl, AMap.get?_set_same _ _ _, rfl, rfl, rfl, rfl, rfl, beq_iff_eq, rfl, rfl, rfl, rfl⟩,
    fun s lid idx l g t hl hg hp hserved hclaims => ?_,
    fun s lid idx ck l => s.startUnit_starts lid idx ck l,
    fun s uid u l s1 t hu hl hstat hturn hread ht => execResumption_takes hu hl hstat hturn hread ht,
    fun s uid ck u hu hs hh => State.restoreUnit_restores ck hu hs hh,
    fun s uid u hu => ?_,
    fun s lid l idxs sites h => ?_,
    fun s uid u t hu hstat ht => ⟨_, execLostUnitRerun_takes hu hstat ht, rfl, rfl, rfl, rfl, rfl⟩,
    fun s uid u l hu hl => ⟨execPreemption_saves hu hl, fun p g hstat hp hprio hc hroom hg hm =>
      execPreemption_givesWay hu hl hstat hp hprio hc hroom hg hm⟩,
    fun s idx c h => ?_,
    fun s key j va d s1 h0 ha hx => State.bump_writes h0 ha hx,
    fun s uid => rfl,
    fun s lid l j s1 s2 hl hj hc hdone hspec hq hb hw hbump => congrArg Host.Outcome.next (State.completeLaunch_done hl hc hdone hq hj hspec hb hw hbump),
    fun s lid l b hl hc hdone hr hq hb => ⟨congrArg Host.Outcome.next (State.completeLaunch_commits hl hc hdone hq hr hb), State.commitLine_last,
      fun e he => State.commitLine_next he⟩,
    fun s gid g j s1 s2 hg hj hclosed hparts hw hbump => congrArg Host.Outcome.next (State.completeGraph_done hg hj hclosed hparts hw hbump),
    fun s jid j s1 s2 s3 hj hparts hb hw hm => ?_,
    fun s jid j => ⟨fun h => State.phaseMirror_early h jid, fun h => State.phaseMirror_bumps h jid⟩,
    fun s jid j s1 s2 hj hl hg hph hw hbump => ⟨fun hc hjob hwait => ?_, fun hc hclosing => ?_⟩⟩
  · intro why r
    have hwhy : (if (descOf desc).dbgp && !j.dbg then 0x20 else s2.refusalOf jid desc (.ok args spec)) = why := by
      simp only [why, Bool.and_eq_true, Bool.not_eq_true']
    have hread' := execLaunchEntry_read h hjob hj hlid hg hva hread hr (by simp)
    rw [hwhy] at hread'
    refine ⟨fun h0 => hread'.trans (congrArg _ (State.takeLaunch_refused h0 ..)), fun h0 => ?_⟩
    rw [h0] at hread'
    exact hread'
  · have hread' := execLaunchEntry_read h hjob hj hlid hg hva hread hr (by simp)
    have hpriv : ¬((descOf desc).dbgp && !j.dbg) = true := by
      cases hp : (descOf desc).dbgp with
      | false => simp
      | true => simp [hdbg hp]
    rw [if_neg hpriv, State.takeLaunch_bad] at hread'
    exact hread'
  · have hturn := State.takeIn_place hl hg hp hserved hclaims
    exact ⟨hturn, fun hb => execUnitStart_takes (hb ▸ hturn)⟩
  · unfold State.reacceptUnit
    rw [hu]
  · unfold State.placeGroup
    rw [h]
    rfl
  · have hexec : exec (.cancellationTakesEffect idx) s = _ := execCancellationTakesEffect_takes h
    refine ⟨fun hlv => ?_, fun hlv => ?_, fun hlv => ?_, fun hlv => ?_, fun hlv => ?_⟩ <;>
      exact hexec.trans (congrArg Host.Outcome.next (by simp only [Cancellation.effect, hlv]))
  · have hover := State.completePhase_over hj hparts hb hw hm
    refine ⟨fun hc hjob hwait => congrArg Host.Outcome.next ?_, fun hc hjob hwait hne => congrArg Host.Outcome.next ?_,
      fun hc hclosing => congrArg Host.Outcome.next ?_, fun hc hmem hearly hp he => congrArg Host.Outcome.next ?_⟩
    · have hat : s.atPhase jid j = true := by simp [State.atPhase, hjob, hwait]
      rw [hover (by simp [hc, hat]), hc, hat]
      rfl
    · have hat : s.atPhase jid j = false := by simp [State.atPhase, Chain.waitsAt_other hwait (by decide : eEND ≠ ePHASE)]
      have hend : s.atEnd jid j = true := by simp [State.atEnd, hjob, hwait, hne]
      rw [hover (by simp [hc, hend]), hc, hat, hend]
      rfl
    · rw [hover (by simp [hc, hclosing]), hc]
      rfl
    · have hat : s.atPhase jid j = false := by simp [State.atPhase, hp]
      have hend : s.atEnd jid j = false := by simp [State.atEnd, he]
      rw [hover (by simp [hc, hmem, hearly]), hc, hat, hend]
      rfl
  · refine congrArg Host.Outcome.next ((State.completeJob_done hj hl hg hph hw hbump ?_).trans ?_)
    · rw [hc, hjob, hwait]
      simp
    · rw [hc]
      rfl
  · refine congrArg Host.Outcome.next ((State.completeJob_done hj hl hg hph hw hbump ?_).trans ?_)
    · rw [hc, hclosing]
      simp
    · rw [hc]
      rfl

end
